-- ==== Sys2Proof/Word.lean ====
section
/-! DEFINITION. The plain data types that commands carry: bytes, descriptors, messages, flits, requesters. -/

namespace Sys2Proof

/-- One byte (R10: multi-byte values are little-endian). -/
abbrev Byte := BitVec 8

/-- One 64-bit word of a descriptor, register or message. -/
abbrev W64 := BitVec 64

/-- A 64-byte command or request descriptor as its eight 64-bit words (R97, R187): `w0` lies at byte 0x00. -/
structure Desc where
  w0 : W64 := 0
  w1 : W64 := 0
  w2 : W64 := 0
  w3 : W64 := 0
  w4 : W64 := 0
  w5 : W64 := 0
  w6 : W64 := 0
  w7 : W64 := 0
  deriving DecidableEq, Repr

/-- A requester of the object dictionary with its identity (R434). -/
inductive Requester where
  | hostPf
  | hostVf (fn : Fin 32)
  | bmc (eid : Byte)
  | peer (addr : BitVec 16)
  | firmware (core : Fin 8)
  deriving DecidableEq, Repr

/-- The side of a mailbox channel that acts (R410): a host function or a control core. -/
inductive Side where
  | host (fn : Fin 32)
  | core (k : Fin 8)
  deriving DecidableEq, Repr

/-- What a configuration request writes that the device acts on (R399, R402, R485): the function's ATS enable, the size of BAR4 as a power
of two of GiB, or the function's bus mastering. -/
inductive CfgWrite where
  | ats (on : Bool)
  | bar4 (log2 : Fin 7)
  | master (on : Bool)
  deriving DecidableEq, Repr

/-- A configuration request of a function, with what it writes that the device acts on (R403). -/
structure CfgRequest where
  fn : Fin 32
  write : Option CfgWrite := none
  deriving DecidableEq, Repr

/-- An ATS invalidation of a function, with the pages that the host's translations refuse from then on, true for writes alone (R402). -/
structure AtsInval where
  fn : Fin 32
  deny : List (BitVec 52 × Bool) := []
  deriving DecidableEq, Repr

/-- A unit of R37, by its row there, at a core. -/
structure UnitAt where
  unit : Fin 13
  core : Fin 192
  deriving DecidableEq, Repr

/-- What the world has done to memory since the last patrol read: symbols of bursts that changed, by burst, pins that died, by channel,
with the level they are stuck at (R268), and scree entries whose tag lost a bit, by core and distance from the top (R214). -/
structure MemErrors where
  bursts : List (Nat × List (Fin 72 × Byte)) := []
  dead : List (Fin 30720 × Fin 36 × Bool) := []
  tags : List (Fin 192 × Nat) := []
  deriving DecidableEq, Repr

/-- What power-good or the end of PERST# finds: the strap pins, and whether module flash can be read (R440, R443). -/
structure Latch where
  straps : BitVec 18
  flashOk : Bool := true
  deriving DecidableEq, Repr

/-- A write of an enable register of a mailbox channel: HOST_ENABLE, or CORE_ENABLE of a core, which the saddle's view alone has
(R412). -/
structure EnableWrite where
  core : Option (Fin 8) := none
  bits : BitVec 32
  deriving DecidableEq, Repr

/-- What a function reads of its windows: the dictionary window by its offset, other bytes of BAR0 or of BAR2 (R404, R405, R407). -/
inductive FnRead where
  | window (off : BitVec 23)
  | bar0 (off : BitVec 23) (len : Fin 9)
  | bar2 (off : BitVec 22) (len : Fin 9)
  deriving DecidableEq, Repr

/-- A write to the interrupt controller that sets something: SWI bits, or the register of a source (R421). -/
inductive IntcSet where
  | swi (v : Byte)
  | source (src : Fin 256) (v : BitVec 32)
  deriving DecidableEq, Repr

/-- What the host writes to an entry of the MSI-X table: the mask bit, and the message's address and data where it writes them (R405,
R419). -/
structure VecMask where
  vec : Fin 2048
  mask : Bool := false
  message : Option (W64 × BitVec 32) := none
  deriving DecidableEq, Repr

/-- What the slow sensors read: input in mV and mA over 100 ms, the coolant at the couplings in hundredths of a degree (R525, R537). -/
structure Sensors where
  mv : BitVec 32
  ma : BitVec 32 := 0
  coolantIn : BitVec 32 := 0
  coolantOut : BitVec 32 := 0
  deriving DecidableEq, Repr

/-- The two SPDM transports (R512, R515). -/
inductive Transport where
  | mctp
  | doe
  deriving DecidableEq, Repr

/-- What wakes the device from NAP (R464). -/
inductive WakeEvent where
  | doorbell
  | aperture
  | inbound
  | moltStart
  | sessionDesc
  | screeDiscard
  deriving DecidableEq, Repr

/-- Which customer policy module (R426). -/
inductive PolicyKind where
  | admission
  | scheduling
  deriving DecidableEq, Repr

/-- A policy call (R427): for a session, for a slot of a core, or of a notice. -/
inductive PolicyCall where
  | admission (sess : Fin 256)
  | scheduling (core : Fin 192) (slot : Fin 4)
  | notice (kind : PolicyKind)
  deriving DecidableEq, Repr

/-- One Kwehus protocol data unit (R444): the two header words and the data bytes. -/
structure Pdu where
  w0 : W64
  w1 : W64
  data : List Byte := []
  deriving DecidableEq, Repr

/-- One fabric message (R307): the transport header's fields and the data, each byte with its poison mark. The last two fields
stand for what a message must tell and the header has no place for: an ATOMIC_ADD's OP_TYPE (R318), and with an ACK the
fault that the acknowledged message met, as status, reason and address (R313; log entry 29). -/
structure Msg where
  dest : BitVec 16 := 0
  src : BitVec 16 := 0
  destFlow : BitVec 13 := 0
  type : BitVec 5 := 0
  route : BitVec 3 := 0
  altGw : Bool := false
  notice : Bool := false
  fseq : BitVec 32 := 0
  gen : Byte := 0
  addr : BitVec 48 := 0
  srcFlow : BitVec 13 := 0
  aux : W64 := 0
  data : List (Byte × Bool) := []
  op : BitVec 2 := 0
  /-- AUX is poisoned on the wire: the flit's POISON bit of its 16 bytes (R295, R313). -/
  auxPoison : Bool := false
  deriving DecidableEq, Repr

/-- A codeword of a port's lane that arrived with errors (R293): its number on the lane since the lanes locked, markers not counted, and
what its symbols were changed by. -/
structure Codeword where
  lane : Fin 8
  num : Nat
  errs : List (Fin 544 × BitVec 10)
  deriving DecidableEq, Repr

/-- One fabric flit (R295): its first word, its 240 payload bytes, its last word with the CRC. As it arrives: the number of its chunks
since the lanes locked, and the codewords with errors that came with it (R294). -/
structure Flit where
  w0 : W64
  payload : List Byte := []
  tail : W64 := 0
  chunk : Nat := 0
  words : List Codeword := []
  deriving DecidableEq, Repr

/-- A marker codeword as a port's receiver found it on a lane: the payload it decoded, and when it came, in ns (R293). -/
structure Marker where
  payload : BitVec 5140
  time : Nat
  deriving DecidableEq, Repr

/-- A port's lanes with the markers found on them, lane 0 first (R293). -/
structure LaneLock where
  port : Fin 8
  markers : List Marker := []
  deriving DecidableEq, Repr

/-- What the cage's CMIS memory gave (R327): whether it is readable, its CMIS revision (0x40 is 4.0), whether the module is an active one,
and the fields read. -/
structure Cmis where
  readable : Bool := false
  revision : Byte := 0x40
  active : Bool := false
  ident : Byte := 0
  modState : Byte := 0
  vendor : BitVec 128 := 0
  part : BitVec 128 := 0
  serial : BitVec 128 := 0
  deriving DecidableEq, Repr

end Sys2Proof
end

