-- ==== Sys2Proof/Syntax.lean ====
section
/-! DEFINITION. The commands: one constructor per row of spec/opcode_table.json, in the table's order.
A row that is a descriptor carries the hardware queue that holds it and the 64 bytes themselves. A row that is an
entry write carries the requester and the value. A row that is an event carries what the outside world determines. -/

namespace Sys2Proof

/-- The commands of the block, one constructor per row of the opcode table. -/
inductive Instr where
  -- descriptors (R98)
  | nop (q : Fin 65536) (d : Desc)
  | jobBegin (q : Fin 65536) (d : Desc)
  | jobEnd (q : Fin 65536) (d : Desc)
  | fence (q : Fin 65536) (d : Desc)
  | gateSet (q : Fin 65536) (d : Desc)
  | flagSet (q : Fin 65536) (d : Desc)
  | attnFwd (q : Fin 65536) (d : Desc)
  | attnBwd (q : Fin 65536) (d : Desc)
  | attnVerify (q : Fin 65536) (d : Desc)
  | teBegin (q : Fin 65536) (d : Desc)
  | teAccumulate (q : Fin 65536) (d : Desc)
  | teEnd (q : Fin 65536) (d : Desc)
  | veMap (q : Fin 65536) (d : Desc)
  | veReduce (q : Fin 65536) (d : Desc)
  | veSample (q : Fin 65536) (d : Desc)
  | veFlag (q : Fin 65536) (d : Desc)
  | vePepperSave (q : Fin 65536) (d : Desc)
  | vePepperLoad (q : Fin 65536) (d : Desc)
  | veTopkGate (q : Fin 65536) (d : Desc)
  | veUpdate (q : Fin 65536) (d : Desc)
  | dmCopy (q : Fin 65536) (d : Desc)
  | accumW40 (q : Fin 65536) (d : Desc)
  | dmCollective (q : Fin 65536) (d : Desc)
  | dmPut (q : Fin 65536) (d : Desc)
  | dmGet (q : Fin 65536) (d : Desc)
  | dmAtomicAdd (q : Fin 65536) (d : Desc)
  | dmDispatch (q : Fin 65536) (d : Desc)
  | dmScreePush (q : Fin 65536) (d : Desc)
  | dmScreePop (q : Fin 65536) (d : Desc)
  | dmMoltSegment (q : Fin 65536) (d : Desc)
  | dmDigest (q : Fin 65536) (d : Desc)
  -- sequencer, engines, monitors
  | commandComplete (q : Fin 65536)
  | gateClaim (core : Fin 192) (eng : Fin 7) (waited : Nat)
  | teYield (core : Fin 192) (te : Fin 4)
  | phaseGateUnit (u : UnitAt)
  | monClear (r : Requester) (tid : BitVec 16)
  | readIndexWrite (r : Requester) (ctx : Fin 1024) (v : BitVec 32)
  | telemRingConfig (r : Requester) (ctx : Fin 1024) (size : Bool) (v : W64)
  | accSplitWrite (r : Requester) (v : BitVec 32)
  | pepperSeedWrite (r : Requester) (ctx : Fin 1024) (v : W64)
  | pepperReadyDone (ctx : Fin 1024)
  -- rollout
  | sessionOpen (r : Requester) (sess : Fin 256) (v : W64)
  | sessionCheckDone (sess : Fin 256)
  | sessionFree (r : Requester) (sess : Fin 256)
  | stepReadWrite (r : Requester) (sess : Fin 256) (v : BitVec 32)
  | admitReq (q : Fin 65536) (d : Desc)
  | cancel (q : Fin 65536) (d : Desc)
  | close (q : Fin 65536) (d : Desc)
  | stepCommit (sess : Fin 256)
  | stepRelease (sess : Fin 256)
  -- learn
  | screeDiscard (r : Requester) (core : Byte)
  | splitGradWrite (r : Requester) (entry : Fin 64) (v : BitVec 256)
  | lbrStreamWrite (r : Requester) (stream : Fin 64) (v : BitVec 256)
  | lbrDeadline (stream : Fin 64)
  -- stack memory
  | patrolScrub (stack : Fin 20) (channel : Fin 1536) (location : Nat) (burst : Fin 2) (errs : MemErrors)
  | poisonReport (dpa : Nat)
  | stackTempSample (stack : Fin 20) (t0 t1 t2 t3 : Int)
  | loopbackStart (r : Requester) (v : BitVec 32)
  | loopbackDone (results : List (Nat × W64))
  -- fabric ports
  | portEnable (r : Requester) (v : Byte)
  | cmisReadDone (port : Fin 8) (c : Cmis)
  | holdoffExpire (port : Fin 8)
  | lanesLocked (l : LaneLock)
  | trainingTimeout (port : Fin 8)
  | creditInit (port : Fin 8)
  | creditInitTimeout (port : Fin 8)
  | ident (port : Fin 8) (addr : BitVec 16) (peerPort : Byte) (serial : W64)
  | identResend (port : Fin 8)
  | dataFlit (port : Fin 8) (f : Flit)
  | retry (port : Fin 8) (f : Flit)
  | retryResend (port : Fin 8)
  | laneLockLost (port : Fin 8) (lane : Fin 8)
  | signalLoss (port : Fin 8)
  | cablePlugged (port : Fin 8)
  | portReset (r : Requester) (v : Byte)
  | peerExpectWrite (r : Requester) (port : Fin 8) (v : BitVec 32)
  | messageRoute (m : Msg)
  | messageAgeDiscard (port : Fin 8)
  -- fabric messages
  | put (m : Msg)
  | getReq (m : Msg)
  | getResp (m : Msg)
  | atomicAdd (m : Msg)
  | atomicResp (m : Msg)
  | ack (m : Msg)
  | nack (m : Msg)
  | noticeOnly (m : Msg)
  | noticePost (flow : Fin 8192)
  | coll (m : Msg)
  | lbr (m : Msg)
  | kwehus (m : Msg)
  | openFlow (m : Msg)
  | flowAbort (m : Msg)
  | ackTimer (flow : Fin 8192)
  | nackTimer (flow : Fin 8192)
  | retransmitTimeout (flow : Fin 8192)
  | openResend (flow : Fin 8192)
  | flowCfgWrite (r : Requester) (flow : Fin 8192) (v : BitVec 256)
  | collGroupWrite (r : Requester) (group : Fin 64) (v : BitVec 4224)
  -- molt and weights
  | moltStart (r : Requester) (v : W64)
  | moltCheckDone
  | moltSegmentIssue
  | moltData (m : Msg)
  | segEnd (m : Msg)
  | srcDone (m : Msg)
  | refetch (m : Msg)
  | moltReady (m : Msg)
  | moltCommit (m : Msg)
  | moltAbort (m : Msg)
  | moltFail (m : Msg)
  | repairReq (m : Msg)
  | segmentMissingTimeout (seg : Nat)
  | moltReadySend
  | moltDeadline
  | moltInDoubtTimeout
  | moltResolveCommit (r : Requester)
  | moltResolveAbort (r : Requester)
  | versionRelease (r : Requester) (model : Fin 256) (v : BitVec 16)
  | scrubPass
  | repairAttempt (model : Fin 256) (version : BitVec 16) (seg : BitVec 32)
  -- contexts and slots
  | ptRootWrite (r : Requester) (ctx : Fin 1024) (v : W64)
  | ctxReset (r : Requester) (ctx : Fin 1024) (v : Byte)
  | ptInvalidate (r : Requester) (ctx : Fin 1024) (v : Byte)
  | tidOwnerWrite (r : Requester) (tid : Fin 16384) (v : BitVec 16)
  | queueCfgWrite (r : Requester) (q : Fin 65536) (v : BitVec 256)
  | ctxAdminWrite (r : Requester) (ctx : Fin 1024) (v : BitVec 32)
  | teardownEnd (ctx : Fin 1024)
  | sliceEnd (core : Fin 192) (slot : Fin 4)
  | earlyYield (core : Fin 192) (slot : Fin 4)
  | rotation (core : Fin 192) (slot : Fin 4) (deferredNs : Nat)
  | bundleLong (q : Fin 65536)
  | bundleOverrun (q : Fin 65536)
  | cmdWatchdog (core : Fin 192) (eng : Fin 7)
  -- host interface
  | functionLevelReset (fn : Fin 32)
  | doorbell (fn : Fin 32) (q : Fin 65536) (v : BitVec 32)
  | apertureRead (off : BitVec 36) (len : Fin 4097)
  | apertureWrite (off : BitVec 36) (data : List Byte) (ep : Bool)
  | atsInvalidation (a : AtsInval)
  | mbxClaim (side : Side) (ch : Fin 64)
  | mbxUnclaim (side : Side) (ch : Fin 64)
  | mbxPost (side : Side) (ch : Fin 64)
  | mbxRelease (side : Side) (ch : Fin 64)
  | mbxWithdraw (side : Side) (ch : Fin 64)
  | dbSet (side : Side) (ch : Fin 64) (v : BitVec 32)
  | doorbellClear (side : Side) (ch : Fin 64) (v : BitVec 32)
  | hostEnableWrite (side : Side) (ch : Fin 64) (w : EnableWrite)
  | mbxTimeout (ch : Fin 64)
  | claimNormal (k : Fin 8)
  | claimFast (k : Fin 8)
  | eoi (k : Fin 8) (src : Byte)
  | swiSet (w : IntcSet)
  | swiClear (v : Byte)
  | fastInterrupt (k : Fin 8)
  | normalInterrupt (k : Fin 8)
  | mret (k : Fin 8)
  | policyLoad (r : Requester) (kind : PolicyKind) (v : W64)
  | admissionCall (sess : Fin 256) (order : List Nat) (skip : Bool)
  | schedulingCall (core : Fin 192) (slot : Fin 4) (choice : Int)
  | noticeCall (kind : PolicyKind) (ch : Fin 64)
  | policyEcall (kind : PolicyKind) (a7 : W64) (ch : Fin 64) (data : List Byte)
  | policyCallTimeout (call : PolicyCall)
  -- dictionary
  | read (r : Requester) (p : Pdu)
  | write (r : Requester) (p : Pdu)
  | info (r : Requester) (p : Pdu)
  | next (r : Requester) (p : Pdu)
  | windowSlotWrite (fn : Fin 32) (off : BitVec 23) (data : List Byte)
  | accessPortRead (fn : Fin 32)
  | accessPortWrite (fn : Fin 32)
  | accessPortInfo (fn : Fin 32)
  | accessPortNext (fn : Fin 32)
  | entryWrite (r : Requester) (index : BitVec 16) (sub : Byte) (data : List Byte)
  | cfgLockTake (r : Requester)
  | cfgLockRelease (r : Requester)
  | cfgLeaseLapse
  | stagingLapse (r : Requester)
  | storeFactory (r : Requester) (v : Byte)
  | setEndpointId (eid : Byte)
  | getEndpointId
  | getMctpVersionSupport (msgType : Byte)
  | getMessageTypeSupport
  | getVendorDefinedMsgSupport (selector : Byte)
  -- SPDM
  | getVersion (tp : Transport)
  | getCapabilities (tp : Transport)
  | negotiateAlgorithms (tp : Transport) (asym hash measHash measSpec : Bool)
  | getDigests (tp : Transport)
  | getCertificate (tp : Transport) (slot : Fin 8) (off len : BitVec 16)
  | challenge (tp : Transport) (slot : Fin 8) (nonce : BitVec 256)
  | getMeasurements (tp : Transport) (index : Byte) (signed : Bool) (nonce : BitVec 256)
  | respondIfReady (tp : Transport) (token : Byte)
  | spdmUnsupportedRequest (tp : Transport) (code : Byte)
  -- power, clocks, resets
  | stateReqWake (r : Requester)
  | stateReqNap (r : Requester)
  | stateReqDeep (r : Requester)
  | napEntryDone
  | napWakeEvent (e : WakeEvent)
  | memoryWakeDone
  | columnClockGate (col : Fin 16)
  | columnPowerOff (col : Fin 16)
  | columnWake (col : Fin 16)
  | governorTick (p a : Nat) (mv10 : Nat) (slow : Sensors)
  | clockChange (col : Fin 16)
  | dieTempSample (col : Fin 16) (t : Int)
  | thermalCeilingStep (target : Fin 18)
  | powerOn (latch : Latch)
  | powerLoss
  | inputOvervoltage
  | perstAssert
  | perstDeassert (latch : Latch)
  | warmReset (r : Requester)
  | saddleRestart (r : Requester)
  | firmwareWatchdog
  | memoryTrainingDone (failed : List (Fin 30720))
  | bootVerify
  | deviceReady
  -- trust
  | fwChunk (r : Requester) (data : List Byte)
  | fwUpdate (r : Requester) (v : W64)
  | fwSvnCommit (r : Requester) (v : Byte)
  | keySlotWrite (r : Requester) (slot : Fin 8) (v : BitVec 640)
  | enrollFreeze (r : Requester) (v : Byte)
  | debugUnlock (r : Requester) (token : BitVec 768)
  | debugRelock (r : Requester) (v : Byte)
  -- faults and service
  | errwinDrain (src : Byte)
  | errwinClear (r : Requester) (v : BitVec 16)
  | evtRingWrite (r : Requester) (fn : Fin 32) (v : BitVec 128)
  | fatalEnter (cause : Byte) (detail : BitVec 40)
  | cairnComplete
  | cairnTimeout
  | serviceButtonPress
  | drainComplete
  | drainTimeout
  | drainPortsDisable
  | serviceCancel (r : Requester) (v : Byte)
  | latchOpen
  | handlePadTouch
  | portLightTimeout (port : Fin 8)
  | signalDetect (port : Fin 8)
  | idleFlit (port : Fin 8) (f : Flit)
  | pcieHotReset
  | pcieLinkChange (up : Bool)
  | pcieConfigRequest (c : CfgRequest)
  | msixUnmask (fn : Fin 32) (w : VecMask)
  | flrComplete (fn : Fin 32)
  | saddleRestartDone
  | fwUpdateDone (flashOk : Bool)
  | storeWriteCommitted
  | reservedOpcode (q : Fin 65536) (d : Desc)
  | reservedRequest (q : Fin 65536) (d : Desc)
  | windowSlotRead (fn : Fin 32) (what : FnRead)
  | mbxMsgWrite (side : Side) (ch : Fin 64) (off : Fin 256) (data : List Byte)
  | machineTimerInterrupt (k : Fin 8)
  | scrubSegmentCheck (model : Fin 256) (version : BitVec 16) (seg : BitVec 32)
  | partitionTokenRefill (part : Fin 16) (east : Bool) (tokens waitedNs : Nat)
  | kwehusResend (tag : Byte)
  deriving DecidableEq, Repr

end Sys2Proof
end

