-- ==== Sys2Proof/Machine/Bits.lean ====
section
/-! DEFINITION. Bit fields, byte order and finite maps: the helpers that every meaning uses (R10). -/

namespace Sys2Proof.Machine

/-- Bits `lo` to `lo + len - 1` of a value (R10). -/
def bits (v lo len : Nat) : Nat := (v >>> lo) % 2 ^ len

/-- One bit of a value. -/
def bit (v i : Nat) : Bool := v.testBit i

/-- The value with bits `lo` to `lo + len - 1` replaced. -/
def setBits (v lo len x : Nat) : Nat := (v ^^^ (bits v lo len <<< lo)) ^^^ ((x % 2 ^ len) <<< lo)

/-- 0 or 1. -/
def b2n (b : Bool) : Nat := if b then 1 else 0

/-- The little-endian value of bytes (R10). -/
def leNat : List Byte → Nat
  | [] => 0
  | b :: bs => b.toNat + 256 * leNat bs

/-- The `n` little-endian bytes of a value (R10). -/
def leBytes : Nat → Nat → List Byte
  | 0, _ => []
  | n + 1, v => BitVec.ofNat 8 v :: leBytes n (v >>> 8)

/-- The value's bytes in a list, none poisoned. -/
def cleanBytes (n v : Nat) : List (Byte × Bool) := (leBytes n v).map fun b => (b, false)

/-- Bytes without their poison marks. -/
def dataOf (bs : List (Byte × Bool)) : List Byte := bs.map Prod.fst

/-- Some byte carries poison. -/
def anyPoison (bs : List (Byte × Bool)) : Bool := bs.any Prod.snd

/-- A field lies within one word: sum of widths given as (low bit, length) pairs names reserved bits; all of them are 0. -/
def zeroBits (v : Nat) (fs : List (Nat × Nat)) : Bool := fs.all fun f => bits v f.1 f.2 == 0

/-- Two's complement reading of `n` bits. -/
def sInt (n v : Nat) : Int := if v.testBit (n - 1) then (v : Int) - 2 ^ n else v

/-- `n` bits of an integer in two's complement. -/
def ofInt (n : Nat) (x : Int) : Nat := (x % (2 ^ n : Int)).toNat

/-- Division rounding up. -/
def cdiv (a b : Nat) : Nat := (a + b - 1) / b

/-- Word `k` of a descriptor or record, 0 to 7. -/
def Desc.w (d : Desc) (k : Nat) : Nat :=
  match k with
  | 0 => d.w0.toNat
  | 1 => d.w1.toNat
  | 2 => d.w2.toNat
  | 3 => d.w3.toNat
  | 4 => d.w4.toNat
  | 5 => d.w5.toNat
  | 6 => d.w6.toNat
  | _ => d.w7.toNat

/-- A field of a descriptor, given as in the spec's field maps: byte offset of the 64-bit word, low bit, length. -/
def dfld (d : Desc) (off lo len : Nat) : Nat := bits (Desc.w d (off / 8)) lo len

/-- The descriptor's 64 bytes. -/
def descBytes (d : Desc) : List Byte := (List.range 8).flatMap fun k => leBytes 8 (Desc.w d k)

/-- The descriptor that 64 bytes hold. -/
def descOf (bs : List Byte) : Desc :=
  let w (k : Nat) : W64 := BitVec.ofNat 64 (leNat ((bs.drop (8 * k)).take 8))
  ⟨w 0, w 1, w 2, w 3, w 4, w 5, w 6, w 7⟩

/-- The value at a key of a finite map. -/
def tget {α : Type} (t : List (Nat × α)) (k : Nat) : Option α := (t.find? fun p => p.1 == k).map Prod.snd

/-- The value at a key, or a default. -/
def tgetD {α : Type} (t : List (Nat × α)) (k : Nat) (d : α) : α := (tget t k).getD d

/-- A finite map with a key set; the keys stay rising. -/
def tset {α : Type} : List (Nat × α) → Nat → α → List (Nat × α)
  | [], k, v => [(k, v)]
  | (k', v') :: r, k, v =>
    if k < k' then (k, v) :: (k', v') :: r
    else if k = k' then (k, v) :: r
    else (k', v') :: tset r k v

/-- A finite map without a key. -/
def tdel {α : Type} (t : List (Nat × α)) (k : Nat) : List (Nat × α) := t.filter fun p => p.1 != k

/-- A finite map with the entry of a key changed. -/
def tmod {α : Type} (t : List (Nat × α)) (k : Nat) (d : α) (f : α → α) : List (Nat × α) := tset t k (f (tgetD t k d))

/-- A set held as a list without repeats: one element added. -/
def sadd {α : Type} [BEq α] (l : List α) (x : α) : List α := if l.contains x then l else l ++ [x]

/-- A set held as a list: one element removed. -/
def sdel {α : Type} [BEq α] (l : List α) (x : α) : List α := l.filter fun y => !(y == x)

/-- The list with element `i` replaced. -/
def lset {α : Type} : List α → Nat → α → List α
  | [], _, _ => []
  | _ :: r, 0, v => v :: r
  | x :: r, i + 1, v => x :: lset r i v

/-- All results, or the first error. -/
def exAll {ε α : Type} : List (Except ε α) → Except ε (List α)
  | [] => .ok []
  | .error e :: _ => .error e
  | .ok a :: r => match exAll r with
    | .error e => .error e
    | .ok l => .ok (a :: l)

/-- Integer logarithm to base 2, 0 for 0. -/
def log2n (n : Nat) : Nat := Nat.log2 n

end Sys2Proof.Machine
end

