-- ==== Sys2Proof/Machine/Galois.lean ====
section
/-! DEFINITION. Binary fields and the Reed-Solomon codes over them: that of stack memory (R268), that of the fabric's lanes (R293), and the
field of the fold digest (R351). -/

namespace Sys2Proof.Machine

/-- A binary field: its degree, and its polynomial with the leading term. -/
structure GF where
  deg : Nat
  poly : Nat
  deriving DecidableEq, Repr

/-- The field of the memory channels: x⁸ + x⁴ + x³ + x² + 1 (R268). -/
def gf8 : GF := ⟨8, 0x11D⟩

/-- The field of the lanes' code: x¹⁰ + x³ + 1 (R293; log entry 96). -/
def gf10 : GF := ⟨10, 0x409⟩

/-- The field of the fold digest: x¹²⁸ + x⁷ + x² + x + 1 (R351). -/
def gf128 : GF := ⟨128, 2 ^ 128 + 0x87⟩

/-- An element times x. -/
def GF.double (F : GF) (a : Nat) : Nat := if a.testBit (F.deg - 1) then (2 * a) ^^^ F.poly else 2 * a

/-- The product by the bits of the second factor, highest first. -/
def GF.mulBits (F : GF) (a b : Nat) : Nat → Nat → Nat
  | 0, acc => acc
  | k + 1, acc => F.mulBits a b k (F.double acc ^^^ (if b.testBit k then a else 0))

/-- The product of two elements. -/
def GF.mul (F : GF) (a b : Nat) : Nat := F.mulBits a b F.deg 0

/-- The inverse of an element that is not zero: its power 2^deg − 2, by squares. -/
def GF.inv (F : GF) (a : Nat) : Nat :=
  ((List.range (F.deg - 1)).foldl (fun (p : Nat × Nat) _ => let sq := F.mul p.1 p.1; (sq, F.mul p.2 sq)) (a, 1)).2

/-- The powers of α = x. -/
def GF.alpha (F : GF) : Nat → Nat
  | 0 => 1
  | i + 1 => F.double (F.alpha i)

/-- Two lists of symbols added. -/
def symAdd (a b : List Nat) : List Nat := List.zipWith (· ^^^ ·) a b

/-- A polynomial, highest coefficient first, times (x − a). -/
def GF.timesRoot (F : GF) (p : List Nat) (a : Nat) : List Nat := symAdd (p ++ [0]) (0 :: p.map (F.mul a))

/-- The generator Π (x − αⁱ), i below the number of check symbols, highest coefficient first. -/
def GF.generator (F : GF) (n : Nat) : List Nat := (List.range n).foldl (fun g i => F.timesRoot g (F.alpha i)) [1]

/-- The check symbols of data symbols, check symbol 0 first: the remainder of the data times xⁿ by the generator. -/
def GF.check (F : GF) (n : Nat) (data : List Nat) : List Nat :=
  let g := (F.generator n).drop 1
  data.foldl (fun r d => let f := d ^^^ r.headD 0; symAdd (r.drop 1 ++ [0]) (g.map (F.mul f))) (List.replicate n 0)

/-- The codeword of data symbols, the first one the highest coefficient. -/
def GF.codeword (F : GF) (n : Nat) (data : List Nat) : List Nat := data ++ F.check n data

/-- The syndromes of a word: its values at αⁱ, i below the number of check symbols. -/
def GF.syndromes (F : GF) (n : Nat) (word : List Nat) : List Nat :=
  (List.range n).map fun i => word.foldl (fun acc c => F.mul acc (F.alpha i) ^^^ c) 0

end Sys2Proof.Machine
end

