-- ==== Sys2Proof/Machine/Channel.lean ====
section
/-! DEFINITION. The channel code of stack memory (R268 to R272): the codeword of a burst, how it lies on the pins, and what the
decoder makes of a word it reads. -/

namespace Sys2Proof.Machine

/-- The codeword of a burst's 64 data bytes, RS(72, 64): symbol j is the coefficient of x^(71 − j) (R268). -/
def rsWord (data : List Nat) : List Nat := gf8.codeword 8 data

/-- The pins that carry some symbols, each once: pin p carries symbols 2p and 2p + 1. -/
def pinsOf (syms : List Nat) : List Nat := (syms.map (· / 2)).eraseDups

/-- A word read through pins stuck at a level: both symbols of such a pin read all zeros or all ones. -/
def throughPins (stuck : List (Nat × Bool)) (word : List Nat) : List Nat :=
  word.zipIdx.map fun p => match stuck.find? fun x => x.1 == p.2 / 2 with
    | some (_, level) => if level then 0xFF else 0
    | none => p.1

/-! ### Decoding (R269, R270, R272) -/

/-- What a poisoned burst's check symbols are changed by, as a pattern over the word (R272). -/
def poisonPattern : List Nat := List.replicate 64 0 ++ [0x5A, 0x3C, 0xC3, 0xA5, 0x96, 0x69, 0x0F, 0xF0]

/-- The symbols at which a pattern is not zero. -/
def badSymbols (pattern : List Nat) : List Nat := (pattern.zipIdx.filter fun p => p.1 != 0).map Prod.snd

/-- The decoder corrects these erroneous symbols: at most two anywhere or up to four within two pins, and on a channel with erased pins
theirs and those of one further pin (R269, R270). -/
def correctable (erased syms : List Nat) : Bool :=
  let rest := syms.filter fun y => !erased.contains (y / 2)
  if erased.isEmpty then syms.length ≤ 2 || (syms.length ≤ 4 && (pinsOf syms).length ≤ 2)
  else (pinsOf rest).length ≤ 1

/-- The pairs of pins among which the decoder looks for errors: any two; with erased pins, these and one further pin (R269, R270). -/
def supports (erased : List Nat) : List (List Nat) :=
  let pins := List.range 36
  if erased.isEmpty then (pins.flatMap fun p => ((List.range p).map fun q => [q, p])) else pins.map fun p => (p :: erased).eraseDups

/-- The locator of a symbol: symbol y is the coefficient of x^(71 − y). -/
def locator (y : Nat) : Nat := gf8.alpha (71 - y)

/-- A polynomial, highest coefficient first, applied to the syndromes from one of them on. -/
def applyPoly (p : List Nat) (synd : List Nat) (shift : Nat) : Nat :=
  (p.reverse.zip (synd.drop shift)).foldl (fun acc x => acc ^^^ gf8.mul x.1 x.2) 0

/-- The only pattern on some symbols that has these syndromes, where there is one: the polynomial with the symbols' locators as roots
cancels the syndromes, and without one of them gives that symbol's value. -/
def solveOn (syms : List Nat) (synd : List Nat) : Option (List Nat) :=
  let poly (l : List Nat) : List Nat := l.foldl (fun p y => gf8.timesRoot p (locator y)) [1]
  let all := poly syms
  if (List.range (8 - syms.length)).any fun t => applyPoly all synd t != 0 then none else
  some ((List.range 72).map fun y =>
    if !syms.contains y then 0 else
    let q := poly (syms.filter (· != y))
    gf8.mul (applyPoly q synd 0) (gf8.inv (q.foldl (fun acc c => gf8.mul acc (locator y) ^^^ c) 0)))

/-- A pattern within the decoder's reach that has these syndromes, where there is one. -/
def findError (erased synd : List Nat) : Option (List Nat) :=
  (supports erased).findSome? fun pins => solveOn (pins.flatMap fun p => [2 * p, 2 * p + 1]) synd

/-- What a burst reads as: clean; corrected, with those symbols; poisoned, with what its data bytes are changed by and the symbols that
were corrected; or uncorrectable. -/
inductive ReadAs where
  | clean
  | corrected (syms : List Nat)
  | poisoned (change : List Nat) (syms : List Nat)
  | lost
  deriving DecidableEq, Repr

/-- What the decoder makes of a word that differs by a pattern from the codeword of its data: a pattern within its reach is corrected; a
word whose syndrome is that of the poison pattern, or differs from it by that of a pattern within reach, is poisoned; any other is
uncorrectable (R269, R270, R272; log entry 114). -/
def readPattern (erased pattern : List Nat) : ReadAs :=
  let syms := badSymbols pattern
  let rest := symAdd pattern poisonPattern
  if syms.isEmpty then .clean
  else if correctable erased syms then .corrected syms
  else if correctable erased (badSymbols rest) then .poisoned [] (badSymbols rest)
  else match findError erased (gf8.syndromes 8 rest) with
    | some e => .poisoned ((symAdd pattern e).take 64) (badSymbols e)
    | none => .lost

end Sys2Proof.Machine
end

