-- ==== Sys2Proof/Config.lean ====
section
/-! DEFINITION. What a part is fused or built with, what its standards outside the spec compute, and the free values
the spec leaves open. The constants are opaque: no proof can see a value, so a claim holds whatever it is. -/

namespace Sys2Proof.Config

/-- A free value (log entry 2): draw number `n` of the machine, with nothing constraining it. -/
opaque freeValue : Nat → Nat

/-- A free result of an operation the spec leaves open for some operands: operation code, then operands (log entry 2). -/
opaque freeResult : Nat → Nat → Nat → Nat

/-- SERIAL as fused (R456, log entry 5). -/
opaque serial : Nat

/-- STEPPING as fused (R456, log entry 5). -/
opaque stepping : Nat

/-- The SM3 digest of a byte string as 256 bits, first digest byte in bits 7 to 0 (R337, R499; log entry 5). -/
opaque sm3 : List Byte → Nat

/-- The rollback counter as fused: how many of its 64 fuses are burned (R498, log entry 5). -/
opaque svnFuse : Fin 65

/-- The device identity public key as fused (R498, R519, log entry 5). -/
opaque identityPub : Nat

/-- The vendor root public key as fused (R498, R519, log entry 5). -/
opaque rootPub : Nat

/-- SM2 signature verification: public key, digest, signature (R499, log entry 5). -/
opaque sm2Verify : Nat → Nat → Nat → Bool

/-- SM2 signing with the device identity key: the transcript digest gives 64 bytes (R513, log entry 5). -/
opaque sm2Sign : Nat → Nat

/-- The firmware image that a module ships with in a flash copy (R502, log entry 5). -/
opaque shipped : Nat → List Byte

/-- The SM3 digest of the boot ROM (R511, log entry 5). -/
opaque bootRom : Nat

/-- The part of a certificate that is signed, before and after the subject's key and serial number: its names and other contents, which
the spec leaves open, by issuer and subject (R514, log entry 5). -/
opaque certHead : Nat → List Byte
opaque certTail : Nat → List Byte

/-- SM2 signing with the vendor root's private key, at manufacture (R514, log entry 5). -/
opaque rootSign : Nat → Nat

/-- A key is a valid point of the SM2 curve (R508, log entry 5). -/
opaque sm2Point : Nat → Bool

end Sys2Proof.Config
end

