-- ==== Sys2Proof/Machine/State.lean ====
section
/-! DEFINITION. The state of the block as plain data: the waiting commands, the dictionary entries as the register
file, the three byte stores, and everything that is no dictionary entry. -/

namespace Sys2Proof.Machine

/-- A finite map from numbers, as a list with rising keys. -/
abbrev Tab (α : Type) := List (Nat × α)

/-- Bytes that a read finds, each with its poison mark (R273). -/
abbrev PBytes := List (Byte × Bool)

/-- A byte store in canonical form: addresses strictly rising and no zero byte listed (an unlisted byte reads 0,
log entry 3); `poison` lists the poisoned places, rising. -/
structure Store where
  bytes : List Host.Cell := []
  poison : List Nat := []
  deriving DecidableEq, Repr

/-- Why an access in a context's address space fails: a translation reason of R146 with the address, or a BANK page reached
by another path (R228). -/
inductive Flt where
  | xl (reason addr : Nat)
  | bank (addr : Nat)
  deriving DecidableEq, Repr

/-! ### Cores (01, 03, 04, 12) -/

/-- A credit gate (R107). -/
structure Gate where
  cap : Nat := 0
  credits : Nat := 0
  filled : Nat := 0
  deriving DecidableEq, Repr

/-- One accumulator value or reduction row: a W40 code (R49), its column index (R91) and its poison (R93). -/
structure AccCell where
  v : Nat
  idx : Nat := 0
  poison : Bool := false
  deriving DecidableEq, Repr

/-- An accumulation group (R79, R81): cells by (partial × M + row) × 64 + column for SUM, by row for MAX and MIN;
an unlisted cell is empty. -/
structure Group where
  mode : Nat := 0
  split : Nat := 1
  sparse : Bool := false
  m : Nat := 1
  row : Nat := 0
  t : Nat := 0
  cells : Tab AccCell := []
  deriving DecidableEq, Repr

/-- Counts of one command under one tensor ID (R63): elements, zeros, saturated, non-finite, flushed, NaN blocks,
poisoned. -/
structure MonDelta where
  el : Nat := 0
  ze : Nat := 0
  sa : Nat := 0
  nf : Nat := 0
  fl : Nat := 0
  nb : Nat := 0
  po : Nat := 0
  deriving DecidableEq, Repr

/-- A tensor monitor: its totals and its recorded shadow (R64, R65). -/
structure Mon where
  tot : MonDelta := {}
  shadow : MonDelta := {}
  deriving DecidableEq, Repr

/-- A dispatched command that has not retired (R103, R108). -/
structure Cmd where
  q : Nat
  idx : Nat
  d : Desc
  ctx : Nat
  core : Nat
  /-- The WAIT claim is made. -/
  waited : Bool := false
  /-- Serial number of the bundle run it belongs to in its stream, 0 for none (R116). -/
  bun : Nat := 0
  /-- The STREAM claim of the next piece is made. -/
  streamed : Bool := false
  /-- The POST credits of the next piece are taken. -/
  posted : Bool := false
  started : Bool := false
  yielded : Bool := false
  /-- The next tile or row, and the present ones done so far. -/
  piece : Nat := 0
  present : Nat := 0
  res2 : Nat := 0
  mon : MonDelta := {}
  poison : Bool := false
  /-- What a fabric command has sent and waits for (R311). -/
  waitOps : List Nat := []
  /-- Requests of its piece stand in a memory interface's crossing (R261). -/
  asked : Bool := false
  /-- Its place in the order in which the sequencers dispatched. -/
  ser : Nat := 0
  /-- The tile mask a TE_ACCUMULATE read as it was taken up (R72). -/
  mask : PBytes := []
  /-- Scree commands: the place and bytes dispatch fixed, and the commands that must retire first, by their places in the order of
  dispatch (R217). -/
  place : Nat := 0
  bytes : Nat := 0
  after : List Nat := []
  deriving DecidableEq, Repr

/-- A command of a stream between dispatch and completion (R104), with what its record will say (R145). -/
structure Fly where
  idx : Nat
  d : Desc
  done : Bool := false
  status : Nat := 0
  reason : Nat := 0
  res : Nat := 0
  res2 : Nat := 0
  poison : Bool := false
  epoch : Nat := 0
  time : Nat := 0
  bun : Nat := 0
  /-- Its place in the order of dispatch. -/
  ser : Nat := 0
  /-- For a FENCE: the commands it waits for, by their places in the order of dispatch, and the molt, by its number (R119, R396). -/
  fence : List Nat := []
  fenceMolt : Option Nat := none
  deriving DecidableEq, Repr

/-- The stream of one hardware queue (R101): the index of the next descriptor, the commands dispatched and not
complete, the open job and the open bundle. -/
structure Stream where
  next : Nat := 0
  fly : List Fly := []
  jobOpen : Bool := false
  jobLearn : Bool := false
  /-- The open bundle's identifier (0 none) and its members so far (R116). -/
  bundle : Nat := 0
  bundleLen : Nat := 0
  /-- Serial number of the last bundle run begun, and the runs that have started and have a member that has not retired (R116, R390). -/
  bun : Nat := 0
  bunOn : List Nat := []
  /-- The bundle run already counted in BUNDLES_LONG (R390). -/
  bunLong : Nat := 0
  deriving DecidableEq, Repr

/-- A descriptor that a slot has fetched: its queue and index, its bytes, or the fault that the fetch met (R384, R386). -/
structure Fetched where
  q : Nat
  idx : Nat
  bytes : PBytes := []
  flt : Option Flt := none
  deriving DecidableEq, Repr

/-- What a context keeps on a core: the slot-local state, which moves with it (R101, R111), its fetch buffer and its saved
commands (R388). -/
structure CtxCore where
  gates : Tab Gate := []
  flags : Tab Nat := []
  pepper : Tab Nat := []
  /-- Open groups as dispatch sees them (R100), by TE × 8 + group. -/
  dgrp : Tab Group := []
  /-- Groups that fused commands hold until they retire, with the command's queue and index (R100, R162). -/
  held : List (Nat × Nat × Nat × Group) := []
  /-- Open groups as the TEs have them. -/
  grp : Tab Group := []
  /-- Commands saved at a rotation, in the order of their dispatch (R388). -/
  saved : List Cmd := []
  /-- Descriptors fetched and not dispatched, oldest first (R386). -/
  fetch : List Fetched := []
  deriving DecidableEq, Repr

/-- A teardown under way (R392, R393): the faulting command with its status, or none for a context reset or a fault
of R394; `reset` says that a context reset runs. -/
structure Tear where
  reset : Bool := false
  /-- Queue, index, status, reason, RESULT and RESULT2 of the faulting command. -/
  fault : Option (Nat × Nat × Nat × Nat × Nat × Nat) := none
  /-- Recovery epoch and local time of step 1. -/
  epoch : Nat := 0
  time : Nat := 0
  /-- A reset of the context follows a fault's teardown at once (R393). -/
  after : Bool := false
  deriving DecidableEq, Repr

/-- A stream slot (R101, R387). -/
structure Slot where
  holder : Option Nat := none
  sliceOver : Bool := false
  /-- When the rotation at the slice's end began to wait for a bundle (R388). -/
  deferAt : Option Nat := none
  /-- The waiting context that the scheduling module chose (R387, R429). -/
  pick : Option Nat := none
  /-- The queue it serves now and how many commands it dispatched in a row (R386). -/
  cur : Option Nat := none
  run : Nat := 0
  deriving DecidableEq, Repr

/-- An entry of a scree: its place in the region, bytes stored, tag (LAYER, MICRO and ITEM as R214 packs them) with its parity bit,
and the push that stores it, by its place in the order of dispatch (R214, R215). -/
structure ScreeEnt where
  place : Nat
  bytes : Nat
  tag : Nat
  parity : Bool
  ser : Nat
  deriving DecidableEq, Repr

/-- A scree as dispatch sees it (R213): 0 EMPTY, 1 FILLING, 2 DRAINING; entries from the top down. -/
structure Scree where
  state : Nat := 0
  owner : Nat := 0
  ents : List ScreeEnt := []
  deriving DecidableEq, Repr

/-- The units of the cores. -/
structure CoreU where
  /-- Engine queues by core × 8 + engine number; a fused command stands in the queue of every engine it takes (R21, R98). -/
  engQ : Tab (List Cmd) := []
  cc : Tab CtxCore := []
  streams : Tab Stream := []
  slots : Tab Slot := []
  /-- Contexts waiting for a slot of a core, longest wait first (R387). -/
  slotWait : Tab (List Nat) := []
  /-- Since when, by core × 1024 + context (R429). -/
  waitSince : Tab Nat := []
  mon : Tab Mon := []
  /-- Contexts in TEARDOWN. -/
  tear : Tab Tear := []
  /-- Contexts whose telemetry ring has a discard not yet shown by DROPPED (R66). -/
  dropMark : List Nat := []
  scree : Tab Scree := []
  /-- Gated units of R37: row × 256 and, for a unit of the cores, the core (R34). -/
  gated : List Nat := []
  /-- Commands dispatched so far; the BE slot of each core that dispatched last (R102). -/
  serial : Nat := 0
  lastBe : Tab Nat := []
  deriving DecidableEq, Repr

/-! ### Everything that is no dictionary entry -/

/-- What the device sends (log entry 6). -/
inductive Out where
  | flit (port : Nat) (f : Flit)
  | highPower (port : Nat)
  | answer (dest : Requester) (p : Pdu)
  | msix (fn vec : Nat)
  | read (data : PBytes)
  | unsupported
  | mctp (code : Nat) (data : List Nat)
  | spdm (tp : Transport) (code : Nat) (p1 p2 : Nat) (data : List Byte)
  | claim (k : Nat) (src : Nat)
  | atsDone (fn : Nat)
  /-- An MCTP message of Kwehus for an endpoint: its body (R451). -/
  | mctpBody (eid : Nat) (body : List Byte)
  | retryStatus (fn : Nat)
  | confOk (fn : Nat)
  deriving DecidableEq, Repr

/-- The boot stages of R472 and R500. -/
inductive Boot where
  | rom | failed | running
  deriving DecidableEq, Repr

/-- An access that waits for memory to wake: a read or a write through BAR4, or an inbound message (R464). -/
inductive Held where
  | read (off len : Nat)
  | write (off : Nat) (data : List Byte) (ep : Bool)
  | msg (m : Msg)
  deriving DecidableEq, Repr

/-- Power, clocks and resets (15). -/
structure PowU where
  power : Bool := true
  /-- The straps have been latched since power-good rose (R443). -/
  latched : Bool := false
  perst : Bool := false
  perstSeen : Bool := false
  /-- Memory has trained since power-on, so a warm reset keeps its values (R470). -/
  trained : Bool := false
  memOn : Bool := false
  boot : Boot := .rom
  /-- The saddle restarts (R471). -/
  restarting : Bool := false
  linkUp : Bool := false
  ready : Bool := false
  deep : Bool := false
  nap : Bool := false
  napEntering : Bool := false
  /-- A wake is under way from NAP (R464). -/
  waking : Bool := false
  napSince : Nat := 0
  fatal : Bool := false
  straps : Nat := 0
  /-- The levels of the strap pins, as a row told them last (R443, R531; log entry 9). -/
  pins : Nat := 0
  flashOk : Bool := true
  /-- Governor: ns since the last step, target clocks of the columns, ceilings of the halves (west 0, east 1) and of columns,
  die temperatures (R466, R467). -/
  sinceStep : Nat := 100000
  target : Tab Nat := []
  halfCeil : Tab Nat := []
  dieCeil : Tab Nat := []
  dieTemp : Tab Int := []
  failedCh : List Nat := []
  /-- NAP entry goes on to DEEP (R463); accesses and messages held until memory wakes, oldest first (R464). -/
  deepAsked : Bool := false
  held : List Held := []
  deriving DecidableEq, Repr

/-- An MSI-X vector of a function: masked at reset and after an FLR (R419); the address and data of its message (R405). -/
structure Vec where
  masked : Bool := true
  pending : Bool := false
  addr : Nat := 0
  data : Nat := 0
  deriving DecidableEq, Repr

/-- A mailbox channel's registers (R412). -/
structure Mbx where
  state : Nat := 0
  holder : Nat := 0
  core : Nat := 0
  doorbell : Nat := 0
  hostEnable : Nat := 0
  swStatus : Nat := 0
  violations : Nat := 0
  coreEnable : Tab Nat := []
  msg : Nat := 0
  seq : Nat := 0
  /-- 0 host, 1 saddle: who posted. -/
  poster : Nat := 0
  deriving DecidableEq, Repr

/-- A control core (R424, R425): program counter, machine CSRs, FSAVE registers and both register banks. -/
structure CtlCore where
  pc : Nat := 0
  mstatus : Nat := 0
  mcause : Nat := 0
  mepc : Nat := 0
  mtval : Nat := 0
  mtvec : Nat := 0
  priv : Nat := 3
  fEpc : Nat := 0
  fCause : Nat := 0
  fTval : Nat := 0
  fStatus : Nat := 0
  fastActive : Bool := false
  main : Tab Nat := []
  fast : Tab Nat := []
  /-- Sources in service: 256 is none; and whether the core has claimed a source since reset (R421). -/
  inNormal : Nat := 256
  inFast : Nat := 256
  claimed : Bool := false
  /-- PMP entries: configurations and addresses; mcycle and minstret; the address that LR has reserved (R425). -/
  pmpcfg : Tab Nat := []
  pmpaddr : Tab Nat := []
  mcycle : Nat := 0
  minstret : Nat := 0
  reserved : Option Nat := none
  deriving DecidableEq, Repr

/-- A policy module: its image, the key slot that signed it, and whether a notice call is in progress (R426, R427); its data, as a number
that its calls change, the last call's input area, and that call's arguments a0 to a3 (R426, R428, R429). -/
structure Policy where
  image : List Byte := []
  slot : Nat := 0
  call : Bool := false
  data : Nat := 0
  input : List Byte := []
  args : List Nat := []
  deriving DecidableEq, Repr

/-- The host interface (13). -/
structure HostU where
  vecs : Tab Vec := []
  mbx : Tab Mbx := []
  /-- ENABLE, CLASS and TARGET of each source (R421). -/
  src : Tab Nat := []
  /-- Sources 72 and above whose cause is not served. -/
  raised : List Nat := []
  swi : Nat := 0
  cores : Tab CtlCore := []
  /-- Functions whose FLR runs, and whose FLR the firmware has not acknowledged. -/
  flr : List Nat := []
  policies : Tab Policy := []
  /-- Doorbells kept until READY or until the saddle runs (R384, R471): function, queue, value. -/
  keptDb : List (Nat × Nat × Nat) := []
  /-- Functions with ATS enabled (R402), and what the host's translations refuse: function, 4 KiB page, and whether writes alone. -/
  ats : List Nat := []
  atsDeny : List (Nat × Nat × Bool) := []
  /-- The size of BAR4 as a power of two of GiB (R404). -/
  bar4 : Nat := 4
  /-- Functions with bus mastering enabled (R485). -/
  masters : List Nat := []
  /-- Kwehus requests taken from mailbox channels whose answers are due: function, OP and TAG of the PDU, channel and the mailbox TAG; and
  responses that wait for their channel, as bytes 0x08 to 0xFF of MSG (R450). -/
  mail : List (Nat × Nat × Nat × Nat) := []
  mailDue : List (Nat × Nat) := []
  deriving DecidableEq, Repr

/-- The staging, the snapshots by address with their times, and the kept answers of one requester identity (R447, R448). -/
structure DictId where
  stKey : Option Nat := none
  stData : List Byte := []
  snaps : Tab (Nat × List Byte) := []
  /-- Kept answers: tag, index × 256 + sub, offset, status, time. -/
  kept : List (Nat × Nat × Nat × Nat × Nat) := []
  deriving DecidableEq, Repr

/-- A function's access port (R455). -/
structure APort where
  index : Nat := 0
  sub : Nat := 0
  status : Nat := 0
  pending : Bool := false
  size : Nat := 0
  errors : Nat := 0
  lastIndex : Nat := 0
  lastSub : Nat := 0
  lastStatus : Nat := 0
  buf : List Byte := []
  deriving DecidableEq, Repr

/-- A STORE write that the module flash does not hold yet: the entry, its value before, the answers that wait, and the function
whose access port waits (R440, R455). -/
structure StoreDue where
  key : Nat
  old : Option Nat := none
  answers : List Out := []
  port : Option Nat := none
  deriving DecidableEq, Repr

/-- Trust (17): firmware copies in flash that have been written, the active one, rollback fuses burned, the image that runs, the
staged parts of an image, the image whose flash write is due, and the scope of an accepted debug unlock. -/
structure TrustU where
  copies : Tab (List Byte) := []
  active : Nat := 0
  svn : Nat := 0
  run : List Byte := []
  staging : List Byte := []
  due : Option (List Byte) := none
  unlock : Option Nat := none
  deriving DecidableEq, Repr

/-- One SPDM transport (R512, R515): 0 nothing negotiated, 1 version, 2 capabilities, 3 algorithms; the bytes exchanged up to
the algorithms, those about certificates since then, and those about measurements since the last signed ones. -/
structure Spdm where
  stage : Nat := 0
  vca : List Byte := []
  said : List Byte := []
  meas : List Byte := []
  deriving DecidableEq, Repr

/-- The dictionary's own state (14). -/
structure DictU where
  holder : Option Requester := none
  leaseAt : Nat := 0
  ids : List (Requester × DictId) := []
  ports : Tab APort := []
  /-- Times of the STORE writes accepted lately (R440). -/
  storeTimes : List Nat := []
  /-- STORE writes whose flash commit is due, oldest first. -/
  storeDue : List StoreDue := []
  /-- Kwehus requests the firmware has sent: tag, resends, message (R452). -/
  sent : List (Nat × Nat × Msg) := []
  deriving DecidableEq, Repr

/-- A request that waits for memory (R277, R280): its partition, its granules at the west and east interfaces, who waits — an engine as
core × 8 + engine, or 2,048 + a flow — and which of its commands or messages. -/
structure MemWait where
  part : Nat
  west : Nat
  east : Nat
  who : Nat
  ser : Nat
  deriving DecidableEq, Repr

/-- The memory system (09). -/
structure MemU where
  /-- SCREE_MIB, GBANK_MIB, SPILL_MIB and TARN_UNITS in force since the last warm reset (R265, R441). -/
  scree : Nat := 384
  gbank : Nat := 128
  spill : Nat := 64
  tarn : Nat := 1048576
  /-- Token buckets by partition × 2 + interface: tokens taken (R277). -/
  spent : Tab Nat := []
  /-- Errors that bursts hold, by burst number: symbols with what they are changed by (R268, R269). -/
  errs : Tab (Tab Nat) := []
  /-- Dead pins: global channel, pin, and the level it is stuck at (R268). -/
  stuck : List (Nat × Nat × Bool) := []
  /-- Granule requests that stand in each interface's crossing while a loop-back holds them (R261, R280): west 0, east 1. -/
  queued : Tab Nat := []
  /-- Requests that wait for memory, oldest first. -/
  waits : List MemWait := []
  deriving DecidableEq, Repr

/-- A cairn being written: its class and cause, what its header says of them, and its slot (R483, R486). -/
structure Cairn where
  cls : Nat
  cause : Nat
  source : Nat
  time : Nat
  epoch : Nat
  detail : Nat
  slot : Nat
  /-- Sections written so far, by KIND, with their bytes (R484). -/
  done : List (Nat × List Byte) := []
  /-- The bytes copied to the host when a link failure ended the mirror (R485). -/
  cut : Option Nat := none
  /-- The memory interface in which the cause lies does not accept the header (R484; log entry 117). -/
  refused : Bool := false
  deriving DecidableEq, Repr

/-- Faults and service (16). -/
structure SvcU where
  /-- The last 1,024 device-wide records and the last 4,096 trace events, newest last, as their words. -/
  log : List (List Nat) := []
  trace : List (List Nat) := []
  /-- Records logged so far: the SEQ of EVENT_LOG (log entry 22). -/
  logged : Nat := 0
  /-- Tails frozen by a service drain (R492). -/
  frozen : Bool := false
  drainStep : Nat := 0
  /-- Local time and recovery epoch of the service request (R486). -/
  asked : Nat × Nat := (0, 0)
  /-- A press in FATAL waits for the cairn; a press during a saddle restart waits for the firmware (R492, R496). -/
  pressPending : Bool := false
  pressWaits : Bool := false
  /-- The cairn being written, and whether the watchdog has restarted the saddle for it (R482). -/
  cairn : Option Cairn := none
  cairnRetried : Bool := false
  /-- FATAL entered while the saddle restarts: cause, source and detail, local time and epoch of its entry, for the firmware that runs
  again (R471, R482). -/
  fatalWaits : Option (Nat × Nat × Nat × Nat × Nat) := none
  portLight : Tab Nat := []
  deriving DecidableEq, Repr

/-! ### Rollout (05, 06) -/

/-- A request read from a request queue: its index, the time it was read, its words 0 to 4, and which interim records it
has had (R187, R188). -/
structure Req where
  idx : Nat
  time : Nat
  w0 : Nat
  w1 : Nat := 0
  w2 : Nat := 0
  w3 : Nat := 0
  w4 : Nat := 0
  /-- Interim statuses already written. -/
  told : List Nat := []
  /-- A deadline miss is already counted (R198). -/
  missed : Bool := false
  /-- The device closes the session itself, as a CLOSE with CLOSE_NOW that nobody sent would (R492). -/
  own : Bool := false
  deriving DecidableEq, Repr

/-- A live sequence: running with a handle, or preempted and waiting (R177, R197). -/
structure Sq where
  tag : Nat
  be : Bool
  order : Nat
  handle : Option Nat := none
  /-- The handle held last (R208). -/
  lastHandle : Nat := 0
  toks : Nat
  promptLen : Nat
  maxNew : Nat
  temp : Nat
  topP : Nat
  topK : Nat
  /-- Tokens to prefill: the prompt, and after a preemption every token of the buffer (R197). -/
  goal : Nat
  fill : Nat := 0
  /-- Tokens delivered. -/
  gen : Nat := 0
  /-- The units of each page, all layers of page p in element p, layer by layer (R150, R153). -/
  pages : List (List Nat) := []
  readTime : Nat
  /-- Commit time of the last delivering step (R198). -/
  last : Option Nat := none
  missed : Bool := false
  /-- The directory entry in the rollout store (R207), and preemptions so far. -/
  entry : Nat := 0
  preempted : Nat := 0
  deriving DecidableEq, Repr

/-- One row group of a step's plan: the sequence's tag, whether it is a prefill chunk, its first row, its rows, and its
sample row if it has one (R186). -/
structure PlanRow where
  tag : Nat
  prefill : Bool
  row : Nat
  n : Nat
  sample : Option Nat
  deriving DecidableEq, Repr

/-- A directory entry of the rollout store: tag, byte offset of the data region, MAX_NEW, PROMPT_LEN (R207, R208). -/
structure StoreEnt where
  tag : Nat
  data : Nat
  maxNew : Nat
  promptLen : Nat
  deriving DecidableEq, Repr

/-- A session (R177 to R183): its descriptor's words, its step queue table as words, and what runs. -/
structure Sess where
  ctx : Nat := 0
  /-- An open is being checked (R179), asked for by this function if a VF asked. -/
  opening : Bool := false
  byFn : Option Nat := none
  d : List Nat := []
  table : List (List Nat) := []
  /-- Number of the next step (R180). -/
  step : Nat := 0
  inFlight : Bool := false
  /-- The step in flight: its plan rows and its version. -/
  plan : List PlanRow := []
  version : Nat := 0
  versionBase : Nat := 0
  /-- A step is due for release; the plan is written; table entries whose queues are not filled yet (R183). -/
  due : Bool := false
  left : List Nat := []
  /-- Since when the release waits for room (RING_WAIT_NS). -/
  waitSince : Option Nat := none
  reqs : List Req := []
  waiting : List Req := []
  seqs : List Sq := []
  orders : Nat := 0
  /-- The CLOSE whose record is due when the last sequence leaves (R200). -/
  closing : Option Req := none
  /-- Records not yet in the step ring, and the slot count written (R203). -/
  recs : List (List Nat) := []
  widx : Nat := 0
  store : List StoreEnt := []
  storeLow : Nat := 0
  /-- The order a policy module gave for the next boundary, and whether it may skip (R428). -/
  policy : Option (List Nat × Bool) := none
  deriving DecidableEq, Repr

/-! ### Weight versions (11) -/

/-- A verified segment of a resident version (R338): the destination words of its segment entry, and its fold digest. -/
structure SegRec where
  id : Nat
  words : List Nat
  digest : Nat
  deriving DecidableEq, Repr

/-- A shard of a resident version: identifier, SM3 root, fold key (R338). -/
structure ShardRec where
  id : Nat
  root : Nat
  key : Nat
  segs : List SegRec
  deriving DecidableEq, Repr

/-- The records of a resident version (R338). -/
structure VerRec where
  model : Nat
  version : Nat
  ctx : Nat
  shards : List ShardRec
  deriving DecidableEq, Repr

/-! ### Fabric (10) -/

/-- A message on its way out of a port: its virtual channel and pool, and the flits of it that have gone (R298, R304). -/
structure OutMsg where
  m : Msg
  vc : Nat
  poolB : Bool
  sent : Nat := 0
  /-- The port at which it came in, and whether in pool B (R301, R304). -/
  came : Option (Nat × Bool) := none
  deriving DecidableEq, Repr

/-- The link layer of a port (R295 to R298, R329). -/
structure Port where
  /-- LSEQ of the next DATA flit, and the DATA flits sent and not acknowledged, oldest first. -/
  txSeq : Nat := 0
  replay : List Flit := []
  /-- The LSEQ expected, and whether a RETRY has asked for it. -/
  rxSeq : Nat := 0
  gap : Bool := false
  /-- RETRY flits in a row that named one LSEQ: sent, and received with their LSEQ (R297). -/
  retryTx : Nat := 0
  retryRx : Nat := 0
  retryRxSeq : Nat := 0
  /-- Credits held, and credits to return, by virtual channel × 2 + pool. -/
  cred : Tab Nat := []
  owed : Tab Nat := []
  /-- Payload bytes of the message in arrival on each virtual channel. -/
  asm : Tab PBytes := []
  queue : List OutMsg := []
  /-- Deficit round robin: the channel whose turn it is, and the deficits (R298). -/
  turn : Nat := 1
  deficit : Tab Nat := []
  /-- Training failures since the sequence began, and whether an IDENT has come (R328, R329). -/
  fails : Nat := 0
  ident : Bool := false
  /-- The next codeword of each lane that is not counted yet (R333). -/
  fecAt : Tab Nat := []
  /-- When the module's software low-power request was cleared, while ModuleReady is awaited (R327). -/
  awake : Option Nat := none
  deriving DecidableEq, Repr

/-- A sequenced message sent and not acknowledged: how often it was sent, and the command it belongs to (R310, R311). -/
structure Sent where
  m : Msg
  sends : Nat := 1
  owner : Option (Nat × Nat) := none
  deriving DecidableEq, Repr

/-- A response awaited on a flow: the command, where its data goes (scratch or address space), the bytes due and come
(R311, R317, R318). -/
structure Await where
  q : Nat
  idx : Nat
  core : Nat
  ctx : Nat
  atomic : Bool
  scr : Bool
  addr : Nat
  len : Nat
  got : Nat := 0
  deriving DecidableEq, Repr

/-- A flow beside its entries (R305 to R314). -/
structure Flow where
  unacked : List Sent := []
  /-- Messages that wait for the window or for the flow to open. -/
  sendq : List Sent := []
  held : List Msg := []
  /-- The oldest held message is applied but for its notice, which waits for a credit (R314). -/
  noticeWait : Bool := false
  /-- The first fault that a message delivered here has met: its FSEQ, status, reason and address (R313). -/
  fault : Option (Nat × Nat × Nat × Nat) := none
  /-- Requests of the oldest held message stand in a memory interface's crossing (R261). -/
  memWait : Bool := false
  /-- Deliveries not yet acknowledged (R310). -/
  ackDue : Nat := 0
  awaits : List Await := []
  peerOpen : Bool := false
  /-- Times of the last write of VALID 1 and of the last FLOW_ABORT answered (R306, R312). -/
  validAt : Option Nat := none
  abortAt : Option Nat := none
  deriving DecidableEq, Repr

/-- A collective that this device has dispatched and not finished (R320 to R323): its command and number, the bytes each
member has sent and that are not used yet, ring steps done, members whose contribution is in, whether its own part is
reduced, and the parts written. -/
structure Coll where
  q : Nat
  idx : Nat
  core : Nat
  ctx : Nat
  d : Desc
  num : Nat
  rx : Tab PBytes := []
  started : Bool := false
  step : Nat := 0
  /-- Whole contributions by member (DIRECT). -/
  contrib : Tab PBytes := []
  reduced : Bool := false
  parts : List Nat := []
  mon : MonDelta := {}
  poison : Bool := false
  /-- An open late-bound reduction whose command has ended ABORTED (log entry 113). -/
  orphan : Bool := false
  deriving DecidableEq, Repr

/-- A late-bound reduce stream (R252 to R257): the number of the next reduction, whether one is open, bytes of contributions
under way by participant and reduction, whether its deadline has passed, participants folded,
and the last closed reduction's elements and format. -/
structure Lbr where
  next : Nat := 0
  isOpen : Bool := false
  /-- The command that runs the open reduction. -/
  q : Nat := 0
  idx : Nat := 0
  rx : List (Nat × Nat × PBytes) := []
  late : Bool := false
  folded : List Nat := []
  elems : Nat := 0
  fmt : Nat := 8
  deriving DecidableEq, Repr

/-! ### Molts (11) -/

/-- A segment that this device receives: the latest attempt asked for, the bytes of it that have come, whether any has, whether
it has verified with which digest (R357). -/
structure SegIn where
  attempt : Nat := 0
  rx : PBytes := []
  begun : Bool := false
  ok : Bool := false
  digest : Nat := 0
  deriving DecidableEq, Repr

/-- The molt that executes (R342 to R365): its plan's address, header words, segment and shard entries as words, peer entries;
segment runs due (index, attempt, alternate); segments of this device's that have retired; destinations told SRC_DONE;
segments received by index; sources whose SRC_DONE came; peers that are READY; since when only R344 keeps READY back; retries and what the
last one was (attempt, cause, source, shard, segment, digests expected and received). -/
structure Molt where
  plan : Nat := 0
  hdr : List Nat := []
  segs : List (List Nat) := []
  shards : List (List Nat) := []
  peers : List Nat := []
  todo : List (Nat × Nat × Bool) := []
  running : List (Nat × Nat × Bool) := []
  retired : List Nat := []
  told : List Nat := []
  got : Tab SegIn := []
  shardOk : List Nat := []
  srcDone : List Nat := []
  ready : List Nat := []
  waitSince : Option Nat := none
  retries : Nat := 0
  last : List Nat := []
  deriving DecidableEq, Repr

/-- A repair of a poisoned segment (R371): model, version and segment, attempts made, whether one runs, and the bytes fetched
with whether they are whole. -/
structure Repair where
  model : Nat
  version : Nat
  seg : Nat
  tries : Nat := 0
  asked : Bool := false
  rx : PBytes := []
  whole : Bool := false
  deriving DecidableEq, Repr


/-- Everything that is no dictionary entry and no byte store. -/
structure Units where
  /-- Local time in ns as the reference counts it, and what a running clock interpolates since (R458). -/
  now : Nat := 0
  frac : Nat := 0
  /-- The counter of free values drawn (log entry 2). -/
  free : Nat := 0
  outbox : List Out := []
  /-- Since when producers wait for credits, by crossing (R31). -/
  stalls : Tab Nat := []
  core : CoreU := {}
  pow : PowU := {}
  host : HostU := {}
  dict : DictU := {}
  mem : MemU := {}
  svc : SvcU := {}
  /-- Open sessions and their sequences (06). -/
  sess : Tab Sess := []
  /-- Units of sequences that left, by handle and context, until no attention command names them (R154, R155). -/
  tarnPend : List (Nat × Nat × List Nat) := []
  /-- Records of resident versions (R338), and poisoned segments awaiting repair: model, version, segment (R370). -/
  vers : List VerRec := []
  poisonSegs : List (Nat × Nat × Nat) := []
  /-- The context of the molt that executes, and molts begun so far (R342). -/
  moltCtx : Nat := 0
  moltNo : Nat := 0
  /-- Fabric ports and flows, collectives under way, the number of the next collective of each group, and late-bound reduce
  streams (10, 08). -/
  ports : Tab Port := []
  /-- A port has come UP since the device started (R453). -/
  wasUp : Bool := false
  flows : Tab Flow := []
  colls : List Coll := []
  collNum : Tab Nat := []
  lbr : Tab Lbr := []
  /-- Most bytes the reorder pool has held; REORDER_MIB in force (R309, R332). -/
  reorderMib : Nat := 32
  /-- The molt that executes, repairs under way, segments that the scrub pass has still to check, and whether the next pass is due
  already (11). -/
  molt : Molt := {}
  repairs : List Repair := []
  scrub : List (Nat × Nat × Nat) := []
  scrubDue : Bool := false
  trust : TrustU := {}
  /-- SPDM over MCTP (0) and DOE (1). -/
  spdm : Tab Spdm := []
  deriving DecidableEq, Repr

/-- Local time in ns, interpolated (R458). -/
def Units.time (u : Units) : Nat := u.now + u.frac

/-- The state of the block. -/
structure State where
  /-- The commands that wait, first in, first out (log entry 1). -/
  pending : List Instr := []
  /-- The dictionary entries that have been written, by index × 256 + subindex; an unlisted entry has its default. -/
  regs : Tab Nat := []
  /-- Stack memory by device physical address; poison by burst number (R262, R273). -/
  stack : Store := {}
  /-- Host memory by PCIe address; poison by byte (R381, R401). -/
  host : Store := {}
  /-- Core scratch, core × 0x20_0000 + offset; poison by byte (R26, R273). -/
  scratch : Store := {}
  /-- Everything else. -/
  u : Units := {}
  deriving DecidableEq, Repr

/-- The state right after power-good rises (R472): READY 0, local time 0, every entry at its default. -/
def State.reset : State := {}

/-- Why a step stops. No rule of the spec stops the block, so nothing raises this one (safe). -/
inductive Fault where
  /-- Raised by no command: the spec turns every fault into a next state (safe). -/
  | none
  deriving DecidableEq, Repr

/-- Why a command is refused. -/
inductive Refusal where
  /-- The dispatcher has no meaning for the command yet, named by its mnemonic (safe). -/
  | notModelled (mnemonic : String)
  deriving DecidableEq, Repr

end Sys2Proof.Machine
end

