-- ==== Sys2Proof/Machine/Dict.lean ====
section
/-! DEFINITION. The object dictionary as a table: one row per entry family the spec defines (R431 to R433),
with its place, type, access, persistence, constant default, and rights. -/

namespace Sys2Proof.Machine

/-- The types of R433. -/
inductive ETy where
  | bool | u8 | u16 | u32 | u64 | i32 | f32 | str | blob
  deriving DecidableEq, Repr

/-- The access codes of R12 that entries use. -/
inductive EAcc where
  | ro | rw | wo | rwl
  deriving DecidableEq, Repr

/-- The persistence classes of R439. -/
inductive EPers where
  | fixed | strap | keep | store | vol
  deriving DecidableEq, Repr

/-- One row of the dictionary: indices and subindices it covers, type, size in bytes, access, persistence,
its constant default (0 where the default is a rule), the origin code of R445 byte 3, and the read and write rights
of R445 bytes 6 and 7 (bit 0 HOST-PF, 1 HOST-VF, 2 BMC, 3 PEER, 4 FIRMWARE), and whether the CONFIG lock is needed. -/
structure EInfo where
  idxLo : Nat
  idxHi : Nat
  subLo : Nat
  subHi : Nat
  ty : ETy
  size : Nat
  acc : EAcc
  pers : EPers
  dflt : Nat
  origin : Nat
  rd : Nat
  wr : Nat
  lock : Bool
  deriving DecidableEq, Repr

/-- The entry families of the dictionary, in the order the chapters define them. -/
inductive EName where
  | phase | phaseGating | phaseChanges | demandWakes | coreGateExhaust | engineQueueExhaust
  | memqExhaust | colVcExhaust | monClear | monGranted | monEntry | ringBase
  | ringSize | writeIndex | readIndex | droppedRecords | recordEnable | accSplit
  | teWork | coreGateState | pepperSeed | pepperReady | cmdWatchdog | tarnUnits
  | tarnFree | kvSaturated | kvNonfinite | bucketBound | attnMoeCount | sessionsOpen
  | seqRunning | sessionDesc | sessionState | stepRead | sessionCount | screeMib
  | gbankMib | screeDiscard | splitGrad | screeState | bankCount | lbrStream
  | lbrCount | updateCount | spillMib | memLayout | coreHome | patrolHours
  | patrolPosition | partition | stackThermal | eraseList | lbCtrl | lbTimeUs
  | lbResult | memErrors | partitionCount | fabricAddr | fabricRate | peerDict
  | reorderMib | portEnable | portReset | peerExpect | strictCable | portStatus
  | cableId | gateway | vcWeight | flowCfg | flowState | collGroup
  | transportCount | moltStart | moltState | moltResolve | moltReport | manifestSigned
  | scrubMinutes | versionEntry | versionShare | repairSrc | versionRelease | moltCount
  | recoveryEpoch | contextsReady | sliceUs | tidOwner | ctxAdmin | ptRoot
  | ctxState | ctxReset | ptInvalidate | jobCount | faultInfo | queueCfg
  | queueState | slotCount | mbxCfg | mbxTimeoutMs | eventVec | apertureBase
  | policyState | policyLoad | hostCount | policyCount | vendor | product
  | stepping | serial | mctpPen | dictVersion | fwVersion | strapRaw
  | bootSource | slot | i3cStaticAddr | mctpEid | cfgLock | cfgHolder
  | cfgLeaseS | cfgLapses | storeFactory | flashOk | storeWrites | dictCount
  | deviceState | stateReq | columnOffUs | columnState | sustainW | peakW
  | clockMaxMhz | governorState | govCount | stateCount | warmReset | saddleRestart
  | resetCause | resetCount | errwinCfg | errwinState | errwinClear | evtRing
  | evtWidx | eventLog | fatalState | cairnHost | cairnLatest | serviceCairn
  | cairnCount | serviceState | serviceEn | drainMs | serviceCancel | lightsAlways
  | locate | serviceCount | bootStatus | fwSvnFuse | fwSvnCommit | fwUpdate
  | fwUpdateState | fwChunk | keySlot | enrollFreeze | identityPub | rootPub
  | measurement | debugState | debugAllow | debugNonce | debugUnlock | debugRelock
  | spdmCount | coolantIn | coolantOut | inputMv | inputMa
  deriving DecidableEq, Repr

/-- Every entry family, in pieces. -/
def EName.list0 : List EName :=
  [.phase, .phaseGating, .phaseChanges, .demandWakes, .coreGateExhaust, .engineQueueExhaust,
   .memqExhaust, .colVcExhaust, .monClear, .monGranted, .monEntry, .ringBase,
   .ringSize, .writeIndex, .readIndex, .droppedRecords, .recordEnable, .accSplit,
   .teWork, .coreGateState, .pepperSeed, .pepperReady, .cmdWatchdog, .tarnUnits,
   .tarnFree, .kvSaturated, .kvNonfinite, .bucketBound, .attnMoeCount, .sessionsOpen,
   .seqRunning, .sessionDesc, .sessionState, .stepRead, .sessionCount, .screeMib,
   .gbankMib, .screeDiscard, .splitGrad, .screeState, .bankCount, .lbrStream,
   .lbrCount, .updateCount, .spillMib]

def EName.list1 : List EName :=
  [.memLayout, .coreHome, .patrolHours, .patrolPosition, .partition, .stackThermal,
   .eraseList, .lbCtrl, .lbTimeUs, .lbResult, .memErrors, .partitionCount,
   .fabricAddr, .fabricRate, .peerDict, .reorderMib, .portEnable, .portReset,
   .peerExpect, .strictCable, .portStatus, .cableId, .gateway, .vcWeight,
   .flowCfg, .flowState, .collGroup, .transportCount, .moltStart, .moltState,
   .moltResolve, .moltReport, .manifestSigned, .scrubMinutes, .versionEntry, .versionShare,
   .repairSrc, .versionRelease, .moltCount, .recoveryEpoch, .contextsReady, .sliceUs,
   .tidOwner, .ctxAdmin, .ptRoot]

def EName.list2 : List EName :=
  [.ctxState, .ctxReset, .ptInvalidate, .jobCount, .faultInfo, .queueCfg,
   .queueState, .slotCount, .mbxCfg, .mbxTimeoutMs, .eventVec, .apertureBase,
   .policyState, .policyLoad, .hostCount, .policyCount, .vendor, .product,
   .stepping, .serial, .mctpPen, .dictVersion, .fwVersion, .strapRaw,
   .bootSource, .slot, .i3cStaticAddr, .mctpEid, .cfgLock, .cfgHolder,
   .cfgLeaseS, .cfgLapses, .storeFactory, .flashOk, .storeWrites, .dictCount,
   .deviceState, .stateReq, .columnOffUs, .columnState, .sustainW, .peakW,
   .clockMaxMhz, .governorState, .govCount]

def EName.list3 : List EName :=
  [.stateCount, .warmReset, .saddleRestart, .resetCause, .resetCount, .errwinCfg,
   .errwinState, .errwinClear, .evtRing, .evtWidx, .eventLog, .fatalState,
   .cairnHost, .cairnLatest, .serviceCairn, .cairnCount, .serviceState, .serviceEn,
   .drainMs, .serviceCancel, .lightsAlways, .locate, .serviceCount, .bootStatus,
   .fwSvnFuse, .fwSvnCommit, .fwUpdate, .fwUpdateState, .fwChunk, .keySlot,
   .enrollFreeze, .identityPub, .rootPub, .measurement, .debugState, .debugAllow,
   .debugNonce, .debugUnlock, .debugRelock, .spdmCount, .coolantIn, .coolantOut,
   .inputMv, .inputMa]

/-- Every entry family. -/
def EName.all : List EName := EName.list0 ++ EName.list1 ++ EName.list2 ++ EName.list3

/-- The row of each entry family (R431, R435, R436, R439 and the chapter tables). -/
def EName.info : EName → EInfo
  | .phase => ⟨0x2010, 0x2010, 0x01, 0x01, .u8, 1, .ro, .vol, 0, 0, 21, 0, false⟩
  | .phaseGating => ⟨0x2010, 0x2010, 0x02, 0x02, .bool, 1, .rw, .store, 1, 0, 21, 5, false⟩
  | .phaseChanges => ⟨0x2010, 0x2010, 0x03, 0x03, .u32, 4, .ro, .vol, 0, 0, 21, 0, false⟩
  | .demandWakes => ⟨0x2010, 0x2010, 0x04, 0x04, .u64, 8, .ro, .vol, 0, 0, 21, 0, false⟩
  | .coreGateExhaust => ⟨0x9100, 0x9100, 0x00, 0xBF, .blob, 256, .ro, .vol, 0, 0, 21, 0, false⟩
  | .engineQueueExhaust => ⟨0x9101, 0x9101, 0x00, 0x1F, .blob, 336, .ro, .vol, 0, 0, 21, 0, false⟩
  | .memqExhaust => ⟨0x9102, 0x9102, 0x01, 0x02, .u64, 8, .ro, .vol, 0, 0, 21, 0, false⟩
  | .colVcExhaust => ⟨0x9103, 0x9103, 0x00, 0x0B, .blob, 64, .ro, .vol, 0, 0, 21, 0, false⟩
  | .monClear => ⟨0x7010, 0x7010, 0x01, 0x01, .u16, 2, .wo, .vol, 0, 0, 23, 19, false⟩
  | .monGranted => ⟨0x7010, 0x7010, 0x02, 0x02, .u16, 2, .ro, .vol, 0, 0, 21, 0, false⟩
  | .monEntry => ⟨0x7400, 0x743F, 0x00, 0xFF, .blob, 64, .ro, .vol, 0, 3, 23, 0, false⟩
  | .ringBase => ⟨0x7800, 0x7BFF, 0x01, 0x01, .u64, 8, .rw, .vol, 0, 0, 23, 19, false⟩
  | .ringSize => ⟨0x7800, 0x7BFF, 0x02, 0x02, .u32, 4, .rw, .vol, 0, 0, 23, 19, false⟩
  | .writeIndex => ⟨0x7800, 0x7BFF, 0x03, 0x03, .u32, 4, .ro, .vol, 0, 0, 23, 0, false⟩
  | .readIndex => ⟨0x7800, 0x7BFF, 0x04, 0x04, .u32, 4, .rw, .vol, 0, 0, 23, 19, false⟩
  | .droppedRecords => ⟨0x7800, 0x7BFF, 0x05, 0x05, .u64, 8, .ro, .vol, 0, 0, 23, 0, false⟩
  | .recordEnable => ⟨0x7800, 0x7BFF, 0x06, 0x06, .u8, 1, .rw, .vol, 0, 0, 23, 19, false⟩
  | .accSplit => ⟨0x2020, 0x2020, 0x01, 0x01, .u32, 4, .rwl, .store, 572662306, 0, 21, 17, true⟩
  | .teWork => ⟨0x9110, 0x9110, 0x00, 0xBF, .blob, 192, .ro, .vol, 0, 0, 21, 0, false⟩
  | .coreGateState => ⟨0x9104, 0x9104, 0x00, 0xBF, .blob, 256, .ro, .vol, 0, 0, 21, 0, false⟩
  | .pepperSeed => ⟨0x7C00, 0x7FFF, 0x01, 0x01, .u64, 8, .rw, .vol, 0, 0, 23, 19, false⟩
  | .pepperReady => ⟨0x7C00, 0x7FFF, 0x02, 0x02, .bool, 1, .ro, .vol, 1, 0, 23, 0, false⟩
  | .cmdWatchdog => ⟨0x5020, 0x5020, 0x01, 0x01, .u32, 4, .rw, .store, 250, 0, 21, 5, false⟩
  | .tarnUnits => ⟨0x6100, 0x6100, 0x01, 0x01, .u32, 4, .rwl, .store, 1048576, 0, 21, 5, true⟩
  | .tarnFree => ⟨0x6100, 0x6100, 0x02, 0x02, .u32, 4, .ro, .vol, 0, 3, 21, 0, false⟩
  | .kvSaturated => ⟨0x6100, 0x6100, 0x04, 0x04, .u64, 8, .ro, .vol, 0, 0, 21, 0, false⟩
  | .kvNonfinite => ⟨0x6100, 0x6100, 0x05, 0x05, .u64, 8, .ro, .vol, 0, 0, 21, 0, false⟩
  | .bucketBound => ⟨0x6101, 0x6101, 0x01, 0x07, .u32, 4, .rw, .store, 0, 0, 21, 5, false⟩
  | .attnMoeCount => ⟨0x9120, 0x9120, 0x00, 0xBF, .blob, 64, .ro, .vol, 0, 0, 21, 0, false⟩
  | .sessionsOpen => ⟨0x6000, 0x6000, 0x01, 0x01, .u16, 2, .ro, .vol, 0, 0, 21, 0, false⟩
  | .seqRunning => ⟨0x6000, 0x6000, 0x02, 0x02, .u16, 2, .ro, .vol, 0, 0, 21, 0, false⟩
  | .sessionDesc => ⟨0x6200, 0x62FF, 0x01, 0x01, .u64, 8, .rw, .vol, 0, 0, 23, 23, false⟩
  | .sessionState => ⟨0x6200, 0x62FF, 0x02, 0x02, .u8, 1, .ro, .vol, 0, 0, 23, 0, false⟩
  | .stepRead => ⟨0x6200, 0x62FF, 0x03, 0x03, .u32, 4, .rw, .vol, 0, 0, 23, 23, false⟩
  | .sessionCount => ⟨0x6200, 0x62FF, 0x04, 0x04, .blob, 80, .ro, .vol, 0, 0, 23, 0, false⟩
  | .screeMib => ⟨0x7100, 0x7100, 0x01, 0x01, .u16, 2, .rwl, .store, 384, 0, 21, 5, true⟩
  | .gbankMib => ⟨0x7100, 0x7100, 0x02, 0x02, .u16, 2, .rwl, .store, 128, 0, 21, 5, true⟩
  | .screeDiscard => ⟨0x7100, 0x7100, 0x03, 0x03, .u8, 1, .wo, .vol, 0, 0, 23, 19, false⟩
  | .splitGrad => ⟨0x7120, 0x7120, 0x00, 0x3F, .blob, 32, .rw, .vol, 0, 0, 23, 19, false⟩
  | .screeState => ⟨0x9130, 0x9130, 0x00, 0xBF, .blob, 64, .ro, .vol, 0, 0, 21, 0, false⟩
  | .bankCount => ⟨0x9131, 0x9131, 0x01, 0x02, .blob, 32, .ro, .vol, 0, 0, 21, 0, false⟩
  | .lbrStream => ⟨0x7300, 0x7300, 0x00, 0x3F, .blob, 32, .rw, .vol, 0, 0, 23, 19, false⟩
  | .lbrCount => ⟨0x9140, 0x9140, 0x00, 0x3F, .blob, 2080, .ro, .vol, 0, 0, 21, 0, false⟩
  | .updateCount => ⟨0x9141, 0x9141, 0x01, 0x01, .blob, 32, .ro, .vol, 0, 0, 21, 0, false⟩
  | .spillMib => ⟨0x3000, 0x3000, 0x01, 0x01, .u16, 2, .rwl, .store, 64, 0, 21, 17, true⟩
  | .memLayout => ⟨0x3000, 0x3000, 0x02, 0x02, .blob, 64, .ro, .vol, 0, 3, 21, 0, false⟩
  | .coreHome => ⟨0x3001, 0x3001, 0x00, 0xBF, .u16, 2, .ro, .fixed, 0, 3, 21, 0, false⟩
  | .patrolHours => ⟨0x3010, 0x3010, 0x01, 0x01, .u16, 2, .rw, .store, 24, 0, 21, 5, false⟩
  | .patrolPosition => ⟨0x3010, 0x3010, 0x02, 0x02, .u32, 4, .ro, .keep, 0, 0, 21, 0, false⟩
  | .partition => ⟨0x3020, 0x3020, 0x00, 0x0F, .blob, 16, .rw, .vol, 0, 3, 21, 5, false⟩
  | .stackThermal => ⟨0x3030, 0x3030, 0x00, 0x13, .blob, 16, .ro, .vol, 0, 0, 21, 0, false⟩
  | .eraseList => ⟨0x3040, 0x3040, 0x00, 0x3F, .u32, 4, .rw, .store, 0, 0, 21, 5, false⟩
  | .lbCtrl => ⟨0x3050, 0x3050, 0x01, 0x01, .u32, 4, .rwl, .vol, 0, 0, 21, 5, true⟩
  | .lbTimeUs => ⟨0x3050, 0x3050, 0x02, 0x02, .u32, 4, .rwl, .vol, 1000, 0, 21, 5, true⟩
  | .lbResult => ⟨0x3051, 0x3051, 0x00, 0x13, .blob, 12288, .ro, .vol, 0, 0, 21, 0, false⟩
  | .memErrors => ⟨0x9150, 0x9150, 0x00, 0x13, .blob, 64, .ro, .vol, 0, 0, 21, 0, false⟩
  | .partitionCount => ⟨0x9151, 0x9151, 0x00, 0x0F, .blob, 32, .ro, .vol, 0, 0, 21, 0, false⟩
  | .fabricAddr => ⟨0x4000, 0x4000, 0x01, 0x01, .u16, 2, .rwl, .store, 0, 1, 29, 5, true⟩
  | .fabricRate => ⟨0x4000, 0x4000, 0x02, 0x02, .u8, 1, .ro, .strap, 0, 1, 29, 0, false⟩
  | .peerDict => ⟨0x4000, 0x4000, 0x03, 0x03, .bool, 1, .rw, .store, 1, 0, 29, 5, false⟩
  | .reorderMib => ⟨0x4000, 0x4000, 0x04, 0x04, .u16, 2, .rwl, .store, 32, 0, 29, 5, true⟩
  | .portEnable => ⟨0x4010, 0x4010, 0x01, 0x01, .u8, 1, .rw, .strap, 0, 1, 29, 5, false⟩
  | .portReset => ⟨0x4010, 0x4010, 0x02, 0x02, .u8, 1, .wo, .vol, 0, 0, 29, 5, false⟩
  | .peerExpect => ⟨0x4011, 0x4011, 0x00, 0x07, .u32, 4, .rw, .store, 0, 0, 29, 5, false⟩
  | .strictCable => ⟨0x4011, 0x4011, 0x08, 0x08, .bool, 1, .rw, .store, 0, 0, 29, 5, false⟩
  | .portStatus => ⟨0x4012, 0x4012, 0x00, 0x07, .blob, 64, .ro, .vol, 0, 0, 29, 0, false⟩
  | .cableId => ⟨0x4013, 0x4013, 0x00, 0x07, .blob, 64, .ro, .vol, 0, 0, 29, 0, false⟩
  | .gateway => ⟨0x4020, 0x4023, 0x00, 0xFF, .u16, 2, .rw, .store, 0, 0, 21, 5, false⟩
  | .vcWeight => ⟨0x4030, 0x4030, 0x01, 0x01, .blob, 8, .rw, .store, 0, 3, 21, 5, false⟩
  | .flowCfg => ⟨0x4400, 0x441F, 0x00, 0xFF, .blob, 32, .rw, .vol, 0, 0, 23, 19, false⟩
  | .flowState => ⟨0x4600, 0x461F, 0x00, 0xFF, .blob, 32, .ro, .vol, 0, 0, 23, 0, false⟩
  | .collGroup => ⟨0x4700, 0x4700, 0x00, 0x3F, .blob, 528, .rw, .vol, 0, 0, 23, 19, false⟩
  | .transportCount => ⟨0x9160, 0x9160, 0x01, 0x01, .blob, 48, .ro, .vol, 0, 0, 21, 0, false⟩
  | .moltStart => ⟨0x6400, 0x6400, 0x01, 0x01, .u64, 8, .wo, .vol, 0, 0, 23, 19, false⟩
  | .moltState => ⟨0x6400, 0x6400, 0x02, 0x02, .u8, 1, .ro, .vol, 0, 0, 21, 0, false⟩
  | .moltResolve => ⟨0x6400, 0x6400, 0x03, 0x03, .u8, 1, .wo, .vol, 0, 0, 23, 19, false⟩
  | .moltReport => ⟨0x6400, 0x6400, 0x04, 0x04, .blob, 64, .ro, .vol, 0, 0, 21, 0, false⟩
  | .manifestSigned => ⟨0x6400, 0x6400, 0x05, 0x05, .bool, 1, .rw, .store, 0, 0, 21, 5, false⟩
  | .scrubMinutes => ⟨0x6400, 0x6400, 0x06, 0x06, .u16, 2, .rw, .store, 15, 0, 21, 5, false⟩
  | .versionEntry => ⟨0x6500, 0x65FF, 0x01, 0x01, .blob, 64, .ro, .vol, 0, 0, 23, 0, false⟩
  | .versionShare => ⟨0x6500, 0x65FF, 0x02, 0x02, .blob, 128, .rw, .vol, 0, 0, 23, 19, false⟩
  | .repairSrc => ⟨0x6500, 0x65FF, 0x03, 0x03, .blob, 16, .rw, .vol, 0, 0, 23, 19, false⟩
  | .versionRelease => ⟨0x6500, 0x65FF, 0x04, 0x04, .u16, 2, .wo, .vol, 0, 0, 23, 19, false⟩
  | .moltCount => ⟨0x9170, 0x9170, 0x01, 0x01, .blob, 96, .ro, .vol, 0, 0, 21, 0, false⟩
  | .recoveryEpoch => ⟨0x5000, 0x5000, 0x01, 0x01, .u32, 4, .ro, .vol, 0, 0, 21, 0, false⟩
  | .contextsReady => ⟨0x5000, 0x5000, 0x02, 0x02, .u16, 2, .ro, .vol, 0, 0, 21, 0, false⟩
  | .sliceUs => ⟨0x5020, 0x5020, 0x02, 0x02, .u32, 4, .rw, .store, 500, 0, 21, 21, false⟩
  | .tidOwner => ⟨0x5100, 0x513F, 0x00, 0xFF, .u16, 2, .rw, .vol, 0, 0, 23, 19, false⟩
  | .ctxAdmin => ⟨0x5400, 0x57FF, 0x01, 0x01, .u32, 4, .rw, .keep, 1, 0, 23, 21, false⟩
  | .ptRoot => ⟨0x5400, 0x57FF, 0x02, 0x02, .u64, 8, .rw, .vol, 0, 0, 23, 19, false⟩
  | .ctxState => ⟨0x5400, 0x57FF, 0x03, 0x03, .u8, 1, .ro, .vol, 0, 0, 23, 0, false⟩
  | .ctxReset => ⟨0x5400, 0x57FF, 0x04, 0x04, .u8, 1, .wo, .vol, 0, 0, 23, 19, false⟩
  | .ptInvalidate => ⟨0x5400, 0x57FF, 0x05, 0x05, .u8, 1, .wo, .vol, 0, 0, 23, 19, false⟩
  | .jobCount => ⟨0x5400, 0x57FF, 0x06, 0x06, .blob, 24, .ro, .vol, 0, 0, 23, 0, false⟩
  | .faultInfo => ⟨0x5400, 0x57FF, 0x07, 0x07, .blob, 16, .ro, .vol, 0, 0, 23, 0, false⟩
  | .queueCfg => ⟨0x5800, 0x58FF, 0x00, 0xFF, .blob, 32, .rw, .vol, 0, 0, 23, 19, false⟩
  | .queueState => ⟨0x5A00, 0x5AFF, 0x00, 0xFF, .blob, 16, .ro, .vol, 0, 0, 23, 0, false⟩
  | .slotCount => ⟨0x9180, 0x9180, 0x00, 0xBF, .blob, 64, .ro, .vol, 0, 0, 21, 0, false⟩
  | .mbxCfg => ⟨0x1100, 0x1100, 0x00, 0x3F, .u32, 4, .rw, .vol, 0, 0, 21, 17, false⟩
  | .mbxTimeoutMs => ⟨0x1101, 0x1101, 0x01, 0x01, .u32, 4, .rw, .store, 500, 0, 21, 5, false⟩
  | .eventVec => ⟨0x1102, 0x1102, 0x00, 0x1F, .u16, 2, .rw, .vol, 0, 0, 21, 3, false⟩
  | .apertureBase => ⟨0x2030, 0x2030, 0x01, 0x01, .u64, 8, .rw, .vol, 137438953472, 0, 21, 17, false⟩
  | .policyState => ⟨0x2040, 0x2040, 0x01, 0x02, .u8, 1, .ro, .vol, 0, 0, 21, 0, false⟩
  | .policyLoad => ⟨0x2040, 0x2040, 0x03, 0x04, .u64, 8, .wo, .vol, 0, 0, 21, 1, true⟩
  | .hostCount => ⟨0x9190, 0x9190, 0x00, 0x1F, .blob, 64, .ro, .vol, 0, 0, 21, 0, false⟩
  | .policyCount => ⟨0x9191, 0x9191, 0x01, 0x01, .blob, 48, .ro, .vol, 0, 0, 21, 0, false⟩
  | .vendor => ⟨0x1000, 0x1000, 0x01, 0x01, .str, 32, .ro, .fixed, 0, 0, 31, 0, false⟩
  | .product => ⟨0x1000, 0x1000, 0x02, 0x02, .str, 32, .ro, .fixed, 0, 0, 31, 0, false⟩
  | .stepping => ⟨0x1000, 0x1000, 0x03, 0x03, .u16, 2, .ro, .fixed, 0, 2, 31, 0, false⟩
  | .serial => ⟨0x1000, 0x1000, 0x04, 0x04, .u64, 8, .ro, .fixed, 0, 2, 31, 0, false⟩
  | .mctpPen => ⟨0x1000, 0x1000, 0x05, 0x05, .u32, 4, .ro, .fixed, 236113, 0, 31, 0, false⟩
  | .dictVersion => ⟨0x1000, 0x1000, 0x06, 0x06, .u16, 2, .ro, .fixed, 256, 0, 31, 0, false⟩
  | .fwVersion => ⟨0x1000, 0x1000, 0x07, 0x07, .u32, 4, .ro, .vol, 0, 3, 31, 0, false⟩
  | .strapRaw => ⟨0x1000, 0x1000, 0x08, 0x08, .u32, 4, .ro, .strap, 0, 1, 31, 0, false⟩
  | .bootSource => ⟨0x1000, 0x1000, 0x09, 0x09, .u8, 1, .ro, .strap, 0, 1, 31, 0, false⟩
  | .slot => ⟨0x1000, 0x1000, 0x0A, 0x0A, .u8, 1, .ro, .strap, 0, 1, 31, 0, false⟩
  | .i3cStaticAddr => ⟨0x1010, 0x1010, 0x01, 0x01, .u8, 1, .ro, .strap, 0, 1, 31, 0, false⟩
  | .mctpEid => ⟨0x1010, 0x1010, 0x02, 0x02, .u8, 1, .ro, .keep, 0, 0, 31, 0, false⟩
  | .cfgLock => ⟨0x2000, 0x2000, 0x01, 0x01, .u8, 1, .rw, .vol, 0, 0, 21, 21, false⟩
  | .cfgHolder => ⟨0x2000, 0x2000, 0x02, 0x02, .u16, 2, .ro, .vol, 0, 0, 21, 0, false⟩
  | .cfgLeaseS => ⟨0x2000, 0x2000, 0x03, 0x03, .u16, 2, .rw, .store, 60, 0, 21, 5, false⟩
  | .cfgLapses => ⟨0x2000, 0x2000, 0x04, 0x04, .u32, 4, .ro, .vol, 0, 0, 21, 0, false⟩
  | .storeFactory => ⟨0x2000, 0x2000, 0x05, 0x05, .u8, 1, .rwl, .vol, 0, 0, 21, 21, true⟩
  | .flashOk => ⟨0x2000, 0x2000, 0x06, 0x06, .bool, 1, .ro, .vol, 1, 0, 21, 0, false⟩
  | .storeWrites => ⟨0x2000, 0x2000, 0x07, 0x07, .u64, 8, .ro, .store, 0, 0, 21, 0, false⟩
  | .dictCount => ⟨0x9000, 0x9000, 0x01, 0x01, .blob, 48, .ro, .vol, 0, 0, 21, 0, false⟩
  | .deviceState => ⟨0x8000, 0x8000, 0x01, 0x01, .u8, 1, .ro, .vol, 1, 0, 21, 0, false⟩
  | .stateReq => ⟨0x8000, 0x8000, 0x02, 0x02, .u8, 1, .wo, .vol, 0, 0, 21, 5, false⟩
  | .columnOffUs => ⟨0x8000, 0x8000, 0x03, 0x03, .u32, 4, .rw, .store, 2000, 0, 21, 5, false⟩
  | .columnState => ⟨0x8000, 0x8000, 0x04, 0x04, .blob, 64, .ro, .vol, 0, 0, 21, 0, false⟩
  | .sustainW => ⟨0x8010, 0x8010, 0x01, 0x01, .u16, 2, .rw, .store, 2200, 0, 21, 5, false⟩
  | .peakW => ⟨0x8010, 0x8010, 0x02, 0x02, .u16, 2, .rw, .store, 2600, 0, 21, 5, false⟩
  | .clockMaxMhz => ⟨0x8010, 0x8010, 0x03, 0x03, .u16, 2, .rw, .store, 1600, 0, 21, 5, false⟩
  | .governorState => ⟨0x8010, 0x8010, 0x04, 0x04, .blob, 32, .ro, .vol, 0, 3, 21, 0, false⟩
  | .govCount => ⟨0x8020, 0x8020, 0x01, 0x01, .blob, 64, .ro, .vol, 0, 0, 21, 0, false⟩
  | .stateCount => ⟨0x8020, 0x8020, 0x02, 0x02, .blob, 40, .ro, .vol, 0, 0, 21, 0, false⟩
  | .warmReset => ⟨0x8030, 0x8030, 0x01, 0x01, .u8, 1, .wo, .vol, 0, 0, 21, 4, false⟩
  | .saddleRestart => ⟨0x8030, 0x8030, 0x02, 0x02, .u8, 1, .wo, .vol, 0, 0, 21, 5, false⟩
  | .resetCause => ⟨0x8030, 0x8030, 0x03, 0x03, .u8, 1, .ro, .keep, 0, 0, 21, 0, false⟩
  | .resetCount => ⟨0x8030, 0x8030, 0x04, 0x04, .blob, 16, .ro, .keep, 0, 0, 21, 0, false⟩
  | .errwinCfg => ⟨0x9200, 0x9200, 0x00, 0x07, .u32, 4, .rw, .store, 0, 0, 21, 5, false⟩
  | .errwinState => ⟨0x9201, 0x9201, 0x00, 0xFF, .u64, 8, .ro, .keep, 0, 0, 21, 0, false⟩
  | .errwinClear => ⟨0x9202, 0x9202, 0x01, 0x01, .u16, 2, .wo, .vol, 0, 0, 21, 5, false⟩
  | .evtRing => ⟨0x9210, 0x9210, 0x00, 0x1F, .blob, 16, .rw, .vol, 0, 0, 23, 3, false⟩
  | .evtWidx => ⟨0x9211, 0x9211, 0x00, 0x1F, .u32, 4, .ro, .vol, 0, 0, 21, 0, false⟩
  | .eventLog => ⟨0x9212, 0x9212, 0x01, 0x01, .blob, 2048, .ro, .vol, 0, 0, 21, 0, false⟩
  | .fatalState => ⟨0x9220, 0x9220, 0x01, 0x01, .blob, 16, .ro, .vol, 0, 0, 21, 0, false⟩
  | .cairnHost => ⟨0x9230, 0x9230, 0x01, 0x01, .blob, 16, .rw, .vol, 0, 0, 21, 1, false⟩
  | .cairnLatest => ⟨0x9230, 0x9230, 0x02, 0x02, .u8, 1, .ro, .keep, 0, 0, 21, 0, false⟩
  | .serviceCairn => ⟨0x9230, 0x9230, 0x03, 0x03, .bool, 1, .rw, .store, 1, 0, 21, 5, false⟩
  | .cairnCount => ⟨0x9230, 0x9230, 0x04, 0x04, .u64, 8, .ro, .store, 0, 0, 21, 0, false⟩
  | .serviceState => ⟨0x9240, 0x9240, 0x01, 0x01, .u8, 1, .ro, .vol, 0, 0, 21, 0, false⟩
  | .serviceEn => ⟨0x9240, 0x9240, 0x02, 0x02, .bool, 1, .rw, .store, 1, 0, 21, 5, false⟩
  | .drainMs => ⟨0x9240, 0x9240, 0x03, 0x03, .u32, 4, .rw, .store, 2000, 0, 21, 5, false⟩
  | .serviceCancel => ⟨0x9240, 0x9240, 0x04, 0x04, .u8, 1, .wo, .vol, 0, 0, 21, 5, false⟩
  | .lightsAlways => ⟨0x9240, 0x9240, 0x05, 0x05, .bool, 1, .rw, .store, 0, 0, 21, 5, false⟩
  | .locate => ⟨0x9240, 0x9240, 0x06, 0x06, .bool, 1, .rw, .vol, 0, 0, 21, 5, false⟩
  | .serviceCount => ⟨0x9240, 0x9240, 0x07, 0x07, .blob, 20, .ro, .keep, 0, 0, 21, 0, false⟩
  | .bootStatus => ⟨0xA000, 0xA000, 0x01, 0x01, .u32, 4, .ro, .keep, 0, 0, 21, 0, false⟩
  | .fwSvnFuse => ⟨0xA000, 0xA000, 0x02, 0x02, .u8, 1, .ro, .keep, 0, 2, 21, 0, false⟩
  | .fwSvnCommit => ⟨0xA000, 0xA000, 0x03, 0x03, .u8, 1, .rwl, .vol, 0, 0, 21, 5, true⟩
  | .fwUpdate => ⟨0xA000, 0xA000, 0x04, 0x04, .u64, 8, .rwl, .vol, 0, 0, 21, 5, true⟩
  | .fwUpdateState => ⟨0xA000, 0xA000, 0x05, 0x05, .u8, 1, .ro, .vol, 0, 0, 21, 0, false⟩
  | .fwChunk => ⟨0xA000, 0xA000, 0x06, 0x06, .blob, 16384, .wo, .vol, 0, 0, 21, 5, false⟩
  | .keySlot => ⟨0xA010, 0xA010, 0x00, 0x07, .blob, 80, .rwl, .store, 0, 0, 21, 5, true⟩
  | .enrollFreeze => ⟨0xA011, 0xA011, 0x01, 0x01, .bool, 1, .rw, .keep, 0, 0, 21, 5, false⟩
  | .identityPub => ⟨0xA020, 0xA020, 0x01, 0x01, .blob, 64, .ro, .fixed, 0, 2, 21, 0, false⟩
  | .rootPub => ⟨0xA020, 0xA020, 0x02, 0x02, .blob, 64, .ro, .fixed, 0, 2, 21, 0, false⟩
  | .measurement => ⟨0xA030, 0xA030, 0x01, 0x08, .blob, 32, .ro, .vol, 0, 3, 21, 0, false⟩
  | .debugState => ⟨0xA040, 0xA040, 0x01, 0x01, .u8, 1, .ro, .keep, 0, 0, 21, 0, false⟩
  | .debugAllow => ⟨0xA040, 0xA040, 0x02, 0x02, .bool, 1, .rw, .store, 0, 0, 21, 5, false⟩
  | .debugNonce => ⟨0xA040, 0xA040, 0x03, 0x03, .blob, 16, .ro, .vol, 0, 3, 21, 0, false⟩
  | .debugUnlock => ⟨0xA040, 0xA040, 0x04, 0x04, .blob, 96, .wo, .vol, 0, 0, 21, 5, true⟩
  | .debugRelock => ⟨0xA040, 0xA040, 0x05, 0x05, .u8, 1, .wo, .vol, 0, 0, 21, 5, false⟩
  | .spdmCount => ⟨0xA050, 0xA050, 0x01, 0x01, .blob, 32, .ro, .vol, 0, 0, 21, 0, false⟩
  | .coolantIn => ⟨0x8040, 0x8040, 0x01, 0x01, .i32, 4, .ro, .vol, 0, 0, 21, 0, false⟩
  | .coolantOut => ⟨0x8040, 0x8040, 0x02, 0x02, .i32, 4, .ro, .vol, 0, 0, 21, 0, false⟩
  | .inputMv => ⟨0x8040, 0x8040, 0x03, 0x03, .u32, 4, .ro, .vol, 0, 0, 21, 0, false⟩
  | .inputMa => ⟨0x8040, 0x8040, 0x04, 0x04, .u32, 4, .ro, .vol, 0, 0, 21, 0, false⟩

/-- Subindices per index of an entry family. -/
def EName.nsub (n : EName) : Nat := n.info.subHi + 1 - n.info.subLo

/-- How many entries a family has. -/
def EName.count (n : EName) : Nat := (n.info.idxHi + 1 - n.info.idxLo) * n.nsub

/-- The key index × 256 + subindex of entry `i` of a family (R14, R431). -/
def EName.key (n : EName) (i : Nat) : Nat := (n.info.idxLo + i / n.nsub) * 256 + n.info.subLo + i % n.nsub

/-- The family covers an address. -/
def EName.covers (n : EName) (index sub : Nat) : Bool :=
  n.info.idxLo ≤ index && index ≤ n.info.idxHi && n.info.subLo ≤ sub && sub ≤ n.info.subHi

/-- The number of the entry at an address the family covers. -/
def EName.numOf (n : EName) (index sub : Nat) : Nat := (index - n.info.idxLo) * n.nsub + (sub - n.info.subLo)

/-- The entry at an address (R431). -/
def findEntry (index sub : Nat) : Option (EName × Nat) :=
  (EName.all.find? fun n => n.covers index sub).map fun n => (n, n.numOf index sub)

/-- The entry with a key. -/
def findKey (k : Nat) : Option (EName × Nat) := findEntry (k / 256) (k % 256)

/-- The lowest core number of a stack (R263). -/
def firstCore (stack : Nat) : Nat :=
  96 * (stack / 10) + [0, 10, 20, 30, 39, 48, 58, 68, 77, 86].getD (stack % 10) 0

/-- The home stack of a core (R263). -/
def homeStack (core : Nat) : Nat := ((List.range 20).filter fun t => firstCore t ≤ core).length - 1

/-- The slot of a core in its home stack (R263). -/
def homeSlot (core : Nat) : Nat := core - firstCore (homeStack core)

/-- The default of an entry (R432): a constant, the straps, fuses, or the chapter's rule. The straps are numbered as
STRAP_RAW (R456). With STRAP_BENCH the columns that never power up are off (R468; log entry 60). -/
def EName.dfltOf (n : EName) (i straps : Nat) : Nat :=
  match n with
  | .bucketBound => [128, 256, 512, 1024, 2048, 4096, 8192].getD i 0
  | .coreHome => homeStack i + 256 * homeSlot i
  | .partition => 1024 * 2 ^ 32 + 16 * 2 ^ 48
  | .fabricAddr => bits straps 12 6
  | .fabricRate => bits straps 2 1
  | .portEnable => if bit straps 10 && bits straps 0 2 != 3 then 0xFF else 0
  | .vcWeight => leNat [0#8, 32#8, 32#8, 64#8, 48#8, 48#8, 8#8, 0#8]
  | .mbxCfg => if 32 ≤ i ∧ i ≤ 62 then 1 + 2 * (i - 31) else 1
  | .vendor => leNat [0x52#8, 0x68#8, 0x6F#8, 0x6D#8, 0x62#8, 0x65#8, 0x63#8, 0x6F#8, 0x72#8]
  | .product => leNat [0x4D#8, 0x65#8, 0x6C#8, 0x6B#8, 0x6F#8, 0x64#8, 0x79#8, 0x20#8, 0x4D#8, 0x4B#8, 0x2D#8,
      0x39#8, 0x33#8, 0x32#8, 0x30#8]
  | .stepping => Config.stepping
  | .serial => Config.serial
  | .strapRaw => straps
  | .bootSource => bits straps 0 2
  | .slot => bits straps 12 6
  | .i3cStaticAddr => 0x20 + bits straps 5 5
  | .columnState => if bit straps 11 then ((List.range 16).filter fun c => c % 8 != 0).foldl (fun v c => v + 2 * 2 ^ (32 * c)) 0 else 0
  | .governorState => 1600 * 2 ^ 32 + 1600 * 2 ^ 48
  | .errwinCfg => if i < 7 then 0x00025808 else 0x00025801
  | .fwSvnFuse => Config.svnFuse.val
  | .identityPub => Config.identityPub
  | .rootPub => Config.rootPub
  | .debugNonce => Config.freeResult 1 0 0
  | _ => n.info.dflt

/-- The value cut to the entry's size. -/
def EName.fit (n : EName) (v : Nat) : Nat := v % 2 ^ (8 * n.info.size)

/-- The module flash is unreadable, so STORE entries take their defaults and no write is accepted (R440). -/
def State.noFlash (s : State) : Bool := !s.u.pow.flashOk

/-- Safe mode: STORE entries read as their defaults (R501). -/
def State.safeMode (s : State) : Bool := bits s.u.pow.straps 0 2 == 3

/-- The value an entry holds: the one written, or its default (R432, R439, R440). -/
def State.rd (s : State) (n : EName) (i : Nat := 0) : Nat :=
  if n.info.pers = .store ∧ (s.noFlash || s.safeMode) then n.fit (n.dfltOf i s.u.pow.straps)
  else match tget s.regs (n.key i) with
    | some v => v
    | none => n.fit (n.dfltOf i s.u.pow.straps)

/-- A field of an entry: byte offset, low bit, length, as the spec's field maps give it. -/
def State.fld (s : State) (n : EName) (i off lo len : Nat) : Nat := bits (s.rd n i) (8 * off + lo) len

/-- Counter `k` of an entry made of 64-bit counters. -/
def State.cnt (s : State) (n : EName) (i k : Nat) : Nat := s.fld n i (8 * k) 0 64

/-- Local time in ns (R458). -/
def State.now (s : State) : Nat := s.u.time

end Sys2Proof.Machine
end

