-- ==== Sys2Proof/Machine/Ops.lean ====
section
/-! DEFINITION. The named operations over the byte stores and the registers, and the actions that every meaning is
composed of. An action changes the state only through `State.apply`, so what `apply` keeps every command keeps. -/

namespace Sys2Proof.Machine

/-! ### Byte stores -/

/-- The byte at an address; an unlisted byte reads 0 (log entry 3). -/
def Store.byte (m : Store) (a : Nat) : Byte := (tget m.bytes a).getD 0#8

/-- The cells with one byte set: rising addresses, no zero byte listed. -/
def cellSet : List Host.Cell → Nat → Byte → List Host.Cell
  | [], a, b => if b = 0#8 then [] else [(a, b)]
  | (a', b') :: r, a, b =>
    if a < a' then (if b = 0#8 then (a', b') :: r else (a, b) :: (a', b') :: r)
    else if a = a' then (if b = 0#8 then r else (a, b) :: r)
    else (a', b') :: cellSet r a b

/-- The cells with consecutive bytes set. -/
def cellsSet : List Host.Cell → Nat → List Byte → List Host.Cell
  | m, _, [] => m
  | m, a, b :: bs => cellsSet (cellSet m a b) (a + 1) bs

/-- A rising list of numbers with one added. -/
def numAdd : List Nat → Nat → List Nat
  | [], a => [a]
  | x :: r, a => if a < x then a :: x :: r else if a = x then x :: r else x :: numAdd r a

/-- A list of numbers with one removed. -/
def numDel (l : List Nat) (a : Nat) : List Nat := l.filter fun x => x != a

/-- The three byte stores. -/
inductive MemSel where
  | stack | host | scratch
  deriving DecidableEq, Repr

/-- Bytes of stack memory (R5: twenty stacks of 16 GiB). -/
def stackSize : Nat := 20 * 2 ^ 34

/-- Bytes of all scratch: 192 cores of 2 MiB (R5). -/
def scratchSize : Nat := 192 * 2 ^ 21

/-- Addresses of a store lie below this. -/
def MemSel.size : MemSel → Nat
  | .stack => stackSize
  | .host => 2 ^ 64
  | .scratch => scratchSize

/-- Bytes that share one poison mark: a 64-byte burst in stack memory, a byte elsewhere (R273). -/
def MemSel.grain : MemSel → Nat
  | .stack => 64
  | _ => 1

/-- The store a selector names. -/
def State.store (s : State) : MemSel → Store
  | .stack => s.stack
  | .host => s.host
  | .scratch => s.scratch

/-- The state with a store replaced. -/
def State.withStore (s : State) (m : MemSel) (x : Store) : State :=
  match m with
  | .stack => { s with stack := x }
  | .host => { s with host := x }
  | .scratch => { s with scratch := x }

/-- `n` bytes from an address, each with its poison mark. -/
def State.rdMem (s : State) (m : MemSel) (a n : Nat) : PBytes :=
  (List.range n).map fun i => ((s.store m).byte (a + i), (s.store m).poison.contains ((a + i) / m.grain))

/-- The poison marks after a write of `bs` at `a` over the grains from `g` on, `k` of them (R273): a grain with a
poisoned new byte is poisoned, a grain written whole with clean data is clean, any other keeps its mark. -/
def poisonAfter (grain a : Nat) (bs : PBytes) : Nat → Nat → List Nat → List Nat
  | 0, _, p => p
  | k + 1, g, p =>
    let lo := max a (g * grain)
    let hi := min (a + bs.length) ((g + 1) * grain)
    let part := (bs.drop (lo - a)).take (hi - lo)
    let p' := if part.any Prod.snd then numAdd p g
      else if hi - lo = grain then numDel p g else p
    poisonAfter grain a bs k (g + 1) p'

/-- A store after a write of bytes with poison marks, cut at the end of the store. -/
def Store.write (m : Store) (sel : MemSel) (a : Nat) (bs : PBytes) : Store :=
  let bs := bs.take (sel.size - a)
  if bs.isEmpty then m else
  let g0 := a / sel.grain
  let g1 := (a + bs.length - 1) / sel.grain
  { bytes := cellsSet m.bytes a (bs.map Prod.fst)
    poison := poisonAfter sel.grain a bs (g1 + 1 - g0) g0 m.poison }

/-- A store that has lost everything from `lo` to below `hi`. -/
def Store.lose (m : Store) (sel : MemSel) (lo hi : Nat) : Store :=
  { bytes := m.bytes.filter fun c => c.1 < lo || hi ≤ c.1
    poison := m.poison.filter fun g => (g + 1) * sel.grain ≤ lo || hi ≤ g * sel.grain }

/-! ### Single changes -/

/-- One change of the state. -/
inductive Upd where
  /-- An entry takes a value, cut to its size; an entry of class FIXED takes none. -/
  | reg (n : EName) (i v : Nat)
  /-- An entry returns to its default. -/
  | regErase (n : EName) (i : Nat)
  /-- Entries that a reset returns to their defaults are dropped; those the test names stay (R442). -/
  | regKeep (stays : EName → Nat → Bool)
  /-- Bytes are written to a store. -/
  | mem (sel : MemSel) (a : Nat) (bs : PBytes)
  /-- A grain is marked poisoned. -/
  | poison (sel : MemSel) (g : Nat)
  /-- A range of a store is lost. -/
  | lose (sel : MemSel) (lo hi : Nat)
  /-- The units change. -/
  | units (f : Units → Units)

/-- The entry with this key stays under a reset's test. -/
def keyStays (stays : EName → Nat → Bool) (k : Nat) : Bool :=
  match findKey k with
  | some e => stays e.1 e.2
  | none => true

/-- The state after one change. -/
def State.apply (s : State) : Upd → State
  | .reg n i v =>
    if i < n.count ∧ n.info.pers ≠ .fixed then { s with regs := tset s.regs (n.key i) (n.fit v) } else s
  | .regErase n i => { s with regs := tdel s.regs (n.key i) }
  | .regKeep stays => { s with regs := s.regs.filter fun p => keyStays stays p.1 }
  | .mem sel a bs => s.withStore sel ((s.store sel).write sel a bs)
  | .poison sel g => if g * sel.grain < sel.size then
      s.withStore sel { s.store sel with poison := numAdd (s.store sel).poison g } else s
  | .lose sel lo hi => s.withStore sel ((s.store sel).lose sel lo hi)
  | .units f => { s with u := f s.u }

/-! ### Actions -/

/-- An action: changes in sequence, each part able to look at the state it finds. -/
inductive Act where
  | skip
  | upd (x : Upd)
  | seq (a b : Act)
  | get (f : State → Act)

/-- The state after an action. -/
def Act.run : Act → State → State
  | .skip, s => s
  | .upd x, s => s.apply x
  | .seq a b, s => b.run (a.run s)
  | .get f, s => (f s).run s

/-- Actions in a list, one after another. -/
def Act.all : List Act → Act
  | [] => .skip
  | a :: r => .seq a (Act.all r)

/-- An action for each element of a list. -/
def Act.each {α : Type} (l : List α) (f : α → Act) : Act := Act.all (l.map f)

/-- An action under a condition. -/
def Act.when (c : Bool) (a : Act) : Act := if c then a else .skip

/-- An entry takes a value. -/
def Act.reg (n : EName) (i v : Nat) : Act := .upd (.reg n i v)

/-- An entry returns to its default. -/
def Act.regErase (n : EName) (i : Nat) : Act := .upd (.regErase n i)

/-- A field of an entry takes a value: byte offset, low bit, length. -/
def Act.fld (n : EName) (i off lo len v : Nat) : Act :=
  .get fun s => .reg n i (setBits (s.rd n i) (8 * off + lo) len v)

/-- A field counts up, wrapping at its width (R38, R64). -/
def Act.countFld (n : EName) (i off lo len : Nat) (by_ : Nat := 1) : Act :=
  .get fun s => .fld n i off lo len (s.fld n i off lo len + by_)

/-- A field counts up and stops at its highest value. -/
def Act.satFld (n : EName) (i off lo len : Nat) (by_ : Nat := 1) : Act :=
  .get fun s => .fld n i off lo len (min (s.fld n i off lo len + by_) (2 ^ len - 1))

/-- Counter `k` of an entry of 64-bit counters rises. -/
def Act.count (n : EName) (i k : Nat) (by_ : Nat := 1) : Act := .countFld n i (8 * k) 0 64 by_

/-- A count over the module's life rises, whatever its STORE entry reads as (R439, R456, R501). -/
def State.lifeCnt (s : State) (n : EName) : Nat := tgetD s.regs (n.key 0) 0

def Act.lifeCount (n : EName) : Act := .get fun s => .reg n 0 (s.lifeCnt n + 1)

/-- The units change. -/
def Act.units (f : Units → Units) : Act := .upd (.units f)

/-- The units of the cores change. -/
def Act.core (f : CoreU → CoreU) : Act := .units fun u => { u with core := f u.core }

/-- Power, clocks and resets change. -/
def Act.pow (f : PowU → PowU) : Act := .units fun u => { u with pow := f u.pow }

/-- The host interface changes. -/
def Act.host (f : HostU → HostU) : Act := .units fun u => { u with host := f u.host }

/-- The dictionary's own state changes. -/
def Act.dict (f : DictU → DictU) : Act := .units fun u => { u with dict := f u.dict }

/-- Faults and service change. -/
def Act.svc (f : SvcU → SvcU) : Act := .units fun u => { u with svc := f u.svc }

/-- Something is sent (log entry 6). -/
def Act.out (o : Out) : Act := .units fun u => { u with outbox := u.outbox ++ [o] }

/-- Bytes are written to a store. -/
def Act.mem (sel : MemSel) (a : Nat) (bs : PBytes) : Act := .upd (.mem sel a bs)

/-- A free value is drawn and handed on (log entry 2). -/
def Act.draw (k : Nat → Act) : Act :=
  .get fun s => .seq (.units fun u => { u with free := u.free + 1 }) (k (Config.freeValue s.u.free))

/-- The outcome of a command whose meaning is an action. -/
def Act.outcome (a : Act) (s : State) : Host.Outcome State Fault Refusal := .next (a.run s)

end Sys2Proof.Machine
end

