-- ==== Sys2Proof/Machine/Err.lean ====
section
/-! DEFINITION. Trace events (R488), sources of the saddle's interrupt controller (R420), waking from NAP (R464), MSI-X messages
(R419), device events (R479) and error windows (R476). -/

namespace Sys2Proof.Machine

/-! ### Trace (R488) -/

/-- A trace event is kept, the last 4,096 of them; none in DEEP (R488) or without input power. -/
def Act.trace (code engine ctx data0 data1 : Nat) : Act :=
  .units fun u => if u.pow.deep || !u.pow.power then u else
    let l := u.svc.trace ++ [[u.time, code + engine * 2 ^ 16 + ctx * 2 ^ 27, data0, data1]]
    { u with svc := { u.svc with trace := l.drop (l.length - 4096) } }

/-! ### Sources of the saddle's interrupt controller (R420) -/

/-- A source's cause has come up and is not served yet. -/
def Act.raiseSrc (src : Nat) : Act := .host fun h => { h with raised := sadd h.raised src }

/-! ### Waking from NAP (R464) -/

/-- A wake event: NAP begins to end, or its entry is abandoned. -/
def Act.napWake : Act :=
  .get fun s =>
    .seq (.when s.u.pow.napEntering (.seq (.pow fun p => { p with napEntering := false, deepAsked := false }) (.count .stateCount 0 3)))
      (if s.u.pow.nap then .pow fun p => { p with waking := true } else .when s.u.pow.napEntering (.reg .deviceState 0 1))

/-! ### MSI-X (R418, R419) -/

/-- A vector of a function's table. -/
def State.vec (s : State) (fn v : Nat) : Vec := tgetD s.u.host.vecs (fn * 2048 + v) {}

/-- Vectors in the table of a function (R418). -/
def vecCount (fn : Nat) : Nat := if fn = 0 then 2048 else 64

/-- One message is due on a vector: it is sent and counted, or the vector is masked and becomes pending (R419). -/
def Act.msix (fn v : Nat) : Act :=
  .get fun s =>
    if vecCount fn ≤ v then .skip
    else if (s.vec fn v).masked then
      .host fun h => { h with vecs := tset h.vecs (fn * 2048 + v) { s.vec fn v with pending := true } }
    else if s.u.pow.linkUp then .seq (.out (.msix fn v)) (.count .hostCount fn 7)
    else .skip

/-! ### Device events (R479, R480) -/

/-- The four words of an event record. -/
def eventWords (seq code scope ctx now epoch source data : Nat) : List Nat :=
  [bits seq 0 32 + code * 2 ^ 32 + scope * 2 ^ 40 + ctx * 2 ^ 48, bits now 0 64, bits epoch 0 32 + source * 2 ^ 32, bits data 0 64]

/-- Words as bytes in memory, none poisoned. -/
def wordBytes (ws : List Nat) : PBytes := ws.flatMap (cleanBytes 8)

/-- The event goes to the ring of one function, if it has registered one, and then a message on its EVENT_VEC. -/
def Act.eventTo (fn code scope ctx source data : Nat) : Act :=
  .get fun s =>
    let base := s.fld .evtRing fn 0 0 64
    if base = 0 then .skip else
    let i := s.rd .evtWidx fn
    .all [.mem .host (base + i % 2 ^ s.fld .evtRing fn 8 0 8 * 32)
        (wordBytes (eventWords i code scope ctx s.now (s.rd .recoveryEpoch) source data)),
      .reg .evtWidx fn (i + 1),
      .msix fn (s.rd .eventVec fn)]

/-- An event is logged once and sent to the functions (R479). -/
def Act.event (fns : List Nat) (code scope ctx source data : Nat) : Act :=
  .get fun s =>
    .seq (.svc fun v =>
      let l := v.log ++ [eventWords (v.logged) code scope ctx s.now (s.rd .recoveryEpoch) source data]
      { v with log := l.drop (l.length - 1024), logged := v.logged + 1 })
    (.each fns fun f => .eventTo f code scope ctx source data)

/-- Every function. -/
def allFns : List Nat := List.range 32

/-! ### Error windows (R476 to R478) -/

/-- The class of an error source (R477). -/
def srcClass (src : Nat) : Nat :=
  if src < 20 then 0 else if src < 40 then 1 else if src < 48 then 2 else if src < 56 then 3
  else if src = 56 then 4 else if src = 57 then 5 else if src < 60 then 6 else 7

/-- N of a source's class (R476, R497). -/
def State.errN (s : State) (src : Nat) : Nat := s.fld .errwinCfg (srcClass src) 0 0 8

/-- An event of a source fills its window; at N the source becomes lasting and says so once (R476, R478). -/
def Act.errEvent (src detail : Nat) : Act :=
  .get fun s =>
    let n := s.errN src
    let level := min (s.fld .errwinState src 0 0 8 + 1) n
    .all [.satFld .errwinState src 0 16 48, .fld .errwinState src 0 0 8 level,
      .when (n ≤ level && s.fld .errwinState src 0 8 1 == 0)
        (.seq (.fld .errwinState src 0 8 1 1) (.event [0] 0x04 0 0 src detail))]

end Sys2Proof.Machine
end

