-- ==== Sys2Proof/Machine/Mem.lean ====
section
/-! DEFINITION. Stack memory and address translation: the layout in force (R262, R263), the interleave maps (R266, R267),
the page tables (R380, R381), and reads and writes in a context's address space with their faults. -/

namespace Sys2Proof.Machine

/-! ### The layout in force (R262, R263) -/

/-- SHARE in MiB: scree, bank share and spill region of one core. -/
def MemU.share (m : MemU) : Nat := m.scree + m.gbank + m.spill

/-- LS in MiB: ten times SHARE rounded up to a multiple of 1,920 (R262). -/
def MemU.lsMib (m : MemU) : Nat := cdiv (10 * m.share) 1920 * 1920

/-- LS in bytes. -/
def MemU.ls (m : MemU) : Nat := m.lsMib * 2 ^ 20

/-- HB, the lowest HASHED address. -/
def MemU.hb (m : MemU) : Nat := 20 * m.ls

/-- Lowest address of the firmware region. -/
def firmwareBase : Nat := 0x4F80000000

/-- Lowest address of the cairn region. -/
def cairnBase : Nat := 0x4FE0000000

/-- Lowest tarn address. -/
def MemU.tarnBase (m : MemU) : Nat := firmwareBase - m.tarn * 65536

/-- First byte of a core's share of its home stack (R263). -/
def MemU.coreBase (m : MemU) (core : Nat) : Nat := homeStack core * m.ls + homeSlot core * m.share * 2 ^ 20

/-- First byte of a core's bank share. -/
def MemU.bankBase (m : MemU) (core : Nat) : Nat := m.coreBase core + m.scree * 2 ^ 20

/-- A layout a write to one of the four size entries would give is allowed (R265). -/
def layoutOk (m : MemU) : Bool :=
  m.share ≤ 1024 && m.tarn * 65536 ≤ firmwareBase && m.hb + 2 ^ 34 ≤ m.tarnBase

/-- The regions of the device address map (R262, R264). -/
inductive Region where
  | scree (core : Nat)
  | bank (core : Nat)
  | spill (core : Nat)
  | spare
  | general
  | tarn
  | firmware
  | cairn
  | beyond
  deriving DecidableEq, Repr

/-- Cores at home in a stack (R263). -/
def coresIn (stack : Nat) : Nat := if stack = 19 then 10 else firstCore (stack + 1) - firstCore stack

/-- The region of a device physical address (R262, R263). -/
def MemU.region (m : MemU) (dpa : Nat) : Region :=
  if dpa < m.hb then
    let st := dpa / m.ls
    let o := (dpa % m.ls) / 2 ^ 20
    let slot := if m.share = 0 then 10 else o / m.share
    if slot < coresIn st then
      let r := o % m.share
      let core := firstCore st + slot
      if r < m.scree then .scree core
      else if r < m.scree + m.gbank then .bank core
      else .spill core
    else .spare
  else if dpa < m.tarnBase then .general
  else if dpa < firmwareBase then .tarn
  else if dpa < cairnBase then .firmware
  else if dpa < stackSize then .cairn
  else .beyond

/-- A place in the stacks: stack, channel of the stack, location (R266, R267). -/
structure Place where
  stack : Nat
  channel : Nat
  loc : Nat
  deriving DecidableEq, Repr

/-- The HASHED interleave (R266). -/
def hashedPlace (dpa : Nat) : Place :=
  let g := (0x4FFFFFFF80 - dpa / 128 * 128) / 128
  let q := g / 2048
  let l := g % 2048
  let h := bits q 0 11 ^^^ (bits q 11 10 * 2)
  let n := 2048 * (q % 15) + (l ^^^ h)
  let ch := n / 20
  ⟨n % 20, ch, (if ch < 512 then 87382 else 87381) - 1 - q / 15⟩

/-- The STACK-LOCAL interleave (R267). -/
def MemU.localPlace (m : MemU) (dpa : Nat) : Place :=
  let g := dpa % m.ls / 128
  let q := g / 1536
  ⟨dpa / m.ls, (g % 1536 + 693 * q) % 1536, q⟩

/-- Where a granule lies. -/
def MemU.place (m : MemU) (dpa : Nat) : Place := if dpa < m.hb then m.localPlace dpa else hashedPlace dpa

/-- The global channel number (R259). -/
def Place.global (p : Place) : Nat := p.stack * 1536 + p.channel

/-- The east memory interface serves stacks 10 to 19 (R259). -/
def MemU.east (m : MemU) (dpa : Nat) : Bool := 10 ≤ (m.place dpa).stack

/-- A granule lies on a channel that failed training (R281). -/
def State.badChannel (s : State) (dpa : Nat) : Bool :=
  !s.u.pow.failedCh.isEmpty && s.u.pow.failedCh.contains (s.u.mem.place dpa).global

/-! ### Bursts (R268 to R274) -/

/-- Pins that ERASE_LIST names for a channel (R270). -/
def State.erased (s : State) (channel : Nat) : List Nat :=
  ((List.range 64).filter fun i => s.fld .eraseList i 0 31 1 == 1 && s.fld .eraseList i 0 0 15 == channel).map fun i =>
    s.fld .eraseList i 0 15 6

/-- Dead pins of the channel that holds an address. -/
def State.deadPins (s : State) (dpa : Nat) : List (Nat × Bool) :=
  if s.u.mem.stuck.isEmpty then [] else
  (s.u.mem.stuck.filter fun p => p.1 == (s.u.mem.place dpa).global).map Prod.snd

/-- The codeword that the data bytes of a burst have. -/
def State.burstCode (s : State) (g : Nat) : List Nat := rsWord ((List.range 64).map fun j => (s.stack.byte (64 * g + j)).toNat)

/-- The word that a burst's cells hold: its codeword, with the signature where it is stored poisoned, and with the errors it has taken
(R268, R272). -/
def State.burstWord (s : State) (g : Nat) : List Nat :=
  let w := if s.stack.poison.contains g then symAdd (s.burstCode g) poisonPattern else s.burstCode g
  symAdd w ((List.range 72).map (tgetD (tgetD s.u.mem.errs g []) · 0))

/-- What differs from the codeword in the word that reaches the decoder. -/
def State.burstPattern (s : State) (g : Nat) : List Nat := symAdd (s.burstCode g) (throughPins (s.deadPins (64 * g)) (s.burstWord g))

/-- Some burst may read otherwise than as it was written. -/
def MemU.faulty (m : MemU) : Bool := !m.errs.isEmpty || !m.stuck.isEmpty

/-- What a burst reads as. -/
def State.readBurst (s : State) (g : Nat) : ReadAs :=
  if (tget s.u.mem.errs g).isNone && (s.deadPins (64 * g)).isEmpty then if s.stack.poison.contains g then .poisoned [] [] else .clean
  else readPattern (s.erased (s.u.mem.place (64 * g)).global) (s.burstPattern g)

/-- A byte of stack memory as a read delivers it: what cannot be corrected is delivered as it was read, and poisoned (R272). -/
def State.readByte (s : State) (a : Nat) : Byte × Bool :=
  match s.readBurst (a / 64) with
  | .clean | .corrected _ => (s.stack.byte a, false)
  | .poisoned change _ => (s.stack.byte a ^^^ BitVec.ofNat 8 (change.getD (a % 64) 0), true)
  | .lost => (s.stack.byte a ^^^ BitVec.ofNat 8 ((s.burstPattern (a / 64)).getD (a % 64) 0), true)

/-- Bytes of stack memory; those of failed channels are poisoned (R281). -/
def State.rdStack (s : State) (a n : Nat) : PBytes :=
  if s.u.pow.failedCh.isEmpty && !s.u.mem.faulty then s.rdMem .stack a n
  else (List.range n).map fun i => if s.badChannel (a + i) then (s.stack.byte (a + i), true) else s.readByte (a + i)

/-- Bytes of a store. -/
def State.rdAny (s : State) (m : MemSel) (a n : Nat) : PBytes :=
  match m with
  | .stack => s.rdStack a n
  | _ => s.rdMem m a n

/-- A burst's errors are gone: its word is written back. -/
def Act.burstHealed (g : Nat) : Act := .units fun u => { u with mem := { u.mem with errs := tdel u.mem.errs g } }

/-- A burst is written back as it read. -/
def Act.burstBack (g : Nat) : Act :=
  .get fun s => .seq (.burstHealed g) (.mem .stack (64 * g) ((List.range 64).map fun j => s.readByte (64 * g + j)))

/-- A burst was corrected and is written back: counted, the last correction kept, and the window of its stack filled; corrections of
erased symbols count apart (R270, R271, R288). -/
def Act.burstCorrected (patrol : Bool) (g : Nat) (syms : List Nat) : Act :=
  .get fun s =>
    let p := s.u.mem.place (64 * g)
    let erased := s.erased p.global
    let rest := syms.filter fun y => !erased.contains (y / 2)
    .all [.burstBack g, .when (rest.length != syms.length) (.count .memErrors p.stack 2),
      .when (!rest.isEmpty) (.all [.raiseSrc (120 + p.stack), .raiseSrc (140 + p.stack / 10), .count .memErrors p.stack 0,
        .when patrol (.count .memErrors p.stack 5),
        .fld .memErrors p.stack 0x38 0 64 (p.global + ((pinsOf rest).map fun x => 2 ^ (28 + x)).foldl (· + ·) 0),
        .errEvent p.stack p.global])]

/-- A burst cannot be corrected: it is stored back poisoned, with its data bytes as read, and reported (R272, R274, R288). -/
def Act.burstLost (g : Nat) : Act :=
  .get fun s =>
    let dpa := 64 * g
    let p := s.u.mem.place dpa
    .all [.burstBack g, .raiseSrc (120 + p.stack), .raiseSrc (140 + p.stack / 10), .count .memErrors p.stack 1,
      .fld .memErrors p.stack 0x30 0 40 dpa,
      .errEvent (20 + p.stack) dpa, .trace 8 0 0 dpa p.global]

/-- One read of a burst, by an access or by the patrol: what the decoder finds is counted and written back, and a burst stored poisoned
counts in POISON_READS (R269 to R275, R288). -/
def Act.burstRead (patrol : Bool) (g : Nat) : Act :=
  .get fun s => if s.badChannel (64 * g) then .skip else
    match s.readBurst g with
    | .clean => .skip
    | .corrected l => .burstCorrected patrol g l
    | .poisoned _ l => .seq (.when (!patrol) (.count .memErrors (s.u.mem.place (64 * g)).stack 3))
        (.when (!l.isEmpty) (.burstCorrected patrol g l))
    | .lost => .burstLost g

/-- The bursts of a range of addresses. -/
def burstsAt (a n : Nat) : List Nat := if n = 0 then [] else (List.range ((a + n - 1) / 64 + 1 - a / 64)).map (a / 64 + ·)

/-- A read of a store's bytes is noted burst by burst. -/
def Act.noteRead (m : MemSel) (a n : Nat) : Act :=
  match m with
  | .stack => .get fun s => .each ((burstsAt a n).filter fun g => s.u.mem.faulty || s.stack.poison.contains g) (.burstRead false)
  | _ => .skip

/-- Errors of the bursts that a write touches: a burst written whole has none left, and a smaller write reads its burst first (R271). -/
def Act.settleErrs (a n : Nat) : Act :=
  .get fun s => .when s.u.mem.faulty (.each ((burstsAt a n).filter fun g =>
      (tget s.u.mem.errs g).isSome || !(s.deadPins (64 * g)).isEmpty) fun g =>
        if a ≤ 64 * g ∧ 64 * g + 64 ≤ a + n then .burstHealed g else .burstRead false g)

/-- Bytes are written to stack memory, those of failed channels being discarded (R281). Bursts written with poison count
in POISON_WRITES of their stack (R288). -/
def Act.wrStack (a : Nat) (bs : PBytes) : Act :=
  .get fun s =>
    let part (g : Nat) : PBytes := (bs.drop (g * 64 - a)).take (min (a + bs.length) ((g + 1) * 64) - max a (g * 64))
    .all [.settleErrs a bs.length,
      if s.u.pow.failedCh.isEmpty then .mem .stack a bs
      else .each ((burstsAt a bs.length).filter fun g => !s.badChannel (64 * g)) fun g => .mem .stack (max a (64 * g)) (part g),
      .when (anyPoison bs) (.each ((burstsAt a bs.length).filter fun g => anyPoison (part g)) fun g =>
        .count .memErrors (s.u.mem.place (g * 64)).stack 4)]

/-- Bytes are written in whole bursts: what a burst holds beside them is written back as it reads, and no poison is left (R371). -/
def Act.wrBursts (a : Nat) (bs : PBytes) : Act :=
  .get fun s =>
    let as_ (lo n : Nat) : PBytes := (List.range n).map fun j => ((s.readByte (lo + j)).1, false)
    let stop := a + bs.length
    .when (!bs.isEmpty) (.wrStack (a / 64 * 64) (as_ (a / 64 * 64) (a % 64) ++ bs ++ as_ stop (cdiv stop 64 * 64 - stop)))

/-- Bytes are written to a store. -/
def Act.wrAny (m : MemSel) (a : Nat) (bs : PBytes) : Act :=
  match m with
  | .stack => .wrStack a bs
  | _ => .mem m a bs

/-! ### Page tables (R380, R381) -/

/-- A leaf the walk found: first byte of the page, its size, and its rights. -/
structure Leaf where
  addr : Nat
  size : Nat
  write : Bool
  bank : Bool
  host : Bool
  deriving DecidableEq, Repr

/-- A table may lie here: the general region or a spare region (R264, R380). -/
def MemU.tableOk (m : MemU) (dpa len : Nat) : Bool :=
  let ok (a : Nat) : Bool := m.region a == .general || m.region a == .spare
  ok dpa && ok (dpa + len - 1)

/-- A page may be mapped: a BANK page is 64 KiB of a bank share; any other page lies in the general, spill and spare
regions in every part (R264). All region borders are multiples of 64 MiB but the tarn base. -/
def MemU.pageOk (m : MemU) (dpa size : Nat) (bank : Bool) : Bool :=
  let isBank (a : Nat) : Bool := match m.region a with | .bank _ => true | _ => false
  let plain (a : Nat) : Bool := match m.region a with | .general | .spill _ | .spare => true | _ => false
  if bank then size == 65536 && isBank dpa
  else (List.range (size / 2 ^ 26 + 1)).all (fun k => plain (min (dpa + k * 2 ^ 26) (dpa + size - 1))) && plain (dpa + size - 1)

/-- Page bytes that a leaf maps at each level. -/
def pageSize : Nat → Nat
  | 0 => 2 ^ 16
  | 1 => 2 ^ 21
  | _ => 2 ^ 30

/-- The index a level takes from an address (R380). -/
def levelIndex (level dva : Nat) : Nat :=
  match level with
  | 0 => bits dva 16 5
  | 1 => bits dva 21 9
  | 2 => bits dva 30 9
  | _ => bits dva 39 9

/-- Alignment and size of the table of a level (R380). -/
def tableSize (level : Nat) : Nat := if level = 0 then 256 else 4096

/-- Where the entry that a walk reads lies. -/
def entryAddr (dva level table : Nat) : Nat := table + 8 * levelIndex level dva

/-- What the entry of a level leads to: a leaf, the table below, or nothing where it is malformed (R381). -/
def State.tableEntry (s : State) (dva level table : Nat) : Option (Leaf ⊕ Nat) :=
  let bs := s.rdStack (entryAddr dva level table) 8
  let e := leNat (dataOf bs)
  let addr := bits e 8 48 * 256
  if anyPoison bs || !bit e 0 || bits e 5 3 != 0 || bits e 56 8 != 0 then none
  else if bit e 2 then
    let ok := level < 3 && addr % pageSize level == 0 &&
      (if bit e 4 then !bit e 3 else addr + pageSize level ≤ stackSize && s.u.mem.pageOk addr (pageSize level) (bit e 3))
    if ok then some (.inl ⟨addr, pageSize level, bit e 1, bit e 3, bit e 4⟩) else none
  else
    let below := tableSize (level - 1)
    if level = 0 || bit e 1 || bit e 3 || bit e 4 || addr % below != 0 || !s.u.mem.tableOk addr below then none else some (.inr addr)

/-- The walk from the table of a level down; nothing where an entry is malformed (R381). -/
def State.walk (s : State) (dva : Nat) : Nat → Nat → Option Leaf
  | level, table => match s.tableEntry dva level table with
    | none => none
    | some (.inl leaf) => some leaf
    | some (.inr next) => match level with
      | 0 => none
      | l + 1 => s.walk dva l next

/-- The entries that a walk reads. -/
def State.walkReads (s : State) (dva : Nat) : Nat → Nat → List Nat
  | level, table => entryAddr dva level table :: match s.tableEntry dva level table with
    | some (.inr next) => (match level with | 0 => [] | l + 1 => s.walkReads dva l next)
    | _ => []

/-- Where a device virtual address leads: store, address there, whether it is a BANK page, and whether a write meets a BANK leaf with
WRITE 0 (R381, R382). -/
structure Phys where
  sel : MemSel
  addr : Nat
  bank : Bool
  shut : Bool
  deriving DecidableEq, Repr

/-- The translation of one address for reading or writing (R146, R381); a fresh walk each time (log entry 8). -/
def State.xlate (s : State) (ctx dva : Nat) (wr : Bool) : Except Flt Phys :=
  if 2 ^ 48 ≤ dva then .error (.xl 3 dva)
  else match s.walk dva 3 (s.rd .ptRoot ctx) with
    | none => .error (.xl 1 dva)
    | some l =>
      if wr && !l.write && !l.bank then .error (.xl 2 dva)
      else .ok ⟨if l.host then .host else .stack, l.addr + dva % l.size, l.bank, wr && !l.write⟩

/-- The pieces of a range of addresses, none crossing a 64 KiB border: address and length. -/
def pagePieces : Nat → Nat → Nat → List (Nat × Nat)
  | 0, _, _ => []
  | k + 1, a, n =>
    if n = 0 then [] else
    let l := min n (65536 - a % 65536)
    (a, l) :: pagePieces k (a + l) (n - l)

/-- All 64 KiB pieces of a range. -/
def pieces (a n : Nat) : List (Nat × Nat) := pagePieces (n / 65536 + 2) a n

/-- The first byte of a range of host memory that the translations of the context's function refuse, with the reason, where ATS is
enabled (R402). -/
def State.atsFault (s : State) (ctx a n : Nat) (wr : Bool) : Option (Nat × Nat) :=
  let fn := s.fld .ctxAdmin ctx 0 1 5
  if !s.u.host.ats.contains fn then none else
  (List.range ((a + n - 1) / 4096 + 1 - a / 4096)).findSome? fun j =>
    let page := a / 4096 + j
    match s.u.host.atsDeny.find? fun d => d.1 == fn && d.2.1 == page with
    | none => none
    | some d => if d.2.2 && !wr then none else some (if d.2.2 then 2 else 1, max a (4096 * page) - a)

/-- A range translated piece by piece; `pages` says which pages may be reached: it is told whether a page is BANK. -/
def State.xlateAll (s : State) (ctx : Nat) (wr : Bool) (pages : Bool → Bool) :
    List (Nat × Nat) → Except Flt (List (MemSel × Nat × Nat))
  | [] => .ok []
  | (a, n) :: r =>
    match s.xlate ctx a wr with
    | .error e => .error e
    | .ok p =>
      if !pages p.bank then .error (.bank a)
      else if p.shut then .error (.xl 2 a)
      else match if p.sel = .host then s.atsFault ctx p.addr n wr else none with
      | some (r, o) => .error (.xl r (a + o))
      | none => match s.xlateAll ctx wr pages r with
        | .error e => .error e
        | .ok l => .ok ((p.sel, p.addr, n) :: l)

/-- The places of a range of a context's addresses, or the fault; ordinary pages only where nothing else is said (R228).
A range past 48 bits faults there. -/
def State.span (s : State) (ctx dva n : Nat) (wr : Bool) (pages : Bool → Bool := not) :
    Except Flt (List (MemSel × Nat × Nat)) :=
  s.xlateAll ctx wr pages (pieces dva n)

/-- The bytes at translated places. -/
def State.rdSpan (s : State) (l : List (MemSel × Nat × Nat)) : PBytes := l.flatMap fun p => s.rdAny p.1 p.2.1 p.2.2

/-- Bytes read in a context's address space. -/
def State.rdCtx (s : State) (ctx dva n : Nat) : Except Flt PBytes :=
  match s.span ctx dva n false with
  | .error e => .error e
  | .ok l => .ok (s.rdSpan l)

/-- Bytes are written to translated places, in order. -/
def Act.wrSpan : List (MemSel × Nat × Nat) → PBytes → Act
  | [], _ => .skip
  | (m, a, n) :: r, bs => .seq (.wrAny m a (bs.take n)) (Act.wrSpan r (bs.drop n))

/-- Poison met at translated places is counted: POISON_READS of the stack, or POISONED_TLP_IN of the context's function
for host memory, a non-fatal error of the link (R288, R399, R401, R477). -/
def Act.noteSpan (ctx : Nat) (l : List (MemSel × Nat × Nat)) : Act :=
  .each l fun p => match p.1 with
    | .host => .get fun s => .when (anyPoison (s.rdMem .host p.2.1 p.2.2))
        (.seq (.count .hostCount (s.fld .ctxAdmin ctx 0 1 5) 5) (.errEvent 56 0))
    | _ => .noteRead p.1 p.2.1 p.2.2

/-- The page-table entries that the translation of a range reads are read from stack memory like any burst (R269, R288). -/
def Act.noteWalks (ctx dva n : Nat) : Act :=
  .get fun s => .when (s.u.mem.faulty || !s.stack.poison.isEmpty)
    (.each ((pieces dva n).flatMap fun p => s.walkReads p.1 3 (s.rd .ptRoot ctx)) fun a => .noteRead .stack a 8)

/-- Poisoned bytes written to host memory are counted in POISONED_TLP_OUT (R401). -/
def Act.noteOut (ctx : Nat) (l : List (MemSel × Nat × Nat)) (bs : PBytes) : Act :=
  .when (anyPoison bs && l.any fun p => p.1 == .host) (.get fun s => .count .hostCount (s.fld .ctxAdmin ctx 0 1 5) 6)

/-- A translation that faulted on a page-table entry read that entry (R273, R288). -/
def Act.noteFlt (ctx : Nat) : Flt → Act
  | .xl _ a => .noteWalks ctx a 1
  | .bank _ => .skip

/-- Bytes are read in a context's address space and handed on, poisoned bursts counted; or the fault is. -/
def Act.rdCtx (ctx dva n : Nat) (k : Except Flt PBytes → Act) : Act :=
  .get fun s => .seq (.noteWalks ctx dva n) (
    match s.span ctx dva n false with
    | .error e => k (.error e)
    | .ok l => .seq (.noteSpan ctx l) (k (.ok (s.rdSpan l))))

/-- Ranges of a context are read for what they hold, which the reader takes from the state: poison met is counted (R288, R401). -/
def Act.noteReads (ctx : Nat) (l : List (Nat × Nat)) : Act := .each l fun p => .rdCtx ctx p.1 p.2 fun _ => .skip

/-- Bytes are written in a context's address space, all or none of them, and the outcome is handed on. -/
def Act.wrCtx (ctx dva : Nat) (bs : PBytes) (k : Option Flt → Act) : Act :=
  .get fun s => .seq (.noteWalks ctx dva bs.length) (
    match s.span ctx dva bs.length true with
    | .error e => k (some e)
    | .ok l => .all [.wrSpan l bs, .noteOut ctx l bs, k none])

/-! ### Partitions (R276, R277) -/

/-- The partition of a context (R397). -/
def State.partOf (s : State) (ctx : Nat) : Nat := s.fld .ctxAdmin ctx 0 8 4

/-- Granules of the stack memory places, by interface: west, east. -/
def State.granules (s : State) (l : List (MemSel × Nat × Nat)) : Nat × Nat :=
  l.foldl (fun acc p =>
    if p.1 = .stack ∧ 0 < p.2.2 then
      (List.range ((p.2.1 + p.2.2 - 1) / 128 + 1 - p.2.1 / 128)).foldl (fun (c : Nat × Nat) j =>
        if s.u.mem.east ((p.2.1 / 128 + j) * 128) then (c.1, c.2 + 1) else (c.1 + 1, c.2)) acc
    else acc) (0, 0)

/-- Traffic of a context is charged to its partition: granules counted, `cost` tokens for each (R276, R230). -/
def Act.charge (ctx : Nat) (l : List (MemSel × Nat × Nat)) (cost : Nat := 1) : Act :=
  .get fun s =>
    let p := s.partOf ctx
    let g := s.granules l
    .all [.count .partitionCount p 0 g.1, .count .partitionCount p 1 g.2,
      .when (s.fld .partition p 0 0 32 != 0) (.units fun u => { u with mem := { u.mem with
        spent := tmod (tmod u.mem.spent (2 * p) 0 (· + cost * g.1)) (2 * p + 1) 0 (· + cost * g.2) } })]

/-- Traffic to a range of a context's addresses is charged, where they translate. -/
def Act.chargeAt (ctx dva n : Nat) (wr : Bool) : Act :=
  .get fun s => match s.span ctx dva n wr with | .ok l => .charge ctx l | .error _ => .skip

/-- Tokens a partition's bucket holds at one interface: half of BURST_KIB in granules of 128 bytes (R277). -/
def State.bucketDepth (s : State) (p : Nat) : Nat := s.fld .partition p 0 32 16 * 1024 / 2 / 128

/-- A channel loop-back runs (R280). -/
def State.loopback (s : State) : Bool := s.fld .lbCtrl 0 0 31 1 == 1

/-- The granules of a range of addresses, each by its first address. -/
def granulesAt (a n : Nat) : List Nat := if n = 0 then [] else (List.range ((a + n - 1) / 128 + 1 - a / 128)).map fun j => (a / 128 + j) * 128

/-- Some granule of these places lies in the stack that loops back, or would (R280). -/
def State.lbReaches (s : State) (l : List (MemSel × Nat × Nat)) : Bool :=
  l.any fun p => p.1 == .stack && (granulesAt p.2.1 p.2.2).any fun g => (s.u.mem.place g).stack == s.fld .lbCtrl 0 0 0 5

/-- The crossing of an interface that these places are reached through has no credit left (R261). -/
def State.crossingFull (s : State) (l : List (MemSel × Nat × Nat)) : Bool :=
  let full (i n : Nat) : Bool := n != 0 && 4096 ≤ tgetD s.u.mem.queued i 0
  let g := s.granules l
  full 0 g.1 || full 1 g.2

/-- A channel loop-back holds requests to these places: at the interface, or before a crossing that held requests have filled (R261,
R280). -/
def State.lbHolds (s : State) (l : List (MemSel × Nat × Nat)) : Bool := s.loopback && (s.lbReaches l || s.crossingFull l)

/-- Accesses that Melkody makes on its own account go through: no loop-back runs. The saddle's memory is HASHED over every stack (R262,
R280; log entry 115). -/
def State.ownGoes (s : State) : Bool := !s.loopback

/-- Requests of a context to these places find a token at every interface they go to (R277; a row takes its tokens at once, log entry
21). -/
def State.tokensOk (s : State) (ctx : Nat) (l : List (MemSel × Nat × Nat)) : Bool :=
  let p := s.partOf ctx
  let g := s.granules l
  let finds (i n : Nat) : Bool := n == 0 || tgetD s.u.mem.spent (2 * p + i) 0 < s.bucketDepth p
  s.fld .partition p 0 0 32 == 0 || (finds 0 g.1 && finds 1 g.2)

/-- Requests of a context to these places go through. -/
def State.memGoes (s : State) (ctx : Nat) (l : List (MemSel × Nat × Nat)) : Bool := !s.lbHolds l && s.tokensOk ctx l

end Sys2Proof.Machine
end

