-- ==== Sys2Proof/Machine/Evt.lean ====
section
/-! DEFINITION. What every chapter raises beside events: the recovery epoch (R395), the phase (R33 to R37), telemetry records
(R65 to R67), and the start of a context fault (R392 steps 1 to 4). -/

namespace Sys2Proof.Machine

/-! ### Recovery epoch (R395) -/

/-- The recovery epoch rises by one, modulo 2³². -/
def Act.epochUp : Act := .countFld .recoveryEpoch 0 0 0 32

/-! ### Phase (R33 to R37) -/

/-- The rows of R37 awake in a phase: bit r of the mask of each phase (0 IDLE, 1 ROLLOUT, 2 MOLT, 3 LEARN). -/
def awakeMask : Nat → Nat
  | 0 => 0
  | 1 => 0b1110110011011
  | 2 => 0b1011010010000
  | _ => 0b1100001110111

/-- Unit classes of R37 by their row. -/
def unitTE : Nat := 0
def unitVE : Nat := 1
def unitSR : Nat := 2
def unitSample : Nat := 3
def unitDM : Nat := 4
def unitScree : Nat := 5
def unitBank : Nat := 6
def unitTarn : Nat := 7
def unitStore : Nat := 8
def unitReshard : Nat := 9
def unitFold : Nat := 10
def unitDispatch : Nat := 11
def unitColl : Nat := 12

/-- A molt executes (R342, R374): MOLT_STATE reads CHECKING, RUNNING, READY or IN_DOUBT. -/
def State.moltRuns (s : State) : Bool := 1 ≤ s.rd .moltState && s.rd .moltState ≤ 4

/-- A molt of this context executes (R342, R396). -/
def State.moltOf (s : State) (ctx : Nat) : Bool := s.moltRuns && s.u.moltCtx == ctx

/-- A learn job is open in some stream (R33). -/
def State.learnOpen (s : State) : Bool := s.u.core.streams.any fun p => p.2.jobOpen && p.2.jobLearn

/-- Sessions in state OPEN or DRAINING (R180). -/
def State.sessionsOpen (s : State) : Nat :=
  ((List.range 256).filter fun i => s.rd .sessionState i == 1 || s.rd .sessionState i == 2).length

/-- The phase the work present calls for (R33). -/
def State.phaseDue (s : State) : Nat :=
  if s.moltRuns then 2 else if s.learnOpen then 3 else if 0 < s.sessionsOpen then 1 else 0

/-- A unit of R37 as a number: TEs, VEs with their optimizer paths and sampling lanes, DMs and scree logic belong to a core, the
other rows to the device (log entry 78). -/
def unitKey (row core : Nat) : Nat := if row < 6 then row * 256 + core else row * 256

/-- The phase is evaluated: on a change it is counted and traced, and every unit the new phase keeps awake runs again
(R33, R36, R38). -/
def Act.phase : Act :=
  .get fun s =>
    let p := s.phaseDue
    if p = s.rd .phase then .skip else
    .all [.reg .phase 0 p, .countFld .phaseChanges 0 0 0 32, .trace 6 0 0 p 0,
      .core fun c => { c with gated := c.gated.filter fun r => !bit (awakeMask p) (r / 256) }]

/-- A unit that is gated by the phase wakes on demand, which is counted (R34). -/
def Act.needUnit (row core : Nat) : Act :=
  .get fun s => .when (s.u.core.gated.contains (unitKey row core))
    (.seq (.core fun c => { c with gated := sdel c.gated (unitKey row core) }) (.countFld .demandWakes 0 0 0 64))

/-! ### Crossings that stall (R31) -/

/-- The clock of a column in MHz: as COLUMN_STATE has it, 1,600 until the governor has set one. -/
def State.colClock (s : State) (col : Nat) : Nat :=
  if s.fld .columnState 0 (4 * col) 16 16 = 0 then 1600 else s.fld .columnState 0 (4 * col) 16 16

/-- The crossings that keep a mark while their producer waits: from the sequencer to an engine's queue, a port's virtual channel, a
physical gate before which a notice waits, and a memory interface's request queue. -/
def stallQueue (core eng : Nat) : Nat := core * 8 + eng
def stallVc (port vc : Nat) : Nat := 2048 + port * 8 + vc
def stallGate (core gate : Nat) : Nat := 4096 + core * 32 + gate
def stallMem (east : Bool) : Nat := 16384 + b2n east

/-- A producer begins to wait for credits. -/
def Act.stallBegin (x : Nat) : Act :=
  .units fun u => if (tget u.stalls x).isSome then u else { u with stalls := tset u.stalls x u.time }

/-- The counter of a crossing, as entry, index and number there, and the crossing's clock in MHz (R31, R38, R261, R459). -/
def State.stallPlace (s : State) (x : Nat) : EName × Nat × Nat × Nat :=
  if x < stallVc 0 0 then (.engineQueueExhaust, x / 48, x / 8 % 6 * 7 + x % 8, s.colClock (x / 96))
  else if x < stallGate 0 0 then (.colVcExhaust, (x - stallVc 0 0) / 8, (x - stallVc 0 0) % 8, 1600)
  else if x < stallMem false then
    (.coreGateExhaust, (x - stallGate 0 0) / 32, (x - stallGate 0 0) % 32, s.colClock ((x - stallGate 0 0) / 384))
  else (.memqExhaust, x - stallMem false, 0, 2000)

/-- Cycles of its clock that a crossing's producer has waited since a moment. -/
def State.stallCycles (s : State) (x since : Nat) : Nat := (s.now - since) * (s.stallPlace x).2.2.2 / 1000

/-- A producer waits no longer: the cycles that it waited are counted. -/
def Act.stallEnd (x : Nat) : Act :=
  .get fun s => match tget s.u.stalls x with
    | none => .skip
    | some t =>
      let p := s.stallPlace x
      .seq (.units fun u => { u with stalls := tdel u.stalls x }) (.count p.1 p.2.1 p.2.2.1 (s.stallCycles x t))

/-- Sequencers wait no longer where an engine's queue has a free entry again (R21, R31). -/
def Act.settleQueues : Act :=
  .get fun s => .each (s.u.stalls.filter fun p => p.1 < stallVc 0 0 && (tgetD s.u.core.engQ p.1 []).length < 16) fun p => .stallEnd p.1

/-- Requests stand in an interface's crossing; where its credits run out, the producer waits (R29, R261). -/
def Act.enterCrossing (east : Bool) (n : Nat) : Act :=
  .get fun s =>
    let held := tgetD s.u.mem.queued (b2n east) 0
    .seq (.units fun u => { u with mem := { u.mem with queued := tset u.mem.queued (b2n east) (min 4096 (held + n)) } })
      (.when (decide (4096 < held + n)) (.stallBegin (stallMem east)))

/-- Requests of a context that a loop-back holds stand in the crossings they go to (R261, R280); requests that wait for tokens stand
before them (R277). -/
def Act.memHeld (l : List (MemSel × Nat × Nat)) : Act :=
  .get fun s => .when (s.loopback && s.lbReaches l) (.seq (.enterCrossing false (s.granules l).1) (.enterCrossing true (s.granules l).2))

/-- A request waits for memory: it stands behind those that wait already, or stays where it stands (R277). -/
def Act.memWait (ctx who ser : Nat) (l : List (MemSel × Nat × Nat)) : Act :=
  .get fun s => .when (!s.u.mem.waits.any fun w => w.who == who && w.ser == ser) (.units fun u => { u with mem := { u.mem with
    waits := u.mem.waits.filter (fun w => w.who != who) ++ [⟨s.partOf ctx, (s.granules l).1, (s.granules l).2, who, ser⟩] } })

/-- The loop-back is over: the requests are served, their credits return, and producers that waited count their wait (R31, R261). -/
def Act.crossingsFree : Act :=
  .seq (.units fun u => { u with mem := { u.mem with queued := [] } })
    (.each [false, true] fun east => .stallEnd (stallMem east))

/-! ### Context faults (R392 steps 1 to 4, R394) -/

/-- CTX_STATE of a context (R377). -/
def State.ctxState (s : State) (ctx : Nat) : Nat := s.rd .ctxState ctx

/-- The function that owns a context (R397). -/
def State.ctxFn (s : State) (ctx : Nat) : Nat := s.fld .ctxAdmin ctx 0 1 5

/-- A context is of class LC (R397). -/
def State.isLC (s : State) (ctx : Nat) : Bool := s.fld .ctxAdmin ctx 0 0 1 == 0

/-- The hardware queues whose CONTEXT names a context and that are configured at all. -/
def State.queuesOf (s : State) (ctx : Nat) : List Nat :=
  (s.regs.filterMap fun p => if EName.queueCfg.key 0 ≤ p.1 ∧ p.1 < EName.queueCfg.key 0 + 65536 then
      some (p.1 - EName.queueCfg.key 0) else none).filter fun q => s.fld .queueCfg q 0 8 10 == ctx

/-- A queue is VALID (R383). -/
def State.qValid (s : State) (q : Nat) : Bool := s.fld .queueCfg q 0 0 1 == 1

/-- The unretired commands of a context that have reached an engine's queue, or are saved. -/
def State.cmdsOf (s : State) (ctx : Nat) : List Cmd :=
  (s.u.core.engQ.flatMap fun p => p.2.filter fun m => m.ctx == ctx) ++
    (s.u.core.cc.filter fun p => p.1 % 1024 == ctx).flatMap fun p => p.2.saved

/-- A teardown or a context reset begins, which is traced (R488). -/
def Act.traceTeardown (ctx : Nat) : Act :=
  .get fun s => .trace 2 0 ctx ((s.queuesOf ctx).filter s.qValid).length (s.rd .recoveryEpoch)

/-- Teardown starts (R392 steps 1 to 4): the epoch rises, the context reads TEARDOWN, its commands leave the engine
queues and its saved commands are dropped, its messages that wait on flows are not sent, and
answers to its GETs and atomics write nothing more. A command that wrote poison says so in
its record (R145). -/
def Act.tearStart (ctx : Nat) (t : Tear) : Act :=
  .all [.epochUp, .reg .ctxState ctx 2,
    .get fun s => .each (s.cmdsOf ctx |>.filter Cmd.poison) fun m => .core fun c => { c with
      streams := tmod c.streams m.q {} fun t => { t with fly := t.fly.map fun f => if f.idx = m.idx then { f with poison := true } else f } },
    .get fun s => .core fun c => { c with
      tear := tset c.tear ctx { t with epoch := s.rd .recoveryEpoch, time := s.now }
      engQ := c.engQ.map fun p => (p.1, p.2.filter fun m => m.ctx != ctx)
      cc := c.cc.map fun p => (p.1, if p.1 % 1024 = ctx then { p.2 with saved := [] } else p.2) },
    .settleQueues,
    .get fun s => .units fun u => { u with
      colls := u.colls.filter fun c => c.ctx != ctx
      flows := u.flows.map fun p => (p.1, if s.fld .flowCfg p.1 0 8 10 = ctx then { p.2 with sendq := [], awaits := [] } else p.2) },
    .traceTeardown ctx]

/-- FAULT_INFO takes the fault (R398). -/
def Act.faultInfo (ctx q qseq status reason : Nat) : Act :=
  .get fun s => .reg .faultInfo ctx
    (q % 2 ^ 16 + qseq % 2 ^ 16 * 2 ^ 16 + status * 2 ^ 32 + reason * 2 ^ 40 + s.now % 2 ^ 64 * 2 ^ 64)

/-- A write Melkody makes on its own account faults: the context is torn down with no faulting command (R394).
Kinds: 1 completion record, 2 HEAD, 3 telemetry, 4 step plan, 5 step ring, 6 rollout store, 7 status record. -/
def Act.ownFault (ctx kind : Nat) (e : Flt) : Act :=
  .get fun s =>
    if s.ctxState ctx ≠ 1 then .skip else
    let st := match e with | .xl r a => (4, r, a) | .bank a => (3, 0x27, a)
    .all [.faultInfo ctx 0xFFFF 0 st.1 st.2.1, .trace 1 0 ctx st.2.2 kind, .tearStart ctx {}]

/-- Melkody writes into a context's address space on its own account (R394). -/
def Act.wrOwn (ctx kind dva : Nat) (bs : PBytes) : Act :=
  .wrCtx ctx dva bs fun
    | none => .skip
    | some e => .ownFault ctx kind e

/-! ### Telemetry (R65 to R67) -/

/-- The counters after an addition, each modulo 2⁶⁴ (R64). -/
def MonDelta.add (a b : MonDelta) : MonDelta :=
  let f (x y : Nat) : Nat := (x + y) % 2 ^ 64
  ⟨f a.el b.el, f a.ze b.ze, f a.sa b.sa, f a.nf b.nf, f a.fl b.fl, f a.nb b.nb, f a.po b.po⟩

/-- Counters minus shadow, modulo 2⁶⁴ (R65). -/
def MonDelta.sub (a b : MonDelta) : MonDelta :=
  let f (x y : Nat) : Nat := (x + 2 ^ 64 - y) % 2 ^ 64
  ⟨f a.el b.el, f a.ze b.ze, f a.sa b.sa, f a.nf b.nf, f a.fl b.fl, f a.nb b.nb, f a.po b.po⟩

/-- The owner of a tensor ID, if it is owned (R379). -/
def State.tidOwner (s : State) (tid : Nat) : Option Nat :=
  if s.fld .tidOwner tid 0 15 1 = 1 then some (s.fld .tidOwner tid 0 0 10) else none

/-- The words of a delta record (R67). -/
def deltaWords (tid ctx source : Nat) (dropped : Bool) (tag time : Nat) (d : MonDelta) : List Nat :=
  [tid + ctx * 2 ^ 16 + source * 2 ^ 26 + b2n dropped * 2 ^ 28 + tag % 2 ^ 32 * 2 ^ 32, time % 2 ^ 64, d.el, d.ze, d.sa, d.nf,
    d.fl, min d.nb (2 ^ 32 - 1) + min d.po (2 ^ 32 - 1) * 2 ^ 32]

/-- One delta record goes into the ring, or is discarded when the ring is full (R66). -/
def Act.teleRecord (ctx source tag tid : Nat) : Act :=
  .get fun s =>
    let m := tgetD s.u.core.mon tid {}
    let size := s.rd .ringSize ctx
    let w := s.rd .writeIndex ctx
    if m.tot = m.shadow ∨ size = 0 ∨ s.ctxState ctx ≠ 1 then .skip
    else if (w + 2 ^ 32 - s.rd .readIndex ctx) % 2 ^ 32 = size then
      .seq (.count .droppedRecords ctx 0) (.core fun c => { c with dropMark := sadd c.dropMark ctx })
    else .all [
      .wrOwn ctx 3 (s.rd .ringBase ctx + w % size * 64)
        (wordBytes (deltaWords tid ctx source (s.u.core.dropMark.contains ctx) tag s.now (m.tot.sub m.shadow))),
      .get fun t => .when (t.ctxState ctx == 1) (.seq (.reg .writeIndex ctx (w + 1))
        (.core fun c => { c with mon := tset c.mon tid { m with shadow := m.tot }, dropMark := sdel c.dropMark ctx }))]

/-- A trigger writes one record for each changed tensor ID of the context, in rising order (R65). -/
def Act.telemetry (ctx source tag : Nat) : Act :=
  .get fun s => .when (bit (s.rd .recordEnable ctx) source)
    (.each (s.u.core.mon.filter fun p => s.tidOwner p.1 == some ctx) fun p => .teleRecord ctx source tag p.1)

end Sys2Proof.Machine
end

