-- ==== Sys2Proof/Machine/Access.lean ====
section
/-! DEFINITION. Requests to the dictionary: classes, rights and their checks (R434 to R438, R445 to R447), the CONFIG
lock, and how a value that passed its checks is stored (R439, R440). -/

namespace Sys2Proof.Machine

/-! ### Statuses (R446) -/

def stOk : Nat := 0
def stBusy : Nat := 1
def stNoEntry : Nat := 2
def stAccess : Nat := 3
def stDirection : Nat := 4
def stLocked : Nat := 5
def stRefused : Nat := 6
def stMalformed : Nat := 7
def stLength : Nat := 8
def stFlash : Nat := 9
def stStale : Nat := 10

/-! ### Classes and rights (R434 to R436, R378) -/

/-- The bit of a requester's class in the rights of an entry (R445). -/
def reqClass : Requester → Nat
  | .hostPf => 0
  | .hostVf _ => 1
  | .bmc _ => 2
  | .peer _ => 3
  | .firmware _ => 4

/-- The function of a host requester. -/
def reqFn : Requester → Option Nat
  | .hostPf => some 0
  | .hostVf f => some f.val
  | _ => none

/-- The requester is HOST-PF or FIRMWARE, which may write the entries of every context (R378). -/
def reqRules (r : Requester) : Bool := reqClass r == 0 || reqClass r == 4

/-- The requester may write the entries of a context (R378). -/
def State.mayWriteCtx (s : State) (r : Requester) (ctx : Nat) : Bool :=
  reqRules r || (reqClass r == 1 && reqFn r == some (s.ctxFn ctx))

/-- The context of a version entry's owner, of a session, of a stream and so on: the field every such entry keeps at
bits 17:8 of its first word. -/
def State.ctxField (s : State) (n : EName) (i : Nat) : Nat := s.fld n i 0 8 10

/-- Whose an entry is: nothing where no owner narrows a function's rights, otherwise the owning function if there is one
(R378, R379, R383, R236, R258, R334, R479). -/
def State.ownerFn (s : State) (n : EName) (i : Nat) : Option (Option Nat) :=
  match n with
  | .ctxAdmin | .ptRoot | .ctxState | .ctxReset | .ptInvalidate | .jobCount | .faultInfo | .ringBase | .ringSize
  | .writeIndex | .readIndex | .droppedRecords | .recordEnable | .pepperSeed | .pepperReady => some (some (s.ctxFn i))
  | .tidOwner | .monEntry => some ((s.tidOwner i).map s.ctxFn)
  | .queueCfg | .queueState => some (some (s.ctxFn (s.fld .queueCfg i 0 8 10)))
  | .splitGrad | .lbrStream | .flowCfg | .collGroup => some (some (s.ctxFn (s.ctxField n i)))
  | .flowState => some (some (s.ctxFn (s.ctxField .flowCfg i)))
  | .versionEntry | .versionShare | .repairSrc | .versionRelease =>
    some (if s.fld .versionEntry i 0 16 1 = 1 ∨ s.fld .versionEntry i 0 48 1 = 1 then some (s.ctxFn (s.fld .versionEntry i 0 50 10)) else none)
  | .sessionDesc | .sessionState | .stepRead | .sessionCount =>
    if s.rd .sessionState i = 0 then none else some ((tget s.u.sess i).map fun x => s.ctxFn x.ctx)
  | .eventVec | .evtRing | .evtWidx => some (some i)
  | _ => none

/-- A virtual function owns the entry where that counts. -/
def State.owns (s : State) (r : Requester) (n : EName) (i : Nat) : Bool :=
  match r with
  | .hostVf f => match s.ownerFn n i with
    | none => true
    | some o => o == some f.val
  | _ => true

/-- The requester has the right to read the entry (R435, R436, R378). -/
def State.mayRead (s : State) (r : Requester) (n : EName) (i : Nat) : Bool :=
  bit n.info.rd (reqClass r) && s.owns r n i && !(reqClass r == 3 && s.rd .peerDict == 0)

/-- The requester has the right to write the entry. -/
def State.mayWrite (s : State) (r : Requester) (n : EName) (i : Nat) : Bool :=
  bit n.info.wr (reqClass r) && s.owns r n i && !(reqClass r == 3 && s.rd .peerDict == 0)

/-- The requester has some right to the entry, whatever its access code allows (R445). -/
def State.hasRight (s : State) (r : Requester) (n : EName) (i : Nat) : Bool := s.mayRead r n i || s.mayWrite r n i

/-- The access code allows reading. -/
def EName.readable (n : EName) : Bool := n.info.acc != .wo

/-- The access code allows writing. -/
def EName.writable (n : EName) : Bool := n.info.acc != .ro

/-! ### The server (R453) and the lock (R437, R438) -/

/-- The saddle firmware runs: verified, not restarting, and not stopped by reset, DEEP or power. -/
def State.fwRuns (s : State) : Bool :=
  let p := s.u.pow
  p.power && !p.perst && p.boot == .running && !p.restarting && !p.deep

/-- The dictionary serves this requester: the firmware runs, and host functions wait for READY (R406, R453). -/
def State.served (s : State) (r : Requester) : Bool := s.fwRuns && ((reqFn r).isNone || s.u.pow.ready)

/-- An identity holds the CONFIG lock. -/
def State.holds (s : State) (r : Requester) : Bool := s.u.dict.holder == some r

/-- A request by the holder renews the lease (R438). -/
def Act.renew (r : Requester) : Act :=
  .get fun s => .when (s.holds r) (.dict fun d => { d with leaseAt := s.now })

/-! ### The staging of an identity (R447) -/

def State.did (s : State) (r : Requester) : DictId := ((s.u.dict.ids.find? fun p => p.1 == r).map Prod.snd).getD {}

def Act.did (r : Requester) (f : DictId → DictId) : Act :=
  .get fun s => .dict fun d => { d with ids := (d.ids.filter fun p => !(p.1 == r)) ++ [(r, f (s.did r))] }

/-- A staging is discarded, and counts (R447). -/
def Act.stageDrop (r : Requester) : Act :=
  .get fun s => .when (s.did r).stKey.isSome (.seq (.did r fun d => { d with stKey := none, stData := [] }) (.count .dictCount 0 4))

/-- A request for an address comes from an identity, on whichever path: it renews the holder's lease, and discards a staging for another
entry (R438, R447). -/
def Act.asks (r : Requester) (key : Nat) : Act :=
  .seq (.renew r) (.get fun s => .when ((s.did r).stKey.isSome && (s.did r).stKey != some key) (.stageDrop r))

/-- CFG_HOLDER of a holder (R456, R413). -/
def holderCode : Requester → Nat
  | .hostPf => 0
  | .hostVf f => 1 + f.val * 8
  | .bmc e => 2 + e.toNat * 256
  | .peer _ => 3
  | .firmware k => 4 + k.val * 256

/-! ### Checks (R446) -/

/-- Checks 3 to 6 of a write: right, direction, lock (R445, R446). -/
def State.wrGuard (s : State) (r : Requester) (n : EName) (i : Nat) : Nat :=
  if (if n.writable then !s.mayWrite r n i else !s.hasRight r n i) then stAccess
  else if !n.writable then stDirection
  else if n.info.lock && !s.holds r then stLocked
  else stOk

/-- Checks 3 to 5 of a read. -/
def State.rdGuard (s : State) (r : Requester) (n : EName) (i : Nat) : Nat :=
  if (if n.readable then !s.mayRead r n i else !s.hasRight r n i) then stAccess
  else if !n.readable then stDirection
  else stOk

/-- Writes to STORE entries accepted in the last second (R440). -/
def State.storeRecent (s : State) : List Nat := s.u.dict.storeTimes.filter fun t => s.now < t + 10 ^ 9

/-- A value breaks its type (R433). -/
def typeBreaks (n : EName) (v : Nat) : Bool :=
  match n.info.ty with
  | .bool => 1 < v
  | .f32 => bits v 23 8 == 255 && bits v 0 23 != 0
  | _ => false

/-- Checks 10 to 12 of a write that is to be applied (R446). -/
def State.applyGuard (s : State) (n : EName) (v : Nat) : Nat :=
  if n.info.pers == .store && s.noFlash then stFlash
  else if n.info.pers == .store && 16 ≤ s.storeRecent.length then stBusy
  else if typeBreaks n v then stRefused
  else stOk

/-! ### Applying a value -/

/-- An accepted value is stored. A STORE entry takes it at once and answers when the flash holds it (R439, R440; log
entry 23). -/
def Act.store (n : EName) (i v : Nat) : Act :=
  .get fun s => .seq
    (.when (n.info.pers == .store) (.dict fun d => { d with
      storeTimes := s.storeRecent ++ [s.now]
      storeDue := d.storeDue ++ [{ key := n.key i, old := tget s.regs (n.key i) }] }))
    (.reg n i v)

/-- A request counts: its status decides where (DICT_COUNT of R456). -/
def Act.countReq (st : Nat) : Act :=
  .all [.count .dictCount 0 0, .when (2 ≤ st) (.count .dictCount 0 1), .when (st == 1) (.count .dictCount 0 2)]

/-- An entry's own rule: requester, number, value, and what follows with the status it gives. -/
abbrev Rule := Requester → Nat → Nat → (Nat → Act) → Act

/-- A rule that stores the value where a test of the state passes, and refuses it otherwise. -/
def ruleIf (n : EName) (ok : State → Nat → Bool) : Rule := fun _ i v k =>
  .get fun s => if ok s v then .seq (.store n i v) (k stOk) else k stRefused

/-- What a context's state answers a write to its entries: BUSY in TEARDOWN, REFUSED when FAULTED (R377). -/
def State.ctxGate (s : State) (ctx : Nat) : Nat :=
  match s.ctxState ctx with
  | 2 => stBusy
  | 3 => stRefused
  | _ => stOk

/-- A rule for entries of a context, which the entry's number and the state name (R377). -/
def ctxRule (ctxOf : State → Nat → Nat) (rule : Rule) : Rule := fun r i v k =>
  .get fun s => if s.ctxGate (ctxOf s i) ≠ stOk then k (s.ctxGate (ctxOf s i)) else rule r i v k

/-- Bits of fields: byte offset, low bit, length. -/
def fieldMask (l : List (Nat × Nat × Nat)) : Nat := l.foldl (fun m f => m ||| ((2 ^ f.2.2 - 1) <<< (8 * f.1 + f.2.1))) 0

/-- A whole value meets checks 10 to 13 (R446); a write that is applied is traced (R488). -/
def Act.applyWrite (n : EName) (rule : Rule) (r : Requester) (i v : Nat) (k : Nat → Act) : Act :=
  .get fun s => if s.applyGuard n v = stOk then
      rule r i v fun st => .seq (.when (st == stOk)
        (.trace 9 0 0 (n.key i / 256 + n.key i % 256 * 2 ^ 16 + reqClass r * 2 ^ 24) (v % 2 ^ 64))) (k st)
    else k (s.applyGuard n v)

/-- A whole write of one entry by a requester: every check of R446 in order, then the entry's own rule. -/
def Act.entry (n : EName) (rule : Rule) (r : Requester) (i v : Nat) (k : Nat → Act) : Act :=
  .get fun s =>
    if !s.served r then k stBusy
    else if s.wrGuard r n i ≠ stOk then k (s.wrGuard r n i)
    else .applyWrite n rule r i v k

/-- A row that is a write of one entry: the write with its lease, its staging and its counts. -/
def Act.entryRow (n : EName) (rule : Rule) (r : Requester) (i v : Nat) : Act :=
  .seq (.asks r (n.key i)) (.entry n rule r i v Act.countReq)

end Sys2Proof.Machine
end

