-- ==== Sys2Proof/Machine/Pepper.lean ====
section
/-! DEFINITION. The peppered generator (R140 to R143): 528 automata per slot, their start states, and draws. -/

namespace Sys2Proof.Machine

/-- CELL_RULE of R140. -/
def cellRule : Nat := 0x8D3A62F10C5BE94731A6D0F25B8C4E19

/-- One step of the hybrid rule-90/150 automaton (R140): cell i sits in bit i. -/
def pepperStep (c : Nat) : Nat := ((c <<< 1) ^^^ (c >>> 1) ^^^ (cellRule &&& c)) % 2 ^ 128

/-- A draw of `k` bits: bit j of the result is c[0] after step j + 1 (R140). Result and state after. -/
def pepperDraw : Nat → Nat → Nat × Nat
  | 0, c => (0, c)
  | k + 1, c =>
    let c' := pepperStep c
    let r := pepperDraw k c'
    (c' % 2 + 2 * r.1, r.2)

/-- A linear map over GF(2) on 128 cells, as the images of the single cells. -/
abbrev PMat := List Nat

/-- The image of a state. -/
def pmApply : PMat → Nat → Nat
  | [], _ => 0
  | c :: cs, v => (if v % 2 = 1 then c else 0) ^^^ pmApply cs (v / 2)

/-- The map twice. -/
def pmSquare (m : PMat) : PMat := m.map (pmApply m)

/-- The transition T (R141). -/
def pepperT : PMat := (List.range 128).map fun i => pepperStep (2 ^ i)

/-- The map squared `k` times. -/
def pmSquares : Nat → PMat → PMat
  | 0, m => m
  | k + 1, m => pmSquares k (pmSquare m)

/-- The map applied `x` times to a state, over the low `k` bits of x. -/
def pmPower : Nat → PMat → Nat → Nat → Nat
  | 0, _, _, v => v
  | k + 1, m, x, v => pmPower k (pmSquare m) (x / 2) (if x % 2 = 1 then pmApply m v else v)

/-- The base state of a seed (R141). -/
def pepperBase (seed : Nat) : Nat := seed % 2 ^ 64 + (2 ^ 64 - 1 - seed % 2 ^ 64) * 2 ^ 64

/-- The start of lane ℓ of core n: T to the power (n × 528 + ℓ) × 2¹⁰⁰ of the base state (R141). -/
def pepperStart (seed core lane : Nat) : Nat :=
  pmPower 17 (pmSquares 100 pepperT) (core * 528 + lane) (pepperBase seed)

/-- What a context keeps on a core. -/
def State.ctxCore (s : State) (core ctx : Nat) : CtxCore := tgetD s.u.core.cc (core * 1024 + ctx) {}

/-- What a context keeps on a core changes. -/
def Act.ctxCore (core ctx : Nat) (f : CtxCore → CtxCore) : Act :=
  .core fun c => { c with cc := tmod c.cc (core * 1024 + ctx) {} f }

/-- The state of a lane: the one reached, or the start of the context's seed (R141). -/
def State.lane (s : State) (core ctx lane : Nat) : Nat :=
  match tget (s.ctxCore core ctx).pepper lane with
  | some v => v
  | none => pepperStart (s.rd .pepperSeed ctx) core lane

/-- Lanes in use by one command: those already advanced, and the state and command's place to find the others. -/
structure Lanes where
  core : Nat
  ctx : Nat
  adv : Tab Nat := []

/-- A draw of `k` bits from a lane (R142). -/
def Lanes.draw (s : State) (l : Lanes) (lane k : Nat) : Nat × Lanes :=
  let c := match tget l.adv lane with | some v => v | none => s.lane l.core l.ctx lane
  let r := pepperDraw k c
  (r.1, { l with adv := tset l.adv lane r.2 })

/-- The lanes a command advanced take their new states. -/
def Act.lanes (l : Lanes) : Act :=
  .when (!l.adv.isEmpty) (.ctxCore l.core l.ctx fun c => { c with pepper := l.adv.foldl (fun t p => tset t p.1 p.2) c.pepper })

end Sys2Proof.Machine
end

