-- ==== Sys2Proof/Machine/Flags.lean ====
section
/-! DEFINITION. Gates and flag words of a context on a core (R107 to R113), the comparison of a predicate (R114) and
FLAG_SET's operations (R121). The block has no processor flags. -/

namespace Sys2Proof.Machine

/-- A gate of a context on a core (R107). -/
def State.gate (s : State) (core ctx g : Nat) : Gate := tgetD (s.ctxCore core ctx).gates g {}

/-- A gate changes. -/
def Act.gate (core ctx g : Nat) (f : Gate → Gate) : Act :=
  .ctxCore core ctx fun c => { c with gates := tmod c.gates g {} f }

/-- A flag word of a context on a core (R113). -/
def State.flag (s : State) (core ctx n : Nat) : Nat := tgetD (s.ctxCore core ctx).flags n 0

/-- A flag word takes a value. -/
def Act.flag (core ctx n v : Nat) : Act := .ctxCore core ctx fun c => { c with flags := tset c.flags n (v % 2 ^ 32) }

/-- The comparison of a predicate (R114). -/
def predHolds (op x v : Nat) : Bool :=
  match op with
  | 0 => x == v
  | 1 => x != v
  | 2 => v ≤ x
  | _ => x < v

/-- FLAG_SET's result (R121). -/
def flagOp (op old v : Nat) : Nat :=
  match op with
  | 0 => v
  | 1 => (old + v) % 2 ^ 32
  | 2 => old ||| v
  | _ => old &&& (2 ^ 32 - 1 - v)

end Sys2Proof.Machine
end

