-- ==== Sys2Proof/Machine/Num.lean ====
section
/-! DEFINITION. Number formats (R43 to R51), exact arithmetic with one rounding (R52 to R58), stochastic rounding (R59),
conversions with their counted outcomes (R60, R61), and the special functions (R134). -/

namespace Sys2Proof.Machine

/-! ### Exact values -/

/-- A number read from a format: NaN, an infinity, or ± m × 2^e exactly. -/
inductive Val where
  | nan
  | inf (neg : Bool)
  | fin (neg : Bool) (m : Nat) (e : Int)
  deriving DecidableEq, Repr

/-- +0. -/
def Val.zero : Val := .fin false 0 0

/-- The value is zero of either sign. -/
def Val.isZero : Val → Bool
  | .fin _ m _ => m == 0
  | _ => false

/-- The value is infinite or NaN. -/
def Val.nonFinite : Val → Bool
  | .fin _ _ _ => false
  | _ => true

/-- The sign bit. -/
def Val.neg : Val → Bool
  | .nan => false
  | .inf n => n
  | .fin n _ _ => n

/-- The value with its sign turned. -/
def Val.negate : Val → Val
  | .nan => .nan
  | .inf n => .inf !n
  | .fin n m e => .fin (!n) m e

/-- The exact product; infinity times zero is NaN (R53). -/
def Val.mul : Val → Val → Val
  | .nan, _ => .nan
  | _, .nan => .nan
  | .inf a, .inf b => .inf (a != b)
  | .inf a, .fin b m _ => if m = 0 then .nan else .inf (a != b)
  | .fin a m _, .inf b => if m = 0 then .nan else .inf (a != b)
  | .fin a m e, .fin b n f => .fin (a != b) (m * n) (e + f)

/-- A magnitude with sign as an integer in units of 2^e. -/
def signedAt (neg : Bool) (m : Nat) (f e : Int) : Int :=
  let x : Int := (m <<< (f - e).toNat : Nat)
  if neg then -x else x

/-- The exact sum; opposite infinities give NaN, an exact cancellation gives +0, (-0) + (-0) is -0 (R54). -/
def Val.add : Val → Val → Val
  | .nan, _ => .nan
  | _, .nan => .nan
  | .inf a, .inf b => if a = b then .inf a else .nan
  | .inf a, .fin _ _ _ => .inf a
  | .fin _ _ _, .inf b => .inf b
  | .fin a m e, .fin b n f =>
    if m = 0 ∧ n = 0 then .fin (a && b) 0 0
    else if m = 0 then .fin b n f
    else if n = 0 then .fin a m e
    else
      let g := min e f
      let x := signedAt a m e g + signedAt b n f g
      .fin (x < 0) x.natAbs g

/-- The exact product of the value with 2^k. -/
def Val.scale (v : Val) (k : Int) : Val :=
  match v with
  | .fin n m e => .fin n m (e + k)
  | x => x

/-- Strict order on values that are no NaN, +0 and −0 equal (R91). -/
def Val.lt : Val → Val → Bool
  | .nan, _ => false
  | _, .nan => false
  | .inf a, .inf b => a && !b
  | .inf a, .fin _ _ _ => a
  | .fin _ _ _, .inf b => !b
  | .fin a m e, .fin b n f =>
    let g := min e f
    signedAt a m e g < signedAt b n f g

/-- Equality of values that are no NaN, +0 and −0 equal. -/
def Val.eqv (a b : Val) : Bool := a != .nan && b != .nan && !a.lt b && !b.lt a

/-! ### Formats -/

/-- How a format uses its highest exponent: infinities and NaN (IEEE), one NaN code (E4M3), or numbers only. -/
inductive Top where
  | ieee | oneNan | none
  deriving DecidableEq, Repr

/-- A floating-point format: exponent bits, fraction bits, bias, and its highest exponent (R44, R48, R49). -/
structure Fmt where
  eb : Nat
  fb : Nat
  bias : Nat
  top : Top
  deriving DecidableEq, Repr

def fp32 : Fmt := ⟨8, 23, 127, .ieee⟩
def bf16 : Fmt := ⟨8, 7, 127, .ieee⟩
def fp16 : Fmt := ⟨5, 10, 15, .ieee⟩
def w40 : Fmt := ⟨8, 31, 127, .ieee⟩
def e2m1 : Fmt := ⟨2, 1, 1, .none⟩
def e2m3 : Fmt := ⟨2, 3, 1, .none⟩
def e3m2 : Fmt := ⟨3, 2, 3, .none⟩
def e4m3 : Fmt := ⟨4, 3, 7, .oneNan⟩
def e5m2 : Fmt := ⟨5, 2, 15, .ieee⟩

/-- The exponent of the format's smallest spacing. -/
def Fmt.qmin (f : Fmt) : Int := 1 - (f.bias : Int) - f.fb

/-- Sign bit position. -/
def Fmt.sbit (f : Fmt) : Nat := f.eb + f.fb

/-- The code of the largest finite magnitude. -/
def Fmt.maxCode (f : Fmt) : Nat :=
  match f.top with
  | .ieee => (2 ^ f.eb - 1) * 2 ^ f.fb - 1
  | .oneNan => 2 ^ f.sbit - 2
  | .none => 2 ^ f.sbit - 1

/-- The code of +infinity, in formats that have one. -/
def Fmt.infCode (f : Fmt) : Nat := (2 ^ f.eb - 1) * 2 ^ f.fb

/-- The canonical NaN (R51). -/
def Fmt.nanCode (f : Fmt) : Nat :=
  match f.top with
  | .ieee => f.infCode + 2 ^ (f.fb - 1)
  | _ => 2 ^ f.sbit - 1

/-- The value of a code (R44, R48, R49). -/
def Fmt.val (f : Fmt) (code : Nat) : Val :=
  let neg := bit code f.sbit
  let mag := code % 2 ^ f.sbit
  let e := mag / 2 ^ f.fb
  let fr := mag % 2 ^ f.fb
  if f.maxCode < mag then
    (if f.top = .ieee ∧ fr = 0 then .inf neg else .nan)
  else if e = 0 then .fin neg fr f.qmin
  else .fin neg (fr + 2 ^ f.fb) (f.qmin + (e - 1 : Nat))

/-- n / 2^k rounded to nearest, ties to even. -/
def rneShift (n k : Nat) : Nat :=
  let q := n >>> k
  let r := n % 2 ^ k
  if 2 ^ k < 2 * r || (2 * r == 2 ^ k && q % 2 == 1) then q + 1 else q

/-- m × 2^e in units of 2^q, rounded to nearest, ties to even. -/
def rneAt (m : Nat) (e q : Int) : Nat :=
  if q ≤ e then m <<< (e - q).toNat else rneShift m (q - e).toNat

/-- The spacing exponent of a magnitude m × 2^e on a format's grid extended without an upper limit. -/
def Fmt.spacing (f : Fmt) (m : Nat) (e : Int) : Int := max ((log2n m : Int) + e - f.fb) f.qmin

/-- The magnitude code of m × 2^e rounded to nearest even on the unlimited grid; codes run on past the largest one. -/
def Fmt.rnd (f : Fmt) (m : Nat) (e : Int) : Nat :=
  if m = 0 then 0 else
  let q := f.spacing m e
  (q - f.qmin).toNat * 2 ^ f.fb + rneAt m e q

/-- The code with a sign. -/
def Fmt.signed (f : Fmt) (neg : Bool) (mag : Nat) : Nat := b2n neg * 2 ^ f.sbit + mag

/-- Arithmetic rounding to an IEEE-style format: nearest even, overflow to infinity, canonical NaN (R52, R54, R58). -/
def Fmt.arith (f : Fmt) (v : Val) : Nat :=
  match v with
  | .nan => f.nanCode
  | .inf n => f.signed n f.infCode
  | .fin n m e => f.signed n (min (f.rnd m e) f.infCode)

/-- Addition in W40 (R54). -/
def w40Add (a b : Nat) : Nat := w40.arith ((w40.val a).add (w40.val b))

/-- FP32 operations, each rounded once (R58). -/
def fAdd (a b : Nat) : Nat := fp32.arith ((fp32.val a).add (fp32.val b))
def fSub (a b : Nat) : Nat := fp32.arith ((fp32.val a).add (fp32.val b).negate)
def fMul (a b : Nat) : Nat := fp32.arith ((fp32.val a).mul (fp32.val b))
def fFma (a b c : Nat) : Nat := fp32.arith (((fp32.val a).mul (fp32.val b)).add (fp32.val c))

/-- The FP32 code is a NaN. -/
def fNan (a : Nat) : Bool := fp32.val a == .nan

/-- The FP32 value is infinite or NaN. -/
def fBad (a : Nat) : Bool := (fp32.val a).nonFinite

/-- −x. -/
def fNeg (a : Nat) : Nat := if fNan a then fp32.nanCode else a ^^^ 2 ^ 31

/-- a < b in FP32. -/
def fLt (a b : Nat) : Bool := (fp32.val a).lt (fp32.val b)

/-- MAX of R133: NaN if either is NaN, +0 above −0. -/
def fMax (a b : Nat) : Nat :=
  if fNan a || fNan b then fp32.nanCode
  else if fLt a b then b else if fLt b a then a
  else if bit a 31 then b else a

/-- MIN of R133: NaN if either is NaN, −0 below +0. -/
def fMin (a b : Nat) : Nat :=
  if fNan a || fNan b then fp32.nanCode
  else if fLt a b then a else if fLt b a then b
  else if bit a 31 then a else b

def fOne : Nat := 0x3F800000
def fInf : Nat := 0x7F800000
def fNInf : Nat := 0xFF800000
def fL2E : Nat := 0x3FB8AA3B
def fLn2 : Nat := 0x3F317218
def fQnan : Nat := 0x7FC00000

/-- The FP32 code of a natural number. -/
def fOfNat (n : Nat) : Nat := fp32.arith (.fin false n 0)

/-! ### Special functions (R134) -/

/-- The integer square root, bit by bit. -/
def isqrtBits : Nat → Nat → Nat → Nat
  | 0, _, r => r
  | k + 1, n, r => isqrtBits k n (if (r + 2 ^ k) * (r + 2 ^ k) ≤ n then r + 2 ^ k else r)

/-- The integer square root. -/
def isqrt (n : Nat) : Nat := isqrtBits (log2n n / 2 + 1) n 0

/-- The FP32 code at or below a positive magnitude lo × 2^e, one that is not exact being told by the flag. The result of
a special function lies within 1 ulp: the code below or above the true value, or an exact value and its neighbours;
which of them is a free choice that depends on the operation and the operand alone (R134, log entry 2). -/
def sfuPick (op arg lo : Nat) (e : Int) (exact : Bool) : Nat :=
  let q := fp32.spacing lo e
  let m := if q ≤ e then lo <<< (e - q).toNat else lo >>> (q - e).toNat
  let isExact := exact && (q ≤ e || lo % 2 ^ (q - e).toNat == 0)
  let base := if lo = 0 then 0 else (q - fp32.qmin).toNat * 2 ^ 23 + m
  let r := Config.freeResult op arg 0
  if isExact then base - 1 + r % 3 else base + r % 2

/-- Fraction bits carried inside the special functions. -/
def sfuP : Nat := 160

/-- The product of 2^(2^-i) over the set bits of a fraction of `k` bits, in units of 2^-sfuP, from the root `root` on. -/
def exp2Bits : Nat → Nat → Nat → Nat → Nat
  | 0, _, _, acc => acc
  | k + 1, frac, root, acc =>
    let root' := isqrt (root <<< sfuP)
    exp2Bits k frac root' (if bit frac k then (acc * root') >>> sfuP else acc)

/-- exp2 of an FP32 code (R134). -/
def sfuExp2 (a : Nat) : Nat :=
  match fp32.val a with
  | .nan => fQnan
  | .inf n => if n then 0 else fInf
  | .fin neg m e =>
    if m = 0 then sfuPick 8 a 1 0 true else
    let x : Int := signedAt neg m (e + 150) 0
    let big := 0 ≤ (log2n m : Int) + e - 8
    if big then (if neg then sfuPick 8 a 0 0 false else fInf)
    else
      let ip := x / 2 ^ 150
      let fr := (x % 2 ^ 150).toNat
      if 128 ≤ ip then fInf
      else if ip < -150 then sfuPick 8 a 0 0 false
      else sfuPick 8 a (exp2Bits 150 fr (2 ^ (sfuP + 1)) (2 ^ sfuP)) (ip - sfuP) (fr == 0)

/-- Bits of the binary logarithm's fraction, from a value in [1, 2) in units of 2^-400. -/
def log2Bits : Nat → Nat → Nat → Nat
  | 0, _, acc => acc
  | k + 1, y, acc =>
    let y2 := (y * y) >>> 400
    if 2 ^ 401 ≤ y2 then log2Bits k (y2 >>> 1) (2 * acc + 1) else log2Bits k y2 (2 * acc)

/-- log2 of an FP32 code (R134). -/
def sfuLog2 (a : Nat) : Nat :=
  match fp32.val a with
  | .nan => fQnan
  | .inf n => if n then fQnan else fInf
  | .fin neg m e =>
    if m = 0 then fNInf
    else if neg then fQnan
    else
      let k := log2n m
      let fr := log2Bits 100 (m <<< (400 - k)) 0
      let ip : Int := (k : Int) + e
      let exact := m == 2 ^ k
      let x : Int := ip * 2 ^ 100 + fr
      if x = 0 then (if exact then (let r := Config.freeResult 9 a 0 % 3
          if r = 0 then 0 else if r = 1 then 1 else 2 ^ 31 + 1) else sfuPick 9 a 1 (-100) false)
      else if 0 < x then sfuPick 9 a x.toNat (-100) exact
      else 2 ^ 31 + sfuPick 9 a (if exact then (-x).toNat else (-x).toNat - 1) (-100) exact

/-- 1/a of an FP32 code (R134). -/
def sfuRecip (a : Nat) : Nat :=
  match fp32.val a with
  | .nan => fQnan
  | .inf n => fp32.signed n 0
  | .fin neg m e =>
    if m = 0 then fp32.signed neg fInf else
    let num := 2 ^ 200
    let mag := sfuPick 10 a (num / m) (-200 - e) (num % m == 0)
    fp32.signed neg (min mag fInf)

/-- 1/√a of an FP32 code (R134). -/
def sfuRsqrt (a : Nat) : Nat :=
  match fp32.val a with
  | .nan => fQnan
  | .inf n => if n then fQnan else 0
  | .fin neg m e =>
    if m = 0 then fp32.signed neg fInf
    else if neg then fQnan
    else
      -- 1/√(m 2^e) with an even exponent: n = 2^400 / m' and its root
      let odd := e % 2 != 0
      let m' := if odd then 2 * m else m
      let e' := if odd then e - 1 else e
      let n := 2 ^ 400 / m'
      let r := isqrt n
      sfuPick 11 a r (-200 - e' / 2) (2 ^ 400 % m' == 0 && r * r == n)

/-- exp(a) = exp2(a × log₂ e), each step in FP32 (R133). -/
def fExp (a : Nat) : Nat := sfuExp2 (fMul a fL2E)

/-- ln(a) = log2(a) × ln 2 (R137). -/
def fLn (a : Nat) : Nat := fMul (sfuLog2 a) fLn2

/-! ### Conversions (R60, R61) -/

/-- The counted outcomes of one converted element: zero, flushed, saturated, non-finite. -/
structure Conv where
  code : Nat
  ze : Bool := false
  fl : Bool := false
  sa : Bool := false
  nf : Bool := false
  deriving DecidableEq, Repr

/-- Conversion into FP32, BF16, FP16 or an element of a format with infinities (R60). -/
def Fmt.conv (f : Fmt) (v : Val) : Conv :=
  match v with
  | .nan => { code := f.nanCode, nf := true }
  | .inf n => { code := f.signed n f.infCode, nf := true }
  | .fin n m e =>
    let c := f.rnd m e
    if m = 0 then { code := f.signed n 0, ze := true }
    else if c = 0 then { code := f.signed n 0, ze := true, fl := true }
    else if f.maxCode < c then { code := f.signed n f.maxCode, sa := true }
    else { code := f.signed n c }

/-- Conversion into an MXINT8 element of the value in units of the scale (R46, R60, R61). -/
def int8Conv (v : Val) : Conv :=
  match v with
  | .fin n m e =>
    let c := rneAt m e (-6)
    if m = 0 then { code := 0, ze := true }
    else if c = 0 then { code := 0, ze := true, fl := true }
    else if 127 < c then { code := if n then 256 - 127 else 127, sa := true }
    else { code := if n then 256 - c else c }
  | _ => { code := 0, nf := true }

/-- The formats of R73 by code. -/
inductive DFmt where
  | e2m1 | e2m3 | e3m2 | e4m3 | e5m2 | int8 | bf16 | fp16 | fp32 | w40
  deriving DecidableEq, Repr

/-- The format of a code of R73. -/
def dfmt : Nat → Option DFmt
  | 0 => some .e2m1
  | 1 => some .e2m3
  | 2 => some .e3m2
  | 3 => some .e4m3
  | 4 => some .e5m2
  | 5 => some .int8
  | 6 => some .bf16
  | 7 => some .fp16
  | 8 => some .fp32
  | 9 => some .w40
  | _ => none

/-- The format is block-scaled. -/
def DFmt.mx : DFmt → Bool
  | .e2m1 | .e2m3 | .e3m2 | .e4m3 | .e5m2 | .int8 => true
  | _ => false

/-- Element bits in memory; W40 lies in 64-bit containers (R47, R50). -/
def DFmt.ebits : DFmt → Nat
  | .e2m1 => 4
  | .e2m3 | .e3m2 => 6
  | .e4m3 | .e5m2 | .int8 => 8
  | .bf16 | .fp16 => 16
  | .fp32 => 32
  | .w40 => 64

/-- Bytes of one block of 32 elements (R47, R125). -/
def DFmt.blockBytes (f : DFmt) : Nat := f.ebits * 4

/-- The floating-point format of an element. -/
def DFmt.fmt : DFmt → Fmt
  | .e2m1 => Machine.e2m1
  | .e2m3 => Machine.e2m3
  | .e3m2 => Machine.e3m2
  | .e4m3 => Machine.e4m3
  | .e5m2 => Machine.e5m2
  | .int8 => Machine.e4m3
  | .bf16 => Machine.bf16
  | .fp16 => Machine.fp16
  | .fp32 => Machine.fp32
  | .w40 => Machine.w40

/-- The value of an element code, before the scale (R44, R46, R50). -/
def DFmt.elem (f : DFmt) (code : Nat) : Val :=
  match f with
  | .int8 => let x := sInt 8 code; .fin (x < 0) x.natAbs (-6)
  | .w40 => Machine.w40.val (code >>> 24)
  | _ => f.fmt.val code

/-- The value of an element code under a scale code (R45, R46). -/
def DFmt.scaled (f : DFmt) (code scale : Nat) : Val :=
  if scale = 0xFF then .nan else (f.elem code).scale ((scale : Int) - 127)

/-- emax of R44. -/
def DFmt.emax : DFmt → Int
  | .e2m1 | .e2m3 => 2
  | .e3m2 => 4
  | .e4m3 => 8
  | .e5m2 => 15
  | _ => 0

/-- Bytes holding `n` packed elements. -/
def DFmt.bytes (f : DFmt) (n : Nat) : Nat := f.ebits * n / 8

/-- The bytes that hold element `j` of packed elements: first byte and number (R47). -/
def DFmt.at (f : DFmt) (j : Nat) : Nat × Nat :=
  let lo := f.ebits * j / 8
  (lo, (f.ebits * (j + 1) + 7) / 8 - lo)

/-- Element codes packed in bytes, `n` of them from the value of all bytes (R47). -/
def DFmt.unpack (f : DFmt) (n v : Nat) : List Nat := (List.range n).map fun j => bits v (f.ebits * j) f.ebits

/-- Codes packed as R47 gives, as one little-endian value. -/
def DFmt.pack (f : DFmt) : List Nat → Nat
  | [] => 0
  | c :: cs => c + 2 ^ f.ebits * f.pack cs

/-- The exponent FLOOR of a nonzero magnitude. -/
def floorLog (m : Nat) (e : Int) : Int := (log2n m : Int) + e

/-- A finite element converted at scale exponent `k`. -/
def DFmt.convAt (f : DFmt) (v : Val) (k : Int) : Conv :=
  match f with
  | .int8 => int8Conv (v.scale (-k))
  | _ => f.fmt.conv (v.scale (-k))

/-- The larger of two magnitudes. -/
def maxMag (a b : Nat × Int) : Nat × Int :=
  if a.1 = 0 then b else if b.1 = 0 then a
  else if (Val.fin false a.1 a.2).lt (.fin false b.1 b.2) then b else a

/-- amax of a block: the largest finite magnitude (R61). -/
def amax (vs : List Val) : Nat × Int :=
  vs.foldl (fun acc v => match v with | .fin _ m e => maxMag acc (m, e) | _ => acc) (0, 0)

/-- The scale exponent of a block whose finite values are not all zero (R61), clamped. -/
def DFmt.scaleExp (f : DFmt) (fit : Bool) (a : Nat × Int) : Int :=
  let e := floorLog a.1 a.2 - f.emax
  let e' := if fit && (f.convAt (.fin false a.1 a.2) e).sa then e + 1 else e
  max (-127) (min e' 127)

/-- A converted block: scale code, element outcomes, and whether the scale was written 0xFF (R60, R61). -/
structure BlockConv where
  scale : Nat
  elems : List Conv
  nanBlock : Bool := false
  deriving DecidableEq, Repr

/-- 32 values converted into an MX block (R60, R61). -/
def DFmt.block (f : DFmt) (fit : Bool) (vs : List Val) : BlockConv :=
  let bad := match f with | .e5m2 => false | _ => vs.any Val.nonFinite
  if bad then { scale := 0xFF, elems := vs.map fun _ => { code := 0, nf := true }, nanBlock := true }
  else
    let a := amax vs
    if a.1 = 0 then { scale := 0, elems := vs.map fun v => f.convAt v (-127) }
    else
      let k := f.scaleExp fit a
      { scale := (k + 127).toNat, elems := vs.map fun v => f.convAt v k }

/-- Conversion into a scalar storage format; W40 goes into a container (R50, R60). -/
def DFmt.scalar (f : DFmt) (v : Val) : Conv :=
  match f with
  | .w40 => let c := Machine.w40.conv v; { c with code := c.code <<< 24 }
  | _ => f.fmt.conv v

/-! ### Stochastic rounding (R59) -/

/-- t rounded to a format with 16 drawn bits: truncated toward zero, then one step away when r + f ≥ 2¹⁶, with saturation
counted (R59). -/
def Fmt.stoch (f : Fmt) (v : Val) (r : Nat) : Conv :=
  match v with
  | .fin n m e =>
    if m = 0 then { code := f.signed n 0, ze := true } else
    let q := f.spacing m e
    let t0 := if q ≤ e then m <<< (e - q).toNat else m >>> (q - e).toNat
    let fr := if q ≤ e then 0 else (m % 2 ^ (q - e).toNat) * 2 ^ 16 / 2 ^ (q - e).toNat
    let c := (q - f.qmin).toNat * 2 ^ f.fb + t0 + (if 2 ^ 16 ≤ r + fr then 1 else 0)
    if c = 0 then { code := f.signed n 0, ze := true, fl := true }
    else if f.maxCode < c then { code := f.signed n f.maxCode, sa := true }
    else { code := f.signed n c }
  | x => f.conv x

end Sys2Proof.Machine
end

