-- ==== Sys2Proof/Machine/Seq.lean ====
section
/-! DEFINITION. The sequencer's shared parts (R97 to R121): header fields and checks, queues and their indices, gates,
flag words, slots, command faults, retirement. -/

namespace Sys2Proof.Machine

/-! ### Queues (R383, R384) -/

def State.qCtx (s : State) (q : Nat) : Nat := s.fld .queueCfg q 0 8 10
def State.qKind (s : State) (q : Nat) : Nat := s.fld .queueCfg q 0 1 1
def State.qCore (s : State) (q : Nat) : Nat := s.fld .queueCfg q 0 18 8
def State.qSize (s : State) (q : Nat) : Nat := 2 ^ s.fld .queueCfg q 0 32 5
def State.qVec (s : State) (q : Nat) : Nat := s.fld .queueCfg q 0 48 11
def State.qRing (s : State) (q : Nat) : Nat := s.fld .queueCfg q 8 0 48
def State.qCq (s : State) (q : Nat) : Nat := s.fld .queueCfg q 16 0 48
def State.qHeadAddr (s : State) (q : Nat) : Nat := s.fld .queueCfg q 24 0 48
def State.qHead (s : State) (q : Nat) : Nat := s.fld .queueState q 0 0 32
def State.qTail (s : State) (q : Nat) : Nat := s.fld .queueState q 4 0 32

/-- The stream of a queue. -/
def State.stream (s : State) (q : Nat) : Stream := tgetD s.u.core.streams q {}

/-- The stream of a queue changes. -/
def Act.stream (q : Nat) (f : Stream → Stream) : Act := .core fun c => { c with streams := tmod c.streams q {} f }

/-- Free-running 32-bit indices. -/
def idx32 (n : Nat) : Nat := n % 2 ^ 32

/-- The distance from one free-running index up to another. -/
def dist32 (a b : Nat) : Nat := (b + 2 ^ 32 - a % 2 ^ 32) % 2 ^ 32

/-- Device virtual address of descriptor `i` (R384). -/
def State.descAddr (s : State) (q i : Nat) : Nat := s.qRing q + i % s.qSize q * 64

/-- The device runs commands: READY, awake, not FATAL, not removed. -/
def State.runs (s : State) : Bool :=
  s.u.pow.ready && !s.u.pow.fatal && !s.u.pow.nap && !s.u.pow.deep && s.rd .serviceState ≤ 1

/-- Completion and step records, HEAD values and the queues' messages still go out: neither in FATAL nor removed (R482, R494). -/
def State.tells (s : State) : Bool := !s.u.pow.fatal && s.rd .serviceState < 3

/-- The column of a core has its clock (R461): running or clock-gated. -/
def State.columnOn (s : State) (core : Nat) : Bool := s.fld .columnState 0 (core / 12 * 4) 0 2 ≤ 1

/-- A queue has a descriptor to fetch (R384, R386). -/
def State.fetchable (s : State) (q kind : Nat) : Bool :=
  s.qValid q && s.qKind q == kind && s.ctxState (s.qCtx q) == 1 && (s.stream q).next != s.qTail q

/-! ### The header (R97) -/

def hOpcode (d : Desc) : Nat := dfld d 0 0 8
def hEngine (d : Desc) : Nat := dfld d 0 8 3
def hComplete (d : Desc) : Bool := bit (Desc.w d 0) 16
def hIrq (d : Desc) : Bool := bit (Desc.w d 0) 17
def hBlast (d : Desc) : Bool := bit (Desc.w d 0) 18
def hSerial (d : Desc) : Bool := bit (Desc.w d 0) 19
def hBundle (d : Desc) : Nat := dfld d 0 24 8
def hQseq (d : Desc) : Nat := dfld d 0 32 16
def hPredValue (d : Desc) : Nat := dfld d 0 48 16
def hPredKind (d : Desc) : Nat := dfld d 8 48 2
def hPredOp (d : Desc) : Nat := dfld d 8 50 2
def hPredSel (d : Desc) : Nat := dfld d 8 52 4

/-- A gate role: its slot-local gate and units, when enabled. -/
def hWait (d : Desc) : Option (Nat × Nat) := if bit (Desc.w d 1) 3 then some (dfld d 8 0 3, dfld d 8 8 8) else none
def hStream (d : Desc) : Option (Nat × Nat) := if bit (Desc.w d 1) 19 then some (dfld d 8 16 3, dfld d 8 24 8) else none
def hPost (d : Desc) : Option (Nat × Nat) := if bit (Desc.w d 1) 35 then some (dfld d 8 32 3, dfld d 8 40 8) else none

/-- The enabled roles. -/
def hRoles (d : Desc) : List (Nat × Nat) := (hWait d).toList ++ (hStream d).toList ++ (hPost d).toList

/-- The command names a gate in some role. -/
def usesGate (d : Desc) (g : Nat) : Bool := (hRoles d).any fun r => r.1 == g

/-- Classes of opcodes (R98): 0 sequencer, 1 fused, 2 TE, 3 VE, 4 DM. -/
def opClass (op : Nat) : Option Nat :=
  if op ≤ 5 then some 0
  else if 0x10 ≤ op ∧ op ≤ 0x12 then some 1
  else if 0x20 ≤ op ∧ op ≤ 0x22 then some 2
  else if (0x40 ≤ op ∧ op ≤ 0x45) ∨ op = 0x48 ∨ op = 0x4C then some 3
  else if op = 0x80 ∨ (0x84 ≤ op ∧ op ≤ 0x8C) then some 4
  else none

/-- The ENGINE field fits the class (R97, R98). -/
def engineFits (cls eng : Nat) : Bool :=
  match cls with
  | 2 => eng ≤ 3
  | 3 => eng == 4
  | 4 => eng == 5 || eng == 6
  | _ => eng == 0

/-- ENGINE_ID of a command's record (R22, R145). -/
def engineId (core : Nat) (d : Desc) : Nat := core * 8 + (if opClass (hOpcode d) = some 0 then 0 else hEngine d)

/-- Reserved header fields are zero (R97, R99). -/
def headerZero (d : Desc) : Bool :=
  zeroBits (Desc.w d 0) [(11, 5), (20, 4)] && zeroBits (Desc.w d 1) [(4, 4), (20, 4), (36, 4), (56, 8)]

/-! ### Gates and flag words (R107 to R115) -/

/-- GATE of R99: units 0 or above capacity, capacity 0, one gate in two roles, or a role on a sequencer command. -/
def State.gateBad (s : State) (core ctx : Nat) (d : Desc) : Bool :=
  let rs := hRoles d
  if rs.isEmpty then false
  else hOpcode d ≤ 5 || rs.any (fun r => r.2 == 0 || (s.gate core ctx r.1).cap < r.2) || !(rs.map Prod.fst).Nodup

/-- PREDICATE of R99. -/
def predBad (d : Desc) : Bool :=
  hPredKind d == 3 || (hPredKind d == 2 && bit (Desc.w d 1) 55) || (hPredKind d != 0 && [1, 2, 3, 4].contains (hOpcode d))

/-- BUNDLE of R116. -/
def bundleBad (t : Stream) (d : Desc) : Bool :=
  let b := hBundle d
  if t.bundle ≠ 0 then b != t.bundle || 256 ≤ t.bundleLen
  else b == 0 && (hBlast d || [0x84, 0x88, 0x89].contains (hOpcode d))

/-- JOB of R99. -/
def jobBad (t : Stream) (d : Desc) : Bool :=
  (hOpcode d == 1 && t.jobOpen) || (hOpcode d == 2 && !t.jobOpen)

/-- What a family says of its opcode: reserved payload fields are zero and hold no reserved value of R99; the tensor ID
its valid monitor field names; the engine's dispatch checks, giving the reason code that fails. -/
structure OpRules where
  payloadOk : Desc → Bool
  mon : Desc → Option Nat
  check : State → Nat → Nat → Desc → Option Nat

/-- The header checks of R99, CONTROL_POISON first and the others in code order. -/
def State.headerReason (s : State) (q idx : Nat) (d : Desc) (poisoned : Bool) (r : OpRules) : Option Nat :=
  let ctx := s.qCtx q
  let t := s.stream q
  if poisoned then some 0x1A
  else if (match opClass (hOpcode d) with | none => true | some c => !engineFits c (hEngine d)) then some 0x10
  else if hQseq d ≠ idx % 2 ^ 16 then some 0x11
  else if s.gateBad (s.qCore q) ctx d then some 0x12
  else if predBad d then some 0x13
  else if bundleBad t d then some 0x14
  else if hIrq d && !hComplete d then some 0x15
  else if (match r.mon d with | some tid => s.tidOwner tid != some ctx | none => false) then some 0x16
  else if jobBad t d then some 0x17
  else if !headerZero d then some 0x18
  else if !r.payloadOk d then some 0x19
  else none

/-- An earlier command of the stream that has not retired can still change the predicate's source (R114). -/
def predWaits (t : Stream) (d : Desc) : Bool :=
  match hPredKind d with
  | 1 => t.fly.any fun f => !f.done && ((hOpcode f.d == 0x43 && dfld f.d 0x38 32 4 == hPredSel d) ||
      (hOpcode f.d == 5 && dfld f.d 0x10 0 4 == hPredSel d))
  | 2 => t.fly.any fun f => !f.done && usesGate f.d (hPredSel d % 8)
  | _ => false

/-- The predicate holds (R114). -/
def State.predOk (s : State) (core ctx : Nat) (d : Desc) : Bool :=
  match hPredKind d with
  | 1 => predHolds (hPredOp d) (s.flag core ctx (hPredSel d)) (hPredValue d)
  | 2 => predHolds (hPredOp d) (s.gate core ctx (hPredSel d % 8)).filled (hPredValue d)
  | _ => true

/-- Every earlier command of the stream has retired; a FENCE that is not satisfied counts as not retired. -/
def allRetired (t : Stream) : Bool := t.fly.all Fly.done

/-! ### Completion records and faults (R145, R146, R392) -/

/-- The words of a completion record (R145). -/
def recordWords (q seq op status reason bundle eid : Nat) (poison : Bool) (ctx epoch time res res2 : Nat) : List Nat :=
  [seq % 2 ^ 16 + op * 2 ^ 16 + status * 2 ^ 24 + reason * 2 ^ 32 + bundle * 2 ^ 40 + eid * 2 ^ 48 + b2n poison * 2 ^ 59,
   q + ctx * 2 ^ 16 + epoch % 2 ^ 32 * 2 ^ 32, time % 2 ^ 64, res % 2 ^ 32 + res2 % 2 ^ 32 * 2 ^ 32]

/-- The command at an index of a queue faults its context (R392): FAULT_INFO and the trace name it, teardown starts.
A further fault of a context that is not READY is neither reported nor counted (R377). The command's QSEQ is that of its
header; a descriptor that was not read has that of its index (R392, log entry 50). -/
def Act.cmdFault (q idx : Nat) (d : Desc) (status reason res res2 : Nat) (unread : Bool := false) : Act :=
  .get fun s =>
    let ctx := s.qCtx q
    if s.ctxState ctx ≠ 1 then .skip else
    let seq := if unread then idx else hQseq d
    let w := recordWords q seq (hOpcode d) status reason (hBundle d) (engineId (s.qCore q) d)
      ((s.cmdsOf ctx).any fun m => m.q == q && m.idx == idx && m.poison) ctx (s.rd .recoveryEpoch + 1) s.now res res2
    .all [.faultInfo ctx q seq status reason,
      .trace 1 (engineId (s.qCore q) d) ctx (w.getD 0 0) (w.getD 1 0),
      .tearStart ctx { fault := some (q, idx, status, reason, res, res2) }]

/-- The fault of a command that met a fault in its context's address space: TRANSLATION with the address, or ILLEGAL with
the reason for a BANK page (R146, R228). -/
def Act.fltFault (q idx : Nat) (d : Desc) (e : Flt) (bankReason : Nat := 0x27) (unread : Bool := false) : Act :=
  match e with
  | .xl r a => .cmdFault q idx d 4 r (a % 2 ^ 32) (bits a 32 16) unread
  | .bank _ => .cmdFault q idx d 3 bankReason 0 0 unread

/-! ### Retirement (R64, R103, R104, R108) -/

/-- The runs of a stream's bundles whose BLAST member has not retired. -/
def Stream.blastDue (t : Stream) (run : Nat) : Bool :=
  (t.bundle != 0 && t.bun == run) || t.fly.any fun f => f.bun == run && hBlast f.d && !f.done

/-- A command of a stream is marked retired with what its record will say. A bundle run is forgotten with its last member. -/
def Act.flySet (q idx status reason res res2 : Nat) (poison : Bool) : Act :=
  .get fun s => .stream q fun t =>
    let t : Stream := { t with fly := t.fly.map fun (f : Fly) => if f.idx = idx then
      { f with done := true, status := status, reason := reason, res := res, res2 := res2, poison := poison,
               epoch := s.rd .recoveryEpoch, time := s.now } else f }
    { t with bunOn := t.bunOn.filter fun r => t.blastDue r || t.fly.any fun f => f.bun == r && !f.done }

/-! ### Fences (R119, R396) -/

/-- The command with this place in the order of dispatch has retired. -/
def State.hasRetired (s : State) (ser : Nat) : Bool := !s.u.core.streams.any fun p => p.2.fly.any fun f => f.ser == ser && !f.done

/-- FENCEs that have not retired, by queue. -/
def State.openFences (s : State) : List (Nat × Fly) :=
  (s.u.core.streams.map Prod.fst).flatMap fun q => ((s.stream q).fly.filter fun f => hOpcode f.d == 3 && !f.done).map fun f => (q, f)

/-- A FENCE's scope is satisfied: the commands it waits for have retired, and the molt it waits for has ended. -/
def State.fenceOk (s : State) (f : Fly) : Bool :=
  f.fence.all s.hasRetired && !(s.moltRuns && f.fenceMolt == some s.u.moltNo)

/-- FENCEs whose scope is satisfied retire, at the moment it is, one after another. -/
def Act.fencesUp : Nat → Act
  | 0 => .skip
  | n + 1 => .get fun s => match s.openFences.find? fun p => s.fenceOk p.2 with
    | some p => .seq (.flySet p.1 p.2.idx 0 0 0 0 false) (Act.fencesUp n)
    | none => .skip

/-- As many FENCEs may retire as are open. -/
def Act.fences : Act := .get fun s => .fencesUp s.openFences.length

/-- A command of a stream retires, and FENCEs that waited for it may. -/
def Act.flyDone (q idx status reason res res2 : Nat) (poison : Bool) : Act :=
  .seq (.flySet q idx status reason res res2 poison) .fences

/-- One indivisible addition to a monitor (R64). -/
def Act.monitor (tid : Nat) (d : MonDelta) : Act := .core fun c => { c with mon := tmod c.mon tid {} fun m => { m with tot := m.tot.add d } }

/-- The engine queue of a core. -/
def State.engQ (s : State) (core eng : Nat) : List Cmd := tgetD s.u.core.engQ (core * 8 + eng) []

def Act.engQ (core eng : Nat) (f : List Cmd → List Cmd) : Act := .core fun c => { c with engQ := tmod c.engQ (core * 8 + eng) [] f }

/-- What a piece comes to: done with the command as it goes on; under way, its requests sent and its answers awaited, with
whether its reads are done; a fault (status, reason, RESULT, RESULT2), a fault in the address space, or a wait that leaves
nothing done. -/
inductive PieceRes where
  | done (m : Cmd)
  | sent (m : Cmd) (readsDone : Bool)
  | fault (status reason res res2 : Nat)
  | flt (e : Flt) (bankReason : Nat)
  | wait

/-- Whether a command has a further piece, after absent ones are passed over (R89, R109, R126); `hold` means that it
waits for answers it has asked for (R311), `abort` that its flow failed and it completes ABORTED (R312). -/
inductive Prep where
  | ready (m : Cmd)
  | over (m : Cmd)
  | bad (status reason : Nat)
  | hold
  | abort

/-- What a family says of how its command runs: the next piece, one piece, what retirement adds, and what completing ABORTED
does (R312). -/
structure OpRun where
  /-- What the command reads as its engine takes it up. -/
  latch : State → Cmd → Cmd := fun _ m => m
  prep : State → Cmd → Prep
  piece : Cmd → (PieceRes → Act) → Act
  finish : Cmd → Act := fun _ => .skip
  aborted : Cmd → Act := fun _ => .skip
  res : State → Cmd → Nat := fun _ _ => 0
  res2 : Cmd → Nat := fun m => m.res2

/-- The engine that runs a command: the last of those it takes. -/
def leadOf (d : Desc) : Nat := if opClass (hOpcode d) = some 1 then 6 else hEngine d

/-- A piece goes on where its memory requests do; otherwise it waits, its requests standing in a crossing once where a loop-back holds
them (R261, R277, R280). -/
def Act.needMem (m : Cmd) (l : List (MemSel × Nat × Nat)) (k : PieceRes → Act) (a : Act) : Act :=
  .get fun s => if s.memGoes m.ctx l then a else
    .all [.when (!m.asked) (.memHeld l), .memWait m.ctx (m.core * 8 + leadOf m.d) m.ser l, k .wait]

/-- A whole command is one piece (R109). -/
def onePiece (_ : State) (m : Cmd) : Prep := if m.piece = 0 then .ready m else .over m

/-! ### Slots (R101, R386, R387) -/

def State.slot (s : State) (core k : Nat) : Slot := tgetD s.u.core.slots (core * 4 + k) {}

def Act.slot (core k : Nat) (f : Slot → Slot) : Act := .core fun c => { c with slots := tmod c.slots (core * 4 + k) {} f }

/-- The slot a context holds on a core. -/
def State.slotOf (s : State) (core ctx : Nat) : Option Nat := (List.range 4).find? fun k => (s.slot core k).holder == some ctx

/-- Slots that a class may hold: 0 for LC, 1 to 3 for BE (R101). -/
def classSlots (lc : Bool) : List Nat := if lc then [0] else [1, 2, 3]

/-- Contexts that wait for a slot of a core, longest wait first. -/
def State.waiting (s : State) (core : Nat) : List Nat := tgetD s.u.core.slotWait core []

/-- COMMAND queues of a context on a core, by number. -/
def State.queuesOn (s : State) (core ctx : Nat) : List Nat :=
  (s.queuesOf ctx).filter fun q => s.qValid q && s.qKind q == 0 && s.qCore q == core

/-- The slot may serve this queue of its holder now: the one it serves, or the next one in queue-number order where that one has
nothing to fetch or has dispatched 64 commands in a row, and no open bundle (R386). -/
def State.serves (s : State) (core k ctx q : Nat) : Bool :=
  let sl := s.slot core k
  match sl.cur with
  | none => true
  | some p =>
    let ready := (s.queuesOn core ctx).filter fun x => s.fetchable x 0 && x != p
    let nxt := match ready.find? (fun x => p < x) with | some x => some x | none => ready.head?
    let moves := (s.stream p).bundle == 0 && (!s.fetchable p 0 || 64 ≤ sl.run) && nxt.isSome
    if moves then nxt == some q else p == q

/-! ### Who waits for a slot (R387) -/

/-- A context waits for a slot of a core (R387). -/
def State.needsSlot (s : State) (core ctx : Nat) : Bool :=
  s.ctxState ctx == 1 && (s.slotOf core ctx).isNone &&
    ((s.queuesOn core ctx).any (fun q => s.fetchable q 0) || !(s.ctxCore core ctx).saved.isEmpty)

/-- The contexts that a slot may pass to, longest wait first. -/
def State.waiters (s : State) (core k : Nat) : List Nat :=
  (s.waiting core).filter fun c => (classSlots (s.isLC c)).contains k && s.needsSlot core c

/-- A context begins to wait for a slot of a core, where it does not wait already (R387). -/
def Act.waitSlot (core ctx : Nat) : Act :=
  .get fun s => .when (!(s.waiting core).contains ctx) (.core fun c => { c with
    slotWait := tmod c.slotWait core [] fun l => sadd l ctx
    waitSince := tset c.waitSince (core * 1024 + ctx) s.now })

/-- A context waits for a slot of a core no more. -/
def CoreU.unwait (c : CoreU) (core ctx : Nat) : CoreU :=
  { c with slotWait := tmod c.slotWait core [] fun l => sdel l ctx, waitSince := tdel c.waitSince (core * 1024 + ctx) }

/-- A policy module runs: 0 admission, 1 scheduling (R430). -/
def State.policyRuns (s : State) (k : Nat) : Bool := s.rd .policyState k == 1

/-- The context that a slot passes to: the choice of a scheduling module that runs, or the longest wait (R387, R427, R429). -/
def State.nextHolder (s : State) (core k : Nat) : Option Nat :=
  match if s.policyRuns 1 then (s.slot core k).pick else none with
  | some c => if (s.waiters core k).contains c then some c else (s.waiters core k).head?
  | none => (s.waiters core k).head?

/-! ### Bundles that run (R116, R390) -/

/-- The started bundle runs of a stream whose BLAST member has not retired, in the order they started. -/
def Stream.running (t : Stream) : List Nat := t.bunOn.filter t.blastDue

/-- A bundle of the context runs on the core. -/
def State.bundleRuns (s : State) (core ctx : Nat) : Bool := (s.queuesOn core ctx).any fun q => !(s.stream q).running.isEmpty

/-- The slot's rotation is under way: its slice is over, another context waits, and no bundle of its holder runs (R388). Nothing of the
holder's is dispatched or started then. -/
def State.rotating (s : State) (core k : Nat) : Bool :=
  (s.slot core k).sliceOver && (s.nextHolder core k).isSome &&
    match (s.slot core k).holder with | some h => !s.bundleRuns core h | none => false

/-! ### Scratch (R26) -/

/-- Bytes of a core's scratch. -/
def State.rdScr (s : State) (core off n : Nat) : PBytes := s.rdMem .scratch (core * 2 ^ 21 + off) n

/-- Bytes are written to a core's scratch. -/
def Act.wrScr (core off : Nat) (bs : PBytes) : Act := .mem .scratch (core * 2 ^ 21 + off) bs

/-- An extent reaches past the end of scratch. -/
def past (off n : Nat) : Bool := n != 0 && 2 ^ 21 < off + n

end Sys2Proof.Machine
end

