-- ==== Sys2Proof/Machine/Operands.lean ====
section
/-! DEFINITION. Operand forms: typed element arrays in bytes with their scale arrays and poison (R47, R125, R273), read
as values and written with every outcome counted (R60, R61, R63). -/

namespace Sys2Proof.Machine

/-- A value with its poison mark. -/
abbrev PVal := Val × Bool

/-- Element codes of `n` packed elements with the poison of their own bytes (R47, R273). -/
def codesOf (f : DFmt) (n : Nat) (bs : PBytes) : List (Nat × Bool) :=
  let v := leNat (dataOf bs)
  let clean := !anyPoison bs
  (List.range n).map fun j =>
    let p := f.at j
    (bits v (f.ebits * j) f.ebits, if clean then false else anyPoison ((bs.drop p.1).take p.2))

/-- Values of `n` elements; the scale byte of its block poisons an element too (R45, R273). -/
def valsOf (f : DFmt) (n : Nat) (elems scales : PBytes) : List PVal :=
  let cs := codesOf f n elems
  if f.mx then
    cs.zipIdx.map fun (c, j) =>
      let sc := scales.getD (j / 32) (0, false)
      (f.scaled c.1 sc.1.toNat, c.2 || sc.2)
  else cs.map fun c => (f.elem c.1, c.2)

/-- Scale bytes for `n` elements of a format. -/
def scaleBytes (f : DFmt) (n : Nat) : Nat := if f.mx then cdiv n 32 else 0

/-- The counts of one element: a poisoned one counts in ELEMENTS and POISONED only (R63). -/
def countOne (c : Conv) (poison : Bool) : MonDelta :=
  if poison then { el := 1, po := 1 }
  else { el := 1, ze := b2n c.ze, sa := b2n c.sa, nf := b2n c.nf, fl := b2n c.fl }

/-- The sum of counts. -/
def sumMon (l : List MonDelta) : MonDelta := l.foldl MonDelta.add {}

/-- Bytes of packed codes; a byte that holds part of a poisoned element is poisoned. -/
def packCodes (f : DFmt) (cs : List (Nat × Bool)) : PBytes :=
  let n := f.bytes cs.length
  let bs := leBytes n (f.pack (cs.map Prod.fst))
  if cs.all fun c => !c.2 then bs.map fun b => (b, false)
  else
    let bad := (cs.zipIdx.filter fun p => p.1.2).flatMap fun p => let q := f.at p.2; (List.range q.2).map (q.1 + ·)
    bs.zipIdx.map fun p => (p.1, bad.contains p.2)

/-- What a written row is: element bytes, scale bytes, counts, and whether poison was written. -/
structure RowOut where
  elems : PBytes
  scales : PBytes := []
  mon : MonDelta := {}
  deriving DecidableEq, Repr

/-- Poison was written. -/
def RowOut.poison (r : RowOut) : Bool := anyPoison r.elems || anyPoison r.scales

/-- A list cut into pieces of 32. -/
def blocks32 {α : Type} : Nat → List α → List (List α)
  | 0, _ => []
  | k + 1, l => if l.isEmpty then [] else l.take 32 :: blocks32 k (l.drop 32)

/-- One block of 32 values written in an MX format; the scale byte is poisoned when any element is (R273). -/
def writeBlock (f : DFmt) (fit : Bool) (vs : List PVal) : RowOut :=
  let b := f.block fit (vs.map Prod.fst)
  let cs := (b.elems.zip vs).map fun p => (p.1.code, p.2.2)
  { elems := packCodes f cs
    scales := [(BitVec.ofNat 8 b.scale, vs.any Prod.snd)]
    mon := (sumMon ((b.elems.zip vs).map fun p => countOne p.1 p.2.2)).add { nb := b2n b.nanBlock } }

/-- Rows put one after another. -/
def joinRows (l : List RowOut) : RowOut :=
  { elems := l.flatMap RowOut.elems, scales := l.flatMap RowOut.scales, mon := sumMon (l.map RowOut.mon) }

/-- Values written in a format with every outcome counted (R60, R61). -/
def writeVals (f : DFmt) (fit : Bool) (vs : List PVal) : RowOut :=
  if f.mx then joinRows ((blocks32 (vs.length / 32 + 1) vs).map (writeBlock f fit))
  else
    let cs := vs.map fun v => (f.scalar v.1, v.2)
    { elems := packCodes f (cs.map fun c => (c.1.code, c.2)), mon := sumMon (cs.map fun c => countOne c.1 c.2) }

/-- Elements written as they are count zeros and non-finite values by the format's reading, never saturation (R63). -/
def countCopied (f : DFmt) (n : Nat) (elems scales : PBytes) : MonDelta :=
  (sumMon ((valsOf f n elems scales).map fun v => countOne { code := 0, ze := v.1.isZero, nf := v.1.nonFinite } v.2)).add
    { nb := if f.mx then (scales.filter fun b => b.1 == 0xFF#8).length else 0 }

/-- Two commands' counts under one command. -/
def Cmd.addMon (m : Cmd) (d : MonDelta) : Cmd := { m with mon := m.mon.add d }

end Sys2Proof.Machine
end

