-- ==== Sys2Proof/Machine/Te.lean ====
section
/-! DEFINITION. Tensor engines (R70 to R96): the three commands' checks, tile products in exact block sums, the fixed order
of W40 additions, reductions with index, and the write-out. -/

namespace Sys2Proof.Machine

/-! ### Groups (R79 to R81) -/

/-- Group allowance and rows of a slot by ACC_SPLIT (R80). -/
def State.accGroups (s : State) (slot : Nat) : Nat := bits (s.rd .accSplit) (8 * slot) 4
def State.accRows (s : State) (slot : Nat) : Nat := bits (s.rd .accSplit) (8 * slot + 4) 4 * 64

/-- Accumulator rows a group occupies (R79). -/
def Group.rows (g : Group) : Nat := if g.mode = 0 then g.m * g.split else cdiv g.m 32

/-- The slot a context holds on a core, as a number (0 where it holds none). -/
def State.slotNo (s : State) (core ctx : Nat) : Nat := (s.slotOf core ctx).getD 0

/-- The group a TE_BEGIN opens; a reserved MODE counts as SUM and a reserved KSPLIT as one partial (R74, R78). -/
def beginGroup (d : Desc) : Group :=
  let mode := dfld d 0x10 3 2
  let ks := dfld d 0x10 6 2
  { mode := if mode = 3 then 0 else mode
    split := if ks = 1 then 2 else if ks = 2 then 4 else 1
    sparse := dfld d 0x10 8 1 == 1
    m := dfld d 0x10 16 9 + 1
    row := dfld d 0x10 32 9 }

/-- Bytes of one preload or output value by format code. -/
def fmtBytes (c : Nat) : Nat := match dfmt c with | some f => f.ebits / 8 | none => 0

/-- Dispatch checks of TE_BEGIN in code order (R78). -/
def teBeginCheck (s : State) (core ctx : Nat) (d : Desc) : Option Nat :=
  let slot := s.slotNo core ctx
  let cc := s.ctxCore core ctx
  let te := hEngine d
  let g := dfld d 0x10 0 3
  let n := beginGroup d
  let others := cc.dgrp.filter fun p => p.1 / 8 == te
  let pre := dfld d 0x10 5 1 == 1
  let pf := dfld d 0x18 24 4
  if (tget cc.dgrp (te * 8 + g)).isSome then some 0x01
  else if s.accGroups slot ≤ g then some 0x02
  else if s.accRows slot < n.row + n.rows ∨
      others.any (fun p => p.2.row < n.row + n.rows && n.row < p.2.row + p.2.rows) then some 0x04
  else if pre && (pf < 6 || 9 < pf) then some 0x05
  else if dfld d 0x10 3 2 = 3 ∨ dfld d 0x10 6 2 = 3 ∨
      (dfld d 0x10 3 2 ≠ 0 ∧ (dfld d 0x10 6 2 ≠ 0 ∨ dfld d 0x10 8 1 ≠ 0 ∨ pre)) then some 0x07
  else if pre && past (dfld d 0x18 0 21) (n.m * 64 * fmtBytes pf) then some 0x08
  else if !(zeroBits (Desc.w d 2) [(9, 7), (25, 7), (41, 23)] && zeroBits (Desc.w d 3) [(21, 3), (28, 36)] &&
      (List.range 4).all fun k => Desc.w d (4 + k) == 0) then some 0x09
  else none

/-- Operand formats of a TE_ACCUMULATE. -/
def accA (d : Desc) : DFmt := (dfmt (dfld d 0x10 3 4)).getD .bf16
def accW (d : Desc) : DFmt := (dfmt (dfld d 0x10 7 4)).getD .bf16

/-- Tiles covered, and K positions of one tile. -/
def accTiles (d : Desc) : Nat := dfld d 0x10 16 8 + 1
def tileK (sparse : Bool) : Nat := if sparse then 128 else 64

/-- Valid positions in tile `i` (R75). -/
def tileValid (d : Desc) (sparse : Bool) (i : Nat) : Nat :=
  if i + 1 = accTiles d ∧ dfld d 0x10 32 8 ≠ 0 then dfld d 0x10 32 8 else tileK sparse

/-- Elements, scales and metadata bytes of a weight tile (R76). -/
def tileElems (w : DFmt) : Nat := w.bytes 4096
def tileScales (w : DFmt) (sparse : Bool) : Nat := if w.mx then (if sparse then 256 else 128) else 0
def tileMeta (sparse : Bool) : Nat := if sparse then 1024 else 0

/-- Some operand extent of tiles `i0` up to `i1` (weight tiles `p0` up to `p1` among the present ones) passes the end of
scratch (R78). -/
def accPast (d : Desc) (g : Group) (i0 i1 p0 p1 : Nat) : Bool :=
  let a := accA d
  let w := accW d
  let k0 := i0 * tileK g.sparse
  let k1 := (i1 - 1) * tileK g.sparse + tileValid d g.sparse (i1 - 1)
  let rowEnd (base stride b1 : Nat) : Bool := past (base + (g.m - 1) * stride) b1
  let ab := cdiv (a.ebits * k1) 8
  ab != 0 && (rowEnd (dfld d 0x18 0 21) (dfld d 0x30 0 21) ab ||
    (a.mx && rowEnd (dfld d 0x18 32 21) (dfld d 0x30 32 21) (cdiv k1 32)) ||
    past (dfld d 0x20 0 21 + p0 * tileElems w) ((p1 - p0) * tileElems w) ||
    (w.mx && past (dfld d 0x20 32 21 + p0 * tileScales w g.sparse) ((p1 - p0) * tileScales w g.sparse)) ||
    (g.sparse && past (dfld d 0x28 0 21 + p0 * 1024) ((p1 - p0) * 1024)) || k1 < k0)

/-- Dispatch checks of TE_ACCUMULATE in code order (R78). -/
def teAccCheck (s : State) (core ctx : Nat) (d : Desc) : Option Nat :=
  let slot := s.slotNo core ctx
  let cc := s.ctxCore core ctx
  let gi := dfld d 0x10 0 3
  let a := dfld d 0x10 3 4
  let w := dfld d 0x10 7 4
  if s.accGroups slot ≤ gi then some 0x02
  else match tget cc.dgrp (hEngine d * 8 + gi) with
  | none => some 0x03
  | some g =>
    if 7 < a ∨ 7 < w ∨ (decide (a ≤ 5) != decide (w ≤ 5)) then some 0x05
    else if g.mode ≠ 0 ∨ tileK g.sparse ≤ dfld d 0x10 32 8 then some 0x07
    else if (if dfld d 0x10 40 1 = 1 then past (dfld d 0x28 32 21) (cdiv (accTiles d) 8)
        else accPast d g 0 (accTiles d) 0 (accTiles d)) then some 0x08
    else if !(zeroBits (Desc.w d 2) [(11, 5), (24, 8), (41, 23)] &&
        ([3, 4, 5, 6].all fun k => zeroBits (Desc.w d k) [(21, 11), (53, 11)]) && Desc.w d 7 == 0) then some 0x09
    else none

/-- Dispatch checks of TE_END in code order (R78). -/
def teEndCheck (s : State) (core ctx : Nat) (d : Desc) : Option Nat :=
  let slot := s.slotNo core ctx
  let cc := s.ctxCore core ctx
  let te := hEngine d
  let gi := dfld d 0x10 0 3
  let fc := dfld d 0x10 3 4
  let dest := dfld d 0x10 8 2
  let red := tget cc.dgrp (te * 8 + dfld d 0x10 10 3)
  let f := (dfmt fc).getD .fp32
  let stride := dfld d 0x18 32 21
  if s.accGroups slot ≤ gi then some 0x02
  else match tget cc.dgrp (te * 8 + gi) with
  | none => some 0x03
  | some g =>
    if dest ≠ 0 ∧ red.isNone then some 0x03
    else if 9 < fc ∨ (g.mode ≠ 0 ∧ fc ≠ 8) ∨ (f.mx ∧ stride % f.blockBytes ≠ 0) then some 0x05
    else if dest = 3 ∨ (g.mode ≠ 0 ∧ dest ≠ 0) ∨
        (dest ≠ 0 ∧ (red.any fun r => r.mode == 0 || r.m != g.m) = true) then some 0x07
    else if (if g.mode ≠ 0 then past (dfld d 0x10 32 21) (8 * g.m)
        else dest != 1 && (past (dfld d 0x10 32 21 + (g.m - 1) * stride) (f.bytes 64) ||
          (f.mx && past (dfld d 0x18 0 21 + (g.m - 1) * (stride / f.blockBytes)) 2))) then some 0x08
    else if !(zeroBits (Desc.w d 2) [(14, 2), (30, 2), (53, 11)] && zeroBits (Desc.w d 3) [(21, 11), (53, 11)] &&
        zeroBits (Desc.w d 4) [(32, 32)] && [5, 6, 7].all fun k => Desc.w d k == 0) then some 0x09
    else none

/-- TE payloads report their reserved fields themselves (R78, R99). -/
def teBeginRules : OpRules := ⟨fun _ => true, fun _ => none, teBeginCheck⟩
def teAccRules : OpRules := ⟨fun _ => true, fun _ => none, teAccCheck⟩
def teEndRules : OpRules :=
  ⟨fun _ => true, fun d => if dfld d 0x10 13 1 = 1 then some (dfld d 0x10 16 14) else none, teEndCheck⟩

/-- What dispatch changes in the groups as later checks see them (R100). -/
def teDispatch (core ctx : Nat) (d : Desc) : Act :=
  let key := hEngine d * 8 + dfld d 0x10 0 3
  if hOpcode d = 0x20 then .ctxCore core ctx fun c => { c with dgrp := tset c.dgrp key (beginGroup d) }
  else if hOpcode d = 0x22 then .ctxCore core ctx fun c => { c with dgrp := tdel c.dgrp key }
  else .skip

/-- The group a command works on. -/
def State.teGroup (s : State) (m : Cmd) : Group :=
  tgetD (s.ctxCore m.core m.ctx).grp (hEngine m.d * 8 + dfld m.d 0x10 0 3) {}

/-- The group a command works on changes. -/
def Act.teGroup (m : Cmd) (g : Group) : Act :=
  .ctxCore m.core m.ctx fun c => { c with grp := tset c.grp (hEngine m.d * 8 + dfld m.d 0x10 0 3) g }

/-! ### TE_BEGIN (R81) -/

/-- Cells of a preload: partial 0 of each output, exactly in W40 (R55, R81). -/
def preloadCells (s : State) (m : Cmd) (g : Group) : Tab AccCell :=
  let f := (dfmt (dfld m.d 0x18 24 4)).getD .fp32
  let vs := valsOf f (g.m * 64) (s.rdScr m.core (dfld m.d 0x18 0 21) (f.bytes (g.m * 64))) []
  vs.zipIdx.map fun (v, j) => (j, { v := w40.arith v.1, poison := v.2 })

/-- TE_BEGIN opens its group (R81). -/
def teBeginPiece (m : Cmd) (k : PieceRes → Act) : Act :=
  .get fun s =>
    let g := beginGroup m.d
    .all [.needUnit unitTE m.core,
      .teGroup m { g with cells := if dfld m.d 0x10 5 1 = 1 then preloadCells s m g else [] },
      k (.done { m with piece := 1 })]

def teBeginRun : OpRun := { prep := onePiece, piece := teBeginPiece }

/-! ### TE_ACCUMULATE (R84, R86 to R90) -/

/-- The TE reads the tile mask as it takes the command up, before the claims of the first present tile (R72; log entry 91). -/
def teMask (s : State) (m : Cmd) : Cmd :=
  if dfld m.d 0x10 40 1 = 1 then { m with mask := s.rdScr m.core (dfld m.d 0x28 32 21) (cdiv (accTiles m.d) 8) } else m

/-- Bit `t` of a bitmap: present, or its byte is poisoned (R72, R89, R126). -/
def maskBit (mask : PBytes) (t : Nat) : Bool × Bool :=
  let b := mask.getD (t / 8) (0, false)
  (b.1.toNat.testBit (t % 8), b.2)

/-- Passes over absent tiles from the command's place on. -/
def nextTile (m : Cmd) : Nat → Nat → Prep
  | 0, i => .over { m with piece := i }
  | n + 1, i =>
    if accTiles m.d ≤ i then .over { m with piece := i }
    else if dfld m.d 0x10 40 1 = 0 then .ready { m with piece := i }
    else
      let b := maskBit m.mask i
      if b.2 then .bad 3 0x1A
      else if b.1 then .ready { m with piece := i }
      else nextTile m n (i + 1)

/-- The next present tile; under a mask its extents are checked when the TE comes to it (R72). -/
def teAccPrep (s : State) (m : Cmd) : Prep :=
  match nextTile m 257 m.piece with
  | .ready c =>
    if dfld m.d 0x10 40 1 = 1 ∧ accPast m.d (s.teGroup m) c.piece (c.piece + 1) c.present (c.present + 1) then .bad 3 0x08
    else .ready c
  | r => r

/-- A weight column of a tile as K-position and value pairs, with element poison; dense columns hold positions in order,
2:4 columns the kept ones (R87, R127). -/
structure WCol where
  elems : List (Nat × Val × Bool)
  scales : List (Nat × Bool)
  deriving DecidableEq, Repr

/-- The metadata nibble of group `g` and column `n` (R87). -/
def nibble (meta_ : List Byte) (g n : Nat) : Nat :=
  bits ((meta_.getD (g * 32 + n / 2) 0#8).toNat) (n % 2 * 4) 4

/-- The columns of a weight tile (R76, R87, R88, R127). -/
def tileCols (w : DFmt) (sparse : Bool) (elems scales metab : PBytes) : List WCol :=
  let cs := codesOf w 4096 elems
  let md := dataOf metab
  let nb := if sparse then 4 else 2
  (List.range 64).map fun n =>
    { elems := ((cs.drop (n * 64)).take 64).zipIdx.map fun (c, r) =>
        let pos := if sparse then
            4 * (r / 2) + (let nib := nibble md (r / 2) n; if r % 2 = 0 then nib % 4 else nib / 4)
          else r
        (pos, w.elem c.1, c.2)
      scales := (List.range nb).map fun b =>
        let x := scales.getD (n * nb + b) (0, false)
        (x.1.toNat, x.2) }

/-- Some nibble of a tile's metadata breaks POS_LO < POS_HI (R87). -/
def badMeta (metab : PBytes) : Bool :=
  metab.any fun b => [0, 4].any fun o => bits b.1.toNat (o + 2) 2 ≤ bits b.1.toNat o 2

/-- One activation row's operands of a tile: codes with poison, and scales. -/
structure ARow where
  codes : List (Nat × Bool)
  scales : List (Nat × Bool)
  deriving DecidableEq, Repr

/-- The exact sum of element products of one block, its two scales applied, rounded once to W40 (R52, R53). A zero sum
is +0. -/
def blockSum (a w : DFmt) (prods : List Val) (sa sw : Nat) : Nat :=
  if (a.mx && sa == 0xFF) || (w.mx && sw == 0xFF) then w40.nanCode else
  let t := prods.foldl Val.add Val.zero
  let k : Int := (if a.mx then (sa : Int) - 127 else 0) + (if w.mx then (sw : Int) - 127 else 0)
  if t.isZero then 0 else w40.arith (t.scale k)

/-- A block's term in the order, or a partial's contents. -/
abbrev Term := Option (Nat × Bool)

/-- Addition in the order: an empty side passes the other unchanged (R84). -/
def termAdd (x y : Term) : Term :=
  match x, y with
  | none, y => y
  | x, none => x
  | some a, some b => some (w40Add a.1 b.1, a.2 || b.2)

/-- The term of block `b` of a row and a column: none where the block has no valid position (R55, R84, R93). -/
def blockTerm (a w : DFmt) (valid : Nat) (row : ARow) (col : WCol) (b : Nat) : Term :=
  if valid ≤ 32 * b then none else
  let ws := col.elems.filter fun e => e.1 / 32 == b && e.1 < valid
  let sa := row.scales.getD b (127, false)
  let sw := col.scales.getD b (127, false)
  let prods := ws.map fun e => (a.elem (row.codes.getD e.1 (0, false)).1).mul e.2.1
  let poisonA := ((row.codes.drop (32 * b)).take 32).any Prod.snd
  let poisonW := (col.elems.filter fun e => e.1 / 32 == b).any fun e => e.2.2
  some (blockSum a w prods sa.1 sw.1, poisonA || poisonW || (a.mx && sa.2) || (w.mx && sw.2))

/-- A tile's terms added to a partial: in sequence when dense, by the tree of R84 when 2:4. -/
def addTile (sparse : Bool) (part : Term) (b : List Term) : Term :=
  if sparse then
    termAdd part (termAdd (termAdd (b.getD 0 none) (b.getD 1 none)) (termAdd (b.getD 2 none) (b.getD 3 none)))
  else termAdd (termAdd part (b.getD 0 none)) (b.getD 1 none)

/-- The weights of block `b` hold an infinity, a NaN or a NaN scale in some column (R55, R90). -/
def weightBad (w : DFmt) (cols : List WCol) (b : Nat) : Bool :=
  cols.any fun c => (w.mx && (c.scales.getD b (0, false)).1 == 0xFF) ||
    c.elems.any fun e => e.1 / 32 == b && e.2.1.nonFinite

/-- The activation block is skipped: its valid codes are all zero, its scale is no NaN, the weights are finite (R55,
R90). -/
def skipBlock (a : DFmt) (valid : Nat) (bad : Bool) (row : ARow) (b : Nat) : Bool :=
  !bad && !(a.mx && (row.scales.getD b (0, false)).1 == 0xFF) &&
    ((row.codes.drop (32 * b)).take (min 32 (valid - 32 * b))).all fun c => c.1 == 0

/-- The operands of one activation row for a tile (R47, R75). -/
def State.actRow (s : State) (m : Cmd) (g : Group) (i valid row : Nat) : ARow :=
  let a := accA m.d
  let k0 := i * tileK g.sparse
  { codes := codesOf a valid (s.rdScr m.core (dfld m.d 0x18 0 21 + row * dfld m.d 0x30 0 21 + a.bytes k0) (cdiv (a.ebits * valid) 8))
    scales := if a.mx then (s.rdScr m.core (dfld m.d 0x18 32 21 + row * dfld m.d 0x30 32 21 + k0 / 32) (cdiv valid 32)).map
        fun b => (b.1.toNat, b.2) else [] }

/-- The group after one tile pass (R84): every output of every row. -/
def tilePass (m : Cmd) (g : Group) (cols : List WCol) (rows : List ARow) : Group :=
  let i := m.piece
  let valid := tileValid m.d g.sparse i
  let nb := if g.sparse then 4 else 2
  let j := (g.t + i) % g.split
  { g with cells := (rows.zipIdx).foldl (fun cs (r, mi) =>
      (cols.zipIdx).foldl (fun cs (c, n) =>
        let key := (j * g.m + mi) * 64 + n
        let old : Term := (tget cs key).map fun x => (x.v, x.poison)
        match addTile g.sparse old ((List.range nb).map fun b => blockTerm (accA m.d) (accW m.d) valid r c b) with
        | none => cs
        | some x => tset cs key { v := x.1, poison := x.2 }) cs) g.cells }

/-- One tile of a TE_ACCUMULATE (R72, R84, R90, R96). -/
def teAccPiece (m : Cmd) (k : PieceRes → Act) : Act :=
  .get fun s =>
    let g := s.teGroup m
    let w := accW m.d
    let p := m.present
    let metab := s.rdScr m.core (dfld m.d 0x28 0 21 + p * 1024) (tileMeta g.sparse)
    if g.sparse && anyPoison metab then k (.fault 3 0x1A 0 0)
    else if g.sparse && badMeta metab then k (.fault 3 0x06 0 0)
    else
      let valid := tileValid m.d g.sparse m.piece
      let nb := cdiv valid 32
      let cols := tileCols w g.sparse
        (s.rdScr m.core (dfld m.d 0x20 0 21 + p * tileElems w) (tileElems w))
        (s.rdScr m.core (dfld m.d 0x20 32 21 + p * tileScales w g.sparse) (tileScales w g.sparse)) metab
      let rows := (List.range g.m).map (s.actRow m g m.piece valid)
      let bad := (List.range nb).map (weightBad w cols)
      let skips := rows.map fun r => ((List.range nb).filter fun b => skipBlock (accA m.d) valid (bad.getD b true) r b).length
      let sk := skips.foldl (· + ·) 0
      let te := hEngine m.d
      .all [.needUnit unitTE m.core, .teGroup m (tilePass m g cols rows),
        .count .teWork m.core (te * 6) (g.m * nb - sk), .count .teWork m.core (te * 6 + 1) sk,
        .count .teWork m.core (te * 6 + 2) ((skips.filter fun x => x == nb).length), .count .teWork m.core (te * 6 + 4),
        k (.done { m with piece := m.piece + 1, present := p + 1, res2 := m.res2 + sk })]

/-- At its end the command advances the K-tile counter by all its tiles. The absent ones count in TILES_ABSENT then: the spec gives no
moment, so a command that faults on its way counts none (R81, R89, R96; log entry 90). -/
def teAccFinish (m : Cmd) : Act :=
  .get fun s =>
    let g := s.teGroup m
    .seq (.teGroup m { g with t := g.t + accTiles m.d })
      (.count .teWork m.core (hEngine m.d * 6 + 3) (accTiles m.d - m.present))

def teAccRun : OpRun :=
  { latch := teMask, prep := teAccPrep, piece := teAccPiece, finish := teAccFinish, res := fun _ m => m.present }

/-! ### TE_END (R84, R91, R92) -/

/-- The complete sum of an output: its partials combined by R84; an output with no term reads +0 (R81). -/
def Group.result (g : Group) (row n : Nat) : Nat × Bool :=
  let part (j : Nat) : Term := (tget g.cells ((j * g.m + row) * 64 + n)).map fun x => (x.v, x.poison)
  let t := match g.split with
    | 1 => part 0
    | 2 => termAdd (part 0) (part 1)
    | _ => termAdd (termAdd (part 0) (part 1)) (termAdd (part 2) (part 3))
  t.getD (0, false)

/-- A candidate wins over the row's contents (R91). -/
def redWins (mode v i w j : Nat) : Bool :=
  let x := w40.val v
  let y := w40.val w
  if x == .nan then (if y == .nan then i < j else true)
  else if y == .nan then false
  else if (if mode = 1 then y.lt x else x.lt y) then true
  else !x.lt y && !y.lt x && i < j

/-- A row after folding a candidate; poison stays once folded, won or lost (R91, R93). -/
def foldCell (mode : Nat) (old : Option AccCell) (v i : Nat) (poison : Bool) : AccCell :=
  match old with
  | none => ⟨v, i, poison⟩
  | some c => if redWins mode v i c.v c.idx then ⟨v, i, poison || c.poison⟩ else { c with poison := c.poison || poison }

/-- The complete sums of a group folded into a reduction group (R91). -/
def foldGroup (g r : Group) (base : Nat) : Group :=
  { r with cells := (List.range g.m).foldl (fun cs row =>
      (List.range 64).foldl (fun cs n =>
        let x := g.result row n
        tset cs row (foldCell r.mode (tget cs row) x.1 ((base + n) % 2 ^ 32) x.2)) cs) r.cells }

/-- The record of a reduction row: FP32 value and index; an empty row gives NaN and all ones (R92). -/
def redRecord (c : Option AccCell) : PBytes × Conv × Bool :=
  match c with
  | none => (cleanBytes 8 (fp32.nanCode + 0xFFFFFFFF * 2 ^ 32), { code := fp32.nanCode, nf := true }, false)
  | some c =>
    let v := fp32.conv (w40.val c.v)
    ((leBytes 8 (v.code + c.idx * 2 ^ 32)).map fun b => (b, c.poison), v, c.poison)

/-- Output row `row` of a SUM group in a format. -/
def Group.outRow (g : Group) (f : DFmt) (fit : Bool) (row : Nat) : RowOut :=
  writeVals f fit ((List.range 64).map fun n => let x := g.result row n; (w40.val x.1, x.2))

/-- TE_END writes, folds, or both, and closes its group (R77, R81, R92). -/
def teEndPiece (m : Cmd) (k : PieceRes → Act) : Act :=
  .get fun s =>
    let g := s.teGroup m
    let d := m.d
    let te := hEngine d
    let dest := dfld d 0x10 8 2
    let out := dfld d 0x10 32 21
    let close : Act := .ctxCore m.core m.ctx fun c => { c with grp := tdel c.grp (te * 8 + dfld d 0x10 0 3) }
    if g.mode ≠ 0 then
      let recs : List (PBytes × Conv × Bool) := (List.range g.m).map fun r => redRecord (tget g.cells r)
      .all [.needUnit unitTE m.core, .wrScr m.core out (recs.flatMap fun r => r.1), close,
        k (.done (Cmd.addMon { m with piece := 1, poison := recs.any fun r => r.2.2 } (sumMon (recs.map fun r => countOne r.2.1 r.2.2))))]
    else
      let f := (dfmt (dfld d 0x10 3 4)).getD .fp32
      let stride := dfld d 0x18 32 21
      let rows := if dest = 1 then [] else (List.range g.m).map (g.outRow f (dfld d 0x10 7 1 == 1))
      let redKey := te * 8 + dfld d 0x10 10 3
      .all [.needUnit unitTE m.core,
        .each rows.zipIdx fun (r, i) => .seq (.wrScr m.core (out + i * stride) r.elems)
          (.when f.mx (.wrScr m.core (dfld d 0x18 0 21 + i * (stride / f.blockBytes)) r.scales)),
        .when (dest != 0) (.ctxCore m.core m.ctx fun c =>
          { c with grp := tset c.grp redKey (foldGroup g (tgetD c.grp redKey {}) (dfld d 0x20 0 32)) }),
        close,
        k (.done (Cmd.addMon { m with piece := 1, poison := rows.any RowOut.poison } (sumMon (rows.map RowOut.mon))))]

def teEndRun : OpRun := { prep := onePiece, piece := teEndPiece }

end Sys2Proof.Machine
end

