-- ==== Sys2Proof/Machine/Ve.lean ====
section
/-! DEFINITION. The vector engine's map, reduce, sample, flag and generator commands (R131 to R143). -/

namespace Sys2Proof.Machine

/-! ### Payload (R131) -/

def veFunc (d : Desc) : Nat := dfld d 0x10 0 8
def veAFmt (d : Desc) : Nat := dfld d 0x10 8 4
def veBcFmt (d : Desc) : Nat := dfld d 0x10 12 4
def veOutFmt (d : Desc) : Nat := dfld d 0x10 16 4
def veB (d : Desc) : Nat := dfld d 0x10 22 3
def veC (d : Desc) : Nat := dfld d 0x10 25 3
def veRows (d : Desc) : Nat := dfld d 0x10 48 16 + 1
def veCols (d : Desc) : Nat := dfld d 0x30 0 20 + 1
def veStride (d : Desc) : Nat := dfld d 0x30 32 21
def veA (d : Desc) : DFmt := (dfmt (veAFmt d)).getD .fp32
def veBc (d : Desc) : DFmt := (dfmt (veBcFmt d)).getD .fp32
def veOut (d : Desc) : DFmt := (dfmt (veOutFmt d)).getD .fp32
def veImm (d : Desc) : Nat := dfld d 0x38 0 32
def veImm2 (d : Desc) : Nat := dfld d 0x38 32 32

/-- The tensor ID of a valid monitor field (R131). -/
def veMon (d : Desc) : Option Nat := if dfld d 0x10 21 1 = 1 then some (dfld d 0x10 32 14) else none

/-- The fields R131 marks reserved. -/
def veZero (d : Desc) : Bool :=
  zeroBits (Desc.w d 2) [(28, 4), (46, 2)] && ([3, 4, 5].all fun k => zeroBits (Desc.w d k) [(21, 11), (53, 11)]) &&
    zeroBits (Desc.w d 6) [(20, 12), (53, 11)]

/-- FUNC values of VE_MAP (R133), and which operands they read. -/
def mapFunc (f : Nat) : Bool := f ≤ 0x0C || (0x10 ≤ f && f ≤ 0x12) || f == 0x20
def mapA (f : Nat) : Bool := f != 0x20
def mapB (f : Nat) : Bool := [0x01, 0x02, 0x03, 0x04, 0x05, 0x06, 0x11, 0x12].contains f
def mapC (f : Nat) : Bool := f == 0x04 || f == 0x12

/-- A full or row or column operand lies in scratch (R131). -/
def inScr (mode : Nat) : Bool := 1 ≤ mode && mode ≤ 3

/-- Fields that a form of a command does not use are zero (R131; log entry 51). -/
def unusedZero (l : List Nat) : Bool := l.all (· == 0)

/-- Fields of which some are used: the others are zero. -/
def zeroBut (l : List (Bool × Nat)) : Bool := l.all fun p => p.1 || p.2 == 0

/-- An array with scales, by format code; a code that names no format leaves it open. -/
def scaled (c : Nat) : Bool := match dfmt c with | some f => f.mx | none => true

/-- TENSOR_ID is used with MON_VALID, and the scale array of A where A has scales (R131). -/
def veCommon (d : Desc) (readsA : Bool) : Bool :=
  zeroBut [(bit (Desc.w d 2) 21, dfld d 0x10 32 14), (readsA, veAFmt d), (readsA, dfld d 0x18 0 21),
    (readsA && scaled (veAFmt d), dfld d 0x18 32 21)]

/-- Fields that VE_MAP uses with its function, modes and output format (R131, R133). -/
def mapUnused (d : Desc) : Bool :=
  let f := veFunc d
  veCommon d (mapA f) && zeroBut [(mapB f, veB d), (mapC f, veC d), (inScr (veB d) || inScr (veC d), veBcFmt d),
    (inScr (veB d), dfld d 0x20 0 21), (inScr (veC d), dfld d 0x20 32 21), (veB d == 4 || f == 0x12, veImm d),
    (veC d == 4 || f == 0x12, veImm2 d), (scaled (veOutFmt d), dfld d 0x28 32 21), (scaled (veOutFmt d), dfld d 0x10 20 1)]

/-- PAYLOAD_RESERVED of VE_MAP: reserved fields, reserved operand modes, and fields that its form does not use; no form is known of a
reserved FUNC (R99, R131). -/
def veMapPayload (d : Desc) : Bool := veZero d && veB d ≤ 4 && veC d ≤ 4 && (!mapFunc (veFunc d) || mapUnused d)

/-- Operand bytes in scratch: address and length. -/
def veOperand (d : Desc) (mode addr : Nat) : Nat × Nat :=
  let n := match mode with | 1 => veRows d * veCols d | 2 => veRows d | 3 => veCols d | _ => 0
  (addr, (veBc d).bytes n)

/-- Bytes between output rows, and of one row (R131). -/
def strideOf (d : Desc) (row : Nat) : Nat := if veStride d = 0 then row else veStride d

/-- Extents of an MX or plain output pass the end of scratch (R132). -/
def outPast (d : Desc) (f : DFmt) : Bool :=
  let row := f.bytes (veCols d)
  let st := strideOf d row
  past (dfld d 0x28 0 21) ((veRows d - 1) * st + row) ||
    (f.mx && past (dfld d 0x28 32 21) ((veRows d - 1) * (st / f.blockBytes) + veCols d / 32))

/-- Extents of A pass the end of scratch. -/
def aPast (d : Desc) : Bool :=
  let n := veRows d * veCols d
  past (dfld d 0x18 0 21) (cdiv ((veA d).ebits * n) 8) || ((veA d).mx && past (dfld d 0x18 32 21) (n / 32))

/-- A format of a VE storage field: any of R73 but W40, the accumulation format (R43, R131). -/
def veStorage (c : Nat) : Bool := c ≤ 8

/-- Dispatch checks of VE_MAP in code order (R139). VE_FUNC also stands for a function without the operand it reads, and for RMSNORM with
a B that is not per row or a C that is not per column: the spec names no code for these (log entry 51). -/
def veMapCheck (_ : State) (_ _ : Nat) (d : Desc) : Option Nat :=
  let f := veFunc d
  let bc := inScr (veB d) || inScr (veC d)
  if (mapA f && !veStorage (veAFmt d)) || !veStorage (veOutFmt d) || (bc && !(6 ≤ veBcFmt d && veBcFmt d ≤ 8)) then some 0x30
  else if !mapFunc f || (mapB f && veB d == 0) || (mapC f && veC d == 0) || (f == 0x12 && (veB d != 2 || veC d != 3)) then some 0x31
  else if (mapA f && aPast d) || outPast d (veOut d) ||
      (let b := veOperand d (veB d) (dfld d 0x20 0 21); past b.1 b.2) ||
      (let c := veOperand d (veC d) (dfld d 0x20 32 21); past c.1 c.2) then some 0x33
  else if (((mapA f && (veA d).mx) || (veOut d).mx) && veCols d % 32 != 0) ||
      (veStride d != 0 && (veStride d < (veOut d).bytes (veCols d) ||
        ((veOut d).mx && veStride d % (veOut d).blockBytes != 0))) then some 0x34
  else none

def veMapRules : OpRules := ⟨veMapPayload, veMon, veMapCheck⟩

/-! ### Reading operands -/

/-- Elements of a packed operand of A's kind as FP32 codes with poison (R132); a value beyond FP32 rounds as FP32 does. -/
def State.veARow (s : State) (core : Nat) (d : Desc) (r : Nat) : List (Nat × Bool) :=
  let f := veA d
  let n := veCols d
  (valsOf f n (s.rdScr core (dfld d 0x18 0 21 + f.bytes (r * n)) (cdiv (f.ebits * n) 8))
    (s.rdScr core (dfld d 0x18 32 21 + r * n / 32) (scaleBytes f n))).map fun v => (fp32.arith v.1, v.2)

/-- Value of B or C for row r and column j by its mode (R131). -/
def State.veBcVal (s : State) (core : Nat) (d : Desc) (mode addr imm r j : Nat) : Nat × Bool :=
  let f := veBc d
  let i := match mode with | 1 => r * veCols d + j | 2 => r | _ => j
  match mode with
  | 4 => (imm, false)
  | 0 => (0, false)
  | _ => let bs := s.rdScr core (addr + f.bytes i) (f.ebits / 8)
         (fp32.arith (f.elem (leNat (dataOf bs))), anyPoison bs)

/-! ### VE_MAP (R133) -/

/-- silu(a), each step rounded (R133). -/
def fSilu (a : Nat) : Nat := fMul a (sfuRecip (fAdd fOne (sfuExp2 (fMul (fNeg a) fL2E))))

/-- One output of VE_MAP from a, b, c (R133). -/
def mapOne (f a b c imm imm2 : Nat) : Nat :=
  match f with
  | 0x00 => fp32.arith (fp32.val a)
  | 0x01 => fAdd a b
  | 0x02 => fSub a b
  | 0x03 => fMul a b
  | 0x04 => fFma a b c
  | 0x05 => fMax a b
  | 0x06 => fMin a b
  | 0x07 => fMax a 0
  | 0x08 => sfuExp2 a
  | 0x09 => sfuLog2 a
  | 0x0A => sfuRecip a
  | 0x0B => sfuRsqrt a
  | 0x0C => fExp a
  | 0x10 => fSilu a
  | 0x11 => fMul (fSilu a) b
  | _ => fMul (fMul a (sfuRsqrt (fFma b imm2 imm))) c

/-- A uniform draw: (bits + 0.5) × 2⁻²⁴ in FP32 (R133). -/
def uniformOf (b : Nat) : Nat := fp32.arith (.fin false (2 * b + 1) (-25))

/-- Uniform draws for columns `j0` on: 24 bits of lane j mod 512 each (R142). -/
def uniformRow (s : State) : Nat → Nat → Lanes → List Nat × Lanes
  | 0, _, l => ([], l)
  | k + 1, j, l =>
    let r := l.draw s (j % 512) 24
    let rest := uniformRow s k (j + 1) r.2
    (uniformOf r.1 :: rest.1, rest.2)

/-- Uniform draws for a number of rows. -/
def uniformRows (s : State) (cols : Nat) : Nat → Lanes → List (List Nat) × Lanes
  | 0, l => ([], l)
  | k + 1, l =>
    let r := uniformRow s cols 0 l
    let rest := uniformRows s cols k r.2
    (r.1 :: rest.1, rest.2)

/-- FP32 results of one row of VE_MAP with poison. -/
def State.mapRow (s : State) (core : Nat) (d : Desc) (r : Nat) : List (Nat × Bool) :=
  let f := veFunc d
  (s.veARow core d r).zipIdx.map fun (a, j) =>
    let b := s.veBcVal core d (veB d) (dfld d 0x20 0 21) (veImm d) r j
    let c := s.veBcVal core d (veC d) (dfld d 0x20 32 21) (veImm2 d) r j
    (mapOne f a.1 b.1 c.1 (veImm d) (veImm2 d), a.2 || b.2 || c.2)

/-- Rows of FP32 results written in OUT_FMT (R58, R132). -/
def Act.veWrite (core : Nat) (d : Desc) (rows : List (List (Nat × Bool))) (k : MonDelta → Bool → Act) : Act :=
  let f := veOut d
  let outs := rows.map fun r => writeVals f (dfld d 0x10 20 1 == 1) (r.map fun v => (fp32.val v.1, v.2))
  let st := strideOf d (f.bytes (veCols d))
  .seq (.each outs.zipIdx fun (o, i) => .seq (.wrScr core (dfld d 0x28 0 21 + i * st) o.elems)
      (.when f.mx (.wrScr core (dfld d 0x28 32 21 + i * (st / f.blockBytes)) o.scales)))
    (k (sumMon (outs.map RowOut.mon)) (outs.any RowOut.poison))

/-- The context's lane starts are computed (R141, R144). -/
def State.pepperReady (s : State) (ctx : Nat) : Bool := s.rd .pepperReady ctx == 1

/-- VE_MAP (R133). All inputs are read before any output is written, which the spec leaves open where they overlap (R132; log entry 94).
UNIFORM waits until the lanes are ready. -/
def veMapPiece (m : Cmd) (k : PieceRes → Act) : Act :=
  .get fun s =>
    let d := m.d
    if veFunc d = 0x20 then
      if s.pepperReady m.ctx then
        let r := uniformRows s (veCols d) (veRows d) { core := m.core, ctx := m.ctx }
        .all [.needUnit unitVE m.core, .lanes r.2,
          .veWrite m.core d (r.1.map fun row => row.map fun x => (x, false)) fun mon p =>
            k (.done (Cmd.addMon { m with piece := 1, poison := p } mon))]
      else k .wait
    else
      .seq (.needUnit unitVE m.core) (.veWrite m.core d ((List.range (veRows d)).map (s.mapRow m.core d)) fun mon p =>
        k (.done (Cmd.addMon { m with piece := 1, poison := p } mon)))

def veMapRun : OpRun := { prep := onePiece, piece := veMapPiece }

/-! ### VE_REDUCE (R135) -/

/-- Neighbours combined, an empty side passing the other (R84, R135). -/
def pairUp (f : Nat → Nat → Nat) : List (Option Nat) → List (Option Nat)
  | a :: b :: r => (match a, b with | none, y => y | x, none => x | some x, some y => some (f x y)) :: pairUp f r
  | l => l

/-- Levels of the tree. -/
def treeUp (f : Nat → Nat → Nat) : Nat → List (Option Nat) → List (Option Nat)
  | 0, l => l
  | k + 1, l => treeUp f k (pairUp f l)

/-- Lane results of a row (R135): `first` takes a lane's first element, `next` each later one. -/
def laneResults (first : Nat → Nat) (next : Nat → Nat → Nat) (xs : List Nat) : List (Option Nat) :=
  (List.range 512).map fun l =>
    ((xs.zipIdx).filter fun p => p.2 % 512 == l).foldl (fun (acc : Option Nat) p =>
      match acc with | none => some (first p.1) | some a => some (next a p.1)) none

/-- The tree over the 512 lanes. -/
def laneTree (f : Nat → Nat → Nat) (l : List (Option Nat)) : Nat := ((treeUp f 9 l).headD none).getD 0

def rowSum (xs : List Nat) : Nat := laneTree fAdd (laneResults id fAdd xs)
def rowSumSq (xs : List Nat) : Nat := laneTree fAdd (laneResults (fun a => fMul a a) (fun acc a => fFma a a acc) xs)
def rowMax (xs : List Nat) : Nat := laneTree fMax (laneResults id fMax xs)
def rowMin (xs : List Nat) : Nat := laneTree fMin (laneResults id fMin xs)

/-- LSE of a row (R135). -/
def rowLse (xs : List Nat) : Nat :=
  let m := rowMax xs
  if m = fNInf then fNInf else fFma (sfuLog2 (rowSum (xs.map fun a => fExp (fSub a m)))) fLn2 m

/-- Candidate (v, i) wins over (w, j) in FP32 by the rules of R91. -/
def argWins (mode v i w j : Nat) : Bool :=
  if fNan v then (if fNan w then i < j else true)
  else if fNan w then false
  else if (if mode = 1 then fLt w v else fLt v w) then true
  else !fLt v w && !fLt w v && i < j

/-- Value and index of the winner (R91, R135). -/
def argBest (mode : Nat) (xs : List (Nat × Nat)) : Nat × Nat :=
  match xs with
  | [] => (fQnan, 0xFFFFFFFF)
  | x :: r => r.foldl (fun b c => if argWins mode c.1 c.2 b.1 b.2 then c else b) x

/-- The result of a reduction and its record width. -/
def reduceOne (f : Nat) (xs : List Nat) : Nat :=
  match f with
  | 0 => rowSum xs
  | 1 => rowSumSq xs
  | 2 => rowMax xs
  | 3 => rowMin xs
  | 4 => let b := argBest 1 xs.zipIdx; b.1 + b.2 * 2 ^ 32
  | 5 => let b := argBest 2 xs.zipIdx; b.1 + b.2 * 2 ^ 32
  | _ => rowLse xs

def reduceWidth (f : Nat) : Nat := if f = 4 ∨ f = 5 then 8 else 4

/-- PAYLOAD_RESERVED of VE_REDUCE, VE_SAMPLE and VE_FLAG (R131). -/
def veReducePayload (d : Desc) : Bool :=
  veZero d && veCommon d true && unusedZero [veB d, veC d, veBcFmt d, Desc.w d 4, Desc.w d 7, dfld d 0x28 32 21, dfld d 0x10 20 1]

def veReduceCheck (_ : State) (_ _ : Nat) (d : Desc) : Option Nat :=
  let w := reduceWidth (veFunc d)
  let st := strideOf d w
  if !veStorage (veAFmt d) || veOutFmt d != 8 then some 0x30
  else if 6 < veFunc d then some 0x31
  else if aPast d || past (dfld d 0x28 0 21) ((veRows d - 1) * st + w) then some 0x33
  else if ((veA d).mx && veCols d % 32 != 0) || st < w then some 0x34
  else none

def veReduceRules : OpRules := ⟨veReducePayload, veMon, veReduceCheck⟩

/-- VE_REDUCE (R135). -/
def veReducePiece (m : Cmd) (k : PieceRes → Act) : Act :=
  .get fun s =>
    let d := m.d
    let w := reduceWidth (veFunc d)
    let rows := (List.range (veRows d)).map fun r =>
      let xs := s.veARow m.core d r
      (reduceOne (veFunc d) (xs.map Prod.fst), xs.any Prod.snd)
    let mon := sumMon (rows.map fun r => countOne (fp32.conv (fp32.val (r.1 % 2 ^ 32))) r.2)
    .all [.needUnit unitVE m.core,
      .each rows.zipIdx fun (r, i) => .wrScr m.core (dfld d 0x28 0 21 + i * strideOf d w) ((leBytes w r.1).map fun b => (b, r.2)),
      k (.done (Cmd.addMon { m with piece := 1, poison := rows.any Prod.snd } mon))]

def veReduceRun : OpRun := { prep := onePiece, piece := veReducePiece }

/-! ### VE_FLAG (R136) -/

def veFlagPayload (d : Desc) : Bool :=
  veZero d && veCommon d true && unusedZero [veB d, veC d, veBcFmt d, Desc.w d 4, Desc.w d 5, veStride d, veOutFmt d, dfld d 0x10 20 1,
    bits (veImm2 d) 4 28] && zeroBut [(veFunc d != 2, veImm d)]

def veFlagCheck (_ : State) (_ _ : Nat) (d : Desc) : Option Nat :=
  if !veStorage (veAFmt d) then some 0x30
  else if 2 < veFunc d then some 0x31
  else if aPast d then some 0x33
  else if (veA d).mx && veCols d % 32 != 0 then some 0x34
  else none

def veFlagRules : OpRules := ⟨veFlagPayload, veMon, veFlagCheck⟩

/-- An element meets FUNC (R136). -/
def flagMeets (f imm a : Nat) : Bool :=
  match f with
  | 0 => fLt imm a
  | 1 => fNan a || fNan imm || !(fp32.val a).eqv (fp32.val imm)
  | _ => fBad a

/-- Elements of A that meet FUNC. -/
def State.flagCount (s : State) (m : Cmd) : Nat :=
  ((List.range (veRows m.d)).map fun r =>
    ((s.veARow m.core m.d r).filter fun a => flagMeets (veFunc m.d) (veImm m.d) a.1).length).foldl (· + ·) 0

/-- VE_FLAG: the count is held until retirement writes it (R136). -/
def veFlagPiece (m : Cmd) (k : PieceRes → Act) : Act :=
  .get fun s => .seq (.needUnit unitVE m.core) (k (.done { m with piece := 1, present := s.flagCount m }))

def veFlagRun : OpRun :=
  { prep := onePiece, piece := veFlagPiece
    finish := fun m => .flag m.core m.ctx (dfld m.d 0x38 32 4) (min m.present 0xFFFFFFFF)
    res := fun _ m => m.present }

/-! ### VE_SAMPLE (R137) -/

/-- Insertion into a list ordered by value, larger first, then by index. -/
def insDesc (x : Nat × Nat) : List (Nat × Nat) → List (Nat × Nat)
  | [] => [x]
  | y :: r => if fLt y.1 x.1 || (!fLt x.1 y.1 && x.2 < y.2) then x :: y :: r else y :: insDesc x r

/-- All (value, index) pairs by value descending, then index ascending (R137). -/
def sortDesc (l : List (Nat × Nat)) : List (Nat × Nat) := l.foldr insDesc []

/-- An FP32 sum in list order. -/
def seqSum (l : List Nat) : Nat := match l with | [] => 0 | x :: r => r.foldl fAdd x

/-- The shortest beginning whose running sum reaches a bound; the whole list where none does. -/
def prefixTo (bound : Nat) : List ((Nat × Nat) × Nat) → Option Nat → List ((Nat × Nat) × Nat)
  | [], _ => []
  | x :: r, acc =>
    let sum := match acc with | none => x.2 | some a => fAdd a x.2
    if fLt sum bound then x :: prefixTo bound r (some sum) else [x]

/-- The first candidate whose running sum is above a bound. -/
def firstOver (bound : Nat) : List ((Nat × Nat) × Nat) → Option Nat → Option Nat
  | [], _ => none
  | x :: r, acc =>
    let sum := match acc with | none => x.2 | some a => fAdd a x.2
    if fLt bound sum then some x.1.2 else firstOver bound r (some sum)

/-- Gumbel noise for the candidates in order, each from its VE lane (R137, R142). -/
def gumbelRow (s : State) : List (Nat × Nat) → Lanes → List (Nat × Nat) × Lanes
  | [], l => ([], l)
  | c :: r, l =>
    let x := l.draw s (c.2 % 512) 24
    let g := fNeg (fLn (fNeg (fLn (uniformOf x.1))))
    let rest := gumbelRow s r x.2
    ((fAdd c.1 g, c.2) :: rest.1, rest.2)

/-- A sampled row: token, LOGP and the lanes after (R137). -/
def sampleRow (s : State) (func row : Nat) (temp topP topK : Nat) (a : List Nat) (l : Lanes) : Nat × Nat × Lanes :=
  let bad := (0xFFFFFFFF, fQnan, l)
  let t := fp32.val temp
  let p := fp32.val topP
  if a.any fNan || t.nonFinite || (t.neg && !t.isZero) || p == .nan || p.isZero || p.neg then bad
  else if t.isZero then
    let b := argBest 1 a.zipIdx
    (b.2, fSub b.1 (rowLse a), l)
  else
    let z := a.map fun x => fMul x (sfuRecip temp)
    if z.any fBad then bad else
    let cand0 := sortDesc z.zipIdx
    let cand1 := if topK = 0 then cand0 else cand0.take topK
    let best := (cand1.headD (0, 0)).1
    let withP := cand1.map fun c => (c, fExp (fSub c.1 best))
    let cand := if fLt topP fOne then prefixTo (fMul topP (seqSum (withP.map Prod.snd))) withP none else withP
    let r := if func = 0 then
        let x := l.draw s (512 + row % 16) 24
        ((firstOver (fMul (uniformOf x.1) (seqSum (cand.map Prod.snd))) cand none).getD ((cand.getLastD ((0, 0), 0)).1.2), x.2)
      else
        let g := gumbelRow s (cand.map Prod.fst) l
        ((argBest 1 g.1).2, g.2)
    (r.1, fSub (z.getD r.1 fQnan) (rowLse z), r.2)

/-- Rows sampled in order. -/
def sampleRows (s : State) (m : Cmd) : List Nat → Lanes → List (Nat × Bool) × Lanes
  | [], l => ([], l)
  | r :: rest, l =>
    let par := s.rdScr m.core (dfld m.d 0x20 0 21 + 16 * r) 16
    let v := leNat (dataOf par)
    let a := s.veARow m.core m.d r
    let x := sampleRow s (veFunc m.d) r (bits v 0 32) (bits v 32 32) (bits v 64 32) (a.map Prod.fst) l
    let more := sampleRows s m rest x.2.2
    ((x.1 + x.2.1 * 2 ^ 32, anyPoison par || a.any Prod.snd) :: more.1, more.2)

def veSamplePayload (d : Desc) : Bool :=
  veZero d && veCommon d true &&
    unusedZero [veB d, veC d, veBcFmt d, dfld d 0x20 32 21, dfld d 0x28 32 21, veStride d, Desc.w d 7, dfld d 0x10 20 1]

def veSampleCheck (_ : State) (_ _ : Nat) (d : Desc) : Option Nat :=
  if !veStorage (veAFmt d) || veOutFmt d != 8 then some 0x30
  else if 1 < veFunc d then some 0x31
  else if aPast d || past (dfld d 0x20 0 21) (16 * veRows d) || past (dfld d 0x28 0 21) (8 * veRows d) then some 0x33
  else if (veA d).mx && veCols d % 32 != 0 then some 0x34
  else none

def veSampleRules : OpRules := ⟨veSamplePayload, veMon, veSampleCheck⟩

/-- VE_SAMPLE (R137). It waits until the lanes are ready, even where no row of it will draw (R141; log entry 94). -/
def veSamplePiece (m : Cmd) (k : PieceRes → Act) : Act :=
  .get fun s =>
    if s.pepperReady m.ctx then
      let r := sampleRows s m (List.range (veRows m.d)) { core := m.core, ctx := m.ctx }
      let mon := sumMon (r.1.map fun x => countOne (fp32.conv (fp32.val (x.1 / 2 ^ 32))) x.2)
      .all [.needUnit unitVE m.core, .needUnit unitSample m.core, .lanes r.2,
        .each r.1.zipIdx fun (x, i) => .wrScr m.core (dfld m.d 0x28 0 21 + 8 * i) ((leBytes 8 x.1).map fun b => (b, x.2)),
        k (.done (Cmd.addMon { m with piece := 1, poison := r.1.any Prod.snd } mon))]
    else k .wait

def veSampleRun : OpRun := { prep := onePiece, piece := veSamplePiece }

/-! ### VE_PEPPER_SAVE and VE_PEPPER_LOAD (R143) -/

/-- Every payload field but the one address is zero (R131). -/
def onlyField (d : Desc) (word : Nat) : Bool :=
  ([2, 3, 4, 5, 6, 7].all fun k => k == word || Desc.w d k == 0) && bits (Desc.w d word) 21 43 == 0

def pepperBytes : Nat := 8448

def vePepperSaveRules : OpRules :=
  ⟨fun d => onlyField d 5, fun _ => none, fun _ _ _ d => if past (dfld d 0x28 0 21) pepperBytes then some 0x33 else none⟩

def vePepperLoadRules : OpRules :=
  ⟨fun d => onlyField d 3, fun _ => none, fun _ _ _ d => if past (dfld d 0x18 0 21) pepperBytes then some 0x33 else none⟩

/-- VE_PEPPER_SAVE writes the slot's 528 states (R143). It draws no bits and does not wait: a start that is still being computed saves as
a free value (R141; log entry 64). -/
def vePepperSavePiece (m : Cmd) (k : PieceRes → Act) : Act :=
  .get fun s =>
    let put (l v : Nat) : Act := .wrScr m.core (dfld m.d 0x28 0 21 + 16 * l) (cleanBytes 16 v)
    .all [.needUnit unitVE m.core,
      .each (List.range 528) fun l =>
        if s.pepperReady m.ctx || (tget (s.ctxCore m.core m.ctx).pepper l).isSome then put l (s.lane m.core m.ctx l) else .draw (put l),
      k (.done { m with piece := 1 })]

/-- VE_PEPPER_LOAD loads all 528 states, or fails where one is zero (R143): that is seen as the command runs, where the range of its
extent was checked at dispatch. States loaded while starts are being computed stand (R141; log entry 94). -/
def vePepperLoadPiece (m : Cmd) (k : PieceRes → Act) : Act :=
  .get fun s =>
    let st := (List.range 528).map fun l => leNat (dataOf (s.rdScr m.core (dfld m.d 0x18 0 21 + 16 * l) 16))
    if st.any fun x => x == 0 then k (.fault 3 0x32 0 0)
    else .all [.needUnit unitVE m.core,
      .ctxCore m.core m.ctx fun c => { c with pepper := st.zipIdx.map fun p => (p.2, p.1) },
      k (.done { m with piece := 1 })]

def vePepperSaveRun : OpRun := { prep := onePiece, piece := vePepperSavePiece }
def vePepperLoadRun : OpRun := { prep := onePiece, piece := vePepperLoadPiece }

end Sys2Proof.Machine
end

