-- ==== Sys2Proof/Machine/Dm.lean ====
section
/-! DEFINITION. Data movers: DM_COPY with its transforms, row by row (R122 to R130). -/

namespace Sys2Proof.Machine

/-! ### Payload (R122) -/

def dmT (d : Desc) : Nat := dfld d 0x10 0 4
def dmSrcFmt (d : Desc) : Nat := dfld d 0x10 4 4
def dmDstFmt (d : Desc) : Nat := dfld d 0x10 8 4
def dmFit (d : Desc) : Bool := dfld d 0x10 12 1 == 1
def dmSrcKind (d : Desc) : Nat := dfld d 0x10 32 2
def dmDstKind (d : Desc) : Nat := dfld d 0x10 34 2
def dmMask (d : Desc) : Bool := dfld d 0x10 36 1 == 1
def dmSrc (d : Desc) : Nat := dfld d 0x18 0 48
def dmDst (d : Desc) : Nat := dfld d 0x20 0 48
def dmSrcAux (d : Desc) : Nat := dfld d 0x28 0 48
def dmDstAux (d : Desc) : Nat := dfld d 0x30 0 48
def dmRowBytes (d : Desc) : Nat := dfld d 0x38 0 21
def dmRows (d : Desc) : Nat := dfld d 0x38 21 16 + 1
def dmMaskAddr (d : Desc) : Nat := dfld d 0x38 37 21

/-- The tensor ID of a valid monitor field (R122). -/
def dmMon (d : Desc) : Option Nat := if dfld d 0x10 13 1 = 1 then some (dfld d 0x10 16 14) else none

/-- The format of a field; RAW and reserved codes have none. -/
def dmSF (d : Desc) : Option DFmt := dfmt (dmSrcFmt d)
def dmDF (d : Desc) : Option DFmt := dfmt (dmDstFmt d)

/-- Bytes of one block of an MX format, 0 for others. -/
def blockOf (f : Option DFmt) : Nat := match f with | some g => if g.mx then g.blockBytes else 0 | none => 0

/-- Elements of a CONVERT row. -/
def convElems (d : Desc) : Nat := match dmSF d with | some f => dmRowBytes d * 8 / f.ebits | none => 0

/-- Bytes of one destination line: CONVERT and REQUANT_T lines are as long as their format makes them. -/
def dstLine (d : Desc) : Nat :=
  match dmDF d with
  | some f => if dmT d = 1 then f.bytes (convElems d) else if dmT d = 5 then f.bytes 64 else dmRowBytes d
  | none => dmRowBytes d

/-- Strides in bytes; 0 means packed rows (R122). -/
def srcStride (d : Desc) : Nat := if dfld d 0x18 48 16 = 0 then dmRowBytes d else dfld d 0x18 48 16 * 16
def dstStride (d : Desc) : Nat := if dfld d 0x20 48 16 = 0 then dstLine d else dfld d 0x20 48 16 * 16

/-- PAYLOAD_RESERVED of a copy: reserved fields and reserved address kinds; FILL ignores SRC_KIND (R99, R122, R124). -/
def dmPayload (d : Desc) : Bool :=
  zeroBits (Desc.w d 2) [(14, 2), (30, 2), (37, 3), (56, 8)] && zeroBits (Desc.w d 5) [(48, 16)] &&
    zeroBits (Desc.w d 6) [(48, 16)] && zeroBits (Desc.w d 7) [(58, 6)] &&
    (dmT d == 8 || ((dmT d == 7 || dmSrcKind d != 3) && dmDstKind d != 3))

/-- Formats allowed for a transform (R124, R130). The spec names none for FILL: its DST_FMT may be RAW, BF16, FP16 or FP32, as GATHER's,
and its SRC_FMT is ignored (log entry 92). -/
def dmFmtOk (t sf df : Nat) : Bool :=
  match t with
  | 0 => sf == df && (sf ≤ 8 || sf == 15)
  | 1 => sf ≤ 8 && df ≤ 8
  | 2 | 3 | 4 => sf == df && (sf == 6 || sf == 7)
  | 5 => sf ≤ 5 && df ≤ 5
  | 6 => sf == df && (sf == 15 || (6 ≤ sf && sf ≤ 8))
  | 7 => df == 15 || (6 ≤ df && df ≤ 8)
  | _ => true

/-- An extent lies in scratch and passes its end, or a scratch address has high bits (R130). -/
def scrBad (kind addr n : Nat) : Bool := kind != 0 && (2 ^ 21 ≤ addr || past addr n)

/-- Source extents of a copy: address and bytes. -/
def srcExtents (d : Desc) : List (Nat × Nat) :=
  let n := dmRows d
  let ss := srcStride d
  let b := blockOf (dmSF d)
  match dmT d with
  | 4 => [(dmSrc d, (n - 1) * 128 + 63 * ss + 128)]
  | 5 => [(dmSrc d, 63 * ss + (match dmSF d with | some f => f.bytes (64 * n) | none => 0)), (dmSrcAux d, 63 * (ss / b) + 2 * n)]
  | 6 => [(dmSrcAux d, 4 * n)]
  | 7 => []
  | _ => (dmSrc d, (n - 1) * ss + dmRowBytes d) :: if b = 0 then [] else [(dmSrcAux d, (n - 1) * (ss / b) + dmRowBytes d / b)]

/-- Destination lines of one row, and scale bytes of a line. -/
def dstLines (d : Desc) : Nat := if dmT d = 5 then 64 else 1
def dstScales (d : Desc) : Nat := let b := blockOf (dmDF d); if b = 0 then 0 else dstLine d / b

/-- Destination extents of `n` rows. -/
def dstExtents (d : Desc) (n : Nat) : List (Nat × Nat) :=
  let k := dstLines d * n - 1
  let b := blockOf (dmDF d)
  (dmDst d, k * dstStride d + dstLine d) :: if b = 0 then [] else [(dmDstAux d, k * (dstStride d / b) + dstScales d)]

/-- A scratch address among these sets bits above [20]: no data is needed to see it (R130). -/
def highScratch (kind : Nat) (l : List Nat) : Bool := kind != 0 && l.any (2 ^ 21 ≤ ·)

/-- Dispatch checks of a copy other than ACCUM_W40, in code order (R130). The extents of masked destination rows and of gathered source
rows wait for their rows. A ROW_BYTES of 0, for which R122 has no place, is refused with DM_RANGE, and a CONVERT row that is no whole
number of scalar elements with DM_ALIGN (log entry 92). -/
def dmCopyCheck (_ : State) (_ _ : Nat) (d : Desc) : Option Nat :=
  let t := dmT d
  let sb := blockOf (dmSF d)
  let db := blockOf (dmDF d)
  if t < 8 && !dmFmtOk t (dmSrcFmt d) (dmDstFmt d) then some 0x20
  else if 8 < t || (dmMask d && !([0, 2, 3].contains t)) || ([2, 3, 4].contains t && dmRowBytes d != 8192) then some 0x21
  else if dmRowBytes d == 0 || (srcExtents d).any (fun e => scrBad (dmSrcKind d) e.1 e.2) ||
      (t == 6 && highScratch (dmSrcKind d) [dmSrc d]) ||
      (if dmMask d then past (dmMaskAddr d) (cdiv (dmRows d) 8) ||
          highScratch (dmDstKind d) (dmDst d :: if db = 0 then [] else [dmDstAux d])
        else (dstExtents d (dmRows d)).any fun e => scrBad (dmDstKind d) e.1 e.2) then some 0x22
  else if [0, 1, 5].contains t && ((sb != 0 && (dmRowBytes d % sb != 0 || srcStride d % sb != 0)) ||
      (db != 0 && dstStride d % db != 0) || (t == 1 && db != 0 && convElems d % 32 != 0) ||
      (t == 1 && sb == 0 && dmRowBytes d % (match dmSF d with | some f => f.ebits / 8 | none => 1) != 0)) then some 0x23
  else if 191 < dfld d 0x10 40 8 || 191 < dfld d 0x10 48 8 then some 0x24
  else none

/-! ### Address spaces -/

/-- Why a row cannot be done: a fault in the address space or a reason code. -/
inductive RowErr where
  | flt (e : Flt)
  | bad (reason : Nat)
  deriving DecidableEq, Repr

/-- Places of a range in the context's address space, own scratch or a peer's (R122). -/
def State.space (s : State) (m : Cmd) (kind peer addr n : Nat) (wr : Bool) (pages : Bool → Bool := not) :
    Except RowErr (List (MemSel × Nat × Nat)) :=
  match kind with
  | 0 => match s.span m.ctx addr n wr pages with
    | .ok l => .ok l
    | .error e => .error (.flt e)
  | k =>
    if scrBad 1 addr n then .error (.bad 0x22)
    else .ok [(.scratch, (if k = 1 then m.core else peer) * 2 ^ 21 + addr, n)]

/-- Places on the source side and on the destination side. -/
def State.srcSpace (s : State) (m : Cmd) (addr n : Nat) : Except RowErr (List (MemSel × Nat × Nat)) :=
  s.space m (dmSrcKind m.d) (dfld m.d 0x10 40 8) addr n false

/-- FILL with the pattern 0 may reach BANK pages (R228). -/
def State.dstSpace (s : State) (m : Cmd) (addr n : Nat) : Except RowErr (List (MemSel × Nat × Nat)) :=
  s.space m (dmDstKind m.d) (dfld m.d 0x10 48 8) addr n true fun bank => !bank || (dmT m.d == 7 && dmSrc m.d % 2 ^ 32 == 0)

/-- Source places read in order, with their bytes. -/
abbrev Reads := List (List (MemSel × Nat × Nat))

/-- One read handed on. -/
def withRead {α : Type} (r : Except RowErr (List (MemSel × Nat × Nat))) (k : List (MemSel × Nat × Nat) → Except RowErr α) :
    Except RowErr α := match r with | .error e => .error e | .ok l => k l

/-- Several lines read from the source side: address of line l and its length. -/
def State.srcLines (s : State) (m : Cmd) (n len : Nat) (addr : Nat → Nat) : Except RowErr Reads :=
  exAll ((List.range n).map fun l => s.srcSpace m (addr l) len)

/-! ### Transforms (R124, R127, R128) -/

/-- Byte offset of element (r, c) in a bi-oriented tile (R128). -/
def biOffset (r c : Nat) : Nat := (8 * (r / 8) + c / 8) * 128 + (8 * (r % 8) + c % 8) * 2

/-- Two bytes of a tile. -/
def elem2 (bs : PBytes) (o : Nat) : PBytes := (bs.drop o).take 2

/-- A bi-oriented tile as a TE tile: column n holds K positions in order; the stored rows are K, or the stored columns
when transposed (R127, R128). -/
def tileLoad (transposed : Bool) (bs : PBytes) : PBytes :=
  (List.range 64).flatMap fun n => (List.range 64).flatMap fun k => elem2 bs (if transposed then biOffset n k else biOffset k n)

/-- 64 row-major lines of 64 elements as a bi-oriented tile (R128). -/
def tileStore (lines : List PBytes) : PBytes :=
  (List.range 64).flatMap fun sb => (List.range 64).flatMap fun e =>
    elem2 (lines.getD (8 * (sb / 8) + e / 8) []) ((8 * (sb % 8) + e % 8) * 2)

/-- A row as it will be written: destination address and bytes for each line, with the counts. -/
structure RowPlan where
  reads : Reads
  writes : List (Nat × PBytes)
  mon : MonDelta := {}
  deriving DecidableEq, Repr

/-- Counts of a copy of typed elements; RAW bytes count nothing (R63, R124). -/
def countTyped (f : Option DFmt) (elems scales : PBytes) : MonDelta :=
  match f with
  | some g => countCopied g (elems.length * 8 / g.ebits) elems scales
  | none => {}

/-- Source row `r` of a NONE copy: elements, and scales of an MX format. -/
def State.copyRow (s : State) (m : Cmd) (r p : Nat) : Except RowErr RowPlan :=
  let d := m.d
  let b := blockOf (dmSF d)
  withRead (s.srcSpace m (dmSrc d + r * srcStride d) (dmRowBytes d)) fun e =>
    if b = 0 then
      let bs := s.rdSpan e
      .ok ⟨[e], [(dmDst d + p * dstStride d, bs)], countTyped (dmSF d) bs []⟩
    else withRead (s.srcSpace m (dmSrcAux d + r * (srcStride d / b)) (dmRowBytes d / b)) fun x =>
      let bs := s.rdSpan e
      let sc := s.rdSpan x
      .ok ⟨[e, x], [(dmDst d + p * dstStride d, bs), (dmDstAux d + p * (dstStride d / b), sc)], countTyped (dmSF d) bs sc⟩

/-- Written values as destination lines. -/
def outLine (d : Desc) (line : Nat) (o : RowOut) : List (Nat × PBytes) :=
  let b := blockOf (dmDF d)
  (dmDst d + line * dstStride d, o.elems) :: if b = 0 then [] else [(dmDstAux d + line * (dstStride d / b), o.scales)]

/-- Row `r` of a CONVERT (R60, R61, R124). -/
def State.convertRow (s : State) (m : Cmd) (r : Nat) : Except RowErr RowPlan :=
  let d := m.d
  let b := blockOf (dmSF d)
  let f := (dmSF d).getD .fp32
  let g := (dmDF d).getD .fp32
  withRead (s.srcSpace m (dmSrc d + r * srcStride d) (dmRowBytes d)) fun e =>
    withRead (if b = 0 then .ok [] else s.srcSpace m (dmSrcAux d + r * (srcStride d / b)) (dmRowBytes d / b)) fun x =>
      let o := writeVals g (dmFit d) (valsOf f (convElems d) (s.rdSpan e) (s.rdSpan x))
      .ok ⟨[e, x], outLine d r o, o.mon⟩

/-- Block `r` of a REQUANT_T: column j of the source block becomes destination line 64 r + j (R124). -/
def State.requantRow (s : State) (m : Cmd) (r : Nat) : Except RowErr RowPlan :=
  let d := m.d
  let b := blockOf (dmSF d)
  let f := (dmSF d).getD .e4m3
  let g := (dmDF d).getD .e4m3
  match s.srcLines m 64 (f.bytes 64) (fun l => dmSrc d + l * srcStride d + f.bytes (64 * r)),
        s.srcLines m 64 2 (fun l => dmSrcAux d + l * (srcStride d / b) + 2 * r) with
  | .error e, _ => .error e
  | _, .error e => .error e
  | .ok es, .ok xs =>
    let rows := (es.zip xs).map fun p => valsOf f 64 (s.rdSpan p.1) (s.rdSpan p.2)
    let outs := (List.range 64).map fun j => writeVals g (dmFit d) (rows.map fun row => row.getD j (Val.zero, false))
    .ok ⟨es ++ xs, outs.zipIdx.flatMap fun (o, j) => outLine d (64 * r + j) o, sumMon (outs.map RowOut.mon)⟩

/-- Row `r` of a copy, its destination row being `p` (R124, R126). GATHER's index array lies in the space of SRC_KIND, and FILL's pattern
starts anew in each row: the spec says neither (log entry 92). -/
def State.planRow (s : State) (m : Cmd) (r p : Nat) : Except RowErr RowPlan :=
  let d := m.d
  match dmT d with
  | 0 => s.copyRow m r p
  | 1 => s.convertRow m r
  | 2 | 3 => withRead (s.srcSpace m (dmSrc d + r * srcStride d) 8192) fun e =>
      let bs := tileLoad (dmT d == 3) (s.rdSpan e)
      .ok ⟨[e], [(dmDst d + p * dstStride d, bs)], countTyped (dmSF d) bs []⟩
  | 4 => match s.srcLines m 64 128 (fun l => dmSrc d + r * 128 + l * srcStride d) with
    | .error e => .error e
    | .ok ls =>
      let bs := tileStore (ls.map s.rdSpan)
      .ok ⟨ls, [(dmDst d + p * dstStride d, bs)], countTyped (dmSF d) bs []⟩
  | 5 => s.requantRow m r
  | 6 => withRead (s.srcSpace m (dmSrcAux d + 4 * r) 4) fun x =>
      let ib := s.rdSpan x
      if anyPoison ib then .error (.bad 0x1A) else
      withRead (s.srcSpace m (dmSrc d + leNat (dataOf ib) * srcStride d) (dmRowBytes d)) fun e =>
        let bs := s.rdSpan e
        .ok ⟨[x, e], [(dmDst d + p * dstStride d, bs)], countTyped (dmSF d) bs []⟩
  | _ =>
    let bs := ((List.range (cdiv (dmRowBytes d) 4)).flatMap fun _ => cleanBytes 4 (dmSrc d % 2 ^ 32)).take (dmRowBytes d)
    .ok ⟨[], [(dmDst d + p * dstStride d, bs)], countTyped (dmDF d) bs []⟩

/-- The destination places of a row. -/
def State.planDst (s : State) (m : Cmd) (ws : List (Nat × PBytes)) : Except RowErr Reads :=
  exAll (ws.map fun w => s.dstSpace m w.1 w.2.length)

/-- The places of a GATHER row's index, which is read before its row: a row that faults has read it (R269, R288). -/
def State.indexReads (s : State) (m : Cmd) : List (MemSel × Nat × Nat) :=
  if dmT m.d ≠ 6 then [] else match s.srcSpace m (dmSrcAux m.d + 4 * m.piece) 4 with
    | .ok x => x
    | .error _ => []

/-- A row's error as a piece result: ILLEGAL with the reason, TRANSLATION, or DM_BANK (R123, R130, R228). -/
def RowErr.res : RowErr → PieceRes
  | .flt e => .flt e 0x27
  | .bad r => .fault 3 r 0 0

/-- Rows absent under a mask are passed over (R126). -/
def nextRow (s : State) (m : Cmd) : Nat → Nat → Prep
  | 0, r => .over { m with piece := r }
  | n + 1, r =>
    if dmRows m.d ≤ r then .over { m with piece := r }
    else if !dmMask m.d then .ready { m with piece := r }
    else
      let b := maskBit (s.rdScr m.core (dmMaskAddr m.d + r / 8) 1) (r % 8)
      if b.2 then .bad 3 0x1A
      else if b.1 then .ready { m with piece := r }
      else nextRow s m n (r + 1)

/-- The next row: the one whose claims are under way, or the next present one. -/
def dmPrep (s : State) (m : Cmd) : Prep := if m.streamed then .ready m else nextRow s m 65537 m.piece

/-- One row of a copy: all of its bytes, or none where it faults (R123; log entry 12). The context's traffic is charged
to its partition and waits for tokens (R276, R277). -/
def dmCopyPiece (m : Cmd) (k : PieceRes → Act) : Act :=
  .get fun s =>
    match s.planRow m m.piece m.present with
    | .error e => .seq (.noteSpan m.ctx (s.indexReads m)) (k e.res)
    | .ok p =>
      match s.planDst m p.writes with
      | .error e => .seq (.noteSpan m.ctx (s.indexReads m)) (k e.res)
      | .ok ls =>
        let bad := p.writes.any fun w => anyPoison w.2
        let places := p.reads.flatten ++ ls.flatten
        .needMem m places k (.all [.needUnit unitDM m.core, .each p.reads (.noteSpan m.ctx), .charge m.ctx places,
          .each (ls.zip p.writes) fun x => .seq (.wrSpan x.1 x.2.2) (.noteOut m.ctx x.1 x.2.2),
          k (.done (Cmd.addMon { m with piece := m.piece + 1, present := m.present + 1, poison := m.poison || bad } p.mon))])

def dmCopyRun : OpRun :=
  { prep := dmPrep, piece := dmCopyPiece, res := fun _ m => m.present, res2 := fun m => dmRows m.d - m.present }

end Sys2Proof.Machine
end

