-- ==== Sys2Proof/Machine/Tarn.lean ====
section
/-! DEFINITION. The tarn (R149 to R155): page geometry, the units a sequence holds, where a byte of a page lies, and the
free pool. -/

namespace Sys2Proof.Machine

/-! ### Sessions as the tarn sees them -/

/-- A session's record. -/
def State.ses (s : State) (i : Nat) : Sess := tgetD s.u.sess i {}

/-- A session's record changes. -/
def Act.ses (i : Nat) (f : Sess → Sess) : Act := .units fun u => { u with sess := tmod u.sess i {} f }

/-- A field of the session descriptor: byte offset, low bit, length (R178). -/
def Sess.fld (x : Sess) (off lo len : Nat) : Nat := bits (x.d.getD (off / 8) 0) lo len

def Sess.model (x : Sess) : Nat := x.fld 0 16 16
def Sess.layers (x : Sess) : Nat := x.fld 0 32 8 + 1
def Sess.heads (x : Sess) : Nat := x.fld 0 40 6 + 1
def Sess.dim (x : Sess) : Nat := if x.fld 0 46 1 = 1 then 128 else 64
def Sess.mxPages (x : Sess) : Bool := x.fld 0 47 1 == 1
def Sess.cand (x : Sess) : Nat := x.fld 0 48 4
def Sess.maxSeq (x : Sess) : Nat := x.fld 8 0 13
def Sess.maxRows (x : Sess) : Nat := x.fld 8 32 32
def Sess.maxLen (x : Sess) : Nat := x.fld 0x18 0 32
def Sess.reserve (x : Sess) : Nat := x.fld 0x30 32 32

/-- A session runs: OPEN or DRAINING (R180). -/
def State.sesLive (s : State) (i : Nat) : Bool := s.rd .sessionState i == 1 || s.rd .sessionState i == 2

/-- Sessions that run, by number. -/
def State.liveSes (s : State) : List (Nat × Sess) := s.u.sess.filter fun p => s.sesLive p.1

/-- The running sequence a handle names in a session of a context (R155). -/
def State.byHandle (s : State) (ctx handle : Nat) : Option (Nat × Sess × Sq) :=
  s.liveSes.findSome? fun p => if p.2.ctx = ctx then
    (p.2.seqs.find? fun q => q.handle == some handle).map fun q => (p.1, p.2, q) else none

/-! ### Pages (R150, R151) -/

/-- Units of one page (R150). -/
def pageUnits (h d : Nat) (mx : Bool) : Nat := cdiv ((if mx then 132 else 256) * h * d) 65536

/-- Units that one page takes across all layers of a session. -/
def Sess.unitsPerPage (x : Sess) : Nat := x.layers * pageUnits x.heads x.dim x.mxPages

/-- Device physical address of a unit (R149, R262). -/
def State.unitAddr (s : State) (unit : Nat) : Nat := s.u.mem.tarnBase + unit * 65536

/-- Where `n` bytes from byte `b` of a page's layer lie: unit number b div 65,536 of the page (R150). -/
def State.pageBytes (s : State) (x : Sess) (q : Sq) (page layer b n : Nat) : List (MemSel × Nat × Nat) :=
  let u := pageUnits x.heads x.dim x.mxPages
  let units := ((q.pages.getD page []).drop (layer * u)).take u
  (pieces b n).map fun p => (.stack, s.unitAddr (units.getD (p.1 / 65536) 0) + p.1 % 65536, p.2)

/-- Offset in the page, bytes, of one K element row (head h, position pos, from d0 on, within a tile) and of V (R151). -/
def kOff (mx : Bool) (dim h pos d : Nat) : Nat :=
  if mx then h * 64 * dim + d / 64 * 4096 + pos * 64 + d % 64
  else h * 128 * dim + d / 64 * 8192 + 2 * (pos * 64 + d % 64)

def vOff (mx : Bool) (heads dim h pos d : Nat) : Nat :=
  if mx then 66 * heads * dim + h * 64 * dim + pos * dim + d
  else 128 * heads * dim + h * 128 * dim + d / 64 * 8192 + 2 * (d % 64 * 64 + pos)

/-- Offset of the scale byte of an MXFP8 page's element (R151). -/
def kScaleOff (heads dim h pos d : Nat) : Nat := 64 * heads * dim + h * 2 * dim + d / 64 * 128 + pos * 2 + d % 64 / 32
def vScaleOff (heads dim h pos d : Nat) : Nat := 130 * heads * dim + h * 2 * dim + pos * (dim / 32) + d / 32

/-! ### The free pool (R154, R156) -/

/-- Units held by sequences or pending. -/
def State.unitsUsed (s : State) : List Nat :=
  (s.u.sess.flatMap fun p => p.2.seqs.flatMap fun q => q.pages.flatten) ++ s.u.tarnPend.flatMap fun p => p.2.2

/-- TARN_FREE (R156). -/
def State.tarnFree (s : State) : Nat := s.u.mem.tarn - s.unitsUsed.length

/-- The `k` lowest units from `i` on that are not used; which units a page gets is the model's choice (log entry 24). -/
def freshUnits (used : List Nat) : Nat → Nat → Nat → List Nat
  | 0, _, _ => []
  | _, 0, _ => []
  | fuel + 1, k + 1, i => if used.contains i then freshUnits used fuel (k + 1) (i + 1) else i :: freshUnits used fuel k (i + 1)

/-- `k` units from the free pool. -/
def takeUnits (used : List Nat) (k : Nat) : List Nat := freshUnits used (used.length + k + 1) k 0

/-- Units a session holds. -/
def Sess.held (x : Sess) : Nat := (x.seqs.map fun q => q.pages.flatten.length).foldl (· + ·) 0

/-- What a session may take from the free pool (R193). -/
def State.takeable (s : State) (i : Nat) : Nat :=
  s.tarnFree - ((s.liveSes.filter fun p => p.1 != i).map fun p => p.2.reserve - p.2.held).foldl (· + ·) 0

/-- An attention command of a context that names a handle is dispatched and not retired (R155). -/
def State.attnNames (s : State) (ctx handle : Nat) : Bool :=
  let names (m : Cmd) : Bool := m.ctx == ctx && opClass (hOpcode m.d) == some 1 && dfld m.d 0x10 0 2 == 1 &&
    (List.range (dfld m.d 0x10 48 12 + 1)).any fun r =>
      leNat (dataOf (s.rdScr m.core (dfld m.d 0x28 21 21 + 16 * r + 8) 4)) == handle
  s.u.core.engQ.any (fun p => p.2.any names) || s.u.core.cc.any fun p => p.2.saved.any names

/-- Pending units that no attention command names any more join the free pool (R154 step 5, R155). It runs at every boundary and where a
teardown ends (log entry 119). -/
def Act.tarnJoin : Act :=
  .get fun s => .units fun u => { u with tarnPend := u.tarnPend.filter fun p => s.attnNames p.2.1 p.1 }

end Sys2Proof.Machine
end

