-- ==== Sys2Proof/Machine/Attn.lean ====
section
/-! DEFINITION. The fused attention commands (R157 to R170): payload and checks, key and value blocks from scratch rows and
tarn pages, the online softmax, the backward pass, and appending to the tarn. -/

namespace Sys2Proof.Machine

/-! ### Payload (R158, R159) -/

def atTarn (d : Desc) : Bool := dfld d 0x10 0 2 == 1
def atCausal (d : Desc) : Bool := dfld d 0x10 2 1 == 1
def atAppend (d : Desc) : Bool := dfld d 0x10 3 1 == 1
def atTes (d : Desc) : Nat := match dfld d 0x10 4 2 with | 0 => 1 | 1 => 2 | _ => 4
def atDim (d : Desc) : Nat := if dfld d 0x10 6 1 = 1 then 128 else 64
def atFit (d : Desc) : Bool := dfld d 0x10 7 1 == 1
def atQFmt (d : Desc) : Nat := dfld d 0x10 8 4
def atOFmt (d : Desc) : Nat := dfld d 0x10 12 4
def atG (d : Desc) : Nat := dfld d 0x10 16 4 + 1
def atCand (d : Desc) : Nat := dfld d 0x10 20 4
def atSaveLse (d : Desc) : Bool := dfld d 0x10 27 1 == 1
def atSeqs (d : Desc) : Nat := dfld d 0x10 48 12 + 1
def atScale (d : Desc) : Nat := dfld d 0x18 0 32
def atHeads (d : Desc) : Nat := dfld d 0x18 32 6 + 1
def atLayer (d : Desc) : Nat := dfld d 0x18 56 8
def atQStride (d : Desc) : Nat := dfld d 0x38 0 12 * 16
def atOStride (d : Desc) : Nat := dfld d 0x38 12 12 * 16
def atKvStride (d : Desc) : Nat := dfld d 0x38 24 12 * 16
def atQ (d : Desc) : DFmt := (dfmt (atQFmt d)).getD .bf16
def atO (d : Desc) : DFmt := (dfmt (atOFmt d)).getD .bf16
def isBwd (d : Desc) : Bool := hOpcode d == 0x11
def isVerify (d : Desc) : Bool := hOpcode d == 0x12

/-- The tensor ID of a valid monitor field. -/
def atMon (d : Desc) : Option Nat := if dfld d 0x10 41 1 = 1 then some (dfld d 0x18 40 14) else none

/-- PAYLOAD_RESERVED: reserved fields, a reserved TE_COUNT, and GRAD_ADDR outside ATTN_BWD (R99, R158). -/
def atPayload (d : Desc) : Bool :=
  zeroBits (Desc.w d 2) [(28, 4), (42, 6), (60, 4)] && zeroBits (Desc.w d 3) [(38, 2), (54, 2)] &&
    zeroBits (Desc.w d 4) [(63, 1)] && zeroBits (Desc.w d 5) [(63, 1)] && zeroBits (Desc.w d 6) [(63, 1)] &&
    zeroBits (Desc.w d 7) [(36, 28)] && dfld d 0x10 4 2 != 3 && (isBwd d || dfld d 0x20 42 21 == 0)

/-- Groups and rows a fused command holds on each TE it uses: group, first row, rows (R162). -/
def atGroups (d : Desc) : List (Nat × Nat × Nat) :=
  let g := dfld d 0x10 24 3
  let r := dfld d 0x10 32 9
  (g, r, 128) :: if isBwd d then (List.range (2 * (atDim d / 64))).map fun k => (g + 1 + k, r + 128 + 64 * k, 64) else []

/-- The accumulator checks on each TE used, in code order (R78, R161). -/
def atCheck (s : State) (core ctx : Nat) (d : Desc) : Option Nat :=
  let slot := s.slotNo core ctx
  let cc := s.ctxCore core ctx
  let tes := List.range (atTes d)
  let gs := atGroups d
  if tes.any fun te => gs.any fun g => g.1 < 8 && (tget cc.dgrp (te * 8 + g.1)).isSome then some 0x01
  else if gs.any fun g => s.accGroups slot ≤ g.1 then some 0x02
  else if gs.any (fun g => s.accRows slot < g.2.1 + g.2.2) || tes.any (fun te => gs.any fun g =>
      cc.dgrp.any fun p => p.1 / 8 == te && p.2.row < g.2.1 + g.2.2 && g.2.1 < p.2.row + p.2.rows) then some 0x04
  else none

def attnRules : OpRules := ⟨atPayload, atMon, atCheck⟩

/-- Dispatch holds the command's groups until it retires, as the checks of other queues see them (R100, R162). -/
def attnDispatch (m : Cmd) : Act :=
  .ctxCore m.core m.ctx fun c => { c with held := c.held ++ ((List.range (atTes m.d)).flatMap fun te =>
    (atGroups m.d).map fun g => (m.q, m.idx, te * 8 + g.1, { m := g.2.2, row := g.2.1 })) }

/-- Retirement closes them without output (R162). -/
def attnClose (m : Cmd) : Act :=
  .ctxCore m.core m.ctx fun c => { c with held := c.held.filter fun p => !(p.1 == m.q && p.2.1 == m.idx) }

/-! ### Sequence records -/

/-- A sequence record with what the tarn says of its sequence (R159). -/
structure SeqRec where
  qTokens : Nat
  qFirst : Nat
  kvFirst : Nat
  /-- Keys of the sequence, and the position of its first query token. -/
  keys : Nat
  pos0 : Int
  poison : Bool
  /-- The session and sequence a handle names. -/
  named : Option (Nat × Sess × Sq)
  deriving DecidableEq, Repr

/-- Record `i` of a command. A tarn record names no sequence where KV_LEN or bits 31 to 12 of its handle are not 0 (log entry 112). -/
def State.seqRec (s : State) (m : Cmd) (i : Nat) : SeqRec :=
  let bs := s.rdScr m.core (dfld m.d 0x28 21 21 + 16 * i) 16
  let v := leNat (dataOf bs)
  let n := bits v 0 16
  let h := bits v 64 32
  let named := if h < 4096 ∧ bits v 96 32 = 0 then s.byHandle m.ctx h else none
  if atTarn m.d then
    let f := match named with | some x => x.2.2.fill | none => 0
    ⟨n, bits v 32 32, h, f + n, f, anyPoison bs, named⟩
  else ⟨n, bits v 32 32, h, bits v 96 32, (bits v 96 32 : Int) - n, anyPoison bs, none⟩

/-- The records, and the gradient record of ATTN_BWD, lie in scratch. -/
def recsFit (d : Desc) : Bool := !past (dfld d 0x28 21 21) (16 * atSeqs d)
def gradFits (d : Desc) : Bool := isBwd d && !past (dfld d 0x20 42 21) 32

/-- All records of a command; where they pass the end of scratch none is read (R161). -/
def State.seqRecs (s : State) (m : Cmd) : List SeqRec := if recsFit m.d then (List.range (atSeqs m.d)).map (s.seqRec m) else []

/-! ### Gradient record (R169) -/

/-- Entry `k` of the gradient record: address, format code, stride in bytes. -/
def State.grad (s : State) (m : Cmd) (k : Nat) : Nat × Nat × Nat :=
  let v := leNat (dataOf (s.rdScr m.core (dfld m.d 0x20 42 21 + 8 * k) 8))
  (bits v 0 21, bits v 32 4, bits v 36 12 * 16)

/-- The gradient record carries poison. -/
def State.gradPoison (s : State) (m : Cmd) : Bool := gradFits m.d && anyPoison (s.rdScr m.core (dfld m.d 0x20 42 21) 32)

/-! ### Checks as the command starts (R161; log entry 25) -/

/-- Last row, plus one, that the records use of Q, O and appended rows. -/
def rowsUsed (rs : List SeqRec) : Nat := (rs.map fun r => r.qFirst + r.qTokens).foldl max 0

/-- Rows from an address on pass the end of scratch: rows, stride, bytes of one row. -/
def rowsPast (addr rows stride bytes : Nat) : Bool := rows != 0 && past (addr + (rows - 1) * stride) bytes

/-- Some format is not allowed (ATTN_FORMAT). -/
def State.atFormatBad (s : State) (m : Cmd) : Bool :=
  let d := m.d
  let half (c : Nat) : Bool := c == 6 || c == 7
  if isBwd d then !half (atQFmt d) || !half (atOFmt d) || (gradFits d && (!half (s.grad m 0).2.1 ||
    !([8, 9].contains (s.grad m 1).2.1) || !([6, 8, 9].contains (s.grad m 2).2.1) || !([6, 8, 9].contains (s.grad m 3).2.1)))
  else !(half (atQFmt d) || (atTarn d && atQFmt d == 3)) || 8 < atOFmt d

/-- ATTN_SHAPE. So is a CAND of 9 to 15 (log entry 112). -/
def atShapeBad (d : Desc) (rs : List SeqRec) : Bool :=
  let kv := dfld d 0x10 0 2
  (isVerify d && (128 < atG d * (1 + atCand d) || !atCausal d || 8 < atCand d)) || (!isVerify d && atCand d != 0) ||
    rs.any (fun r => r.qTokens == 0 || (isVerify d && 1 + atCand d < r.qTokens)) || 8192 < atHeads d * atDim d ||
    (atAppend d && (kv != 1 || isBwd d)) || (atSaveLse d && isBwd d) || 1 < kv || (isBwd d && kv == 1)

/-- Bytes of one K and V row, and of one row of a format with all query heads. -/
def kvRowBytes (d : Desc) : Nat := 4 * atHeads d * atDim d
def headElems (d : Desc) : Nat := atHeads d * atG d * atDim d

/-- ATTN_RANGE. -/
def State.atRangeBad (s : State) (m : Cmd) (rs : List SeqRec) : Bool :=
  let d := m.d
  let n := rowsUsed rs
  let q := atQ d
  let o := atO d
  let kvRows := (rs.map fun r => r.kvFirst + r.keys).foldl max 0
  rowsPast (dfld d 0x20 0 21) n (atQStride d) (q.bytes (headElems d)) ||
    (q.mx && rowsPast (dfld d 0x30 42 21) n (atQStride d / q.blockBytes) (headElems d / 32)) ||
    rowsPast (dfld d 0x20 21 21) n (atOStride d) (o.bytes (headElems d)) ||
    (o.mx && rowsPast (dfld d 0x28 42 21) n (atOStride d / o.blockBytes) (headElems d / 32)) ||
    ((isBwd d || atSaveLse d) && past (dfld d 0x28 0 21) (n * atHeads d * atG d * 4)) ||
    !recsFit d ||
    (!atTarn d && rowsPast (dfld d 0x30 21 21) kvRows (atKvStride d) (kvRowBytes d)) ||
    (atAppend d && rowsPast (dfld d 0x30 21 21) n (atKvStride d) (kvRowBytes d)) ||
    (isBwd d && (!gradFits d ||
      rowsPast (s.grad m 0).1 n (s.grad m 0).2.2 (2 * headElems d) ||
      rowsPast (s.grad m 1).1 n (s.grad m 1).2.2 (fmtBytes (s.grad m 1).2.1 * headElems d) ||
      [2, 3].any fun k => rowsPast (s.grad m k).1 kvRows (s.grad m k).2.2 (fmtBytes (s.grad m k).2.1 * atHeads d * atDim d)))

/-- ATTN_WORK (R162). -/
def atWorkBad (d : Desc) : Bool :=
  past (dfld d 0x30 0 21) (atTes d * (if isBwd d then 2048 * atDim d + 65536 else 1024 * atDim d + 33792))

/-- ATTN_SEQ: handles, geometry and layer (R155, R161). -/
def atSeqBad (d : Desc) (rs : List SeqRec) : Bool :=
  atTarn d && rs.any fun r => match r.named with
    | none => true
    | some x => x.2.1.heads != atHeads d || x.2.1.dim != atDim d || x.2.1.mxPages != (atQFmt d == 3) || x.2.1.layers ≤ atLayer d

/-- ATTN_TARN_RANGE: keys beyond the pages held (R153, R161). -/
def atTarnBad (d : Desc) (rs : List SeqRec) : Bool :=
  atTarn d && rs.any fun r => match r.named with
    | none => true
    | some x => x.2.2.pages.length * 64 < r.keys

/-- Strides that break R125: an MX Q or O whose row stride is no whole number of blocks. The spec's one code for it is DM_ALIGN (R158; log
entry 95). -/
def atStrideBad (d : Desc) : Bool :=
  ((atQ d).mx && atQStride d % (atQ d).blockBytes != 0) || ((atO d).mx && atOStride d % (atO d).blockBytes != 0)

/-- The first reason that stops a fused command, in code order (R161); poisoned records give CONTROL_POISON (R273). -/
def State.atReason (s : State) (m : Cmd) : Option Nat :=
  let rs := s.seqRecs m
  if rs.any SeqRec.poison || s.gradPoison m then some 0x1A
  else if atStrideBad m.d then some 0x23
  else if s.atFormatBad m then some 0x40
  else if atShapeBad m.d rs then some 0x41
  else if s.atRangeBad m rs then some 0x42
  else if atWorkBad m.d then some 0x43
  else if atSeqBad m.d rs then some 0x44
  else if atTarnBad m.d rs then some 0x45
  else none

/-- A fused command is checked as it starts, and then runs as one piece. -/
def attnStart (run : Cmd → (PieceRes → Act) → Act) (m : Cmd) (k : PieceRes → Act) : Act :=
  .get fun s => match s.atReason m with
    | some r => k (.fault 3 r 0 0)
    | none => run m k

/-! ### Operand vectors -/

/-- A vector along the dimension a product sums over: element values, the scale code of each block of 32, poison. -/
structure FVec where
  elems : List Val
  scales : List Nat := []
  poison : Bool := false
  deriving DecidableEq, Repr

/-- The vector of `n` packed elements. -/
def fvec (f : DFmt) (n : Nat) (elems scales : PBytes) : FVec :=
  { elems := (codesOf f n elems).map fun c => f.elem c.1
    scales := scales.map fun b => b.1.toNat
    poison := anyPoison elems || anyPoison scales }

/-- An inner product in the order of R84: block sums of 32 added in turn to what an accumulator holds (R52, R54). -/
def dotInto (a w : DFmt) (x y : FVec) (init : Term) : Term :=
  (List.range (cdiv x.elems.length 32)).foldl (fun t b =>
    let prods := (((x.elems.drop (32 * b)).take 32).zip ((y.elems.drop (32 * b)).take 32)).map fun p => p.1.mul p.2
    termAdd t (some (blockSum a w prods (x.scales.getD b 127) (y.scales.getD b 127), false))) init

/-- W40 to FP32 (R60). -/
def toF32 (w : Nat) : Nat := (fp32.conv (w40.val w)).code

/-- An inner product from an empty accumulator, in FP32. -/
def dotF (a w : DFmt) (x y : FVec) : Nat := toF32 (((dotInto a w x y none).getD (0, false)).1)

/-- FP32 values converted for the tensor engine: BF16 or FP16 singly, MXFP8 in blocks of 32 (R60, R61, R160). -/
def convVec (f : DFmt) (fit : Bool) (xs : List Nat) (poison : Bool := false) : FVec :=
  if f.mx then
    let bs := (blocks32 (xs.length / 32 + 1) xs).map fun b => f.block fit (b.map fp32.val)
    { elems := bs.flatMap fun b => b.elems.map fun c => f.elem c.code, scales := bs.map fun b => b.scale, poison := poison }
  else { elems := xs.map fun x => f.elem (f.scalar (fp32.val x)).code, poison := poison }

/-- log₂ e in units of 2⁻²⁰⁰. -/
def log2e200 : Nat := 2318321547468254865173387471183990171487108758923299108729110

/-- exp of the exact difference of two FP32 values, rounded once to within 1 ulp (R134, R163). -/
def expDiff (a b : Nat) : Nat :=
  match (fp32.val a).add (fp32.val b).negate with
  | .nan => fQnan
  | .inf n => if n then 0 else fInf
  | .fin neg m e =>
    let key := a * 2 ^ 32 + b
    if m = 0 then sfuPick 12 key 1 0 true else
    if 8 ≤ (log2n m : Int) + e then (if neg then sfuPick 12 key 0 0 false else fInf) else
    let x : Int := signedAt neg (m * log2e200) (e - 200 + 400) 0 / 2 ^ 250
    let ip := x / 2 ^ 150
    if 128 ≤ ip then fInf
    else if ip < -150 then sfuPick 12 key 0 0 false
    else sfuPick 12 key (exp2Bits 150 (x % 2 ^ 150).toNat (2 ^ (sfuP + 1)) (2 ^ sfuP)) (ip - sfuP) false

/-! ### Rows of Q, K and V -/

/-- Query row of token row `t` and query head `q`. -/
def State.qRow (s : State) (m : Cmd) (t q : Nat) : FVec :=
  let d := m.d
  let f := atQ d
  let dim := atDim d
  fvec f dim (s.rdScr m.core (dfld d 0x20 0 21 + t * atQStride d + f.bytes (q * dim)) (f.bytes dim))
    (if f.mx then s.rdScr m.core (dfld d 0x30 42 21 + t * (atQStride d / f.blockBytes) + q * dim / 32) (dim / 32) else [])

/-- K of head `h` in a scratch row of K and V, or V. -/
def State.kvRow (s : State) (m : Cmd) (row h : Nat) (v : Bool) : PBytes :=
  let d := m.d
  let dim := atDim d
  s.rdScr m.core (dfld d 0x30 21 21 + row * atKvStride d + 2 * dim * (h + if v then atHeads d else 0)) (2 * dim)

/-- A loaded block: K rows by position, V columns by element (each over the 64 positions), and its poison. -/
structure KvBlock where
  k : List FVec
  v : List FVec
  poison : Bool
  deriving DecidableEq, Repr

/-- A vector of +0. -/
def zeroVec (n : Nat) : FVec := { elems := List.replicate n Val.zero }

/-- Columns over positions from rows of values, in the format the tensor engine takes (R163: MXFP8 is re-blocked along
positions). -/
def colsOf (f : DFmt) (fit : Bool) (dim : Nat) (rows : List (List Val)) : List FVec :=
  (List.range dim).map fun e =>
    let xs := (List.range 64).map fun p => (rows.getD p []).getD e Val.zero
    if f.mx then
      let bs := (blocks32 3 xs).map fun b => f.block fit b
      { elems := bs.flatMap fun b => b.elems.map fun c => f.elem c.code, scales := bs.map fun b => b.scale }
    else { elems := xs }

/-- Block `j` of a sequence from scratch rows; positions at or beyond the key count enter as +0. -/
def State.kvScratch (s : State) (m : Cmd) (r : SeqRec) (h j : Nat) : KvBlock :=
  let dim := atDim m.d
  let n := min 64 (r.keys - 64 * j)
  let ks := (List.range n).map fun p => fvec .bf16 dim (s.kvRow m (r.kvFirst + 64 * j + p) h false) []
  let vs := (List.range n).map fun p => fvec .bf16 dim (s.kvRow m (r.kvFirst + 64 * j + p) h true) []
  ⟨ks ++ List.replicate (64 - n) (zeroVec dim), colsOf .bf16 false dim (vs.map FVec.elems),
    ks.any FVec.poison || vs.any FVec.poison⟩

/-- Bytes of a page's layer. -/
def State.rdPage (s : State) (x : Sess) (q : Sq) (page layer b n : Nat) : PBytes := s.rdSpan (s.pageBytes x q page layer b n)

/-- Block `j` of a sequence from its tarn page (R151, R163). -/
def State.kvTarn (s : State) (m : Cmd) (r : SeqRec) (x : Sess) (q : Sq) (h j : Nat) : KvBlock :=
  let dim := atDim m.d
  let heads := x.heads
  let n := min 64 (r.keys - 64 * j)
  let rd (b len : Nat) : PBytes := s.rdPage x q j (atLayer m.d) b len
  if x.mxPages then
    let ks := (List.range n).map fun p => fvec .e4m3 dim
      ((List.range (dim / 64)).flatMap fun t => rd (kOff true dim h p (64 * t)) 64)
      ((List.range (dim / 64)).flatMap fun t => rd (kScaleOff heads dim h p (64 * t)) 2)
    let vs := (List.range n).map fun p =>
      (rd (vOff true heads dim h p 0) dim, rd (vScaleOff heads dim h p 0) (dim / 32))
    ⟨ks ++ List.replicate (64 - n) (zeroVec dim),
      colsOf .e4m3 (atFit m.d) dim (vs.map fun v => (valsOf .e4m3 dim v.1 v.2).map Prod.fst),
      ks.any FVec.poison || vs.any fun v => anyPoison v.1 || anyPoison v.2⟩
  else
    let ks := (List.range n).map fun p => fvec .bf16 dim
      ((List.range (dim / 64)).flatMap fun t => rd (kOff false dim h p (64 * t)) 128) []
    let vs := (List.range dim).map fun e => fvec .bf16 n (rd (vOff false heads dim h 0 e) (2 * n)) []
    ⟨ks ++ List.replicate (64 - n) (zeroVec dim),
      vs.map fun v => { elems := v.elems ++ List.replicate (64 - n) Val.zero },
      ks.any FVec.poison || vs.any FVec.poison⟩

/-- Block `j` of a record. -/
def State.kvBlock (s : State) (m : Cmd) (r : SeqRec) (h j : Nat) : KvBlock :=
  match r.named with
  | some x => s.kvTarn m r x.2.1 x.2.2 h j
  | none => s.kvScratch m r h j

/-- Places of the tarn that a block reads, for its partition's account (R276). -/
def State.kvPlaces (s : State) (m : Cmd) (r : SeqRec) (h j : Nat) : List (MemSel × Nat × Nat) :=
  match r.named with
  | none => []
  | some x =>
    let rd (b len : Nat) : List (MemSel × Nat × Nat) := s.pageBytes x.2.1 x.2.2 j (atLayer m.d) b len
    let dim := atDim m.d
    let w := if x.2.1.mxPages then 64 * dim else 128 * dim
    rd (kOff x.2.1.mxPages dim h 0 0) w ++ rd (vOff x.2.1.mxPages x.2.1.heads dim h 0 0) w ++
      if x.2.1.mxPages then rd (kScaleOff x.2.1.heads dim h 0 0) (2 * dim) ++ rd (vScaleOff x.2.1.heads dim h 0 0) (2 * dim) else []

/-! ### Online softmax (R163, R164) -/

/-- A row's running maximum, sum and outputs, whether a visible score was NaN or +∞, and whether any key was visible. -/
structure RowSt where
  mx : Nat
  l : Nat
  acc : List Nat
  bad : Bool := false
  seen : Bool := false
  deriving DecidableEq, Repr

/-- Query position `pos` sees key position `kpos`. -/
def sees (causal : Bool) (keys : Nat) (pos : Int) (kpos : Nat) : Bool := kpos < keys && (!causal || (kpos : Int) ≤ pos)

/-- Scaled scores of a row against a block; an invisible score is −∞. -/
def scores (d : Desc) (kf : DFmt) (keys : Nat) (pos : Int) (j : Nat) (q : FVec) (b : KvBlock) : List (Nat × Bool) :=
  b.k.zipIdx.map fun (k, p) =>
    if sees (atCausal d) keys pos (64 * j + p) then (fMul (dotF (atQ d) kf q k) (atScale d), true) else (fNInf, false)

/-- One block of a row (R163). -/
def rowBlock (d : Desc) (kf : DFmt) (keys : Nat) (pos : Int) (j : Nat) (q : FVec) (b : KvBlock) (r : RowSt) : RowSt :=
  let z := scores d kf keys pos j q b
  let bad := r.bad || z.any fun x => x.2 && (fNan x.1 || x.1 == fInf)
  if bad then { r with bad := true, seen := true } else
  let mb := rowMax (z.map Prod.fst)
  let up := fLt r.mx mb
  let mx := if up then mb else r.mx
  let alpha := if up then expDiff r.mx mb else fOne
  let p := z.map fun x => if x.1 = fNInf then 0 else expDiff x.1 mx
  let pv := convVec (atQ d) (atFit d) p
  { mx := mx
    l := fFma r.l alpha (rowSum p)
    acc := (r.acc.zip b.v).map fun x => fFma x.1 alpha (dotF (atQ d) kf pv x.2)
    bad := false
    seen := r.seen || z.any Prod.snd }

/-- A row's outputs and its LSE (R163, R164). -/
def RowSt.out (r : RowSt) : List Nat × Nat :=
  if r.bad then (r.acc.map fun _ => fQnan, fQnan)
  else if r.l = 0 then (r.acc.map fun _ => 0, fNInf)
  else (r.acc.map fun a => fMul a (sfuRecip r.l), fFma (sfuLog2 r.l) fLn2 r.mx)

/-- Units of a record on one KV head: first query token and how many (R163, R170). -/
def atUnits (d : Desc) (r : SeqRec) : List (Nat × Nat) :=
  let step := if isVerify d then max 1 r.qTokens else max 1 (128 / atG d)
  (List.range (cdiv r.qTokens step)).map fun k => (k * step, min step (r.qTokens - k * step))

/-- Blocks a unit visits: up to the one that holds the last key visible to any of its rows. -/
def unitBlocks (d : Desc) (r : SeqRec) (u : Nat × Nat) : Nat :=
  cdiv (if atCausal d then min r.keys (r.pos0 + u.1 + u.2).toNat else r.keys) 64

/-- What a forward command writes for one query token and head: token row, query head, values, LSE, poison, masked,
non-finite. -/
structure FwdRow where
  t : Nat
  q : Nat
  out : List Nat
  lse : Nat
  poison : Bool
  masked : Bool
  bad : Bool
  deriving DecidableEq, Repr

/-- All rows of one unit of KV head `h`. -/
def State.fwdUnit (s : State) (m : Cmd) (r : SeqRec) (h : Nat) (u : Nat × Nat) : List FwdRow :=
  let d := m.d
  let kf : DFmt := if atTarn d && atQFmt d == 3 then .e4m3 else .bf16
  let blocks := (List.range (unitBlocks d r u)).map (s.kvBlock m r h)
  (List.range u.2).flatMap fun i => (List.range (atG d)).map fun g =>
    let tok := u.1 + i
    let q := h * atG d + g
    let v := s.qRow m (r.qFirst + tok) q
    let st := blocks.zipIdx.foldl (fun (st : RowSt) (b, j) => rowBlock d kf r.keys (r.pos0 + tok) j v b st)
      { mx := fNInf, l := 0, acc := List.replicate (atDim d) 0 }
    let o := st.out
    ⟨r.qFirst + tok, q, o.1, o.2, v.poison || blocks.any KvBlock.poison, !st.seen, st.bad⟩

/-! ### Appending (R158, R165, R170) -/

/-- Writes of one appended row's K and V for a head, as places and bytes, with saturated and non-finite counts, poisoned elements
among them (R165). -/
def State.appendHead (s : State) (m : Cmd) (x : Sess) (q : Sq) (row pos h : Nat) : List (List (MemSel × Nat × Nat) × PBytes) × Nat × Nat :=
  let dim := atDim m.d
  let p := pos % 64
  let wr (b : Nat) (bs : PBytes) : List (MemSel × Nat × Nat) × PBytes := (s.pageBytes x q (pos / 64) (atLayer m.d) b bs.length, bs)
  let kb := s.kvRow m row h false
  let vb := s.kvRow m row h true
  if x.mxPages then
    let made (bs : PBytes) : RowOut := writeVals .e4m3 (atFit m.d) (valsOf .bf16 dim bs [])
    let k := made kb
    let v := made vb
    let counted := (made (kb.map fun b => (b.1, false))).mon.add (made (vb.map fun b => (b.1, false))).mon
    let parts (o : RowOut) (t : Nat) : PBytes := (o.elems.drop (64 * t)).take 64
    (((List.range (dim / 64)).flatMap fun t =>
        [wr (kOff true dim h p (64 * t)) (parts k t), wr (kScaleOff x.heads dim h p (64 * t)) ((k.scales.drop (2 * t)).take 2)]) ++
      [wr (vOff true x.heads dim h p 0) v.elems, wr (vScaleOff x.heads dim h p 0) v.scales],
      counted.sa, counted.nf)
  else
    let nf (bs : PBytes) : Nat := ((valsOf .bf16 dim bs []).filter fun v => v.1.nonFinite).length
    (((List.range (dim / 64)).map fun t => wr (kOff false dim h p (64 * t)) ((kb.drop (128 * t)).take 128)) ++
      (List.range dim).map fun e => wr (vOff false x.heads dim h p e) (elem2 vb (2 * e)),
      0, nf kb + nf vb)

/-- All appended positions of a command. -/
def Act.append (m : Cmd) : Act :=
  .get fun s => .each ((s.seqRecs m).filterMap fun r => r.named.map fun x => (r, x)) fun p =>
    .all [.each (List.range p.1.qTokens) fun i => .each (List.range (atHeads m.d)) fun h =>
        let w := s.appendHead m p.2.2.1 p.2.2.2 (p.1.qFirst + i) (p.2.2.2.fill + i) h
        .all [.each w.1 fun x => .seq (.charge m.ctx x.1) (.wrSpan x.1 x.2),
          .count .kvSaturated 0 0 w.2.1, .count .kvNonfinite 0 0 w.2.2],
      .count .attnMoeCount m.core 3 p.1.qTokens]

/-! ### ATTN_FWD and ATTN_VERIFY -/

/-- The rows of a forward command's output as written: places, bytes, counts. -/
def fwdWrite (d : Desc) (x : FwdRow) : RowOut :=
  writeVals (atO d) (atFit d) (x.out.map fun v => (fp32.val v, x.poison))

/-- Tarn places that a forward command reads and appends to. -/
def State.atPlaces (s : State) (m : Cmd) : List (MemSel × Nat × Nat) :=
  if !atTarn m.d then [] else
  (s.seqRecs m).flatMap fun r => (List.range (atHeads m.d)).flatMap fun h => (atUnits m.d r).flatMap fun u =>
    (List.range (unitBlocks m.d r u)).flatMap fun j => s.kvPlaces m r h j

/-- The forward commands (R163 to R165, R170): append first, then every unit. -/
def attnFwdPiece (m : Cmd) (k : PieceRes → Act) : Act :=
  .get fun s0 =>
    .needMem m (s0.atPlaces m) k (.all [.needUnit unitTE m.core, .needUnit unitVE m.core, .needUnit unitDM m.core,
      .when (atTarn m.d) (.needUnit unitTarn m.core),
      .when (atAppend m.d) (.append m),
      .get fun s =>
        let d := m.d
        let f := atO d
        let dim := atDim d
        let work := (s.seqRecs m).flatMap fun r => (List.range (atHeads d)).flatMap fun h => (atUnits d r).map fun u => (r, h, u)
        let rows := work.flatMap fun w => s.fwdUnit m w.1 w.2.1 w.2.2
        let outs := rows.map fun x => (x, fwdWrite d x)
        let blocks := (work.map fun w => unitBlocks d w.1 w.2.2).foldl (· + ·) 0
        .all [
          .each work fun w => .each (List.range (unitBlocks d w.1 w.2.2)) fun j =>
            .seq (.charge m.ctx (s.kvPlaces m w.1 w.2.1 j)) (.noteSpan m.ctx (s.kvPlaces m w.1 w.2.1 j)),
          .each outs fun x => .all [
            .wrScr m.core (dfld d 0x20 21 21 + x.1.t * atOStride d + f.bytes (x.1.q * dim)) x.2.elems,
            .when f.mx (.wrScr m.core (dfld d 0x28 42 21 + x.1.t * (atOStride d / f.blockBytes) + x.1.q * dim / 32) x.2.scales),
            .when (atSaveLse d) (.wrScr m.core (dfld d 0x28 0 21 + (x.1.t * atHeads d * atG d + x.1.q) * 4)
              ((leBytes 4 x.1.lse).map fun b => (b, x.1.poison)))],
          .count .attnMoeCount m.core 0 blocks,
          .count .attnMoeCount m.core 1 (rows.filter FwdRow.masked).length,
          .count .attnMoeCount m.core 2 (rows.filter fun x => x.bad).length,
          k (.done (Cmd.addMon { m with piece := 1, poison := rows.any FwdRow.poison } (sumMon (outs.map fun x => x.2.mon))))]])

/-! ### ATTN_BWD (R169) -/

/-- One query row of a unit in the backward pass: Q, dO, the LSE, the row's dot of dO and O, poison. -/
structure BwdRow where
  t : Nat
  q : Nat
  pos : Int
  qv : FVec
  dov : FVec
  lse : Nat
  dd : Nat
  poison : Bool
  deriving DecidableEq, Repr

/-- FP32 codes of a vector of 16-bit elements. -/
def f32s (v : FVec) : List Nat := v.elems.map fp32.arith

/-- A row of the backward pass. -/
def State.bwdRow (s : State) (m : Cmd) (r : SeqRec) (h tok g : Nat) : BwdRow :=
  let d := m.d
  let dim := atDim d
  let q := h * atG d + g
  let t := r.qFirst + tok
  let dg := s.grad m 0
  let qv := s.qRow m t q
  let dov := fvec ((dfmt dg.2.1).getD .bf16) dim (s.rdScr m.core (dg.1 + t * dg.2.2 + 2 * q * dim) (2 * dim)) []
  let ov := fvec (atO d) dim (s.rdScr m.core (dfld d 0x20 21 21 + t * atOStride d + 2 * q * dim) (2 * dim)) []
  let lb := s.rdScr m.core (dfld d 0x28 0 21 + (t * atHeads d * atG d + q) * 4) 4
  ⟨t, q, r.pos0 + tok, qv, dov, leNat (dataOf lb), rowSum ((f32s dov).zipWith fMul (f32s ov)),
    qv.poison || dov.poison || ov.poison || anyPoison lb⟩

/-- dS of one key: fp32(p × (dp − dd) × scale), rounded once (R169). -/
def bwdDs (p dp dd scale : Nat) : Nat :=
  fp32.arith (((fp32.val p).mul ((fp32.val dp).add (fp32.val dd).negate)).mul (fp32.val scale))

/-- P and dS of a row against a block, in FP32 (R169). -/
def bwdRowBlock (d : Desc) (dof : DFmt) (keys j : Nat) (b : KvBlock) (vrows : List FVec) (x : BwdRow) : List Nat × List Nat :=
  let z := (scores d .bf16 keys x.pos j x.qv b).map Prod.fst
  let p := z.map fun v => if x.lse = fNInf ∨ v = fNInf then 0 else expDiff v x.lse
  let dp := vrows.map fun v => dotF dof .bf16 x.dov v
  (p, (p.zip dp).map fun y => bwdDs y.1 y.2 x.dd (atScale d))

/-- A matrix of FP32 values turned. -/
def turn (n : Nat) (rows : List (List Nat)) : List (List Nat) := (List.range n).map fun j => rows.map fun r => r.getD j 0

/-- Columns of vectors, as operand vectors. -/
def turnVec (n : Nat) (rows : List FVec) : List FVec := (List.range n).map fun e => { elems := rows.map fun r => r.elems.getD e Val.zero }

/-- What one block of one KV head of one sequence gives: the W40 groups dK and dV by position and element. -/
structure BwdAcc where
  dk : List (List Term)
  dv : List (List Term)

/-- Products of two sets of vectors added into W40 terms: rows of `xs` against columns `ys`. -/
def addProducts (a w : DFmt) (acc : List (List Term)) (xs ys : List FVec) : List (List Term) :=
  (acc.zip xs).map fun p => (p.1.zip ys).map fun q => dotInto a w p.2 q.2 q.1

/-- Bytes of one value written by R60 from W40. -/
def w40Out (f : DFmt) (vs : List (Nat × Bool)) : RowOut := writeVals f false (vs.map fun v => (w40.val v.1, v.2))

/-- dQ of a row after dS · K was added in place (R169). -/
def Act.dqAdd (m : Cmd) (x : BwdRow) (bad : Bool) (ds : FVec) (kcols : List FVec) (k : MonDelta → Act) : Act :=
  .get fun s =>
    let d := m.d
    let g := s.grad m 1
    let f := (dfmt g.2.1).getD .fp32
    let w := f.ebits / 8
    let dim := atDim d
    let a := g.1 + x.t * g.2.2 + w * x.q * dim
    let old := valsOf f dim (s.rdScr m.core a (w * dim)) []
    let new := (old.zip kcols).map fun p =>
      (((dotInto (atQ d) .bf16 ds p.2 (some (w40.arith p.1.1, false))).getD (0, false)).1, p.1.2 || bad)
    let o := w40Out f new
    .seq (.wrScr m.core a o.elems) (k o.mon)

/-- One unit against one block: dQ in place, and what it adds to dK and dV. -/
def Act.bwdUnit (m : Cmd) (r : SeqRec) (h j : Nat) (b : KvBlock) (vrows kcols : List FVec) :
    List (Nat × Nat) → BwdAcc → Bool → MonDelta → (BwdAcc → Bool → MonDelta → Act) → Act
  | [], acc, p, mon, k => k acc p mon
  | u :: rest, acc, p, mon, k => .get fun s =>
    let d := m.d
    let dof := (dfmt (s.grad m 0).2.1).getD .bf16
    let rows := (List.range u.2).flatMap fun i => (List.range (atG d)).map fun g => s.bwdRow m r h (u.1 + i) g
    let ps := rows.map (bwdRowBlock d dof r.keys j b vrows)
    let pT := (turn 64 (ps.map Prod.fst)).map fun c => convVec (atQ d) false c
    let dsT := (turn 64 (ps.map Prod.snd)).map fun c => convVec (atQ d) false c
    let dv := addProducts (atQ d) dof acc.dv pT (turnVec (atDim d) (rows.map fun x => x.dov))
    let dk := addProducts (atQ d) (atQ d) acc.dk dsT (turnVec (atDim d) (rows.map fun x => x.qv))
    let bad := b.poison || rows.any fun x => x.poison
    (rows.zip ps).foldr (fun x kk => fun mon => .dqAdd m x.1 (b.poison || x.1.poison) (convVec (atQ d) false x.2.2) kcols
        fun e => kk (mon.add e))
      (fun mon => Act.bwdUnit m r h j b vrows kcols rest ⟨dk, dv⟩ (p || bad) mon k) mon

/-- One block of one KV head: every unit that visits it, then dK and dV written (R169). -/
def Act.bwdBlock (m : Cmd) (r : SeqRec) (h j : Nat) (mon : MonDelta) (poison : Bool) (k : MonDelta → Bool → Act) : Act :=
  .get fun s =>
    let d := m.d
    let dim := atDim d
    let b := s.kvScratch m r h j
    let vrows := turnVec 64 b.v
    let kcols := turnVec dim b.k
    let n := min 64 (r.keys - 64 * j)
    let empty : List (List Term) := List.replicate 64 (List.replicate dim none)
    let units := (atUnits d r).filter fun u => j < unitBlocks d r u
    .bwdUnit m r h j b vrows kcols units ⟨empty, empty⟩ false mon fun acc bad mon =>
      let wr (e : Nat) (t : List (List Term)) : Act := .each ((t.take n).zipIdx) fun (row, p) =>
        let g := s.grad m e
        let f := (dfmt g.2.1).getD .fp32
        .wrScr m.core (g.1 + (r.kvFirst + 64 * j + p) * g.2.2 + f.ebits / 8 * h * dim)
          (w40Out f (row.map fun x => ((x.getD (0, false)).1, bad))).elems
      .all [wr 2 acc.dk, wr 3 acc.dv, .count .attnMoeCount m.core 0 units.length, k mon (poison || bad)]

/-- Blocks of a command one after another. -/
def Act.bwdBlocks (m : Cmd) : List (SeqRec × Nat × Nat) → MonDelta → Bool → (MonDelta → Bool → Act) → Act
  | [], mon, p, k => k mon p
  | w :: rest, mon, p, k => .bwdBlock m w.1 w.2.1 w.2.2 mon p fun mon p => Act.bwdBlocks m rest mon p k

/-- ATTN_BWD (R169). -/
def attnBwdPiece (m : Cmd) (k : PieceRes → Act) : Act :=
  .get fun s =>
    let work := (List.range (atHeads m.d)).flatMap fun h => (s.seqRecs m).flatMap fun r =>
      (List.range (cdiv r.keys 64)).map fun j => (r, h, j)
    .all [.needUnit unitTE m.core, .needUnit unitVE m.core, .needUnit unitDM m.core,
      .bwdBlocks m work {} false fun mon p => k (.done (Cmd.addMon { m with piece := 1, poison := p } mon))]

def attnFwdRun : OpRun := { prep := onePiece, piece := attnStart attnFwdPiece, finish := attnClose }
def attnBwdRun : OpRun := { prep := onePiece, piece := attnStart attnBwdPiece, finish := attnClose }

end Sys2Proof.Machine
end

