-- ==== Sys2Proof/Machine/Scree.lean ====
section
/-! DEFINITION. The scree (R212 to R220): the tag stack as dispatch sees it, DM_SCREE_PUSH and DM_SCREE_POP, and discarding. -/

namespace Sys2Proof.Machine

/-! ### Payload (R214) -/

def scTag (d : Desc) : Nat := dfld d 0x10 0 40
def scAddr (d : Desc) : Nat := dfld d 0x18 0 21
def scRowBytes (d : Desc) : Nat := dfld d 0x20 0 21
def scRows (d : Desc) : Nat := dfld d 0x20 21 16 + 1
def scStrideFld (d : Desc) : Nat := dfld d 0x18 32 16 * 16
def scStride (d : Desc) : Nat := if scStrideFld d = 0 then scRowBytes d else scStrideFld d
def isPush (d : Desc) : Bool := hOpcode d == 0x86

/-- Bytes of the entry, and rounded up to granules (R215). -/
def scBytes (d : Desc) : Nat := scRows d * scRowBytes d
def granules128 (n : Nat) : Nat := cdiv n 128 * 128

def screePayload (d : Desc) : Bool :=
  zeroBits (Desc.w d 2) [(40, 24)] && zeroBits (Desc.w d 3) [(21, 11), (48, 16)] && zeroBits (Desc.w d 4) [(37, 27)] &&
    [5, 6, 7].all fun k => Desc.w d k == 0

/-! ### The tag stack (R213, R215, R220) -/

/-- The scree of a core. -/
def State.scree (s : State) (core : Nat) : Scree := tgetD s.u.core.scree core {}

/-- Bytes of entries held, each rounded up (R215). -/
def Scree.used (x : Scree) : Nat := (x.ents.map fun e => granules128 e.bytes).foldl (· + ·) 0

/-- SCREE_STATE shows the scree (R220). -/
def Act.screeShow (core : Nat) : Act :=
  .get fun s =>
    let x := s.scree core
    .all [.fld .screeState core 0 0 2 x.state, .fld .screeState core 0 8 10 (if x.state = 0 then 0 else x.owner),
      .fld .screeState core 0 32 14 x.ents.length, .fld .screeState core 8 0 64 x.used,
      .fld .screeState core 0x10 0 40 (match x.ents with | e :: _ => e.tag | [] => 0),
      .fld .screeState core 0x38 0 64 (max x.used (s.fld .screeState core 0x38 0 64))]

/-- A scree takes a new state, which SCREE_STATE shows. -/
def Act.screeSet (core : Nat) (x : Scree) : Act :=
  .seq (.core fun c => { c with scree := tset c.scree core x }) (.screeShow core)

/-- A scree is discarded: EMPTY, no owner, no data moved (R219). -/
def Act.screeDrop (core : Nat) : Act := .screeSet core {}

/-- Every scree a context owns is discarded (R219). -/
def Act.screeDropOf (ctx : Nat) : Act :=
  .get fun s => .each (s.u.core.scree.filter fun p => p.2.state != 0 && p.2.owner == ctx) fun p => .screeDrop p.1

/-! ### Checks (R216) -/

/-- Reasons of the scree are carried above the reasons of R99: this much more. -/
def screeReason : Nat := 0x100

/-- A tag with its parity bit (R214): even parity over the 40 bits. -/
def tagParity (tag : Nat) : Bool := ((List.range 40).filter fun i => tag.testBit i).length % 2 == 1

/-- DM checks, then the scree's, in the order of their codes. A push or a pop that finds the top entry's tag at odds with its parity bit
reports PARITY. -/
def screeCheck (s : State) (core ctx : Nat) (d : Desc) : Option Nat :=
  let x := s.scree core
  let top := x.ents.head?
  let bad (k : Nat) : Option Nat := some (screeReason + k)
  let torn := match top with | some e => if tagParity e.tag = e.parity then none else bad 7 | none => none
  if scRowBytes d = 0 || past (scAddr d) ((scRows d - 1) * scStride d + scRowBytes d) then some 0x22
  else if scStrideFld d != 0 && scStrideFld d < scRowBytes d then some 0x26
  else if x.state ≠ 0 ∧ x.owner ≠ ctx then bad 1
  else if isPush d then
    if x.state = 2 then bad 2
    else if s.u.mem.scree * 2 ^ 20 < x.used + granules128 (scBytes d) || 8192 ≤ x.ents.length then bad 3
    else torn
  else match top with
    | none => bad 4
    | some e => if e.tag ≠ scTag d then bad 5 else if e.bytes ≠ scBytes d then bad 6 else torn

def screeRules : OpRules := ⟨screePayload, fun _ => none, screeCheck⟩

/-- A scree check failed: SCREE_STATE keeps the reason, the context, the top entry's tag and the command's (R216, R220). -/
def Act.screeFailed (core ctx : Nat) (d : Desc) (reason : Nat) : Act :=
  .get fun s =>
    let top := match (s.scree core).ents with | e :: _ => e.tag | [] => 0
    .all [.fld .screeState core 0x18 0 8 reason, .fld .screeState core 0x18 8 10 ctx,
      .fld .screeState core 0x18 24 40 top, .fld .screeState core 0x20 0 40 (scTag d)]

/-! ### Dispatch (R213, R217) -/

/-- Unretired commands of a core: those in its data mover queues and those saved at a rotation. -/
def State.dmCmds (s : State) (core : Nat) : List Cmd :=
  s.engQ core 5 ++ s.engQ core 6 ++ (s.u.core.cc.filter fun p => p.1 / 1024 == core).flatMap fun p => p.2.saved

/-- Earlier pops that read a byte of a space and have not retired (R217). -/
def State.popsOver (s : State) (core place n : Nat) : List Nat :=
  ((s.dmCmds core).filter fun m => hOpcode m.d == 0x87 && m.place < place + n && place < m.place + m.bytes).map Cmd.ser

/-- What dispatch gives a scree command: its place, its bytes and the commands it follows (R215, R217). -/
def State.screePlace (s : State) (core : Nat) (m : Cmd) : Cmd :=
  let x := s.scree core
  if isPush m.d then { m with place := x.used, bytes := scBytes m.d, after := s.popsOver core x.used (scBytes m.d) }
  else match x.ents with
    | e :: _ => { m with place := e.place, bytes := e.bytes, after := [e.ser] }
    | [] => m

/-- The tag stack after a scree command was dispatched (R213, R215). -/
def Act.screeMove (core : Nat) (m : Cmd) : Act :=
  .get fun s =>
    let x := s.scree core
    if isPush m.d then
      .seq (.screeSet core { state := 1, owner := m.ctx, ents := ⟨x.used, scBytes m.d, scTag m.d, tagParity (scTag m.d), m.ser⟩ :: x.ents })
        (.count .screeState core 5)
    else
      let r := x.ents.drop 1
      .seq (.screeSet core (if r.isEmpty then {} else { x with state := 2, ents := r })) (.count .screeState core 6)

/-! ### Moving the data (R215, R217, R218) -/

/-- A scree command is one piece, and waits for the commands it follows (R215, R217). -/
def screePrep (s : State) (m : Cmd) : Prep :=
  if m.piece ≠ 0 then .over m
  else if m.after.all s.hasRetired then .ready m else .hold

/-- The rows in scratch: offset of each. -/
def scRowAt (d : Desc) (r : Nat) : Nat := scAddr d + r * scStride d

def screePiece (m : Cmd) (k : PieceRes → Act) : Act :=
  .get fun s =>
    let a := s.u.mem.coreBase m.core + m.place
    let places := [(MemSel.stack, a, m.bytes)]
    let rows := List.range (scRows m.d)
    .needMem m places k (.all [.needUnit unitDM m.core, .needUnit unitScree m.core, .charge m.ctx places,
      if isPush m.d then
        let bs := rows.flatMap fun r => s.rdScr m.core (scRowAt m.d r) (scRowBytes m.d)
        .seq (.wrStack a bs) (k (.done { m with piece := 1, poison := anyPoison bs }))
      else
        let bs := s.rdStack a m.bytes
        .all [.noteRead .stack a m.bytes,
          .each rows fun r => .wrScr m.core (scRowAt m.d r) ((bs.drop (r * scRowBytes m.d)).take (scRowBytes m.d)),
          k (.done { m with piece := 1, poison := anyPoison bs })]])

def screeRun : OpRun := { prep := screePrep, piece := screePiece }

/-! ### SCREE_DISCARD (R219, R235) -/

/-- The owner has an unretired scree command on the core. -/
def State.screeBusy (s : State) (core : Nat) : Bool :=
  (s.dmCmds core).any fun m => (hOpcode m.d == 0x86 || hOpcode m.d == 0x87) && m.ctx == (s.scree core).owner

/-- A function may discard the scree of a core: a virtual function only its own contexts' (R235). -/
def State.mayDiscard (s : State) (r : Requester) (core : Nat) : Bool :=
  match r with
  | .hostVf f => (s.scree core).state != 0 && s.ctxFn (s.scree core).owner == f.val
  | _ => true

/-- SCREE_DISCARD's rule (R219). -/
def ruleScreeDiscard : Rule := fun r _ v k =>
  .get fun s =>
    if 192 ≤ v then k stRefused
    else if !s.mayDiscard r v then k stAccess
    else if (s.scree v).state ≠ 0 ∧ s.screeBusy v then k stBusy
    else .all [.napWake, .screeDrop v, k stOk]

/-- SCREE_DISCARD. -/
def execScreeDiscard (r : Requester) (core : Byte) (s : State) : Host.Outcome State Fault Refusal :=
  (Act.entryRow .screeDiscard ruleScreeDiscard r 0 core.toNat).outcome s

end Sys2Proof.Machine
end

