-- ==== Sys2Proof/Machine/Bank.lean ====
section
/-! DEFINITION. The gradient bank (R222 to R234): ACCUM_W40 in both directions, scatter, split gradients and their fold, and
the SPLIT_GRAD entries. -/

namespace Sys2Proof.Machine

/-! ### Payload (R223) -/

/-- ACCUM_W40 accumulates: own scratch into BANK pages. -/
def awAcc (d : Desc) : Bool := dmSrcKind d == 1 && dmDstKind d == 0
/-- ACCUM_W40 drains: BANK pages into own scratch. -/
def awDrain (d : Desc) : Bool := dmSrcKind d == 0 && dmDstKind d == 1
def awScatter (d : Desc) : Bool := awAcc d && dfld d 0x30 47 1 == 1
def awIndexAddr (d : Desc) : Nat := dfld d 0x30 0 21

/-- Values of one row. -/
def awElems (d : Desc) : Nat := if awAcc d && dmSrcFmt d == 8 then dmRowBytes d / 4 else dmRowBytes d / 8

/-- Bytes of one destination row, and between rows (R223). -/
def awDstBytes (d : Desc) : Nat := if awAcc d then 8 * awElems d else ((dmDF d).getD .w40).bytes (awElems d)
def awDstStride (d : Desc) : Nat := if dfld d 0x20 48 16 = 0 then awDstBytes d else dfld d 0x20 48 16 * 16

/-- PAYLOAD_RESERVED of ACCUM_W40: the fields R223 says must be 0, MASK_EN and bits [46:21] of DST_AUX having reasons of their own. -/
def awPayload (d : Desc) : Bool :=
  dmPayload d && dmSrcAux d == 0 && !dmFit d && !(awDrain d && !zeroBits (dmDstAux d) [(0, 21), (47, 1)])

/-- Dispatch checks of ACCUM_W40, in code order (R130, R223). -/
def awCheck (_ : State) (_ _ : Nat) (d : Desc) : Option Nat :=
  let accF := [8, 9].contains (dmSrcFmt d) && dmDstFmt d == 9
  let drainF := dmSrcFmt d == 9 && [6, 8, 9].contains (dmDstFmt d)
  if (awAcc d && !accF) || (awDrain d && !drainF) || (!accF && !drainF) then some 0x20
  else if !(awAcc d || awDrain d) || dmMask d then some 0x21
  else if dmRowBytes d == 0 || dfld d 0x30 21 26 != 0 || (awAcc d && (
        scrBad 1 (dmSrc d) ((dmRows d - 1) * srcStride d + dmRowBytes d) ||
        (awScatter d && past (awIndexAddr d) (4 * dmRows d)))) ||
      (awDrain d && scrBad 1 (dmDst d) ((dmRows d - 1) * awDstStride d + awDstBytes d)) then some 0x22
  else if (if awAcc d && dmSrcFmt d == 8 then dmRowBytes d % 4 != 0 else dmRowBytes d % 8 != 0) ||
      (if awAcc d then dmDst d % 8 != 0 || awDstStride d % 8 != 0 else dmSrc d % 8 != 0 || srcStride d % 8 != 0) then some 0x23
  else if 191 < dfld d 0x10 40 8 || 191 < dfld d 0x10 48 8 then some 0x24
  else none

def awRules : OpRules := ⟨awPayload, dmMon, awCheck⟩

/-! ### Containers -/

/-- The container at an address: its W40 code and poison. -/
def State.container (s : State) (a : Nat) : Nat × Bool :=
  let bs := s.rdStack a 8
  (leNat (dataOf bs) >>> 24, anyPoison bs)

/-- A container takes a W40 value: bits 63:24, the rest 0 (R50). -/
def containerBytes (v : Nat × Bool) : PBytes := (leBytes 8 (v.1 <<< 24)).map fun b => (b, v.2)

/-- Addresses of the containers that translated places hold. -/
def slots8 (l : List (MemSel × Nat × Nat)) : List Nat := l.flatMap fun p => (List.range (p.2.2 / 8)).map fun i => p.2.1 + 8 * i

/-- BANK_COUNT of the interface that owns an address (R235). -/
def Act.bankCount (a k : Nat) : Act := .get fun s => .count .bankCount (b2n (s.u.mem.east a)) k

/-! ### Accumulate (R224 to R226, R231) -/

/-- Values of row `r` of an accumulate as W40 codes with poison, FP32 converted exactly (R224). -/
def State.awSrc (s : State) (m : Cmd) (r : Nat) : List (Nat × Bool) :=
  let f := if dmSrcFmt m.d = 8 then DFmt.fp32 else .w40
  (valsOf f (awElems m.d) (s.rdScr m.core (dmSrc m.d + r * srcStride m.d) (dmRowBytes m.d)) []).map fun v => (w40.arith v.1, v.2)

/-- The destination row of source row `r`: itself, or what the index array says (R226). -/
def State.awRow (s : State) (m : Cmd) (r : Nat) : Nat × Bool :=
  if awScatter m.d then
    let bs := s.rdScr m.core (awIndexAddr m.d + 4 * r) 4
    (leNat (dataOf bs), anyPoison bs)
  else (r, false)

/-- The new values of some containers in turn, with those that have one already. -/
def State.accumulatedFrom (s : State) : Tab (Nat × Bool) → List Nat → List (Nat × Bool) → List (Nat × Bool)
  | seen, a :: slots, x :: xs =>
    let old := tgetD seen a (s.container a)
    let new := (w40Add old.1 x.1, old.2 || x.2)
    new :: s.accumulatedFrom (tset seen a new) slots xs
  | _, _, _ => []

/-- The new values of some containers: bank = add(bank, x) for each element in turn, so a container that comes up again takes both
addends (R224). -/
def State.accumulated (s : State) (slots : List Nat) (xs : List (Nat × Bool)) : List (Nat × Bool) := s.accumulatedFrom [] slots xs

/-- What one addend counts: by the new bank value (R231). -/
def countAddend (v : Nat × Bool) : MonDelta := countOne { code := 0, ze := (w40.val v.1).isZero, nf := (w40.val v.1).nonFinite } v.2

/-- One row of an accumulate. -/
def awAccPiece (m : Cmd) (k : PieceRes → Act) : Act :=
  .get fun s =>
    let row := s.awRow m m.piece
    if row.2 then k (.fault 3 0x1A 0 0) else
    match s.span m.ctx (dmDst m.d + row.1 * awDstStride m.d) (awDstBytes m.d) true id with
    | .error e => k (.flt e 0x27)
    | .ok l =>
      let news := s.accumulated (slots8 l) (s.awSrc m m.piece)
      .needMem m l k (.all [.needUnit unitDM m.core, .needUnit unitBank m.core, .charge m.ctx l 2, .noteSpan m.ctx l,
        .wrSpan l (news.flatMap containerBytes),
        .each ((slots8 l).zip news) fun p => .seq (.bankCount p.1 0) (.when (w40.val p.2.1).nonFinite (.bankCount p.1 1)),
        k (.done (Cmd.addMon { m with piece := m.piece + 1, present := m.present + 1, poison := m.poison || news.any Prod.snd }
          (sumMon (news.map countAddend))))])

/-! ### Drain and fold (R227, R233, R234) -/

/-- The valid split tensor of a context whose use 0 holds an address: entry number (R234). -/
def State.splitAt (s : State) (ctx dva : Nat) : Option Nat :=
  (List.range 64).find? fun e => s.fld .splitGrad e 0 0 1 == 1 && s.fld .splitGrad e 0 8 10 == ctx &&
    s.fld .splitGrad e 8 0 48 ≤ dva && dva < s.fld .splitGrad e 8 0 48 + s.fld .splitGrad e 0x10 0 48

/-- A value a drain reads at a device virtual address, with the places it was read from: its container, or the fold of the uses in rising
order; whether it was folded (R234). -/
def State.drained (s : State) (ctx dva : Nat) (a : Nat) : Except Flt ((Nat × Bool) × Bool × List (MemSel × Nat × Nat)) :=
  match s.splitAt ctx dva with
  | none => .ok (s.container a, false, [(.stack, a, 8)])
  | some e =>
    let u := s.fld .splitGrad e 0 1 2 + 1
    match exAll ((List.range u).map fun i => s.span ctx (dva + i * s.fld .splitGrad e 0x18 0 48) 8 false id) with
    | .error x => .error x
    | .ok ls =>
      match (ls.flatMap slots8).map s.container with
      | [] => .ok (s.container a, false, [])
      | g :: r => .ok (r.foldl (fun acc x => (w40Add acc.1 x.1, acc.2 || x.2)) g, true, ls.flatten)

/-- Places of single containers as the blocks of `n` bytes they lie in, each once: bursts of 64 or granules of 128. -/
def wholeBlocks (n : Nat) (l : List (MemSel × Nat × Nat)) : List (MemSel × Nat × Nat) :=
  (l.map fun p => (p.1, p.2.1 / n * n, n)).eraseDups

/-- One row of a drain. -/
def awDrainPiece (m : Cmd) (k : PieceRes → Act) : Act :=
  .get fun s =>
    let dva := dmSrc m.d + m.piece * srcStride m.d
    match s.span m.ctx dva (dmRowBytes m.d) false id with
    | .error e => k (.flt e 0x27)
    | .ok l =>
      let as := slots8 l
      match exAll (as.zipIdx.map fun p => s.drained m.ctx (dva + 8 * p.2) p.1) with
      | .error e => k (.flt e 0x27)
      | .ok vs =>
        let o := writeVals ((dmDF m.d).getD .w40) false (vs.map fun v => (w40.val v.1.1, v.1.2))
        let reads := vs.flatMap fun v => v.2.2
        let places := wholeBlocks 128 reads
        .needMem m places k (.all [.needUnit unitDM m.core, .needUnit unitBank m.core, .charge m.ctx places,
          .noteSpan m.ctx (wholeBlocks 64 reads), .wrScr m.core (dmDst m.d + m.piece * awDstStride m.d) o.elems,
          .each (as.zip vs) fun p => .seq (.bankCount p.1 2) (.when p.2.2.1 (.bankCount p.1 3)),
          k (.done (Cmd.addMon { m with piece := m.piece + 1, present := m.present + 1, poison := m.poison || o.poison } o.mon))])

/-- One row of ACCUM_W40 (R109, R223). -/
def awPiece (m : Cmd) (k : PieceRes → Act) : Act :=
  if awAcc m.d then awAccPiece m k else awDrainPiece m k

def awRun : OpRun := { dmCopyRun with piece := awPiece }

/-! ### SPLIT_GRAD entries (R233, R235) -/

/-- The context has a command that is dispatched or due and not retired. -/
def State.unretired (s : State) (ctx : Nat) : Bool :=
  (s.queuesOf ctx).any fun q => (s.stream q).fly.any fun f => !f.done

/-- Use ranges of an entry's value: first byte and length of each. -/
def splitRanges (v : Nat) : List (Nat × Nat) :=
  (List.range (bits v 1 2 + 1)).map fun u => (bits v 64 48 + u * bits v 192 48, bits v 128 48)

/-- A value of SPLIT_GRAD is not refused (R233). Only the multiples of 8 are asked of a VALID entry alone (log entry 93). -/
def State.splitOk (s : State) (i v : Nat) : Bool :=
  let ctx := bits v 8 10
  let others := (List.range 64).filter fun e => e != i && s.fld .splitGrad e 0 0 1 == 1 && s.fld .splitGrad e 0 8 10 == ctx
  !s.unretired ctx && (!bit v 0 || (bits v 64 48 % 8 == 0 && bits v 128 48 % 8 == 0 && bits v 192 48 % 8 == 0)) &&
    bits v 128 48 ≤ bits v 192 48 && bits v 1 2 != 0 &&
    (splitRanges v).all fun a => others.all fun e => (splitRanges (s.rd .splitGrad e)).all fun b => a.1 + a.2 ≤ b.1 || b.1 + b.2 ≤ a.1

/-- Fields of a SPLIT_GRAD entry; its reserved bits read as 0 (R13, R233). -/
def splitMask : Nat := fieldMask [(0, 0, 3), (0, 8, 10), (8, 0, 48), (0x10, 0, 48), (0x18, 0, 48)]

/-- SPLIT_GRAD's rule: a virtual function writes entries of its own contexts only (R233, R235). -/
def ruleSplitGrad : Rule := ctxRule (fun s i => s.ctxField .splitGrad i) fun r i v k =>
  .get fun s =>
    if !s.mayWriteCtx r (bits v 8 10) then k stAccess
    else if !s.splitOk i v then k stRefused
    else .seq (.store .splitGrad i (v &&& splitMask)) (k stOk)

/-- SPLIT_GRAD_WRITE. -/
def execSplitGradWrite (r : Requester) (entry : Fin 64) (v : BitVec 256) (s : State) : Host.Outcome State Fault Refusal :=
  (Act.entryRow .splitGrad ruleSplitGrad r entry.val v.toNat).outcome s

/-- SPLIT_GRAD entries of a context return to their defaults (R235). -/
def Act.splitDropOf (ctx : Nat) : Act :=
  .get fun s => .each ((List.range 64).filter fun e => s.fld .splitGrad e 0 8 10 == ctx) fun e => .regErase .splitGrad e

end Sys2Proof.Machine
end

