-- ==== Sys2Proof/Machine/Lanes.lean ====
section
/-! DEFINITION. The lanes of a fabric port (R292 to R294): codewords, marker codewords, deskew, and the chunks of flits that lie in them. -/

namespace Sys2Proof.Machine

/-! ### Codewords and markers (R293) -/

/-- The RS(544, 514) codeword of 514 payload symbols of 10 bits (log entry 96). -/
def laneWord (payload : List Nat) : List Nat := gf10.codeword 30 payload

/-- The 5,140 payload bits of a codeword as symbols, lowest bits first (log entry 96). -/
def laneSymbols (payload : BitVec 5140) : List Nat := (List.range 514).map fun i => bits payload.toNat (10 * i) 10

/-- The payload of a marker codeword: the pattern, the lane number, and the count of markers sent. -/
def markerPayload (lane count : Nat) : BitVec 5140 :=
  BitVec.ofNat 5140 (0x5C2E91A703D4B86F + lane % 8 * 2 ^ 64 + count % 2 ^ 29 * 2 ^ 67)

/-- Codewords between two markers of a lane, and the chunks they hold (R294). -/
def wordsPerMarker : Nat := 8192
def chunksPerMarker : Nat := 164480

/-- Markers of the eight lanes let the receiver deskew them: lane i shows lane i's marker, all of one count, no more than 50 ns
apart. -/
def deskewed (ms : List Marker) : Bool :=
  match ms.head? with
  | none => false
  | some m =>
    let count := bits m.payload.toNat 67 29
    let ts := ms.map Marker.time
    ms.map Marker.payload == (List.range 8).map (markerPayload · count) && ts.foldl max m.time ≤ ts.foldl min m.time + 50

/-! ### Chunks (R294) -/

/-- Lane i's chunk of a flit's 256 bytes: bytes 32 i to 32 i + 31. -/
def laneChunk (bytes : List Byte) (lane : Nat) : List Byte := (bytes.drop (32 * lane)).take 32

/-- The codewords of each lane in which chunk number `n` lies. The payload bits of the codewords between two markers hold their chunks one
after another. -/
def wordsOfChunk (n : Nat) : List Nat :=
  let first := n / chunksPerMarker * wordsPerMarker
  let at_ := 256 * (n % chunksPerMarker)
  if at_ / 5140 = (at_ + 255) / 5140 then [first + at_ / 5140] else [first + at_ / 5140, first + at_ / 5140 + 1]

/-! ### Decoding (R293, R294) -/

/-- The symbols of a codeword that arrived wrong. -/
def cwWrong (w : Codeword) : Nat :=
  ((List.range 544).filter fun i => ((w.errs.filter fun e => e.1.val == i).foldl (fun acc e => acc ^^^ e.2.toNat) 0) != 0).length

/-- The decoder reports the codeword uncorrectable: more than 15 symbols are wrong. -/
def cwLost (w : Codeword) : Bool := 15 < cwWrong w

/-- The decoder corrects the codeword. -/
def cwMended (w : Codeword) : Bool := cwWrong w != 0 && !cwLost w

/-- No chunk of the flit lies in an uncorrectable codeword. -/
def flitDecoded (f : Flit) : Bool := !f.words.any fun w => (wordsOfChunk f.chunk).contains w.num && cwLost w

/-- The link layer of a port. -/
def State.port (s : State) (p : Nat) : Port := tgetD s.u.ports p {}

/-- The link layer of a port changes. -/
def Act.port (p : Nat) (f : Port → Port) : Act := .units fun u => { u with ports := tmod u.ports p {} f }

/-- The codewords that come with a flit are counted, each once: corrected ones, and uncorrectable ones, which are reported (R333,
R477). -/
def Act.countWords (p : Nat) (f : Flit) : Act :=
  .each f.words fun w => .get fun s => .when (tgetD (s.port p).fecAt w.lane 0 ≤ w.num) (.all [
    .port p fun x => { x with fecAt := tset x.fecAt w.lane (w.num + 1) },
    if cwLost w then .seq (.count .portStatus p 2) (.errEvent (40 + p) p) else .when (cwMended w) (.count .portStatus p 1)])

end Sys2Proof.Machine
end

