-- ==== Sys2Proof/Machine/Port.lean ====
section
/-! DEFINITION. Fabric ports (R289 to R304, R327 to R333): port states and bring-up, flits with retry and credits, arbitration of
virtual channels, and the col's routing. -/

namespace Sys2Proof.Machine

/-! ### Ports and their states (R297, R330, R333) -/

/-- STATE of a port (R330). -/
def State.portSt (s : State) (p : Nat) : Nat := s.fld .portStatus p 0 0 4

def psDisabled : Nat := 0
def psCable : Nat := 1
def psHoldoff : Nat := 2
def psTraining : Nat := 3
def psLinkInit : Nat := 4
def psIdentify : Nat := 5
def psUp : Nat := 6
def psQuarantined : Nat := 7
def psDown : Nat := 8

/-- A message may leave through the port. -/
def State.portUp (s : State) (p : Nat) : Bool := s.portSt p == psUp

/-- PORT_ENABLE of a port. -/
def State.portEnabled (s : State) (p : Nat) : Bool := bit (s.rd .portEnable) p

/-- A port takes a state, which is traced and lights the port (R330, R488, R491). -/
def Act.portSt (p st : Nat) : Act :=
  .all [.fld .portStatus p 0 0 4 st,
    .get fun s => .trace 3 0 0 (p + st * 2 ^ 8 + s.fld .portStatus p 0 4 4 * 2 ^ 16) (s.rd .recoveryEpoch),
    .svc fun v => { v with portLight := tset v.portLight p 1 }, .raiseSrc (112 + p)]

/-- This device's fabric address (R290). -/
def State.fabric (s : State) : Nat := s.rd .fabricAddr

/-! ### Flits (R295) -/

/-- One bit of the CRC-32 of IEEE 802.3, reflected (log entry 30). -/
def crcBits : Nat → Nat → Nat
  | 0, c => c
  | k + 1, c => crcBits k (if c % 2 = 1 then (c / 2) ^^^ 0xEDB88320 else c / 2)

/-- The CRC-32 of bytes. -/
def crc32 (bs : List Byte) : Nat := (bs.foldl (fun c b => crcBits 8 (c ^^^ b.toNat)) 0xFFFFFFFF) ^^^ 0xFFFFFFFF

/-- The 252 bytes a flit's CRC covers. -/
def flitBody (w0 : Nat) (payload : List Byte) (low : Nat) : List Byte := leBytes 8 w0 ++ payload ++ leBytes 4 low

/-- The flit is good: its CRC and every codeword it lies in (R294, R295). -/
def flitGood (f : Flit) : Bool :=
  flitDecoded f && f.payload.length == 240 && crc32 (flitBody f.w0.toNat f.payload (f.tail.toNat % 2 ^ 32)) == f.tail.toNat / 2 ^ 32

/-- A field of a flit's first word. -/
def flitFld (f : Flit) (lo len : Nat) : Nat := bits f.w0.toNat lo len

/-- A flit with its CRC. -/
def mkFlit (w0 : Nat) (payload : List Byte) : Flit :=
  let p := (payload ++ List.replicate 240 0#8).take 240
  { w0 := BitVec.ofNat 64 w0, payload := p, tail := BitVec.ofNat 64 (crc32 (flitBody w0 p 0) * 2 ^ 32) }

/-- Virtual channel and pool as one key. -/
def vcKey (vc : Nat) (poolB : Bool) : Nat := 2 * vc + b2n poolB

/-- What every flit of a port carries: the ACK and one return of credits (R295, R296). -/
def Port.common (x : Port) : Nat :=
  let ack := (x.rxSeq + 4095) % 4096 * 2 ^ 20
  match x.owed with
  | (k, n) :: _ => ack + k / 2 * 2 ^ 32 + k % 2 * 2 ^ 35 + min n 255 * 2 ^ 36
  | [] => ack

/-- The credits that the flit returned are no longer owed. -/
def Port.returned (x : Port) : Port :=
  match x.owed with
  | (k, n) :: r => { x with owed := if n ≤ 255 then r else (k, n - 255) :: r }
  | [] => x

/-- A flit that is no DATA flit is sent (R295). -/
def Act.sendCtl (p kind : Nat) (payload : List Byte) : Act :=
  .get fun s =>
    let x := s.port p
    .seq (.out (.flit p (mkFlit (kind + x.txSeq * 2 ^ 8 + x.common) payload))) (.port p Port.returned)

/-- IDLE flits return what credits are still owed, at most one pair of channel and pool each. -/
def Act.returnCredits (p : Nat) : Act :=
  .get fun s => .each (s.port p).owed fun _ => .sendCtl p 0 []

/-- A RETRY flit names the LSEQ expected (R296). -/
def Act.sendRetry (p : Nat) : Act :=
  .get fun s => .all [.sendCtl p 2 (leBytes 2 (s.port p).rxSeq), .count .portStatus p 4,
    .port p fun x => { x with gap := true, retryTx := x.retryTx + 1 }]

/-- An IDENT flit names this device (R328). -/
def Act.sendIdent (p : Nat) : Act :=
  .get fun s => .sendCtl p 4 (leBytes 2 s.fabric ++ leBytes 1 p ++ List.replicate 5 0#8 ++ leBytes 8 (s.rd .serial))

/-! ### Messages on the wire (R307) -/

/-- The transport header. -/
def headerBytes (m : Msg) : List Byte :=
  leBytes 8 (m.dest.toNat + m.src.toNat * 2 ^ 16 + m.destFlow.toNat * 2 ^ 32 + m.type.toNat * 2 ^ 48 + m.route.toNat * 2 ^ 53 +
    b2n m.altGw * 2 ^ 56 + b2n m.notice * 2 ^ 57) ++
  leBytes 8 (m.fseq.toNat + m.gen.toNat * 2 ^ 32 + m.data.length * 2 ^ 40) ++
  leBytes 8 (m.addr.toNat + m.srcFlow.toNat * 2 ^ 48) ++ leBytes 8 m.aux.toNat

/-- All bytes of a message; a poisoned AUX shows in the header's second 16 bytes (R295, R313). -/
def wireBytes (m : Msg) : PBytes := ((headerBytes m).zipIdx.map fun b => (b.1, m.auxPoison && 16 ≤ b.2)) ++ m.data

/-- Flits of a message. -/
def flitCount (m : Msg) : Nat := cdiv (32 + m.data.length) 240

/-- The message that bytes of a link hold, once all of it has come. Its OP_TYPE stands nowhere in the header (log entry
29). -/
def msgOf (bs : PBytes) (op : Nat) : Option Msg :=
  let w (k : Nat) : Nat := leNat (dataOf ((bs.drop (8 * k)).take 8))
  let n := bits (w 1) 40 12
  if bs.length < 32 ∨ bs.length < 32 + n then none
  else some {
    dest := BitVec.ofNat 16 (w 0), src := BitVec.ofNat 16 (bits (w 0) 16 16), destFlow := BitVec.ofNat 13 (bits (w 0) 32 13),
    type := BitVec.ofNat 5 (bits (w 0) 48 5), route := BitVec.ofNat 3 (bits (w 0) 53 3), altGw := bit (w 0) 56, notice := bit (w 0) 57,
    fseq := BitVec.ofNat 32 (w 1), gen := BitVec.ofNat 8 (bits (w 1) 32 8), addr := BitVec.ofNat 48 (w 2),
    srcFlow := BitVec.ofNat 13 (bits (w 2) 48 13), aux := BitVec.ofNat 64 (w 3), data := (bs.drop 32).take n,
    op := BitVec.ofNat 2 op, auxPoison := anyPoison ((bs.drop 16).take 16) }

/-! ### Sending DATA flits (R296, R298) -/

/-- Credits per port of each virtual channel, both pools (R298). -/
def vcCredits : Nat → Nat
  | 0 => 16
  | 1 | 2 => 128
  | 3 | 4 => 256
  | 5 => 192
  | 6 => 48
  | _ => 0

/-- The credits that CREDIT_INIT creates. -/
def freshCredits : Tab Nat := (List.range 16).map fun k => (k, vcCredits (k / 2) / 2)

/-- The first message of a virtual channel that waits on a port. -/
def Port.first (x : Port) (vc : Nat) : Option OutMsg := x.queue.find? fun o => o.vc == vc

/-- A virtual channel has a flit and a credit for it. -/
def Port.sendable (x : Port) (vc : Nat) : Bool :=
  match x.first vc with
  | some o => 0 < tgetD x.cred (vcKey vc o.poolB) 0
  | none => false

/-- Deficit round robin over channels 1 to 6, each turn adding the channel's weight (R298). -/
def Port.drr (x : Port) (weight : Nat → Nat) : Nat → Option (Nat × Port)
  | 0 => none
  | k + 1 =>
    let v := x.turn
    if x.sendable v && 0 < tgetD x.deficit v 0 then some (v, { x with deficit := tmod x.deficit v 0 (· - 1) })
    else
      let n := if v ≥ 6 then 1 else v + 1
      let d := if (x.first v).isNone then tset x.deficit v 0 else x.deficit
      Port.drr { x with turn := n, deficit := if x.sendable n then tmod d n 0 (· + weight n) else d } weight k

/-- The channel that sends next. -/
def Port.pick (x : Port) (weight : Nat → Nat) : Option (Nat × Port) :=
  if 1024 ≤ x.replay.length then none else if x.sendable 0 then some (0, x) else x.drr weight 14

/-- The POISON bits of 240 payload bytes: bit i for bytes 16 i to 16 i + 15 (R295). -/
def poisonBits (bs : PBytes) : Nat := ((List.range 15).map fun i => b2n (anyPoison ((bs.drop (16 * i)).take 16)) * 2 ^ i).foldl (· + ·) 0

/-- One DATA flit of a message goes out: number of the flit in the message. -/
def Port.emit (x : Port) (o : OutMsg) : Flit × Port :=
  let bs := ((wireBytes o.m).drop (240 * o.sent)).take 240
  let f := mkFlit (1 + o.vc * 2 ^ 4 + b2n o.poolB * 2 ^ 7 + x.txSeq * 2 ^ 8 + x.common + poisonBits bs * 2 ^ 44) (dataOf bs)
  let k := vcKey o.vc o.poolB
  let o' := { o with sent := o.sent + 1 }
  let q := x.queue.erase o
  (f, { x.returned with
    txSeq := (x.txSeq + 1) % 4096
    replay := x.replay ++ [f]
    cred := tmod x.cred k 0 (· - 1)
    queue := if o'.sent < flitCount o.m then o' :: q else q })

/-- Each channel of a port whose next flit has no credit waits, which counts as exhaustion (R31). -/
def Act.vcStalls (p : Nat) : Act :=
  .get fun s => .each (List.range 7) fun v =>
    if ((s.port p).first v).isSome && !(s.port p).sendable v then .stallBegin (stallVc p v)
    else .stallEnd (stallVc p v)

/-- The port sends while a channel can (R298). -/
def Act.pump (p : Nat) : Nat → Act
  | 0 => .skip
  | fuel + 1 => .get fun s =>
    let x := s.port p
    if !s.portUp p then .skip else
    match x.pick fun v => s.fld .vcWeight 0 v 0 8 with
    | none => .vcStalls p
    | some (v, x') =>
      match x'.first v with
      | none => .skip
      | some o =>
        let r := x'.emit o
        .all [.port p fun _ => r.2, .out (.flit p r.1), .count .portStatus p 7, Act.pump p fuel]

/-- Flits one run of a port may send: more than any credit and replay buffer allows. -/
def pumpFuel : Nat := 4096

/-! ### Routing (R300 to R304) -/

/-- Where a message goes from here: to this device's network, out of a port, or nowhere; with the port at which it was
reversed. -/
inductive Hop where
  | here (m : Msg)
  | out (p : Nat) (m : Msg) (rev : Option Nat)
  | lost
  deriving DecidableEq, Repr

/-- A coordinate of an address in a dimension (R290). -/
def coord (addr d : Nat) : Nat := bits addr (2 * d) 2

/-- ROUTE bits stay only in dimensions not yet reached (R301). -/
def routeLeft (own target route : Nat) : Nat :=
  ((List.range 3).map fun d => if coord own d = coord target d then 0 else b2n (bit route d) * 2 ^ d).foldl (· + ·) 0

/-- The port that a message leaves by in a dimension: the shorter way round, + at a distance of 2; where its ROUTE bit of the dimension is
set, on in the direction in which it came (R300, R301; log entry 97). -/
def dimPort (own target d : Nat) (reversed : Bool) (came : Option (Nat × Bool)) : Nat :=
  let shorter := 2 * d + b2n (decide (2 < (coord target d + 4 - coord own d) % 4))
  if !reversed then shorter
  else match came with
    | some a => if a.1 / 2 = d then a.1 ^^^ 1 else shorter ^^^ 1
    | none => shorter ^^^ 1

/-- The hop toward an in-ridge coordinate by dimension order, with reversal; none where the message is there (R300,
R301). -/
def State.dimHop (s : State) (came : Option (Nat × Bool)) (m : Msg) (target : Nat) : Option Hop :=
  let own := s.fabric
  let route := routeLeft own target m.route.toNat
  match (List.range 3).find? fun d => coord own d != coord target d with
  | none => none
  | some d =>
    let p := dimPort own target d (bit route d) came
    some (if s.portUp p then .out p { m with route := BitVec.ofNat 3 route } none
      else if bit route d then .lost
      else if s.portUp (p ^^^ 1) then .out (p ^^^ 1) { m with route := BitVec.ofNat 3 (route + 2 ^ d) } (some p)
      else .lost)

/-- The hop toward a gateway that leaves by its inter-ridge port (R302). -/
def State.gateHop (s : State) (came : Option (Nat × Bool)) (m : Msg) (c port : Nat) (down : Hop) : Hop :=
  match s.dimHop came m c with
  | some h => h
  | none => if s.portUp port then .out port { m with route := 0 } none else down

/-- The hop of a message (R300 to R302). A message that turns to the alternate gateway begins a new way. -/
def State.hop (s : State) (came : Option (Nat × Bool)) (m : Msg) : Hop :=
  let ridge := m.dest.toNat / 64
  if ridge = s.fabric / 64 then (s.dimHop came m (m.dest.toNat % 64)).getD (.here m)
  else
    let g := s.rd .gateway ridge
    let alt (m : Msg) : Hop := if bit g 15 then s.gateHop came { m with altGw := true } (bits g 8 6) (6 + bits g 14 1) .lost else .lost
    if m.altGw then alt m
    else if !bit g 7 then alt { m with route := 0 }
    else s.gateHop came m (bits g 0 6) (6 + bits g 6 1) (alt { m with route := 0 })

/-- The pool a message takes on its way out of a port: B from the dateline of its dimension on, until it turns (R304). The pool is the one
its flits fill at the far side (log entry 31). -/
def State.poolB (s : State) (came : Option (Nat × Bool)) (p : Nat) : Bool :=
  let c := coord s.fabric (p / 2)
  let crosses := if p % 2 = 0 then c == 3 else c == 0
  p < 6 && (crosses || match came with | some a => a.1 / 2 == p / 2 && a.2 | none => false)

/-- A message in the col leaves through a port, reaches this device, or is discarded (R300 to R302). -/
def Act.route (came : Option (Nat × Bool)) (vc : Nat) (m : Msg) (here : Msg → Act) : Act :=
  .get fun s =>
    match s.hop came m with
    | .here m => here m
    | .lost => .count .transportCount 0 1
    | .out p m rev => .all [
        (match rev with | some r => .count .portStatus r 6 | none => .skip),
        .port p fun x => { x with queue := x.queue ++ [{ m := m, vc := vc, poolB := s.poolB came p, came := came }] },
        .pump p pumpFuel]

/-- This device sends a message: the col stamps its source (R290). -/
def Act.sendMsg (vc : Nat) (m : Msg) : Act :=
  .get fun s => .route none vc { m with src := BitVec.ofNat 16 s.fabric } fun _ => .skip

/-- The virtual channel of a message whose class is `cls` (R298). -/
def vcOf (cls : Nat) (type : Nat) : Nat :=
  match type with
  | 2 | 4 | 5 | 6 => 2
  | 8 | 9 => 3
  | 10 => 4
  | 12 | 13 | 14 => 0
  | _ => cls

/-! ### A port goes DOWN (R297) -/

/-- Causes of R333. -/
def dcLaneLock : Nat := 1
def dcRetryLimit : Nat := 2
def dcCredit : Nat := 3
def dcTrain : Nat := 4
def dcDisabled : Nat := 5
def dcReset : Nat := 6
def dcSignal : Nat := 7

/-- A port goes DOWN: counted, traced, the epoch raised, its link state discarded; messages that had not begun to leave are routed again
(R297, R316, R477), but one already reversed in the port's dimension is discarded (R301). -/
def Act.portDown (p cause : Nat) (lane : Nat := 0) : Act :=
  .get fun s =>
    let again := (s.port p).queue.filter fun o => o.sent == 0
    .all [.fld .portStatus p 0 4 4 cause, .fld .portStatus p 0 8 3 lane, .portSt p psDown, .count .portStatus p 5, .epochUp,
      .port p fun _ => {}, .vcStalls p,
      .when (cause != dcDisabled && cause != dcReset) (.errEvent (48 + p) p),
      .each again fun o => if p < 6 ∧ bit o.m.route.toNat (p / 2) = true then .count .transportCount 0 1
        else .route o.came o.vc o.m fun _ => .skip]

/-! ### Bring-up (R327 to R331) -/

/-- Service or a fatal error holds the ports down (R482, R492, R494). -/
def State.portsHeld (s : State) : Bool :=
  6 ≤ s.u.svc.drainStep || s.rd .serviceState == 3 || (s.u.pow.fatal && s.fld .fatalState 0 0 0 8 == 3)

/-- An enabled port begins at CABLE (R329), unless ports are held down. -/
def Act.portStart (p : Nat) : Act := .get fun s => .when (!s.portsHeld) (.seq (.port p fun _ => {}) (.portSt p psCable))

/-- A port is disabled: DOWN with that cause, then DISABLED (R297, R330). -/
def Act.portDisable (p : Nat) : Act :=
  .get fun s => .when (s.portSt p != psDisabled) (.seq (.when (s.portSt p != psDown) (.portDown p dcDisabled)) (.portSt p psDisabled))

/-- PORT_ENABLE's rule (R329, R332). -/
def rulePortEnable : Rule := fun _ i v k =>
  .get fun s => .all [.store .portEnable i v,
    .each (List.range 8) fun p =>
      if bit v p then .when (s.portSt p == psDisabled || (!s.portEnabled p && s.portSt p == psDown)) (.portStart p)
      else .when (s.portEnabled p) (.portDisable p),
    k stOk]

/-- The memory of a module is readable CMIS of revision 4.0 or later (R327). -/
def cmisAccepted (c : Cmis) : Bool := c.readable && 0x40 ≤ c.revision.toNat

/-- The module state is ModuleReady, by CMIS's code of it (log entry 98). -/
def cmisReady (c : Cmis) : Bool := bits c.modState.toNat 1 3 == 3

/-- What a training sequence does with a cage whose memory was read (R327): CABLE_ID; an active module that is not ready leaves low power,
and the port waits for it, for 3 s; then hold-off. A memory that is not accepted means quarantine where STRICT_CABLE is 1. -/
def Act.cmisDone (p : Nat) (c : Cmis) : Act :=
  .get fun s => .when (s.portSt p == psCable && s.portEnabled p) (
    if cmisAccepted c then
      .seq (.reg .cableId p (1 + c.ident.toNat * 2 ^ 8 + c.modState.toNat * 2 ^ 16 + c.vendor.toNat * 2 ^ 128 + c.part.toNat * 2 ^ 256 +
          c.serial.toNat * 2 ^ 384))
        (match (s.port p).awake with
          | none => if c.active then .all [.out (.highPower p), .port p fun x => { x with awake := some s.now },
              .when (cmisReady c) (.portSt p psHoldoff)] else .portSt p psHoldoff
          | some t => .when (cmisReady c || t + 3000000000 ≤ s.now) (.portSt p psHoldoff))
    else .seq (.regErase .cableId p) (.portSt p (if s.rd .strictCable = 1 then psQuarantined else psHoldoff)))

/-- The lanes lock: markers found and lanes deskewed, LINK_INIT, and CREDIT_INIT goes out; until they are, the port trains on (R293, R298,
R329). -/
def Act.lanesLocked (p : Nat) (ms : List Marker) : Act :=
  .get fun s => .when (s.portSt p == psTraining && deskewed ms)
    (.all [.portSt p psLinkInit, .port p fun x => { x with fecAt := [] }, .sendCtl p 3 []])

/-- A port passes from one state to the next. -/
def Act.portStep (p was next : Nat) (a : Act) : Act := .get fun s => .when (s.portSt p == was) (.seq (.portSt p next) a)

/-- Lanes did not lock in time: another hold-off, or DOWN after three failures (R329). -/
def Act.trainingFailed (p : Nat) : Act :=
  .get fun s => .when (s.portSt p == psTraining) (.seq (.port p fun x => { x with fails := x.fails + 1 })
    (if 3 ≤ (s.port p).fails + 1 then .portDown p dcTrain else .portSt p psHoldoff))

/-- The peer's CREDIT_INIT creates the credits and starts the identity exchange (R298, R329). -/
def Act.creditInit (p : Nat) : Act :=
  .portStep p psLinkInit psIdentify (.seq (.port p fun x => { x with cred := freshCredits, txSeq := 0, rxSeq := 0 }) (.sendIdent p))

/-- The identified peer is the one PEER_EXPECT names, or none is (R328). -/
def State.peerOk (s : State) (p addr port : Nat) : Bool :=
  s.fld .peerExpect p 0 31 1 == 0 || (s.fld .peerExpect p 0 0 16 == addr && s.fld .peerExpect p 0 16 3 == port)

/-- The port comes UP: the epoch rises and waiting messages leave (R316, R329). -/
def Act.portUp (p : Nat) : Act := .all [.portSt p psUp, .units fun u => { u with wasUp := true }, .epochUp, .pump p pumpFuel]

/-- An IDENT arrives (R328). -/
def Act.identIn (p addr port : Nat) : Act :=
  .get fun s => .when (s.portSt p == psIdentify || s.portSt p == psQuarantined) (.all [
    .fld .portStatus p 0 16 16 addr, .fld .portStatus p 0 32 3 port, .port p fun x => { x with ident := true },
    .when (s.portSt p == psIdentify) (if s.peerOk p addr port then .portUp p
      else .seq (.portSt p psQuarantined) (.port p fun x => { x with cred := [] }))])

/-- PEER_EXPECT's rule: a quarantined port whose peer now matches comes UP (R328). -/
def rulePeerExpect : Rule := fun _ i v k =>
  .seq (.store .peerExpect i (v % 2 ^ 19 + v / 2 ^ 31 * 2 ^ 31)) (.get fun s => .seq
    (.when (s.portSt i == psQuarantined && (s.port i).ident &&
        s.peerOk i (s.fld .portStatus i 0 16 16) (s.fld .portStatus i 0 32 3))
      (.seq (.port i fun x => { x with cred := freshCredits }) (.portUp i))) (k stOk))

/-- PORT_RESET's rule (R331). -/
def rulePortReset : Rule := fun _ _ v k =>
  .get fun s => if 8 ≤ v then k stRefused else .all [.portDown v dcReset, .when (s.portEnabled v && !s.portsHeld) (.portSt v psHoldoff), k stOk]

/-- A port loses its signal: a cable is pulled, or its light goes (R297, R329, R495). -/
def Act.signalLost (p : Nat) : Act :=
  .get fun s => .when (psCable ≤ s.portSt p && s.portSt p ≤ psQuarantined) (.portDown p dcSignal)

/-- Lanes are locked in these states. -/
def lanesUp (st : Nat) : Bool := psLinkInit ≤ st && st ≤ psQuarantined

/-! ### Flits that arrive (R296) -/

/-- The ACK and the credits that a flit carries (R295, R296, R298). -/
def Port.heard (x : Port) (f : Flit) : Port :=
  let oldest := (x.txSeq + 4096 - x.replay.length) % 4096
  let n := (flitFld f 20 12 + 1 + 4096 - oldest) % 4096
  { x with
    replay := if n ≤ x.replay.length then x.replay.drop n else x.replay
    cred := if flitFld f 36 8 = 0 then x.cred else tmod x.cred (2 * flitFld f 32 3 + flitFld f 35 1) 0 (· + flitFld f 36 8) }

/-- The port heard a good flit, and may go on sending. -/
def Act.heard (p : Nat) (f : Flit) : Act := .seq (.port p fun x => x.heard f) (.pump p pumpFuel)

/-- A RETRY is sent, and the sixteenth in a row for one LSEQ takes the port DOWN (R296, R297). -/
def Act.retryOrDown (p : Nat) : Act :=
  .seq (.sendRetry p) (.get fun s => .when (16 ≤ (s.port p).retryTx) (.portDown p dcRetryLimit))

/-- Payload bytes with the flit's poison marks. -/
def flitBytes (f : Flit) : PBytes := f.payload.zipIdx.map fun b => (b.1, bit f.w0.toNat (44 + b.2 / 16))

/-- A DATA flit in sequence is taken; a message that is whole with it is handed on (R296, R307). -/
def Act.takeFlit (p : Nat) (f : Flit) (k : Msg → Act) : Act :=
  .draw fun fr => .get fun s =>
    let x := s.port p
    let vc := flitFld f 4 3
    let bs := tgetD x.asm vc [] ++ flitBytes f
    let m := if 240 * cdiv (32 + bits (leNat (dataOf ((bs.drop 8).take 8))) 40 12) 240 ≤ bs.length then msgOf bs (fr % 2) else none
    .seq (.port p fun x => { x with
        rxSeq := (x.rxSeq + 1) % 4096
        gap := false
        retryTx := 0
        asm := tset x.asm vc (if m.isSome then [] else bs)
        owed := tmod x.owed (2 * flitFld f 4 3 + flitFld f 7 1) 0 (· + 1) })
      (match m with
        | some m => .route (some (p, flitFld f 7 1 == 1)) vc m k
        | none => .skip)

/-- How far a flit's LSEQ is ahead of the expected one. -/
def Port.ahead (x : Port) (f : Flit) : Nat := (flitFld f 8 12 + 4096 - x.rxSeq) % 4096

/-- A flit shows that a DATA flit before it is missing: RETRY asks for the expected one, unless it has already (R296). -/
def Act.gapSeen (p : Nat) (f : Flit) : Act :=
  .get fun s => .when (let n := (s.port p).ahead f; n != 0 && n < 2048 && !(s.port p).gap) (.retryOrDown p)

/-- A flit arrives: its codewords are counted where the lanes are locked, and a bad one asks for a retry (R294, R296, R333). -/
def Act.anyFlit (p : Nat) (f : Flit) (good : Act) : Act :=
  .get fun s => .seq (.when (lanesUp (s.portSt p)) (.countWords p f)) (.when (s.portUp p) (
    if flitGood f then good
    else .seq (.when (flitDecoded f && flitFld f 0 4 == 1) (.count .portStatus p 3)) (.when (!(s.port p).gap) (.retryOrDown p))))

/-- A DATA flit arrives. Only the expected one is taken, with the ACK and credits it carries; every other one is dropped whole (R294 to
R297). -/
def Act.flitIn (p : Nat) (f : Flit) (k : Msg → Act) : Act :=
  .anyFlit p f (.get fun s => .when (flitFld f 0 4 == 1) (
    if (s.port p).ahead f = 0 then .all [.heard p f, .takeFlit p f k, .returnCredits p] else .gapSeen p f))

/-- A RETRY arrives: every kept flit from the named one on is sent again; sixteen in a row for one LSEQ take the port DOWN
(R296, R297). -/
def Act.retryIn (p : Nat) (f : Flit) : Act :=
  .anyFlit p f (.when (flitFld f 0 4 == 2) (.all [.heard p f, .gapSeen p f, .get fun s =>
    let x := s.port p
    let want := bits (leNat (f.payload.take 2)) 0 12
    let run := if x.retryRx = 0 ∨ x.retryRxSeq ≠ want then 1 else x.retryRx + 1
    let oldest := (x.txSeq + 4096 - x.replay.length) % 4096
    .all [.port p fun x => { x with retryRx := run, retryRxSeq := want },
      .each (x.replay.drop ((want + 4096 - oldest) % 4096)) fun f => .seq (.out (.flit p f)) (.count .portStatus p 7),
      .when (16 ≤ run) (.portDown p dcRetryLimit)]]))

/-- A flit that is no DATA flit arrives with its ACK and credits, and shows whether a DATA flit before it is missing; reserved kinds are
ignored (R295, R296). -/
def Act.idleIn (p : Nat) (f : Flit) : Act :=
  .anyFlit p f (.when (flitFld f 0 4 != 1 && flitFld f 0 4 ≤ 4) (.seq (.heard p f) (.gapSeen p f)))

/-- The oldest message that waits for a port is discarded after 2 ms (R303). -/
def Act.ageOut (p : Nat) : Act :=
  .get fun s =>
    match (s.port p).queue.find? fun o => o.sent == 0 with
    | some o => .seq (.port p fun x => { x with queue := x.queue.erase o }) (.count .transportCount 0 1)
    | none => .skip

end Sys2Proof.Machine
end

