-- ==== Sys2Proof/Machine/Flow.lean ====
section
/-! DEFINITION. Flows (R305 to R316, R334, R335): states, the window of sequenced messages, acknowledgement, delivery in order, the
effects of puts, gets and atomics, and notices. -/

namespace Sys2Proof.Machine

/-! ### Flows and their entries (R305, R306, R334, R335) -/

/-- A flow beside its entries. -/
def State.flow (s : State) (f : Nat) : Flow := tgetD s.u.flows f {}

/-- A flow changes. -/
def Act.flow (f : Nat) (g : Flow → Flow) : Act := .units fun u => { u with flows := tmod u.flows f {} g }

/-- STATE of a flow: 0 DISABLED, 1 OPENING, 2 OPEN, 3 FAILED. -/
def State.flowSt (s : State) (f : Nat) : Nat := s.fld .flowState f 0 0 2
def State.flowClass (s : State) (f : Nat) : Nat := s.fld .flowCfg f 0 1 3
def State.flowCtx (s : State) (f : Nat) : Nat := s.fld .flowCfg f 0 8 10
def State.flowPeer (s : State) (f : Nat) : Nat := s.fld .flowCfg f 0 32 16
def State.flowPeerFlow (s : State) (f : Nat) : Nat := s.fld .flowCfg f 0 48 13
def State.flowGen (s : State) (f : Nat) : Nat := s.fld .flowState f 0 16 8
def State.sendNext (s : State) (f : Nat) : Nat := s.fld .flowState f 8 0 32
def State.recvNext (s : State) (f : Nat) : Nat := s.fld .flowState f 0x10 0 32

/-- A flow is VALID; a DISABLED one is not (R319). -/
def State.flowValid (s : State) (f : Nat) : Bool := s.fld .flowCfg f 0 0 1 == 1 && s.flowSt f != 0

/-- A flow takes a state and a cause, which is traced (R488). -/
def Act.flowState (f st cause : Nat) : Act :=
  .all [.fld .flowState f 0 0 2 st, .fld .flowState f 0 8 4 cause,
    .get fun s => .trace 4 0 (s.flowCtx f) (f + st * 2 ^ 16 + cause * 2 ^ 24) (s.flowPeer f)]

/-- Flows whose FLOW_CFG has been written. -/
def State.flowList (s : State) : List Nat :=
  s.regs.filterMap fun p => if EName.flowCfg.key 0 ≤ p.1 ∧ p.1 < EName.flowCfg.key 0 + 8192 then some (p.1 - EName.flowCfg.key 0) else none

/-- Flows of a context. -/
def State.flowsOfCtx (s : State) (ctx : Nat) : List Nat := s.flowList.filter fun f => s.flowCtx f == ctx

/-- Flows in force that join to a flow of a peer: who a message on VC 0 is for (R306, R307). -/
def State.flowsTo (s : State) (src srcFlow : Nat) : List Nat :=
  s.flowList.filter fun f => s.flowValid f && s.flowPeer f == src && s.flowPeerFlow f == srcFlow

/-! ### Sending (R306, R309 to R311) -/

/-- A message of a flow as it goes to the peer. -/
def State.flowMsg (s : State) (f : Nat) (m : Msg) : Msg :=
  { m with
    dest := BitVec.ofNat 16 (s.flowPeer f)
    destFlow := BitVec.ofNat 13 (if m.type = 0x0D ∨ m.type = 0x0E then 0 else s.flowPeerFlow f)
    srcFlow := BitVec.ofNat 13 f
    gen := BitVec.ofNat 8 (s.flowGen f) }

/-- A message of a flow is sent. -/
def Act.sendOn (f : Nat) (m : Msg) : Act :=
  .get fun s => .sendMsg (vcOf (s.flowClass f) m.type.toNat) (s.flowMsg f m)

/-- OPEN goes out with this flow's GEN (R306). -/
def Act.sendOpen (f : Nat) : Act := .get fun s => .sendOn f { type := 0x0D, aux := BitVec.ofNat 64 (s.flowGen f) }

/-- FLOW_ABORT goes out with a cause (R312). -/
def Act.sendAbort (f cause : Nat) : Act :=
  .seq (.sendOn f { type := 0x0E, aux := BitVec.ofNat 64 cause }) (.count .transportCount 0 3)

/-- Waiting messages of an OPEN flow are sent while fewer than 256 are unacknowledged (R309); none of a context that is torn down
(R392). -/
def Act.flowPump (f : Nat) : Nat → Act
  | 0 => .skip
  | fuel + 1 => .get fun s =>
    match (s.flow f).sendq with
    | x :: r =>
      if s.flowSt f ≠ 2 ∨ 256 ≤ (s.flow f).unacked.length ∨ s.ctxState (s.flowCtx f) ≠ 1 then .skip else
      let m := { x.m with fseq := BitVec.ofNat 32 (s.sendNext f) }
      .all [.flow f fun g => { g with sendq := r, unacked := g.unacked ++ [{ x with m := m }] },
        .fld .flowState f 8 0 32 (s.sendNext f + 1), .sendOn f m, Act.flowPump f fuel]
    | [] => .skip

/-- Messages a flow may send in one run. -/
def flowFuel : Nat := 256

/-- Sequenced messages join a flow for their command. -/
def Act.flowSend (f : Nat) (owner : Option (Nat × Nat)) (ms : List Msg) : Act :=
  .seq (.flow f fun g => { g with sendq := g.sendq ++ ms.map fun m => { m := m, owner := owner } }) (.flowPump f flowFuel)

/-- A command's messages on a flow are not all acknowledged, or responses are due (R311). -/
def State.owes (s : State) (f : Nat) (m : Cmd) : Bool :=
  let g := s.flow f
  g.unacked.any (fun x => x.owner == some (m.q, m.idx)) || g.sendq.any (fun x => x.owner == some (m.q, m.idx)) ||
    g.awaits.any fun a => a.q == m.q && a.idx == m.idx

/-- Commands that wait on a flow, by queue and index. -/
def Flow.owners (g : Flow) : List (Nat × Nat) :=
  ((g.unacked ++ g.sendq).filterMap Sent.owner ++ g.awaits.map fun a => (a.q, a.idx)).eraseDups

/-- Data cut into messages of 4,048 bytes: offset and bytes of each (R317). -/
def cutData : Nat → Nat → PBytes → List (Nat × PBytes)
  | 0, _, _ => []
  | k + 1, off, bs => if bs.isEmpty then [] else (off, bs.take 4048) :: cutData k (off + 4048) (bs.drop 4048)

/-- All messages of some data. -/
def dataMsgs (type addr : Nat) (aux : Nat → Nat) (addrOf : Nat → Nat) (notice : Bool) (bs : PBytes) : List Msg :=
  let cs := cutData (bs.length / 4048 + 1) 0 bs
  cs.zipIdx.map fun p => {
    type := BitVec.ofNat 5 type
    addr := BitVec.ofNat 48 (addr + addrOf p.1.1)
    aux := BitVec.ofNat 64 (aux p.1.1)
    data := p.1.2
    notice := notice && p.2 + 1 == cs.length }

/-! ### A flow ends (R312) -/

/-- What a flow still holds is dropped; times stay (R306, R312). -/
def Flow.dropped (g : Flow) : Flow := { validAt := g.validAt, abortAt := g.abortAt }

/-- A flow enters FAILED: the epoch rises, what it holds is dropped, and the commands that waited on it are handed on
(R312, R316). -/
def Act.flowFail (f cause : Nat) (k : List (Nat × Nat) → Act) : Act :=
  .get fun s => .when (s.flowSt f == 1 || s.flowSt f == 2) (.all [
    .flowState f 3 cause, .fld .flowState f 0x10 32 9 0, .flow f Flow.dropped, .epochUp, k (s.flow f).owners])

/-- A flow becomes DISABLED (R392, R482). -/
def Act.flowDisable (f : Nat) : Act :=
  .get fun s => .when (s.flowSt f != 0) (.all [.flowState f 0 0, .fld .flowState f 0x10 32 9 0, .flow f Flow.dropped])

/-! ### Acknowledgement (R310, R313) -/

/-- A fault of a delivered message as the data of an ACK: its FSEQ, status and reason, and the address (R313; log entry 29). -/
def faultData : Option (Nat × Nat × Nat × Nat) → PBytes
  | some (fseq, st, r, a) => cleanBytes 8 (fseq % 2 ^ 32 + st % 256 * 2 ^ 32 + r % 256 * 2 ^ 40) ++ cleanBytes 8 (a % 2 ^ 48)
  | none => []

/-- The fault that an ACK carries. -/
def faultOf (bs : PBytes) : Option (Nat × Nat × Nat × Nat) :=
  let w := leNat (dataOf (bs.take 8))
  if bs.length < 16 then none else some (bits w 0 32, bits w 32 8, bits w 40 8, leNat (dataOf ((bs.drop 8).take 6)))

/-- A cumulative ACK goes out, with the fault that the flow has to tell (R310, R313). -/
def Act.sendAck (f : Nat) : Act :=
  .get fun s => .seq (.sendOn f { type := 5, fseq := BitVec.ofNat 32 (s.recvNext f), data := faultData (s.flow f).fault })
    (.flow f fun g => { g with ackDue := 0 })

/-- A NACK goes out for the gap below the oldest message held (R310). -/
def Act.sendNack (f : Nat) : Act :=
  .get fun s =>
    match ((s.flow f).held.map fun m => dist32 (s.recvNext f) m.fseq.toNat).min? with
    | some d =>
      let m : Msg := { type := 6, fseq := BitVec.ofNat 32 (s.recvNext f), aux := BitVec.ofNat 64 (idx32 (s.recvNext f + d - 1)) }
      .when (d != 0) (.sendOn f m)
    | none => .skip

/-! ### The effect of a message (R311, R313, R314, R317, R318) -/

/-- What applying a message comes to: done with the commands it may let go on, not possible yet, or a fault to tell the
sender: status, reason, address. -/
inductive Applied where
  | done (wake : List (Nat × Nat))
  | notYet
  | fault (status reason addr : Nat)

/-- A fault in the receiving context's address space, as its sender will see it (R313). -/
def Flt.remote : Flt → Applied
  | .xl r a => .fault 4 r a
  | .bank a => .fault 3 0x27 a

/-- A message's memory requests do not go through: it waits, its requests standing in a crossing once where a loop-back holds them (R261,
R277, R280). -/
def Act.memWaits (f ctx : Nat) (l : List (MemSel × Nat × Nat)) (k : Applied → Act) : Act :=
  .get fun s => .all [.when (!(s.flow f).memWait) (.memHeld l), .flow f fun g => { g with memWait := s.loopback },
    .memWait ctx (2048 + f) (s.recvNext f) l, k .notYet]

/-- A message reaches a range of the receiving context's memory: its places once the memory's requests go through, charged to the
context's partition (R276, R277, R280), or the fault its sender is told. -/
def Act.reach (f addr n : Nat) (wr : Bool) (k : Applied → Act) (a : List (MemSel × Nat × Nat) → Act) : Act :=
  .get fun s =>
    let ctx := s.flowCtx f
    .seq (.noteWalks ctx addr n) (match s.span ctx addr n wr with
      | .error e => k e.remote
      | .ok l => if s.memGoes ctx l then .seq (.charge ctx l) (a l) else .memWaits f ctx l k)

/-- A PUT is written in the receiving context's space (R311, R313). -/
def Act.applyPut (f : Nat) (m : Msg) (k : Applied → Act) : Act :=
  .reach f m.addr.toNat m.data.length true k fun l => .get fun s =>
    .all [.wrSpan l m.data, .noteOut (s.flowCtx f) l m.data, k (.done [])]

/-- The response channel of the port toward a flow's peer has a credit and nothing that waits for one (R299). -/
def State.responseGoes (s : State) (f : Nat) : Bool :=
  match s.hop none { dest := BitVec.ofNat 16 (s.flowPeer f) } with
  | .out p _ _ => ((s.port p).first 2).isNone && tgetD (s.port p).cred (vcKey 2 (s.poolB none p)) 0 != 0
  | _ => true

/-- A GET_REQ is answered with GET_RESP messages on the paired flow (R317); it waits for a response credit (R299). -/
def Act.applyGet (f : Nat) (m : Msg) (k : Applied → Act) : Act :=
  .get fun s => if !s.responseGoes f then k .notYet else
    .reach f m.addr.toNat m.aux.toNat false k fun l => .get fun s =>
      .all [.noteSpan (s.flowCtx f) l, .flowSend f none (dataMsgs 2 m.addr.toNat id (fun _ => 0) false (s.rdSpan l)), k (.done [])]

/-- An ATOMIC_ADD is applied and its old value returned, poisoned where the granule was; a U64 add wraps, an FP32 add rounds to nearest
even (R273, R318). It waits for a response credit (R299). -/
def Act.applyAtomic (f : Nat) (m : Msg) (k : Applied → Act) : Act :=
  .get fun s => if !s.responseGoes f then k .notYet else
    let n := if m.op = 1 then 4 else 8
    .reach f m.addr.toNat n true k fun l => .get fun s =>
      let bs := s.rdSpan l
      let old := leNat (dataOf bs)
      let new := if m.op = 1 then fAdd old (m.aux.toNat % 2 ^ 32) else (old + m.aux.toNat) % 2 ^ 64
      .all [.noteSpan (s.flowCtx f) l, .wrSpan l ((leBytes n new).map fun b => (b, anyPoison bs)),
        .flowSend f none [{ type := 4, addr := m.addr, aux := BitVec.ofNat 64 old, op := m.op, auxPoison := anyPoison bs }], k (.done [])]

/-- A command of this device faults while its data arrives (R313, R392). -/
def Act.awaitFault (a : Await) (e : Flt) : Act :=
  .get fun s => match (s.stream a.q).fly.find? fun x => x.idx == a.idx with
    | some x => .fltFault a.q a.idx x.d e
    | none => .skip

/-- The data of a response goes where its command wants it, charged to the command's context (R276). -/
def Act.awaitWrite (a : Await) (off : Nat) (bs : PBytes) (k : Act) : Act :=
  if a.scr then .seq (.wrScr a.core (a.addr + off) bs) k
  else .seq (.chargeAt a.ctx (a.addr + off) bs.length true) (.wrCtx a.ctx (a.addr + off) bs fun
    | none => k
    | some e => .awaitFault a e)

/-- The places in memory that a response's data goes to, as far as they are translated. -/
def State.awaitPlaces (s : State) (a : Await) (off n : Nat) : List (MemSel × Nat × Nat) :=
  if a.scr then [] else match s.span a.ctx (a.addr + off) n true with | .ok l => l | .error _ => []

/-- The memory that a response's data goes to takes its requests (R277, R280). -/
def State.awaitGoes (s : State) (a : Await) (off n : Nat) : Bool := s.memGoes a.ctx (s.awaitPlaces a off n)

/-- A command has written poisoned data (R145). -/
def Act.cmdPoison (q idx : Nat) : Act :=
  .core fun c => { c with engQ := c.engQ.map fun p => (p.1, p.2.map fun m => if m.q = q ∧ m.idx = idx then { m with poison := true } else m) }

/-- A response is delivered to the oldest request that waits for its kind (R311, R317, R318). -/
def Act.applyResp (f : Nat) (atomic : Bool) (m : Msg) (k : Applied → Act) : Act :=
  .get fun s =>
    let g := s.flow f
    match g.awaits.find? fun a => a.atomic == atomic with
    | none => k (.done [])
    | some a =>
      let bs := if atomic then (leBytes a.len m.aux.toNat).map fun b => (b, m.auxPoison) else m.data
      let a' := { a with got := a.got + bs.length }
      let rest := g.awaits.erase a
      let off := if atomic then 0 else m.aux.toNat
      if !s.awaitGoes a off bs.length then .memWaits f a.ctx (s.awaitPlaces a off bs.length) k
      else .all [.awaitWrite a off bs (.when (anyPoison bs) (.cmdPoison a.q a.idx)),
        .flow f fun g => { g with awaits := if a.len ≤ a'.got then rest else g.awaits.map fun x => if x = a then a' else x },
        k (.done [(a.q, a.idx)])]

/-- The mark of the crossing that a context's gate is: the physical gate of the slot it holds, or none while its gates are saved (R31,
R111). -/
def State.gateMark (s : State) (core ctx g : Nat) : Option Nat := (s.slotOf core ctx).map fun k => stallGate core (8 * k + g)

/-- One unit is posted on the gate of a flow's notice (R314); a notice that waits for a credit counts as exhaustion of the gate (R31). -/
def Act.notice (f : Nat) (k : Bool → Act) : Act :=
  .get fun s =>
    let core := s.fld .flowCfg f 8 0 8
    let g := s.fld .flowCfg f 8 8 3
    let ctx := s.flowCtx f
    let mark (a : Nat → Act) : Act := match s.gateMark core ctx g with | some x => a x | none => .skip
    if (s.gate core ctx g).credits = 0 then .seq (mark .stallBegin) (k false)
    else .all [mark .stallEnd,
      .gate core ctx g fun x => { x with credits := x.credits - 1, filled := x.filled + 1 }, k true]

/-- Bytes a held message takes in the reorder pool (log entry 100). -/
def heldBytes (m : Msg) : Nat := 32 + m.data.length

/-- Bytes of the reorder pool in use (R309): a message that is applied and waits for its notice alone takes none. -/
def State.poolUsed (s : State) : Nat :=
  ((s.u.flows.flatMap fun p => p.2.held.filter fun m => !(p.2.noticeWait && m.fseq.toNat == s.recvNext p.1)).map heldBytes).foldl (· + ·) 0

/-- FLOW_STATE shows how many messages are held, at most 255, and the pool's high-water mark follows (R332, R335; log entry 100). -/
def Act.heldShow (f : Nat) : Act :=
  .get fun s => .seq (.fld .flowState f 0x10 32 9 (min (s.flow f).held.length 255))
    (.fld .transportCount 0 40 0 64 (max s.poolUsed (s.cnt .transportCount 0 5)))

/-- The oldest held message leaves the flow: delivered (R309 to R311). The first fault at this end goes with every ACK from then on, until
the flow ends: an ACK may be lost, and the fault ends the context that sends on the flow (R313). -/
def Act.delivered (f : Nat) (m : Msg) (fault : Option (Nat × Nat × Nat)) : Act :=
  .all [
    .flow f fun g => { g with
      fault := g.fault.or (fault.map fun x => (m.fseq.toNat, x))
      held := g.held.erase m, noticeWait := false, memWait := false, ackDue := g.ackDue + 1 },
    .get fun s => .fld .flowState f 0x10 0 32 (s.recvNext f + 1), .heldShow f,
    .get fun s => .when (fault.isSome || 32 ≤ (s.flow f).ackDue) (.sendAck f)]

/-- Messages are delivered in sequence until one is missing or has to wait; `ext` applies the types other chapters define
(R309, R311, R314). -/
def Act.deliver (ext : Nat → Msg → (Applied → Act) → Act) (f : Nat) : Nat → List (Nat × Nat) → (List (Nat × Nat) → Act) → Act
  | 0, w, k => k w
  | fuel + 1, w, k => .get fun s =>
    let g := s.flow f
    match g.held.find? fun m => m.fseq.toNat == s.recvNext f with
    | none => k w
    | some m =>
      let go (w : List (Nat × Nat)) : Act := .seq (.delivered f m none) (Act.deliver ext f fuel w k)
      let post (w : List (Nat × Nat)) : Act :=
        if m.notice && s.fld .flowCfg f 8 11 1 == 1 then
          .notice f fun ok => if ok then go w else .seq (.flow f fun g => { g with noticeWait := true }) (k w)
        else go w
      let next : Applied → Act := fun
        | .done l => post (w ++ l)
        | .notYet => k w
        | .fault st r a => .seq (.delivered f m (some (st, r, a)))
            (Act.deliver ext f fuel w k)
      if s.flowSt f ≠ 2 then k w
      else if g.noticeWait then post w
      else match m.type.toNat with
        | 0 => .applyPut f m next
        | 1 => .applyGet f m next
        | 2 => .applyResp f false m next
        | 3 => .applyAtomic f m next
        | 4 => .applyResp f true m next
        | 7 => next (.done [])
        | _ => ext f m next

/-- Deliveries one run may make. -/
def deliverFuel : Nat := 512

end Sys2Proof.Machine
end

