-- ==== Sys2Proof/Machine/Coll.lean ====
section
/-! DEFINITION. Collectives and late-bound reduces (R252 to R258, R320 to R324, R336): the ring and direct algorithms, staging,
deadlines, folding, status records, and the entries of groups and streams. -/

namespace Sys2Proof.Machine

/-! ### Groups (R320, R324, R336) -/

def State.cgP (s : State) (g : Nat) : Nat := s.fld .collGroup g 0 18 8 + 1
def State.cgSelf (s : State) (g : Nat) : Nat := s.fld .collGroup g 0 32 8
def State.cgBase (s : State) (g : Nat) : Nat := s.fld .collGroup g 0 40 13
def State.cgCtx (s : State) (g : Nat) : Nat := s.fld .collGroup g 0 8 10

/-- Members other than this device. -/
def State.others (s : State) (g : Nat) : List Nat := (List.range (s.cgP g)).filter fun m => m != s.cgSelf g

/-! ### Payload (R321, R322) -/

def coOp (d : Desc) : Nat := dfld d 0x10 0 3
def coDirect (d : Desc) : Bool := dfld d 0x10 3 1 == 1
def coIn (d : Desc) : DFmt := (dfmt (dfld d 0x10 4 4)).getD .fp32
def coOut (d : Desc) : DFmt := (dfmt (dfld d 0x10 8 4)).getD .fp32
def coWire (d : Desc) : DFmt := if dfld d 0x10 12 1 = 1 then .fp32 else .w40
def coMon (d : Desc) : Option Nat := if dfld d 0x10 13 1 = 1 then some (dfld d 0x10 16 14) else none
def coGroup (d : Desc) : Nat := dfld d 0x10 32 6
def coStream (d : Desc) : Nat := dfld d 0x10 40 6
def coN (d : Desc) : Nat := dfld d 0x38 0 32
def coLbr (d : Desc) : Bool := coOp d == 3 || coOp d == 4

/-- The command ends with every part in place (R322). -/
def coGathers (d : Desc) : Bool := coOp d == 0 || coOp d == 2 || coOp d == 4

def coPayload (d : Desc) : Bool :=
  zeroBits (Desc.w d 2) [(14, 2), (30, 2), (38, 2), (46, 18)] && ([3, 4, 5, 6].all fun k => zeroBits (Desc.w d k) [(48, 16)]) &&
    zeroBits (Desc.w d 7) [(32, 32)]

/-- Elements of a full part, and of part `j` (R322). -/
def partL (n p : Nat) : Nat := cdiv n p
def partLen (n p j : Nat) : Nat := min n ((j + 1) * partL n p) - j * partL n p

/-- Dispatch checks: any breach of R321, R323 or R324 (R319). -/
def coCheck (s : State) (_ ctx : Nat) (d : Desc) : Option Nat :=
  let g := coGroup d
  let p := s.cgP g
  let st := coStream d
  let half (c : Nat) : Bool := c == 6 || c == 8 || c == 9
  let lbrBad := coLbr d && (s.fld .lbrStream st 0 0 1 == 0 || s.fld .lbrStream st 0 8 10 != ctx ||
    s.fld .lbrStream st 0 18 8 + 1 != p || s.fld .lbrStream st 8 0 8 != s.cgSelf g ||
    s.fld .lbrStream st 0x18 0 48 / 8 < partL (coN d) p)
  if 5 ≤ coOp d || (coLbr d && !coDirect d) || !half (dfld d 0x10 4 4) || !half (dfld d 0x10 8 4) || coN d == 0 ||
      s.fld .collGroup g 0 0 1 == 0 || s.cgCtx g != ctx ||
      (s.others g).any (fun m => !s.flowValid (s.cgBase g + m) || s.flowClass (s.cgBase g + m) != 3 ||
        s.flowCtx (s.cgBase g + m) != ctx || s.flowPeer (s.cgBase g + m) != s.fld .collGroup g (0x10 + 2 * m) 0 16) ||
      (coDirect d && dfld d 0x28 0 48 == 0) || lbrBad then some 0x29 else none

def coRules : OpRules := ⟨coPayload, coMon, coCheck⟩

/-- The places a collective reaches: its input, its output, and with DIRECT its staging area (R277, R280). -/
def State.coPlaces (s : State) (ctx : Nat) (d : Desc) : List (MemSel × Nat × Nat) :=
  let at_ (a n : Nat) (wr : Bool) : List (MemSel × Nat × Nat) := match s.span ctx a n wr with | .ok l => l | .error _ => []
  let p := s.cgP (coGroup d)
  let wIn := (coIn d).ebits / 8
  let wOut := (coOut d).ebits / 8
  at_ (dfld d 0x18 0 48) ((if coOp d = 2 then partL (coN d) p else coN d) * wIn) false ++
    at_ (dfld d 0x20 0 48) ((if coGathers d then coN d else partL (coN d) p) * wOut) true ++
    (if coDirect d && coOp d != 2 then at_ (dfld d 0x28 0 48) (p * partL (coN d) p * wIn) true else [])

/-! ### Records of collectives under way -/

/-- The collective of a command. -/
def State.coll (s : State) (q idx : Nat) : Option Coll := s.u.colls.find? fun c => c.q == q && c.idx == idx

/-- A collective changes. -/
def Act.coll (q idx : Nat) (f : Coll → Coll) : Act :=
  .units fun u => { u with colls := u.colls.map fun c => if c.q = q ∧ c.idx = idx then f c else c }

/-- Dispatch gives a collective its number in the group (R320). -/
def Act.collNew (m : Cmd) : Act :=
  .units fun u =>
    let g := coGroup m.d
    let n := tgetD u.collNum g 0
    { u with
      collNum := tset u.collNum g (n + 1)
      colls := u.colls ++ [{ q := m.q, idx := m.idx, core := m.core, ctx := m.ctx, d := m.d, num := n }] }

/-- A collective ends. -/
def Act.collEnd (q idx : Nat) : Act := .units fun u => { u with colls := u.colls.filter fun c => !(c.q == q && c.idx == idx) }

/-- Bytes of a collective go to a member as COLL messages (R308, R320). -/
def Act.collSend (c : Coll) (m : Nat) (bs : PBytes) : Act :=
  .get fun s =>
    let g := coGroup c.d
    .flowSend (s.cgBase g + m) (some (c.q, c.idx))
      (dataMsgs 8 0 (fun _ => g + s.cgSelf g * 2 ^ 8 + c.num * 2 ^ 16) id false bs)

/-- Input elements of part `j`, as W40 codes with poison (R320). -/
def w40s (f : DFmt) (n : Nat) (bs : PBytes) : List (Nat × Bool) := (valsOf f n bs []).map fun v => (w40.arith v.1, v.2)

/-- Sums of two lists by R54, poison kept (R93). -/
def addLists (a b : List (Nat × Bool)) : List (Nat × Bool) := (a.zip b).map fun p => (w40Add p.1.1 p.2.1, p.1.2 || p.2.2)

/-- W40 values in a format. -/
def outOf (f : DFmt) (vs : List (Nat × Bool)) : RowOut := writeVals f false (vs.map fun v => (w40.val v.1, v.2))

/-- Bytes that a collective reads, charged to its context's partition (R276); nothing more happens where it faults or has ended. -/
def Act.collRead (c : Coll) (dva n : Nat) (k : PBytes → Act) : Act :=
  .get fun s => .when (s.ctxState c.ctx == 1) (.seq (.chargeAt c.ctx dva n false) (.rdCtx c.ctx dva n fun
    | .error e => .fltFault c.q c.idx c.d e
    | .ok bs => k bs))

/-- Bytes that a collective writes, charged in the same way. -/
def Act.collStore (c : Coll) (dva : Nat) (bs : PBytes) (k : Act) : Act :=
  .get fun s => .when (s.ctxState c.ctx == 1) (.seq (.chargeAt c.ctx dva bs.length true) (.wrCtx c.ctx dva bs fun
    | some e => .fltFault c.q c.idx c.d e
    | none => k))

/-- The bytes of part `j` of the input. -/
def Act.collInput (c : Coll) (j : Nat) (k : PBytes → Act) : Act :=
  .get fun s =>
    let p := s.cgP (coGroup c.d)
    let w := (coIn c.d).ebits / 8
    .collRead c (dfld c.d 0x18 0 48 + j * partL (coN c.d) p * w) (partLen (coN c.d) p j * w) k

/-- Elements of a part are written to the output, counted, and the part is in place (R322). -/
def Act.collWrite (c : Coll) (j : Nat) (bs : PBytes) (mon : MonDelta) (k : Act) : Act :=
  .get fun s =>
    let p := s.cgP (coGroup c.d)
    let off := if coGathers c.d then j * partL (coN c.d) p * ((coOut c.d).ebits / 8) else 0
    .collStore c (dfld c.d 0x20 0 48 + off) bs
      (.all [.coll c.q c.idx fun x => { x with parts := sadd x.parts j, mon := x.mon.add mon, poison := x.poison || anyPoison bs },
        .when (anyPoison bs) (.cmdPoison c.q c.idx), k])

/-- A member's contribution to this device's part is stored in the member's staging slot, and kept (R322). Nothing is stored for a command
that has ended (log entry 113). -/
def Act.collStage (c : Coll) (m : Nat) (bs : PBytes) (k : Act) : Act :=
  .get fun s =>
    let keep : Act := .seq (.coll c.q c.idx fun x => { x with contrib := tset x.contrib m bs }) k
    if c.orphan then keep
    else .collStore c (dfld c.d 0x28 0 48 + m * partL (coN c.d) (s.cgP (coGroup c.d)) * ((coIn c.d).ebits / 8)) bs keep

/-- This device's own part is reduced: converted, written, and sent on where the operation gathers (R322). -/
def Act.collReduced (c : Coll) (vs : List (Nat × Bool)) : Act :=
  .get fun s =>
    let g := coGroup c.d
    let o := outOf (coOut c.d) vs
    .collWrite c (s.cgSelf g) o.elems o.mon (.seq (.coll c.q c.idx fun x => { x with reduced := true })
      (.when (coGathers c.d) (
        if coDirect c.d then .each (s.others g) fun m => .collSend c m o.elems
        else .collSend c ((s.cgSelf g + 1) % s.cgP g) o.elems)))

/-- Bytes that a member has sent and nobody has used. -/
def Coll.from_ (c : Coll) (m : Nat) : PBytes := tgetD c.rx m []

/-- A number of bytes of a member are used. -/
def Coll.used (c : Coll) (m n : Nat) : Coll := { c with rx := tset c.rx m ((c.from_ m).drop n) }

/-! ### RING (R322) -/

/-- One reception of the ring, if the neighbour's bytes are there: a partial sum to add to and pass on, or a finished part
to write and pass on. -/
def Act.ringStep (c : Coll) (again : Act) : Act :=
  .get fun s =>
    let g := coGroup c.d
    let p := s.cgP g
    let me := s.cgSelf g
    let prev := (me + p - 1) % p
    let next := (me + 1) % p
    let reduces := coOp c.d != 2
    let t := c.step + 1
    if reduces && t < p then
      let j := (me + 2 * p - 1 - t) % p
      let need := partLen (coN c.d) p j * ((coWire c.d).ebits / 8)
      .when (need ≤ (c.from_ prev).length) (.collInput c j fun own =>
        let sum := addLists (w40s (coWire c.d) (partLen (coN c.d) p j) ((c.from_ prev).take need)) (w40s (coIn c.d) (partLen (coN c.d) p j) own)
        .all [.coll c.q c.idx fun x => { x.used prev need with step := t },
          if t + 1 < p then .collSend c next (outOf (coWire c.d) sum).elems else .collReduced c sum, again])
    else
      let t' := if reduces then t - (p - 1) else t
      let j := (me + p - t' % p) % p
      let need := partLen (coN c.d) p j * ((coOut c.d).ebits / 8)
      .when (coGathers c.d && t' < p && need ≤ (c.from_ prev).length) (
        let bs := (c.from_ prev).take need
        .all [.coll c.q c.idx fun x => { x.used prev need with step := t },
          .collWrite c j bs (countCopied (coOut c.d) (partLen (coN c.d) p j) bs []) (.when (t' + 1 < p) (.collSend c next bs)), again])

/-! ### DIRECT (R322) -/

/-- A contribution that has come in whole is kept by its member, in staging slot and here. -/
def Act.takeContrib (c : Coll) (m need : Nat) : Act :=
  .collStage c m ((c.from_ m).take need) (.coll c.q c.idx fun x => x.used m need)

/-- The sum of contributions in increasing member number (R322). -/
def sumContrib (f : DFmt) (n : Nat) (l : List PBytes) : List (Nat × Bool) :=
  match l with
  | [] => []
  | x :: r => r.foldl (fun acc b => addLists acc (w40s f n b)) (w40s f n x)

/-- One step of DIRECT: a contribution taken, the own part reduced, or a part written; none where nothing is due. -/
def State.directDue (s : State) (c : Coll) : Option Act :=
  let g := coGroup c.d
  let p := s.cgP g
  let me := s.cgSelf g
  let n := partLen (coN c.d) p me
  let need := n * ((coIn c.d).ebits / 8)
  let reduces := coOp c.d ≤ 1
  let lacks (m : Nat) : Bool := (tget c.contrib m).isNone
  match (s.others g).find? fun m => reduces && lacks m && need ≤ (c.from_ m).length with
  | some m => some (.takeContrib c m need)
  | none =>
    if reduces && !c.reduced && !(s.others g).any lacks then some (.collReduced c (sumContrib (coIn c.d) n (c.contrib.map Prod.snd)))
    else
      let size (m : Nat) : Nat := partLen (coN c.d) p m * ((coOut c.d).ebits / 8)
      match (s.others g).find? fun m => coGathers c.d && !c.parts.contains m && (!reduces || !lacks m) && size m ≤ (c.from_ m).length with
      | some m => some (.seq (.coll c.q c.idx fun x => x.used m (size m))
          (.collWrite c m ((c.from_ m).take (size m)) (countCopied (coOut c.d) (partLen (coN c.d) p m) ((c.from_ m).take (size m)) []) .skip))
      | none => none

/-- A collective goes as far as the bytes it has allow. -/
def Act.collTry (q idx : Nat) : Nat → Act
  | 0 => .skip
  | fuel + 1 => .get fun s =>
    match s.coll q idx with
    | none => .skip
    | some c =>
      if !c.started then .skip
      else if coDirect c.d then match s.directDue c with
        | some a => .seq a (Act.collTry q idx fuel)
        | none => .skip
      else .ringStep c (Act.collTry q idx fuel)

/-- Steps of a collective in one run: more than its members and parts. -/
def collFuel : Nat := 2048

/-- The collective has all it gives (R322, R323). -/
def State.collDone (s : State) (c : Coll) : Bool :=
  let g := coGroup c.d
  if coGathers c.d then (List.range (s.cgP g)).all fun j => c.parts.contains j || partLen (coN c.d) (s.cgP g) j == 0
  else c.parts.contains (s.cgSelf g)

/-! ### Late-bound reduce (R252 to R257, R323) -/

/-- A stream. -/
def State.lbr (s : State) (st : Nat) : Lbr := tgetD s.u.lbr st {}
def Act.lbr (st : Nat) (f : Lbr → Lbr) : Act := .units fun u => { u with lbr := tmod u.lbr st {} f }

def State.lbrMin (s : State) (st : Nat) : Nat := s.fld .lbrStream st 8 8 8 + 1
def State.lbrP (s : State) (st : Nat) : Nat := s.fld .lbrStream st 0 18 8 + 1
def State.lbrCtx (s : State) (st : Nat) : Nat := s.fld .lbrStream st 0 8 10

/-- A contribution that came late counts for its participant: folded or dropped (R253). -/
def Act.lateCount (st p : Nat) (dropped : Bool) : Act := .countFld .lbrCount st (32 + 8 * p + 4 * b2n dropped) 0 32

/-- Containers of the fold buffer as W40 values, charged to the partition of the stream's context (R276). -/
def Act.foldRead (st n : Nat) (k : List (Nat × Bool) → Act) : Act :=
  .get fun s =>
    let a := s.fld .lbrStream st 0x10 0 48
    .seq (.chargeAt (s.lbrCtx st) a (8 * n) false) (.rdCtx (s.lbrCtx st) a (8 * n) fun
      | .error e => .ownFault (s.lbrCtx st) 7 e
      | .ok bs => k (w40s .w40 n bs))

/-- The fold buffer takes values, charged in the same way. -/
def Act.foldWrite (st : Nat) (vs : List (Nat × Bool)) : Act :=
  .get fun s =>
    let a := s.fld .lbrStream st 0x10 0 48
    .seq (.chargeAt (s.lbrCtx st) a (8 * vs.length) true) (.wrOwn (s.lbrCtx st) 7 a (vs.flatMap containerBytes))

/-- The whole fold buffer is cleared to +0 (R254, R256). -/
def Act.foldClear (st : Nat) : Act := .get fun s => .foldWrite st (List.replicate (s.fld .lbrStream st 0x18 0 48 / 8) (0, false))

/-- Bits of members in four words of a status record. -/
def maskWords (ms : List Nat) : List Nat :=
  (List.range 4).map fun w => (ms.filter fun m => m / 64 == w).foldl (fun acc m => acc ||| 2 ^ (m % 64)) 0

/-- The words of a status record (R255). -/
def lbrWords (st k time : Nat) (onTime folded : List Nat) (quorum poison : Bool) : List Nat :=
  [st + onTime.length * 2 ^ 16 + folded.length * 2 ^ 32 + b2n quorum * 2 ^ 48 + b2n poison * 2 ^ 49, k % 2 ^ 64, time % 2 ^ 64, 0] ++
    maskWords onTime ++ maskWords folded ++ [0, 0, 0, 0]

/-- Bytes of late contributions that nobody can use any more are dropped and counted (R253). -/
def Act.lateSweep (st k : Nat) : Act :=
  .get fun s =>
    let old := (s.lbr st).rx.filter fun x => x.2.1 + 1 < k + 1
    .seq (.each old fun x => .lateCount st x.1 true) (.lbr st fun l => { l with rx := l.rx.filter fun x => !(x.2.1 + 1 < k + 1) })

/-- The key that an open reduction of a stream has once its command has ended. -/
def orphanKey (st : Nat) : Nat := 65536 + st

/-- A late-bound reduce ends ABORTED: its reduction stays open without it until one of the moments of R252 (R312; log entry 113). -/
def Act.collAbort (m : Cmd) : Act :=
  .get fun s =>
    let st := coStream m.d
    let l := s.lbr st
    if coLbr m.d && l.isOpen && l.q == m.q && l.idx == m.idx then
      .seq (.coll m.q m.idx fun c => { c with q := orphanKey st, idx := 0, orphan := true })
        (.lbr st fun l => { l with q := orphanKey st, idx := 0 })
    else .collEnd m.q m.idx

/-- The open reduction of a stream closes: the on-time contributions are added in member order, the fold buffer's sum
last; counters, status record, result (R252, R254, R255). A reduction whose command has ended writes neither record nor result. -/
def Act.lbrClose (st : Nat) (quorum : Bool) : Act :=
  .get fun s =>
    let l := s.lbr st
    match s.coll l.q l.idx with
    | none => .lbr st fun l => { l with isOpen := false }
    | some c =>
      let me := s.cgSelf (coGroup c.d)
      let n := partLen (coN c.d) (s.cgP (coGroup c.d)) me
      let k := l.next - 1
      let onTime := c.contrib.map Prod.fst
      let sum := sumContrib (coIn c.d) n (c.contrib.map Prod.snd)
      let finish (vs : List (Nat × Bool)) : Act := .all [
        .lbr st fun l => { l with isOpen := false, late := false, folded := [], elems := n, fmt := dfld c.d 0x10 4 4 },
        .lateSweep st k, .count .lbrCount st 0,
        .when (onTime.length == s.lbrP st) (.count .lbrCount st 1), .when quorum (.count .lbrCount st 2),
        if c.orphan then .collEnd c.q c.idx else .seq
          (.wrOwn c.ctx 7 (dfld c.d 0x30 0 48) (wordBytes (lbrWords st k s.now onTime l.folded quorum (vs.any Prod.snd))))
          (.get fun s => .when (s.ctxState c.ctx == 1) (.collReduced c vs))]
      if l.folded.isEmpty then finish sum
      else .foldRead st n fun f => .all [.foldClear st, .count .lbrCount st 3, finish (addLists sum f)]

/-- A contribution of the open reduction is whole: staged, and the reduction closes where its rule says so (R252). -/
def Act.lbrArrived (st p : Nat) (bs : PBytes) : Act :=
  .get fun s =>
    let l := s.lbr st
    match s.coll l.q l.idx with
    | none => .skip
    | some c =>
      .collStage c p bs (.get fun s =>
        let n := (c.contrib.filter fun x => x.1 != p).length + 1
        if n = s.lbrP st then .lbrClose st l.late
        else if l.late ∧ s.lbrMin st ≤ n then .lbrClose st true else .skip)

/-- A late contribution is whole: folded into the buffer, or dropped (R253). -/
def Act.lbrFold (st p : Nat) (bs : PBytes) : Act :=
  .get fun s =>
    if s.fld .lbrStream st 0 1 1 = 1 then .lateCount st p true else
    let l := s.lbr st
    let f := (dfmt l.fmt).getD .fp32
    .foldRead st l.elems fun old => .all [.foldWrite st (addLists old (w40s f l.elems bs)),
      .lbr st fun l => { l with folded := sadd l.folded p }, .lateCount st p false]

/-- Bytes of an LBR message join the contribution of their participant. -/
def Lbr.take (l : Lbr) (p k : Nat) (bs : PBytes) : Lbr × PBytes :=
  let old := match l.rx.find? fun x => x.1 == p && x.2.1 == k with | some x => x.2.2 | none => []
  let rest := l.rx.filter fun x => !(x.1 == p && x.2.1 == k)
  ({ l with rx := rest ++ [(p, k, old ++ bs)] }, old ++ bs)

/-- The memory that a contribution of a stream reaches: the open reduction's, and the fold buffer. -/
def State.foldPlaces (s : State) (st : Nat) : List (MemSel × Nat × Nat) :=
  (match s.coll (s.lbr st).q (s.lbr st).idx with | some c => s.coPlaces c.ctx c.d | none => []) ++
    match s.span (s.lbrCtx st) (s.fld .lbrStream st 0x10 0 48) (8 * (s.lbr st).elems) true with
    | .ok l => l
    | .error _ => []

/-- It takes the requests of the stream's context (R277, R280). -/
def State.foldGoes (s : State) (st : Nat) : Bool := s.memGoes (s.lbrCtx st) (s.foldPlaces st)

/-- An LBR message is delivered (R253, R257, R323). -/
def Act.applyLbr (f : Nat) (m : Msg) (k : Applied → Act) : Act :=
  .get fun s =>
    let st := bits m.aux.toNat 0 6
    let p := bits m.aux.toNat 8 8
    let r := bits m.aux.toNat 16 48
    let l := s.lbr st
    let drop (p r : Nat) : Act := .lbr st fun l => { l with rx := l.rx.filter fun x => !(x.1 == p && x.2.1 == r) }
    if s.fld .lbrStream st 0 0 1 = 0 ∨ s.lbrCtx st ≠ s.flowCtx f then k (.done [])
    else if l.next ≤ r then k .notYet
    else if !s.foldGoes st then .memWaits f (s.lbrCtx st) (s.foldPlaces st) k
    else
      let t := l.take p r m.data
      let isOpen := l.isOpen && r + 1 == l.next
      let last := if l.isOpen then r + 2 == l.next else r + 1 == l.next
      if isOpen then
        let need := match s.coll l.q l.idx with
          | some c => partLen (coN c.d) (s.cgP (coGroup c.d)) (s.cgSelf (coGroup c.d)) * ((coIn c.d).ebits / 8)
          | none => 0
        if need ≤ t.2.length then .all [drop p r, .lbrArrived st p (t.2.take need), k (.done [(l.q, l.idx)])]
        else .seq (.lbr st fun _ => t.1) (k (.done []))
      else if last then
        let need := l.elems * ((dfmt l.fmt).getD .fp32).ebits / 8
        if need ≤ t.2.length then .all [drop p r, .lbrFold st p (t.2.take need), k (.done [])]
        else .seq (.lbr st fun _ => t.1) (k (.done []))
      else .seq (.when (m.addr == 0) (.lateCount st p true)) (k (.done []))

/-- A reduction whose deadline has passed closes where enough contributions are in, once memory takes what that needs (R252, R280). -/
def Act.lbrDue (st : Nat) : Act :=
  .get fun s =>
    let l := s.lbr st
    .when (l.isOpen && l.late && s.ownGoes) (match s.coll l.q l.idx with
        | some c => .when (s.lbrMin st ≤ c.contrib.length) (.lbrClose st false)
        | none => .skip)

/-- The deadline of the open reduction passes (R252). -/
def Act.lbrDeadline (st : Nat) : Act :=
  .get fun s =>
    let l := s.lbr st
    .when (l.isOpen && !l.late && s.fld .lbrStream st 0 32 32 != 0) (.seq (.lbr st fun l => { l with late := true }) (.lbrDue st))

/-! ### A collective starts (R320 to R323) -/

/-- The flows of a group, by state. -/
def State.groupFlow (s : State) (g st : Nat) : Bool := (s.others g).any fun m => s.flowSt (s.cgBase g + m) == st

/-- What a collective sends as it starts. A contribution to an empty part is one message without data (log entry 101). -/
def Act.collStart (q idx : Nat) : Act :=
  .seq (.coll q idx fun c => { c with started := true }) (.get fun s => match s.coll q idx with
    | none => .skip
    | some c =>
      let g := coGroup c.d
      let p := s.cgP g
      let me := s.cgSelf g
      let next := (me + 1) % p
      let st := coStream c.d
      if coLbr c.d then
        let k := (s.lbr st).next
        .all [.lbr st fun l => { l with next := k + 1, isOpen := true, late := false, q := q, idx := idx },
          .each (s.others g) fun m => .collInput c m fun bs =>
            let aux (_ : Nat) : Nat := st + me * 2 ^ 8 + k * 2 ^ 16
            .flowSend (s.cgBase g + m) (some (q, idx))
              (if bs.isEmpty then [{ type := 9, aux := BitVec.ofNat 64 (aux 0) }] else dataMsgs 9 0 aux id false bs),
          .collInput c me fun bs => .lbrArrived st me bs]
      else if coOp c.d = 2 then
        .collRead c (dfld c.d 0x18 0 48) (partLen (coN c.d) p me * ((coIn c.d).ebits / 8)) fun bs =>
            .collReduced c (w40s (coIn c.d) (partLen (coN c.d) p me) bs)
      else if coDirect c.d then
        .seq (.each (s.others g) fun m => .collInput c m fun bs => .collSend c m bs)
          (.collInput c me fun bs => .collStage c me bs .skip)
      else .collInput c ((me + p - 1) % p) fun bs =>
        .collSend c next (outOf (coWire c.d) (w40s (coIn c.d) (partLen (coN c.d) p ((me + p - 1) % p)) bs)).elems)

/-- A COLL message is delivered; one of a collective not dispatched yet waits, whether or not its group is VALID yet (R320). -/
def Act.applyColl (f : Nat) (m : Msg) (k : Applied → Act) : Act :=
  .get fun s =>
    let g := bits m.aux.toNat 0 6
    let mem := bits m.aux.toNat 8 8
    let n := bits m.aux.toNat 16 48
    if s.fld .collGroup g 0 0 1 = 0 then k .notYet
    else if s.cgCtx g ≠ s.flowCtx f then k (.done [])
    else if tgetD s.u.collNum g 0 ≤ n then k .notYet
    else match s.u.colls.find? fun c => coGroup c.d == g && c.num == n with
      | none => k (.done [])
      | some c => if !s.memGoes c.ctx (s.coPlaces c.ctx c.d) then .memWaits f c.ctx (s.coPlaces c.ctx c.d) k else .all [
          .coll c.q c.idx fun x => { x with rx := tset x.rx mem (x.from_ mem ++ m.data) },
          .collTry c.q c.idx collFuel, k (.done [(c.q, c.idx)])]

/-! ### Entries (R256, R324) -/

/-- A group has an unretired command. -/
def State.groupBusy (s : State) (g : Nat) : Bool := s.u.colls.any fun c => coGroup c.d == g && !c.orphan

def groupMask : Nat := fieldMask [(0, 0, 1), (0, 8, 18), (0, 32, 21), (0x10, 0, 4096)]

/-- COLL_GROUP's rule (R324). -/
def ruleCollGroup : Rule := ctxRule (fun s i => s.cgCtx i) fun r i v k =>
  .get fun s =>
    let p := bits v 18 8 + 1
    if !s.mayWriteCtx r (bits v 8 10) then k stAccess
    else if p ≤ bits v 32 8 || 8191 < bits v 40 13 + p - 1 || bits v (128 + 16 * bits v 32 8) 16 != s.fabric || s.groupBusy i then k stRefused
    else .seq (.store .collGroup i (v &&& groupMask)) (k stOk)

/-- Group entries of a context return to their defaults (R332). -/
def Act.groupDropOf (ctx : Nat) : Act :=
  .get fun s => .each ((List.range 64).filter fun g => s.cgCtx g == ctx) fun g => .regErase .collGroup g

/-- LBR_STREAM's rule; VALID 1 clears the fold buffer (R256). -/
def ruleLbrStream : Rule := ctxRule (fun s i => s.lbrCtx i) fun r i v k =>
  .get fun s =>
    if !s.mayWriteCtx r (bits v 8 10) then k stAccess
    else if (s.lbr i).isOpen || !(s.lbr i).folded.isEmpty || bits v 18 8 < bits v 64 8 || bits v 18 8 < bits v 72 8 ||
        !zeroBits v [(2, 6), (26, 6), (80, 48), (176, 16), (240, 16)] then k stRefused
    else .all [.store .lbrStream i v,
      .when (bit v 0) (.foldClear i), k stOk]

/-- A stream whose context is torn down or reset: not VALID, no open reduction, nothing folded (R257). -/
def Act.lbrDropOf (ctx : Nat) : Act :=
  .get fun s => .each ((List.range 64).filter fun i => s.lbrCtx i == ctx) fun i =>
    .seq (.fld .lbrStream i 0 0 1 0) (.lbr i fun l => { next := l.next })

end Sys2Proof.Machine
end

