-- ==== Sys2Proof/Machine/Fatal.lean ====
section
/-! DEFINITION. FATAL (R481, R482, R496) and the beginning of a cairn (R483, R484, R486). -/

namespace Sys2Proof.Machine

/-- First byte of a cairn slot (R483). -/
def cairnSlot (slot : Nat) : Nat := cairnBase + slot * 2 ^ 28

/-- The 32 words of a cairn's header (R486). -/
def State.cairnHeader (s : State) (c : Cairn) (st mirror len sections digest : Nat) : List Nat :=
  [0x4E524143 + 0x0100 * 2 ^ 32 + st * 2 ^ 48 + c.cls * 2 ^ 56, s.lifeCnt .cairnCount,
    c.cause + c.source * 2 ^ 16 + s.rd .fwVersion % 2 ^ 32 * 2 ^ 32, c.time, c.epoch + mirror * 2 ^ 32, s.rd .serial, c.detail,
    len + sections * 2 ^ 32] ++ ((List.range 4).map fun k => bits digest (64 * k) 64) ++ List.replicate 20 0

/-- The stacks take a cairn: memory is on, no loop-back holds it, and its interface accepts it (R280, R484). -/
def State.cairnTaken (s : State) (c : Cairn) : Bool := s.u.pow.memOn && s.ownGoes && !c.refused

/-- The header of a cairn is written with STATE 0. -/
def Act.cairnOpen (c : Cairn) : Act :=
  .get fun s => .when (s.cairnTaken c) (.wrStack (cairnSlot c.slot) (wordBytes (s.cairnHeader c 0 0 0 0 0)))

/-- A cairn begins: counted, its slot chosen, and its header written with STATE 0 (R483, R484). The time and the epoch are those of
FATAL's entry or of the service request (R486). Where the cause is one that can lie in a memory interface, whether that accepts the header
is open (log entry 117). -/
def Act.cairnBegin (cls cause source detail time epoch : Nat) : Act :=
  .get fun s =>
    let l := s.rd .cairnLatest
    let c (refused : Bool) : Cairn := {
      cls := cls, cause := cause, source := source, time := time, epoch := epoch, detail := detail
      slot := if bit l 1 then 1 - l % 2 else 0, cut := if s.u.pow.linkUp then none else some 0, refused := refused }
    let go (refused : Bool) : Act := .all [.lifeCount .cairnCount, .napWake,
      .svc fun v => { v with cairn := some (c refused), cairnRetried := false }, .cairnOpen (c refused)]
    if cls = 0 ∧ (cause = 1 ∨ cause = 2) then .draw fun v => go (v % 2 == 1) else go false

/-- A column loses power: it is off and has no clock, and the scratch of its cores is lost (R461, R473). -/
def Act.columnLost (col : Nat) : Act :=
  .seq (.fld .columnState 0 (4 * col) 0 32 2) (.upd (.lose .scratch (col * 12 * 2 ^ 21) ((col + 1) * 12 * 2 ^ 21)))

/-- Causes of R481 that other chapters raise. -/
def fatalFirmwarePoison : Nat := 4
def fatalRecords : Nat := 5
def fatalStack : Nat := 6
def fatalDie : Nat := 7
def fatalVerify : Nat := 8

/-- The firmware's steps 4 and 5 of FATAL: a record to every function, and the cairn (R482); none once the latch is open (R494). -/
def Act.fatalTold (cause source detail time epoch : Nat) : Act :=
  .seq (.event allFns 0x05 0 0 source cause) (.get fun s => .when (s.rd .serviceState != 3) (.cairnBegin 0 cause source detail time epoch))

/-- Without firmware a bare message goes out for each function that has a ring (R482). -/
def Act.fatalBare : Act := .get fun s => .each allFns fun f => .when (s.fld .evtRing f 0 0 64 != 0) (.msix f (s.rd .eventVec f))

/-- The device enters FATAL, or counts a further cause there (R482, R496). Firmware that restarts does its steps when it runs again;
without firmware nothing is recorded. -/
def Act.fatal (cause source detail : Nat) : Act :=
  .get fun s =>
    if !s.u.pow.power then .skip
    else if s.u.pow.fatal then .seq (.trace 0x0B 0 0 cause detail) (.satFld .fatalState 0 2 0 16) else
    .all [.reg .fatalState 0 (cause + s.now % 2 ^ 64 * 2 ^ 64), .pow fun p => { p with fatal := true }, .trace 0x0B 0 0 cause detail,
      .svc fun v => { v with pressPending := v.pressPending || v.drainStep != 0, drainStep := 0 },
      .when (s.rd .serviceState == 1) (.reg .serviceState 0 0),
      .each s.flowList .flowDisable,
      .when (cause == 3) (.each (List.range 8) fun p => .get fun s =>
        .when (s.portSt p != psDisabled && s.portSt p != psDown) (.portDown p dcReset)),
      .when (cause == fatalStack || cause == fatalDie) (.each (List.range 16) .columnLost),
      if cause = fatalVerify then .fatalBare
      else if s.fwRuns then .fatalTold cause source detail s.now (s.rd .recoveryEpoch)
      else if s.u.pow.restarting then .svc fun v => { v with fatalWaits := some (cause, source, detail, s.now, s.rd .recoveryEpoch) }
      else .fatalBare]

end Sys2Proof.Machine
end

