-- ==== Sys2Proof/Machine/Version.lean ====
section
/-! DEFINITION. The weight-version table as sessions and releases see it (R337 to R341, R375). -/

namespace Sys2Proof.Machine

/-! ### What sessions and molts share -/

/-- Contexts in READY. -/
def State.readyCtxs (s : State) : List Nat := (List.range 1024).filter fun c => s.ctxState c == 1

/-- The context in whose address space a structure lies that names its own context: the lowest READY context that reads
the structure at this address with its own number in it (log entry 26). -/
def State.ctxNaming (s : State) (addr len : Nat) (field : Nat → Nat) : Option (Nat × PBytes) :=
  s.readyCtxs.findSome? fun c => match s.rdCtx c addr len with
    | .ok bs => if field (leNat (dataOf (bs.take 8))) = c then some (c, bs) else none
    | .error _ => none

/-- 64-bit words of bytes. -/
def wordsOf (n : Nat) (bs : PBytes) : List Nat := (List.range n).map fun k => leNat (dataOf ((bs.drop (8 * k)).take 8))

/-- Queues a session names: the request queue and the table's. -/
def Sess.queues (x : Sess) : List Nat := x.fld 0x30 0 16 :: x.table.map fun e => bits (e.getD 0 0) 0 16

/-- Descriptors are written one by one, wrapping in the ring. -/
def Act.wrRing (q ctx tail : Nat) (ws : List Nat) : Act :=
  .get fun s => .each (List.range (ws.length / 8)) fun k => .get fun t => .when (t.ctxState ctx == 1)
    (.wrOwn ctx 4 (s.descAddr q (idx32 (tail + k))) (wordBytes ((ws.drop (8 * k)).take 8)))

/-- Fields of VERSION_ENTRY (R375). -/
def State.verCurrent (s : State) (model : Nat) : Option Nat :=
  if s.fld .versionEntry model 0 16 1 = 1 then some (s.fld .versionEntry model 0 0 16) else none

def State.verOld (s : State) (model : Nat) : Option Nat :=
  if s.fld .versionEntry model 0 48 1 = 1 then some (s.fld .versionEntry model 0 32 16) else none

def State.verOwner (s : State) (model : Nat) : Nat := s.fld .versionEntry model 0 50 10

/-- Base device virtual address of a resident version. -/
def State.verBase (s : State) (model version : Nat) : Nat :=
  if s.verCurrent model = some version then s.fld .versionEntry model 8 0 48 else s.fld .versionEntry model 0x10 0 48

/-- The version an unpinned session plans step `step` with (R201, R339). -/
def State.verFor (s : State) (model step : Nat) : Option Nat :=
  match s.verCurrent model with
  | none => none
  | some c => if s.fld .versionEntry model 0x18 0 64 ≤ step then some c else some ((s.verOld model).getD c)

/-- The version of a session's step `x.step`, with its base (R201, R339): a pinned session keeps its own while sequences run. -/
def State.nextVersion (s : State) (x : Sess) : Nat × Nat :=
  if x.fld 0 52 1 = 1 ∧ (x.seqs.any fun q => q.handle.isSome) = true then (x.version, x.versionBase)
  else match (if x.fld 0 52 1 = 1 then s.verCurrent x.model else s.verFor x.model x.step) with
    | some v => (v, s.verBase x.model v)
    | none => (x.version, x.versionBase)

/-- A session uses a version: the step in flight was planned with it, or the next step is, or its sequences are pinned to it
(R339). -/
def State.sesUses (s : State) (x : Sess) (version : Nat) : Bool :=
  if x.inFlight then x.version == version || (s.nextVersion { x with step := x.step + 1 }).1 == version
  else (s.nextVersion x).1 == version

/-- Open sessions that plan with a version or pin sequences to it (R339). -/
def State.verUsers (s : State) (model version : Nat) : Nat :=
  (s.liveSes.filter fun p => p.2.model == model && s.sesUses p.2 version).length

/-- OLD_USERS (R375). -/
def State.oldUsers (s : State) (model : Nat) : Nat :=
  match s.verOld model with
  | some v => s.verUsers model v
  | none => 0

/-- Every segment of every resident version. -/
def State.allSegs (s : State) : List (Nat × Nat × Nat) :=
  s.u.vers.flatMap fun v => v.shards.flatMap fun h => h.segs.map fun g => (v.model, v.version, g.id)

/-- A scrub pass ends when nothing is left to check; the next one starts at once where it is due (R368). -/
def Act.scrubOver : Act :=
  .get fun s => .when s.u.scrub.isEmpty (.seq (.count .moltCount 0 7)
    (.when s.u.scrubDue (.units fun u => { u with scrub := s.allSegs, scrubDue := false })))

/-- The records of some versions of a model go; these are neither scrubbed nor repaired any more, which may end a scrub pass (R340,
R368). -/
def Act.versGone (model : Nat) (gone : Nat → Bool) : Act :=
  .get fun s => .seq (.units fun u => { u with
      vers := u.vers.filter fun r => !(r.model == model && gone r.version)
      poisonSegs := u.poisonSegs.filter fun p => !(p.1 == model && gone p.2.1)
      repairs := u.repairs.filter fun r => !(r.model == model && gone r.version)
      scrub := u.scrub.filter fun p => !(p.1 == model && gone p.2.1) })
    (.when (!s.u.scrub.isEmpty) .scrubOver)

/-- A version's records go (R340). -/
def Act.verDrop (model version : Nat) : Act := .versGone model (· == version)

/-- POISON_OUTSTANDING follows the segments that await repair. -/
def Act.verPoison (model : Nat) : Act :=
  .get fun s => .fld .versionEntry model 0x30 0 32 (s.u.poisonSegs.filter fun p => p.1 == model).length

/-- OLD is released: no longer resident. -/
def Act.verDropOld (model : Nat) : Act :=
  .get fun s => match s.verOld model with
    | none => .skip
    | some v => .all [.verDrop model v, .fld .versionEntry model 0 32 17 0, .fld .versionEntry model 0x10 0 48 0, .verPoison model]

/-- CURRENT is released. -/
def Act.verDropCurrent (model : Nat) : Act :=
  .get fun s => match s.verCurrent model with
    | none => .skip
    | some v => .all [.verDrop model v, .fld .versionEntry model 0 0 17 0, .fld .versionEntry model 8 0 48 0,
        .fld .versionEntry model 0x18 0 64 0, .fld .versionEntry model 0x20 0 32 0, .verPoison model]

/-- A version that is neither CURRENT nor in use is released at once (R339). -/
def Act.verSweep (model : Nat) : Act :=
  .get fun s => match s.verOld model with
    | none => .skip
    | some v => .when (s.verUsers model v == 0) (.verDropOld model)

/-- The owner of a version: the context of the plan that installed it (R341). -/
def State.verCtx (s : State) (model version : Nat) : Nat :=
  ((s.u.vers.find? fun r => r.model == model && r.version == version).map VerRec.ctx).getD (s.verOwner model)

/-- The entries of every model a context owns are removed; of a model whose CURRENT another context installed, its OLD version alone is
released (R341; log entry 116). -/
def Act.verRemoveOwner (ctx : Nat) : Act :=
  .get fun s => .each ((List.range 256).filter fun m => (s.verCurrent m).isSome || (s.verOld m).isSome) fun m =>
    if s.verOwner m = ctx then
      .all [.versGone m fun _ => true, .regErase .versionEntry m, .regErase .versionShare m, .regErase .repairSrc m]
    else match s.verOld m with
      | some v => .when (s.verCtx m v == ctx) (.verDropOld m)
      | none => .skip

/-- A SHARED_POISON event is outstanding for a version (R202, R370). -/
def State.verPoisoned (s : State) (model version : Nat) : Bool :=
  s.u.poisonSegs.any fun p => p.1 == model && p.2.1 == version

end Sys2Proof.Machine
end

