-- ==== Sys2Proof/Machine/Molt.lean ====
section
/-! DEFINITION. Molts (R342 to R367): the plan and its checks, transforms, fold digests and shard roots, segments sent and received,
READY, COMMIT and every way a molt ends, and the molt messages of R356. -/

namespace Sys2Proof.Machine

/-! ### The plan (R345 to R347) -/

/-- A field of a word list: byte offset of the 64-bit word, low bit, length. -/
def wf (ws : List Nat) (off lo len : Nat) : Nat := bits (ws.getD (off / 8) 0) lo len

def Molt.id (x : Molt) : Nat := wf x.hdr 0 0 16
def Molt.produce (x : Molt) : Bool := wf x.hdr 0 16 1 == 1
def Molt.release (x : Molt) : Bool := wf x.hdr 0 17 1 == 1
def Molt.manifest (x : Molt) : Bool := wf x.hdr 0 18 1 == 1
def Molt.ctx (x : Molt) : Nat := wf x.hdr 0 22 10
def Molt.model (x : Molt) : Nat := wf x.hdr 0 32 16
def Molt.version (x : Molt) : Nat := wf x.hdr 0 48 16
def Molt.relVersion (x : Molt) : Nat := wf x.hdr 8 0 16
def Molt.coord (x : Molt) : Nat := wf x.hdr 8 16 16
def Molt.queues (x : Molt) : List Nat := (List.range (wf x.hdr 8 40 3 + 1)).map (wf x.hdr 8 48 16 + ·)
def Molt.nseg (x : Molt) : Nat := wf x.hdr 0x10 0 32
def Molt.nshard (x : Molt) : Nat := wf x.hdr 0x10 32 16 + 1
def Molt.npeer (x : Molt) : Nat := wf x.hdr 8 32 8 + 1
def Molt.key (x : Molt) : Nat := x.hdr.getD 8 0 + x.hdr.getD 9 0 * 2 ^ 64
def Molt.seg (x : Molt) (i : Nat) : List Nat := x.segs.getD i []
def Molt.shard (x : Molt) (i : Nat) : List Nat := x.shards.getD i []

def sgId (e : List Nat) : Nat := wf e 0 0 32
def sgXform (e : List Nat) : Nat := wf e 0 32 4
def sgSrcFmt (e : List Nat) : Nat := wf e 0 36 4
def sgDstFmt (e : List Nat) : Nat := wf e 0 40 4
def sgT (e : List Nat) : Bool := wf e 0 45 1 == 1
def sgMon (e : List Nat) : Option Nat := if wf e 0 46 1 = 1 then some (wf e 0 48 14) else none
def sgAltOn (e : List Nat) : Bool := wf e 0 47 1 == 1
def sgSrcDev (e : List Nat) : Nat := wf e 8 0 16
def sgDstDev (e : List Nat) : Nat := wf e 8 16 16
def sgAltDev (e : List Nat) : Nat := wf e 8 32 16
def sgShard (e : List Nat) : Nat := wf e 8 48 16
def sgLength (e : List Nat) : Nat := wf e 0x30 0 27
def sgRows (e : List Nat) : Nat := wf e 0x30 32 12 + 1
def sgCols (e : List Nat) : Nat := wf e 0x30 44 12 + 1

/-- Device address and flow of a peer entry. -/
def peerAddr (w : Nat) : Nat := bits w 0 16
def peerFlow (w : Nat) : Nat := bits w 16 13

/-- The flow to a participant. -/
def Molt.flowTo (x : Molt) (dev : Nat) : Option Nat := (x.peers.find? fun w => peerAddr w == dev).map peerFlow

/-- The index of a segment number. -/
def Molt.indexOf (x : Molt) (id : Nat) : Option Nat := x.segs.findIdx? fun e => sgId e == id

/-! ### Transforms (R349, R350) -/

/-- Bytes of a destination tile's elements, and of its scales. -/
def sgTile (e : List Nat) : Nat := if sgXform e = 1 then (if sgDstFmt e = 0 then 2048 else 4096) else 8192
def sgScales (e : List Nat) : Nat := if sgXform e = 1 then 128 else 0

/-- Bytes of a segment's stream. -/
def sgStream (e : List Nat) : Nat := if sgXform e = 0 then sgLength e else sgRows e * sgCols e * (sgTile e + sgScales e)

/-- The destination tile of a source tile. -/
def sgTileAt (e : List Nat) (t : Nat) : Nat × Nat :=
  let i := t / sgCols e
  let j := t % sgCols e
  if sgXform e ≠ 3 ∧ sgT e then (i, j) else (j, i)

/-- Where bytes of the stream go, from an offset on: device virtual address and length of each part. -/
def sgPieces (e : List Nat) : Nat → Nat → Nat → List (Nat × Nat)
  | 0, _, _ => []
  | k + 1, off, n =>
    if n = 0 then []
    else if sgXform e = 0 then [(wf e 0x18 0 48 + off, n)]
    else
      let u := sgTile e + sgScales e
      let p := sgTileAt e (off / u)
      let at_ := p.1 * wf e 0x38 32 16 + p.2
      let o := off % u
      let l := min n (if o < sgTile e then sgTile e - o else u - o)
      ((if o < sgTile e then wf e 0x18 0 48 + at_ * sgTile e + o else wf e 0x28 0 48 + at_ * 128 + (o - sgTile e)), l) ::
        sgPieces e k (off + l) (n - l)

/-- All parts of `n` bytes of the stream. -/
def sgPlaces (e : List Nat) (off n : Nat) : List (Nat × Nat) := sgPieces e (n / 64 + 4) off n

/-- A source tile transformed, with what is counted (R63, R349, R350). -/
def sgTransform (e : List Nat) (bs : PBytes) : PBytes × MonDelta :=
  match sgXform e with
  | 1 =>
    let f := (dfmt (sgSrcFmt e)).getD .bf16
    let o := writeVals ((dfmt (sgDstFmt e)).getD .e2m1) (wf e 0 44 1 == 1) (valsOf f 4096 (tileLoad (sgT e) bs) [])
    (o.elems ++ o.scales, o.mon)
  | 2 => (tileLoad (sgT e) bs, {})
  | _ =>
    let c := tileLoad false bs
    (tileStore ((List.range 64).map fun n => (c.drop (128 * n)).take 128), {})

/-- Where a segment's source lies: the bytes of a COPY, or its tiles in order (R346, R349). -/
def State.sgSource (s : State) (ctx src : Nat) (e : List Nat) : Except Flt (List (List (MemSel × Nat × Nat))) :=
  exAll (if sgXform e = 0 then [s.span ctx src (sgLength e) false]
    else (List.range (sgRows e * sgCols e)).map fun t =>
      s.span ctx (src + t / sgCols e * wf e 0x38 0 32 + t % sgCols e * 8192) 8192 false)

/-- The stream of a segment from its source, and what its conversion counts (R349, R355). -/
def State.sgRead (s : State) (e : List Nat) (source : List (List (MemSel × Nat × Nat))) : PBytes × MonDelta :=
  if sgXform e = 0 then (source.flatMap s.rdSpan, {})
  else
    let os := source.map fun l => sgTransform e (s.rdSpan l)
    (os.flatMap Prod.fst, sumMon (os.map Prod.snd))

/-! ### Fold digests and roots (R351, R353) -/

/-- The fold over blocks of 16 bytes. -/
def foldBlocks (h : Nat) : Nat → List Byte → Nat → Nat
  | 0, _, y => y
  | k + 1, bs, y => foldBlocks h k (bs.drop 16) (gf128.mul (y ^^^ leNat (bs.take 16)) h)

/-- The fold digest of a stream under a key. -/
def foldDigest (h : Nat) (bs : List Byte) : Nat := gf128.mul (foldBlocks h (cdiv bs.length 16) bs 0 ^^^ bs.length) h

/-- The root of a shard from its identifier and its segments' digests in order of number. -/
def shardRoot (id : Nat) (digests : List Nat) : Nat := Config.sm3 (leBytes 4 id ++ digests.flatMap (leBytes 16))

/-! ### The molt's entries and messages -/

/-- The molt changes. -/
def Act.molt (f : Molt → Molt) : Act := .units fun u => { u with molt := f u.molt }

/-- A segment received changes. -/
def Act.segIn (i : Nat) (f : SegIn → SegIn) : Act := .molt fun x => { x with got := tmod x.got i {} f }

def Molt.segIn (x : Molt) (i : Nat) : SegIn := tgetD x.got i {}

/-- MOLT_STATE changes, which is traced (R488). -/
def Act.moltState (st r0 : Nat) : Act := .seq (.reg .moltState 0 st) (.get fun s => .trace 5 0 0 (s.u.molt.id + st * 2 ^ 16) r0)

/-- A molt message to a participant; none on a flow that is neither open nor opening, or is no bulk flow of the molt's context
(R347, R356). -/
def Act.moltSend (dev kind attempt seg : Nat) (data : PBytes := []) : Act :=
  .get fun s => match s.u.molt.flowTo dev with
    | none => .skip
    | some f =>
      let m : Msg := { type := 10, aux := BitVec.ofNat 64 (kind + attempt * 2 ^ 4 + s.u.molt.id * 2 ^ 8 + seg * 2 ^ 24), data := data }
      .when ((s.flowSt f == 1 || s.flowSt f == 2) && s.flowClass f == 4 && s.flowCtx f == s.u.moltCtx) (.flowSend f none [m])

/-- Participants other than this device. -/
def State.moltOthers (s : State) : List Nat := (s.u.molt.peers.map peerAddr).filter fun a => a != s.fabric

/-- This device coordinates the molt. -/
def State.moltCoord (s : State) : Bool := s.u.molt.coord == s.fabric

/-! ### The report and the end (R342, R360, R365) -/

def causeDigest : Nat := 1
def causeMissing : Nat := 2
def causeRoot : Nat := 3
def causePoison : Nat := 4
def causeSource : Nat := 5
def causeDest : Nat := 6
def causePeer : Nat := 7
def causeFlow : Nat := 8
def causePlan : Nat := 9
def causeHost : Nat := 10
def causeSignature : Nat := 11
def causeContext : Nat := 12

/-- The words of a report: outcome, and attempts, cause, last source, shard, segment, detail, digests expected and received. -/
def State.moltWords (s : State) (outcome attempts cause last shard seg detail expected received : Nat) : List Nat :=
  [s.u.molt.id + outcome * 2 ^ 16 + attempts * 2 ^ 20 + cause * 2 ^ 24 + s.fabric * 2 ^ 32 + last * 2 ^ 48, shard + seg * 2 ^ 32,
    s.now % 2 ^ 64, s.u.molt.retries % 2 ^ 32 + detail * 2 ^ 32, expected % 2 ^ 64, expected / 2 ^ 64 % 2 ^ 64, received % 2 ^ 64,
    received / 2 ^ 64 % 2 ^ 64]

/-- A report with another outcome. -/
def withOutcome (o : Nat) (ws : List Nat) : List Nat :=
  match ws with
  | w :: r => setBits w 16 4 o :: r
  | [] => []

/-- The report of a molt that ends well: its last retry as this device found it then, or zeros beside the molt's number (R365; log
entry 105). -/
def State.moltDone (s : State) (outcome : Nat) : List Nat :=
  match s.u.molt.last with
  | [] => [s.u.molt.id + outcome * 2 ^ 16, 0, 0, 0, 0, 0, 0, 0]
  | l => lset (s.moltWords outcome (l.getD 0 0) (l.getD 1 0) (l.getD 2 0) (l.getD 3 0) (l.getD 4 0) 0 (l.getD 5 0) (l.getD 6 0)) 2 (l.getD 7 0)

/-- The molt ends: the report at REPORT_ADDR and in MOLT_REPORT, then MOLT_STATE, the counts, the phase and the FENCEs that waited
(R33, R342, R344). A report that cannot be written is dropped (log entry 34). -/
def Act.moltOver (st : Nat) (report : List Nat) : Act :=
  .get fun s =>
    let x := s.u.molt
    .all [.wrCtx s.u.moltCtx (wf x.hdr 0x30 0 48) (wordBytes report) fun _ => .skip,
      .reg .moltReport 0 (leNat (report.flatMap (leBytes 8))), .moltState st (report.getD 0 0),
      .count .moltCount 0 (if st = 5 then 0 else 1),
      .when (s.rd .moltState == 2) (match x.waitSince with
        | some t => .count .moltCount 0 6 (s.now - t)
        | none => .skip),
      .when (x.model < 256) (.fld .versionEntry x.model 0 49 1 0), .molt fun _ => {}, .phase, .fences]

/-- This device's molt fails: FAILED, and FAIL to the coordinator; the coordinator itself sends ABORT to every peer (R360). -/
def Act.moltFail (attempts cause last shard seg detail expected received : Nat) : Act :=
  .get fun s => .when s.moltRuns (
    let ws := s.moltWords 1 attempts cause last shard seg detail expected received
    .seq (if s.moltCoord then .each s.moltOthers fun a => .moltSend a 6 0 seg (wordBytes ws)
      else .moltSend s.u.molt.coord 7 0 seg (wordBytes ws)) (.moltOver 6 ws))

/-- The molt ends ABORTED with a report (R360). -/
def Act.moltAbort (report : List Nat) : Act := .moltOver 7 (withOutcome 2 report)

/-- The coordinator sends ABORT to every peer and ends ABORTED (R360). -/
def Act.moltAbortAll (report : List Nat) : Act :=
  .get fun s => .seq (.each s.moltOthers fun a => .moltSend a 6 0 (wf report 8 32 32) (wordBytes report)) (.moltAbort report)

/-- A molt of a context that is torn down fails, and its model entries go (R341). -/
def Act.moltCtxEnd (ctx : Nat) : Act :=
  .get fun s => .seq (.when (s.moltOf ctx) (.moltFail 0 causeContext 0 0 0 0 0 0)) (.verRemoveOwner ctx)

/-- A flow failed: the one to the coordinator ends or stalls the molt (R361, R362). -/
def Act.moltFlow (f : Nat) : Act :=
  .get fun s => .when (s.moltRuns && !s.moltCoord && s.u.molt.flowTo s.u.molt.coord == some f) (
    if s.rd .moltState = 2 then .moltFail 0 causeFlow 0 0 0 0 0 0
    else .when (s.rd .moltState == 3) (.seq (.moltState 4 0) (.errEvent 81 0)))

/-! ### Plan checks (R348) -/

/-- The peer table of a plan, as far as it can be read. -/
def State.planPeers (s : State) (ctx : Nat) (hdr : List Nat) : List Nat :=
  let n := wf hdr 8 32 8 + 1
  match s.rdCtx ctx (wf hdr 0x28 0 48) (4 * n) with
  | .ok bs => if anyPoison bs then [] else (List.range n).map fun i => leNat (dataOf ((bs.drop (4 * i)).take 4))
  | .error _ => []

/-- What the checks of a plan read: the header and the three tables. -/
def planReads (addr : Nat) (hdr : List Nat) : List (Nat × Nat) :=
  [(addr, 128), (wf hdr 0x18 0 48, 64 * min (wf hdr 0x10 0 32) 1048576), (wf hdr 0x20 0 48, 64 * (wf hdr 0x10 32 16 + 1)),
    (wf hdr 0x28 0 48, 4 * (wf hdr 8 32 8 + 1))]

/-- The plan as memory holds it. -/
def State.readPlan (s : State) (ctx addr : Nat) : Option Molt :=
  let clean (r : Except Flt PBytes) : Option PBytes := match r with
    | .ok bs => if anyPoison bs then none else some bs
    | .error _ => none
  match clean (s.rdCtx ctx addr 128) with
  | none => none
  | some h =>
    let x : Molt := { plan := addr, hdr := wordsOf 16 h }
    match clean (s.rdCtx ctx (wf x.hdr 0x18 0 48) (64 * min x.nseg 1048576)), clean (s.rdCtx ctx (wf x.hdr 0x20 0 48) (64 * x.nshard)),
      s.planPeers ctx x.hdr with
    | some a, some b, p :: ps => some { x with
        segs := (List.range (a.length / 64)).map fun i => wordsOf 8 (a.drop (64 * i))
        shards := (List.range x.nshard).map fun i => wordsOf 8 (b.drop (64 * i))
        peers := p :: ps }
    | _, _, _ => none

/-- Check 1: reserved fields, numbers out of range, a version already resident. -/
def State.planBad1 (s : State) (x : Molt) : Bool :=
  let z (ws : List Nat) (k : Nat) (l : List (Nat × Nat)) : Bool := !zeroBits (ws.getD k 0) l
  z x.hdr 0 [(19, 3)] || z x.hdr 1 [(43, 5)] || z x.hdr 2 [(48, 16)] || ([3, 4, 5, 6, 7, 12].any fun k => z x.hdr k [(48, 16)]) ||
    z x.hdr 11 [(40, 24)] || ([13, 14, 15].any fun k => x.hdr.getD k 0 != 0) || x.key == 0 || x.nseg == 0 || 1048576 < x.nseg ||
    x.id == 0xFFFF || 255 < x.model ||
    (x.produce && (s.verCurrent x.model == some x.version || s.verOld x.model == some x.version)) ||
    (x.segs.any fun e => z e 0 [(62, 2)] || ([2, 3, 4, 5, 7].any fun k => z e k [(48, 16)]) || z e 6 [(27, 5), (56, 8)]) ||
    (x.shards.any fun e => z e 0 [(49, 15)] || z e 1 [(32, 32)] || ([6, 7].any fun k => e.getD k 0 != 0)) ||
    x.peers.any fun w => bits w 29 3 != 0

/-- Check 2: participants and their flows. -/
def State.planBad2 (s : State) (x : Molt) : Bool :=
  let as_ := x.peers.map peerAddr
  !as_.contains s.fabric || !as_.contains x.coord || x.peers.any fun w => peerAddr w != s.fabric &&
    (s.flowSt (peerFlow w) != 2 || s.flowClass (peerFlow w) != 4 || s.flowCtx (peerFlow w) != x.ctx)

/-- Check 3: molt queues. -/
def State.planBad3 (s : State) (x : Molt) : Bool :=
  x.queues.any fun q => 65535 < q || !s.qValid q || s.qKind q != 0 || s.qCtx q != x.ctx || s.liveSes.any fun p => p.2.queues.contains q

/-- Formats of a transform (R349), and the sizes of R346. -/
def segBad (e : List Nat) : Bool :=
  let wide := sgSrcFmt e == 6 || sgSrcFmt e == 7
  match sgXform e with
  | 0 => !(sgSrcFmt e == sgDstFmt e || sgSrcFmt e == 0xF) || sgLength e == 0 || 67108864 < sgLength e
  | 1 => !wide || !([0, 3, 4].contains (sgDstFmt e)) || sgLength e != 0 || 8192 < sgRows e * sgCols e || wf e 0x38 32 16 == 0
  | 2 => !wide || sgDstFmt e != sgSrcFmt e || sgLength e != 0 || 8192 < sgRows e * sgCols e || wf e 0x38 32 16 == 0
  | 3 => !wide || sgDstFmt e != sgSrcFmt e || sgT e || sgLength e != 0 || 8192 < sgRows e * sgCols e || wf e 0x38 32 16 == 0
  | _ => true

/-- Check 4: segments. -/
def planBad4 (x : Molt) : Bool :=
  let peer (a : Nat) : Bool := x.peers.any fun w => peerAddr w == a
  x.segs.any fun e => segBad e || x.nshard ≤ sgShard e || !peer (sgSrcDev e) || !peer (sgDstDev e) ||
    (sgAltOn e && (!peer (sgAltDev e) || sgAltDev e == sgSrcDev e))

/-- Segments of a shard, by index in order of segment number. -/
def Molt.segsOf (x : Molt) (shard : Nat) : List Nat :=
  let l := ((List.range x.segs.length).filter fun i => sgShard (x.seg i) == shard).map fun i => (sgId (x.seg i), i)
  (l.foldl (fun acc p => (acc.takeWhile fun q => q.1 ≤ p.1) ++ p :: acc.dropWhile fun q => q.1 ≤ p.1) []).map Prod.snd

/-- Check 5: shards held here. -/
def State.planBad5 (s : State) (x : Molt) : Bool :=
  (List.range x.shards.length).any fun j => wf (x.shard j) 0 32 16 == s.fabric &&
    (wf (x.shard j) 8 0 32 != (x.segsOf j).length || (x.manifest && wf (x.shard j) 0 48 1 == 0))

/-- Two ranges share an address. -/
def rangesMeet (a b : Nat × Nat) : Bool := a.1 < b.1 + b.2 && b.1 < a.1 + a.2

/-- The memory that ranges of a context lead to, as far as they are mapped. -/
def State.spanned (s : State) (ctx : Nat) (l : List (Nat × Nat)) : List (MemSel × Nat × Nat) :=
  l.flatMap fun p => (pieces p.1 p.2).flatMap fun q => match s.span ctx q.1 q.2 false with
    | .ok ls => ls
    | .error _ => []

/-- Ranges of a context and ranges of another meet: in one address space by their addresses, and in memory wherever they are mapped
(log entry 35). -/
def State.spacesMeet (s : State) (c : Nat) (l : List (Nat × Nat)) (d : Nat) (k : List (Nat × Nat)) : Bool :=
  (c == d && l.any fun a => k.any (rangesMeet a)) ||
    (s.spanned c l).any fun a => (s.spanned d k).any fun b => a.1 == b.1 && rangesMeet a.2 b.2

/-- Check 6: destination ranges on this device against each other and against every resident version. -/
def State.planBad6 (s : State) (x : Molt) : Bool :=
  let own := ((x.segs.filter fun e => sgDstDev e == s.fabric).map fun e => sgPlaces e 0 (sgStream e))
  own.any (fun l => s.u.vers.any fun v => v.shards.any fun h => h.segs.any fun g =>
      s.spacesMeet x.ctx l v.ctx (sgPlaces g.words 0 (sgStream g.words))) ||
    own.zipIdx.any fun (l, i) => (own.drop (i + 1)).any fun k => s.spacesMeet x.ctx l x.ctx k

/-- Check 7: the signature over the shard table (R367). -/
def State.planBad7 (s : State) (x : Molt) : Bool :=
  let sigAddr := wf x.hdr 0x60 0 48
  let slot := wf x.hdr 0x58 32 8
  if !x.manifest || (sigAddr == 0 && s.rd .manifestSigned == 0) then false
  else if sigAddr == 0 || 7 < slot then true
  else match s.rdCtx x.ctx sigAddr 64 with
    | .error _ => true
    | .ok sig => anyPoison sig || s.fld .keySlot slot 0 0 1 == 0 || s.fld .keySlot slot 0 2 1 == 0 ||
        !Config.sm2Verify (s.fld .keySlot slot 0x10 0 512)
          (Config.sm3 (x.shards.flatMap fun e => (List.range 8).flatMap fun k => leBytes 8 (e.getD k 0))) (leNat (dataOf sig))

/-- The first check that fails. -/
def State.planCheck (s : State) (x : Molt) : Nat :=
  if s.planBad1 x then 1 else if s.planBad2 x then 2 else if s.planBad3 x then 3 else if planBad4 x then 4
  else if s.planBad5 x then 5 else if s.planBad6 x then 6 else if s.planBad7 x then 7 else 0

/-- The signature, which the last check reads where the checks before it pass. -/
def Molt.sigReads (x : Molt) (failed : Nat) : List (Nat × Nat) :=
  let sigAddr := wf x.hdr 0x60 0 48
  if (failed = 0 ∨ failed = 7) ∧ x.manifest ∧ sigAddr ≠ 0 ∧ wf x.hdr 0x58 32 8 ≤ 7 then [(sigAddr, 64)] else []

/-! ### Segments received (R355 to R358) -/

/-- Every shard held here has verified, and every segment sourced here has retired (R359). -/
def State.moltLocalReady (s : State) : Bool :=
  let x := s.u.molt
  ((List.range x.shards.length).all fun j => wf (x.shard j) 0 32 16 != s.fabric || x.shardOk.contains j) &&
    x.todo.isEmpty && x.running.isEmpty &&
    (List.range x.segs.length).all fun i => sgSrcDev (x.seg i) != s.fabric || x.retired.contains i

/-- From now on only R344 keeps READY back. -/
def Act.moltMayWait : Act :=
  .get fun s => .when (s.rd .moltState == 2 && s.moltLocalReady && s.u.molt.waitSince.isNone)
    (.molt fun x => { x with waitSince := some s.now })

/-- The source of an attempt (R358). -/
def sgFrom (e : List Nat) (attempt : Nat) : Nat := if attempt ≠ 0 ∧ sgAltOn e then sgAltDev e else sgSrcDev e

/-- The destination asks for another attempt of a segment, of its own source or over the fabric. -/
def Act.refetch (i attempt : Nat) : Act :=
  .get fun s =>
    let e := s.u.molt.seg i
    let dev := sgFrom e attempt
    .seq (.segIn i fun _ => { attempt := attempt })
      (if dev = s.fabric then .molt fun x => { x with todo := x.todo ++ [(i, attempt, sgAltOn e)] }
      else .moltSend dev 3 attempt (sgId e))

/-- A retry is counted, and described for the report (R358, R365). -/
def Act.retryCount (attempts cause last shard seg expected received : Nat) : Act :=
  .seq (.count .moltCount 0 2) (.get fun s => .molt fun x => { x with
    retries := x.retries + 1, last := [attempts, cause, last, shard, seg, expected, received, s.now % 2 ^ 64] })

/-- A segment did not verify: another attempt, or the molt fails after the third retry (R358). -/
def Act.segRetry (i cause expected received : Nat) : Act :=
  .get fun s =>
    let e := s.u.molt.seg i
    let a := (s.u.molt.segIn i).attempt
    let shard := wf (s.u.molt.shard (sgShard e)) 0 0 32
    if 3 ≤ a then .moltFail 4 cause (sgFrom e a) shard (sgId e) 0 expected received
    else .seq (.retryCount (a + 1) cause (sgFrom e a) shard (sgId e) expected received) (.refetch i (a + 1))

/-- A shard held here whose segments have all verified: its root is computed and compared (R357, R358). -/
def Act.shardCheck (j : Nat) : Act :=
  .get fun s =>
    let x := s.u.molt
    let is := x.segsOf j
    .when (wf (x.shard j) 0 32 16 == s.fabric && !x.shardOk.contains j && is.all fun i => (x.segIn i).ok) (
      let root := shardRoot (wf (x.shard j) 0 0 32) (is.map fun i => (x.segIn i).digest)
      let want := leNat ((List.range 4).flatMap fun k => leBytes 8 ((x.shard j).getD (2 + k) 0))
      if wf (x.shard j) 0 48 1 = 1 ∧ root ≠ want then
        let a := (is.map fun i => (x.segIn i).attempt).foldl max 0
        let last := match is.head? with | some i => sgFrom (x.seg i) a | none => 0
        let id := wf (x.shard j) 0 0 32
        if 3 ≤ a ∨ is.isEmpty then .moltFail (min 4 (a + 1)) causeRoot last id 0xFFFFFFFF 0 want root
        else .seq (.retryCount (a + 1) causeRoot last id 0xFFFFFFFF want root) (.each is fun i => .refetch i (a + 1))
      else .seq (.molt fun x => { x with shardOk := x.shardOk ++ [j] }) .moltMayWait)

/-- A segment has verified with a digest. -/
def Act.segOk (i digest : Nat) : Act :=
  .get fun s => .seq (.segIn i fun g => { g with ok := true, digest := digest }) (.shardCheck (sgShard (s.u.molt.seg i)))

/-- Bytes of a segment's stream are placed where its entry says (R355). -/
def Act.segPlace (ctx : Nat) (e : List Nat) (off : Nat) (bs : PBytes) (k : Option Flt → Act) : Act :=
  .get fun s =>
    let ps := sgPlaces e off bs.length
    match exAll (ps.map fun p => s.span ctx p.1 p.2 true) with
    | .error x => k (some x)
    | .ok ls => .all [.charge ctx ls.flatten, .wrSpan ls.flatten bs, .noteOut ctx ls.flatten bs, k none]

/-- A fault at the destination fails the segment at once (R358). -/
def Act.destFault (i : Nat) : Act :=
  .get fun s =>
    let e := s.u.molt.seg i
    let a := (s.u.molt.segIn i).attempt
    .moltFail (a + 1) causeDest (sgFrom e a) (wf (s.u.molt.shard (sgShard e)) 0 0 32) (sgId e) 0 0 0

/-- Data of a segment arrives: placed and folded; that of an older attempt is discarded (R355, R357). -/
def Act.segData (i attempt off : Nat) (bs : PBytes) : Act :=
  .get fun s =>
    let x := s.u.molt
    let g := x.segIn i
    .when (attempt == g.attempt && !g.ok && sgDstDev (x.seg i) == s.fabric) (.seq
      (.segIn i fun g => { g with begun := true, rx := g.rx ++ bs })
      (.when (off + bs.length ≤ sgStream (x.seg i)) (.segPlace s.u.moltCtx (x.seg i) off bs fun
        | none => .skip
        | some _ => .destFault i)))

/-- A segment's digest arrives: the segment verifies, or is fetched again (R357, R358). -/
def Act.segEnd (i attempt digest : Nat) : Act :=
  .get fun s =>
    let x := s.u.molt
    let g := x.segIn i
    .when (attempt == g.attempt && !g.ok && sgDstDev (x.seg i) == s.fabric) (
      let own := foldDigest x.key (dataOf g.rx)
      if anyPoison g.rx then .segRetry i causePoison digest own
      else if own = digest ∧ g.rx.length = sgStream (x.seg i) then .segOk i own
      else .seq (.count .moltCount 0 3) (.segRetry i causeDigest digest own))

/-! ### Commit (R339, R344, R359) -/

/-- What waits on versions in use lets READY go (R344). -/
def State.moltMayReady (s : State) : Bool :=
  let x := s.u.molt
  !(x.produce && match s.verOld x.model with | some v => s.verUsers x.model v != 0 | none => false) &&
    !(x.release && s.verUsers x.model x.relVersion != 0)

/-- The records of a new version (R338). -/
def State.moltRecs (s : State) : VerRec :=
  let x := s.u.molt
  { model := x.model, version := x.version, ctx := x.ctx,
    shards := ((List.range x.shards.length).filter fun j => wf (x.shard j) 0 32 16 == s.fabric).map fun j =>
      { id := wf (x.shard j) 0 0 32, key := x.key,
        root := shardRoot (wf (x.shard j) 0 0 32) ((x.segsOf j).map fun i => (x.segIn i).digest),
        segs := (x.segsOf j).map fun i => { id := sgId (x.seg i), words := x.seg i, digest := (x.segIn i).digest } } }

/-- The version table changes: what PRODUCE installs and what RELEASE releases (R339, R343). -/
def Act.verCommit : Act :=
  .get fun s =>
    let x := s.u.molt
    let m := x.model
    .seq
      (.when x.produce (.all [.verDropOld m,
        .get fun s => match s.verCurrent m with
          | some c => .seq (.fld .versionEntry m 0 32 17 (c + 2 ^ 16)) (.fld .versionEntry m 0x10 0 48 (s.fld .versionEntry m 8 0 48))
          | none => .skip,
        .fld .versionEntry m 0 0 17 (x.version + 2 ^ 16), .fld .versionEntry m 0 50 10 x.ctx,
        .fld .versionEntry m 8 0 48 (wf x.hdr 0x38 0 48), .fld .versionEntry m 0x18 0 64 (x.hdr.getD 10 0),
        .fld .versionEntry m 0x20 0 32 s.moltRecs.shards.length, .fld .versionEntry m 0x28 0 64 s.now,
        .units fun u => { u with vers := u.vers ++ [s.moltRecs] }, .verSweep m]))
      (.when x.release (.get fun s =>
        if s.verCurrent m = some x.relVersion then .verDropCurrent m
        else .when (s.verOld m == some x.relVersion) (.verDropOld m)))

/-- The molt commits on this device (R359). -/
def Act.moltCommit (outcome : Nat) : Act := .seq .verCommit (.get fun s => .moltOver 5 (s.moltDone outcome))

/-- The coordinator holds a participant's READY, and commits once it has them all (R359). -/
def Act.moltReady (dev : Nat) : Act :=
  .seq (.molt fun x => { x with ready := sadd x.ready dev }) (.get fun s =>
    .when (s.rd .moltState == 3 && s.u.molt.peers.all fun w => s.u.molt.ready.contains (peerAddr w))
      (.seq (.each s.moltOthers fun a => .moltSend a 5 0 0) (.moltCommit 0)))

/-- READY is sent, or counted by the coordinator (R344, R359). -/
def Act.moltReadySend : Act :=
  .get fun s => .when (s.rd .moltState == 2 && s.moltLocalReady && s.moltMayReady) (.all [
    .count .moltCount 0 6 (s.now - s.u.molt.waitSince.getD s.now), .moltState 3 0,
    if s.moltCoord then .moltReady s.fabric else .moltSend s.u.molt.coord 4 0 0])

/-! ### Repair traffic (R371, R372) -/

/-- The record of a segment of a resident version, with its shard. -/
def State.segRec (s : State) (model version seg : Nat) : Option (VerRec × ShardRec × SegRec) :=
  (s.u.vers.find? fun v => v.model == model && v.version == version).bind fun v =>
    (v.shards.find? fun h => h.segs.any fun g => g.id == seg).bind fun h => (h.segs.find? fun g => g.id == seg).map fun g => (v, h, g)

/-- The resident bytes of a segment in the order of its stream, with their places. -/
def State.segResident (s : State) (v : VerRec) (g : SegRec) : Except Flt (List (MemSel × Nat × Nat)) :=
  match exAll ((sgPlaces g.words 0 (sgStream g.words)).map fun p => s.span v.ctx p.1 p.2 false) with
  | .error e => .error e
  | .ok l => .ok l.flatten

/-- What a flow's peer may have of a segment: its places and the key of its digest; no places where it is not resident in the flow's
context. -/
def State.repairOf (s : State) (f model version seg : Nat) : List (MemSel × Nat × Nat) × Nat :=
  match s.segRec model version seg with
  | none => ([], 0)
  | some (v, h, g) => match s.segResident v g with
    | .ok ls => if v.ctx = s.flowCtx f then (ls, h.key) else ([], 0)
    | .error _ => ([], 0)

/-- A replica streams its bytes of a segment, or an empty stream where it has none (R371). -/
def Act.repairServe (f seg : Nat) (ls : List (MemSel × Nat × Nat)) (key : Nat) : Act :=
  .get fun s =>
    let aux (kind : Nat) : Nat := kind + 0xFFFF * 2 ^ 8 + seg * 2 ^ 24
    let endOf (digest : PBytes) : Msg := { type := 10, aux := BitVec.ofNat 64 (aux 1), data := digest }
    if ls.isEmpty then .flowSend f none [endOf []]
    else .all [.noteSpan (s.flowCtx f) ls, .charge (s.flowCtx f) ls,
      .flowSend f none (dataMsgs 10 0 (fun _ => aux 0) id false (s.rdSpan ls) ++
        [endOf (cleanBytes 16 (foldDigest key (dataOf (s.rdSpan ls))))])]

/-- Repair data arrives on the flow that REPAIR_SRC names (R371, R372). -/
def Act.repairData (f seg : Nat) (bs : PBytes) (whole : Bool) : Act :=
  .get fun s => .units fun u => { u with repairs := u.repairs.map fun r =>
    if r.seg = seg ∧ r.asked ∧ !r.whole ∧ s.fld .repairSrc r.model 0 16 13 = f then { r with rx := r.rx ++ bs, whole := whole } else r }

/-! ### Messages (R356) -/

/-- A source answers a REFETCH by running the segment again (R358). -/
def Act.moltRefetch (i attempt : Nat) : Act :=
  .get fun s => .molt fun x => { x with todo := x.todo ++ [(i, attempt, sgAltOn (x.seg i) && sgAltDev (x.seg i) == s.fabric)] }

/-- A molt message acts on the molt it names (R355 to R361). -/
def Act.moltMsg (src kind attempt seg : Nat) (m : Msg) : Act :=
  .get fun s =>
    let x := s.u.molt
    let ws := wordsOf 8 m.data
    let on (f : Nat → Act) : Act := match x.indexOf seg with | some i => f i | none => .skip
    match kind with
    | 0 => on fun i => .segData i attempt m.addr.toNat m.data
    | 1 => on fun i => .segEnd i attempt (leNat (dataOf (m.data.take 16)))
    | 2 => .molt fun x => { x with srcDone := sadd x.srcDone src }
    | 3 => on fun i => .moltRefetch i attempt
    | 4 => .when s.moltCoord (.moltReady src)
    | 5 => .when (s.rd .moltState == 3 || s.rd .moltState == 4) (.moltCommit 0)
    | 6 => .moltAbort ws
    | 7 => if s.moltCoord then .moltAbortAll ws
        else .moltFail (wf ws 0 20 4) (wf ws 0 24 8) src (wf ws 8 0 32) (wf ws 8 32 32) 0 0 0
    | _ => .skip

/-- A message between replicas is delivered (R371, R372). -/
def Act.applyRepair (f kind seg : Nat) (m : Msg) (k : Applied → Act) : Act :=
  .get fun s => match kind with
    | 0 => .seq (.repairData f seg m.data false) (k (.done []))
    | 1 => .seq (.repairData f seg [] true) (k (.done []))
    | 8 =>
      let r := s.repairOf f (leNat (dataOf (m.data.take 2))) (leNat (dataOf ((m.data.drop 2).take 2))) seg
      if !s.memGoes (s.flowCtx f) r.1 then .memWaits f (s.flowCtx f) r.1 k else .seq (.repairServe f seg r.1 r.2) (k (.done []))
    | _ => k (.done [])

/-- Where bytes of a segment's stream go, as far as they are translated. -/
def State.segGoes (s : State) (seg off n : Nat) : List (MemSel × Nat × Nat) :=
  match s.u.molt.indexOf seg with
  | none => []
  | some i => match exAll ((sgPlaces (s.u.molt.seg i) off n).map fun p => s.span s.u.moltCtx p.1 p.2 true) with
    | .ok ls => ls.flatten
    | .error _ => []

/-- A MOLT_SEGMENT message is delivered. One that names no molt executing here is discarded; while the plan is being checked
messages wait (log entry 36), and so does data that memory does not take yet (R277, R280). -/
def Act.applyMolt (f : Nat) (m : Msg) (k : Applied → Act) : Act :=
  .get fun s =>
    let a := m.aux.toNat
    let kind := bits a 0 4
    let seg := bits a 24 32
    if bits a 8 16 = 0xFFFF then .applyRepair f kind seg m k
    else if !s.moltRuns || bits a 8 16 != s.u.molt.id || s.u.moltCtx != s.flowCtx f then k (.done [])
    else if s.rd .moltState == 1 || !s.ownGoes then k .notYet
    else if kind = 0 ∧ s.memGoes s.u.moltCtx (s.segGoes seg m.addr.toNat m.data.length) = false then
      .memWaits f s.u.moltCtx (s.segGoes seg m.addr.toNat m.data.length) k
    else .seq (.moltMsg (s.flowPeer f) kind (bits a 4 4) seg m) (k (.done []))

end Sys2Proof.Machine
end

