-- ==== Sys2Proof/Machine/Deliver.lean ====
section
/-! DEFINITION. Delivery of every sequenced type (R308, R311), on one flow and on the flows of a group. -/

namespace Sys2Proof.Machine

/-- The types that other chapters define; a reserved type is applied as nothing. -/
def applyExt (f : Nat) (m : Msg) (k : Applied → Act) : Act :=
  match m.type.toNat with
  | 8 => .applyColl f m k
  | 9 => .applyLbr f m k
  | 10 => .applyMolt f m k
  | _ => k (.done [])

/-- What a flow holds is delivered as far as it can be (R309). -/
def Act.deliverFlow (f : Nat) (k : List (Nat × Nat) → Act) : Act := .deliver applyExt f deliverFuel [] k

/-- Messages that waited for a collective of a group (R320). -/
def Act.deliverGroup (g : Nat) : Act := .get fun s => .each (s.others g) fun m => .deliverFlow (s.cgBase g + m) fun _ => .skip

end Sys2Proof.Machine
end

