-- ==== Sys2Proof/Machine/TopkGate.lean ====
section
/-! DEFINITION. VE_TOPK_GATE (R171, R172): scores, ranking and choice records of a mixture-of-experts layer. -/

namespace Sys2Proof.Machine

def tgK (d : Desc) : Nat := bits (veFunc d) 0 3 + 1
def tgSpill (d : Desc) : Nat := bits (veFunc d) 3 3
def tgNorm (d : Desc) : Bool := bit (veFunc d) 6
def tgSigmoid (d : Desc) : Bool := bit (veFunc d) 7

/-- PAYLOAD_RESERVED: reserved fields and the fields the command does not use (R131). Modes, formats and the monitor field
have VE_FUNC, and OUT_STRIDE has VE_SHAPE (R171). -/
def tgPayload (d : Desc) : Bool :=
  veZero d && unusedZero [dfld d 0x18 32 21, dfld d 0x20 32 21, dfld d 0x28 32 21, dfld d 0x10 20 1, dfld d 0x10 32 14, Desc.w d 7] &&
    zeroBut [(veB d != 0, veBcFmt d), (veB d != 0, dfld d 0x20 0 21)]

/-- Dispatch checks in code order (R139, R171). -/
def tgCheck (_ : State) (_ _ : Nat) (d : Desc) : Option Nat :=
  if 8 < tgK d + tgSpill d || !(6 ≤ veAFmt d && veAFmt d ≤ 8) || !(veB d == 0 || (veB d == 3 && veBcFmt d == 8)) || veC d != 0 ||
      veOutFmt d != 8 || dfld d 0x10 21 1 == 1 then some 0x31
  else if aPast d || past (dfld d 0x28 0 21) (64 * veRows d) || (veB d == 3 && past (dfld d 0x20 0 21) (4 * veCols d)) then some 0x33
  else if 4096 < veCols d || veStride d != 0 then some 0x34
  else none

def tgRules : OpRules := ⟨tgPayload, fun _ => none, tgCheck⟩

/-- 1 / (1 + exp(−a)), each step as R133 composes silu (log entry 28). -/
def fSigmoid (a : Nat) : Nat := sfuRecip (fAdd fOne (sfuExp2 (fMul (fNeg a) fL2E)))

/-- Softmax scores of a row: exp(a − m) times the reciprocal of their sum in the order of R135 (log entry 28). -/
def softmaxRow (xs : List Nat) : List Nat :=
  let m := rowMax xs
  let es := xs.map fun a => fExp (fSub a m)
  let r := sfuRecip (rowSum es)
  es.map fun e => fMul e r

/-- A choice record (R172). -/
def choiceWord (expert slot weight : Nat) : Nat := expert + slot * 2 ^ 16 + weight * 2 ^ 32

/-- So many of the elements of a list, each once, in an order that free values choose. -/
def freePicks (pick : Nat → Nat) : Nat → List Nat → List Nat
  | 0, _ => []
  | n + 1, l => match l[pick n % l.length]? with
    | some e => e :: freePicks pick n (l.erase e)
    | none => []

/-- The experts of a token by rank: by key, descending, ties to the lower expert. Where a key is no number their order is free (log entry
28). -/
def ranking (t n : Nat) (keys : List Nat) : List Nat :=
  if keys.any fNan then freePicks (Config.freeResult 21 t) n (List.range keys.length) else ((sortDesc keys.zipIdx).map Prod.snd).take n

/-- The eight records of a token as 8-byte words, and whether the token is invalid. A weight beside expert 0xFFFF is free, and ranks
beyond the last expert name none (log entries 28 and 112). -/
def topkToken (d : Desc) (t : Nat) (logits bias : List Nat) : List Nat × Bool :=
  let none_ (r : Nat) : Nat := choiceWord 0xFFFF 0xFFFF (Config.freeResult 20 t r % 2 ^ 32)
  if logits.any fNan then ((List.range 8).map none_, true) else
  let ss := if tgSigmoid d then logits.map fSigmoid else softmaxRow logits
  let keys := if veB d = 3 then (ss.zip bias).map fun p => fAdd p.1 p.2 else ss
  let n := tgK d + tgSpill d
  let best := ranking t n keys
  let w (e : Nat) : Nat := ss.getD e 0
  let total := seqSum ((best.take (tgK d)).map w)
  let scale (x : Nat) : Nat := if tgNorm d then fMul x (sfuRecip total) else x
  ((List.range 8).map fun r =>
    match best[r]? with
      | some e => choiceWord e 0xFFFF (scale (w e))
      | none => none_ r, false)

/-- The per-expert bias (R171). -/
def State.tgBias (s : State) (m : Cmd) : List (Nat × Bool) :=
  if veB m.d = 3 then (List.range (veCols m.d)).map fun j => s.veBcVal m.core m.d 3 (dfld m.d 0x20 0 21) 0 0 j else []

def tgPiece (m : Cmd) (k : PieceRes → Act) : Act :=
  .get fun s =>
    let d := m.d
    let bias := s.tgBias m
    let toks := (List.range (veRows d)).map fun t =>
      let a := s.veARow m.core d t
      (topkToken d t (a.map Prod.fst) (bias.map Prod.fst), a.any Prod.snd || bias.any Prod.snd)
    .all [.needUnit unitVE m.core,
      .each toks.zipIdx fun (x, t) => .wrScr m.core (dfld d 0x28 0 21 + 64 * t)
        ((x.1.1.flatMap (leBytes 8)).map fun b => (b, x.2)),
      .count .attnMoeCount m.core 7 (toks.filter fun x => x.1.2).length,
      k (.done { m with piece := 1, poison := toks.any Prod.snd })]

def tgRun : OpRun := { prep := onePiece, piece := tgPiece }

end Sys2Proof.Machine
end

