-- ==== Sys2Proof/Machine/FabricCmd.lean ====
section
/-! DEFINITION. The fabric commands of the data movers (R173 to R176, R317 to R323, R325, R354, R355, R373): puts, gets, atomics,
collectives, expert dispatch and combine, molt segments and digests. -/

namespace Sys2Proof.Machine

/-! ### Flows that a command waits on (R306, R311, R312, R319) -/

/-- DM_FLOW of R319: not VALID, another context's, or of another class. -/
def State.flowBad (s : State) (ctx f : Nat) (classes : List Nat) : Bool :=
  !s.flowValid f || s.flowCtx f != ctx || !classes.contains (s.flowClass f)

/-- The command's next piece on its flows: it waits for them to open, and then until nothing of it is owed; a failed flow ends it
ABORTED. -/
def flowPrep (fs : List Nat) (s : State) (m : Cmd) : Prep :=
  if fs.any fun f => s.flowSt f == 3 || s.flowSt f == 0 then .abort
  else if m.piece = 0 then if fs.any fun f => s.flowSt f == 1 then .hold else .ready m
  else if fs.any fun f => s.owes f m then .hold else .over m

/-! ### DM_PUT and DM_GET (R317) -/

def fcFlow (d : Desc) : Nat := dfld d 0x10 0 13
def fcScr (d : Desc) : Bool := dfld d 0x10 16 1 == 1
def fcLen (d : Desc) : Nat := dfld d 0x10 32 32
def fcLocal (d : Desc) : Nat := dfld d 0x18 0 48
def fcRemote (d : Desc) : Nat := dfld d 0x20 0 48

def pgPayload (d : Desc) : Bool :=
  zeroBits (Desc.w d 2) [(13, 3), (18, 14)] && zeroBits (Desc.w d 3) [(48, 16)] && zeroBits (Desc.w d 4) [(48, 16)] &&
    ([5, 6, 7].all fun k => Desc.w d k == 0) && fcLen d != 0 && !(hOpcode d == 0x8B && dfld d 0x10 17 1 == 1)

def pgCheck (s : State) (_ ctx : Nat) (d : Desc) : Option Nat :=
  if s.flowBad ctx (fcFlow d) (if hOpcode d = 0x8A then [1, 4, 5, 6] else [1]) ||
      (fcScr d && scrBad 1 (fcLocal d) (fcLen d)) then some 0x28 else none

def pgRules : OpRules := ⟨pgPayload, fun _ => none, pgCheck⟩

/-- The local bytes of a put. -/
def State.putBytes (s : State) (m : Cmd) : Except Flt (List (MemSel × Nat × Nat)) :=
  if fcScr m.d then .ok [(.scratch, m.core * 2 ^ 21 + fcLocal m.d, fcLen m.d)] else s.span m.ctx (fcLocal m.d) (fcLen m.d) false

def putPiece (m : Cmd) (k : PieceRes → Act) : Act :=
  .get fun s =>
    match s.putBytes m with
    | .error e => k (.flt e 0x27)
    | .ok l =>
      let bs := s.rdSpan l
      .needMem m l k (.all [.needUnit unitDM m.core, .noteSpan m.ctx l, .charge m.ctx l,
        .flowSend (fcFlow m.d) (some (m.q, m.idx)) (dataMsgs 0 (fcRemote m.d) (fun _ => 0) id (dfld m.d 0x10 17 1 == 1) bs),
        k (.sent { m with piece := 1, poison := anyPoison bs } true)])

def putRun : OpRun := { prep := fun s m => flowPrep [fcFlow m.d] s m, piece := putPiece }

/-- A response is due on the command's flow. -/
def Act.await (m : Cmd) (a : Await) : Act := .flow (fcFlow m.d) fun g => { g with awaits := g.awaits ++ [a] }

def getPiece (m : Cmd) (k : PieceRes → Act) : Act :=
  .all [.needUnit unitDM m.core,
    .await m { q := m.q, idx := m.idx, core := m.core, ctx := m.ctx, atomic := false, scr := fcScr m.d, addr := fcLocal m.d, len := fcLen m.d },
    .flowSend (fcFlow m.d) (some (m.q, m.idx)) [{ type := 1, addr := BitVec.ofNat 48 (fcRemote m.d), aux := BitVec.ofNat 64 (fcLen m.d) }],
    k (.sent { m with piece := 1 } true)]

def getRun : OpRun := { prep := fun s m => flowPrep [fcFlow m.d] s m, piece := getPiece }

/-! ### DM_ATOMIC_ADD (R318) -/

def aaOp (d : Desc) : Nat := dfld d 0x10 16 2
def aaBytes (d : Desc) : Nat := if aaOp d = 1 then 4 else 8
def aaRemote (d : Desc) : Nat := dfld d 0x18 0 48

def aaPayload (d : Desc) : Bool :=
  zeroBits (Desc.w d 2) [(13, 3), (19, 45)] && zeroBits (Desc.w d 3) [(48, 16)] && zeroBits (Desc.w d 5) [(21, 43)] &&
    ([6, 7].all fun k => Desc.w d k == 0) && !(aaOp d == 1 && Desc.w d 4 / 2 ^ 32 != 0)

def aaCheck (s : State) (_ ctx : Nat) (d : Desc) : Option Nat :=
  if s.flowBad ctx (fcFlow d) [1] then some 0x28
  else if 2 ≤ aaOp d || aaRemote d % aaBytes d != 0 || (dfld d 0x10 18 1 == 1 && past (dfld d 0x28 0 21) (aaBytes d)) then some 0x2A
  else none

def aaRules : OpRules := ⟨aaPayload, fun _ => none, aaCheck⟩

def aaPiece (m : Cmd) (k : PieceRes → Act) : Act :=
  .all [.needUnit unitDM m.core,
    .await m { q := m.q, idx := m.idx, core := m.core, ctx := m.ctx, atomic := true, scr := true,
               addr := dfld m.d 0x28 0 21, len := if dfld m.d 0x10 18 1 = 1 then aaBytes m.d else 0 },
    .flowSend (fcFlow m.d) (some (m.q, m.idx)) [{ type := 3, addr := BitVec.ofNat 48 (aaRemote m.d), aux := m.d.w4,
                                                  op := BitVec.ofNat 2 (aaOp m.d) }],
    k (.sent { m with piece := 1 } true)]

def aaRun : OpRun := { prep := fun s m => flowPrep [fcFlow m.d] s m, piece := aaPiece }

/-! ### DM_COLLECTIVE (R320 to R323) -/

/-- The flows of a collective's group. -/
def State.coFlows (s : State) (d : Desc) : List Nat := (s.others (coGroup d)).map (s.cgBase (coGroup d) + ·)

/-- A collective waits for its flows; a late-bound reduce also waits until its stream's open reduction has closed, since reductions of a
stream follow one another (R252, R323; log entry 102). -/
def coPrep (s : State) (m : Cmd) : Prep :=
  if m.piece = 0 then match flowPrep (s.coFlows m.d) s m with
    | .ready x => if coLbr m.d && (s.lbr (coStream m.d)).isOpen then .hold else .ready x
    | r => r
  else match s.coll m.q m.idx with
    | none => .abort
    | some c => match flowPrep (s.coFlows m.d) s m with
      | .over x => if s.collDone c then .over { x with mon := c.mon, poison := c.poison } else .hold
      | r => r

/-- The collective starts; what its members sent before is used at once. -/
def coPiece (m : Cmd) (k : PieceRes → Act) : Act :=
  .get fun s => .needMem m (s.coPlaces m.ctx m.d) k <|
    .all [.needUnit unitDM m.core, .needUnit unitColl m.core, .collStart m.q m.idx, .collTry m.q m.idx collFuel, .deliverGroup (coGroup m.d),
      .get fun s => if s.ctxState m.ctx = 1 then k (.sent { m with piece := 1 } false) else .skip]

def coRun : OpRun := { prep := coPrep, piece := coPiece, finish := fun m => .collEnd m.q m.idx, aborted := .collAbort }

/-! ### DM_DISPATCH (R173 to R176, R325) -/

def dpCombine (d : Desc) : Bool := dfld d 0x10 0 1 == 1
def dpK (d : Desc) : Nat := dfld d 0x10 1 3 + 1
def dpSpill (d : Desc) : Nat := dfld d 0x10 4 3
def dpFmt (d : Desc) : Nat := dfld d 0x10 8 4
def dpTok (d : Desc) : Nat := dfld d 0x10 16 16 + 1
def dpExp (d : Desc) : Nat := dfld d 0x10 32 12 + 1
def dpGate (d : Desc) : Nat := dfld d 0x18 0 21
def dpTable (d : Desc) : Nat := dfld d 0x18 32 21
def dpX (d : Desc) : Nat := dfld d 0x20 0 21
def dpRet (d : Desc) : Nat := dfld d 0x20 32 21
def dpRow (d : Desc) : Nat := dfld d 0x28 0 21

/-- K + SPILL above 8 is a reserved value here (log entry 37). -/
def dpPayload (d : Desc) : Bool :=
  zeroBits (Desc.w d 2) [(7, 1), (12, 4), (44, 20)] && zeroBits (Desc.w d 3) [(21, 11), (53, 11)] &&
    zeroBits (Desc.w d 4) [(21, 11), (53, 11)] && zeroBits (Desc.w d 5) [(21, 43)] && ([6, 7].all fun k => Desc.w d k == 0) &&
    dpK d + dpSpill d ≤ 8

/-- Bytes of an element of a row. -/
def dpElem (d : Desc) : Nat := if dpFmt d = 8 then 4 else 2

def dpCheck (_ : State) (_ _ : Nat) (d : Desc) : Option Nat :=
  if !([6, 7, 8].contains (dpFmt d)) then some 0x20
  else if dpRow d == 0 || past (dpGate d) (64 * dpTok d) || past (dpTable d) (16 * dpExp d) || past (dpX d) (dpRow d * dpTok d) then some 0x22
  else if dpRow d % dpElem d != 0 then some 0x23
  else none

def dpRules : OpRules := ⟨dpPayload, fun _ => none, dpCheck⟩

/-- The expert table, two words an entry (R174). Its reserved bits are not read (log entry 112). -/
def State.dpEntries (s : State) (core : Nat) (d : Desc) : List (Nat × Nat) :=
  (List.range (dpExp d)).map fun e =>
    let bs := dataOf (s.rdScr core (dpTable d + 16 * e) 16)
    (leNat (bs.take 8), leNat (bs.drop 8))

/-- The flows the table names for KIND 1, each once (R325). -/
def dpFlows (es : List (Nat × Nat)) : List Nat := ((es.filter fun e => bits e.1 48 2 == 1).map fun e => bits e.2 0 13).eraseDups

/-- Slot assignment under way: the records by token, slots taken by expert, overflowed choices, spill choices used, rows to send
(token, expert, slot), and how many were substituted and left over (R175). -/
structure Assign where
  recs : List (List Nat)
  count : List Nat
  ovf : List (Nat × Nat) := []
  used : List (Nat × Nat) := []
  rows : List (Nat × Nat × Nat) := []
  subst : Nat := 0
  residual : Nat := 0

def recExpert (w : Nat) : Nat := bits w 0 16
def recWeight (w : Nat) : Nat := bits w 32 32

/-- The record of a token and rank. -/
def Assign.rec_ (a : Assign) (t r : Nat) : Nat := (a.recs.getD t []).getD r 0

/-- A record is written. -/
def Assign.put (a : Assign) (t r w : Nat) : Assign := { a with recs := lset a.recs t (lset (a.recs.getD t []) r w) }

/-- A row takes the next slot of an expert. -/
def Assign.take (a : Assign) (t r e weight : Nat) : Assign :=
  let slot := a.count.getD e 0
  { a.put t r (choiceWord e slot weight) with count := lset a.count e (slot + 1), rows := a.rows ++ [(t, e, slot)] }

/-- Pass 1 at one token and rank. -/
def assign1 (cap : Nat → Nat) (a : Assign) (t r : Nat) : Assign :=
  let w := a.rec_ t r
  let e := recExpert w
  if e = 0xFFFF then a
  else if a.count.getD e 0 < cap e then a.take t r e (recWeight w)
  else { a with ovf := a.ovf ++ [(t, r)] }

/-- Pass 2 at one overflowed token and rank. -/
def assign2 (k spill : Nat) (cap : Nat → Nat) (a : Assign) (t r : Nat) : Assign :=
  let holds (e : Nat) : Bool := a.rows.any fun x => x.1 == t && x.2.1 == e
  let c := ((List.range spill).map (k + ·)).find? fun c =>
    !a.used.contains (t, c) && recExpert (a.rec_ t c) != 0xFFFF && !holds (recExpert (a.rec_ t c))
  match c with
  | some c =>
    let e := recExpert (a.rec_ t c)
    if a.count.getD e 0 < cap e then
      { a.take t r e (recWeight (a.rec_ t c)) with used := a.used ++ [(t, c)], subst := a.subst + 1 }
    else { a.put t r (choiceWord 0xFFFF 0xFFFF (recWeight (a.rec_ t r))) with residual := a.residual + 1 }
  | none => { a.put t r (choiceWord 0xFFFF 0xFFFF (recWeight (a.rec_ t r))) with residual := a.residual + 1 }

/-- Both passes. -/
def assignSlots (k spill : Nat) (cap : Nat → Nat) (nexp : Nat) (recs : List (List Nat)) : Assign :=
  let a0 : Assign := { recs := recs, count := List.replicate nexp 0 }
  let a1 := (List.range k).foldl (fun a r => (List.range recs.length).foldl (fun a t => assign1 cap a t r) a) a0
  (List.range k).foldl (fun a r => (List.range recs.length).foldl (fun a t =>
    if a1.ovf.contains (t, r) then assign2 k spill cap a t r else a) a) a1

/-- The choice records, word by word. -/
def State.dpRecords (s : State) (core : Nat) (d : Desc) : List (List Nat) :=
  (List.range (dpTok d)).map fun t => wordsOf 8 (s.rdScr core (dpGate d + 64 * t) 64)

/-- What ends a dispatch or combine at its records or table: poison in them, an expert beyond the table, a reserved KIND. -/
def State.dpBad (s : State) (m : Cmd) (recs : List (List Nat)) (es : List (Nat × Nat)) : Option Nat :=
  let d := m.d
  if anyPoison (s.rdScr m.core (dpGate d) (64 * dpTok d)) || anyPoison (s.rdScr m.core (dpTable d) (16 * dpExp d)) then some 0x1A
  else if (es.any fun e => 2 ≤ bits e.1 48 2) || recs.any fun ws => (ws.take (dpK d + dpSpill d)).any fun w =>
      recExpert w != 0xFFFF && dpExp d ≤ recExpert w then some 0x25
  else none

/-- Rows for local experts: their places, or the fault (R174). -/
def State.dpLocal (s : State) (m : Cmd) (es : List (Nat × Nat)) (rows : List (Nat × Nat × Nat)) :
    Except Flt (List (Nat × List (MemSel × Nat × Nat))) :=
  exAll ((rows.filter fun x => bits (es.getD x.2.1 (0, 0)).1 48 2 == 0).map fun x =>
    match s.span m.ctx (bits (es.getD x.2.1 (0, 0)).1 0 48 + x.2.2 * dpRow m.d) (dpRow m.d) true with
    | .error e => .error e
    | .ok l => .ok (x.1, l))

/-- DISPATCH (R175, R325). -/
def dpSend (m : Cmd) (k : PieceRes → Act) : Act :=
  .get fun s =>
    let d := m.d
    let recs := s.dpRecords m.core d
    let es := s.dpEntries m.core d
    let fs := dpFlows es
    match s.dpBad m recs es with
    | some r => k (.fault 3 r 0 0)
    | none =>
      if fs.any fun f => s.flowBad m.ctx f [5] then k (.fault 3 0x28 0 0) else
      let a := assignSlots (dpK d) (dpSpill d) (fun e => bits (es.getD e (0, 0)).2 16 16) (dpExp d) recs
      let row (t : Nat) : PBytes := s.rdScr m.core (dpX d + t * dpRow d) (dpRow d)
      match s.dpLocal m es a.rows with
      | .error e => k (.flt e 0x27)
      | .ok ls => .needMem m (ls.flatMap Prod.snd) k (.all [.needUnit unitDM m.core, .needUnit unitDispatch m.core,
          .each ls fun x => .all [.charge m.ctx x.2, .wrSpan x.2 (row x.1), .noteOut m.ctx x.2 (row x.1)],
          .each (a.rows.filter fun x => bits (es.getD x.2.1 (0, 0)).1 48 2 == 1) fun x =>
            let e := es.getD x.2.1 (0, 0)
            .flowSend (bits e.2 0 13) (some (m.q, m.idx))
              (dataMsgs 0 (bits e.1 0 48 + x.2.2 * dpRow d) (fun _ => 0) id false (row x.1)),
          .each fs fun f => .flowSend f (some (m.q, m.idx)) [{ type := 7, notice := true }],
          .wrScr m.core (dpGate d) (a.recs.flatMap fun ws => ws.flatMap (cleanBytes 8)),
          .count .attnMoeCount m.core 4 a.rows.length, .count .attnMoeCount m.core 5 a.subst, .count .attnMoeCount m.core 6 a.residual,
          k (.sent { m with piece := 1, waitOps := fs, poison := a.rows.any fun x => anyPoison (row x.1) } true)])

/-- The combined row of a token, or nothing where a returned row passes the end of scratch (R176). -/
def State.dpToken (s : State) (m : Cmd) (es : List (Nat × Nat)) (ws : List Nat) : Option RowOut :=
  let d := m.d
  let f := (dfmt (dpFmt d)).getD .fp32
  let n := dpRow d / dpElem d
  let used := (ws.take (dpK d)).filter fun w => recExpert w != 0xFFFF
  let at_ (w : Nat) : Nat := dpRet d + (bits (es.getD (recExpert w) (0, 0)).2 32 32 + bits w 16 16) * dpRow d
  if used.any fun w => past (at_ w) (dpRow d) then none else
  let rows := used.map fun w => (recWeight w, s.rdScr m.core (at_ w) (dpRow d))
  let bad := rows.any fun r => anyPoison r.2
  let sum := rows.foldl (fun acc r =>
    (acc.zip (valsOf f n r.2 [])).map fun p => fFma r.1 (fp32.arith p.2.1) p.1) (List.replicate n 0)
  some (writeVals f false (sum.map fun v => (fp32.val v, bad)))

/-- COMBINE (R176). -/
def dpReturn (m : Cmd) (k : PieceRes → Act) : Act :=
  .get fun s =>
    let d := m.d
    let recs := s.dpRecords m.core d
    let es := s.dpEntries m.core d
    match s.dpBad m recs es with
    | some r => k (.fault 3 r 0 0)
    | none =>
      let outs := recs.map (s.dpToken m es)
      if outs.any Option.isNone then k (.fault 3 0x22 0 0) else
      let rows := outs.filterMap id
      .all [.needUnit unitDM m.core, .needUnit unitDispatch m.core, .each rows.zipIdx fun x => .wrScr m.core (dpX d + x.2 * dpRow d) x.1.elems,
        k (.done { m with piece := 1, poison := rows.any RowOut.poison })]

/-- A dispatch waits for the flows of its table to open, and for what it sent. -/
def dpPrep (s : State) (m : Cmd) : Prep :=
  if m.piece = 0 then flowPrep (if dpCombine m.d then [] else (dpFlows (s.dpEntries m.core m.d)).filter fun f => !s.flowBad m.ctx f [5]) s m
  else flowPrep m.waitOps s m

def dpRun : OpRun := { prep := dpPrep, piece := fun m k => if dpCombine m.d then dpReturn m k else dpSend m k }

/-! ### DM_MOLT_SEGMENT (R354, R355) -/

def msIndex (d : Desc) : Nat := dfld d 0x10 0 20
def msAttempt (d : Desc) : Nat := dfld d 0x10 20 2
def msAlt (d : Desc) : Bool := dfld d 0x10 22 1 == 1

def msPayload (d : Desc) : Bool :=
  zeroBits (Desc.w d 2) [(23, 41)] && zeroBits (Desc.w d 3) [(48, 16)] && [4, 5, 6, 7].all fun k => Desc.w d k == 0

/-- The flow a segment is sent on, if it leaves the device. -/
def State.msFlow (s : State) (d : Desc) : Option Nat :=
  let dst := sgDstDev (s.u.molt.seg (msIndex d))
  if dst = s.fabric then none else s.u.molt.flowTo dst

/-- The command belongs to the molt that runs. -/
def State.msCurrent (s : State) (ctx : Nat) (d : Desc) : Bool :=
  s.moltOf ctx && s.u.molt.plan == dfld d 0x18 0 48 && msIndex d < s.u.molt.segs.length

def msCheck (s : State) (_ ctx : Nat) (d : Desc) : Option Nat :=
  let e := s.u.molt.seg (msIndex d)
  if !s.msCurrent ctx d then some 0x2B
  else if (match s.msFlow d with | some f => s.flowBad ctx f [4] | none => sgDstDev e != s.fabric) then some 0x28
  else if (if msAlt d then sgAltDev e else sgSrcDev e) != s.fabric then some 0x2B
  else none

def msRules : OpRules := ⟨msPayload, fun _ => none, msCheck⟩

def msPrep (s : State) (m : Cmd) : Prep :=
  if !s.msCurrent m.ctx m.d then .abort else flowPrep (s.msFlow m.d).toList s m

/-- A fault at the source is reported to the destination (R358). -/
def Act.sourceFault (e : List Nat) (attempt : Nat) : Act :=
  .get fun s =>
    let shard := wf (s.u.molt.shard (sgShard e)) 0 0 32
    if sgDstDev e = s.fabric then .moltFail (attempt + 1) causeSource s.fabric shard (sgId e) 0 0 0
    else .moltSend (sgDstDev e) 7 attempt (sgId e) (wordBytes (s.moltWords 1 (attempt + 1) causeSource s.fabric shard (sgId e) 0 0 0))

/-- The memory that a segment's command reaches: its source, and its destination where that is this device (R276, R277). -/
def State.msPlaces (s : State) (m : Cmd) (e : List Nat) (l : List (List (MemSel × Nat × Nat))) (n : Nat) : List (MemSel × Nat × Nat) :=
  l.flatten ++ match s.msFlow m.d with
    | some _ => []
    | none => s.segGoes (sgId e) 0 n

/-- One segment: read, transformed, folded and sent, or written here (R355, R357). -/
def msPiece (m : Cmd) (k : PieceRes → Act) : Act :=
  .get fun s =>
    let x := s.u.molt
    let i := msIndex m.d
    let e := x.seg i
    let a := msAttempt m.d
    match s.sgSource m.ctx (if msAlt m.d then wf e 0x20 0 48 else wf e 0x10 0 48) e with
    | .error er => .seq (.sourceFault e a) (k (.flt er 0x27))
    | .ok l =>
      let (bs, mon) := s.sgRead e l
      let digest := foldDigest x.key (dataOf bs)
      let aux (kind : Nat) : Nat := kind + a * 2 ^ 4 + x.id * 2 ^ 8 + sgId e * 2 ^ 24
      let last : Msg := { type := 10, aux := BitVec.ofNat 64 (aux 1), data := cleanBytes 16 digest }
      .needMem m (s.msPlaces m e l bs.length) k (.all [.needUnit unitDM m.core, .needUnit unitReshard m.core, .needUnit unitFold m.core,
        .noteSpan m.ctx l.flatten, .charge m.ctx l.flatten, .count .moltCount 0 5 bs.length,
        (match s.msFlow m.d with
          | some f => .flowSend f (some (m.q, m.idx)) (dataMsgs 10 0 (fun _ => aux 0) id false bs ++ [last])
          | none => .seq (.segData i a 0 bs) (.get fun s => .when s.moltRuns (.segEnd i a digest))),
        .get fun s => if s.ctxState m.ctx = 1 then k (.sent { m with piece := 1, mon := mon, poison := anyPoison bs } true) else .skip])

/-- A segment of this device's has retired: the next one may be written, and a destination that has them all is told (R356, R359;
log entry 38). -/
def Act.msDone (m : Cmd) : Act :=
  .get fun s => .when (s.msCurrent m.ctx m.d) (.seq
    (.molt fun x => { x with running := x.running.erase (msIndex m.d, msAttempt m.d, msAlt m.d), retired := sadd x.retired (msIndex m.d) })
    (.get fun s =>
      let x := s.u.molt
      let dst := sgDstDev (x.seg (msIndex m.d))
      let mine := (List.range x.segs.length).filter fun i => sgSrcDev (x.seg i) == s.fabric && sgDstDev (x.seg i) == dst
      .seq (.when (dst != s.fabric && !x.told.contains dst && mine.all fun i => x.retired.contains i)
        (.seq (.molt fun x => { x with told := x.told ++ [dst] }) (.moltSend dst 2 0 mine.length))) .moltMayWait))

/-- Its counts go to the tensor ID of the entry, where the molt's context owns it (R63). -/
def Act.msFinish (m : Cmd) : Act :=
  .get fun s => .seq (match sgMon (s.u.molt.seg (msIndex m.d)) with
    | some tid => .when (s.msCurrent m.ctx m.d && s.tidOwner tid == some m.ctx) (.monitor tid m.mon)
    | none => .skip) (.msDone m)

def msRun : OpRun := { prep := msPrep, piece := msPiece, finish := .msFinish, aborted := .msDone }

/-! ### DM_DIGEST (R373) -/

def dgAddr (d : Desc) : Nat := dfld d 0x10 0 48
def dgLen (d : Desc) : Nat := dfld d 0x18 0 27
def dgKey (d : Desc) : Nat := dfld d 0x20 0 21
def dgOut (d : Desc) : Nat := dfld d 0x20 32 21

def dgPayload (d : Desc) : Bool :=
  zeroBits (Desc.w d 2) [(48, 16)] && zeroBits (Desc.w d 3) [(27, 37)] && zeroBits (Desc.w d 4) [(21, 11), (53, 11)] &&
    ([5, 6, 7].all fun k => Desc.w d k == 0) && dgLen d != 0 && dgLen d ≤ 67108864

def dgRules : OpRules :=
  ⟨dgPayload, fun _ => none, fun _ _ _ d => if past (dgKey d) 16 || past (dgOut d) 16 then some 0x22 else none⟩

def dgPiece (m : Cmd) (k : PieceRes → Act) : Act :=
  .get fun s =>
    let d := m.d
    let keyBytes := s.rdScr m.core (dgKey d) 16
    let key := leNat (dataOf keyBytes)
    if key = 0 then k (.fault 3 0x2C 0 0)
    else match s.span m.ctx (dgAddr d) (dgLen d) false with
      | .error e => k (.flt e 0x27)
      | .ok l =>
        let bs := s.rdSpan l
        .needMem m l k (.all [.needUnit unitDM m.core, .needUnit unitFold m.core, .noteSpan m.ctx l, .charge m.ctx l,
          .wrScr m.core (dgOut d) (cleanBytes 16 (foldDigest key (dataOf bs))),
          k (.done { m with piece := 1, poison := anyPoison keyBytes || anyPoison bs })])

def dgRun : OpRun := { prep := onePiece, piece := dgPiece }

/-! ### FLOW_CFG (R306, R334) -/

/-- The flows that a DM command names, on its own, by its group, by its expert table or by its segment. -/
def State.namesFlow (s : State) (m : Cmd) (f : Nat) : Bool :=
  match hOpcode m.d with
  | 0x8A | 0x8B | 0x8C => fcFlow m.d == f
  | 0x84 => (s.coFlows m.d).contains f
  | 0x85 => !dpCombine m.d && (if m.piece = 0 then dpFlows (s.dpEntries m.core m.d) else m.waitOps).contains f
  | 0x88 => s.msCurrent m.ctx m.d && s.msFlow m.d == some f
  | _ => false

/-- A flow has an unretired command (R334). -/
def State.flowBusy (s : State) (f : Nat) : Bool :=
  (s.u.core.engQ.any fun p => p.2.any fun m => opClass (hOpcode m.d) == some 4 && s.namesFlow m f) ||
    s.u.core.cc.any fun p => p.2.saved.any fun m => opClass (hOpcode m.d) == some 4 && s.namesFlow m f

/-- A value of FLOW_CFG is allowed (R334). -/
def State.flowCfgOk (s : State) (v : Nat) : Bool :=
  [1, 3, 4, 5, 6].contains (bits v 1 3) && bits v 32 16 != s.fabric && bits v 64 8 ≤ 191 &&
    zeroBits v [(4, 4), (18, 14), (61, 3), (76, 52), (128, 128)]

/-- FLOW_CFG's rule: VALID 1 opens the flow anew, VALID 0 disables it (R306, R334). -/
def ruleFlowCfg : Rule := ctxRule (fun s i => s.flowCtx i) fun r i v k =>
  .get fun s =>
    if !s.mayWriteCtx r (bits v 8 10) then k stAccess
    else if s.flowBusy i || !s.flowCfgOk v then k stRefused
    else if bit v 0 && (match (s.flow i).validAt with | some t => s.now < t + 50000000 | none => false) then k stBusy
    else if bit v 0 then .all [
      .store .flowCfg i v, .flow i fun g => { validAt := some s.now, abortAt := g.abortAt },
      .fld .flowState i 0 16 8 (s.flowGen i % 255 + 1), .fld .flowState i 0 24 8 0, .fld .flowState i 8 0 64 0,
      .fld .flowState i 0x10 0 41 0, .flowState i 1 0, .sendOpen i, k stOk]
    else .all [.flowDisable i, .store .flowCfg i v, k stOk]

/-- Flow entries of a context return to their defaults (R332). -/
def Act.flowDropOf (ctx : Nat) : Act :=
  .get fun s => .each (s.flowsOfCtx ctx) fun f => .all [.flowDisable f, .regErase .flowCfg f, .regErase .flowState f]

end Sys2Proof.Machine
end

