-- ==== Sys2Proof/Machine/Optim.lean ====
section
/-! DEFINITION. VE_UPDATE (R237 to R251): Adam with 8-bit moments on split (class S) and remainder (class C) parameters, with
stochastic rounding. -/

namespace Sys2Proof.Machine

/-! ### Payload (R241) -/

def upC (d : Desc) : Bool := dfld d 0x10 0 1 == 1
def upG (d : Desc) : Nat := dfld d 0x10 1 4
def upP (d : Desc) : Nat := dfld d 0x10 5 4
def upR (d : Desc) : Nat := dfld d 0x10 9 4
def upFit (d : Desc) : Bool := dfld d 0x10 13 1 == 1
def upMon (d : Desc) : Option Nat := if dfld d 0x10 14 1 = 1 then some (dfld d 0x10 16 14) else none
def upXIn (d : Desc) : Int := sInt 8 (dfld d 0x10 32 8)
def upXOut (d : Desc) : Int := sInt 8 (dfld d 0x10 40 8)
def upRows (d : Desc) : Nat := dfld d 0x10 48 16 + 1
def upCols (d : Desc) : Nat := dfld d 0x30 32 20 + 1
def upPFmt (d : Desc) : DFmt := (dfmt (upP d)).getD .bf16
def upRFmt (d : Desc) : DFmt := (dfmt (upR d)).getD .e4m3
def upGFmt (d : Desc) : DFmt := (dfmt (upG d)).getD .fp32
def upRec (d : Desc) : Nat := dfld d 0x20 42 21

def upPayload (d : Desc) : Bool :=
  zeroBits (Desc.w d 2) [(15, 1), (30, 2)] && zeroBits (Desc.w d 3) [(63, 1)] && zeroBits (Desc.w d 4) [(63, 1)] &&
    zeroBits (Desc.w d 5) [(63, 1)] && zeroBits (Desc.w d 6) [(21, 11), (52, 12)] && Desc.w d 7 == 0

/-- Bytes of the parameter's halves or parts, of their scales, of a moment's codes and scales. -/
def upN (d : Desc) : Nat := upRows d * upCols d

/-- Dispatch checks in code order (R250). -/
def upCheck (_ : State) (_ _ : Nat) (d : Desc) : Option Nat :=
  let n := upN d
  let c := upC d
  let sc := cdiv n 32
  if !(upG d == 6 || upG d == 8) || (if c then !(upP d ≤ 5) || !(upR d == 3 || upR d == 4) else upP d != 6 || upR d != 0)
  then some 0x30
  else if past (dfld d 0x18 0 21) ((upGFmt d).bytes n) || past (dfld d 0x18 21 21) (cdiv ((upPFmt d).ebits * n) 8) ||
      past (dfld d 0x20 0 21) (if c then n else 2 * n) || (c && (past (dfld d 0x18 42 21) sc || past (dfld d 0x20 21 21) sc)) ||
      past (dfld d 0x28 0 21) n || past (dfld d 0x28 21 21) sc || past (dfld d 0x28 42 21) n || past (dfld d 0x30 0 21) sc ||
      past (upRec d) 64 then some 0x33
  else if upCols d % 32 != 0 then some 0x34
  else if (if c then dfld d 0x10 32 16 != 0 else dfld d 0x18 42 21 != 0 || dfld d 0x20 21 21 != 0) then some 0x35
  else none

def upRules : OpRules := ⟨upPayload, upMon, upCheck⟩

/-! ### The parameter record (R242) -/

/-- FP32 word `k` of a record of 16 words. -/
def recWord (v k : Nat) : Nat := bits v (32 * k) 32

/-- The hyperparameters of a record's words 0 to 9. -/
structure Hyper where
  lr : Nat
  b1 : Nat
  omb1 : Nat
  b2 : Nat
  omb2 : Nat
  eps : Nat
  wd : Nat
  c1 : Nat
  c2 : Nat
  gscale : Nat
  deriving DecidableEq, Repr

def hyperOf (v : Nat) : Hyper :=
  ⟨recWord v 0, recWord v 1, recWord v 2, recWord v 3, recWord v 4, recWord v 5, recWord v 6, recWord v 7, recWord v 8, recWord v 9⟩

/-- What a command folds into the record and the counters. -/
structure UpCount where
  emax : Int := -128
  skipped : Nat := 0
  lowSat : Nat := 0
  flushed : Nat := 0
  momSat : Nat := 0
  mon : MonDelta := {}
  deriving DecidableEq, Repr

def UpCount.add (a b : UpCount) : UpCount :=
  ⟨max a.emax b.emax, a.skipped + b.skipped, a.lowSat + b.lowSat, a.flushed + b.flushed, a.momSat + b.momSat, a.mon.add b.mon⟩

/-! ### One element (R244, R246) -/

/-- The inputs of an element: gradient, both moments, the value of h or p, and of l · 2^X or r; for class S the bits of h and l. -/
structure UpIn where
  g : Val
  m : Val
  s : Val
  w : Val
  low : Val
  poison : Bool
  raw : Nat × Nat := (0, 0)
  deriving DecidableEq, Repr

/-- What the steps of R244 give: new moments, x exactly, whether the element was skipped, and the bits it had. -/
structure UpEl where
  m : Val
  s : Val
  x : Val
  skipped : Bool
  raw : Nat × Nat := (0, 0)
  deriving DecidableEq, Repr

/-- An exact value times an FP32 code, added to another, rounded once. -/
def fmaV (a b c : Val) : Nat := fp32.arith ((a.mul b).add c)

/-- One element (R244). A skipped one keeps its value, the sign of a zero with it (R246). -/
def upElement (h : Hyper) (x : UpIn) : UpEl :=
  let v32 := fp32.val
  let g := fp32.arith (x.g.mul (v32 h.gscale))
  let m := fmaV (v32 h.b1) x.m (v32 (fMul h.omb1 g))
  let v := fmaV (v32 h.b2) (v32 (fp32.arith (x.s.mul x.s))) (v32 (fMul h.omb2 (fMul g g)))
  let s := if (v32 v).isZero then 0 else fMul v (sfuRsqrt v)
  let d := fMul (fMul m h.c1) (sfuRecip (fFma s h.c2 h.eps))
  let u := fMul h.lr (fmaV (v32 h.wd) x.w (v32 d))
  let skip := [g, m, v, s, d, u].any fBad || x.m.nonFinite || x.s.nonFinite
  { m := if skip then x.m else v32 m
    s := if skip then x.s else v32 s
    x := if skip then (if x.low.isZero then x.w else x.w.add x.low) else (x.w.add x.low).add (v32 u).negate
    skipped := skip
    raw := x.raw }

/-- The low half: (x − h) · 2^-X on the grid of integers, stochastically rounded, at most 32,767 in magnitude (R59, R244). -/
def lowHalf (v : Val) (r : Nat) : Nat × Bool :=
  match v with
  | .fin n m e =>
    let t := if 0 ≤ e then m <<< e.toNat else m >>> (-e).toNat
    let fr := if 0 ≤ e then 0 else (m % 2 ^ (-e).toNat) * 2 ^ 16 / 2 ^ (-e).toNat
    let a := t + (if 2 ^ 16 ≤ r + fr then 1 else 0)
    let c := min a 32767
    (ofInt 16 (if n then -(c : Int) else c), 32767 < a)
  | _ => (0, false)

/-- The unbiased exponent of a finite nonzero value, none below `least` (R242, R249). -/
def unbiased (least : Int) (v : Val) : Int :=
  match v with
  | .fin _ m e => if m = 0 then -128 else max least (floorLog m e)
  | _ => -128

/-- The result of an element of class S: h, l and their counts. A skipped one keeps h and l bit for bit where the exponents are equal
(R246). -/
def upClassS (d : Desc) (e : UpEl) (r : Nat) (poison : Bool) : (Nat × Bool) × (Nat × Bool) × UpCount :=
  let keep := e.skipped && upXIn d == upXOut d
  let h : Conv := if keep then { code := e.raw.1, ze := (bf16.val e.raw.1).isZero, nf := (bf16.val e.raw.1).nonFinite } else bf16.conv e.x
  let hv := bf16.val h.code
  let l := if keep then (e.raw.2, false) else if e.x.nonFinite then (0, false) else lowHalf ((e.x.add hv.negate).scale (-(upXOut d))) r
  ((h.code, poison), (l.1, poison),
    { emax := unbiased (-126) hv, skipped := b2n e.skipped, lowSat := b2n l.2
      mon := countOne { h with sa := h.sa || l.2 } poison })

/-! ### One block (R245, R247, R248) -/

/-- A moment or remainder block written by R60 and R61: codes, scale, and elements saturated and flushed. -/
structure BlockOut where
  codes : List (Nat × Bool)
  scale : Nat × Bool
  sat : Nat
  flushed : Nat
  deriving DecidableEq, Repr

def blockOut (f : DFmt) (fit : Bool) (vs : List Val) (poison : List Bool) : BlockOut :=
  let b := f.block fit vs
  { codes := (b.elems.map Conv.code).zip poison
    scale := (b.scale, poison.any id)
    sat := (b.elems.filter Conv.sa).length
    flushed := (b.elems.filter Conv.fl).length }

/-- An element of class C rounded stochastically on p's element grid (R59, R60, R245). -/
def stochAt (f : DFmt) (v : Val) (k : Int) (r : Nat) : Conv :=
  match f with
  | .int8 =>
    match (v.scale (-k)).scale 6 with
    | .fin n m e =>
      let t := if 0 ≤ e then m <<< e.toNat else m >>> (-e).toNat
      let fr := if 0 ≤ e then 0 else (m % 2 ^ (-e).toNat) * 2 ^ 16 / 2 ^ (-e).toNat
      let a := t + (if 2 ^ 16 ≤ r + fr then 1 else 0)
      if m = 0 then { code := 0, ze := true }
      else if a = 0 then { code := 0, ze := true, fl := true }
      else if 127 < a then { code := if n then 129 else 127, sa := true }
      else { code := if n then 256 - a else a }
    | _ => { code := 0, nf := true }
  | _ => f.fmt.stoch (v.scale (-k)) r

/-- The p block and r block of class C, with counts (R245). -/
def upClassC (d : Desc) (xs : List Val) (rs : List Nat) (poison : List Bool) :
    BlockOut × BlockOut × UpCount :=
  let f := upPFmt d
  let a := amax xs
  let k := if a.1 = 0 then -127 else f.scaleExp (upFit d) a
  let ps := (xs.zip rs).map fun p => stochAt f p.1 k p.2
  let bad := f != .e5m2 && xs.any Val.nonFinite
  let q := (xs.zip ps).map fun p => if p.1.nonFinite then Val.zero else p.1.add (((f.elem p.2.code).scale k).negate)
  let cs : List Conv := if bad then xs.map fun _ => { code := 0, nf := true } else ps
  let r := blockOut (upRFmt d) (upFit d) q poison
  ({ codes := (cs.map Conv.code).zip poison, scale := (if bad then 0xFF else (k + 127).toNat, poison.any id), sat := 0, flushed := 0 }, r,
    { emax := if bad then -128 else (cs.map fun c => unbiased (-1000) ((f.elem c.code).scale k)).foldl max (-128)
      momSat := if upFit d then 0 else r.sat
      mon := (sumMon ((cs.zip poison).map fun p => countOne p.1 p.2)).add { nb := b2n bad } })

/-- The inputs of block `b`, counted over the whole packed arrays (R243). -/
def State.upBlock (s : State) (m : Cmd) (b : Nat) : List UpIn :=
  let d := m.d
  let row (f : DFmt) (a sa : Nat) : List PVal :=
    valsOf f 32 (s.rdScr m.core (a + f.bytes (32 * b)) (cdiv (f.ebits * 32) 8)) (if f.mx then s.rdScr m.core (sa + b) 1 else [])
  let g := row (upGFmt d) (dfld d 0x18 0 21) 0
  let p := row (upPFmt d) (dfld d 0x18 21 21) (dfld d 0x18 42 21)
  let m1 := row .int8 (dfld d 0x28 0 21) (dfld d 0x28 21 21)
  let m2 := row .int8 (dfld d 0x28 42 21) (dfld d 0x30 0 21)
  let low : List PVal := if upC d then row (upRFmt d) (dfld d 0x20 0 21) (dfld d 0x20 21 21)
    else (List.range 32).map fun j =>
      let bs := s.rdScr m.core (dfld d 0x20 0 21 + 2 * (32 * b + j)) 2
      let x := sInt 16 (leNat (dataOf bs))
      (.fin (x < 0) x.natAbs (upXIn d), anyPoison bs)
  let at_ (l : List PVal) (j : Nat) : PVal := l.getD j (Val.zero, false)
  let mag (v : Val) : Val := match v with | .fin _ m e => .fin false m e | x => x
  let half (a j : Nat) : Nat := if upC d then 0 else leNat (dataOf (s.rdScr m.core (a + 2 * (32 * b + j)) 2))
  (List.range 32).map fun j =>
    ⟨(at_ g j).1, (at_ m1 j).1, mag (at_ m2 j).1, (at_ p j).1, (at_ low j).1,
      (at_ g j).2 || (at_ m1 j).2 || (at_ m2 j).2 || (at_ p j).2 || (at_ low j).2,
      (half (dfld d 0x18 21 21) j, half (dfld d 0x20 0 21) j)⟩

/-- 16 bits for each of the 32 elements from column `j` on (R142). -/
def draw16 (s : State) : Nat → Nat → Lanes → List Nat × Lanes
  | 0, _, l => ([], l)
  | n + 1, j, l =>
    let r := l.draw s (j % 512) 16
    let rest := draw16 s n (j + 1) r.2
    (r.1 :: rest.1, rest.2)

/-- Codes of block `b` of a packed array are written. -/
def Act.wrBlock (core : Nat) (f : DFmt) (a b : Nat) (cs : List (Nat × Bool)) : Act := .wrScr core (a + f.bytes (32 * b)) (packCodes f cs)

/-- A scale byte of block `b` is written. -/
def Act.wrScale (core a b : Nat) (sc : Nat × Bool) : Act := .wrScr core (a + b) [(BitVec.ofNat 8 sc.1, sc.2)]

/-- One block of 32 elements: what is written in place, what is counted, and whether an output is poisoned. -/
def State.upBlockOut (s : State) (m : Cmd) (h : Hyper) (hp : Bool) (b : Nat) (rs : List Nat) : Act × UpCount × Bool :=
  let d := m.d
  let ins := s.upBlock m b
  let els := ins.map (upElement h)
  let po := ins.map fun x => x.poison || hp
  let b1 := blockOut .int8 (upFit d) (els.map UpEl.m) po
  let b2 := blockOut .int8 (upFit d) (els.map UpEl.s) po
  let base : UpCount := { flushed := b1.flushed + b2.flushed, momSat := if upFit d then 0 else b1.sat + b2.sat }
  let moments : Act := .all [.wrBlock m.core .int8 (dfld d 0x28 0 21) b b1.codes, .wrScale m.core (dfld d 0x28 21 21) b b1.scale,
    .wrBlock m.core .int8 (dfld d 0x28 42 21) b b2.codes, .wrScale m.core (dfld d 0x30 0 21) b b2.scale]
  if upC d then
    let c := upClassC d (els.map UpEl.x) rs po
    (.all [moments, .wrBlock m.core (upPFmt d) (dfld d 0x18 21 21) b c.1.codes, .wrScale m.core (dfld d 0x18 42 21) b c.1.scale,
      .wrBlock m.core (upRFmt d) (dfld d 0x20 0 21) b c.2.1.codes, .wrScale m.core (dfld d 0x20 21 21) b c.2.1.scale],
      (base.add c.2.2).add { skipped := (els.filter UpEl.skipped).length }, po.any id)
  else
    let c := ((els.zip rs).zip po).map fun p => upClassS d p.1.1 p.1.2 p.2
    (.all [moments, .wrBlock m.core .bf16 (dfld d 0x18 21 21) b (c.map fun x => x.1),
      .wrBlock m.core .bf16 (dfld d 0x20 0 21) b (c.map fun x => x.2.1)],
      (c.map fun x => x.2.2).foldl UpCount.add base, po.any id)

/-- A block is updated in place. -/
def Act.upBlock (m : Cmd) (h : Hyper) (hp : Bool) (b : Nat) (rs : List Nat) (k : UpCount → Bool → Act) : Act :=
  .get fun s =>
    let r := s.upBlockOut m h hp b rs
    .seq r.1 (k r.2.1 r.2.2)

/-- Blocks one after another, `n` of them from number `b` on. -/
def Act.upBlocks (m : Cmd) (h : Hyper) (hp : Bool) : Nat → Nat → Lanes → UpCount → Bool → (Lanes → UpCount → Bool → Act) → Act
  | 0, _, l, c, p, k => k l c p
  | n + 1, b, l, c, p, k => .get fun s =>
    let r := draw16 s 32 (32 * b % upCols m.d) l
    .upBlock m h hp b r.1 fun c' p' => Act.upBlocks m h hp n (b + 1) r.2 (c.add c') (p || p') k

/-- The record's results after a command: EMAX the maximum, the counts added and saturating (R242). -/
def recResults (v : Nat) (c : UpCount) : List Byte :=
  let sat (k n : Nat) : Nat := min (recWord v k + n) 0xFFFFFFFF
  leBytes 4 (ofInt 32 (max (sInt 32 (recWord v 12)) c.emax)) ++ leBytes 4 (sat 13 c.skipped) ++ leBytes 4 (sat 14 c.lowSat) ++
    leBytes 4 (sat 15 c.flushed)

/-- VE_UPDATE stops on a record whose reserved words are not 0, and waits until the lanes are ready (R141, R250). The record is read as
the command starts, once its claims are made (R103). -/
def upPiece (m : Cmd) (k : PieceRes → Act) : Act :=
  .get fun s =>
    let rb := s.rdScr m.core (upRec m.d) 64
    let v := leNat (dataOf rb)
    if recWord v 10 ≠ 0 ∨ recWord v 11 ≠ 0 then k (.fault 3 0x36 0 0)
    else if !s.pepperReady m.ctx then k .wait else
    .all [.needUnit unitVE m.core, .needUnit unitSR m.core,
      .upBlocks m (hyperOf v) (anyPoison (rb.take 0x28)) (upN m.d / 32) 0 { core := m.core, ctx := m.ctx } {} false fun l c p =>
        .all [.lanes l, .wrScr m.core (upRec m.d + 0x30) ((recResults v c).map fun b => (b, anyPoison (rb.drop 0x30))),
          .count .updateCount 0 0 (upN m.d - c.skipped), .count .updateCount 0 1 c.skipped, .count .updateCount 0 2 c.lowSat,
          .count .updateCount 0 3 c.momSat, k (.done (Cmd.addMon { m with piece := 1, poison := p } c.mon))]]

def upRun : OpRun := { prep := onePiece, piece := upPiece }

end Sys2Proof.Machine
end

