-- ==== Sys2Proof/Machine/Engine.lean ====
section
/-! DEFINITION. Dispatch and execution of descriptors (R99 to R121): the checks in order, the sequencer's own commands, the
engine queues, the engines' piece loop with its gate claims, retirement and completion. -/

namespace Sys2Proof.Machine

/-- A payload of a sequencer command with its reserved fields at zero (R118 to R121; NOP and JOB_END have no field). -/
def seqPayload (d : Desc) : Bool :=
  let rest := [3, 4, 5, 6, 7].all fun k => Desc.w d k == 0
  match hOpcode d with
  | 1 | 3 => rest && bits (Desc.w d 2) 1 63 == 0
  | 4 => rest && zeroBits (Desc.w d 2) [(3, 13), (26, 38)]
  | 5 => rest && zeroBits (Desc.w d 2) [(6, 26)]
  | _ => rest && Desc.w d 2 == 0

def seqRules : OpRules := ⟨seqPayload, fun _ => none, fun _ _ _ _ => none⟩

/-- What each opcode's family checks. -/
def rulesOf (d : Desc) : OpRules :=
  match hOpcode d with
  | 0x20 => teBeginRules
  | 0x21 => teAccRules
  | 0x22 => teEndRules
  | 0x40 => veMapRules
  | 0x41 => veReduceRules
  | 0x42 => veSampleRules
  | 0x43 => veFlagRules
  | 0x44 => vePepperSaveRules
  | 0x45 => vePepperLoadRules
  | 0x80 => if dmT d = 8 then awRules else ⟨dmPayload, dmMon, dmCopyCheck⟩
  | 0x48 => tgRules
  | 0x4C => upRules
  | 0x86 | 0x87 => screeRules
  | 0x84 => coRules
  | 0x85 => dpRules
  | 0x88 => msRules
  | 0x89 => dgRules
  | 0x8A | 0x8B => pgRules
  | 0x8C => aaRules
  | _ => if opClass (hOpcode d) = some 1 then attnRules else seqRules

/-- How each opcode's family runs. -/
def runOf (d : Desc) : OpRun :=
  match hOpcode d with
  | 0x20 => teBeginRun
  | 0x21 => teAccRun
  | 0x22 => teEndRun
  | 0x40 => veMapRun
  | 0x41 => veReduceRun
  | 0x42 => veSampleRun
  | 0x43 => veFlagRun
  | 0x44 => vePepperSaveRun
  | 0x45 => vePepperLoadRun
  | 0x48 => tgRun
  | 0x4C => upRun
  | 0x86 | 0x87 => screeRun
  | 0x10 | 0x12 => attnFwdRun
  | 0x11 => attnBwdRun
  | 0x84 => coRun
  | 0x85 => dpRun
  | 0x88 => msRun
  | 0x89 => dgRun
  | 0x8A => putRun
  | 0x8B => getRun
  | 0x8C => aaRun
  | _ => if dmT d = 8 then awRun else dmCopyRun

/-! ### The engines (R103, R108, R109) -/

/-- The engines a command takes: one, or for a fused command the tensor engines it uses, the vector engine and the second
data mover (R157). -/
def engsOf (d : Desc) : List Nat :=
  if opClass (hOpcode d) = some 1 then List.range (atTes d) ++ [4, 6] else [hEngine d]

/-- A command of a bundle that has started (R117). -/
def State.bundleStarted (s : State) (m : Cmd) : Bool := m.bun != 0 && (s.stream m.q).bunOn.contains m.bun

/-- The same command. -/
def sameCmd (a b : Cmd) : Bool := a.q == b.q && a.idx == b.idx

/-- The command heads the queue of every engine it takes (R157). -/
def State.headsAll (s : State) (m : Cmd) : Bool :=
  (engsOf m.d).all fun e => match s.engQ m.core e with | x :: _ => sameCmd x m | [] => false

/-- A command keeps its position against an LC command that arrives: it is LC itself, it has started and did not yield, or its bundle
has started (R103, R117). -/
def State.keeps (s : State) (m : Cmd) : Bool := s.isLC m.ctx || (m.started && !m.yielded) || s.bundleStarted m

/-- The part of a list up to the last element that passes a test. -/
def upTo (p : Cmd → Bool) : List Cmd → List Cmd
  | [] => []
  | y :: r => if p y || r.any p then y :: upTo p r else []

/-- The commands that an arriving LC command stays behind: those that keep their positions and those that stand before one of these
in some queue, so that all queues put it in one order (R103, R157; log entry 87). -/
def aheadOf (queues : List (List Cmd)) : Nat → List Cmd → List Cmd
  | 0, l => l
  | n + 1, l => aheadOf queues n (queues.flatMap (upTo fun y => l.any (sameCmd y)))

/-- A list with an element put behind the last one that stays before it. -/
def putBehind (stays : Cmd → Bool) (x : Cmd) (l : List Cmd) : List Cmd :=
  upTo stays l ++ x :: l.drop (upTo stays l).length

/-- A command enters the queue of every engine it takes: an LC command ahead of every BE command that has not started, a BE
command last (R103, R157). -/
def Act.enqueue (m : Cmd) : Act :=
  .get fun s =>
    let queues := (List.range 7).map (s.engQ m.core)
    let ahead := if s.isLC m.ctx then aheadOf queues 8 (queues.flatMap fun l => l.filter s.keeps) else []
    .each (engsOf m.d) fun e => .engQ m.core e fun l => if s.isLC m.ctx then putBehind (fun y => ahead.any (sameCmd y)) m l else l ++ [m]

/-- A command changes in every queue it stands in. -/
def Act.front (m : Cmd) : Act :=
  .each (engsOf m.d) fun e => .engQ m.core e fun l => l.map fun x => if sameCmd x m then m else x

/-- The bundle of a command has started (R117). -/
def Act.bundleStart (m : Cmd) : Act :=
  .when (m.bun != 0) (.stream m.q fun t => { t with bunOn := sadd t.bunOn m.bun })

/-- Saved commands of a context go back into the engines' queues, in their order, behind the commands there, as far as the queues have
free entries (R21, R388 step 6). -/
def Act.reenterOf (core ctx : Nat) : Nat → Act
  | 0 => .skip
  | n + 1 => .get fun s => match (s.ctxCore core ctx).saved with
    | [] => .skip
    | m :: r => .when ((engsOf m.d).all fun e => (s.engQ core e).length < 16)
      (.all [.ctxCore core ctx fun c => { c with saved := r }, .each (engsOf m.d) fun e => .engQ core e (· ++ [m]),
        Act.reenterOf core ctx n])

/-- Slot holders of a core that have saved commands. -/
def State.reentering (s : State) (core : Nat) : List Nat :=
  ((List.range 4).filterMap fun k => (s.slot core k).holder).filter fun c => !(s.ctxCore core c).saved.isEmpty

/-- Saved commands of the holders go back as far as they can: more than the commands a context can have there. -/
def Act.reenter (core : Nat) : Act := .get fun s => .each (s.reentering core) fun c => .reenterOf core c 4096

/-- A command leaves the queues of its engines, and what waited for free entries moves up. -/
def Act.leave (m : Cmd) : Act :=
  .all [.each (engsOf m.d) fun e => .engQ m.core e fun l => l.filter fun x => !sameCmd x m, .reenter m.core, .settleQueues]

/-- Credits return to a gate that a command names in a role. -/
def Act.credit (m : Cmd) (role : Option (Nat × Nat)) : Act :=
  match role with
  | some r => .gate m.core m.ctx r.1 fun g => { g with credits := g.credits + r.2 }
  | none => .skip

/-- A command retires: its WAIT credits return, its counts are applied at once, and it leaves its engines (R64, R103,
R108). -/
def Act.retire (m : Cmd) : Act :=
  .get fun s =>
    let r := runOf m.d
    .all [.leave m, .credit m (hWait m.d), r.finish m,
      (match (rulesOf m.d).mon m.d with | some tid => .monitor tid m.mon | none => .skip),
      .flyDone m.q m.idx 0 0 (r.res s m) (r.res2 m) m.poison]

/-- A command whose flow failed completes ABORTED with REASON 0: the credits of its WAIT units and of the piece it had claims for
return, nothing is counted (R29, R64, R312). -/
def Act.abortCmd (m : Cmd) : Act :=
  .all [.leave m, .when m.waited (.credit m (hWait m.d)), .when m.streamed (.credit m (hStream m.d)), .when m.posted (.credit m (hPost m.d)),
    (runOf m.d).aborted m, .flyDone m.q m.idx 2 0 0 m.res2 m.poison]

/-- The engines that look at their queues again when a command leaves: its own, both data movers after a scree command, and all
where saved commands wait for free entries (R157, R217, R388). -/
def State.rerunOf (s : State) (core : Nat) (d : Desc) : List Nat :=
  if !(s.reentering core).isEmpty then List.range 7 else if hOpcode d = 0x86 ∨ hOpcode d = 0x87 then [5, 6] else engsOf d

/-- A claim of units on a gate's FILLED count, where it is made already or none is asked for; otherwise what it changes. -/
def State.canClaim (s : State) (m : Cmd) (role : Option (Nat × Nat)) : Bool :=
  match role with
  | none => true
  | some r => r.2 ≤ (s.gate m.core m.ctx r.1).filled

/-- POST credits can be taken (R108). -/
def State.canPost (s : State) (m : Cmd) : Bool :=
  match hPost m.d with
  | none => true
  | some r => r.2 ≤ (s.gate m.core m.ctx r.1).credits

/-- FILLED units are claimed (R108). -/
def Act.claim (m : Cmd) (role : Option (Nat × Nat)) : Act :=
  match role with
  | none => .skip
  | some r => .gate m.core m.ctx r.1 fun g => { g with filled := g.filled - r.2 }

/-- POST credits are taken (R108). -/
def Act.takePost (m : Cmd) : Act :=
  match hPost m.d with
  | none => .skip
  | some r => .gate m.core m.ctx r.1 fun g => { g with credits := g.credits - r.2 }

/-- The piece's STREAM units return where they are still out (R108). -/
def Act.streamBack (m : Cmd) : Act := .when m.streamed (.credit m (hStream m.d))

/-- A piece has ended: its STREAM units return and its POST units are filled (R108). -/
def Act.pieceEnd (m : Cmd) : Act :=
  .seq (.streamBack m) (.when m.posted
    (match hPost m.d with | some r => .gate m.core m.ctx r.1 fun g => { g with filled := g.filled + r.2 } | none => .skip))

/-- The engines that run collectives, or hold one. -/
def State.collEngs (s : State) : List (Nat × Nat) := (s.u.colls.filter fun c => !c.orphan).map fun c => (c.core, hEngine c.d)

/-- The command waits for the claims of its next piece. -/
def State.waitsClaim (s : State) (m : Cmd) : Bool :=
  match (runOf m.d).prep s m with
  | .ready c => (!c.streamed && !s.canClaim c (hStream c.d)) || (!c.posted && !s.canPost c)
  | _ => false

/-- The command is at a boundary: it has not started, it stops between pieces, or it waits for the claims of its next piece (R388
steps 3 and 4). -/
def State.atBoundary (s : State) (m : Cmd) : Bool := !m.started || hOpcode m.d == 0x21 || hOpcode m.d == 0x80 || s.waitsClaim m

/-- The command's slot rotates and the command is at a boundary: it does not start, or not go on (R388 steps 2 to 4). -/
def State.suspended (s : State) (m : Cmd) : Bool :=
  s.atBoundary m &&
    match s.slotOf m.core m.ctx with | some k => s.rotating m.core k | none => true

/-- The engine takes up the command at its front and runs it piece by piece, and then the commands behind it, until one has
to wait (R103, R108). A fused command runs where its last engine has it (R157). -/
def Act.engine (core eng : Nat) : Nat → Act
  | 0 => .skip
  | fuel + 1 => .get fun s =>
    match s.engQ core eng with
    | [] => .skip
    | m :: _ =>
      let rerun : Act := .each (s.rerunOf core m.d) fun e => Act.engine core e fuel
      if !s.runs || s.ctxState m.ctx != 1 || !s.headsAll m || s.suspended m then .skip
      else if !m.waited then
        if s.canClaim m (hWait m.d) then
          .all [.claim m (hWait m.d), .front { (runOf m.d).latch s m with waited := true }, Act.engine core eng fuel]
        else .skip
      else match (runOf m.d).prep s m with
        | .hold => .skip
        | .abort => .seq (.abortCmd m) rerun
        | .bad st rs => .cmdFault m.q m.idx m.d st rs 0 0
        | .over c => .all [.pieceEnd c, .bundleStart c, .retire c, rerun]
        | .ready c =>
          if !c.streamed then
            if s.canClaim c (hStream c.d) then
              .all [.claim c (hStream c.d), .front { c with streamed := true }, Act.engine core eng fuel]
            else .front c
          else if !c.posted then
            if s.canPost c then
              .all [.takePost c, .front { c with posted := true }, Act.engine core eng fuel]
            else .front c
          else
            let c := { c with started := true, yielded := false }
            let collectives : Act := .when (hOpcode c.d == 0x84) (.each s.collEngs fun e => Act.engine e.1 e.2 fuel)
            .all [.front c, .bundleStart c,
              (runOf c.d).piece c fun
                | .done c2 => .all [.pieceEnd c2, .front { c2 with streamed := false, posted := false, asked := false }, collectives,
                    Act.engine core eng fuel]
                | .sent c2 readsDone => .all [.when readsDone (.streamBack c2),
                    .front { c2 with streamed := c2.streamed && !readsDone }, collectives, Act.engine core eng fuel]
                | .fault st rs a b => .cmdFault c.q c.idx c.d st rs a b
                | .flt e br => .seq (.noteFlt c.ctx e) (.fltFault c.q c.idx c.d e br)
                | .wait => .get fun s => .front { c with asked := s.loopback }]

/-- Steps an engine may take in one run: more than the pieces and commands any queue can hold. -/
def engineFuel : Nat := 2 ^ 22

/-- An engine runs as far as it can. -/
def Act.runEngine (core eng : Nat) : Act := .engine core eng engineFuel

/-- Every engine of a core looks at its queue. -/
def Act.runCore (core : Nat) : Act := .each (List.range 7) fun e => .runEngine core e

/-- A slot goes to a context, whose saved commands re-enter the engines (R387, R388 step 6). -/
def Act.giveSlot (core k ctx : Nat) : Act :=
  .all [.slot core k fun _ => { holder := some ctx },
    .core fun c => c.unwait core ctx,
    .count .slotCount core 0, .reenter core, .runCore core]

/-- A holder's slice is over, another context waits and a bundle of the holder runs: the deferral begins (R388 step 1). -/
def Act.deferNote (core k : Nat) : Act :=
  .get fun s => match (s.slot core k).holder with
    | none => .skip
    | some h => .when ((s.slot core k).sliceOver && (s.slot core k).deferAt.isNone && s.bundleRuns core h && (s.nextHolder core k).isSome)
        (.slot core k fun sl => { sl with deferAt := some s.now })

/-- A context whose queue has work takes a free slot of its class, or waits for one (R387). -/
def Act.wantSlot (core ctx : Nat) : Act :=
  .get fun s =>
    if (s.slotOf core ctx).isSome then .skip else
    .seq (.waitSlot core ctx)
      (match (classSlots (s.isLC ctx)).find? fun k => (s.slot core k).holder.isNone with
        | some k => .get fun s => match s.nextHolder core k with
          | some c => .giveSlot core k c
          | none => .skip
        | none => .each (classSlots (s.isLC ctx)) (.deferNote core))

/-- Descriptors of a queue have been submitted: its context wants a slot, or the column that is off wakes (R384, R387, R461). -/
def Act.submitted (q : Nat) : Act :=
  .get fun s =>
    let core := s.qCore q
    .when (s.fetchable q 0) (
      if s.runs && s.columnOn core then .wantSlot core (s.qCtx q)
      else .seq
        (.when (s.slotOf core (s.qCtx q)).isNone (.waitSlot core (s.qCtx q)))
        (.when (s.runs && s.fld .columnState 0 (core / 12 * 4) 0 2 == 2) (.fld .columnState 0 (core / 12 * 4) 0 2 3)))

/-- Commands that a FENCE waits for: the stream's own, or the context's on every core (R119, R396). -/
def State.fenceSet (s : State) (q ctx scope : Nat) : List Nat :=
  (if scope = 0 then [q] else s.queuesOf ctx).flatMap fun x => ((s.stream x).fly.filter fun f => !f.done).map Fly.ser

/-! ### Dispatch (R99 to R121) -/

/-- The stream after a command of it was dispatched or skipped: next index, bundle and the command in flight (R116). -/
def Stream.push (t : Stream) (d : Desc) (f : Fly) : Stream :=
  let b := hBundle d
  let fresh := b ≠ 0 ∧ t.bundle = 0
  let bun := if fresh then t.bun + 1 else t.bun
  { t with
    next := idx32 (t.next + 1)
    fly := t.fly ++ [{ f with bun := if b = 0 then 0 else bun }]
    bun := bun
    bundle := if hBlast d then 0 else b
    bundleLen := if b = 0 then 0 else if fresh then 1 else t.bundleLen + 1 }

/-- The serial number of the bundle run that the next command belongs to. -/
def Stream.bunOf (t : Stream) (d : Desc) : Nat :=
  if hBundle d = 0 then 0 else if t.bundle = 0 then t.bun + 1 else t.bun

/-- The command at a stream's head goes into flight with its place in the order of dispatch; its slot serves this queue, and its
descriptor leaves the fetch buffer (R102, R386). -/
def Act.inFlight (core k q idx : Nat) (d : Desc) : Act :=
  .all [.core fun c => { c with serial := c.serial + 1, lastBe := if k = 0 then c.lastBe else tset c.lastBe core k },
    .get fun s => .stream q fun t => t.push d { idx := idx, d := d, ser := s.u.core.serial },
    .get fun s => .ctxCore core (s.qCtx q) fun x => { x with fetch := x.fetch.drop 1 },
    .slot core k fun sl => { sl with cur := some q, run := if sl.cur = some q then sl.run + 1 else 1 },
    .get fun s => .when (s.fld .columnState 0 (core / 12 * 4) 0 2 == 1) (.fld .columnState 0 (core / 12 * 4) 0 2 0),
    .reg .deviceState 0 0]

/-- A sequencer command or a skipped command retires at once. It starts its bundle like any other member (R115, R117; log entry
88). -/
def Act.seqDone (core k q idx : Nat) (d : Desc) (status : Nat) : Act :=
  .all [.inFlight core k q idx d,
    .when (hBundle d != 0) (.stream q fun t => { t with bunOn := sadd t.bunOn t.bun }),
    .flyDone q idx status 0 0 0 false]

/-- Completed jobs of a context that JOB_ENDs already retired will still count (R67). -/
def State.jobsDue (s : State) (ctx : Nat) : Nat :=
  ((s.queuesOf ctx).map fun x => ((s.stream x).fly.filter fun f => hOpcode f.d == 2 && f.done && f.status == 0).length).foldl (· + ·) 0

/-- A command of the core's slot that names a gate has not retired (R110). -/
def State.gateBusy (s : State) (core ctx g : Nat) : Bool :=
  (List.range 8).any (fun e => (s.engQ core e).any fun m => m.ctx == ctx && usesGate m.d g) ||
    (s.ctxCore core ctx).saved.any fun m => usesGate m.d g

/-- A sequencer command that its stream's head cannot execute yet (R110, R118, R121); a JOB_END that writes telemetry records waits for
the end of a loop-back (R280). -/
def State.seqWaits (s : State) (core q ctx : Nat) (d : Desc) : Bool :=
  match hOpcode d with
  | 2 => !allRetired (s.stream q) || (!s.ownGoes && bit (s.rd .recordEnable ctx) 0)
  | 4 => s.gateBusy core ctx (dfld d 0x10 0 3)
  | 5 => (s.stream q).fly.any fun f => !f.done && hOpcode f.d == 0x43 && dfld f.d 0x38 32 4 == dfld d 0x10 0 4
  | _ => false

/-- The engines of a command whose queues have no free entry (R21). -/
def State.fullQueues (s : State) (core : Nat) (d : Desc) : List Nat := (engsOf d).filter fun e => 16 ≤ (s.engQ core e).length

/-- A head command that passed its header checks is held: saved commands of its context are still to re-enter, or SERIAL, its
predicate or its own kind holds it (R102, R114, R388). -/
def State.heldBack (s : State) (core q ctx : Nat) (d : Desc) : Bool :=
  !(s.ctxCore core ctx).saved.isEmpty || (hSerial d && !allRetired (s.stream q)) || predWaits (s.stream q) d ||
    (s.predOk core ctx d && opClass (hOpcode d) == some 0 && s.seqWaits core q ctx d)

/-- The full queues that a head command which nothing else holds waits for (R21, R31). -/
def State.queueWait (s : State) (core q ctx : Nat) (d : Desc) : List Nat :=
  if s.heldBack core q ctx d || !s.predOk core ctx d || opClass (hOpcode d) == some 0 then [] else s.fullQueues core d

/-- A head command that passed its header checks cannot dispatch yet: it is held, or an engine queue has no free entry (R102). -/
def State.mustWait (s : State) (core q ctx : Nat) (d : Desc) : Bool := s.heldBack core q ctx d || !(s.queueWait core q ctx d).isEmpty

/-- A sequencer command executes (R98, R110, R118 to R121). -/
def Act.seqCommand (core k q idx ctx : Nat) (d : Desc) : Act :=
  .get fun s =>
    let t := s.stream q
    match hOpcode d with
    | 1 => .all [.seqDone core k q idx d 0,
        .stream q fun t => { t with jobOpen := true, jobLearn := dfld d 0x10 0 1 == 1 },
        .when (dfld d 0x10 0 1 == 1) .phase]
    | 2 => .all [
        .stream q fun t => { t with jobOpen := false, jobLearn := false },
        .telemetry ctx 0 (s.rd .jobCount ctx / 2 ^ 64 % 2 ^ 64 + s.jobsDue ctx + 1),
        .seqDone core k q idx d 0, .when t.jobLearn .phase]
    | 3 => .all [.inFlight core k q idx d,
        .when (hBundle d != 0) (.stream q fun t => { t with bunOn := sadd t.bunOn t.bun }),
        .stream q fun t => { t with fly := t.fly.map fun f => if f.idx = idx then
          { f with
            fence := s.fenceSet q ctx (dfld d 0x10 0 1)
            fenceMolt := if dfld d 0x10 0 1 == 1 && s.moltOf ctx then some s.u.moltNo else none } else f },
        .fences]
    | 4 => .all [.seqDone core k q idx d 0,
        .gate core ctx (dfld d 0x10 0 3) fun _ => ⟨dfld d 0x10 16 10, dfld d 0x10 16 10, 0⟩]
    | 5 =>
      let fl := dfld d 0x10 0 4
      .all [.seqDone core k q idx d 0, .flag core ctx fl (flagOp (dfld d 0x10 4 2) (s.flag core ctx fl) (dfld d 0x10 32 32))]
    | _ => .seqDone core k q idx d 0

/-- What dispatch fixes for a command beside its place in a queue: groups of a TE or fused command, the place of a scree
entry, the number of a collective, which lets in what its members sent before (R100, R162, R213, R320). -/
def Act.reserve (m : Cmd) : Act :=
  match opClass (hOpcode m.d) with
  | some 1 => attnDispatch m
  | some 2 => teDispatch m.core m.ctx m.d
  | some 4 => .seq (.when (hOpcode m.d == 0x86 || hOpcode m.d == 0x87) (.screeMove m.core m))
      (.when (hOpcode m.d == 0x84) (.seq (.collNew m) (.deliverGroup (coGroup m.d))))
  | _ => .skip

/-- A command as it enters its engine's queue. -/
def State.newCmd (s : State) (core q idx ctx : Nat) (d : Desc) : Cmd :=
  let m : Cmd := { q := q, idx := idx, d := d, ctx := ctx, core := core, bun := (s.stream q).bunOf d, ser := s.u.core.serial + 1 }
  if hOpcode d = 0x86 ∨ hOpcode d = 0x87 then s.screePlace core m else m

/-- A check failed at dispatch: ILLEGAL with its reason, or SCREE_MISMATCH, which SCREE_STATE explains (R146, R216). -/
def Act.checkFailed (core q idx ctx : Nat) (d : Desc) (reason : Nat) : Act :=
  if screeReason ≤ reason then .seq (.screeFailed core ctx d (reason - screeReason)) (.cmdFault q idx d 5 0 0 0)
  else .cmdFault q idx d 3 reason 0 0

/-- The state as the commands of a queue leave it once they have run: groups that its own fused commands hold are closed, those of
other queues' are open (R100). -/
def State.asLeft (s : State) (core q ctx : Nat) : State :=
  match (s.ctxCore core ctx).held.filter fun p => p.1 != q with
  | [] => s
  | l => (Act.ctxCore core ctx fun c => { c with dgrp := l.foldl (fun t p => tset t p.2.2.1 p.2.2.2) c.dgrp }).run s

/-- A command that passed its header checks is skipped, runs in the sequencer, or enters its engine queues; or its stream
waits, and where it is for a full queue that wait counts as exhaustion (R31, R102, R105, R114, R115). -/
def Act.dispatch (core k q idx ctx : Nat) (d : Desc) : Act :=
  .get fun s =>
    if s.mustWait core q ctx d then .each (s.queueWait core q ctx d) fun e => .stallBegin (stallQueue core e)
    else if !s.predOk core ctx d then .seqDone core k q idx d 1
    else if opClass (hOpcode d) = some 0 then .seqCommand core k q idx ctx d
    else match (rulesOf d).check (s.asLeft core q ctx) core ctx d with
      | some r => .checkFailed core q idx ctx d r
      | none =>
        let m := s.newCmd core q idx ctx d
        .all [.inFlight core k q idx d, .reserve m, .enqueue m, .runEngine core (leadOf d),
          .when (hOpcode d == 0x84) (.get fun s => .each s.collEngs fun e => .runEngine e.1 e.2)]

/-- A FENCE of the stream is not satisfied yet (R119). -/
def State.fenced (s : State) (q : Nat) : Bool := (s.stream q).fly.any fun f => hOpcode f.d == 3 && !f.done

/-! ### Fetch (R384, R386) -/

/-- The oldest descriptor that the holder of a slot has fetched of a queue. -/
def State.fetched (s : State) (core ctx q : Nat) : Option Fetched :=
  match (s.ctxCore core ctx).fetch with
  | x :: _ => if x.q = q then some x else none
  | [] => none

/-- Descriptors of a queue are fetched one after another, up to its TAIL. -/
def Act.fetchMore (core ctx q : Nat) : Nat → Nat → Act
  | 0, _ => .skip
  | n + 1, i => .get fun s =>
    if i = s.qTail q then .skip else
    .rdCtx ctx (s.descAddr q i) 64 fun r => .seq
      (.ctxCore core ctx fun x => { x with fetch := x.fetch ++ [match r with
        | .ok bs => { q := q, idx := i, bytes := bs }
        | .error e => { q := q, idx := i, flt := some e }] })
      (Act.fetchMore core ctx q n (idx32 (i + 1)))

/-- A slot that serves a queue and has fetched nothing of it fetches up to 16 descriptors; those of another queue are dropped (log
entry 89). -/
def Act.fetch (core ctx q : Nat) : Act :=
  .get fun s => .when (s.fetched core ctx q).isNone
    (.seq (.ctxCore core ctx fun x => { x with fetch := [] }) (.fetchMore core ctx q 16 (s.stream q).next))

/-- Requests to the ring's memory go through: the descriptor does not lie in a stack that loops back (R280). -/
def State.fetchGoes (s : State) (q : Nat) : Bool :=
  !s.loopback || match s.span (s.qCtx q) (s.descAddr q (s.stream q).next) 64 false with
    | .ok l => !s.lbHolds l
    | .error _ => true

/-- The oldest descriptor of a queue as it is or would be fetched. -/
def State.headOf (s : State) (core ctx q : Nat) : Fetched :=
  (s.fetched core ctx q).getD (match s.rdCtx ctx (s.descAddr q (s.stream q).next) 64 with
    | .ok bs => { q := q, idx := (s.stream q).next, bytes := bs }
    | .error e => { q := q, idx := (s.stream q).next, flt := some e })

/-- The head of a slot's stream can dispatch, or fails its checks (R102). -/
def State.headReady (s : State) (core k : Nat) : Bool :=
  match (s.slot core k).holder with
  | none => false
  | some ctx => (s.queuesOn core ctx).any fun q =>
    s.fetchable q 0 && s.serves core k ctx q && !s.fenced q && !s.rotating core k && s.fetchGoes q &&
      let x := s.headOf core ctx q
      let d := descOf (dataOf x.bytes)
      x.flt.isSome || anyPoison x.bytes || (s.headerReason q x.idx d false (rulesOf d)).isSome || !s.mustWait core q ctx d

/-- The slots 1 to 3 in the order of their turns, after the one that dispatched last (R102). -/
def beTurns (last : Nat) : List Nat := [1, 2, 3].filter (last < ·) ++ [1, 2, 3].filter (· ≤ last)

/-- It is the slot's turn: slot 0 is served whenever its head can dispatch, and slots 1 to 3 take turns (R102). -/
def State.turn (s : State) (core k : Nat) : Bool :=
  k == 0 || (!s.headReady core 0 && ((beTurns (tgetD s.u.core.lastBe core 0)).takeWhile (· != k)).all fun j => !s.headReady core j)

/-- The descriptor row: where the queue's next descriptor can come up now, it is fetched; where it is the row's, it is checked and
dispatched. Nothing else happens (log entry 4). -/
def Act.desc (row : Desc → Bool) (q : Nat) (d : Desc) : Act :=
  .get fun s =>
    let ctx := s.qCtx q
    let core := s.qCore q
    .when (s.runs && s.fetchable q 0 && s.columnOn core && s.fetchGoes q) (.all [.wantSlot core ctx, .get fun s =>
      match s.slotOf core ctx with
      | none => .skip
      | some k =>
        if !s.serves core k ctx q || s.fenced q || s.rotating core k || !s.turn core k then .skip else
        .seq (.fetch core ctx q) (.get fun s => match s.fetched core ctx q with
          | none => .skip
          | some x => match x.flt with
            | some e => .fltFault q x.idx {} e (unread := true)
            | none =>
              if anyPoison x.bytes then .cmdFault q x.idx {} 3 0x1A 0 0 true
              else if descOf (dataOf x.bytes) ≠ d ∨ row d = false then .skip
              else match s.headerReason q x.idx d false (rulesOf d) with
                | some r => .cmdFault q x.idx d 3 r 0 0
                | none => .dispatch core k q x.idx ctx d)])

/-! ### Completion (R104, R118, R145, R147) -/

/-- HEAD of a queue rises by one. -/
def Act.headUp (q : Nat) : Act := .countFld .queueState q 0 0 32

/-- The job count a command raises at completion, and the count it reports (R118, R145). -/
def jobCounter (f : Fly) : Option Nat :=
  if f.status = 0 ∧ hOpcode f.d = 1 then some 0 else if f.status = 0 ∧ hOpcode f.d = 2 then some 1 else none

/-- The record of a command that completed (R145). -/
def State.flyRecord (s : State) (q : Nat) (f : Fly) : PBytes :=
  let ctx := s.qCtx q
  let res := match jobCounter f with | some k => s.cnt .jobCount ctx k | none => f.res
  wordBytes (recordWords q f.idx (hOpcode f.d) f.status f.reason (hBundle f.d) (engineId (s.qCore q) f.d) f.poison ctx f.epoch
    f.time res f.res2)

/-- The memory that a completion writes takes it: no loop-back holds its record or the queue's HEAD (R280). -/
def State.recordGoes (s : State) (q : Nat) (f : Fly) : Bool :=
  let goes (a n : Nat) : Bool := match s.span (s.qCtx q) a n true with | .ok l => !s.lbHolds l | .error _ => true
  !s.loopback || (goes (s.qCq q + f.idx % s.qSize q * 32) 32 && goes (s.qHeadAddr q) 4)

/-- The oldest command of a queue is complete: job counts, record, HEAD, interrupt (R104, R147, R384, R419). -/
def Act.complete (q : Nat) : Act :=
  .get fun s =>
    let ctx := s.qCtx q
    match (s.stream q).fly with
    | f :: _ =>
      .when (f.done && s.runs && s.ctxState ctx == 1 && s.recordGoes q f) (.all [
        (match jobCounter f with | some k => .count .jobCount ctx k | none => .skip),
        .stream q fun t => { t with fly := t.fly.drop 1 },
        .get fun s => .when (hComplete f.d || 2 ≤ f.status)
          (.wrOwn ctx 1 (s.qCq q + f.idx % s.qSize q * 32) (s.flyRecord q f)),
        .get fun s => .when (s.ctxState ctx == 1) (.all [.headUp q,
          .get fun s => .wrOwn ctx 2 (s.qHeadAddr q) (cleanBytes 4 (s.qHead q)),
          .get fun s => .when (s.ctxState ctx == 1 && hIrq f.d) (.msix (s.ctxFn ctx) (s.qVec q))])])
    | [] => .skip

end Sys2Proof.Machine
end

