-- ==== Sys2Proof/Machine/Arrive.lean ====
section
/-! DEFINITION. Fabric messages that reach this device, the timers of flows, and the rows of ports, flows, groups and streams
(R252 to R257, R303, R305 to R316, R324, R327 to R334). -/

namespace Sys2Proof.Machine

/-! ### Commands that wait on flows -/

/-- The front command of a data mover may wait on a flow. -/
def State.waitsOn (s : State) (m : Cmd) (f : Nat) : Bool := s.namesFlow m f || hOpcode m.d == 0x88

/-- The data movers look at their fronts after a flow changed. -/
def Act.wakeFlow (f : Nat) : Act :=
  .get fun s => .each (s.u.core.engQ.filter fun p => (p.1 % 8 == 5 || p.1 % 8 == 6) &&
      match p.2 with | m :: _ => s.waitsOn m f | [] => false) fun p => .runEngine (p.1 / 8) (p.1 % 8)

/-- The data movers of the commands that a delivery may let go on, and those of all collectives, which may wait for one another. -/
def Act.wakeAll (w : List (Nat × Nat)) : Act :=
  .get fun s => .each (w.flatMap fun p => (if p.1 < 65536 then [(s.qCore p.1, 5), (s.qCore p.1, 6)] else []) ++ s.collEngs).eraseDups
    fun e => .runEngine e.1 e.2

/-- What a flow holds is delivered, and waiting commands go on. -/
def Act.deliverWake (f : Nat) : Act := .deliverFlow f .wakeAll

/-- Flows whose next message is here and waits: for a response credit, for tokens, for a loop-back's end, or for a collective (R277, R280,
R299, R320). -/
def State.flowsHeld (s : State) : List Nat :=
  (s.u.flows.filter fun p => s.flowSt p.1 == 2 && !p.2.noticeWait && p.2.held.any fun m => m.fseq.toNat == s.recvNext p.1).map Prod.fst

/-- They are tried again. -/
def Act.deliverHeld : Act := .get fun s => .each s.flowsHeld .deliverWake

/-- A flow enters FAILED; its commands complete ABORTED, and a molt that needs it ends or waits (R312, R361, R362). -/
def Act.flowDied (f cause : Nat) : Act := .flowFail f cause fun _ => .seq (.moltFlow f) (.wakeFlow f)

/-! ### Sequenced messages (R305, R306, R309, R310, R312) -/

/-- FLOW_ABORT PEER_CLOSED answers a message, at most once in 100 µs for a flow (R312). -/
def Act.answerAbort (f : Nat) (m : Msg) : Act :=
  .get fun s =>
    let a : Msg := { type := 0x0E, dest := m.src, srcFlow := BitVec.ofNat 13 f, gen := BitVec.ofNat 8 (s.flowGen f), aux := 2 }
    .when (match (s.flow f).abortAt with | some t => t + 100000 ≤ s.now | none => true) (.all [.sendMsg 0 a, .count .transportCount 0 3,
      .flow f fun g => { g with abortAt := some s.now }])

/-- The message comes from the flow that the receiving flow names (R305). -/
def State.matches_ (s : State) (f : Nat) (m : Msg) : Bool := s.flowPeer f == m.src.toNat && s.flowPeerFlow f == m.srcFlow.toNat

/-- The peer's GEN as recorded. -/
def State.peerGen (s : State) (f : Nat) : Nat := s.fld .flowState f 0 24 8

/-- An in-sequence message that had to wait, and for which the pool has no room, is discarded without being acknowledged (R309, R320); one
whose data is applied stays for its notice (R314). -/
def Act.poolDrop (f : Nat) (m : Msg) : Act :=
  .get fun s => .when ((s.flow f).held.contains m && !(s.flow f).noticeWait)
    (.seq (.flow f fun g => { g with held := g.held.erase m }) (.count .transportCount 0 2))

/-- A sequenced message in an OPEN flow: applied in its turn, held, or discarded (R309). -/
def Act.sequence (f : Nat) (m : Msg) : Act :=
  .get fun s =>
    let d := dist32 (s.recvNext f) m.fseq.toNat
    if 2 ^ 31 ≤ d || (s.flow f).held.any fun x => x.fseq == m.fseq then .seq (.countFld .flowState f 0x18 32 32) (.sendAck f)
    else if 255 < d then .skip
    else
      let full := s.u.reorderMib * 2 ^ 20 < s.poolUsed + heldBytes m
      if d != 0 && full then .count .transportCount 0 2
      else .all [.flow f fun g => { g with held := g.held ++ [m] }, .when (d == 0) (.deliverWake f),
        .when full (.poolDrop f m), .heldShow f]

/-- A sequenced message arrives. One for a DISABLED flow, and one of another GEN than the recorded one, is answered; a flow that has
recorded no GEN yet, or has failed, discards it (R305, R312; log entry 39). -/
def Act.seqMsg (m : Msg) : Act :=
  .get fun s =>
    let f := m.destFlow.toNat
    if s.flowSt f = 0 then .seq (.when (!s.matches_ f m) (.count .transportCount 0 0)) (.answerAbort f m)
    else if !s.matches_ f m then .count .transportCount 0 0
    else if s.peerGen f = 0 then .skip
    else if s.peerGen f ≠ m.gen.toNat then .answerAbort f m
    else .when (s.flowSt f == 2) (.sequence f m)

/-! ### ACK and NACK (R310, R313) -/

/-- SEND_ACKED follows the oldest unacknowledged message (R335). -/
def Act.showAcked (f : Nat) : Act :=
  .get fun s => .fld .flowState f 8 32 32 (match (s.flow f).unacked with | x :: _ => x.m.fseq.toNat | [] => s.sendNext f)

/-- The command that sent a message faults as its destination faulted (R313). -/
def Act.remoteFault (owner : Option (Nat × Nat)) (status reason addr : Nat) : Act :=
  .get fun s => match owner with
    | some (q, idx) => match (s.stream q).fly.find? fun x => x.idx == idx with
      | some x => .cmdFault q idx x.d status reason (addr % 2 ^ 32) (addr / 2 ^ 32)
      | none => .skip
    | none => .skip

/-- A cumulative ACK arrives; the fault that it carries is that of one of the messages it acknowledges, or of an older one, told
already. -/
def Act.ackMsg (f : Nat) (m : Msg) : Act :=
  .get fun s =>
    let g := s.flow f
    let n := match g.unacked with | x :: _ => dist32 x.m.fseq.toNat m.fseq.toNat | [] => 0
    .when (n ≤ g.unacked.length && n != 0) (.all [.flow f fun g => { g with unacked := g.unacked.drop n },
      (match faultOf m.data with
        | some (fseq, st, r, a) => (match (g.unacked.take n).find? fun x => x.m.fseq.toNat == fseq with
          | some x => .remoteFault x.owner st r a
          | none => .skip)
        | none => .skip),
      .flowPump f flowFuel, .showAcked f, .wakeFlow f])

/-- Unacknowledged messages are sent again, or the flow fails where one would go out a ninth time (R310, R316). -/
def Act.resend (f : Nat) (pick : Sent → Bool) : Act :=
  .get fun s =>
    let l := (s.flow f).unacked.filter pick
    if l.isEmpty then .skip
    else if l.any fun x => 8 ≤ x.sends then .flowDied f 1
    else .all [.epochUp, .countFld .flowState f 0x18 0 32 l.length,
      .flow f fun g => { g with unacked := g.unacked.map fun x => if pick x then { x with sends := x.sends + 1 } else x },
      .each l fun x => .sendOn f x.m]

/-- A NACK arrives: the messages it names are sent again at once. -/
def Act.nackMsg (f : Nat) (m : Msg) : Act :=
  .resend f fun x => dist32 m.fseq.toNat x.m.fseq.toNat ≤ dist32 m.fseq.toNat (m.aux.toNat % 2 ^ 32)

/-- An ACK or NACK reaches an OPEN flow of the recorded GEN. -/
def Act.ctlMsg (m : Msg) (k : Nat → Act) : Act :=
  .get fun s =>
    let f := m.destFlow.toNat
    if !s.matches_ f m then .count .transportCount 0 0
    else .when (s.flowSt f == 2 && s.peerGen f == m.gen.toNat) (k f)

/-! ### OPEN and FLOW_ABORT (R306, R312) -/

/-- A peer's OPEN arrives: its GEN is recorded and the flow is OPEN. -/
def Act.openMsg (m : Msg) : Act :=
  .get fun s =>
    let fs := s.flowsTo m.src.toNat m.srcFlow.toNat
    if fs.isEmpty then .count .transportCount 0 0 else
    .each fs fun f => .when (s.flowSt f == 1) (.all [.fld .flowState f 0 24 8 m.aux.toNat, .flowState f 2 0, .flowPump f flowFuel,
      .wakeFlow f])

/-- A FLOW_ABORT arrives. -/
def Act.abortMsg (m : Msg) : Act :=
  .get fun s =>
    let fs := s.flowsTo m.src.toNat m.srcFlow.toNat
    if fs.isEmpty then .count .transportCount 0 0 else
    .seq (.count .transportCount 0 4) (.each fs fun f => .flowDied f (m.aux.toNat % 16))

/-! ### A message is here (R307, R308) -/

/-- The col takes messages in: powered, and neither in reset nor in DEEP; memory is usable for those that must reach it, and any other
waits in the col (R464). -/
def State.colOn (s : State) : Bool := s.u.pow.power && !s.u.pow.deep && s.rd .serviceState < 2

/-- A message that reached its destination, held while the device naps (R464); `kw` serves dictionary messages. Reserved types are
discarded. -/
def Act.arrive (kw : Msg → Act) (m : Msg) : Act :=
  match m.type.toNat with
  | 5 => .ctlMsg m fun f => .ackMsg f m
  | 6 => .ctlMsg m fun f => .nackMsg f m
  | 12 => kw m
  | 13 => .openMsg m
  | 14 => .abortMsg m
  | t => .when (t ≤ 10) (.get fun s =>
    if s.u.pow.nap && s.flowSt m.destFlow.toNat == 2 then .seq .napWake (.pow fun p => { p with held := p.held ++ [.msg m] })
    else .all [.when (s.u.pow.napEntering && s.flowSt m.destFlow.toNat == 2) .napWake,
      .seq (.when (t == 10 && bits m.aux.toNat 0 4 != 0) (.raiseSrc 107)) (.seqMsg m)])

/-- The row of one message type: it is taken in here, or passed on where it is for another device (log entry 4). -/
def Act.msgRow (type : Nat) (m : Msg) : Act :=
  .get fun s => .when (s.colOn && m.type.toNat == type) (.route none (vcOf 1 type) m (.arrive fun _ => .skip))

/-- The row of one kind of molt message (R356). -/
def Act.moltRow (kind : Nat) (m : Msg) : Act := .when (bits m.aux.toNat 0 4 == kind) (.msgRow 10 m)

def execPut (m : Msg) (s : State) : Host.Outcome State Fault Refusal := (Act.msgRow 0 m).outcome s
def execGetReq (m : Msg) (s : State) : Host.Outcome State Fault Refusal := (Act.msgRow 1 m).outcome s
def execGetResp (m : Msg) (s : State) : Host.Outcome State Fault Refusal := (Act.msgRow 2 m).outcome s
def execAtomicAdd (m : Msg) (s : State) : Host.Outcome State Fault Refusal := (Act.msgRow 3 m).outcome s
def execAtomicResp (m : Msg) (s : State) : Host.Outcome State Fault Refusal := (Act.msgRow 4 m).outcome s
def execAck (m : Msg) (s : State) : Host.Outcome State Fault Refusal := (Act.msgRow 5 m).outcome s
def execNack (m : Msg) (s : State) : Host.Outcome State Fault Refusal := (Act.msgRow 6 m).outcome s
def execNoticeOnly (m : Msg) (s : State) : Host.Outcome State Fault Refusal := (Act.msgRow 7 m).outcome s
def execColl (m : Msg) (s : State) : Host.Outcome State Fault Refusal := (Act.msgRow 8 m).outcome s
def execLbr (m : Msg) (s : State) : Host.Outcome State Fault Refusal := (Act.msgRow 9 m).outcome s
def execOpenFlow (m : Msg) (s : State) : Host.Outcome State Fault Refusal := (Act.msgRow 13 m).outcome s
def execFlowAbort (m : Msg) (s : State) : Host.Outcome State Fault Refusal := (Act.msgRow 14 m).outcome s
def execMoltData (m : Msg) (s : State) : Host.Outcome State Fault Refusal := (Act.moltRow 0 m).outcome s
def execSegEnd (m : Msg) (s : State) : Host.Outcome State Fault Refusal := (Act.moltRow 1 m).outcome s
def execSrcDone (m : Msg) (s : State) : Host.Outcome State Fault Refusal := (Act.moltRow 2 m).outcome s
def execRefetch (m : Msg) (s : State) : Host.Outcome State Fault Refusal := (Act.moltRow 3 m).outcome s
def execMoltReady (m : Msg) (s : State) : Host.Outcome State Fault Refusal := (Act.moltRow 4 m).outcome s
def execMoltCommit (m : Msg) (s : State) : Host.Outcome State Fault Refusal := (Act.moltRow 5 m).outcome s
def execMoltAbort (m : Msg) (s : State) : Host.Outcome State Fault Refusal := (Act.moltRow 6 m).outcome s
def execMoltFail (m : Msg) (s : State) : Host.Outcome State Fault Refusal := (Act.moltRow 7 m).outcome s
def execRepairReq (m : Msg) (s : State) : Host.Outcome State Fault Refusal := (Act.moltRow 8 m).outcome s

/-! ### Timers of flows (R306, R310, R314) -/

/-- An OPEN flow acts. -/
def Act.onOpen (f : Nat) (a : Act) : Act := .get fun s => .when (s.colOn && s.flowSt f == 2) a

def execNoticePost (flow : Fin 8192) (s : State) : Host.Outcome State Fault Refusal :=
  (Act.get fun s => .when (s.flow flow).noticeWait (.onOpen flow (.deliverWake flow))).outcome s

def execAckTimer (flow : Fin 8192) (s : State) : Host.Outcome State Fault Refusal :=
  (Act.get fun s => .when ((s.flow flow).ackDue != 0) (.onOpen flow (.sendAck flow))).outcome s

def execNackTimer (flow : Fin 8192) (s : State) : Host.Outcome State Fault Refusal := (Act.onOpen flow (.sendNack flow)).outcome s

def execRetransmitTimeout (flow : Fin 8192) (s : State) : Host.Outcome State Fault Refusal :=
  (Act.onOpen flow (.resend flow fun _ => true)).outcome s

/-- A flow that is OPENING repeats its OPEN, and goes on to when it is OPEN: the peer may have opened later (R306; log entry 99). -/
def execOpenResend (flow : Fin 8192) (s : State) : Host.Outcome State Fault Refusal :=
  (Act.get fun s => .when (s.colOn && (s.flowSt flow == 1 || s.flowSt flow == 2)) (.sendOpen flow)).outcome s

/-! ### Entries of flows, groups and streams (R256, R324, R334) -/

/-- A write of FLOW_CFG (R334). -/
def execFlowCfgWrite (r : Requester) (flow : Fin 8192) (v : BitVec 256) (s : State) : Host.Outcome State Fault Refusal :=
  (Act.entryRow .flowCfg ruleFlowCfg r flow v.toNat).outcome s

def execCollGroupWrite (r : Requester) (group : Fin 64) (v : BitVec 4224) (s : State) : Host.Outcome State Fault Refusal :=
  (Act.entryRow .collGroup ruleCollGroup r group v.toNat).outcome s

def execLbrStreamWrite (r : Requester) (stream : Fin 64) (v : BitVec 256) (s : State) : Host.Outcome State Fault Refusal :=
  (Act.entryRow .lbrStream ruleLbrStream r stream v.toNat).outcome s

def execLbrDeadline (stream : Fin 64) (s : State) : Host.Outcome State Fault Refusal :=
  (Act.seq (.lbrDeadline stream) (.get fun s => .wakeAll [((s.lbr stream).q, (s.lbr stream).idx)])).outcome s

/-! ### Ports (R295 to R298, R327 to R331, R495) -/

/-- A port event happens where the col is powered. -/
def Act.portRow (a : Act) : Act := .get fun s => .when s.colOn a

def execPortEnable (r : Requester) (v : Byte) (s : State) : Host.Outcome State Fault Refusal :=
  (Act.entryRow .portEnable rulePortEnable r 0 v.toNat).outcome s
def execPortReset (r : Requester) (v : Byte) (s : State) : Host.Outcome State Fault Refusal :=
  (Act.entryRow .portReset rulePortReset r 0 v.toNat).outcome s
def execPeerExpectWrite (r : Requester) (port : Fin 8) (v : BitVec 32) (s : State) : Host.Outcome State Fault Refusal :=
  (Act.entryRow .peerExpect rulePeerExpect r port v.toNat).outcome s

def execCmisReadDone (port : Fin 8) (c : Cmis) (s : State) : Host.Outcome State Fault Refusal :=
  (Act.portRow (.cmisDone port c)).outcome s

/-- The hold-off ends: training frames go out (R329). -/
def execHoldoffExpire (port : Fin 8) (s : State) : Host.Outcome State Fault Refusal :=
  (Act.portRow (.portStep port psHoldoff psTraining .skip)).outcome s

/-- Lanes lock (R293, R298, R329). -/
def execLanesLocked (l : LaneLock) (s : State) : Host.Outcome State Fault Refusal :=
  (Act.portRow (.lanesLocked l.port l.markers)).outcome s

def execTrainingTimeout (port : Fin 8) (s : State) : Host.Outcome State Fault Refusal :=
  (Act.portRow (.trainingFailed port)).outcome s
def execCreditInit (port : Fin 8) (s : State) : Host.Outcome State Fault Refusal := (Act.portRow (.creditInit port)).outcome s

/-- No CREDIT_INIT came within 1 ms (R297). -/
def execCreditInitTimeout (port : Fin 8) (s : State) : Host.Outcome State Fault Refusal :=
  (Act.portRow (.get fun s => .when (s.portSt port == psLinkInit) (.portDown port dcCredit))).outcome s

def execIdent (port : Fin 8) (addr : BitVec 16) (peerPort : Byte) (_serial : W64) (s : State) : Host.Outcome State Fault Refusal :=
  (Act.portRow (.seq (.identIn port addr.toNat (peerPort.toNat % 8)) .deliverHeld)).outcome s

/-- IDENT goes out again until one is received (R328). -/
def execIdentResend (port : Fin 8) (s : State) : Host.Outcome State Fault Refusal :=
  (Act.portRow (.get fun s => .when (s.portSt port == psIdentify && !(s.port port).ident) (.sendIdent port))).outcome s

/-- A RETRY brings credits, which may let responses go (R296, R299). -/
def execRetry (port : Fin 8) (f : Flit) (s : State) : Host.Outcome State Fault Refusal :=
  (Act.portRow (.seq (.retryIn port f) .deliverHeld)).outcome s

/-- RETRY goes out again while the expected flit is missing (R296). -/
def execRetryResend (port : Fin 8) (s : State) : Host.Outcome State Fault Refusal :=
  (Act.portRow (.get fun s => .when (s.portUp port && (s.port port).gap) (.retryOrDown port))).outcome s

def execLaneLockLost (port : Fin 8) (lane : Fin 8) (s : State) : Host.Outcome State Fault Refusal :=
  (Act.portRow (.get fun s => .when (lanesUp (s.portSt port)) (.portDown port dcLaneLock lane))).outcome s

def execSignalLoss (port : Fin 8) (s : State) : Host.Outcome State Fault Refusal := (Act.portRow (.signalLost port)).outcome s

/-- A cable is plugged into an enabled port: the port starts again from CABLE (R329, R495). One that is UP or has found its peer has its
cable already. -/
def execCablePlugged (port : Fin 8) (s : State) : Host.Outcome State Fault Refusal :=
  (Act.portRow (.get fun s =>
    .when (s.portEnabled port && (s.portSt port == psDown || (psCable ≤ s.portSt port && s.portSt port ≤ psTraining)))
      (.portStart port))).outcome s

/-- The signal of an enabled DOWN port returns: it starts again from HOLDOFF (R329). -/
def execSignalDetect (port : Fin 8) (s : State) : Host.Outcome State Fault Refusal :=
  (Act.portRow (.get fun s => .when (s.portEnabled port && s.portSt port == psDown && !s.portsHeld)
    (.seq (.port port fun _ => {}) (.portSt port psHoldoff)))).outcome s

def execIdleFlit (port : Fin 8) (f : Flit) (s : State) : Host.Outcome State Fault Refusal :=
  (Act.portRow (.seq (.idleIn port f) .deliverHeld)).outcome s

def execMessageAgeDiscard (port : Fin 8) (s : State) : Host.Outcome State Fault Refusal := (Act.portRow (.ageOut port)).outcome s

end Sys2Proof.Machine
end

