-- ==== Sys2Proof/Machine/Commands.lean ====
section
/-! DEFINITION. The rows of descriptors, of completion, gate claims, yields and phase gating, and the entries of monitors,
telemetry rings, accumulators and seeds (R34 to R38, R65 to R69, R80, R83, R98 to R121, R141 to R147). -/

namespace Sys2Proof.Machine

/-! ### Descriptors (R98) -/

/-- The row of one opcode. -/
def isOp (op : Nat) (d : Desc) : Bool := hOpcode d == op

def execNop (q : Fin 65536) (d : Desc) (s : State) : Host.Outcome State Fault Refusal := (Act.desc (isOp 0) q.val d).outcome s
def execJobBegin (q : Fin 65536) (d : Desc) (s : State) : Host.Outcome State Fault Refusal := (Act.desc (isOp 1) q.val d).outcome s
def execJobEnd (q : Fin 65536) (d : Desc) (s : State) : Host.Outcome State Fault Refusal := (Act.desc (isOp 2) q.val d).outcome s
def execFence (q : Fin 65536) (d : Desc) (s : State) : Host.Outcome State Fault Refusal := (Act.desc (isOp 3) q.val d).outcome s
def execGateSet (q : Fin 65536) (d : Desc) (s : State) : Host.Outcome State Fault Refusal := (Act.desc (isOp 4) q.val d).outcome s
def execFlagSet (q : Fin 65536) (d : Desc) (s : State) : Host.Outcome State Fault Refusal := (Act.desc (isOp 5) q.val d).outcome s
def execAttnFwd (q : Fin 65536) (d : Desc) (s : State) : Host.Outcome State Fault Refusal := (Act.desc (isOp 0x10) q.val d).outcome s
def execAttnBwd (q : Fin 65536) (d : Desc) (s : State) : Host.Outcome State Fault Refusal := (Act.desc (isOp 0x11) q.val d).outcome s
def execAttnVerify (q : Fin 65536) (d : Desc) (s : State) : Host.Outcome State Fault Refusal := (Act.desc (isOp 0x12) q.val d).outcome s
def execTeBegin (q : Fin 65536) (d : Desc) (s : State) : Host.Outcome State Fault Refusal := (Act.desc (isOp 0x20) q.val d).outcome s
def execTeAccumulate (q : Fin 65536) (d : Desc) (s : State) : Host.Outcome State Fault Refusal := (Act.desc (isOp 0x21) q.val d).outcome s
def execTeEnd (q : Fin 65536) (d : Desc) (s : State) : Host.Outcome State Fault Refusal := (Act.desc (isOp 0x22) q.val d).outcome s
def execVeMap (q : Fin 65536) (d : Desc) (s : State) : Host.Outcome State Fault Refusal := (Act.desc (isOp 0x40) q.val d).outcome s
def execVeReduce (q : Fin 65536) (d : Desc) (s : State) : Host.Outcome State Fault Refusal := (Act.desc (isOp 0x41) q.val d).outcome s
def execVeSample (q : Fin 65536) (d : Desc) (s : State) : Host.Outcome State Fault Refusal := (Act.desc (isOp 0x42) q.val d).outcome s
def execVeFlag (q : Fin 65536) (d : Desc) (s : State) : Host.Outcome State Fault Refusal := (Act.desc (isOp 0x43) q.val d).outcome s
def execVePepperSave (q : Fin 65536) (d : Desc) (s : State) : Host.Outcome State Fault Refusal := (Act.desc (isOp 0x44) q.val d).outcome s
def execVePepperLoad (q : Fin 65536) (d : Desc) (s : State) : Host.Outcome State Fault Refusal := (Act.desc (isOp 0x45) q.val d).outcome s
def execVeTopkGate (q : Fin 65536) (d : Desc) (s : State) : Host.Outcome State Fault Refusal := (Act.desc (isOp 0x48) q.val d).outcome s
def execVeUpdate (q : Fin 65536) (d : Desc) (s : State) : Host.Outcome State Fault Refusal := (Act.desc (isOp 0x4C) q.val d).outcome s
/-- DM_COPY with any transform but ACCUM_W40, which has a row of its own (R124, R223). -/
def execDmCopy (q : Fin 65536) (d : Desc) (s : State) : Host.Outcome State Fault Refusal :=
  (Act.desc (fun d => hOpcode d == 0x80 && dmT d != 8) q.val d).outcome s
def execAccumW40 (q : Fin 65536) (d : Desc) (s : State) : Host.Outcome State Fault Refusal :=
  (Act.desc (fun d => hOpcode d == 0x80 && dmT d == 8) q.val d).outcome s
def execDmScreePush (q : Fin 65536) (d : Desc) (s : State) : Host.Outcome State Fault Refusal := (Act.desc (isOp 0x86) q.val d).outcome s
def execDmScreePop (q : Fin 65536) (d : Desc) (s : State) : Host.Outcome State Fault Refusal := (Act.desc (isOp 0x87) q.val d).outcome s
def execDmCollective (q : Fin 65536) (d : Desc) (s : State) : Host.Outcome State Fault Refusal := (Act.desc (isOp 0x84) q.val d).outcome s
def execDmPut (q : Fin 65536) (d : Desc) (s : State) : Host.Outcome State Fault Refusal := (Act.desc (isOp 0x8A) q.val d).outcome s
def execDmGet (q : Fin 65536) (d : Desc) (s : State) : Host.Outcome State Fault Refusal := (Act.desc (isOp 0x8B) q.val d).outcome s
def execDmAtomicAdd (q : Fin 65536) (d : Desc) (s : State) : Host.Outcome State Fault Refusal := (Act.desc (isOp 0x8C) q.val d).outcome s
def execDmDispatch (q : Fin 65536) (d : Desc) (s : State) : Host.Outcome State Fault Refusal := (Act.desc (isOp 0x85) q.val d).outcome s
def execDmMoltSegment (q : Fin 65536) (d : Desc) (s : State) : Host.Outcome State Fault Refusal := (Act.desc (isOp 0x88) q.val d).outcome s
def execDmDigest (q : Fin 65536) (d : Desc) (s : State) : Host.Outcome State Fault Refusal := (Act.desc (isOp 0x89) q.val d).outcome s
/-- A reserved opcode fails the header checks (R98, R99). -/
def execReservedOpcode (q : Fin 65536) (d : Desc) (s : State) : Host.Outcome State Fault Refusal :=
  (Act.desc (fun d => (opClass (hOpcode d)).isNone) q.val d).outcome s

/-- COMMAND_COMPLETE: the oldest command of the queue, where it has retired (R104, R147). -/
def execCommandComplete (q : Fin 65536) (s : State) : Host.Outcome State Fault Refusal := (Act.complete q.val).outcome s

/-! ### Engines (R83, R108) -/

/-- The front command has its FILLED units and waits for POST credits alone (R108). -/
def waitsPost (m : Cmd) : Option (Nat × Nat) := if m.waited && m.streamed && !m.posted then hPost m.d else none

/-- The engine looks at its front again; the cycles it waited for POST credits count as exhaustion of the physical gate
(R31, R107, R108). -/
def Act.gateClaim (core eng waited : Nat) : Act :=
  .get fun s =>
    match s.engQ core eng with
    | [] => .skip
    | m :: _ => .seq
      (match waitsPost m, s.slotOf core m.ctx with
        | some g, some k => .when (s.runs) (.count .coreGateExhaust core (8 * k + g.1) waited)
        | _, _ => .skip)
      (.runEngine core eng)

def execGateClaim (core : Fin 192) (eng : Fin 7) (waited : Nat) (s : State) : Host.Outcome State Fault Refusal :=
  (Act.gateClaim core.val eng.val waited).outcome s

/-- A started TE_ACCUMULATE of a BE context outside a bundle, with an LC command behind it, gives way to it (R83, R103). -/
def Act.teYield (core te : Nat) : Act :=
  .get fun s =>
    match s.engQ core te with
    | m :: r =>
      let lc (x : Cmd) : Bool := s.isLC x.ctx
      .when (s.runs && hOpcode m.d == 0x21 && m.started && m.bun == 0 && !lc m && (r.headD m |> lc))
        (.all [.engQ core te fun _ => r.takeWhile lc ++ { m with yielded := true } :: r.dropWhile lc,
          .count .teWork core (te * 6 + 5), .runEngine core te])
    | [] => .skip

def execTeYield (core : Fin 192) (te : Fin 4) (s : State) : Host.Outcome State Fault Refusal := (Act.teYield core.val te.val).outcome s

/-! ### Phase gating (R34 to R38) -/

/-- The rows of R37 whose units a command uses. -/
def unitsOf (d : Desc) : List Nat :=
  match hOpcode d with
  | 0x42 => [unitVE, unitSample]
  | 0x4C => [unitVE, unitSR]
  | 0x80 => if dmT d = 8 then [unitDM, unitBank] else [unitDM]
  | 0x84 => [unitDM, unitColl]
  | 0x85 => [unitDM, unitDispatch]
  | 0x86 | 0x87 => [unitDM, unitScree]
  | 0x88 => [unitDM, unitReshard, unitFold]
  | 0x89 => [unitDM, unitFold]
  | _ => match opClass (hOpcode d) with
    | some 1 => [unitTE, unitVE, unitDM]
    | some 2 => [unitTE]
    | some 3 => [unitVE]
    | some 4 => [unitDM]
    | _ => []

/-- A command that has started keeps its units busy: a core's own, or the device's (R36). -/
def State.unitBusy (s : State) (unit core : Nat) : Bool :=
  s.u.core.engQ.any fun p => p.2.any fun m => m.started && (unitsOf m.d).contains unit && unitKey unit m.core == unitKey unit core

/-- A unit that the phase gates, idle for 10 µs, loses its clock, in RUN and DOZE (R36, R38, R462). -/
def Act.gateUnit (unit core : Nat) : Act :=
  .get fun s => .when (s.rd .deviceState ≤ 1 && s.rd .phaseGating == 1 && !bit (awakeMask (s.rd .phase)) unit && !s.unitBusy unit core)
    (.core fun c => { c with gated := sadd c.gated (unitKey unit core) })

def execPhaseGateUnit (u : UnitAt) (s : State) : Host.Outcome State Fault Refusal := (Act.gateUnit u.unit.val u.core.val).outcome s

/-- PHASE_GATING's rule: with 0 every unit runs (R38). -/
def rulePhaseGating : Rule := fun _ i v k =>
  .all [.store .phaseGating i v, .when (v == 0) (.core fun c => { c with gated := [] }), k stOk]

/-! ### Monitors and telemetry rings (R65 to R69) -/

/-- A tensor ID's counters and shadow are cleared (R62, R69). -/
def Act.monClear (tid : Nat) : Act := .core fun c => { c with mon := tdel c.mon tid }

/-- A function reaches the monitor of a tensor ID (R69). -/
def State.mayMon (s : State) (r : Requester) (tid : Nat) : Bool :=
  reqClass r != 1 || match s.tidOwner tid with | some c => s.mayWriteCtx r c | none => false

/-- MON_CLEAR's rule (R69). -/
def ruleMonClear : Rule := fun r _ v k =>
  .get fun s => if 16384 ≤ v then k stRefused else if !s.mayMon r v then k stAccess else .seq (.monClear v) (k stOk)

def execMonClear (r : Requester) (tid : BitVec 16) (s : State) : Host.Outcome State Fault Refusal :=
  (Act.entryRow .monClear ruleMonClear r 0 tid.toNat).outcome s

/-- READ_INDEX's rule: not above WRITE_INDEX, and at most RING_SIZE below it (R66). -/
def ruleReadIndex : Rule := ctxRule (fun _ i => i)
  fun r i v k => ruleIf .readIndex (fun s v => dist32 v (s.rd .writeIndex i) ≤ s.rd .ringSize i) r i v k

def execReadIndexWrite (r : Requester) (ctx : Fin 1024) (v : BitVec 32) (s : State) : Host.Outcome State Fault Refusal :=
  (Act.entryRow .readIndex ruleReadIndex r ctx.val v.toNat).outcome s

/-- The indices of a context's telemetry ring start again (R69). -/
def Act.ringZero (ctx : Nat) : Act :=
  .all [.reg .writeIndex ctx 0, .reg .readIndex ctx 0, .reg .droppedRecords ctx 0,
    .core fun c => { c with dropMark := sdel c.dropMark ctx }]

/-- A RING_SIZE that is allowed (R66, R69). -/
def ringSizeOk (v : Nat) : Bool := v == 0 || (256 ≤ v && v ≤ 1048576 && 2 ^ log2n v == v)

def ruleRingBase : Rule := ctxRule (fun _ i => i) fun _ i v k =>
  if v % 64 = 0 then .all [.store .ringBase i v, .ringZero i, k stOk] else k stRefused

def ruleRingSize : Rule := ctxRule (fun _ i => i) fun _ i v k =>
  if ringSizeOk v then .all [.store .ringSize i v, .ringZero i, k stOk] else k stRefused

def execTelemRingConfig (r : Requester) (ctx : Fin 1024) (size : Bool) (v : W64) (s : State) : Host.Outcome State Fault Refusal :=
  (if size then Act.entryRow .ringSize ruleRingSize r ctx.val (v.toNat % 2 ^ 32)
    else Act.entryRow .ringBase ruleRingBase r ctx.val v.toNat).outcome s

/-- RECORD_ENABLE keeps its two bits (R13, R69). -/
def ruleRecordEnable : Rule := ctxRule (fun _ i => i) fun _ i v k => .seq (.store .recordEnable i (v % 4)) (k stOk)

/-! ### Accumulators and seeds (R80, R141, R144) -/

/-- A command that opens or closes groups has been dispatched and has not retired. -/
def State.groupsDue (s : State) : Bool :=
  let moves (m : Cmd) : Bool := hOpcode m.d == 0x20 || hOpcode m.d == 0x22 || opClass (hOpcode m.d) == some 1
  s.u.core.engQ.any (fun p => p.2.any moves) || s.u.core.cc.any fun p => p.2.saved.any moves

/-- A group is open on some TE, in some context's state: from the dispatch of its TE_BEGIN until its TE_END retires (R80). -/
def State.groupsOpen (s : State) : Bool := s.groupsDue || s.u.core.cc.any fun p => !p.2.dgrp.isEmpty || !p.2.grp.isEmpty || !p.2.held.isEmpty

/-- The sum of a nibble over the four bytes. -/
def splitSum (v lo : Nat) : Nat := bits v lo 4 + bits v (8 + lo) 4 + bits v (16 + lo) 4 + bits v (24 + lo) 4

/-- ACC_SPLIT's rule (R80). -/
def ruleAccSplit : Rule := ruleIf .accSplit fun s v => !s.groupsOpen && splitSum v 0 ≤ 8 && splitSum v 4 ≤ 8

def execAccSplitWrite (r : Requester) (v : BitVec 32) (s : State) : Host.Outcome State Fault Refusal :=
  (Act.entryRow .accSplit ruleAccSplit r 0 v.toNat).outcome s

/-- PEPPER_SEED's rule: the lanes of every core start anew and are not ready until they are computed (R141, R144). -/
def rulePepperSeed : Rule := ctxRule (fun _ i => i) fun _ i v k =>
  .get fun s => if s.unretired i then k stBusy else
    .all [.store .pepperSeed i v, .reg .pepperReady i 0,
      .core fun c => { c with cc := c.cc.map fun p => (p.1, if p.1 % 1024 = i then { p.2 with pepper := [] } else p.2) },
      k stOk]

def execPepperSeedWrite (r : Requester) (ctx : Fin 1024) (v : W64) (s : State) : Host.Outcome State Fault Refusal :=
  (Act.entryRow .pepperSeed rulePepperSeed r ctx.val v.toNat).outcome s

/-- The lane starts of a context are computed; commands that waited for draws may go on (R141). -/
def Act.pepperDone (ctx : Nat) : Act :=
  .get fun s => .when (s.rd .pepperReady ctx == 0) (.seq (.reg .pepperReady ctx 1)
    (.each ((s.u.core.engQ.filter fun p => p.1 % 8 == 4).map fun p => p.1 / 8) fun core => .runEngine core 4))

def execPepperReadyDone (ctx : Fin 1024) (s : State) : Host.Outcome State Fault Refusal := (Act.pepperDone ctx.val).outcome s

end Sys2Proof.Machine
end

