-- ==== Sys2Proof/Machine/MoltRows.lean ====
section
/-! DEFINITION. The rows of molts, releases, scrubbing and repair, and what follows from a burst that became poisoned (R274, R340 to
R344, R348, R354, R357 to R362, R368 to R374). -/

namespace Sys2Proof.Machine

/-! ### Starting a molt (R342, R348) -/

/-- MOLT_START's rule: the plan's header names the context, and its peer table the devices that hear of a failure (R360). An address at
which no READY context has such a header is refused (log entry 26). -/
def ruleMoltStart : Rule := fun r _ v k =>
  .get fun s =>
    if s.moltRuns then k stBusy else
    match s.ctxNaming v 128 fun w => bits w 22 10 with
    | none => k stRefused
    | some (c, bs) =>
      if !s.mayWriteCtx r c then k stAccess else
      let x : Molt := { plan := v, hdr := wordsOf 16 bs, peers := s.planPeers c (wordsOf 16 bs) }
      .all [.napWake, .units fun u => { u with molt := x, moltCtx := c, moltNo := u.moltNo + 1 }, .moltState 1 0,
        .when (x.produce && x.model < 256) (.fld .versionEntry x.model 0 49 1 1), .phase, k stOk]

def execMoltStart (r : Requester) (v : W64) (s : State) : Host.Outcome State Fault Refusal :=
  (Act.entryRow .moltStart ruleMoltStart r 0 v.toNat).outcome s

/-- The saddle watches stack memory. -/
def State.saddleUp (s : State) : Bool := s.fwRuns && s.u.pow.memOn && !s.u.pow.fatal

/-- The saddle works on molts, scrubs and repairs: its memory takes its requests (R280). -/
def State.saddle (s : State) : Bool := s.saddleUp && s.ownGoes

/-- Messages that waited for the checks of a plan are looked at again (log entry 36). -/
def Act.moltWake (peers : List Nat) : Act :=
  .get fun s => .each (peers.filter fun w => peerAddr w != s.fabric) fun w => .deliverWake (peerFlow w)

/-- The checks end: the molt runs, or fails with the first check that failed (R348). A plan that cannot be read fails check 1 (log entry
40). -/
def Act.moltChecked : Act :=
  .get fun s => .when (s.saddle && s.rd .moltState == 1) (
    .all [.noteReads s.u.moltCtx (planReads s.u.molt.plan s.u.molt.hdr), (match s.readPlan s.u.moltCtx s.u.molt.plan with
    | none => .moltFail 0 causePlan 0 0 0 1 0 0
    | some x =>
      let n := s.planCheck x
      let own := (List.range x.segs.length).filter fun i => sgSrcDev (x.seg i) == s.fabric
      .all [.noteReads s.u.moltCtx (x.sigReads n), .molt fun _ => { x with todo := own.map fun i => (i, 0, false) },
        if n ≠ 0 then .moltFail 0 (if n = 7 then causeSignature else causePlan) 0 0 0 n 0 0
        else .all [.moltState 2 0, .each (List.range x.shards.length) fun j => .when (x.segsOf j).isEmpty (.shardCheck j), .moltMayWait]]),
      .moltWake s.u.molt.peers])

def execMoltCheckDone (s : State) : Host.Outcome State Fault Refusal := Act.moltChecked.outcome s

/-! ### Running it (R354, R357 to R362) -/

/-- A molt queue without a segment in flight. -/
def State.moltQueue (s : State) : Option Nat :=
  s.u.molt.queues.find? fun q => s.qHead q == s.qTail q && (s.stream q).fly.isEmpty

/-- The saddle writes the next segment command into a free molt queue: a one-command bundle for DM0 (R354; log entry 41). -/
def Act.moltIssue : Act :=
  .get fun s => .when (s.saddle && s.runs && s.ctxState s.u.moltCtx == 1 && 2 ≤ s.rd .moltState && s.rd .moltState ≤ 4) (
    match s.u.molt.todo, s.moltQueue with
    | (i, a, alt) :: rest, some q =>
      let t := s.qTail q
      .all [.wrRing q s.u.moltCtx t
          [0x88 + 5 * 2 ^ 8 + 2 ^ 16 + 2 ^ 18 + 2 ^ 24 + t % 2 ^ 16 * 2 ^ 32, 0, i + a * 2 ^ 20 + b2n alt * 2 ^ 22, s.u.molt.plan, 0, 0, 0, 0],
        .fld .queueState q 4 0 32 (idx32 (t + 1)), .submitted q,
        .molt fun x => { x with todo := rest, running := x.running ++ [(i, a, alt)] }]
    | _, _ => .skip)

def execMoltSegmentIssue (s : State) : Host.Outcome State Fault Refusal := Act.moltIssue.outcome s

/-- A segment begun, or promised by its source's SRC_DONE, did not come to its end (R357). -/
def Act.segMissing (id : Nat) : Act :=
  .get fun s =>
    let x := s.u.molt
    match x.indexOf id with
    | none => .skip
    | some i =>
      let g := x.segIn i
      let e := x.seg i
      .when (s.saddle && s.rd .moltState == 2 && sgDstDev e == s.fabric && !g.ok && (g.begun || x.srcDone.contains (sgFrom e g.attempt)))
        (.seq (.count .moltCount 0 4) (.segRetry i causeMissing 0 (foldDigest x.key (dataOf g.rx))))

def execSegmentMissingTimeout (seg : Nat) (s : State) : Host.Outcome State Fault Refusal := (Act.segMissing seg).outcome s

def execMoltReadySend (s : State) : Host.Outcome State Fault Refusal :=
  (Act.get fun s => .when s.saddle .moltReadySend).outcome s

/-- DEADLINE_MS passes at the coordinator (R360). -/
def Act.moltDeadline : Act :=
  .get fun s =>
    let x := s.u.molt
    let missing := ((x.peers.map peerAddr).find? fun a => !x.ready.contains a).getD 0
    .when (s.saddle && s.moltRuns && s.moltCoord && wf x.hdr 0x58 0 32 != 0)
      (.moltAbortAll (s.moltWords 2 0 causePeer missing 0 0 0 0 0))

def execMoltDeadline (s : State) : Host.Outcome State Fault Refusal := Act.moltDeadline.outcome s

/-- 1,000 ms after READY no outcome is known (R361). The coordinator decides itself and is never in doubt (log entry 42). -/
def execMoltInDoubtTimeout (s : State) : Host.Outcome State Fault Refusal :=
  (Act.get fun s => .when (s.saddle && s.rd .moltState == 3 && !s.moltCoord) (.seq (.moltState 4 0) (.errEvent 81 0))).outcome s

/-- MOLT_RESOLVE's rule (R361, R374). -/
def ruleMoltResolve : Rule := fun r _ v k =>
  .get fun s =>
    let st := s.rd .moltState
    if !s.moltRuns then k stRefused
    else if !s.mayWriteCtx r s.u.moltCtx then k stAccess
    else if v = 1 ∧ st = 4 then .seq (.moltCommit 3) (k stOk)
    else if v = 2 ∧ st = 4 then .seq (.moltOver 7 (s.moltDone 3)) (k stOk)
    else if v = 2 ∧ st ≤ 2 then .all [.moltFail 0 causeHost 0 0 0 0 0 0, .moltWake s.u.molt.peers, k stOk]
    else k stRefused

def execMoltResolveCommit (r : Requester) (s : State) : Host.Outcome State Fault Refusal :=
  (Act.entryRow .moltResolve ruleMoltResolve r 0 1).outcome s
def execMoltResolveAbort (r : Requester) (s : State) : Host.Outcome State Fault Refusal :=
  (Act.entryRow .moltResolve ruleMoltResolve r 0 2).outcome s

/-! ### Releases and the entries of models (R340, R374) -/

/-- VERSION_RELEASE's rule. -/
def ruleVersionRelease : Rule := fun _ i v k =>
  .get fun s =>
    let cur := s.verCurrent i == some v
    if !cur && s.verOld i != some v then k stRefused
    else if s.verUsers i v ≠ 0 ∨ (cur ∧ s.liveSes.any fun p => p.2.model == i) then k stBusy
    else .seq (if cur then .verDropCurrent i else .verDropOld i) (k stOk)

def execVersionRelease (r : Requester) (model : Fin 256) (v : BitVec 16) (s : State) : Host.Outcome State Fault Refusal :=
  (Act.entryRow .versionRelease ruleVersionRelease r model v.toNat).outcome s

/-- SCRUB_MINUTES takes 0 to 1,440. -/
def ruleScrubMinutes : Rule := ruleIf .scrubMinutes fun _ v => v ≤ 1440

/-- REPAIR_SRC keeps its fields (R13). -/
def ruleRepairSrc : Rule := fun _ i v k => .seq (.store .repairSrc i (v &&& fieldMask [(0, 0, 31), (8, 0, 64)])) (k stOk)

/-! ### Poisoned segments and their repair (R370, R371) -/

/-- Contexts that own or share a version (R370). -/
def State.sharers (s : State) (model version : Nat) : List Nat :=
  (List.range 1024).filter fun c => s.verCtx model version == c || bit (s.rd .versionShare model) c ||
    s.liveSes.any fun p => p.2.model == model && p.2.ctx == c

/-- SHARED_POISON or POISON_CLEARED, one record for each of those contexts. -/
def Act.poisonEvent (code model version seg : Nat) : Act :=
  .get fun s => .each (s.sharers model version) fun c =>
    .event [s.ctxFn c, 0].eraseDups code 2 c 0 (model + version * 2 ^ 16 + seg * 2 ^ 32)

/-- An attempt's source: true the replica, false the host copy; nothing where REPAIR_SRC names none. -/
def State.repairFrom (s : State) (r : Repair) : Option Bool :=
  let rep := s.fld .repairSrc r.model 0 29 1 == 1
  let host := s.fld .repairSrc r.model 0 30 1 == 1
  if rep && host then some (r.tries % 2 == 0) else if rep then some true else if host then some false else none

/-- A repair changes. -/
def Act.repair (model version seg : Nat) (f : Repair → Repair) : Act :=
  .units fun u => { u with repairs := u.repairs.map fun r => if r.model = model ∧ r.version = version ∧ r.seg = seg then f r else r }

/-- An attempt begins: the replica is asked, where it is the source. -/
def Act.repairAsk (r : Repair) : Act :=
  .get fun s =>
    let f := s.fld .repairSrc r.model 0 16 13
    let m : Msg := { type := 10, aux := BitVec.ofNat 64 (8 + 0xFFFF * 2 ^ 8 + r.seg * 2 ^ 24),
                     data := cleanBytes 2 r.model ++ cleanBytes 2 r.version }
    .seq (.repair r.model r.version r.seg fun x => { x with asked := true, rx := [], whole := false, tries := r.tries })
      (.when (s.repairFrom r == some true && (s.flowSt f == 1 || s.flowSt f == 2)) (.flowSend f none [m]))

/-- The segment is under repair. -/
def State.repairing (s : State) (model version seg : Nat) : Bool :=
  s.u.repairs.any fun r => r.model == model && r.version == version && r.seg == seg

/-- A segment of a resident version is poisoned: the event is raised and its repair starts; one under repair already joins it. -/
def Act.poisonSeg (model version seg : Nat) : Act :=
  .get fun s => .when (!s.repairing model version seg) (
    let r : Repair := { model := model, version := version, seg := seg }
    .all [.units fun u => { u with poisonSegs := sadd u.poisonSegs (model, version, seg), repairs := u.repairs ++ [r] },
      .verPoison model, .poisonEvent 2 model version seg, .repairAsk r])

/-- Where the host copy of a segment lies, modulo 2⁶⁴ (R371). -/
def State.hostCopy (s : State) (r : Repair) (g : SegRec) : List (MemSel × Nat × Nat) :=
  (sgPlaces g.words 0 (sgStream g.words)).map fun p =>
    (.host, (s.fld .repairSrc r.model 8 0 64 + 2 ^ 64 + p.1 - s.verBase r.model r.version) % 2 ^ 64, p.2)

/-- The bytes an attempt has fetched, if it has them all. -/
def State.repairBytes (s : State) (r : Repair) (g : SegRec) : Option PBytes :=
  match s.repairFrom r with
  | some true => if r.whole then some r.rx else none
  | some false =>
    if !s.u.pow.linkUp then none else
    some (s.rdSpan (s.hostCopy r g))
  | none => none

/-- A fetched stream is the recorded one: clean, of its length, its digest and its shard's root as recorded. -/
def segMatches (v : ShardRec) (g : SegRec) (bs : PBytes) : Bool :=
  bs.length == sgStream g.words && !anyPoison bs && foldDigest v.key (dataOf bs) == g.digest &&
    shardRoot v.id (v.segs.map SegRec.digest) == v.root

/-- Bytes are written to translated places, in whole bursts of the stack (R371). -/
def Act.wrWhole : List (MemSel × Nat × Nat) → PBytes → Act
  | [], _ => .skip
  | (m, a, n) :: r, bs => .seq (if m = .stack then .wrBursts a (bs.take n) else .wrAny m a (bs.take n)) (Act.wrWhole r (bs.drop n))

/-- An attempt ends: the segment is written, or the next attempt begins, or the repair has failed (R371). -/
def Act.repairAttempt (model version seg : Nat) : Act :=
  .get fun s =>
    match s.u.repairs.find? (fun r => r.model == model && r.version == version && r.seg == seg), s.segRec model version seg with
    | some r, some (v, h, g) =>
      let done : Act := .units fun u =>
        { u with repairs := u.repairs.filter fun x => !(x.model == model && x.version == version && x.seg == seg) }
      let failed : Act :=
        if 3 ≤ r.tries + 1 then .all [done, .count .moltCount 0 11, .errEvent 82 0]
        else .repairAsk { r with tries := r.tries + 1 }
      .when s.saddle (.seq (.when (s.repairFrom r == some false && s.u.pow.linkUp) (.noteSpan v.ctx (s.hostCopy r g)))
        (match s.repairBytes r g, s.segResident v g with
        | some bs, .ok ls =>
          if segMatches h g bs then .all [.wrWhole ls bs, done,
            .units fun u => { u with poisonSegs := u.poisonSegs.erase (model, version, seg) }, .verPoison model, .count .moltCount 0 10,
            .poisonEvent 3 model version seg]
          else failed
        | _, _ => failed))
    | _, _ => .skip

def execRepairAttempt (model : Fin 256) (version : BitVec 16) (seg : BitVec 32) (s : State) : Host.Outcome State Fault Refusal :=
  (Act.repairAttempt model version.toNat seg.toNat).outcome s

/-! ### The weight scrub (R368, R369) -/

/-- A pass is due (R368). -/
def Act.scrubPass : Act :=
  .get fun s => .when (s.saddle && s.rd .scrubMinutes != 0 && s.rd .deviceState ≤ 1) (
    if s.u.scrub.isEmpty then .seq (.units fun u => { u with scrub := s.allSegs }) .scrubOver
    else .seq (.units fun u => { u with scrubDue := true }) (.count .moltCount 0 8))

def execScrubPass (s : State) : Host.Outcome State Fault Refusal := Act.scrubPass.outcome s

/-- Every burst of these places is marked poisoned. -/
def Act.poisonPlaces (ls : List (MemSel × Nat × Nat)) : Act :=
  .each ls fun p => .when (p.1 == .stack) (.each (List.range ((p.2.1 + p.2.2 - 1) / 64 + 1 - p.2.1 / 64)) fun j =>
    .upd (.poison .stack (p.2.1 / 64 + j)))

/-- A segment's resident bytes fold to its digest. -/
def State.segFolds (s : State) (v : VerRec) (h : ShardRec) (g : SegRec) : Bool :=
  match s.segResident v g with
  | .ok ls => foldDigest h.key (dataOf (s.rdSpan ls)) == g.digest
  | .error _ => false

/-- The scrub's fold of a segment ends: a mismatch poisons and repairs it. With the last segment of a shard, every digest of which
matches, the root is compared, and records that deny it are FATAL (R369). Segments under repair are passed over (R368). -/
def Act.scrubCheck (model version seg : Nat) : Act :=
  .get fun s => .when (s.saddle && s.u.scrub.contains (model, version, seg)) (.all [
    .units fun u => { u with scrub := u.scrub.erase (model, version, seg) },
    (match s.segRec model version seg with
      | none => .skip
      | some (v, h, g) =>
        if s.repairing model version seg then .skip else
        match s.segResident v g with
        | .error _ => .skip
        | .ok ls => .seq (.noteSpan v.ctx ls) (
          if foldDigest h.key (dataOf (s.rdSpan ls)) ≠ g.digest then
            .all [.count .moltCount 0 9, .poisonPlaces ls, .poisonSeg model version seg]
          else .when (h.segs.all (fun x => !(s.u.scrub.erase (model, version, seg)).contains (model, version, x.id) &&
              !s.repairing model version x.id && s.segFolds v h x) &&
            shardRoot h.id (h.segs.map SegRec.digest) != h.root) (.fatal fatalRecords 0 0))),
    .scrubOver])

def execScrubSegmentCheck (model : Fin 256) (version : BitVec 16) (seg : BitVec 32) (s : State) : Host.Outcome State Fault Refusal :=
  (Act.scrubCheck model version.toNat seg.toNat).outcome s

/-! ### A burst has become poisoned (R274) -/

/-- Segments of resident versions that hold a burst. -/
def State.segsHolding (s : State) (dpa : Nat) : List (Nat × Nat × Nat) :=
  s.allSegs.filter fun p => match s.segRec p.1 p.2.1 p.2.2 with
    | some (v, _, g) => match s.segResident v g with
      | .ok ls => ls.any fun l => l.1 == .stack && l.2.1 / 64 ≤ dpa / 64 && dpa / 64 ≤ (l.2.1 + l.2.2 - 1) / 64
      | .error _ => false
    | none => false

/-- The saddle learns of a poisoned burst. -/
def Act.poisonReport (dpa : Nat) : Act :=
  .get fun s => .when (s.saddleUp && s.stack.poison.contains (dpa / 64)) (
    if s.u.mem.region dpa = .firmware then .fatal fatalFirmwarePoison (20 + (s.u.mem.place dpa).stack) dpa
    else .each (s.segsHolding dpa) fun p => .poisonSeg p.1 p.2.1 p.2.2)

def execPoisonReport (dpa : Nat) (s : State) : Host.Outcome State Fault Refusal := (Act.poisonReport dpa).outcome s

end Sys2Proof.Machine
end

