-- ==== Sys2Proof/Machine/MemRows.lean ====
section
/-! DEFINITION. The stack memory's own rows (R265, R268 to R288): patrol scrub with the channel code, temperatures, loop-back,
partition tokens, and its entries. -/

namespace Sys2Proof.Machine

/-! ### From a place to its address (R266, R267) -/

/-- Channel locations that the STACK-LOCAL map uses (R283). -/
def MemU.localLocs (m : MemU) : Nat := m.ls / (1536 * 128)

/-- The address of the granule at a place; nothing where no address leads there. -/
def MemU.dpaOf (m : MemU) (p : Place) : Option Nat :=
  if p.loc < m.localLocs then
    some (p.stack * m.ls + (p.loc * 1536 + (p.channel + 1536 * 693 - 693 * p.loc % 1536) % 1536) * 128)
  else
    let top := if p.channel < 512 then 87382 else 87381
    if top ≤ p.loc then none else
    let n := p.channel * 20 + p.stack
    let q := 15 * (top - 1 - p.loc) + n / 2048
    let h := bits q 0 11 ^^^ (bits q 11 10 * 2)
    let g := q * 2048 + ((n % 2048) ^^^ h)
    if g * 128 ≤ 0x4FFFFFFF80 ∧ m.hb ≤ 0x4FFFFFFF80 - g * 128 then some (0x4FFFFFFF80 - g * 128) else none

/-! ### Patrol (R275) -/

/-- Locations of the patrol's round. -/
def patrolLocs : Nat := 87382

/-- What the world has done to memory by now: symbols of bursts changed, and pins that died (R268; log entry 103). -/
def MemU.struck (m : MemU) (e : MemErrors) : MemU :=
  let flip (t : Tab Nat) (x : Fin 72 × Byte) : Tab Nat :=
    let v := tgetD t x.1.val 0 ^^^ x.2.toNat
    if v = 0 then tdel t x.1.val else tset t x.1.val v
  { m with
    errs := (e.bursts.foldl (fun t b => tmod t b.1 [] fun w => b.2.foldl flip w) m.errs).filter fun p => !p.2.isEmpty
    stuck := e.dead.foldl (fun l x => (l.filter fun y => !(y.1 == x.1.val && y.2.1 == x.2.1.val)) ++ [(x.1.val, x.2.1.val, x.2.2)]) m.stuck }

/-- The units with it: a tag that lost a bit is at odds with its parity bit from then on (R214, R216). -/
def Units.struck (u : Units) (e : MemErrors) : Units :=
  let torn (t : Tab Scree) (x : Fin 192 × Nat) : Tab Scree := match tget t x.1.val with
    | some y => tset t x.1.val { y with ents := y.ents.modify x.2 fun n => { n with parity := !n.parity } }
    | none => t
  { u with mem := u.mem.struck e, core := { u.core with scree := e.tags.foldl torn u.core.scree } }

/-- The patrol reads one burst of a location. It runs in RUN and DOZE, whether or not the saddle does, but waits for a stack that loops
back (R280). The position moves on after the last burst of the last channel. -/
def Act.patrol (stack channel loc burst : Nat) : Act :=
  .get fun s => .when (s.u.pow.memOn && !s.u.pow.fatal && s.rd .patrolHours != 0 && s.rd .deviceState ≤ 1 && loc == s.rd .patrolPosition &&
      !(s.loopback && stack == s.fld .lbCtrl 0 0 0 5)) (.seq
    (match s.u.mem.dpaOf ⟨stack, channel, loc⟩ with
      | none => .skip
      | some a => .burstRead true (a / 64 + burst))
    (.when (stack == 19 && channel == 1535 && burst == 1) (.reg .patrolPosition 0 ((loc + 1) % patrolLocs))))

def execPatrolScrub (stack : Fin 20) (channel : Fin 1536) (location : Nat) (burst : Fin 2) (errs : MemErrors) (s : State) :
    Host.Outcome State Fault Refusal :=
  (Act.seq (.units fun u => u.struck errs) (.patrol stack channel location burst)).outcome s

/-! ### Temperature (R278, R285) -/

/-- The row of R278 in force after a sample. -/
def thermalRow (was : Nat) (t : Int) : Nat :=
  if 100 ≤ t ∨ (3 ≤ was ∧ 97 ≤ t) then 3
  else if 95 ≤ t ∨ (2 ≤ was ∧ 92 ≤ t) then 2
  else if 85 ≤ t ∨ (1 ≤ was ∧ 82 ≤ t) then 1 else 0

/-- A stack is HOT. -/
def State.hot (s : State) (stack : Nat) : Bool := 2 ≤ s.fld .stackThermal stack 0 16 2

/-- A stack's sensors are sampled. One sample stands for 1 ms of pacing (log entry 43). -/
def Act.stackTemp (stack : Nat) (t : Int) : Act :=
  .get fun s => .when s.u.pow.memOn (
    let was := s.fld .stackThermal stack 0 16 2
    let row := thermalRow was t
    .all [.when (was == 3) (.countFld .stackThermal stack 8 0 64 1000000),
      .fld .stackThermal stack 0 0 8 (ofInt 8 t),
      .when (sInt 8 (s.fld .stackThermal stack 0 8 8) < t) (.fld .stackThermal stack 0 8 8 (ofInt 8 t)),
      .when (row != was) (.raiseSrc (120 + stack)), .fld .stackThermal stack 0 16 2 row,
      .when (was < 2 && 2 ≤ row) (.countFld .stackThermal stack 0 32 32),
      .when (105 ≤ t) (.fatal fatalStack 0 0)])

def execStackTempSample (stack : Fin 20) (t0 t1 t2 t3 : Int) (s : State) : Host.Outcome State Fault Refusal :=
  (Act.stackTemp stack (max (max t0 t1) (max t2 t3))).outcome s

/-! ### Loop-back (R280, R286, R287) -/

/-- LB_CTRL's rule: a run starts and clears the words of its channels. A write while a run goes on is answered BUSY (log entry 44). -/
def ruleLbCtrl : Rule := fun _ i v k =>
  .get fun s =>
    let stack := bits v 0 5
    let first := bits v 5 11
    if s.loopback then k stBusy
    else if 5 ≤ bits v 28 3 ∨ 1535 < first + bits v 16 11 ∨ 19 < stack then k stRefused
    else .all [.store .lbCtrl i v,
      .when (bit v 31) (.each (List.range (bits v 16 11 + 1)) fun c => .fld .lbResult stack (8 * (first + c)) 0 64 0), k stOk]

def execLoopbackStart (r : Requester) (v : BitVec 32) (s : State) : Host.Outcome State Fault Refusal :=
  (Act.entryRow .lbCtrl ruleLbCtrl r 0 v.toNat).outcome s

/-! ### The aperture (R401, R408) -/

/-- A region that BAR4 reads. -/
def apReadable : Region → Bool
  | .general | .spill _ | .spare | .bank _ | .cairn => true
  | _ => false

/-- A region that BAR4 writes. -/
def apWritable : Region → Bool
  | .general | .spill _ | .spare => true
  | _ => false

/-- A read through BAR4: data with its poison, or Unsupported Request; a poisoned completion counts (R401, R408). -/
def Act.apRead (off len : Nat) : Act :=
  .get fun s =>
    let a := s.rd .apertureBase + off
    if (pieces a len).all fun p => apReadable (s.u.mem.region p.1) then
      let bs := s.rdStack a len
      .all [.out (.read bs), .noteRead .stack a len, .when (anyPoison bs) (.count .hostCount 0 6)]
    else .seq (.out .unsupported) (.count .hostCount 0 1)

/-- A write through BAR4: what lies in writable regions is stored, poisoned where the write carried EP; what is dropped counts
once (R401, R408). -/
def Act.apWrite (off : Nat) (data : List Byte) (ep : Bool) : Act :=
  .get fun s =>
    let a := s.rd .apertureBase + off
    let ps := pieces a data.length
    .all [.when ep (.seq (.count .hostCount 0 5) (.errEvent 56 0)),
      .each (ps.filter fun p => apWritable (s.u.mem.region p.1)) fun p =>
        .wrStack p.1 (((data.drop (p.1 - a)).take p.2).map fun b => (b, ep)),
      .when (ps.any fun p => !apWritable (s.u.mem.region p.1)) (.count .hostCount 0 1)]

/-- An access that was held, or is made now. -/
def Act.heldDone : Held → Act
  | .read off len => .apRead off len
  | .write off data ep => .apWrite off data ep
  | .msg m => .arrive (fun _ => .skip) m

/-- The stack memory that an access through BAR4 reaches. -/
def State.apPlaces (s : State) : Held → List (MemSel × Nat × Nat)
  | .read off len => [(.stack, s.rd .apertureBase + off, len)]
  | .write off data _ => [(.stack, s.rd .apertureBase + off, data.length)]
  | .msg _ => []

/-- An access through BAR4 waits: its stack is looped back, or one before it waits (R280). -/
def State.apHolds (s : State) (h : Held) : Bool :=
  match h with
  | .msg _ => false
  | _ => s.lbHolds (s.apPlaces h) || (s.loopback && !s.u.pow.held.isEmpty)

/-! ### Requests that wait for memory (R277, R280) -/

/-- The round of a deficit round robin in which each waiting request has all its granules: at each interface a partition is granted WEIGHT
granules a round, in the order of its requests, and a request has them when the later interface has granted the last (R277). -/
def grantRounds (weight : Nat → Nat) : List (Nat × Nat × Nat) → List MemWait → List (Nat × MemWait)
  | _, [] => []
  | sum, w :: r =>
    let old := ((sum.find? fun x => x.1 == w.part).map Prod.snd).getD (0, 0)
    let new := (old.1 + w.west, old.2 + w.east)
    (max (cdiv new.1 (weight w.part)) (cdiv new.2 (weight w.part)), w) ::
      grantRounds weight ((w.part, new) :: sum.filter fun x => x.1 != w.part) r

/-- Requests that wait, in the order in which the interfaces serve them: by round, within a round by partition, within a partition the
oldest first (R277; log entry 104). -/
def State.grantOrder (s : State) (ws : List MemWait) : List MemWait :=
  ((grantRounds (fun p => max 1 (s.fld .partition p 0 48 8)) [] ws).insertionSort
    (fun a b => 16 * a.1 + a.2.part ≤ 16 * b.1 + b.2.part)).map Prod.snd

/-- Who waited for memory looks again: an engine, or a flow. -/
def Act.memGrant (w : MemWait) : Act := if w.who < 2048 then .runEngine (w.who / 8) (w.who % 8) else .deliverWake (w.who - 2048)

/-- Requests that wait and that a test names are served in turn; those that must wait on stand in line again. -/
def Act.memServe (which : MemWait → Bool) : Act :=
  .get fun s => .seq (.units fun u => { u with mem := { u.mem with waits := u.mem.waits.filter fun w => !which w } })
    (.each (s.grantOrder (s.u.mem.waits.filter which)) .memGrant)

/-! ### Partitions (R277, R284) -/

/-- Commands and messages of a partition that waited for tokens look again, the oldest first. -/
def Act.wakePart (part : Nat) : Act := .memServe fun w => w.part == part

/-- Tokens come into one bucket of a partition, and the time requests waited there is counted (R277). -/
def Act.refill (part : Nat) (east : Bool) (tokens waited : Nat) : Act :=
  .get fun s => .when (s.fld .partition part 0 0 32 != 0 && s.u.pow.memOn) (.all [
    .units fun u => { u with mem := { u.mem with spent := tmod u.mem.spent (2 * part + b2n east) 0 (· - tokens) } },
    .count .partitionCount part (2 + b2n east) waited, .wakePart part])

def execPartitionTokenRefill (part : Fin 16) (east : Bool) (tokens waitedNs : Nat) (s : State) : Host.Outcome State Fault Refusal :=
  (Act.refill part east tokens waitedNs).outcome s

/-- PARTITION's rule (R284). -/
def rulePartition : Rule := fun _ i v k =>
  if 983000 < bits v 0 32 ∨ bits v 32 16 = 0 ∨ bits v 48 8 = 0 ∨ v / 2 ^ 56 ≠ 0 then k stRefused
  else .all [.store .partition i v, .wakePart i, k stOk]

/-! ### Other entries (R265, R282) -/

/-- The layout that the entries ask for at the next warm reset. -/
def State.layoutAsked (s : State) : MemU :=
  { scree := s.rd .screeMib, gbank := s.rd .gbankMib, spill := s.rd .spillMib, tarn := s.rd .tarnUnits }

/-- A size of the layout may be written (R265): multiples of 64 up to 1,024 MiB, and a layout that leaves enough. -/
def layoutRule (n : EName) (set : MemU → Nat → MemU) : Rule :=
  ruleIf n fun s v => (n == .tarnUnits || (v % 64 == 0 && v ≤ 1024)) && layoutOk (set s.layoutAsked v)

def ruleScreeMib : Rule := layoutRule .screeMib fun m v => { m with scree := v }
def ruleGbankMib : Rule := layoutRule .gbankMib fun m v => { m with gbank := v }
def ruleSpillMib : Rule := layoutRule .spillMib fun m v => { m with spill := v }
def ruleTarnUnits : Rule := layoutRule .tarnUnits fun m v => { m with tarn := v }

def rulePatrolHours : Rule := ruleIf .patrolHours fun _ v => v ≤ 168

/-- ERASE_LIST's rule: at most two valid entries for one channel (R270, R282). -/
def ruleEraseList : Rule := fun r i v k =>
  ruleIf .eraseList (fun s v =>
    let others := (List.range 64).filter fun j => j != i && s.fld .eraseList j 0 31 1 == 1 && s.fld .eraseList j 0 0 15 == bits v 0 15
    bits v 0 15 ≤ 30719 && bits v 15 6 ≤ 35 && bits v 21 10 == 0 && (!bit v 31 || others.length < 2)) r i v k

def ruleLbTime : Rule := ruleIf .lbTimeUs fun _ v => 1 ≤ v && v ≤ 10000000

/-- MEM_LAYOUT shows the layout in force (R283). -/
def MemU.layoutWords (m : MemU) : List Nat :=
  [m.share + m.lsMib * 2 ^ 16 + m.localLocs * 2 ^ 32, m.hb, m.tarnBase, firmwareBase, cairnBase, m.tarnBase - m.hb, 0, 0]

end Sys2Proof.Machine
end

