-- ==== Sys2Proof/Machine/Rollout.lean ====
section
/-! DEFINITION. Rollout sessions and batch steps (R177 to R210): opening, requests, the commit in its order, the step plan
and its release, the step ring and the rollout store. -/

namespace Sys2Proof.Machine

/-! ### Records in the step ring (R203 to R206) -/

/-- Steps of a session's ring. -/
def Sess.ringSlots (x : Sess) : Nat := 2 ^ x.fld 0x38 48 5

/-- Records are written while they fit: words of each record, eight to a slot. A record that would cross the end is
preceded by a pad record (R203). What was written, and what stays. -/
def ringPlan (size free : Nat) : Nat → List (List Nat) → List (Nat × List Nat) × Nat × List (List Nat)
  | w, [] => ([], w, [])
  | w, r :: rest =>
    let n := r.length / 8
    let gap := size - w % size
    let pad := if gap < n then gap else 0
    if free < pad + n then ([], w, r :: rest) else
    let more := ringPlan size (free - (pad + n)) (w + pad + n) rest
    ((if pad = 0 then [] else [(w % size, [pad * 2 ^ 16, 0, 0, 0, 0, 0, 0, 0])]) ++ ((w + pad) % size, r) :: more.1, more.2)

/-- A session's records go into its ring as far as they fit, and then the write index (R203). -/
def Act.flushRecs (i : Nat) : Act :=
  .get fun s =>
    let x := s.ses i
    let size := x.ringSlots
    let r := ringPlan size (size - dist32 (s.rd .stepRead i) x.widx) x.widx x.recs
    .when (!x.recs.isEmpty && s.ctxState x.ctx == 1 && s.ownGoes && s.tells) (.all [
      .each r.1 fun w => .get fun s => .when (s.ctxState x.ctx == 1)
        (.wrOwn x.ctx 5 (x.fld 0x38 0 48 + w.1 * 64) (wordBytes w.2)),
      .ses i fun x => { x with recs := r.2.2, widx := idx32 r.2.1 },
      .get fun s => .when (s.ctxState x.ctx == 1 && r.2.1 != x.widx)
        (.wrOwn x.ctx 5 (x.fld 0x40 0 48) (cleanBytes 4 (idx32 r.2.1)))])

/-- Fields of a request (R187). -/
def Req.req (r : Req) : Nat := bits r.w0 0 8
def Req.tag (r : Req) : Nat := bits r.w0 32 32
def Req.be (r : Req) : Bool := bit r.w0 16
def Req.now_ (r : Req) : Bool := bit r.w0 17
def Req.promptLen (r : Req) : Nat := bits r.w2 0 32
def Req.maxNew (r : Req) : Nat := bits r.w2 32 32

/-- Words of a request record (R206). -/
def reqWords (i : Nat) (r : Req) (status handle now step : Nat) : List Nat :=
  [2 + i * 2 ^ 8 + 2 ^ 16 + r.req * 2 ^ 32 + status * 2 ^ 40 + handle * 2 ^ 48, r.tag + idx32 r.idx * 2 ^ 32, now, step, 0, 0, 0, 0]

/-! ### Opening (R178 to R182) -/

/-- FIELD of a descriptor (R178, R179). STORE_BYTES 0 with the store on is FIELD (log entry 119). -/
def Sess.fieldBad (x : Sess) : Bool :=
  let w (k : Nat) : Nat := x.d.getD k 0
  !(zeroBits (w 0) [(10, 6), (55, 9)] && zeroBits (w 1) [(13, 19)] && zeroBits (w 3) [(58, 6)] && zeroBits (w 4) [(48, 16)] &&
      zeroBits (w 6) [(16, 16)] && zeroBits (w 7) [(53, 11)] && zeroBits (w 8) [(48, 16)] && zeroBits (w 9) [(48, 16)] &&
      zeroBits (w 10) [(48, 16)] && w 15 == 0) ||
    8 < x.cand || 8192 < x.heads * x.dim ||
    x.maxSeq % 64 != 0 || x.maxSeq < 64 || 4096 < x.maxSeq || x.maxRows % 64 != 0 || x.maxRows < 64 || 1048576 < x.maxRows ||
    x.maxLen < 2 || 1048576 < x.maxLen || x.fld 0x18 32 16 == 0 || 32768 < x.fld 0x18 32 16 ||
    x.fld 0x18 48 10 == 0 || 512 < x.fld 0x18 48 10 || x.fld 0x20 0 48 % 4096 != 0 ||
    x.fld 0x28 48 16 == 0 || 768 < x.fld 0x28 48 16 || x.fld 0x38 0 48 % 64 != 0 || x.fld 0x38 48 5 < 13 || 20 < x.fld 0x38 48 5 ||
    x.fld 0x50 0 48 % 4096 != 0 || (x.fld 0 54 1 == 0 && (x.fld 0x48 0 48 % 4096 != 0 || x.fld 0x50 0 48 == 0)) ||
    x.maxRows < x.maxSeq * (1 + x.cand) + x.fld 0x18 32 16

/-- FIELD of a step queue table entry (R181). -/
def tableBad (e : List Nat) : Bool :=
  4096 < bits (e.getD 0 0) 16 16 || bits (e.getD 0 0) 32 32 == 0 || 16384 < bits (e.getD 0 0) 32 32 ||
    bits (e.getD 1 0) 48 16 != 0 || bits (e.getD 2 0) 48 16 != 0 || e.getD 3 0 != 0

/-- QUEUE of R179. -/
def State.sesQueueBad (s : State) (i : Nat) (x : Sess) : Bool :=
  x.queues.any (fun q => s.qCtx q != x.ctx) || !x.queues.Nodup ||
    s.liveSes.any fun p => p.1 != i && p.2.queues.any fun q => x.queues.contains q

/-- Units other open sessions reserve. -/
def State.othersReserve (s : State) (i : Nat) : Nat :=
  ((s.liveSes.filter fun p => p.1 != i).map fun p => p.2.reserve).foldl (· + ·) 0

/-- A patch breaks R182. A reserved bit or SOURCE of a patch is PROGRAM, as all of its faults (log entry 119). -/
def patchBad (progLen p : Nat) : Bool :=
  progLen ≤ bits p 0 16 || bit p 31 || bits p 40 24 != 0 || 63 < bits p 19 6 + bits p 25 6 ||
    (bits p 16 3 == 0 && bits p 19 6 < 48) || !([0, 1, 2, 3, 4, 5, 6, 0x11, 0x12, 0x13, 0x14, 0x15, 0x16, 0x20, 0x21].contains (bits p 32 8))

/-- PROGRAM of R179 for one table entry; a program or patch list that cannot be read breaks it too. -/
def State.programBad (s : State) (ctx : Nat) (e : List Nat) : Bool :=
  let n := bits (e.getD 0 0) 32 32
  let np := bits (e.getD 0 0) 16 16
  match s.rdCtx ctx (bits (e.getD 1 0) 0 48) (64 * n), s.rdCtx ctx (bits (e.getD 2 0) 0 48) (8 * np) with
  | .ok prog, .ok pat =>
    anyPoison prog || anyPoison pat ||
      (List.range n).any (fun k => let op := (prog.getD (64 * k) (0, false)).1; op == 1 || op == 2) ||
      (wordsOf np pat).any (patchBad n)
  | _, _ => true

/-- The outcome of the checks of a session's opening (R179): its new state and the session. -/
def State.sesCheck (s : State) (i : Nat) : Nat × Sess :=
  let x0 := s.ses i
  match s.ctxNaming (s.rd .sessionDesc i) 128 fun w => bits w 0 10 with
  | none => (0x10, {})
  | some (c, bs) =>
    let fail (n : Nat) : Nat × Sess := (n, { ctx := c })
    let x : Sess := { ctx := c, d := wordsOf 16 bs }
    let foreign := match x0.byFn with | some f => f != s.ctxFn c | none => false
    if s.rd .sessionDesc i % 64 != 0 || anyPoison bs || x.fieldBad || foreign then fail 0x10
    else match s.rdCtx c (x.fld 0x28 0 48) (32 * x.fld 0x28 48 16) with
    | .error _ => fail 0x10
    | .ok tb =>
      let x := { x with table := (List.range (x.fld 0x28 48 16)).map fun k => wordsOf 4 (tb.drop (32 * k)) }
      if anyPoison tb || x.table.any tableBad then fail 0x10
      else if s.sesQueueBad i x then fail 0x11
      else if s.u.mem.tarn - s.othersReserve i < x.reserve || s.takeable i < x.reserve then fail 0x12
      else if x.table.any (s.programBad c) then fail 0x13
      else match if 255 < x.model then none else s.verFor x.model 0 with
      | none => fail 0x14
      | some v => (1, { x with version := v, versionBase := s.verBase x.model v, storeLow := x.fld 0x50 0 48 - 4096 })

/-- What the checks of an opening read in the session's context: the descriptor, the step queue table, every program and patch
list (R179). -/
def State.sesReads (s : State) (i : Nat) : Nat × List (Nat × Nat) :=
  match s.ctxNaming (s.rd .sessionDesc i) 128 fun w => bits w 0 10 with
  | none => (0, [])
  | some (c, bs) =>
    let x : Sess := { d := wordsOf 16 bs }
    let n := x.fld 0x28 48 16
    let progs := match s.rdCtx c (x.fld 0x28 0 48) (32 * n) with
      | .error _ => []
      | .ok tb => (List.range n).flatMap fun k =>
        let e := wordsOf 4 (tb.drop (32 * k))
        if tableBad e then [] else
          [(bits (e.getD 1 0) 0 48, 64 * bits (e.getD 0 0) 32 32), (bits (e.getD 2 0) 0 48, 8 * bits (e.getD 0 0) 16 16)]
    (c, (s.rd .sessionDesc i, 128) :: if x.fieldBad then [] else (x.fld 0x28 0 48, 32 * n) :: progs)

/-- The rollout store is on. -/
def Sess.storeOn (x : Sess) : Bool := x.fld 0 54 1 == 0

/-- A session may be opened or freed (R180). -/
def State.sesIdle (s : State) (i : Nat) : Bool := !s.sesLive i && !(s.ses i).opening

/-- What the state of a session's context answers a write to the session's entries (R377); a session that is free or failed to
open has none. -/
def State.sesGate (s : State) (i : Nat) : Nat :=
  if [1, 2, 3, 4].contains (s.rd .sessionState i) then s.ctxGate (s.ses i).ctx else stOk

/-- The rule of SESSION_DESC (R180): an address starts an opening, 0 frees, and a session that runs refuses as busy. Records that still
wait for room in the ring are dropped with the session (log entry 119). -/
def ruleSessionDesc : Rule := fun r i v k =>
  .get fun s =>
    if s.sesGate i ≠ stOk then k (s.sesGate i)
    else if !s.sesIdle i then k stBusy
    else if v = 0 then .all [.napWake, .reg .sessionDesc i 0, .reg .sessionState i 0,
      .units fun u => { u with sess := tdel u.sess i }, k stOk]
    else .all [.napWake, .reg .sessionDesc i v,
      .ses i fun x => { ctx := x.ctx, opening := true, byFn := match r with | .hostVf f => some f.val | _ => none }, k stOk]

/-- The checks of an opening end (R179, R180, R207). -/
def Act.sesCheckDone (i : Nat) : Act :=
  .get fun s => .when ((s.ses i).opening && s.fwRuns && s.runs && s.ownGoes)
    (let r := s.sesCheck i
    .all [.noteReads (s.sesReads i).1 (s.sesReads i).2, .reg .sessionState i r.1, .ses i fun _ => r.2,
      .when (r.1 == 1) (.all [.reg .stepRead i 0, .regErase .sessionCount i,
        .when r.2.storeOn (.seq (.needUnit unitStore 0)
          (.wrOwn r.2.ctx 6 (r.2.fld 0x48 0 48 + r.2.fld 0x50 0 48 - 4096) (cleanBytes 4096 0))),
        .phase])])

/-! ### The commit (R194 to R202) -/

/-- What a boundary did to one sequence: its entry of the step record (R205), or, for one that was not in the plan of the step
(`listed` false), its directory entry alone (R208, R209). -/
structure Ent where
  sq : Sq
  listed : Bool := true
  prefill : Bool := false
  toks : List (Nat × Nat) := []
  late : Bool := false
  finished : Bool := false
  cancelled : Bool := false
  preempted : Bool := false
  poison : Bool := false
  reason : Nat := 0
  fill : Nat
  latency : Nat := 0
  deriving DecidableEq, Repr

/-- A boundary while it is worked out. -/
structure Bnd where
  x : Sess
  now : Nat
  /-- State of the session. -/
  st : Nat
  ents : List Ent := []
  recs : List (Req × Nat × Nat) := []
  /-- Units of leaving sequences by handle, and those that wait for an attention command naming the handle (R154, R155); units in
  use; what may be taken from the free pool. -/
  pend : List (Nat × List Nat) := []
  held : List (Nat × List Nat) := []
  used : List Nat := []
  budget : Nat := 0
  /-- Handles of the device's running sequences; handles whose pages are pending; handles that unretired commands name. -/
  handles : List Nat := []
  shun : List Nat := []
  named : List Nat := []
  admitted : List Sq := []
  /-- Tags past their deadline before this boundary. -/
  overdue : List Nat := []
  cnt : List (Nat × Nat) := []
  deriving DecidableEq, Repr

/-- A counter of SESSION_COUNT rises. -/
def Bnd.bump (b : Bnd) (k : Nat) (n : Nat := 1) : Bnd := { b with cnt := b.cnt ++ [(k, n)] }

/-- Reference time of a sequence's deadline and the target, in ns; no target means no deadline (R198). -/
def Sess.target (x : Sess) (first : Bool) : Nat := (if first then x.fld 0x10 0 32 else x.fld 0x10 32 32) * 1000

def Sq.ref (q : Sq) : Nat := q.last.getD q.readTime

/-- A deadline has passed. -/
def Sess.passed (x : Sess) (now ref : Nat) (first : Bool) : Bool := x.target first != 0 && ref + x.target first < now

/-- Tokens kept of a delivery and why it ends (R196): `fill` gives the committed fill with token i delivered. -/
def cutTokens (x : Sess) (gen maxNew : Nat) (fill : Nat → Nat) : Nat → List (Nat × Nat) → List (Nat × Nat) × Nat
  | _, [] => ([], 0)
  | i, t :: rest =>
    let stops := (List.range 8).any fun k =>
      let v := bits (x.d.getD (11 + k / 2) 0) (32 * (k % 2)) 32
      v != 0xFFFFFFFF && v == t.1
    if stops then ([t], 1)
    else if maxNew ≤ gen + i then ([t], 2)
    else if x.maxLen ≤ fill i then ([t], 3)
    else let r := cutTokens x gen maxNew fill (i + 1) rest; (t :: r.1, r.2)

/-- Candidates accepted after a decode step: the largest run that matches (R195). -/
def acceptRun (cands ys : List Nat) : Nat :=
  match cands, ys with
  | c :: cs, y :: yr => if c ≠ 0xFFFFFFFF ∧ c = y then 1 + acceptRun cs yr else 0
  | _, _ => 0

/-- One sequence's delivery (R195, R196): results as token, LOGP, poison; candidates of its rows. -/
def acceptRow (x : Sess) (now : Nat) (results : List (Nat × Nat × Bool)) (slots : List (Nat × Bool)) (p : PlanRow) (q : Sq) : Ent × Sq :=
  let rows := if p.prefill then 1 else p.n
  let res := match p.sample with | some k => (results.drop k).take rows | none => []
  let ys := res.map Prod.fst
  let cands := if p.prefill then [] else ((slots.drop (p.row + 1)).take (p.n - 1)).map Prod.fst
  let n := acceptRun cands ys
  let y := ys.getD n 0
  let nonfinite := !res.isEmpty && y == 0xFFFFFFFF
  let whole := (List.range n).map (fun j => (cands.getD j 0, (res.getD j (0, 0, false)).2.1)) ++
    if res.isEmpty || nonfinite then [] else [(y, (res.getD n (0, 0, false)).2.1)]
  let cut := cutTokens x q.gen q.maxNew (fun i => if p.prefill then q.fill + p.n else q.fill + i) 1 whole
  let fin := cut.2 != 0
  let fill := if p.prefill then q.fill + p.n else if fin then q.fill + cut.1.length else q.fill + n + 1
  let late := x.passed now q.ref (q.last.isNone) && !cut.1.isEmpty
  let q' := { q with
    fill := fill, gen := q.gen + cut.1.length
    last := if cut.1.isEmpty then q.last else some now
    missed := if cut.1.isEmpty then q.missed else false }
  let ent : Ent := {
    sq := q, prefill := p.prefill, toks := cut.1, late := late, finished := fin, cancelled := !fin && nonfinite
    poison := res.any fun r => r.2.2
    reason := if fin then cut.2 else if nonfinite then 4 else 0
    fill := fill, latency := min ((now - q.ref) / 1000) 0xFFFFFFFF }
  (ent, q')

/-- The sequence with a tag. -/
def Sess.seq (x : Sess) (tag : Nat) : Option Sq := x.seqs.find? fun q => q.tag == tag

/-- A session with a sequence replaced, or without it. -/
def Sess.setSeq (x : Sess) (q : Sq) : Sess := { x with seqs := x.seqs.map fun y => if y.tag = q.tag then q else y }
def Sess.delSeq (x : Sess) (tag : Nat) : Sess := { x with seqs := x.seqs.filter fun y => y.tag != tag }

/-- A sequence gives up its handle and its pages, which join the pending set, or wait while an unretired attention command names
the handle (R154, R155). -/
def Bnd.yields (b : Bnd) (q : Sq) : Bnd :=
  match q.handle with
  | none => b
  | some h =>
    let b := { b with handles := sdel b.handles h, shun := h :: b.shun }
    if b.named.contains h then { b with held := b.held ++ [(h, q.pages.flatten)] }
    else { b with pend := b.pend ++ [(h, q.pages.flatten)] }

/-- A sequence leaves (R154). -/
def Bnd.leave (b : Bnd) (q : Sq) : Bnd := Bnd.yields { b with x := b.x.delSeq q.tag } q

/-- Step 2: tokens are accepted for every row of the plan. -/
def Bnd.accept (results : List (Nat × Nat × Bool)) (slots : List (Nat × Bool)) (b : Bnd) : Bnd :=
  b.x.plan.foldl (fun b p => match b.x.seq p.tag with
    | none => b
    | some q =>
      let r := acceptRow b.x b.now results slots p q
      ({ b with x := b.x.setSeq r.2, ents := b.ents ++ [r.1] }.bump 1 r.1.toks.length)) b

/-- Step 3: sequences that finished leave, and those whose next token was not finite (R195, R196). -/
def Bnd.ends (b : Bnd) : Bnd :=
  b.ents.foldl (fun b e => match b.x.seq e.sq.tag with
    | none => b
    | some q => if e.finished then (b.leave q).bump 3 else if e.cancelled then (b.leave q).bump 4 else b) b

/-- What a boundary did to a sequence that is not in the plan. -/
def Bnd.entOf (b : Bnd) (q : Sq) (listed : Bool) : Ent :=
  { sq := q, listed := listed, fill := q.fill, latency := min ((b.now - q.ref) / 1000) 0xFFFFFFFF }

/-- A live sequence is cancelled with a reason; its entry says so, and where the boundary has no step it gets one (R200). -/
def Bnd.cancel (b : Bnd) (step : Bool) (q : Sq) (reason : Nat) : Bnd :=
  let b := (b.leave q).bump 4
  if b.ents.any fun e => e.sq.tag == q.tag then
    { b with ents := b.ents.map fun e => if e.sq.tag = q.tag then { e with cancelled := true, reason := reason } else e }
  else { b with ents := b.ents ++ [{ b.entOf q (!step) with cancelled := true, reason := reason }] }

/-- A request record is due at this boundary. -/
def Bnd.tell (b : Bnd) (r : Req) (status : Nat) (handle : Nat := 0xFFF) : Bnd := { b with recs := b.recs ++ [(r, status, handle)] }

/-- One CANCEL or CLOSE takes effect (R199, R200), or the close of a service drain, which also ends a session that drains (R492). A
sequence that has just ended is no longer cancelled, and CLOSE_NOW ends preempted ones too (log entry 119). -/
def Bnd.request (step : Bool) (b : Bnd) (r : Req) : Bnd :=
  if r.req = 2 then
    match b.x.seq r.tag with
    | some q => (b.cancel step q 5).tell r 0
    | none =>
      if b.ents.any fun e => e.sq.tag == r.tag && e.finished then b.tell r 4
      else match b.x.waiting.find? fun w => w.tag == r.tag with
      | some w => ({ b with x := { b.x with waiting := b.x.waiting.filter fun y => y.tag != r.tag } }.tell w 0x0A).tell r 0
      | none => b.tell r 5
  else if r.own then
    let b := b.x.waiting.foldl (fun b w => b.tell w 9) b
    b.x.seqs.foldl (fun b q => b.cancel step q 7) { b with x := { b.x with waiting := [] }, st := 2 }
  else if b.st ≠ 1 then b.tell r 7
  else
    let b := b.x.waiting.foldl (fun b w => b.tell w 9) b
    let b := { b with x := { b.x with waiting := [], closing := some r }, st := 2 }
    if r.now_ then b.x.seqs.foldl (fun b q => b.cancel step q 7) b else b

/-- Step 4, second part: deadlines (R198). MISS_CANCEL cancels what runs or waits; a preempted sequence is counted alone (log entry
119). -/
def Bnd.deadlines (step : Bool) (b : Bnd) : Bnd :=
  let cancel := b.x.fld 0 53 1 == 1
  let b := b.x.seqs.foldl (fun b q =>
    if cancel && q.handle.isSome && b.overdue.contains q.tag then b.cancel step q 6 else b) b
  b.x.waiting.foldl (fun b w =>
    if b.x.passed b.now w.time true then
      let b := if w.missed then b else b.bump 7
      if cancel then { b with x := { b.x with waiting := b.x.waiting.filter fun y => y.tag != w.tag } }.tell w 8
      else { b with x := { b.x with waiting := b.x.waiting.map fun y => if y.tag = w.tag then { y with missed := true } else y } }
    else b) b

/-- Before tokens are accepted: sequences past their deadline, each miss counted once (R198). -/
def Bnd.misses (b : Bnd) : Bnd :=
  b.x.seqs.foldl (fun b q =>
    if b.x.passed b.now q.ref q.last.isNone then
      let b := if q.missed then b else b.bump (if q.last.isNone then 7 else 8)
      { b with overdue := b.overdue ++ [q.tag], x := b.x.setSeq { q with missed := true } }
    else b) b

/-- Units drawn for a new page: from the free pool first, then from the pending set (R154). -/
def Bnd.draw (b : Bnd) (k : Nat) : Option (List Nat × Bnd) :=
  let free := min k b.budget
  let pool := b.pend.flatMap Prod.snd
  if pool.length < k - free then none else
  let us := takeUnits b.used free
  let taken := pool.take (k - free)
  some (us ++ taken, { b with
    used := b.used ++ us, budget := b.budget - free
    pend := b.pend.map fun p => (p.1, p.2.filter fun u => !taken.contains u) })

/-- The victim of a preemption: BE before LC, the latest admission first (R197). -/
def victim (qs : List Sq) : Option Sq :=
  qs.foldl (fun best q => match best with
    | none => some q
    | some v => if (q.be && !v.be) || (q.be == v.be && v.order < q.order) then some q else some v) none

/-- A sequence is preempted (R197): it keeps its tag, its store entry and its buffer. -/
def Bnd.preempt (b : Bnd) (q : Sq) : Bnd :=
  let goal := q.promptLen + q.gen
  let q' := { q with handle := none, pages := [], fill := 0, goal := goal, preempted := q.preempted + 1 }
  let ents := if b.ents.any fun e => e.sq.tag == q.tag then b.ents else b.ents ++ [b.entOf q false]
  (Bnd.yields { b with
    x := b.x.setSeq q'
    ents := ents.map fun e => if e.sq.tag = q.tag then { e with preempted := true } else e } q).bump 5

/-- Pages needed by a running sequence (R153). -/
def Sq.pagesDue (q : Sq) : Nat := q.fill / 64 + 2

/-- Step 5: new pages in admission order, with preemptions until each sequence has its page or has gone (R154). -/
def Bnd.pages (units : Nat) : Nat → Bnd → Bnd
  | 0, b => b
  | fuel + 1, b =>
    let needy := b.x.seqs.filter fun q => q.handle.isSome && q.pages.length < q.pagesDue
    match needy.foldl (fun best q => match best with
        | none => some q
        | some v => if q.order < v.order then some q else best) (none : Option Sq) with
    | none => b
    | some q =>
      match b.draw units with
      | some (us, b) => Bnd.pages units fuel { b with x := b.x.setSeq { q with pages := q.pages ++ [us] } }
      | none => match victim (b.x.seqs.filter fun v => v.handle.isSome) with
        | none => b
        | some v => Bnd.pages units fuel (b.preempt v)

/-- A candidate for admission: a preempted sequence or a waiting ADMIT. -/
inductive Cand where
  | back (q : Sq)
  | fresh (r : Req)
  deriving DecidableEq, Repr

/-- Prompt tokens of a candidate, and its tag. -/
def Cand.prompt : Cand → Nat
  | .back q => q.goal
  | .fresh r => r.promptLen

/-- A list ordered by a number. -/
def insertBy {α : Type} (f : α → Nat) (x : α) : List α → List α
  | [] => [x]
  | y :: r => if f x < f y then x :: y :: r else y :: insertBy f x r

def sortBy {α : Type} (f : α → Nat) (l : List α) : List α := l.foldl (fun acc x => insertBy f x acc) []

/-- Candidates in the base policy's order (R191). -/
def Sess.cands (x : Sess) (beCtx : Bool) : List Cand :=
  (sortBy Sq.order (x.seqs.filter fun q => q.handle.isNone)).map Cand.back ++
    (x.waiting.filter fun r => !(r.be || beCtx)).map Cand.fresh ++ (x.waiting.filter fun r => r.be || beCtx).map Cand.fresh

/-- The units of a candidate's reservation (R190). -/
def Sess.needs (x : Sess) (c : Cand) : Nat := (c.prompt / 64 + 2) * x.unitsPerPage

/-- Bytes of a data region, and whether the store can take one more (R207, R208). -/
def regionBytes (maxNew : Nat) : Nat := cdiv (16 * maxNew) 4096 * 4096

def Sess.storeRoom (x : Sess) (maxNew : Nat) : Bool :=
  !x.storeOn || (regionBytes maxNew ≤ x.storeLow && 64 * (x.store.length + 1) ≤ x.storeLow - regionBytes maxNew)

/-- Pages cut from units. -/
def cutPages (per : Nat) : Nat → List Nat → List (List Nat)
  | 0, _ => []
  | k + 1, us => us.take per :: cutPages per k (us.drop per)

/-- A handle that no running sequence holds, where one exists; a handle whose pages are still pending is taken last (R177). -/
def freeHandle (used shun : List Nat) : Option Nat :=
  match (List.range 4096).find? fun h => !used.contains h && !shun.contains h with
  | some h => some h
  | none => (List.range 4096).find? fun h => !used.contains h

/-- A candidate is admitted: units, handle, store entry, OK record (R190). -/
def Bnd.admitOne (beCtx : Bool) (b : Bnd) (c : Cand) (h : Nat) : Bnd :=
  let us := takeUnits b.used (b.x.needs c)
  let pages := cutPages b.x.unitsPerPage (c.prompt / 64 + 2) us
  let b := { b with used := b.used ++ us, budget := b.budget - us.length, handles := b.handles ++ [h] }
  match c with
  | .back q =>
    let q' := { q with handle := some h, lastHandle := h, pages := pages, order := b.x.orders }
    { b with x := { b.x.setSeq q' with orders := b.x.orders + 1 }, admitted := b.admitted ++ [q'] }
  | .fresh r =>
    let data := b.x.storeLow - regionBytes r.maxNew
    let q : Sq := { tag := r.tag, be := r.be || beCtx, order := b.x.orders, handle := some h, lastHandle := h, toks := bits r.w1 0 48
                    promptLen := r.promptLen, maxNew := r.maxNew, temp := bits r.w3 0 32, topP := bits r.w3 32 32
                    topK := bits r.w4 0 32, goal := r.promptLen, pages := pages, readTime := r.time, missed := r.missed
                    entry := b.x.store.length }
    let x := { b.x with
      orders := b.x.orders + 1, seqs := b.x.seqs ++ [q], waiting := b.x.waiting.filter fun y => y.tag != r.tag
      store := if b.x.storeOn then b.x.store ++ [⟨r.tag, data, r.maxNew, r.promptLen⟩] else b.x.store
      storeLow := if b.x.storeOn then data else b.x.storeLow }
    ({ b with x := x, admitted := b.admitted ++ [q] }.tell r 0 h).bump 2

/-- An interim status is told once (R188). -/
def Bnd.interim (b : Bnd) (r : Req) (status : Nat) : Bnd :=
  if r.told.contains status then b else
  let b := b.tell r status
  let b := if status = 1 then b.bump 6 else b
  { b with x := { b.x with waiting := b.x.waiting.map fun y => if y.tag = r.tag then { y with told := y.told ++ [status] } else y } }

/-- DEFERRED_MEM for the ADMITs from a failing candidate on (R191). -/
def Bnd.deferMem (b : Bnd) (cs : List Cand) : Bnd :=
  cs.foldl (fun b c => match c with | .fresh r => b.interim r 1 | .back _ => b) b

/-- Why a candidate cannot be admitted now: nothing, sequences or handles, tarn units, or room in the rollout store (R190). -/
inductive Fit where
  | fits (handle : Nat)
  | full
  | units
  | store
  deriving DecidableEq, Repr

/-- Room in the rollout store counts for a sequence that has no entry there yet (R190, R207). -/
def Sess.storeFor (x : Sess) : Cand → Bool
  | .back _ => true
  | .fresh r => x.storeRoom r.maxNew

/-- R190 for one candidate. -/
def Bnd.fit (b : Bnd) (c : Cand) : Fit :=
  if b.x.maxSeq ≤ (b.x.seqs.filter fun q => q.handle.isSome).length || 4096 ≤ b.handles.length then .full
  else if b.budget < b.x.needs c then .units
  else match freeHandle b.handles b.shun with
    | none => .full
    | some h => if b.x.storeFor c then .fits h else .store

/-- Candidates are tried in order; the first failure stops, or is passed over where a module says so (R190, R191,
R428). -/
def Bnd.tryAll (beCtx skip : Bool) : List Cand → Bnd → Bnd
  | [], b => b
  | c :: rest, b =>
    let next (b : Bnd) : Bnd := if skip then Bnd.tryAll beCtx skip rest b else b
    match b.fit c, c with
    | .fits h, _ => Bnd.tryAll beCtx skip rest (b.admitOne beCtx c h)
    | .units, _ => next (b.deferMem (if skip then [c] else c :: rest))
    | .store, .fresh r => next (b.interim r 3)
    | _, _ => next b

/-- ADMITs whose reservation can never be met end TOO_LONG (R188). -/
def Bnd.tooLong (room : Nat) (b : Bnd) : Bnd :=
  b.x.waiting.foldl (fun b w => if room < b.x.needs (.fresh w) then
    { b with x := { b.x with waiting := b.x.waiting.filter fun y => y.tag != w.tag } }.tell w 6 else b) b

/-- Steps 4 and 5 of R154: admissions from the free pool; a pinned session that drains an old version holds them
(R201). -/
def Bnd.admissions (beCtx pinnedOld : Bool) (b : Bnd) : Bnd :=
  if pinnedOld then b.x.waiting.foldl (fun b w => b.interim w 2) b else
  let cs := b.x.cands beCtx
  match b.x.policy with
  | none => Bnd.tryAll beCtx false cs b
  | some p => Bnd.tryAll beCtx p.2 (p.1.filterMap fun k => cs[k]?) b

/-! ### Records and store of a commit (R204 to R209) -/

/-- Words of 96 bytes of a step record's entry (R205). -/
def Ent.words (e : Ent) (version : Nat) : List Nat :=
  let t (k : Nat) : Nat := (e.toks.getD k (0, 0)).1
  let l (k : Nat) : Nat := (e.toks.getD k (0, 0)).2
  let flags := b2n e.late + 2 * b2n e.finished + 4 * b2n e.cancelled + 8 * b2n e.preempted + 16 * b2n e.poison +
    32 * b2n (e.sq.gen == 0 && !e.toks.isEmpty) + 64 * b2n e.prefill
  [e.sq.lastHandle + e.toks.length * 2 ^ 12 + flags * 2 ^ 16 + e.reason * 2 ^ 24 + e.sq.tag * 2 ^ 32,
   e.fill + version * 2 ^ 32,
   t 0 + t 1 * 2 ^ 32, t 2 + t 3 * 2 ^ 32, t 4 + t 5 * 2 ^ 32, t 6 + t 7 * 2 ^ 32, t 8 + l 0 * 2 ^ 32,
   l 1 + l 2 * 2 ^ 32, l 3 + l 4 * 2 ^ 32, l 5 + l 6 * 2 ^ 32, l 7 + l 8 * 2 ^ 32, e.latency]

/-- Words of a step record (R204). -/
def stepWords (i version step now epoch free : Nat) (es : List Ent) : List Nat :=
  let n := es.length
  let slots := 1 + cdiv (96 * n) 64
  let body := es.flatMap fun e => e.words version
  [1 + i * 2 ^ 8 + slots % 2 ^ 16 * 2 ^ 16 + n * 2 ^ 32 + version * 2 ^ 48, step, now,
    epoch + (es.map fun e => e.toks.length).foldl (· + ·) 0 * 2 ^ 32, free, 0, 0, 0] ++ body ++
    List.replicate (8 * slots - 8 - body.length) 0

/-- Words 0x00 and 0x08 of a directory entry (R208). -/
def dirWords (tag handle st reason preempted ntok promptLen : Nat) : List Nat :=
  [tag + handle * 2 ^ 32 + st * 2 ^ 44 + reason * 2 ^ 48 + min preempted 15 * 2 ^ 52, ntok + promptLen * 2 ^ 32]

/-- The store writes of one entry of a commit (R207 to R209). -/
def Act.storeEnt (x : Sess) (version : Nat) (e : Ent) : Act :=
  match x.store[e.sq.entry]? with
  | none => .skip
  | some d =>
    let base := x.fld 0x48 0 48
    let g := e.sq.gen
    let arr (off w : Nat) (vs : List Nat) : Act :=
      .when (!vs.isEmpty) (.wrOwn x.ctx 6 (base + d.data + off * d.maxNew + w * g) (vs.flatMap (cleanBytes w)))
    .all [arr 0 4 (e.toks.map Prod.fst), arr 4 4 (e.toks.map Prod.snd), arr 12 2 (e.toks.map fun _ => version),
      arr 14 2 (e.toks.map fun _ => b2n e.late + 2 * b2n e.poison),
      .wrOwn x.ctx 6 (base + 64 * e.sq.entry) (wordBytes (dirWords e.sq.tag e.sq.lastHandle
        (if e.finished then 1 else if e.cancelled then 2 else 0) e.reason
        (e.sq.preempted + b2n e.preempted) (g + e.toks.length) e.sq.promptLen))]

/-- The directory entries of sequences admitted at a boundary, then ENTRIES (R208). -/
def Act.storeAdmit (x : Sess) (q : Sq) : Act :=
  match x.store[q.entry]? with
  | none => .skip
  | some d =>
    let base := x.fld 0x48 0 48
    if q.preempted = 0 then
      .all [.wrOwn x.ctx 6 (base + 64 * q.entry)
          (wordBytes (dirWords q.tag q.lastHandle 0 0 0 0 q.promptLen ++ [d.data, 0, 0, 0, 0, 0])),
        .wrOwn x.ctx 6 (base + x.fld 0x50 0 48 - 8) (cleanBytes 8 (q.entry + 1))]
    else .wrOwn x.ctx 6 (base + 64 * q.entry) (wordBytes (dirWords q.tag q.lastHandle 0 0 q.preempted q.gen q.promptLen))

/-- Delivered tokens go into the sequence's token buffer (R187, R195). -/
def Act.tokenBuf (x : Sess) (e : Ent) : Act :=
  .when (!e.toks.isEmpty)
    (.wrOwn x.ctx 6 (e.sq.toks + 4 * (e.sq.promptLen + e.sq.gen)) ((e.toks.map Prod.fst).flatMap (cleanBytes 4)))

/-- Sequences running on the device (R177). -/
def State.seqRunning (s : State) : Nat := (s.u.sess.map fun p => (p.2.seqs.filter fun q => q.handle.isSome).length).foldl (· + ·) 0

/-- Handles in use on the device. -/
def State.handlesUsed (s : State) : List Nat := s.u.sess.flatMap fun p => p.2.seqs.filterMap Sq.handle

/-- A boundary of session `i` as it begins: an order of the admission module counts only while that runs (R427, R428). -/
def State.bndStart (s : State) (i : Nat) : Bnd :=
  let x := s.ses i
  { x := { x with policy := if s.policyRuns 0 then x.policy else none }, now := s.now, st := s.rd .sessionState i, used := s.unitsUsed
    budget := s.takeable i, handles := s.handlesUsed, shun := s.u.tarnPend.map Prod.fst
    named := (x.seqs.filterMap Sq.handle).filter (s.attnNames x.ctx) }

/-- A boundary of session `i` worked out: steps 2 to 6 of R194; a pinned session that ran out of old sequences switches before it
admits (R201). `step` says whether a step's results stand behind it. -/
def State.boundary (s : State) (i : Nat) (step : Bool) (results : List (Nat × Nat × Bool)) (slots : List (Nat × Bool)) : Bnd :=
  let x := s.ses i
  let be := !s.isLC x.ctx
  let b := ((s.bndStart i).misses.accept results slots).ends
  let b := x.reqs.foldl (Bnd.request step) { b with x := { b.x with reqs := [] } }
  let b := b.deadlines step
  let b := Bnd.pages x.unitsPerPage (2 * x.seqs.length + 2) b
  let v := s.nextVersion { b.x with step := x.step + 1 }
  let b := { b with x := { b.x with version := v.1, versionBase := v.2 } }
  let pinnedOld := x.fld 0 52 1 == 1 && (b.x.seqs.any fun q => q.handle.isSome) && s.verCurrent x.model != some b.x.version &&
    (s.verCurrent x.model).isSome
  let b := b.tooLong (s.u.mem.tarn - s.othersReserve i)
  let b := b.admissions be pinnedOld
  { b with x := { b.x with policy := none } }

/-- The end of a boundary: steps 5 to 7 of R194 made real, and a release made due where anything runs (R194, R200,
R203). -/
def Act.applyBoundary (i : Nat) (b : Bnd) : Act :=
  .get fun s =>
    let ver := (s.ses i).version
    let stepNo := b.x.step
    let closed := b.st == 2 && b.x.seqs.isEmpty
    let b := match closed, b.x.closing with | true, some r => b.tell r 0 | _, _ => b
    .all [
      .when ((s.ses i).seqs.map Sq.pages != b.x.seqs.map Sq.pages) (.needUnit unitTarn 0),
      .when (b.x.storeOn && !(b.ents.isEmpty && b.admitted.isEmpty)) (.needUnit unitStore 0),
      .units fun u => { u with tarnPend := u.tarnPend ++ ((b.pend ++ b.held).filter fun p => !p.2.isEmpty).map fun p => (p.1, b.x.ctx, p.2) },
      .ses i fun _ => { b.x with step := stepNo + 1, inFlight := false, plan := [] },
      .tarnJoin,
      .each b.ents fun e => .tokenBuf b.x e,
      .when b.x.storeOn (.seq (.each b.ents fun e => .storeEnt b.x ver e) (.each b.admitted fun q => .storeAdmit b.x q)),
      .telemetry b.x.ctx 1 (idx32 stepNo),
      .each (b.cnt.filter fun c => c.2 != 0) fun c => .count .sessionCount i c.1 c.2,
      .count .sessionCount i 0,
      .get fun t => .ses i fun x => { x with
        recs := x.recs ++ stepWords i ver stepNo b.now (s.rd .recoveryEpoch) t.tarnFree (b.ents.filter Ent.listed) ::
          b.recs.map fun r => reqWords i r.1 r.2.1 r.2.2 b.now stepNo
        closing := if closed then none else x.closing
        due := x.seqs.any fun q => q.handle.isSome },
      .reg .sessionState i (if closed then 3 else b.st),
      .verSweep b.x.model,
      .flushRecs i,
      .phase]

/-- Region offsets of the step plan (R184). -/
def Sess.planAt (x : Sess) (perSeq perRow : Nat) : Nat := x.fld 0x20 0 48 + 0x100 + perSeq * x.maxSeq + perRow * x.maxRows

/-- Every JOB_END of the step in flight is complete: every step queue has caught up (R183). -/
def State.stepEnded (s : State) (x : Sess) : Bool :=
  x.left.isEmpty && x.table.all fun e => s.qHead (bits (e.getD 0 0) 0 16) == s.qTail (bits (e.getD 0 0) 0 16)

/-- The commit point of a batch step (R194). -/
def Act.stepCommit (i : Nat) : Act :=
  .get fun s =>
    let x := s.ses i
    .when (s.sesLive i && x.inFlight && s.runs && s.fwRuns && s.ownGoes && s.stepEnded x && s.ctxState x.ctx == 1)
      (let nsamp := (x.plan.map fun p => match p.sample with | none => 0 | some _ => if p.prefill then 1 else p.n).foldl (· + ·) 0
      let nrows := (x.plan.map fun p => p.n).foldl (· + ·) 0
      .rdCtx x.ctx (x.planAt 32 28) (8 * nsamp) fun
        | .error e => .ownFault x.ctx 4 e
        | .ok rs => .rdCtx x.ctx (x.planAt 32 0) (4 * nrows) fun
          | .error e => .ownFault x.ctx 4 e
          | .ok ts => .get fun s =>
            let results := (List.range nsamp).map fun k =>
              let b := (rs.drop (8 * k)).take 8
              (leNat (dataOf (b.take 4)), leNat (dataOf (b.drop 4)), anyPoison b)
            let slots := (List.range nrows).map fun k => let b := (ts.drop (4 * k)).take 4; (leNat (dataOf b), anyPoison b)
            .applyBoundary i (s.boundary i true results slots))

/-- A boundary that a request creates when no step is in flight (R189, R200). -/
def Act.boundaryNow (i : Nat) : Act := .get fun s => .applyBoundary i (s.boundary i false [] [])

/-! ### The plan and its release (R183 to R186, R192) -/

/-- The bucket of a prompt length (R168). -/
def State.bucket (s : State) (p : Nat) : Nat := ((List.range 7).find? fun b => p ≤ s.rd .bucketBound b).getD 7

/-- Prefill chunks in admission order, cut to what is left of PREFILL_TOKENS (R192). -/
def chunks (chunk : Nat) : Nat → List Sq → List (Sq × Nat)
  | _, [] => []
  | room, q :: rest =>
    let n := min (min chunk (q.goal - q.fill)) room
    if n = 0 then [] else (q, n) :: chunks chunk (room - n) rest

/-- The rows of the next plan: decode sequences, then prefill chunks of one bucket (R186, R192). -/
def State.planRows (s : State) (x : Sess) : List (Sq × PlanRow) :=
  let run := sortBy Sq.order (x.seqs.filter fun q => q.handle.isSome)
  let dec := run.filter fun q => q.goal ≤ q.fill
  let pre := run.filter fun q => q.fill < q.goal
  let pre := match pre with | [] => [] | q :: _ => pre.filter fun p => s.bucket p.goal == s.bucket q.goal
  let w := 1 + x.cand
  let decRows := dec.zipIdx.map fun (q, k) => (q, (⟨q.tag, false, k * w, w, some (k * w)⟩ : PlanRow))
  let n0 := dec.length * w
  let cs := chunks (x.fld 0x18 48 10) (x.fld 0x18 32 16) pre
  let preRows := cs.foldl (fun (acc : List (Sq × PlanRow) × Nat × Nat) c =>
    let last := c.1.fill + c.2 == c.1.goal
    (acc.1 ++ [(c.1, (⟨c.1.tag, true, acc.2.1, c.2, if last then some acc.2.2 else none⟩ : PlanRow))],
      acc.2.1 + c.2, if last then acc.2.2 + 1 else acc.2.2)) ([], n0, n0)
  decRows ++ preRows.1

/-- The counts a patch can name (R182). -/
structure PlanCounts where
  step : Nat
  ndec : Nat
  npre : Nat
  ndecRows : Nat
  npreRows : Nat
  nsamp : Nat
  base : Nat
  version : Nat
  deriving DecidableEq, Repr

def planCounts (x : Sess) (rows : List PlanRow) : PlanCounts :=
  let dec := rows.filter fun r => !r.prefill
  let pre := rows.filter fun r => r.prefill
  ⟨x.step, dec.length, pre.length, (dec.map PlanRow.n).foldl (· + ·) 0, (pre.map PlanRow.n).foldl (· + ·) 0,
    (dec.map PlanRow.n).foldl (· + ·) 0 + (pre.filter fun r => r.sample.isSome).length, x.versionBase, x.version⟩

/-- The value of a patch source. -/
def PlanCounts.src (c : PlanCounts) (k : Nat) : Nat :=
  match k with
  | 0x00 => idx32 c.step
  | 0x01 => c.ndec | 0x11 => c.ndec - 1
  | 0x02 => c.npre | 0x12 => c.npre - 1
  | 0x03 => c.ndecRows | 0x13 => c.ndecRows - 1
  | 0x04 => c.npreRows | 0x14 => c.npreRows - 1
  | 0x05 => c.ndecRows + c.npreRows | 0x15 => c.ndecRows + c.npreRows - 1
  | 0x06 => c.nsamp | 0x16 => c.nsamp - 1
  | 0x20 => c.base
  | _ => c.version

/-- A program word with one patch applied (R182). -/
def patchWord (c : PlanCounts) (p w : Nat) : Nat := setBits w (bits p 19 6) (bits p 25 6 + 1) (c.src (bits p 32 8))

/-- A program's words with its patches applied, in order. -/
def patchAll (c : PlanCounts) (pats words : List Nat) : List Nat :=
  pats.foldl (fun ws p => let k := 8 * bits p 0 16 + bits p 16 3; lset ws k (patchWord c p (ws.getD k 0))) words

/-- The descriptors of one queue's job: JOB_BEGIN, the program, JOB_END with COMPLETE, each with its QSEQ (R183). -/
def jobWords (tail : Nat) (prog : List Nat) : List Nat :=
  let begin_ := [1, 0, 0, 0, 0, 0, 0, 0]
  let end_ := [2 + 2 ^ 16, 0, 0, 0, 0, 0, 0, 0]
  ((begin_ ++ prog ++ end_).zipIdx).map fun (w, k) => if k % 8 = 0 then setBits w 32 16 ((tail + k / 8) % 2 ^ 16) else w

/-- Table entry `k` of a session is released into its queue, where the ring has room (R183). -/
def Act.releaseQueue (i k : Nat) : Act :=
  .get fun s =>
    let x := s.ses i
    let e := x.table.getD k []
    let q := bits (e.getD 0 0) 0 16
    let n := bits (e.getD 0 0) 32 32
    .when (s.ctxState x.ctx == 1 && n + 2 ≤ s.qSize q - dist32 (s.qHead q) (s.qTail q))
      (.rdCtx x.ctx (bits (e.getD 1 0) 0 48) (64 * n) fun
        | .error er => .ownFault x.ctx 4 er
        | .ok prog => .rdCtx x.ctx (bits (e.getD 2 0) 0 48) (8 * bits (e.getD 0 0) 16 16) fun
          | .error er => .ownFault x.ctx 4 er
          | .ok pats =>
            let ws := patchAll (planCounts x x.plan) (wordsOf (bits (e.getD 0 0) 16 16) pats) (wordsOf (8 * n) prog)
            .all [.wrRing q x.ctx (s.qTail q) (jobWords (s.qTail q) ws),
              .fld .queueState q 4 0 32 (idx32 (s.qTail q + n + 2)), .submitted q,
              .ses i fun x => { x with left := x.left.filter fun j => j != k }])

/-- Words of the plan header (R185). -/
def planHeader (c : PlanCounts) (epoch now : Nat) : List Nat :=
  [c.step, c.ndec + c.npre * 2 ^ 16 + c.version * 2 ^ 32, c.ndecRows + c.npreRows + c.nsamp * 2 ^ 32,
    c.ndecRows + c.npreRows * 2 ^ 32, c.base, epoch, now] ++ List.replicate 25 0

/-- The tokens that a plan row carries: the last delivered token and empty candidate slots, or prompt tokens (R186). -/
def State.rowTokens (s : State) (x : Sess) (p : Sq × PlanRow) : Except Flt (List (Nat × Bool)) :=
  let n := if p.2.prefill then p.2.n else 1
  match s.rdCtx x.ctx (p.1.toks + 4 * p.1.fill) (4 * n) with
  | .error e => .error e
  | .ok bs => .ok ((List.range n).map (fun k => let b := (bs.drop (4 * k)).take 4; (leNat (dataOf b), anyPoison b)) ++
      List.replicate (p.2.n - n) (0xFFFFFFFF, false))

/-- Bytes of U32 values with their poison. -/
def u32Bytes (l : List (Nat × Bool)) : PBytes := l.flatMap fun v => (leBytes 4 v.1).map fun b => (b, v.2)

/-- The plan of the next step is written (R184 to R186). -/
def Act.writePlan (i : Nat) : Act :=
  .get fun s =>
    let x := s.ses i
    let rows := s.planRows x
    let prs := rows.map Prod.snd
    let c := planCounts x prs
    let recOf (p : Sq × PlanRow) : PBytes := wordBytes [p.2.n + p.2.row * 2 ^ 32, p.1.handle.getD 0]
    let sampled := rows.filter fun p => p.2.sample.isSome
    let sampleRows := sampled.flatMap fun p =>
      if p.2.prefill then [(p.1, p.2.row + p.2.n - 1)] else (List.range p.2.n).map fun k => (p.1, p.2.row + k)
    .seq (.noteReads x.ctx (rows.map fun p => (p.1.toks + 4 * p.1.fill, 4 * if p.2.prefill then p.2.n else 1)))
    (match exAll (rows.map (s.rowTokens x)) with
    | .error e => .ownFault x.ctx 4 e
    | .ok toks =>
      let wr (a : Nat) (bs : PBytes) : Act := .get fun t => .when (t.ctxState x.ctx == 1 && !bs.isEmpty) (.wrOwn x.ctx 4 a bs)
      .all [wr (x.fld 0x20 0 48) (wordBytes (planHeader c (s.rd .recoveryEpoch) s.now)),
        wr (x.planAt 0 0) ((rows.filter fun p => !p.2.prefill).flatMap recOf),
        wr (x.planAt 16 0) ((rows.filter fun p => p.2.prefill).flatMap recOf),
        wr (x.planAt 32 0) (u32Bytes toks.flatten),
        wr (x.planAt 32 4) (u32Bytes (rows.flatMap fun p => (List.range p.2.n).map fun k => (p.1.fill + k, false))),
        wr (x.planAt 32 8) (u32Bytes (sampleRows.map fun p => (p.2, false))),
        wr (x.planAt 32 12) (sampleRows.flatMap fun p => wordBytes [p.1.temp + p.1.topP * 2 ^ 32, p.1.topK]),
        .ses i fun x => { x with plan := prs, due := false, inFlight := true, left := List.range x.table.length }])

/-- The version of the step that is due is selected again: it may have waited, and a version become current since (R201, R339). -/
def Act.planVersion (i : Nat) : Act :=
  .get fun s => .when ((s.ses i).due && !(s.ses i).inFlight)
    (.seq (.ses i fun x => { x with version := (s.nextVersion (s.ses i)).1, versionBase := (s.nextVersion (s.ses i)).2 })
      (.verSweep (s.ses i).model))

/-- The next step is released as far as rings have room: the records of the last commit first, the plan, then each queue
(R183, R194 step 8, R202, R203). -/
def Act.stepRelease (i : Nat) : Act :=
  .get fun s => .when (s.sesLive i && s.runs && s.fwRuns && s.ownGoes && s.ctxState (s.ses i).ctx == 1) (.all [
    .flushRecs i,
    .planVersion i,
    .get fun s =>
      let x := s.ses i
      .when (x.due && x.recs.isEmpty && !s.verPoisoned x.model x.version) (.writePlan i),
    .get fun s => .each (s.ses i).left fun k => .releaseQueue i k,
    .get fun s =>
      let x := s.ses i
      let waits := !x.left.isEmpty || (x.due && !x.recs.isEmpty)
      match x.waitSince with
      | none => .when waits (.ses i fun x => { x with waitSince := some s.now })
      | some t => .when (!waits) (.seq (.count .sessionCount i 9 (s.now - t)) (.ses i fun x => { x with waitSince := none }))])

/-! ### Requests (R187 to R189) -/

/-- The session whose REQ_QUEUE a queue is: one that is open, or else one that is closed and not yet freed. -/
def State.reqSession (s : State) (q : Nat) : Option (Nat × Sess) :=
  match s.liveSes.find? fun p => p.2.fld 0x30 0 16 == q with
  | some p => some p
  | none => s.u.sess.find? fun p => s.rd .sessionState p.1 == 3 && p.2.fld 0x30 0 16 == q

/-- A request that can never be served (R187, R188). -/
def State.reqInvalid (s : State) (i : Nat) (x : Sess) (r : Req) (rest : Bool) : Bool :=
  let t := fp32.val (bits r.w3 0 32)
  let p := fp32.val (bits r.w3 32 32)
  !([1, 2, 3].contains r.req) || !rest || bits r.w0 8 8 != i || s.rd .sessionState i != 1 || bits r.w0 18 14 != 0 ||
    bits r.w1 48 16 != 0 || bits r.w4 32 32 != 0 ||
    (r.req == 1 && (r.promptLen == 0 || x.maxLen ≤ r.promptLen || r.maxNew == 0 || t.nonFinite || (t.neg && !t.isZero) ||
      p == .nan || p.isZero || p.neg || Val.lt (fp32.val fOne) p ||
      (x.seqs.any fun q => q.tag == r.tag) || x.waiting.any fun w => w.tag == r.tag))

/-- A request is taken in: answered INVALID, or kept until the boundary at which it takes effect, which it creates when no
step is in flight (R189, R200). -/
def Act.takeRequest (i : Nat) (r : Req) (rest : Bool) : Act :=
  .get fun s =>
    let x := s.ses i
    if s.reqInvalid i x r rest then
      .seq (.ses i fun x => { x with recs := x.recs ++ [reqWords i r 7 0xFFF s.now x.step] }) (.flushRecs i)
    else .all [
      .ses i fun x => if r.req = 1 then { x with waiting := x.waiting ++ [r] } else { x with reqs := x.reqs ++ [r] },
      .when (!x.inFlight) (.boundaryNow i)]

/-- A request descriptor is read from its queue (R187, R384). -/
def Act.request (row : Nat → Bool) (q : Nat) (d : Desc) : Act :=
  .get fun s =>
    let ctx := s.qCtx q
    match s.reqSession q with
    | none => .skip
    | some (i, _) =>
      .when (s.runs && s.fwRuns && s.ownGoes && s.qValid q && s.qKind q == 1 && s.ctxState ctx == 1 && s.qHead q != s.qTail q)
        (let idx := s.qHead q
        .rdCtx ctx (s.descAddr q idx) 64 fun
          | .error e => .fltFault q idx {} e (unread := true)
          | .ok bs =>
            if anyPoison bs then .cmdFault q idx {} 3 0x1A 0 0 true
            else if descOf (dataOf bs) ≠ d ∨ row (dfld d 0 0 8) = false then .skip
            else .all [.countFld .queueState q 0 0 32,
              .get fun s => .wrOwn ctx 2 (s.qHeadAddr q) (cleanBytes 4 (s.qHead q)),
              .get fun s => .when (s.ctxState ctx == 1) (.takeRequest i
                { idx := idx, time := s.now, w0 := Desc.w d 0, w1 := Desc.w d 1, w2 := Desc.w d 2, w3 := Desc.w d 3, w4 := Desc.w d 4 }
                ([5, 6, 7].all fun k => Desc.w d k == 0))])

/-- STEP_READ's rule (R203). -/
def ruleStepRead : Rule := fun _ i v k =>
  .get fun s =>
    let x := s.ses i
    if s.sesGate i ≠ stOk then k (s.sesGate i)
    else if x.ringSlots < dist32 v x.widx then k stRefused
    else .all [.reg .stepRead i v, .flushRecs i, k stOk]

/-- Sessions of a context that is torn down or reset go to ABORTED (R210), and the versions that only they used are released
(R339). -/
def Act.sesAbort (ctx : Nat) : Act :=
  .get fun s => .each (s.u.sess.filter fun p => p.2.ctx == ctx && (s.sesLive p.1 || s.rd .sessionState p.1 == 3 || p.2.opening)) fun p =>
    .all [.when (s.sesLive p.1 || s.rd .sessionState p.1 == 3) (.reg .sessionState p.1 4),
      .units fun u => { u with
        sess := tset u.sess p.1 { ctx := ctx, d := p.2.d }
        tarnPend := u.tarnPend ++ (p.2.seqs.filter fun q => !q.pages.flatten.isEmpty).map fun q => (q.handle.getD 0, ctx, q.pages.flatten) },
      .verSweep p.2.model]

/-! ### The meanings -/

def execSessionOpen (r : Requester) (i : Fin 256) (v : W64) (s : State) : Host.Outcome State Fault Refusal :=
  Act.outcome (.when (v != 0) (.entryRow .sessionDesc ruleSessionDesc r i v.toNat)) s

def execSessionFree (r : Requester) (i : Fin 256) (s : State) : Host.Outcome State Fault Refusal :=
  Act.outcome (.entryRow .sessionDesc ruleSessionDesc r i 0) s

def execSessionCheckDone (i : Fin 256) (s : State) : Host.Outcome State Fault Refusal := Act.outcome (.sesCheckDone i) s

def execStepReadWrite (r : Requester) (i : Fin 256) (v : BitVec 32) (s : State) : Host.Outcome State Fault Refusal :=
  Act.outcome (.entryRow .stepRead ruleStepRead r i v.toNat) s

def execAdmit (q : Fin 65536) (d : Desc) (s : State) : Host.Outcome State Fault Refusal := Act.outcome (.request (· == 1) q d) s
def execCancel (q : Fin 65536) (d : Desc) (s : State) : Host.Outcome State Fault Refusal := Act.outcome (.request (· == 2) q d) s
def execClose (q : Fin 65536) (d : Desc) (s : State) : Host.Outcome State Fault Refusal := Act.outcome (.request (· == 3) q d) s

def execReservedRequest (q : Fin 65536) (d : Desc) (s : State) : Host.Outcome State Fault Refusal :=
  Act.outcome (.request (fun c => !([1, 2, 3].contains c)) q d) s

def execStepCommit (i : Fin 256) (s : State) : Host.Outcome State Fault Refusal := Act.outcome (.stepCommit i) s
def execStepRelease (i : Fin 256) (s : State) : Host.Outcome State Fault Refusal := Act.outcome (.stepRelease i) s

end Sys2Proof.Machine
end

