-- ==== Sys2Proof/Machine/Ctx.lean ====
section
/-! DEFINITION. Contexts (R376 to R398): their entries, queues and doorbells, slots and rotation, bundles' time limits,
teardown and reset. -/

namespace Sys2Proof.Machine

/-! ### Slots (R387) -/

/-- A free slot passes to a context that waits for it. -/
def Act.fillSlot (core k : Nat) : Act :=
  .get fun s => match (s.slot core k).holder, s.nextHolder core k with
    | none, some c => .giveSlot core k c
    | _, _ => .skip

/-! ### Bundles that run (R116, R390) -/

/-- A bundle has run for 2 ms: the oldest that runs and is not counted yet (R390). -/
def Act.bundleIsLong (q : Nat) : Act :=
  .get fun s => match (s.stream q).running.find? fun r => (s.stream q).bunLong < r with
    | some r => .seq (.stream q fun t => { t with bunLong := r }) (.count .slotCount (s.qCore q) 5)
    | none => .skip

def execBundleLong (q : Fin 65536) (s : State) : Host.Outcome State Fault Refusal := (Act.bundleIsLong q.val).outcome s

/-- The descriptor at an index of a queue, where memory yields it whole and clean. -/
def State.descAt (s : State) (q idx : Nat) : Option Desc :=
  match s.rdCtx (s.qCtx q) (s.descAddr q idx) 64 with
  | .ok bs => if anyPoison bs then none else some (descOf (dataOf bs))
  | .error _ => none

/-- A bundle has run for 4 ms: its oldest unretired member faults the context, or the next descriptor of the stream where
every member fetched has retired (R390). -/
def Act.bundleOver (q : Nat) : Act :=
  .get fun s =>
    let t := s.stream q
    .when (s.ctxState (s.qCtx q) == 1) (match t.running with
      | [] => .skip
      | r :: _ => .seq (.count .slotCount (s.qCore q) 6)
        (match t.fly.find? fun f => f.bun == r && !f.done with
          | some f => .cmdFault q f.idx f.d 6 0 0 0
          | none =>
            let d := if t.next = s.qTail q then none else s.descAt q t.next
            .seq (.when (t.next != s.qTail q) (.noteReads (s.qCtx q) [(s.descAddr q t.next, 64)]))
              (.cmdFault q t.next (d.getD {}) 6 0 0 0 d.isNone)))

def execBundleOverrun (q : Fin 65536) (s : State) : Host.Outcome State Fault Refusal := (Act.bundleOver q.val).outcome s

/-- The command that an engine has taken up exceeds its limit (R148). -/
def Act.watchdog (core eng : Nat) : Act :=
  .get fun s => match s.engQ core eng with
    | m :: _ => .when (s.headsAll m) (.cmdFault m.q m.idx m.d 7 0 0 0)
    | [] => .skip

def execCmdWatchdog (core : Fin 192) (eng : Fin 7) (s : State) : Host.Outcome State Fault Refusal :=
  (Act.watchdog core.val eng.val).outcome s

/-! ### Slices and rotation (R388, R389) -/

/-- Accumulator rows of open groups, once for each partial. -/
def CtxCore.openRows (c : CtxCore) : Nat := (c.grp.map fun g => g.2.m * g.2.split).foldl (· + ·) 0

/-- Bytes that a context's state on a core takes in the save pool (R389). -/
def CtxCore.saveBytes (c : CtxCore) : Nat := 16384 + 320 * c.openRows

/-- Bytes of the save pool in use: the states of contexts that hold no slot of the core. -/
def State.saveUsed (s : State) : Nat :=
  ((s.u.core.cc.filter fun p => (s.slotOf (p.1 / 1024) (p.1 % 1024)).isNone).map fun p => p.2.saveBytes).foldl (· + ·) 0

/-- The save pool can hold the state of a context on a core. -/
def State.poolHolds (s : State) (core ctx : Nat) : Bool := s.saveUsed + (s.ctxCore core ctx).saveBytes ≤ 2 ^ 29

/-- Every command of the context on the core is at a boundary (R388 step 3). -/
def State.allStop (s : State) (core ctx : Nat) : Bool :=
  (List.range 7).all fun e => (s.engQ core e).all fun m => m.ctx != ctx || s.atBoundary m

/-- Commands of a context in a core's engine queues, each once, in the order of their dispatch. -/
def State.queuedOf (s : State) (core ctx : Nat) : List Cmd :=
  let put (l : List Cmd) (m : Cmd) : List Cmd :=
    if l.any (sameCmd m) then l else (l.takeWhile fun x => x.ser < m.ser) ++ m :: l.dropWhile fun x => x.ser < m.ser
  (((List.range 7).flatMap (s.engQ core)).filter fun m => m.ctx == ctx).foldl put []

/-- The context leaves a slot, its commands and its state saved (R388 steps 2 to 5). A suspended TE_ACCUMULATE goes on as after a
yield. -/
def Act.saveOut (core k ctx : Nat) : Act :=
  .get fun s =>
    let out := (s.queuedOf core ctx).map fun m => if hOpcode m.d = 0x21 ∧ m.started = true then { m with yielded := true } else m
    .all [.ctxCore core ctx fun c => { c with saved := out ++ c.saved },
      .each (List.range 7) fun e => .engQ core e fun l => l.filter fun m => m.ctx != ctx,
      .slot core k fun _ => {}, .settleQueues,
      .get fun t => .when (t.needsSlot core ctx) (.waitSlot core ctx)]

/-- A holder's slice ends (R388). -/
def Act.sliceEnds (core k : Nat) : Act :=
  .get fun s => match (s.slot core k).holder with
    | none => .skip
    | some _ => .seq (.slot core k fun sl => { sl with sliceOver := true }) (.deferNote core k)

def execSliceEnd (core : Fin 192) (slot : Fin 4) (s : State) : Host.Outcome State Fault Refusal :=
  (Act.sliceEnds core.val slot.val).outcome s

/-- The context has no descriptor to fetch and no unretired command on the core. -/
def State.idleOn (s : State) (core ctx : Nat) : Bool :=
  (s.queuesOn core ctx).all fun q => !s.fetchable q 0 && allRetired (s.stream q)

/-- An idle holder's slice ends early where another context waits (R388). -/
def Act.earlyYield (core k : Nat) : Act :=
  .get fun s => match (s.slot core k).holder with
    | none => .skip
    | some h => .when (s.idleOn core h && (s.nextHolder core k).isSome && !(s.slot core k).sliceOver)
        (.all [.count .slotCount core 1, .slot core k fun sl => { sl with sliceOver := true }, .deferNote core k])

def execEarlyYield (core : Fin 192) (slot : Fin 4) (s : State) : Host.Outcome State Fault Refusal :=
  (Act.earlyYield core.val slot.val).outcome s

/-- The rotation sequence, once no bundle of the holder runs; `deferred` is how long that took (R388, R389). -/
def Act.rotate (core k deferred : Nat) : Act :=
  .get fun s =>
    let sl := s.slot core k
    match sl.holder with
    | none => .fillSlot core k
    | some h =>
      .when (s.runs && sl.sliceOver && (s.nextHolder core k).isSome && !s.bundleRuns core h && s.allStop core h)
        (.seq (.when (sl.deferAt.isSome || deferred != 0) (.seq (.count .slotCount core 3) (.count .slotCount core 4 deferred)))
          (if s.poolHolds core h then
            (match s.nextHolder core k with
              | some c => .seq (.saveOut core k h) (.giveSlot core k c)
              | none => .skip)
          else .all [.slot core k fun x => { x with sliceOver := false, deferAt := none }, .count .slotCount core 2, .runCore core]))

def execRotation (core : Fin 192) (slot : Fin 4) (deferredNs : Nat) (s : State) : Host.Outcome State Fault Refusal :=
  (Act.rotate core.val slot.val deferredNs).outcome s

/-! ### Context reset (R393) -/

/-- Tensor IDs that a context owns. -/
def State.tidsOf (s : State) (ctx : Nat) : List Nat :=
  (s.regs.filterMap fun p => if EName.tidOwner.key 0 ≤ p.1 ∧ p.1 < EName.tidOwner.key 0 + 16384 then
      some (p.1 - EName.tidOwner.key 0) else none).filter fun t => s.tidOwner t == some ctx

/-- A tensor ID is released (R62, R379). -/
def Act.tidRelease (tid : Nat) : Act := .seq (.regErase .tidOwner tid) (.monClear tid)

/-- Every VOL entry of a context returns to its default, and the context is FREE. -/
def Act.ctxEntriesReset (ctx : Nat) : Act :=
  .get fun s => .all [
    .each (s.tidsOf ctx) .tidRelease,
    .each (s.queuesOf ctx) fun q => .all [.regErase .queueCfg q, .regErase .queueState q,
      .core fun c => { c with streams := tdel c.streams q }],
    .flowDropOf ctx, .groupDropOf ctx,
    .each ((List.range 64).filter fun i => s.fld .lbrStream i 0 8 10 == ctx) fun i => .all [.regErase .lbrStream i,
      .units fun u => { u with lbr := tdel u.lbr i }],
    .splitDropOf ctx, .verRemoveOwner ctx,
    .each (s.u.sess.filter fun p => p.2.ctx == ctx) fun p => .all [.regErase .sessionDesc p.1, .regErase .sessionState p.1,
      .regErase .stepRead p.1, .regErase .sessionCount p.1, .units fun u => { u with sess := tdel u.sess p.1 }],
    .core fun c => { c with cc := c.cc.filter fun p => p.1 % 1024 != ctx, dropMark := sdel c.dropMark ctx },
    .each [EName.ringBase, .ringSize, .writeIndex, .readIndex, .droppedRecords, .recordEnable, .pepperSeed, .pepperReady,
      .ptRoot, .ctxState, .jobCount, .faultInfo] fun n => .regErase n ctx]

/-- A context is reset: READY through a teardown, FREE and FAULTED at once; a teardown under way is followed by the reset. -/
def Act.ctxReset (ctx : Nat) : Act :=
  .get fun s => match s.ctxState ctx with
    | 1 => .tearStart ctx { reset := true }
    | 2 => .core fun c => { c with tear := tmod c.tear ctx {} fun t => { t with after := !t.reset } }
    | _ => .all [.traceTeardown ctx, .ctxEntriesReset ctx, .phase]

/-! ### Teardown's end (R392 steps 5 to 7) -/

/-- Cores on which a context holds a slot or has saved state. -/
def State.coresOf (s : State) (ctx : Nat) : List Nat :=
  (List.range 192).filter fun core => (s.slotOf core ctx).isSome || (tget s.u.core.cc (core * 1024 + ctx)).isSome

/-- A context leaves a core: its slot passes on, its state is dropped, and a rotation that waited for its bundle counts as
deferred until the teardown began (R388, R392). -/
def Act.leaveCore (ctx start core : Nat) : Act :=
  .get fun s => .seq (.count .slotCount core 7) (match s.slotOf core ctx with
    | none => .skip
    | some k => .all [
        (match (s.slot core k).deferAt with
          | some t => .seq (.count .slotCount core 3) (.count .slotCount core 4 (start - t))
          | none => .skip),
        .slot core k fun _ => {}, .fillSlot core k])

/-- The descriptor at an index of a queue as the context's slots had fetched it, where they had it whole and clean. -/
def fetchedAt (l : List Fetched) (q idx : Nat) : Option Desc :=
  (l.find? fun x => x.q == q && x.idx == idx && x.flt.isNone && !anyPoison x.bytes).map fun x => descOf (dataOf x.bytes)

/-- The descriptor at an index of a queue as the device has it already. -/
def State.descHad (s : State) (had : List Fetched) (q idx : Nat) : Option Desc :=
  (((s.stream q).fly.find? fun x => x.idx == idx).map Fly.d).or (fetchedAt had q idx)

/-- The record of one command of a queue whose context is torn down; `had` are the descriptors its slots had fetched. RESULT and RESULT2
of a command that ends part way are 0 but where its fault gives them (log entry 118). -/
def State.tearRecord (s : State) (t : Tear) (had : List Fetched) (q idx : Nat) : PBytes :=
  let core := s.qCore q
  let f := match t.fault with
    | some (fq, fi, st, rs, a, b) => if fq = q ∧ fi = idx then (st, rs, a, b) else (2, 0, 0, 0)
    | none => (2, 0, 0, 0)
  let fly := (s.stream q).fly.find? fun x => x.idx == idx
  let h := match (s.descHad had q idx).or (s.descAt q idx) with
    | some d => (hOpcode d, hBundle d, engineId core d, hQseq d)
    | none => (0, 0, core * 8, idx)
  wordBytes (recordWords q h.2.2.2 h.1 f.1 f.2.1 h.2.1 h.2.2.1 ((fly.map Fly.poison).getD false) (s.qCtx q) t.epoch s.now f.2.2.1 f.2.2.2)

/-- Every command of a queue up to the final TAIL completes; a write that faults is dropped (R392 step 6, R394). A REQUEST queue
has no completion ring. The retired commands at HEAD were complete, so their job counts rise though their records read
ABORTED (R104, R118, log entry 52). -/
def Act.tearQueue (ctx : Nat) (t : Tear) (had : List Fetched) (q : Nat) : Act :=
  .get fun s =>
    let tail := s.qTail q
    let n := dist32 (s.qHead q) tail
    .all [
      .each ((s.stream q).fly.takeWhile Fly.done) fun f =>
        match jobCounter f with | some k => .count .jobCount ctx k | none => .skip,
      .when (s.qKind q == 0 && s.tells) (.each (List.range n) fun i => .get fun s =>
        let idx := idx32 (s.qHead q + i)
        .seq (.when (s.descHad had q idx).isNone (.noteReads ctx [(s.descAddr q idx, 64)])) <|
        .wrCtx ctx (s.qCq q + idx % s.qSize q * 32) (s.tearRecord t had q idx) fun _ => .skip),
      .fld .queueState q 0 0 32 tail,
      .when (s.qValid q && s.tells) (.wrCtx ctx (s.qHeadAddr q) (cleanBytes 4 tail) fun _ => .skip),
      .when (n != 0 && s.qKind q == 0 && s.tells) (.msix (s.ctxFn ctx) (s.qVec q)),
      .when ((s.stream q).jobOpen && !t.reset) (.count .jobCount ctx 2),
      .stream q fun _ => { next := tail }]

/-- Teardown ends: slots, groups, screes, flows, sessions, streams and versions go, the records are written, and the context is
FAULTED, or FREE after a reset (R392, R393). -/
def Act.tearEnd (ctx : Nat) : Act :=
  .get fun s => match tget s.u.core.tear ctx with
    | none => .skip
    | some t =>
      let cores := s.coresOf ctx
      let had := (s.u.core.cc.filter fun p => p.1 % 1024 == ctx).flatMap fun p => p.2.fetch
      .when (s.ctxState ctx == 2 && s.ownGoes) (.all [
        .moltCtxEnd ctx,
        .core fun c => { c with
          slotWait := c.slotWait.map fun p => (p.1, sdel p.2 ctx)
          waitSince := c.waitSince.filter fun p => p.1 % 1024 != ctx },
        .each cores (.leaveCore ctx t.time),
        .core fun c => { c with cc := c.cc.filter fun p => p.1 % 1024 != ctx, tear := tdel c.tear ctx },
        .screeDropOf ctx, .each (s.flowsOfCtx ctx) .flowDisable, .sesAbort ctx, .tarnJoin, .lbrDropOf ctx,
        .each (s.queuesOf ctx) (.tearQueue ctx t had),
        if t.reset then .ctxEntriesReset ctx
        else .all [.reg .ctxState ctx 3,
          .get fun s => .event ([s.ctxFn ctx, 0].eraseDups) 1 2 ctx 0 (s.fld .faultInfo ctx 0 0 64),
          .when t.after (.seq (.traceTeardown ctx) (.ctxEntriesReset ctx))],
        .phase, .each cores .runCore])

def execTeardownEnd (ctx : Fin 1024) (s : State) : Host.Outcome State Fault Refusal := (Act.tearEnd ctx.val).outcome s

/-! ### Entries of a context (R377, R379, R382, R393, R397) -/

/-- A value that PT_ROOT may take (R377). -/
def State.rootOk (s : State) (v : Nat) : Bool := v != 0 && v % 4096 == 0 && v < stackSize && s.u.mem.tableOk v 4096

/-- PT_ROOT's rule. -/
def rulePtRoot : Rule := ctxRule (fun _ i => i) fun _ i v k =>
  .get fun s =>
    if !s.rootOk v || s.unretired i then k stRefused
    else .all [.store .ptRoot i v, .when (s.ctxState i == 0) (.reg .ctxState i 1), k stOk]

def execPtRootWrite (r : Requester) (ctx : Fin 1024) (v : W64) (s : State) : Host.Outcome State Fault Refusal :=
  (Act.entryRow .ptRoot rulePtRoot r ctx.val v.toNat).outcome s

/-- CTX_RESET's rule. -/
def ruleCtxReset : Rule := fun _ i v k =>
  .get fun s => if s.ctxState i = 2 then k stBusy else if v ≠ 1 then k stRefused else .seq (.ctxReset i) (k stOk)

def execCtxReset (r : Requester) (ctx : Fin 1024) (v : Byte) (s : State) : Host.Outcome State Fault Refusal :=
  (Act.entryRow .ctxReset ruleCtxReset r ctx.val v.toNat).outcome s

/-- PT_INVALIDATE's rule: no translation outlives its access, so the write completes at once (log entry 8). -/
def rulePtInvalidate : Rule := ctxRule (fun _ i => i) fun _ _ v k => if v = 1 then k stOk else k stRefused

def execPtInvalidate (r : Requester) (ctx : Fin 1024) (v : Byte) (s : State) : Host.Outcome State Fault Refusal :=
  (Act.entryRow .ptInvalidate rulePtInvalidate r ctx.val v.toNat).outcome s

/-- TID_OWNER's rule: a grant by HOST-PF or FIRMWARE to a READY context, or a release (R379). -/
def ruleTidOwner : Rule := fun r i v k =>
  .get fun s =>
    let o := s.tidOwner i
    let gate := match o with | some c => s.ctxGate c | none => stOk
    let c := bits v 0 10
    if gate ≠ stOk then k gate
    else if bit v 15 then
      if !reqRules r then k stAccess
      else if (o.isSome && o != some c) || s.ctxState c != 1 then k stRefused
      else .all [.store .tidOwner i (v &&& 0x83FF), .monClear i, k stOk]
    else if (match o with | some c => s.unretired c | none => false) then k stBusy
    else .all [.store .tidOwner i (v &&& 0x3FF), .monClear i, k stOk]

def execTidOwnerWrite (r : Requester) (tid : Fin 16384) (v : BitVec 16) (s : State) : Host.Outcome State Fault Refusal :=
  (Act.entryRow .tidOwner ruleTidOwner r tid.val v.toNat).outcome s

/-- CTX_ADMIN's rule: class and function change only while the context is FREE (R397). -/
def ruleCtxAdmin : Rule := ctxRule (fun _ i => i) fun _ i v k =>
  .get fun s =>
    if s.ctxState i ≠ 0 ∧ bits v 0 6 ≠ s.fld .ctxAdmin i 0 0 6 then k stRefused
    else .seq (.store .ctxAdmin i (v &&& 0xF3F)) (k stOk)

def execCtxAdminWrite (r : Requester) (ctx : Fin 1024) (v : BitVec 32) (s : State) : Host.Outcome State Fault Refusal :=
  (Act.entryRow .ctxAdmin ruleCtxAdmin r ctx.val v.toNat).outcome s

/-! ### Queues (R383, R384) -/

/-- Reserved bits of QUEUE_CFG are 0. -/
def queueZero (v : Nat) : Bool := zeroBits v [(2, 6), (26, 6), (37, 11), (59, 5), (112, 16), (176, 16), (240, 16)]

/-- A queue with VALID 1 passes its further checks. -/
def State.queueOk (s : State) (q v : Nat) : Bool :=
  let ctx := bits v 8 10
  let core := bits v 18 8
  core < 192 && 6 ≤ bits v 32 5 && bits v 32 5 ≤ 16 && bits v 64 12 == 0 && bits v 128 12 == 0 && bits v 192 2 == 0 &&
    (!bit v 1 || (core == 0 && bits v 128 48 == 0)) && s.ctxState ctx == 1 &&
    (bit v 1 || ((s.queuesOn core ctx).filter (· != q)).length < 4)

/-- STRAP_BENCH is asserted (R443). -/
def State.bench (s : State) : Bool := bit s.u.pow.straps 11

/-- A core that a queue may name: in bench mode one of columns 0 and 8 (R468). -/
def State.coreAllowed (s : State) (core : Nat) : Bool := !s.bench || core / 12 == 0 || core / 12 == 8

/-- QUEUE_CFG's rule (R383). -/
def ruleQueueCfg : Rule := ctxRule (fun s i => s.qCtx i) fun r i v k =>
  .get fun s =>
    let ctx := bits v 8 10
    if !s.mayWriteCtx r ctx then k stAccess
    else if !queueZero v || vecCount (s.ctxFn ctx) ≤ bits v 48 11 || (s.qValid i && s.qTail i != s.qHead i) ||
        !s.coreAllowed (bits v 18 8) then k stRefused
    else if bit v 0 && !s.queueOk i v then k stRefused
    else .all [.store .queueCfg i v, .when (bit v 0) (.fld .queueState i 0 0 64 0),
      .core fun c => { c with
        streams := tmod c.streams i {} fun t => { jobOpen := t.jobOpen, jobLearn := t.jobLearn }
        cc := c.cc.map fun p => (p.1, { p.2 with fetch := p.2.fetch.filter fun x => x.q != i }) }, k stOk]

def execQueueCfgWrite (r : Requester) (q : Fin 65536) (v : BitVec 256) (s : State) : Host.Outcome State Fault Refusal :=
  (Act.entryRow .queueCfg ruleQueueCfg r q.val v.toNat).outcome s

/-- A doorbell value moves TAIL forward within the ring (R384). -/
def State.ringOk (s : State) (q v : Nat) : Bool := dist32 (s.qTail q) v ≤ dist32 (s.qTail q) (idx32 (s.qHead q + s.qSize q))

/-- A doorbell value of a VALID queue: TAIL moves forward within the ring, or the value is counted as an error; a command queue
that has work wants its slot, or wakes its column (R384, R387, R461). -/
def Act.ring (q v : Nat) : Act :=
  .get fun s =>
    if s.ringOk q v then
      .seq (.fld .queueState q 4 0 32 v)
        (.submitted q)
    else .countFld .queueState q 8 0 32

/-- SLICE_US and CMD_WATCHDOG keep their ranges (R148, R398). -/
def ruleSliceUs : Rule := ruleIf .sliceUs fun _ v => 50 ≤ v && v ≤ 100000
def ruleCmdWatchdog : Rule := ruleIf .cmdWatchdog fun _ v => 1 ≤ v && v ≤ 60000

end Sys2Proof.Machine
end

