-- ==== Sys2Proof/Machine/Power.lean ====
section
/-! DEFINITION. Columns (R459 to R461), the governor and the thermal ceilings (R465 to R468, R473, R474, R525), and the device
states' requests (R462, R463). -/

namespace Sys2Proof.Machine

/-! ### Columns (R461, R473) -/

/-- The cores of a column. -/
def coresOfCol (col : Nat) : List Nat := (List.range 12).map fun i => col * 12 + i

/-- A column may power up at all (R468). -/
def State.colAllowed (s : State) (col : Nat) : Bool := !s.bench || col == 0 || col == 8

/-- COLUMN_STATE's state of a column: 0 running, 1 clock-gated, 2 off, 3 waking. Without input power it is off. -/
def State.colSt (s : State) (col : Nat) : Nat := if s.u.pow.power then s.fld .columnState 0 (4 * col) 0 2 else 2

def Act.colSt (col st : Nat) : Act := .fld .columnState 0 (4 * col) 0 2 st

/-- A column is powered. -/
def State.colPowered (s : State) (col : Nat) : Bool := s.colSt col ≤ 1

/-- Every configured hardware queue. -/
def State.allQueues (s : State) : List Nat :=
  s.regs.filterMap fun p => if EName.queueCfg.key 0 ≤ p.1 ∧ p.1 < EName.queueCfg.key 0 + 65536 then
    some (p.1 - EName.queueCfg.key 0) else none

/-- A column is idle: no command not retired, no descriptor to fetch, no saved commands (R461). -/
def State.colIdle (s : State) (col : Nat) : Bool :=
  (s.allQueues.all fun q => !s.qValid q || s.qKind q != 0 || s.qCore q / 12 != col || (!s.fetchable q 0 && allRetired (s.stream q))) &&
    s.u.core.cc.all fun p => p.1 / 1024 / 12 != col || p.2.saved.isEmpty

/-- DEVICE_STATE is DOZE when every column is idle (R462). -/
def Act.dozeIfIdle : Act :=
  .get fun s => .when (s.rd .deviceState ≤ 1 && (List.range 16).all s.colIdle) (.reg .deviceState 0 1)

/-- An idle column loses its clock (R461). -/
def Act.columnGate (col : Nat) : Act :=
  .get fun s => .when (s.colSt col == 0 && s.colIdle col) (.seq (.colSt col 1) .dozeIfIdle)

def execColumnClockGate (col : Fin 16) (s : State) : Host.Outcome State Fault Refusal := (Act.columnGate col.val).outcome s

/-- Slot holders of some cores, by core, slot and context. -/
def State.holders (s : State) (cores : List Nat) : List (Nat × Nat × Nat) :=
  cores.flatMap fun c => (List.range 4).filterMap fun k => (s.slot c k).holder.map fun h => (c, k, h)

/-- The save pool can hold the state of all these slot holders (R389). -/
def State.poolHoldsAll (s : State) (hs : List (Nat × Nat × Nat)) : Bool :=
  s.saveUsed + (hs.map fun h => (s.ctxCore h.1 h.2.2).saveBytes).foldl (· + ·) 0 ≤ 2 ^ 29

/-- A holder keeps its column powered: an open job on any queue of its context, an open group or a started bundle (R461). -/
def State.holdsPower (s : State) (h : Nat × Nat × Nat) : Bool :=
  (s.queuesOf h.2.2).any (fun q => (s.stream q).jobOpen) || !(s.ctxCore h.1 h.2.2).grp.isEmpty || s.bundleRuns h.1 h.2.2

/-- Slot holders are saved and the column loses its power and its scratch (R388, R461). -/
def Act.columnDown (col : Nat) : Act :=
  .get fun s => .all [.each (s.holders (coresOfCol col)) fun h => .saveOut h.1 h.2.1 h.2.2,
    .columnLost col]

/-- A column idle for COLUMN_OFF_US powers off where nothing forbids it (R461); where the save pool cannot hold its holders' states it
stays powered, which counts for each of their cores (R389). -/
def Act.columnPowerOff (col : Nat) : Act :=
  .get fun s =>
    let hs := s.holders (coresOfCol col)
    .when (s.colPowered col && s.colIdle col && s.rd .columnOffUs != 0 && !hs.any s.holdsPower)
      (if s.poolHoldsAll hs then .all [.columnDown col, .count .stateCount 0 1, .dozeIfIdle]
      else .each (hs.map Prod.fst).eraseDups fun core => .count .slotCount core 2)

def execColumnPowerOff (col : Fin 16) (s : State) : Host.Outcome State Fault Refusal := (Act.columnPowerOff col.val).outcome s

/-! ### Clocks (R42, R465 to R467) -/

/-- The target clock of a column. -/
def State.target (s : State) (col : Nat) : Nat := tgetD s.u.pow.target col 1600

/-- The ceiling of a half (0 west, 1 east), and of a column with its own. -/
def State.halfCeiling (s : State) (half : Nat) : Nat := min (s.rd .clockMaxMhz) (tgetD s.u.pow.halfCeil half (s.rd .clockMaxMhz))

def State.ceiling (s : State) (col : Nat) : Nat :=
  min (s.halfCeiling (col / 8)) (tgetD s.u.pow.dieCeil col (s.rd .clockMaxMhz))

/-- GOVERNOR_STATE shows the clocks of powered columns and the thermal ceilings (R474). -/
def Act.govShow : Act :=
  .get fun s =>
    let clocks := ((List.range 16).filter s.colPowered).map s.colClock
    .all [.fld .governorState 0 0 32 16 (clocks.foldl min 1600),
      .fld .governorState 0 0 48 16 (if clocks.isEmpty then 1600 else clocks.foldl max 0),
      .fld .governorState 0 8 2 1 (b2n (s.halfCeiling 0 < s.rd .clockMaxMhz)),
          .fld .governorState 0 8 3 1 (b2n (s.halfCeiling 1 < s.rd .clockMaxMhz)),
      .fld .governorState 0 8 4 1 (b2n ((List.range 16).any fun c => tgetD s.u.pow.dieCeil c (s.rd .clockMaxMhz) < s.rd .clockMaxMhz)),
      .fld .governorState 0 8 5 1 (b2n s.bench)]

/-- A clock step of a powered column takes effect: its clock is the one the governor wants (R42, R459). -/
def Act.clockChange (col : Nat) : Act :=
  .get fun s => .when (s.colPowered col) (.seq (.fld .columnState 0 (4 * col) 16 16 (s.target col)) .govShow)

def execClockChange (col : Fin 16) (s : State) : Host.Outcome State Fault Refusal := (Act.clockChange col.val).outcome s

/-- A column that was off runs again, at the clock the governor sets (R460, R461). Contexts that wait for slots of its cores take them,
longest wait first (R387). -/
def Act.columnWake (col : Nat) : Act :=
  .get fun s => .when (s.colAllowed col && s.u.pow.memOn && !s.u.pow.nap && !s.u.pow.fatal &&
      (s.colSt col == 3 || (s.colSt col == 2 && !s.colIdle col)))
    (.all [.colSt col 0, .fld .columnState 0 (4 * col) 16 16 (s.target col), .count .stateCount 0 0, .reg .deviceState 0 0, .govShow,
      .each (coresOfCol col) fun core => .get fun s =>
        .each ((s.waiting core ++ s.readyCtxs.filter fun c => !(s.waiting core).contains c).filter (s.needsSlot core)) (.wantSlot core)])

def execColumnWake (col : Fin 16) (s : State) : Host.Outcome State Fault Refusal := (Act.columnWake col.val).outcome s

/-- Limits in mW: bench mode's 600 W or the entry's, and no more than the input current allows at a voltage in mV (R468, R525). -/
def State.limitMw (s : State) (n : EName) (amps mv : Nat) : Nat := min ((if s.bench then 600 else s.rd n) * 1000) (amps * mv)

/-- What a tick of the governor decides (R466). -/
inductive GovStep where
  | peak | excursion | average | up | stay
  deriving DecidableEq, Repr

/-- The first branch of R466 that applies: powers in W, limits in mW. -/
def govStep (p a peak s10 s100 excursion since : Nat) : GovStep :=
  if peak < p * 1000 then .peak
  else if 8000000 ≤ excursion then .excursion
  else if s100 < (a + 10) * 1000 then .average
  else if (p + 100) * 1000 < s10 ∧ (a + 50) * 1000 < s100 ∧ 100000 ≤ since then .up
  else .stay

/-- A column's target after a tick. -/
def govClock (g : GovStep) (ceiling old : Nat) : Nat :=
  max 800 (min ceiling (match g with
    | .peak => old - 200
    | .excursion | .average => old - 50
    | .up => old + 50
    | .stay => old))

/-- One tick of the governor, every 10 µs from when firmware runs (R537): power in W over 10 µs and 100 ms, input in mV over the same
times, and what the slow sensors read (R466, R525, R537; log entry 13). -/
def Act.governor (p a mv10 : Nat) (slow : Sensors) : Act :=
  .get fun s =>
    let s10 := s.limitMw .sustainW 46 mv10
    let s100 := s.limitMw .sustainW 46 slow.mv.toNat
    let ex := if s10 < p * 1000 then s.fld .governorState 0 0x10 0 64 + 10000 else 0
    let since := s.u.pow.sinceStep + 10000
    let g := govStep p a (s.limitMw .peakW 55 mv10) s10 s100 ex since
    let new (c : Nat) : Nat := govClock g (s.ceiling c) (s.target c)
    let on := (List.range 16).filter s.colPowered
    let down := (on.map fun c => (s.target c - new c) / 50).foldl max 0
    let up := (on.map fun c => (new c - s.target c) / 50).foldl max 0
    let moved := down != 0 || up != 0
    let floor := s10 < p * 1000 && on.any fun c => new c == 800
    .when ((s.fwRuns || s.u.pow.ready) && !s.u.pow.deep) (.all [
      .pow fun w => { w with
        sinceStep := if moved then 0 else since
        target := (List.range 16).map fun c => (c, new c) },
      .fld .governorState 0 0 0 16 p, .fld .governorState 0 0 16 16 a, .fld .governorState 0 0x10 0 64 ex,
      .reg .inputMv 0 slow.mv.toNat, .reg .inputMa 0 slow.ma.toNat, .reg .coolantIn 0 slow.coolantIn.toNat,
      .reg .coolantOut 0 slow.coolantOut.toNat,
      .count .govCount 0 0 down, .count .govCount 0 1 up,
      (match g with
        | .peak => .count .govCount 0 2
        | .excursion => .count .govCount 0 3
        | .average => .count .govCount 0 4
        | _ => .skip),
      .when moved (.all [.fld .governorState 0 8 0 1 (b2n (g == .excursion || g == .average)), .fld .governorState 0 8 1 1 (b2n (g == .peak)),
        .raiseSrc 143,
        .trace 7 0 0 ((on.map fun c => if new c != s.target c then 2 ^ c else 0).foldl (· + ·) 0 + (on.map new).foldl max 0 * 2 ^ 32) p]),
      .fld .governorState 0 8 6 1 (b2n floor), .when floor (.count .govCount 0 7 10000), .govShow])

def execGovernorTick (p a : Nat) (mv10 : Nat) (slow : Sensors) (s : State) : Host.Outcome State Fault Refusal :=
  (Act.governor p a mv10 slow).outcome s

/-- A column's die sensor is sampled (R467, R474). -/
def Act.dieTemp (col : Nat) (t : Int) : Act :=
  .get fun s => .when s.u.pow.power <| .all [.pow fun w => { w with dieTemp := tset w.dieTemp col t },
    .get fun s => .fld .governorState 0 8 8 8 (ofInt 8 ((s.u.pow.dieTemp.map Prod.snd).foldl max t)),
    .when (115 ≤ t) (.fatal fatalDie 0 0)]

def execDieTempSample (col : Fin 16) (t : Int) (s : State) : Host.Outcome State Fault Refusal := (Act.dieTemp col.val t).outcome s

/-- A ceiling one step lower or higher, none where it is back at CLOCK_MAX_MHZ. -/
def ceilStep (t : Tab Nat) (k maxMhz : Nat) (fall : Bool) : Tab Nat :=
  let c := tgetD t k maxMhz
  if fall then tset t k (max 800 (c - 50)) else if maxMhz ≤ c + 50 then tdel t k else tset t k (c + 50)

/-- A thermal ceiling's timer: columns 0 to 15 have their own, 16 and 17 are the west and the east half (R467). -/
def Act.ceilingStep (target : Nat) : Act :=
  .get fun s =>
    let mx := s.rd .clockMaxMhz
    if target < 16 then
      let t := tgetD s.u.pow.dieTemp target 0
      if 105 ≤ t then .all [.pow fun w => { w with dieCeil := ceilStep w.dieCeil target mx true }, .count .govCount 0 6, .govShow]
      else .when (t < 102 && (tget s.u.pow.dieCeil target).isSome)
        (.seq (.pow fun w => { w with dieCeil := ceilStep w.dieCeil target mx false }) .govShow)
    else
      let half := target - 16
      if (List.range 10).any fun i => s.hot (10 * half + i) then
        .all [.pow fun w => { w with halfCeil := ceilStep w.halfCeil half mx true }, .count .govCount 0 5, .govShow]
      else .when (tget s.u.pow.halfCeil half).isSome
        (.seq (.pow fun w => { w with halfCeil := ceilStep w.halfCeil half mx false }) .govShow)

def execThermalCeilingStep (target : Fin 18) (s : State) : Host.Outcome State Fault Refusal := (Act.ceilingStep target.val).outcome s

/-! ### Entries (R473) -/

def ruleColumnOffUs : Rule := ruleIf .columnOffUs fun _ v => v == 0 || (100 ≤ v && v ≤ 1000000)
/-- A write that leaves SUSTAIN_W above PEAK_W is refused. -/
def ruleSustainW : Rule := ruleIf .sustainW fun s v => 300 ≤ v && v ≤ 2200 && v ≤ s.rd .peakW

def rulePeakW : Rule := ruleIf .peakW fun s v => s.rd .sustainW ≤ v && v ≤ 2600
def ruleClockMax : Rule := ruleIf .clockMaxMhz fun _ v => 800 ≤ v && v ≤ 1600 && v % 50 == 0

/-- NAP or DEEP may be entered (R463), and not in FATAL, which warm reset and power-on alone leave (R482; log entry 61). -/
def State.mayNap (s : State) : Bool :=
  !s.u.pow.fatal && s.phaseDue == 0 && (s.allQueues.all fun q => allRetired (s.stream q)) && s.sessionsOpen == 0 && !s.moltRuns &&
    s.u.repairs.isEmpty && !s.groupsOpen

/-- NAP's entry begins, on the way to DEEP or not; a device that naps already only goes on to DEEP. -/
def Act.napBegin (deep : Bool) : Act := .pow fun p => { p with napEntering := true, waking := false, deepAsked := deep }

/-- A request for NAP or DEEP. -/
def stateReqSleep (deep : Bool) (k : Nat → Act) : Act :=
  .get fun s =>
    if s.u.pow.nap && !deep then k stOk
    else if s.mayNap then .seq (.napBegin deep) (k stOk)
    else k stBusy

end Sys2Proof.Machine
end

