-- ==== Sys2Proof/Machine/Trust.lean ====
section
/-! DEFINITION. Signed images, boot, update, customer keys, measurements and the debug lock (R498 to R519). -/

namespace Sys2Proof.Machine

/-! ### Images (R499, R500, R506) -/

/-- A field of an image's header: byte offset and bytes. -/
def imgFld (img : List Byte) (off len : Nat) : Nat := leNat ((img.drop off).take len)

def imgType (img : List Byte) : Nat := imgFld img 4 1
def imgSvn (img : List Byte) : Nat := imgFld img 8 4
def imgVersion (img : List Byte) : Nat := imgFld img 12 4
def imgBytes (img : List Byte) : Nat := imgFld img 16 4
def imgCode (img : List Byte) : Nat := imgFld img 20 4
def imgSlot (img : List Byte) : Nat := imgFld img 24 1

def imgMagic : Nat := 0x474D4952

/-- The header is correct, and the image is whole. -/
def imgHeaderOk (img : List Byte) : Bool :=
  imgFld img 0 4 == imgMagic && imgFld img 5 1 == 1 && imgFld img 6 2 == 0 && imgFld img 25 7 == 0 && imgFld img 64 128 == 0 &&
    256 + imgBytes img ≤ img.length &&
    (if imgType img = 1 then imgBytes img ≤ 2 ^ 24 && imgCode img == 0 && imgSvn img ≤ 64
    else imgBytes img ≤ 5 * 2 ^ 20 && imgCode img ≤ 2 ^ 20 && imgCode img ≤ imgBytes img)

/-- The lowest firmware SVN accepted (R498, R507). -/
def State.svnFloor (s : State) : Nat := max Config.svnFuse.val s.u.trust.svn

/-- A key slot has a usage: bit 1 POLICY, bit 2 MANIFEST (R508). -/
def State.slotHas (s : State) (slot usage : Nat) : Bool := bit (s.rd .keySlot slot) 0 && bit (s.rd .keySlot slot) usage

/-- The key that an image's KEY_SLOT names, for its use. -/
def State.imgKey (s : State) (img : List Byte) : Option Nat :=
  if imgType img = 1 then (if imgSlot img = 0xFF then some Config.rootPub else none)
  else if imgSlot img < 8 ∧ s.slotHas (imgSlot img) 1 = true then some (bits (s.rd .keySlot (imgSlot img)) 128 512) else none

/-- 0 where the image verifies for a use, else the reason of R506. -/
def State.imgReason (s : State) (img : List Byte) (type : Nat) : Nat :=
  if !imgHeaderOk img then 1
  else if imgType img ≠ type then 4
  else match s.imgKey img with
    | none => 4
    | some key =>
      if Config.sm3 ((img.drop 256).take (imgBytes img)) ≠ imgFld img 32 32 ∨
          Config.sm2Verify key (Config.sm3 (img.take 192)) (imgFld img 192 64) = false then 2
      else if type = 1 ∧ imgSvn img < s.svnFloor then 3
      else 0

/-! ### Boot (R501 to R504) -/

/-- STRAP_BOOT. -/
def State.bootStrap (s : State) : Nat := bits s.u.pow.straps 0 2

/-- A firmware copy in module flash (R502). -/
def State.fwCopy (s : State) (c : Nat) : List Byte := (tget s.u.trust.copies c).getD (Config.shipped c)

/-- Why a copy in flash does not boot, 0 where it does. -/
def State.copyReason (s : State) (c : Nat) : Nat := if s.noFlash then 5 else s.imgReason (s.fwCopy c) 1

/-- BOOT_STATUS (R519). -/
def bootWord (stage copy safe failA failB : Nat) : Nat := stage + copy * 2 ^ 4 + safe * 2 ^ 6 + failA * 2 ^ 8 + failB * 2 ^ 16

/-- The firmware that verified starts: enabled ports begin their sequence (R472, R501). -/
def Act.fwStart (img : List Byte) (status : Nat) : Act :=
  .all [.reg .bootStatus 0 status, .reg .fwVersion 0 (imgVersion img),
    .units fun u => { u with trust := { u.trust with run := img, staging := [] } },
    .pow fun p => { p with boot := .running },
    .each (List.range 8) fun p => .get fun s => .when (s.portEnabled p && (s.portSt p == psDisabled || s.portSt p == psDown)) (.portStart p)]

/-- BOOT_STATUS as it reads (R519): STAGE is ROM from a reset to 20 ms after it, and verifying from then on while the ROM works on an
image, one that is pushed once it is whole; a saddle restart verifies again (R471, R501, R504). -/
def State.bootShown (s : State) : Nat :=
  let p := s.u.pow
  let w := s.rd .bootStatus
  let boot := bits p.straps 0 2
  let copy := if boot = 1 ∨ boot = 2 then boot + 1 else s.u.trust.active
  let whole := 256 ≤ s.u.trust.staging.length && 256 + imgBytes s.u.trust.staging ≤ s.u.trust.staging.length
  if p.restarting then setBits w 0 4 1
  else if p.boot ≠ .rom then w
  else if p.deep || p.perst || s.now < 20000000 || (2 ≤ copy && !whole) then bootWord 0 copy (b2n s.safeMode) 0 0
  else bootWord 1 copy (b2n s.safeMode) 0 0

/-- No image verifies: no firmware runs (R503). -/
def Act.bootFailed (status : Nat) : Act :=
  .seq (.reg .bootStatus 0 status) (.pow fun p => { p with boot := .failed })

/-- Boot from module flash: the active copy, then the other (R501, R502). -/
def Act.bootFlash : Act :=
  .get fun s =>
    let a := s.u.trust.active
    let safe := b2n s.safeMode
    let fail (c r : Nat) : Nat × Nat := if c = 0 then (r, 0) else (0, r)
    if s.copyReason a = 0 then .fwStart (s.fwCopy a) (bootWord 2 a safe 0 0)
    else
      let f := fail a (s.copyReason a)
      if s.copyReason (1 - a) = 0 then
        .seq (.units fun u => { u with trust := { u.trust with active := 1 - a } })
          (.fwStart (s.fwCopy (1 - a)) (bootWord 2 (1 - a) safe f.1 f.2))
      else
        let g := fail (1 - a) (s.copyReason (1 - a))
        .bootFailed (bootWord 3 (1 - a) safe (f.1 + g.1) (f.2 + g.2))

/-- Boot of the image that was pushed (R501): one recovered over I3C also goes to the inactive copy. -/
def Act.bootPushed (source : Nat) : Act :=
  .get fun s =>
    let img := s.u.trust.staging
    let a := s.u.trust.active
    if s.imgReason img 1 = 0 then
      .seq (.when (source == 2) (.units fun u => { u with trust := { u.trust with copies := tset u.trust.copies (1 - a) img, active := 1 - a } }))
        (.fwStart img (bootWord 2 (source + 1) 0 0 0))
    else .bootFailed (bootWord 3 (source + 1) 0 (s.imgReason img 1) 0)

/-- The boot ROM may verify now: once, or again in a recovery-mode boot (R501, R503). -/
def State.romRuns (s : State) : Bool :=
  let p := s.u.pow
  p.power && !p.deep && !p.perst && (p.boot == .rom || (p.boot == .failed && s.bootStrap == 2))

/-- All of an image's bytes have come. -/
def imgWhole (img : List Byte) : Bool := 256 ≤ img.length && 256 + imgBytes img ≤ img.length

/-- The boot ROM verifies and starts an image; module flash that cannot be read is a lasting error (R440, R477). -/
def Act.bootVerify : Act :=
  .get fun s =>
    let told (a : Act) : Act := .seq a (.when s.noFlash (.errEvent 80 0))
    .when s.romRuns (
      if s.bootStrap = 1 ∨ s.bootStrap = 2 then .when (imgWhole s.u.trust.staging) (told (.bootPushed s.bootStrap))
      else told .bootFlash)

def execBootVerify (s : State) : Host.Outcome State Fault Refusal := Act.bootVerify.outcome s

/-- The copy that booted verifies again (R504). -/
def State.bootedOk (s : State) : Bool :=
  let c := s.fld .bootStatus 0 0 4 2
  (if c < 2 then s.copyReason c else s.imgReason s.u.trust.run 1) == 0

/-! ### Update (R501, R505, R507) -/

/-- An update starts: the image verifies and its flash write is due, or it is refused with its reason `r`. -/
def Act.updateStart (img : List Byte) (r : Nat) : Act :=
  .seq (.raiseSrc 142) <| if r = 0 then .seq (.reg .fwUpdateState 0 1) (.units fun u => { u with trust := { u.trust with due := some img } })
    else .reg .fwUpdateState 0 (3 + r * 2 ^ 4)

/-- A part begins as an image does: MAGIC, a TYPE, FORMAT, and reserved fields that are 0 (R499). -/
def partHead (part : List Byte) : Bool :=
  imgFld part 0 4 == imgMagic && 1 ≤ imgType part && imgType part ≤ 3 && imgFld part 5 1 == 1 && imgFld part 6 2 == 0 &&
    imgFld part 25 7 == 0 && imgFld part 64 128 == 0

/-- FW_CHUNK's rule: parts in order, the first with the header; a part out of order is refused, and the staging restarts from the header
(R501). The whole image is updated to where firmware runs. BUSY while an update's flash write is under way (log entry 63). -/
def ruleFwChunk : Rule := fun _ _ v k =>
  .get fun s =>
    let part := leBytes 16384 v
    let old := s.u.trust.staging
    let fresh := old.isEmpty || imgWhole old
    if s.u.trust.due.isSome then k stBusy
    else if partHead part != fresh then .seq (.units fun u => { u with trust := { u.trust with staging := [] } }) (k stRefused)
    else
      let all := (if fresh then part else old ++ part)
      let all := all.take (256 + imgBytes all)
      .all [.units fun u => { u with trust := { u.trust with staging := all } },
        .when (imgWhole all && s.u.pow.boot == .running) (.updateStart all (s.imgReason all 1)), k stOk]

/-- FW_CHUNK comes before firmware runs from the host or over I3C, as STRAP_BOOT says (R453, R501). -/
def State.romServes (s : State) (r : Requester) : Bool :=
  s.romRuns && s.u.pow.boot != .running && ((s.bootStrap == 1 && reqClass r == 0) || (s.bootStrap == 2 && reqClass r == 2))

def execFwChunk (r : Requester) (data : List Byte) (s : State) : Host.Outcome State Fault Refusal :=
  (Act.get fun s =>
    if data.length ≠ 16384 then .countReq stLength
    else if s.romServes r then ruleFwChunk r 0 (leNat data) .countReq
    else .entryRow .fwChunk ruleFwChunk r 0 (leNat data)).outcome s

/-- Bytes of the image at a device physical address, its header with them. -/
def State.imgLen (s : State) (dpa : Nat) : Nat := 256 + min (imgBytes (dataOf (s.rdStack dpa 256))) (2 ^ 24)

/-- The image at a device physical address, where it lies in the stacks whole and clean. -/
def State.imgAt (s : State) (dpa : Nat) : List Byte :=
  let bs := s.rdStack dpa (s.imgLen dpa)
  if stackSize < dpa + s.imgLen dpa || anyPoison bs then [] else dataOf bs

/-- The firmware reads the image at a device physical address, burst by burst (R269, R288). -/
def Act.noteImg (dpa : Nat) : Act := .get fun s => .when (dpa + s.imgLen dpa ≤ stackSize) (.noteRead .stack dpa (s.imgLen dpa))

/-- A loop-back holds the reads of an image: who asks for it is answered BUSY (R280; log entry 115). -/
def State.imgHeld (s : State) (dpa : Nat) : Bool := s.loopback && s.lbHolds [(.stack, dpa, s.imgLen dpa)]

/-- FW_UPDATE's rule. -/
def ruleFwUpdate : Rule := fun _ i v k =>
  .get fun s => if s.u.trust.due.isSome || s.imgHeld v then k stBusy else 
    .all [.noteImg v, .store .fwUpdate i v, .updateStart (s.imgAt v) (s.imgReason (s.imgAt v) 1), k stOk]

def execFwUpdate (r : Requester) (v : W64) (s : State) : Host.Outcome State Fault Refusal :=
  (Act.entryRow .fwUpdate ruleFwUpdate r 0 v.toNat).outcome s

/-- The flash write of an update ends: the inactive copy holds the image and becomes the active one. -/
def Act.updateDone (ok : Bool) : Act :=
  .get fun s => match s.u.trust.due with
    | none => .skip
    | some img => .all [
        .units fun u => { u with trust := { u.trust with
          due := none
          copies := if ok then tset u.trust.copies (1 - u.trust.active) img else u.trust.copies
          active := if ok then 1 - u.trust.active else u.trust.active } },
        .reg .fwUpdateState 0 (if ok then 2 else 3 + 5 * 2 ^ 4), .raiseSrc 142]

def execFwUpdateDone (flashOk : Bool) (s : State) : Host.Outcome State Fault Refusal := (Act.updateDone flashOk).outcome s

/-- FW_SVN_COMMIT's rule. -/
def ruleFwSvnCommit : Rule := fun _ i v k =>
  .get fun s =>
    if v ≠ 1 ∨ s.fld .bootStatus 0 0 6 1 = 1 ∨ 2 ≤ s.fld .bootStatus 0 0 4 2 then k stRefused
    else .all [.store .fwSvnCommit i v, .units fun u => { u with trust := { u.trust with svn := max u.trust.svn (imgSvn u.trust.run) } },
      k stOk]

def execFwSvnCommit (r : Requester) (v : Byte) (s : State) : Host.Outcome State Fault Refusal :=
  (Act.entryRow .fwSvnCommit ruleFwSvnCommit r 0 v.toNat).outcome s

/-! ### Customer keys and modules (R426, R508 to R510) -/

def Act.policy (k : Nat) (f : Policy → Policy) : Act := .host fun h => { h with policies := tmod h.policies k {} f }

/-- A policy module: 0 admission, 1 scheduling. -/
def State.policy (s : State) (k : Nat) : Policy := tgetD s.u.host.policies k {}

/-- Bits of a key slot that are kept: flags and key (R519). -/
def keySlotMask : Nat := fieldMask [(0, 0, 3), (16, 0, 512)]

/-- KEY_SLOT's rule; modules that the slot no longer covers are disabled (R508, R509). -/
def ruleKeySlot : Rule := fun _ i v k =>
  .get fun s =>
    if s.rd .enrollFreeze = 1 ∨ (bit v 0 = true ∧ Config.sm2Point (bits v 128 512) = false) then k stRefused
    else .all [.store .keySlot i (v &&& keySlotMask),
      .when (!(bit v 0 && bit v 1)) (.each [0, 1] fun m =>
        .when (s.policyRuns m && (s.policy m).slot == i) (.reg .policyState m 2)), k stOk]

def execKeySlotWrite (r : Requester) (slot : Fin 8) (v : BitVec 640) (s : State) : Host.Outcome State Fault Refusal :=
  (Act.entryRow .keySlot ruleKeySlot r slot.val v.toNat).outcome s

def ruleEnrollFreeze : Rule := ruleIf .enrollFreeze fun _ v => v == 1

def execEnrollFreeze (r : Requester) (v : Byte) (s : State) : Host.Outcome State Fault Refusal :=
  (Act.entryRow .enrollFreeze ruleEnrollFreeze r 0 v.toNat).outcome s

/-! ### Debug lock (R516 to R518) -/

/-- DEBUG_UNLOCK's rule: an accepted token takes effect at the next warm reset. -/
def ruleDebugUnlock : Rule := fun _ _ v k =>
  .get fun s =>
    let nonce := bits v 0 128
    let scope := bits v 128 32
    let said := leBytes 8 (s.rd .serial) ++ leBytes 16 nonce ++ leBytes 4 scope
    if s.rd .debugAllow = 1 ∧ nonce = s.rd .debugNonce ∧ scope < 4 ∧ bits v 160 96 = 0 ∧
        Config.sm2Verify Config.rootPub (Config.sm3 said) (bits v 256 512) = true then
      .all [.raiseSrc 142, .units fun u => { u with trust := { u.trust with unlock := some scope } }, k stOk]
    else .seq (.raiseSrc 142) (k stRefused)

def execDebugUnlock (r : Requester) (token : BitVec 768) (s : State) : Host.Outcome State Fault Refusal :=
  (Act.entryRow .debugUnlock ruleDebugUnlock r 0 token.toNat).outcome s

/-- DEBUG_RELOCK's rule. -/
def ruleDebugRelock : Rule := fun _ _ v k => if v = 1 then .seq (.reg .debugState 0 0) (k stOk) else k stRefused

def execDebugRelock (r : Requester) (v : Byte) (s : State) : Host.Outcome State Fault Refusal :=
  (Act.entryRow .debugRelock ruleDebugRelock r 0 v.toNat).outcome s

/-! ### Measurements (R511) -/

/-- A measurement by index 1 to 8. -/
def State.measurement (s : State) (i : Nat) : Nat :=
  let module_ (k : Nat) : Nat := if s.policyRuns k then Config.sm3 (s.policy k).image else 0
  match i with
  | 1 => Config.bootRom
  | 2 => Config.sm3 s.u.trust.run
  | 3 => imgSvn s.u.trust.run + s.svnFloor * 2 ^ 32
  | 4 => module_ 0
  | 5 => module_ 1
  | 6 => Config.sm3 (((List.range 8).flatMap fun k => leBytes 80 (s.rd .keySlot k)) ++ leBytes 1 (s.rd .enrollFreeze))
  | 7 => s.rd .debugState + s.rd .debugAllow * 2 ^ 8
  | _ => s.rd .strapRaw + s.bootShown * 2 ^ 32

end Sys2Proof.Machine
end

