-- ==== Sys2Proof/Machine/HostIf.lean ====
section
/-! DEFINITION. The host interface (R399 to R430): configuration requests, function-level reset, status block, doorbells, the
aperture, mailbox channels and MSI-X. -/

namespace Sys2Proof.Machine

/-! ### Link, configuration and status (R399 to R406) -/

/-- A configuration request is answered at once, or with retry status until the device is ready and while the function's FLR runs; with
STRAP_BOOT 01 it is not held back (R403, R501). -/
def State.configOk (s : State) (fn : Nat) : Bool := (s.u.pow.ready || s.bootStrap == 1) && !s.u.host.flr.contains fn

/-- What a configuration write sets (R399, R402): ATS of its function, or the size of the PF's BAR4. -/
def HostU.configured (h : HostU) (fn : Nat) : CfgWrite → HostU
  | .ats true => { h with ats := sadd h.ats fn }
  | .ats false => { h with ats := sdel h.ats fn }
  | .bar4 k => if fn = 0 then { h with bar4 := k.val } else h
  | .master true => { h with masters := sadd h.masters fn }
  | .master false => { h with masters := sdel h.masters fn }

def Act.config (fn : Nat) (w : Option CfgWrite) : Act :=
  .get fun s => .when s.u.pow.linkUp (.seq
    (.out (if s.configOk fn then .confOk fn else .retryStatus fn))
    (match w with
      | some x => .when (s.configOk fn) (.host fun h => h.configured fn x)
      | none => .skip))

def execPcieConfigRequest (c : CfgRequest) (s : State) : Host.Outcome State Fault Refusal :=
  (Act.config c.fn.val c.write).outcome s

/-- An ATS invalidation completes: no access keeps a translation (R402, log entry 8). From now on the host's translations of the
function refuse the pages given, true for writes alone (log entry 106). -/
def execAtsInvalidation (a : AtsInval) (s : State) : Host.Outcome State Fault Refusal :=
  (Act.get fun s => .when s.u.pow.linkUp (.seq
    (.host fun h => { h with atsDeny := h.atsDeny.filter (fun d => d.1 != a.fn.val) ++ a.deny.map fun d => (a.fn.val, d.1.toNat, d.2) })
    (.out (.atsDone a.fn.val)))).outcome s

/-- The words of a function's status block (R406). -/
def State.statusBlock (s : State) (fn : Nat) : List Nat :=
  [b2n s.u.pow.ready + 2 * b2n s.u.pow.fatal + 4 * b2n s.u.dict.holder.isSome + s.rd .phase % 256 * 2 ^ 8 + fn % 32 * 2 ^ 16,
    s.now % 2 ^ 64, s.rd .recoveryEpoch]

/-- Bytes of 64-bit words. -/
def wordByte (ws : List Nat) (off : Nat) : Nat := bits (ws.getD (off / 8) 0) (8 * (off % 8)) 8

/-- The words of a function's entry of the MSI-X table: address, then data with the mask bit (R405, R419). -/
def State.msixEntry (s : State) (fn v : Nat) : List Nat :=
  [(s.vec fn v).addr, (s.vec fn v).data + b2n (s.vec fn v).masked * 2 ^ 32]

/-- A byte of the MSI-X pending-bit array. -/
def State.pbaByte (s : State) (fn off : Nat) : Nat :=
  ((List.range 8).map fun k => if 8 * off + k < vecCount fn then b2n (s.vec fn (8 * off + k)).pending * 2 ^ k else 0).foldl (· + ·) 0

/-- Host functions reach mailboxes, doorbells and the aperture (R406). -/
def State.hostReach (s : State) : Bool := s.u.pow.ready && s.u.pow.linkUp

/-! ### Mailbox channels (R409 to R417) -/

def State.mbx (s : State) (c : Nat) : Mbx := tgetD s.u.host.mbx c {}

def Act.mbxSet (c : Nat) (x : Mbx) : Act := .host fun h => { h with mbx := tset h.mbx c x }

def State.mbxFn (s : State) (c : Nat) : Nat := s.fld .mbxCfg c 0 1 5

/-- A side reaches a channel: the function that an enabled channel names, or a control core (R409). -/
def State.mbxReach (s : State) (side : Side) (c : Nat) : Bool :=
  match side with
  | .host fn => s.hostReach && s.fld .mbxCfg c 0 0 1 == 1 && s.mbxFn c == fn.val
  | .core _ => s.fwRuns

/-- The words of a channel block from 0x100 on; CORE_ENABLE shows in the saddle's view alone, and write-only words read 0 (R412). -/
def Mbx.words (x : Mbx) (saddle : Bool) : List Nat :=
  [(x.state + 4 * x.holder + 8 * x.core) * 2 ^ 32, x.doorbell, x.hostEnable + x.swStatus * 2 ^ 32, x.violations] ++
    if saddle then (List.range 4).map fun j => tgetD x.coreEnable (2 * j) 0 + tgetD x.coreEnable (2 * j + 1) 0 * 2 ^ 32 else []

/-- A byte of a channel's block as a side reads it: 0 where it does not reach the channel (R409, R412). -/
def State.mbxByte (s : State) (side : Side) (c off : Nat) : Nat :=
  let saddle := match side with | .core _ => true | .host _ => false
  if !s.mbxReach side c then 0
  else if off < 0x100 then bits (s.mbx c).msg (8 * off) 8
  else wordByte ((s.mbx c).words saddle) (off - 0x100)

/-- A byte of BAR0 below the dictionary window as a function reads it (R405). -/
def State.bar0Byte (s : State) (fn : Fin 32) (off : Nat) : Nat :=
  if off < 0x1000 then wordByte (s.statusBlock fn) off
  else if off < 0x10000 then 0
  else if off < 0x20000 then s.mbxByte (.host fn) ((off - 0x10000) / 0x400) (off % 0x400)
  else if off < 0x28000 then
    let v := (off - 0x20000) / 16
    if v < vecCount fn then wordByte (s.msixEntry fn v) (off % 16) else 0
  else if off < 0x28100 then s.pbaByte fn (off - 0x28000)
  else 0

/-- A byte of BAR2 as a function reads it: TAIL of its own queues, as it was accepted last (R404, R407). -/
def State.bar2Byte (s : State) (fn : Fin 32) (off : Nat) : Nat :=
  let q := off / 64
  if 4 ≤ off % 64 || !s.qValid q || s.ctxFn (s.qCtx q) != fn.val then 0 else bits (s.qTail q) (8 * (off % 64)) 8

/-- The side holds a channel that is CLAIMED or POSTED. -/
def holdsMbx (x : Mbx) (side : Side) : Bool :=
  match side with
  | .host _ => x.holder == 0
  | .core k => x.holder == 1 && x.core == k.val

/-- Bits of one number that another has not. -/
def newBits (a b : Nat) : Nat := a ^^^ (a &&& b)

/-- A channel changes; a bit of DOORBELL AND HOST_ENABLE that rises sends one message on its vector (R414). -/
def Act.mbxTo (c : Nat) (x : Mbx) : Act :=
  .get fun s =>
    let old := s.mbx c
    .seq (.mbxSet c x) (.when (newBits (x.doorbell &&& x.hostEnable) (old.doorbell &&& old.hostEnable) != 0)
      (.msix (s.mbxFn c) (s.fld .mbxCfg c 0 17 11)))

/-- An operation or write that is ignored is counted (R410). -/
def Act.violation (c : Nat) : Act :=
  .get fun s => .seq (.mbxSet c { s.mbx c with violations := min (s.mbx c).violations.succ (2 ^ 32 - 1) }) (.count .hostCount (s.mbxFn c) 2)


/-- The sender word (R413). -/
def State.senderWord (s : State) (side : Side) (c seq : Nat) (policy : Bool) : Nat :=
  (match side with
    | .host fn => (if fn.val = 0 then 0 else 1) + fn.val * 2 ^ 3 + s.fld .mbxCfg c 0 6 1 * (2 ^ 8 + s.fld .mbxCfg c 0 7 10 * 2 ^ 9)
    | .core k => 4 + k.val * 2 ^ 19 + b2n policy * 2 ^ 22) + seq % 2 ^ 32 * 2 ^ 32

/-- The bit of DOORBELL that a post sets: 0 by the host, 1 by the saddle. -/
def postBit (side : Side) : Nat :=
  match side with
  | .host _ => 0
  | .core _ => 1

/-- POST stamps the sender word and rings. -/
def State.mbxPosted (s : State) (side : Side) (c : Nat) (policy : Bool) (x : Mbx) : Mbx :=
  { x with state := 2, seq := (x.seq + 1) % 2 ^ 32, poster := postBit side
           msg := setBits x.msg 0 64 (s.senderWord side c (x.seq + 1) policy), doorbell := x.doorbell ||| 2 ^ postBit side }

/-- A response of the firmware that waits for its channel is posted once the channel is EMPTY, by a control core of the firmware's choice
(R450; log entry 107). -/
def Act.mailPump (c : Nat) : Act :=
  .get fun s => match s.u.host.mailDue.find? fun e => e.1 == c with
    | none => .skip
    | some e => .when ((s.mbx c).state == 0 && s.fwRuns) (.draw fun v =>
        let k : Fin 8 := Fin.ofNat 8 v
        .seq (.host fun h => { h with mailDue := h.mailDue.erase e })
          (.mbxTo c (s.mbxPosted (.core k) c false { s.mbx c with holder := 1, core := k.val, msg := e.2 * 2 ^ 64 })))

/-- The software header of a channel's message. -/
def mailHdr (x : Mbx) : Nat := bits x.msg 64 64

/-- The header breaks the table of R415 whatever its service: reserved bits are set, or LENGTH says more than the payload holds. -/
def mailBroken (h : Nat) : Bool := !zeroBits h [(9, 7), (24, 8), (48, 16)] || 240 < bits h 32 8

/-- Bytes 0x08 to 0xFF of a response: the request's PROTO, RESPONSE, its TAG, LENGTH, STATUS, and the payload (R415). -/
def mailResp (proto tag st : Nat) (payload : List Byte) : Nat :=
  proto + 2 ^ 8 + tag * 2 ^ 16 + payload.length * 2 ^ 32 + st * 2 ^ 40 + leNat payload * 2 ^ 64

/-- A response goes into its channel, or waits until the channel is EMPTY. -/
def Act.mailPut (c msg : Nat) : Act := .seq (.host fun h => { h with mailDue := h.mailDue ++ [(c, msg)] }) (.mailPump c)

/-- An operation of a side on a channel: what the channel becomes, or a violation. -/
def Act.mbxOp (side : Side) (c : Nat) (f : State → Mbx → Option Mbx) : Act :=
  .get fun s => .when (s.mbxReach side c) (match f s (s.mbx c) with
    | some x => .seq (.mbxTo c x) (.mailPump c)
    | none => .violation c)

/-- CLAIM. SW_STATUS returns to 0 at the host's (R416). -/
def mbxClaim (side : Side) (x : Mbx) : Option Mbx :=
  if x.state ≠ 0 then none else some (match side with
    | .host _ => { x with state := 1, holder := 0, core := 0, swStatus := 0 }
    | .core k => { x with state := 1, holder := 1, core := k.val })

def mbxUnclaim (side : Side) (x : Mbx) : Option Mbx :=
  if x.state = 1 ∧ holdsMbx x side = true then some { x with state := 0 } else none

def mbxPost (side : Side) (c : Nat) (s : State) (x : Mbx) : Option Mbx :=
  if x.state = 1 ∧ holdsMbx x side = true then some (s.mbxPosted side c false x) else none

/-- The channel is EMPTY again, and the posting bit clears. -/
def Mbx.emptied (x : Mbx) : Mbx := { x with state := 0, doorbell := newBits x.doorbell (2 ^ x.poster) }

/-- RELEASE by the receiving side. -/
def mbxRelease (side : Side) (x : Mbx) : Option Mbx := if x.state = 2 ∧ x.poster ≠ postBit side then some x.emptied else none

/-- WITHDRAW by the poster. -/
def mbxWithdraw (side : Side) (x : Mbx) : Option Mbx := if x.state = 2 ∧ holdsMbx x side = true then some x.emptied else none

def execMbxClaim (side : Side) (ch : Fin 64) (s : State) : Host.Outcome State Fault Refusal :=
  (Act.mbxOp side ch fun _ x => mbxClaim side x).outcome s

def execMbxUnclaim (side : Side) (ch : Fin 64) (s : State) : Host.Outcome State Fault Refusal :=
  (Act.mbxOp side ch fun _ x => mbxUnclaim side x).outcome s

def execMbxPost (side : Side) (ch : Fin 64) (s : State) : Host.Outcome State Fault Refusal :=
  (Act.mbxOp side ch (mbxPost side ch)).outcome s

def execMbxRelease (side : Side) (ch : Fin 64) (s : State) : Host.Outcome State Fault Refusal :=
  (Act.mbxOp side ch fun _ x => mbxRelease side x).outcome s

def execMbxWithdraw (side : Side) (ch : Fin 64) (s : State) : Host.Outcome State Fault Refusal :=
  (Act.mbxOp side ch fun _ x => mbxWithdraw side x).outcome s

/-- MSG with bytes written at an offset; the sender word stays (R413). -/
def msgWrite (msg off : Nat) : List Byte → Nat
  | [] => msg
  | b :: bs => msgWrite (if 8 ≤ off ∧ off < 256 then setBits msg (8 * off) 8 b.toNat else msg) (off + 1) bs

def execMbxMsgWrite (side : Side) (ch : Fin 64) (off : Fin 256) (data : List Byte) (s : State) : Host.Outcome State Fault Refusal :=
  (Act.mbxOp side ch fun _ x =>
    if x.state = 1 ∧ holdsMbx x side = true then some { x with msg := msgWrite x.msg off data } else none).outcome s

/-- Bits 0 and 1 of DOORBELL change through POST, RELEASE and WITHDRAW alone (R412). -/
def bellBits (v : Nat) : Nat := newBits (v % 2 ^ 32) 3

def execDbSet (side : Side) (ch : Fin 64) (v : BitVec 32) (s : State) : Host.Outcome State Fault Refusal :=
  (Act.mbxOp side ch fun _ x => some { x with doorbell := x.doorbell ||| bellBits v.toNat }).outcome s

def execDoorbellClear (side : Side) (ch : Fin 64) (v : BitVec 32) (s : State) : Host.Outcome State Fault Refusal :=
  (Act.mbxOp side ch fun _ x => some { x with doorbell := newBits x.doorbell (bellBits v.toNat) }).outcome s

/-- An enable register takes a value: HOST_ENABLE, or CORE_ENABLE of a core, which the host's view has not (R412; log entry 11). -/
def mbxEnable (side : Side) (w : EnableWrite) (x : Mbx) : Mbx :=
  match w.core, side with
  | none, _ => { x with hostEnable := w.bits.toNat }
  | some k, .core _ => { x with coreEnable := tset x.coreEnable k.val w.bits.toNat }
  | some _, .host _ => x

def execHostEnableWrite (side : Side) (ch : Fin 64) (w : EnableWrite) (s : State) : Host.Outcome State Fault Refusal :=
  (Act.mbxOp side ch fun _ x => some (mbxEnable side w x)).outcome s

/-- A post was not taken in time (R416). -/
def Act.mbxLate (c : Nat) : Act :=
  .get fun s =>
    let x := s.mbx c
    .when (s.fwRuns && x.state == 2) (
      if x.poster = 0 then .seq (.mbxTo c { x with swStatus := 1 + bits x.msg 80 8 * 2 ^ 8, doorbell := x.doorbell ||| 4 })
        (.count .hostCount (s.mbxFn c) 3)
      else .all [.mbxTo c x.emptied, .count .hostCount (s.mbxFn c) 4, .mailPump c])

def execMbxTimeout (ch : Fin 64) (s : State) : Host.Outcome State Fault Refusal := (Act.mbxLate ch.val).outcome s

/-- MBX_CFG's rule: while the channel is EMPTY, with a vector of the function's table (R418, R430). -/
def ruleMbxCfg : Rule := fun r i v k =>
  ruleIf .mbxCfg (fun s _ => (s.mbx i).state == 0 && bits v 17 11 < vecCount (bits v 1 5)) r i (v % 2 ^ 29) k

def ruleMbxTimeoutMs : Rule := ruleIf .mbxTimeoutMs fun _ v => 1 ≤ v && v ≤ 60000
def ruleEventVec : Rule := fun r i v k => ruleIf .eventVec (fun _ v => v < vecCount i) r i v k
def ruleApertureBase : Rule := ruleIf .apertureBase fun _ v => v % 2 ^ 30 == 0 && v < stackSize

/-! ### MSI-X (R419) -/

/-- A vector's entry with its mask bit, and its message where one is given, written. -/
def Vec.written (x : Vec) (mask : Bool) (message : Option (W64 × BitVec 32)) : Vec :=
  { masked := mask, pending := mask && x.pending, addr := (message.map fun m => m.1.toNat).getD x.addr,
    data := (message.map fun m => m.2.toNat).getD x.data }

/-- An entry of the MSI-X table is written (log entry 11): as its vector is unmasked, one pending message goes out. -/
def Act.unmask (fn v : Nat) (mask : Bool) (message : Option (W64 × BitVec 32)) : Act :=
  .get fun s =>
    let x := s.vec fn v
    .when (s.hostReach && v < vecCount fn) (
      .seq (.host fun h => { h with vecs := tset h.vecs (fn * 2048 + v) (x.written mask message) })
        (.when (!mask && x.pending) (.msix fn v)))

def execMsixUnmask (fn : Fin 32) (w : VecMask) (s : State) : Host.Outcome State Fault Refusal :=
  (Act.unmask fn.val w.vec.val w.mask w.message).outcome s

/-! ### Function-level reset (R403, R417, R419, R442) -/

/-- A mailbox channel of a function returns to EMPTY (R417). -/
def Act.mbxFlr (c : Nat) : Act :=
  .get fun s => .seq (.mbxSet c { seq := (s.mbx c).seq, coreEnable := (s.mbx c).coreEnable, msg := (s.mbx c).msg })
    (.host fun h => { h with mail := h.mail.filter fun e => e.2.2.1 != c, mailDue := h.mailDue.filter fun e => e.1 != c })

/-- A function is reset: its contexts, mailboxes, vectors, port, entries, and its hold of the CONFIG lock (R403, R438, R455). -/
def Act.flr (fn : Nat) : Act :=
  .get fun s => .when s.u.pow.linkUp (.all [
    .host fun h => { h with
      flr := sadd h.flr fn, ats := sdel h.ats fn, masters := sdel h.masters fn, vecs := h.vecs.filter fun p => p.1 / 2048 != fn },
    .each ((List.range 1024).filter fun c => fn == 0 || s.ctxFn c == fn) .ctxReset,
    .each ((List.range 64).filter fun c => s.mbxFn c == fn) .mbxFlr,
    .when (fn == 0) (.each (List.range 64) fun c => .regErase .mbxCfg c),
    .dict fun d => { d with
      ports := tdel d.ports fn
      ids := d.ids.filter fun p => reqFn p.1 != some fn
      holder := match d.holder with
        | some r => if reqFn r = some fn then none else some r
        | none => none },
    .regErase .eventVec fn, .regErase .evtRing fn, .regErase .evtWidx fn])

def execFunctionLevelReset (fn : Fin 32) (s : State) : Host.Outcome State Fault Refusal := (Act.flr fn.val).outcome s

def execFlrComplete (fn : Fin 32) (s : State) : Host.Outcome State Fault Refusal :=
  (Act.host fun h => { h with flr := sdel h.flr fn.val }).outcome s

/-! ### Doorbells (R384, R407) -/

/-- A doorbell write of a function is acted on: foreign queues count it, FAULTED contexts, teardown, FATAL and a drain ignore it. -/
def Act.bell (fn q v : Nat) : Act :=
  .get fun s =>
    if !s.qValid q || s.ctxFn (s.qCtx q) != fn then .count .hostCount fn 0
    else .when (!s.u.pow.fatal && !s.u.svc.frozen && s.ctxState (s.qCtx q) == 1) (.seq (.ring q v) (.when (s.ringOk q v) .napWake))

/-- An access is a write. -/
def Held.isWrite : Held → Bool
  | .write _ _ _ => true
  | _ => false

/-- A doorbell write waits: before READY, while the saddle restarts, and while a write of the same function through BAR4 is held (R384,
R407, R471). -/
def State.bellWaits (s : State) (fn : Nat) : Bool :=
  !s.u.pow.ready || s.u.pow.restarting || (fn == 0 && s.u.pow.held.any Held.isWrite)

/-- A doorbell write: kept, or acted on. -/
def Act.doorbell (fn q v : Nat) : Act :=
  .get fun s => .when (s.u.pow.power && s.u.pow.linkUp) (
    if s.bellWaits fn then .when (!s.u.pow.fatal) (.host fun h => { h with keptDb := h.keptDb ++ [(fn, q, v)] })
    else .bell fn q v)

def execDoorbell (fn : Fin 32) (q : Fin 65536) (v : BitVec 32) (s : State) : Host.Outcome State Fault Refusal :=
  (Act.doorbell fn.val q.val v.toNat).outcome s

/-- Doorbells that were kept and need not wait any more are acted on, in order. -/
def Act.keptBells : Act :=
  .get fun s => .seq (.host fun h => { h with keptDb := h.keptDb.filter fun b => s.bellWaits b.1 })
    (.each (s.u.host.keptDb.filter fun b => !s.bellWaits b.1) fun b => .bell b.1 b.2.1 b.2.2)

/-! ### The aperture (R401, R408) -/

/-- The end of an access, from the start of BAR4. -/
def Held.stop : Held → Nat
  | .read off len => off + len
  | .write off data _ => off + data.length
  | .msg _ => 0

/-- An access through BAR4, whose size the host sets, held while the device naps or its stack is looped back (R280, R399, R464). -/
def Act.aperture (h : Held) : Act :=
  .get fun s => .when (s.hostReach && h.stop ≤ 2 ^ (30 + s.u.host.bar4)) (
    if s.u.pow.nap || s.apHolds h then .all [.napWake, .memHeld (s.apPlaces h), .pow fun p => { p with held := p.held ++ [h] }]
    else .seq .napWake (.when s.u.pow.memOn (.heldDone h)))

def execApertureRead (off : BitVec 36) (len : Fin 4097) (s : State) : Host.Outcome State Fault Refusal :=
  (Act.aperture (.read off.toNat len.val)).outcome s

def execApertureWrite (off : BitVec 36) (data : List Byte) (ep : Bool) (s : State) : Host.Outcome State Fault Refusal :=
  (Act.aperture (.write off.toNat data ep)).outcome s

/-- Memory is usable after NAP: the device is in DOZE, and what was held goes on (R464). -/
def Act.memoryWake : Act :=
  .get fun s => .when (s.u.pow.nap && s.u.pow.waking && !s.u.pow.perst && !s.u.pow.deep) (.all [
    .pow fun p => { p with nap := false, waking := false, memOn := true, held := [] },
    .reg .deviceState 0 1, .count .stateCount 0 4 (s.now - s.u.pow.napSince), .each s.u.pow.held .heldDone, .keptBells])

def execMemoryWakeDone (s : State) : Host.Outcome State Fault Refusal := Act.memoryWake.outcome s

/-! ### The end of a loop-back (R280) -/

/-- What a loop-back held goes on: requests of engines and inbound messages by WEIGHT, other messages, late-bound reductions and step
records that were due, and accesses of the aperture (R261, R277, R280). -/
def Act.memFree : Act :=
  .all [.crossingsFree, .memServe fun _ => true, .deliverHeld, .get fun s => .each (s.u.lbr.map Prod.fst) .lbrDue,
    .get fun s => .each (s.u.sess.map Prod.fst) .flushRecs,
    .get fun s => .when (!s.u.pow.nap) (.seq (.pow fun p => { p with held := [] }) (.each s.u.pow.held .heldDone)), .keptBells]

/-- The run ends: the words of its channels, given by channel, are stored, and what waited goes on. -/
def Act.loopbackDone (results : List (Nat × Nat)) : Act :=
  .get fun s => .when s.loopback (
    let v := s.rd .lbCtrl
    let first := bits v 5 11
    .all [.each (List.range (bits v 16 11 + 1)) fun c =>
        .fld .lbResult (bits v 0 5) (8 * (first + c)) 0 64 (((results.find? fun p => p.1 == first + c).map Prod.snd).getD 0),
      .fld .lbCtrl 0 0 31 1 0, .memFree])

def execLoopbackDone (results : List (Nat × W64)) (s : State) : Host.Outcome State Fault Refusal :=
  (Act.loopbackDone (results.map fun p => (p.1, p.2.toNat))).outcome s

/-! ### READY and the end of a saddle restart (R471, R472, R504) -/

/-- The device becomes READY: firmware runs, PERST# has been deasserted and memory is usable (R472). Doorbells kept so far are acted
on. -/
def Act.deviceReady : Act :=
  .get fun s => .when (s.fwRuns && s.u.pow.perstSeen && s.u.pow.memOn && !s.u.pow.ready && !s.u.pow.fatal)
    (.seq (.pow fun p => { p with ready := true }) .keptBells)

def execDeviceReady (s : State) : Host.Outcome State Fault Refusal := Act.deviceReady.outcome s

/-- A module that runs is verified again, and refused where its image fails (R471). -/
def Act.policyAgain (k : Nat) : Act :=
  .get fun s => .when (s.policyRuns k && s.imgReason (s.policy k).image (k + 2) != 0) (.reg .policyState k 3)

/-- BOOT_STATUS after a restart whose firmware does not verify: STAGE 3 with the reason at the copy that booted (R503, R504, R519). -/
def State.againFailed (s : State) : Nat :=
  let c := s.fld .bootStatus 0 0 4 2
  let r := if c < 2 then s.copyReason c else s.imgReason s.u.trust.run 1
  bootWord 3 c (b2n s.safeMode) (if c = 1 then 0 else r) (if c = 1 then r else 0)

/-- A saddle restart ends: firmware that verifies goes on, and a cairn under way is written again from its start; otherwise the device
is in FATAL and only the island answers (R471, R482, R504). -/
def Act.restartDone : Act :=
  .get fun s => .when (s.u.pow.restarting && s.u.pow.power && !s.u.pow.perst && !s.u.pow.deep) (
    if s.bootedOk then .all [.pow fun p => { p with restarting := false }, .policyAgain 0, .policyAgain 1,
      (match s.u.svc.fatalWaits with
        | some f => .seq (.svc fun v => { v with fatalWaits := none }) (.fatalTold f.1 f.2.1 f.2.2.1 f.2.2.2.1 f.2.2.2.2)
        | none => .skip),
      (match s.u.svc.cairn with
        | some c => .seq (.svc fun v => { v with cairn := some { c with done := [] } }) (.cairnOpen c)
        | none => .skip),
      .keptBells]
    else .all [.pow fun p => { p with restarting := false, boot := .failed }, .bootFailed s.againFailed,
      .when s.u.svc.fatalWaits.isSome .fatalBare, .svc fun v => { v with cairn := none, fatalWaits := none }, .fatal fatalVerify 0 0])

end Sys2Proof.Machine
end

