-- ==== Sys2Proof/Machine/Intc.lean ====
section
/-! DEFINITION. The saddle's interrupt controller and control cores (R420 to R425), and customer policy modules (R426 to R429). -/

namespace Sys2Proof.Machine

/-! ### Sources (R420 to R422) -/

/-- ENABLE, CLASS and TARGET of a source. -/
def State.srcReg (s : State) (src : Nat) : Nat := tgetD s.u.host.src src 0

def State.srcTarget (s : State) (src : Nat) : Nat := bits (s.srcReg src) 2 3

/-- CORE_ENABLE of a channel for a core. -/
def Mbx.enable (x : Mbx) (k : Nat) : Nat := tgetD x.coreEnable k 0

/-- A REQUEST queue has unread requests (R420). -/
def State.requestsDue (s : State) : Bool := s.allQueues.any fun q => s.qValid q && s.qKind q == 1 && s.qHead q != s.qTail q

/-- A session's last step has ended and is not committed (R420). -/
def State.commitDue (s : State) : Bool := s.liveSes.any fun p => p.2.inFlight && s.stepEnded p.2

/-- The level of a source at a core (R414, R420). -/
def State.asserted (s : State) (k src : Nat) : Bool :=
  if src < 64 then ((s.mbx src).doorbell &&& (s.mbx src).enable k) != 0
  else s.srcTarget src == k && (
    if src < 72 then bit s.u.host.swi (src - 64)
    else if src < 104 then s.u.host.flr.contains (src - 72)
    else if src = 105 then s.requestsDue
    else if src = 106 then s.commitDue
    else s.u.host.raised.contains src)

/-- RAW: the current level of each source, at some core for those of mailbox channels (R421). -/
def State.raw (s : State) : Nat :=
  ((List.range 144).map fun src => if (List.range 8).any fun k => s.asserted k src then 2 ^ src else 0).foldl (· + ·) 0

def State.ctl (s : State) (k : Nat) : CtlCore := tgetD s.u.host.cores k {}

def Act.ctl (k : Nat) (f : CtlCore → CtlCore) : Act := .host fun h => { h with cores := tmod h.cores k {} f }

/-- IN_SERVICE of a core: the normal and the fast source in service, 256 for none, and its default 0 until the core first claims one
(R421; log entry 45). -/
def CtlCore.inService (c : CtlCore) : Nat := if c.claimed then c.inNormal + c.inFast * 2 ^ 9 else 0

/-- A source is pending on a core in a class: enabled, asserted, not in service there (R422). -/
def State.pends (s : State) (k : Nat) (fast : Bool) (src : Nat) : Bool :=
  bit (s.srcReg src) 0 && bit (s.srcReg src) 1 == fast && s.asserted k src && (s.ctl k).inNormal != src && (s.ctl k).inFast != src

/-- The pending source of a class with the lowest number, 256 where there is none. -/
def State.pendingSrc (s : State) (k : Nat) (fast : Bool) : Nat := ((List.range 144).find? (s.pends k fast)).getD 256

/-- A claim of a class: its source is in service; 256 where none is pending or the class is in service already (R422). -/
def Act.claimSrc (k : Nat) (fast : Bool) : Act :=
  .get fun s => .when s.fwRuns (
    let busy := if fast then (s.ctl k).inFast else (s.ctl k).inNormal
    let v := if busy = 256 then s.pendingSrc k fast else 256
    .seq (.out (.claim k v)) (.when (v != 256) (.ctl k fun c =>
      if fast then { c with inFast := v, claimed := true } else { c with inNormal := v, claimed := true })))

def execClaimNormal (k : Fin 8) (s : State) : Host.Outcome State Fault Refusal := (Act.claimSrc k.val false).outcome s

def execClaimFast (k : Fin 8) (s : State) : Host.Outcome State Fault Refusal := (Act.claimSrc k.val true).outcome s

/-- The service of a source ends on a core, where it was in service. Whether the handler has served the whole cause of a source from 104
on by then is open, so the source stays asserted or not (R420, R423; log entry 45). -/
def Act.endService (k src : Nat) : Act :=
  .get fun s => .when (s.fwRuns && ((s.ctl k).inNormal == src || (s.ctl k).inFast == src)) (
    .seq (.when (s.u.host.raised.contains src) (.draw fun v => .when (v % 2 == 1) (.host fun h => { h with raised := sdel h.raised src })))
      (.ctl k fun c => { c with
        inNormal := if c.inNormal = src then 256 else c.inNormal
        inFast := if c.inFast = src then 256 else c.inFast }))

def execEoi (k : Fin 8) (src : Byte) (s : State) : Host.Outcome State Fault Refusal := (Act.endService k.val src.toNat).outcome s

/-- A write that sets SWI bits, or ENABLE, CLASS and TARGET of a source (R421; log entry 11). -/
def HostU.intcSet (h : HostU) : IntcSet → HostU
  | .swi v => { h with swi := h.swi ||| v.toNat }
  | .source i v => { h with src := tset h.src i.val (v.toNat % 2 ^ 5) }

def execSwiSet (w : IntcSet) (s : State) : Host.Outcome State Fault Refusal :=
  (Act.get fun s => .when s.fwRuns (.host fun h => h.intcSet w)).outcome s

def execSwiClear (v : Byte) (s : State) : Host.Outcome State Fault Refusal :=
  (Act.get fun s => .when s.fwRuns (.host fun h => { h with swi := newBits h.swi v.toNat })).outcome s

/-! ### Traps of a control core (R424) -/

/-- mstatus as a trap leaves it: MPP takes the mode, MPIE takes MIE, MIE is 0 (log entry 46). -/
def trapStatus (mstatus priv : Nat) : Nat := setBits (setBits (setBits mstatus 11 2 priv) 7 1 (bits mstatus 3 1)) 3 1 0

/-- mstatus as mret leaves it: MIE takes MPIE, MPIE is 1, MPP is U (log entry 46). -/
def mretStatus (mstatus : Nat) : Nat := setBits (setBits (setBits mstatus 3 1 (bits mstatus 7 1)) 7 1 1) 11 2 0

/-- An interrupt is taken at the direct vector (R424, R425). -/
def CtlCore.trap (c : CtlCore) (cause : Nat) : CtlCore :=
  { c with mepc := c.pc, mcause := 2 ^ 63 + cause, mtval := 0, mstatus := trapStatus c.mstatus c.priv, priv := 3, pc := c.mtvec / 4 * 4 }

/-- A fast interrupt is taken: the four registers are kept, and the fast bank is in use (R424). -/
def CtlCore.fastTrap (c : CtlCore) : CtlCore :=
  let c' := c.trap 16
  { c' with fEpc := c.mepc, fCause := c.mcause, fTval := c.mtval, fStatus := c.mstatus, fastActive := true }

/-- mret: from a fast handler the four registers and the main bank come back (R424). -/
def CtlCore.ret (c : CtlCore) : CtlCore :=
  let p := bits c.mstatus 11 2
  if c.fastActive then
    { c with pc := c.mepc, priv := p, mepc := c.fEpc, mcause := c.fCause, mtval := c.fTval, mstatus := c.fStatus, fastActive := false }
  else { c with pc := c.mepc, priv := p, mstatus := mretStatus c.mstatus }

/-- Register `x` as a core's instructions see it: of the fast bank while that is in use; x0 is 0. -/
def CtlCore.reg (c : CtlCore) (x : Nat) : Nat := if x = 0 then 0 else tgetD (if c.fastActive then c.fast else c.main) x 0

/-- A normal interrupt may be taken: no class in service, and the core takes interrupts. -/
def State.takesNormal (s : State) (k : Nat) : Bool :=
  let c := s.ctl k
  s.fwRuns && c.inNormal == 256 && c.inFast == 256 && (bit c.mstatus 3 || c.priv < 3)

/-- A pending fast source interrupts whenever no fast source is in service (R422; log entry 46). -/
def Act.fastInt (k : Nat) : Act :=
  .get fun s => .when (s.fwRuns && (s.ctl k).inFast == 256 && s.pendingSrc k true != 256) (.ctl k CtlCore.fastTrap)

def Act.normalInt (k : Nat) : Act :=
  .get fun s => .when (s.takesNormal k && s.pendingSrc k false != 256) (.ctl k fun c => c.trap 11)

def execFastInterrupt (k : Fin 8) (s : State) : Host.Outcome State Fault Refusal := (Act.fastInt k.val).outcome s

def execNormalInterrupt (k : Fin 8) (s : State) : Host.Outcome State Fault Refusal := (Act.normalInt k.val).outcome s

/-- The machine timer interrupt ranks as a normal source (R424). -/
def execMachineTimerInterrupt (k : Fin 8) (s : State) : Host.Outcome State Fault Refusal :=
  (Act.get fun s => .when (s.takesNormal k) (.ctl k fun c => c.trap 7)).outcome s

def execMret (k : Fin 8) (s : State) : Host.Outcome State Fault Refusal :=
  (Act.get fun s => .when s.fwRuns (.ctl k CtlCore.ret)).outcome s

/-! ### Policy modules (R426 to R429) -/

/-- The number of a module: 0 admission, 1 scheduling. -/
def kindNo : PolicyKind → Nat
  | .admission => 0
  | .scheduling => 1

/-- What the calls of a module have settled and nothing has used yet is forgotten. -/
def Act.callsForget (k : Nat) : Act :=
  if k = 0 then .units fun u => { u with sess := u.sess.map fun p => (p.1, { p.2 with policy := none }) }
  else .core fun c => { c with slots := c.slots.map fun p => (p.1, { p.2 with pick := none }) }

/-- A module as it is loaded: its data are the image's after its code (R426, R499). -/
def policyOf (img : List Byte) : Policy := { image := img, slot := imgSlot img, data := leNat ((img.drop (256 + imgCode img)).take (2 ^ 22)) }

/-- A call of a module with its input and its arguments: it may change the data, which persist, as it likes (R426). -/
def Act.moduleCall (k : Nat) (input : List Byte) (args : List Nat) : Act :=
  .draw fun v => .policy k fun p => { p with data := v, input := input, args := args }

/-- POLICY_LOAD's rule: an image that verifies runs, any other is refused; none loads in safe mode (R426, R430, R500, R501). -/
def rulePolicyLoad : Rule := fun _ i v k =>
  .get fun s =>
    let img := s.imgAt v
    if s.imgHeld v then k stBusy
    else if s.imgReason img (i + 2) = 0 ∧ s.safeMode = false then
      .all [.noteImg v, .raiseSrc 142, .callsForget i, .policy i fun _ => policyOf img, .reg .policyState i 1, k stOk]
    else .all [.noteImg v, .raiseSrc 142, .callsForget i, .policy i fun _ => {}, .reg .policyState i 3, k stOk]

def execPolicyLoad (r : Requester) (kind : PolicyKind) (v : W64) (s : State) : Host.Outcome State Fault Refusal :=
  (Act.entryRow .policyLoad rulePolicyLoad r (kindNo kind) v.toNat).outcome s

/-- A call is ended by the firmware, which decides by the base policy and counts an overrun; a module classified lasting is disabled
(R427, R477). The counter is that of the kind of call. -/
def Act.overrun (module_ counter : Nat) : Act :=
  .all [.count .policyCount 0 counter, .errEvent (58 + module_) 0, .policy module_ fun p => { p with call := false },
    .get fun s => .when (s.policyRuns module_ && s.fld .errwinState (58 + module_) 0 8 1 == 1) (.reg .policyState module_ 2)]

/-- A module faults: the call ends, and the module is disabled at once (R427). -/
def Act.moduleFault (module_ counter : Nat) : Act :=
  .seq (.overrun module_ counter) (.get fun s => .when (s.policyRuns module_) (.reg .policyState module_ 2))

/-- An admission result is valid: candidate indices, each at most once (R428). -/
def orderOk (n : Nat) (order : List Nat) : Bool := order.all (· < n) && order.Nodup

/-- A candidate's record (R428): tag, session, class, whether it was preempted, whether R190 holds for it alone, the prompt tokens, the
units of its reservation, and the time since the request was read. -/
def Bnd.candRecord (b : Bnd) (i : Nat) (beCtx : Bool) (c : Cand) : List Byte :=
  let fits := match b.fit c with | .fits _ => true | _ => false
  let p := match c with
    | .back q => (q.tag, q.be, true, q.readTime)
    | .fresh r => (r.tag, r.be || beCtx, false, r.time)
  [p.1 + i * 2 ^ 32 + b2n p.2.1 * 2 ^ 40 + b2n p.2.2.1 * 2 ^ 41 + b2n fits * 2 ^ 42, c.prompt + b.x.needs c * 2 ^ 32, b.now - p.2.2.2, 0].flatMap
    (leBytes 8)

/-- The candidate array of a session's admission call: the first 4,096 candidates (R428). -/
def State.candArray (s : State) (i : Nat) : List (List Byte) :=
  let be := !s.isLC (s.ses i).ctx
  (((s.ses i).cands be).take 4096).map ((s.bndStart i).candRecord i be)

/-- The admission module orders a session's candidates for the next boundary. It is called with the candidate array, its count, the output
array, and the tarn units that the session may take; where the arrays lie is open (R428). -/
def Act.admissionCall (i : Nat) (order : List Nat) (skip : Bool) : Act :=
  .get fun s => .when (s.fwRuns && s.policyRuns 0 && s.sesLive i) (.all [.count .policyCount 0 0,
    .draw fun at_ => .draw fun out => .moduleCall 0 (s.candArray i).flatten [at_ % 2 ^ 64, (s.candArray i).length, out % 2 ^ 64, s.takeable i], (
    let x := s.ses i
    if orderOk (min 4096 (x.cands (!s.isLC x.ctx)).length) order then .ses i fun x => { x with policy := some (order, skip) }
    else .seq (.ses i fun x => { x with policy := none }) (.overrun 0 1))])

def execAdmissionCall (sess : Fin 256) (order : List Nat) (skip : Bool) (s : State) : Host.Outcome State Fault Refusal :=
  (Act.admissionCall sess.val order skip).outcome s

/-- The records of the BE contexts that wait on a core: context, partition, and how long each has waited (R429). -/
def State.waitArray (s : State) (core k : Nat) : List (List Byte) :=
  (s.waiters core k).map fun c =>
    leBytes 8 (c + s.partOf c * 2 ^ 10) ++ leBytes 8 (s.now - tgetD s.u.core.waitSince (core * 1024 + c) s.now)

/-- The scheduling module chooses among the BE contexts that wait on a core, or leaves it to the longest wait. It is called with their
records, their count, the core, and the holder of the slot, 0xFFFF for none; where the records lie is open (R387, R429). -/
def Act.schedulingCall (core k : Nat) (choice : Int) : Act :=
  .get fun s => .when (s.fwRuns && s.policyRuns 1 && k != 0) (.all [.count .policyCount 0 2,
    .draw fun at_ => .moduleCall 1 (s.waitArray core k).flatten
      [at_ % 2 ^ 64, (s.waitArray core k).length, core, ((s.slot core k).holder).getD 0xFFFF], (
    let ws := s.waiters core k
    if choice = -1 then .slot core k fun sl => { sl with pick := none }
    else if 0 ≤ choice ∧ choice.toNat < ws.length then .slot core k fun sl => { sl with pick := ws[choice.toNat]? }
    else .seq (.slot core k fun sl => { sl with pick := none }) (.overrun 1 3))])

def execSchedulingCall (core : Fin 192) (slot : Fin 4) (choice : Int) (s : State) : Host.Outcome State Fault Refusal :=
  (Act.schedulingCall core.val slot.val choice).outcome s

/-- A channel serves policy modules. -/
def State.policyChannel (s : State) (c : Nat) : Bool := s.fld .mbxCfg c 0 0 1 == 1 && s.fld .mbxCfg c 0 28 1 == 1

/-- The bytes of a message's payload (R415). -/
def mailPayload (x : Mbx) : List Byte := leBytes (min 240 (bits (mailHdr x) 32 8)) (x.msg / 2 ^ 128)

/-- A message that the host posted on a policy channel is taken and passed to the module, its payload the call's input (R426; log entry
14). One whose header breaks R415 is answered MALFORMED and goes to no module. -/
def Act.noticeCall (module_ c : Nat) : Act :=
  .get fun s =>
    let x := s.mbx c
    let h := mailHdr x
    .when (s.fwRuns && s.policyRuns module_ && s.policyChannel c && x.state == 2 && x.poster == 0) (.seq (.mbxTo c x.emptied) (
      if mailBroken h then .mailPut c (mailResp (bits h 0 8) (bits h 16 8) 3 [])
      else .all [.count .policyCount 0 4, .draw fun at_ => .moduleCall module_ (mailPayload x) [at_ % 2 ^ 64, (mailPayload x).length],
        .policy module_ fun p => { p with call := true }]))

def execNoticeCall (kind : PolicyKind) (ch : Fin 64) (s : State) : Host.Outcome State Fault Refusal :=
  (Act.noticeCall (kindNo kind) ch.val).outcome s

/-- The counter of overruns that a fault of a module counts in: of the notice call in progress, or of the module's own call. -/
def State.overrunOf (s : State) (module_ : Nat) : Nat := if (s.policy module_).call then 5 else 2 * module_ + 1

/-- A message of the firmware on behalf of a module: header of PROTO 3 and the data (R415, R426). -/
def noticeMsg (data : List Byte) : Nat := (3 + data.length * 2 ^ 32) * 2 ^ 64 + leNat data * 2 ^ 128

/-- A module's ecall: 1 posts a notice on its channel where that is free, 2 ends the call, any other is a fault, as is a notice of more
than 240 bytes (R426). The module's core posts: 6 or 7. -/
def Act.moduleEcall (module_ a7 c : Nat) (data : List Byte) : Act :=
  .get fun s => .when (s.fwRuns && s.policyRuns module_) (
    if a7 = 1 ∧ data.length ≤ 240 then
      let x := s.mbx c
      let side := Side.core (if module_ = 0 then 6 else 7)
      .when (s.policyChannel c && x.state == 0)
        (.mbxTo c (s.mbxPosted side c true { x with holder := 1, core := 6 + module_, msg := noticeMsg data }))
    else if a7 = 2 then .policy module_ fun p => { p with call := false }
    else .moduleFault module_ (s.overrunOf module_))

def execPolicyEcall (kind : PolicyKind) (a7 : W64) (ch : Fin 64) (data : List Byte) (s : State) : Host.Outcome State Fault Refusal :=
  (Act.moduleEcall (kindNo kind) a7.toNat ch.val data).outcome s

/-- The module of a call, and the counter of its overruns (R427, R430). -/
def callOf : PolicyCall → Nat × Nat
  | .admission _ => (0, 1)
  | .scheduling _ _ => (1, 3)
  | .notice kind => (kindNo kind, 5)

/-- A call exceeds its time: the base policy decides what it was to decide (R427). -/
def Act.callLate (call : PolicyCall) : Act :=
  .get fun s => .when (s.fwRuns && s.policyRuns (callOf call).1) (.seq (match call with
    | .admission i => .ses i fun x => { x with policy := none }
    | .scheduling core k => .slot core k fun sl => { sl with pick := none }
    | .notice _ => .skip) (.overrun (callOf call).1 (callOf call).2))

def execPolicyCallTimeout (call : PolicyCall) (s : State) : Host.Outcome State Fault Refusal := (Act.callLate call).outcome s

end Sys2Proof.Machine
end

