-- ==== Sys2Proof/Machine/Read.lean ====
section
/-! DEFINITION. What a read of a dictionary entry gives: the value held, or the value that the machine's state gives it. -/

namespace Sys2Proof.Machine

/-- 64-bit words as one little-endian value. -/
def packWords : List Nat → Nat
  | [] => 0
  | w :: ws => w % 2 ^ 64 + 2 ^ 64 * packWords ws

/-- A monitor's words (R68). -/
def State.monWords (s : State) (tid : Nat) : List Nat :=
  let m := (tgetD s.u.core.mon tid {}).tot
  let owner := match s.tidOwner tid with
    | some c => c * 2 ^ 16 + 2 ^ 26
    | none => 0
  [tid + owner, m.el, m.ze, m.sa, m.nf, m.fl, m.nb, m.po]

/-- The words of a core's gates, physical gate 0 first; a slot's gates are those of the context that holds it (R148). -/
def State.gateWords (s : State) (core : Nat) : List Nat :=
  (List.range 32).map fun g => match (s.slot core (g / 8)).holder with
    | none => 0
    | some ctx => (s.gate core ctx (g % 8)).cap + (s.gate core ctx (g % 8)).credits * 2 ^ 16 + (s.gate core ctx (g % 8)).filled * 2 ^ 32

/-- A 64-bit counter of a value, by its number, with so many more. -/
def bumped (v k n : Nat) : Nat := v - bits v (64 * k) 64 * 2 ^ (64 * k) + (bits v (64 * k) 64 + n) % 2 ^ 64 * 2 ^ (64 * k)

/-- An exhaustion counter with the cycles of stalls that go on (R31, R32). -/
def State.withStalls (s : State) (n : EName) (i : Nat) : Nat :=
  (s.u.stalls.filter fun p => let q := s.stallPlace p.1; q.1 == n && q.2.1 == i).foldl
    (fun v p => bumped v (s.stallPlace p.1).2.2.1 (s.stallCycles p.1 p.2)) (s.rd n i)

/-- The value of an entry that a read returns (R283, R456 and the chapters' own tables). -/
def State.value (s : State) (n : EName) (i : Nat) : Nat :=
  match n with
  | .monGranted => ((List.range 16384).filter fun t => (s.tidOwner t).isSome).length
  | .coreGateExhaust | .engineQueueExhaust | .memqExhaust | .colVcExhaust => s.withStalls n i
  | .monEntry => packWords (s.monWords i)
  | .coreGateState => packWords (s.gateWords i)
  | .tarnFree => s.tarnFree
  | .sessionsOpen => s.sessionsOpen
  | .seqRunning => s.seqRunning
  | .memLayout => packWords s.u.mem.layoutWords
  | .contextsReady => ((List.range 1024).filter fun c => s.ctxState c == 1).length
  | .cfgLock => b2n s.u.dict.holder.isSome
  | .cfgHolder => match s.u.dict.holder with
    | some r => holderCode r
    | none => 0
  | .flashOk => b2n s.u.pow.flashOk
  | .eventLog => packWords (s.u.svc.log.drop (s.u.svc.log.length - 64)).flatten
  | .bootStatus => s.bootShown
  | .fwSvnFuse => s.svnFloor
  | .measurement => s.measurement (i + 1)
  | .versionEntry => s.rd n i + s.oldUsers i * 2 ^ 288
  | _ => s.rd n i

/-- The bytes of an entry. -/
def State.valueBytes (s : State) (n : EName) (i : Nat) : List Byte := leBytes n.info.size (s.value n i)

end Sys2Proof.Machine
end

