-- ==== Sys2Proof/Machine/Service.lean ====
section
/-! DEFINITION. Error windows and event rings as they are configured, the cairn's contents and end, service and the lights
(R476 to R497). -/

namespace Sys2Proof.Machine

/-! ### Windows and rings (R476 to R479, R497) -/

/-- A bucket drains one unit. -/
def Act.leak (src : Nat) : Act :=
  .get fun s => .when (s.u.pow.power && 0 < s.fld .errwinState src 0 0 8) (.fld .errwinState src 0 0 8 (s.fld .errwinState src 0 0 8 - 1))

def execErrwinDrain (src : Byte) (s : State) : Host.Outcome State Fault Refusal := (Act.leak src.toNat).outcome s

/-- LEVEL and LASTING of a source are cleared. -/
def Act.winClear (src : Nat) : Act := .fld .errwinState src 0 0 9 0

/-- ERRWIN_CLEAR's rule. -/
def ruleErrwinClear : Rule := fun _ _ v k =>
  if v = 0xFFFF then .seq (.each (List.range 256) .winClear) (k stOk)
  else if v < 256 then .seq (.winClear v) (k stOk)
  else k stRefused

def execErrwinClear (r : Requester) (v : BitVec 16) (s : State) : Host.Outcome State Fault Refusal :=
  (Act.entryRow .errwinClear ruleErrwinClear r 0 v.toNat).outcome s

/-- ERRWIN_CFG's rule: N 1 to 255 and W 1 to 86,400 s; class IMMEDIATE is refused. -/
def ruleErrwinCfg : Rule := fun r i v k =>
  ruleIf .errwinCfg (fun _ v => i != 7 && 1 ≤ bits v 0 8 && 1 ≤ bits v 8 24 && bits v 8 24 ≤ 86400) r i v k

/-- EVT_RING's rule: no ring, or one aligned to 4 KiB of 2⁶ to 2¹⁶ records; SEQ restarts. -/
def ruleEvtRing : Rule := fun _ i v k =>
  if bits v 0 64 = 0 ∨ (bits v 0 12 = 0 ∧ 6 ≤ bits v 64 8 ∧ bits v 64 8 ≤ 16) then
    .all [.store .evtRing i (v % 2 ^ 72), .reg .evtWidx i 0, k stOk]
  else k stRefused

def execEvtRingWrite (r : Requester) (fn : Fin 32) (v : BitVec 128) (s : State) : Host.Outcome State Fault Refusal :=
  (Act.entryRow .evtRing ruleEvtRing r fn.val v.toNat).outcome s

/-! ### FATAL (R481, R482) -/

/-- A fatal cause is detected. -/
def Act.fatalCause (cause detail : Nat) : Act :=
  .get fun s => .when (s.u.pow.power && !s.u.pow.perst && !s.u.pow.deep && 1 ≤ cause && cause ≤ 8) (.fatal cause 0 detail)

def execFatalEnter (cause : Byte) (detail : BitVec 40) (s : State) : Host.Outcome State Fault Refusal :=
  (Act.fatalCause cause.toNat detail.toNat).outcome s

/-! ### Addresses in order (R431, R445) -/

/-- A family's first address above another, an address being index × 256 + subindex. -/
def EName.above (n : EName) (a : Nat) : Option Nat :=
  let e := n.info
  if a / 256 < e.idxLo then some (e.idxLo * 256 + e.subLo)
  else if e.idxHi < a / 256 then none
  else if a % 256 < e.subLo then some (a / 256 * 256 + e.subLo)
  else if a % 256 < e.subHi then some (a + 1)
  else if a / 256 < e.idxHi then some ((a / 256 + 1) * 256 + e.subLo)
  else none

/-- The first address above another that holds an entry. -/
def addrAbove (a : Nat) : Option Nat :=
  (EName.all.filterMap fun n => n.above a).foldl (fun m x => some (match m with | some y => min x y | none => x)) none

/-- Addresses above one, in order. -/
def addrsAbove : Nat → Nat → List Nat
  | 0, _ => []
  | fuel + 1, a => match addrAbove a with
    | none => []
    | some b => b :: addrsAbove fuel b

/-- More than the entries of the dictionary. -/
def addrFuel : Nat := 2 ^ 20

/-- The type code of R433. -/
def ETy.code : ETy → Nat
  | .bool => 1 | .u8 => 2 | .u16 => 3 | .u32 => 4 | .u64 => 5 | .i32 => 6 | .f32 => 7 | .str => 8 | .blob => 9

/-! ### The cairn (R484 to R487) -/

/-- A control core in section CORE_STATE. -/
def CtlCore.cairnBytes (c : CtlCore) : List Byte :=
  let words (l : List Nat) : List Byte := l.flatMap (leBytes 8)
  let pad (n : Nat) (l : List Byte) : List Byte := l ++ List.replicate (n - l.length) 0
  pad 1024 (
    pad 0x100 (words [c.pc, c.mstatus, c.mcause, c.mepc, c.mtval, c.mtvec, c.fEpc, c.fCause, c.fTval, c.fStatus, b2n c.fastActive]) ++
    words ((List.range 32).map fun k => tgetD c.main k 0) ++ words ((List.range 32).map fun k => tgetD c.fast k 0) ++
    leBytes 4 c.inService)

/-- An entry in section DICTIONARY. -/
def State.dictRecord (s : State) (a : Nat) : List Byte :=
  match findKey a with
  | none => []
  | some (n, i) =>
    if bit n.info.rd 4 && n.readable then
      leBytes 2 (a / 256) ++ leBytes 1 (a % 256) ++ leBytes 1 n.info.ty.code ++ leBytes 4 n.info.size ++
        leBytes (cdiv n.info.size 8 * 8) (s.value n i)
    else []

/-- The contents of a section, by KIND (R487). -/
def State.cairnSection (s : State) (kind : Nat) : List Byte :=
  let entry (n : EName) (i : Nat) : List Byte := s.valueBytes n i
  match kind with
  | 1 => ((List.range 256).flatMap (entry .errwinState)) ++ entry .fatalState 0 ++ s.u.svc.log.flatten.flatMap (leBytes 8)
  | 2 => s.u.svc.trace.flatten.flatMap (leBytes 8)
  | 3 => (List.range 8).flatMap fun k => (s.ctl k).cairnBytes
  | 4 => ((List.range 192).flatMap fun core => (List.range 7).flatMap fun e =>
      let l := (s.engQ core e).take 16
      l.flatMap (fun m => descBytes m.d) ++ List.replicate ((16 - l.length) * 64) 0) ++ (List.range 192).flatMap (entry .coreGateState)
  | 5 => (List.range 8).flatMap (entry .portStatus) ++ (List.range 8192).flatMap (entry .flowCfg) ++ (List.range 8192).flatMap (entry .flowState)
  | _ => (addrsAbove addrFuel 0).flatMap s.dictRecord

/-- The sections a cairn holds: thermal causes leave only the first two (R482, R487). -/
def Cairn.kinds (c : Cairn) : List Nat := if c.cls = 0 ∧ (c.cause = fatalStack ∨ c.cause = fatalDie) then [1, 2] else [1, 2, 3, 4, 5, 6]

/-- Sections with the offsets they take, each on a 4 KiB border. -/
def placeSections : Nat → List (Nat × List Byte) → List (Nat × Nat × List Byte)
  | _, [] => []
  | off, (kind, bs) :: rest => (kind, off, bs) :: placeSections ((off + bs.length + 4095) / 4096 * 4096) rest

/-- Where the last of some sections ends. -/
def endOf (l : List (Nat × Nat × List Byte)) : Nat := l.foldl (fun _ p => p.2.1 + p.2.2.length) 0

/-- The directory entry of a section, its COMPLETE bit set (R486). -/
def dirEntry (p : Nat × Nat × List Byte) : List Byte := leBytes 8 (p.1 + 2 ^ 8 + p.2.2.length * 2 ^ 32) ++ leBytes 8 p.2.1

/-- A cairn's bytes from offset 0x100 on: the directory and the sections (R486). -/
def cairnBody (l : List (Nat × Nat × List Byte)) : List Byte :=
  l.foldl (fun acc p => acc ++ List.replicate (p.2.1 - 0x100 - acc.length) 0 ++ p.2.2) (l.flatMap dirEntry)

/-- A cairn is mirrored: CAIRN_HOST names a buffer, the link is up and has been, and the PF has bus mastering enabled (R485). -/
def State.mirrors (s : State) (c : Cairn) : Bool :=
  s.fld .cairnHost 0 0 0 64 != 0 && c.cut.isNone && s.u.pow.linkUp && s.u.host.masters.contains 0

/-- A section fits whole into CAIRN_HOST's buffer (R485). -/
def State.mirrorFits (s : State) (p : Nat × Nat × List Byte) : Bool := p.2.1 + p.2.2.length ≤ s.fld .cairnHost 0 8 0 32

/-- The bytes of a cairn that CAIRN_HOST's buffer has received: the sections that fit whole, up to a link failure (R485). -/
def State.mirrored (s : State) (c : Cairn) : Nat :=
  match c.cut with
  | some n => n
  | none => if s.mirrors c then endOf ((placeSections 0x1000 c.done).filter s.mirrorFits) else 0

/-- The first sections of a cairn: those written, and the next as they are now. -/
def State.cairnFirst (s : State) (c : Cairn) (n : Nat) : List (Nat × List Byte) :=
  c.done ++ ((c.kinds.drop c.done.length).take (n - c.done.length)).map fun k => (k, s.cairnSection k)

/-- The next sections of a cairn are written, up to the `n`th, each with its directory entry, and copied to the host where it is mirrored
(R484, R485). -/
def Act.cairnGo (n : Nat) : Act :=
  .get fun s => match s.u.svc.cairn with
    | none => .skip
    | some c =>
      let sections := s.cairnFirst c n
      let host := s.fld .cairnHost 0 0 0 64
      let put (p : (Nat × Nat × List Byte) × Nat) : Act :=
        let entry := (dirEntry p.1).map fun b => (b, false)
        let bytes := p.1.2.2.map fun b => (b, false)
        .seq (.when (s.cairnTaken c) (.seq (.wrStack (cairnSlot c.slot + p.1.2.1) bytes) (.wrStack (cairnSlot c.slot + 0x100 + 16 * p.2) entry)))
          (.when (s.mirrors c && s.mirrorFits p.1) (.seq (.mem .host (host + p.1.2.1) bytes) (.mem .host (host + 0x100 + 16 * p.2) entry)))
      .all [.when c.done.isEmpty (.cairnOpen c), .each (((placeSections 0x1000 sections).zipIdx).drop c.done.length) put,
        .svc fun v => { v with cairn := some { c with done := sections } }]

/-- The firmware can write a cairn. -/
def State.cairnRuns (s : State) : Bool := s.fwRuns && !s.u.pow.nap && s.ownGoes

/-- A cairn is stopped or its link fails: how far it has come is open (R484, R485; log entry 117). -/
def Act.cairnSome : Act :=
  .get fun s => .when (s.u.svc.cairn.isSome && s.cairnRuns) (.draw fun v => .cairnGo (v % 7))

/-- A link failure ends the mirror of the cairn that is being written (R485). -/
def Act.cairnCut : Act :=
  .get fun s => .when (s.u.svc.cairn.any fun c => c.cut.isNone) (.seq .cairnSome (.get fun s =>
    .svc fun v => { v with cairn := v.cairn.map fun c => { c with cut := some (s.mirrored c) } }))

/-- Every switched domain but PCIe, the saddle and security is off and the device can be pulled (step 7 of R492). -/
def Act.serviceReady : Act :=
  .all [
    .each (List.range 8) fun p => .get fun s => .when (s.portSt p != psDisabled && s.portSt p != psDown) (.portDown p dcReset),
    .each (List.range 16) .columnLost, .pow fun p => { p with memOn := false }, .svc fun v => { v with drainStep := 7, pressPending := false },
    .reg .serviceState 0 2, .countFld .serviceCount 0 4 0 32, .event allFns 0x08 0 0 0 0]

/-- The cairn is whole: its sections, its digest, then STATE 1; the mirror follows; a service that waited for it goes on
(R482 to R485, R492). -/
def Act.cairnDone : Act :=
  .get fun s => match s.u.svc.cairn with
    | none => .skip
    | some _ => .when s.cairnRuns (.seq (.cairnGo 6) (.get fun s => match s.u.svc.cairn with
      | none => .skip
      | some c =>
        let l := placeSections 0x1000 c.done
        let mirror := s.mirrored c
        let copied := s.mirrors c && mirror != 0
        let header := s.cairnHeader c (if s.cairnTaken c then 1 else 3) mirror (endOf l) l.length (Config.sm3 (cairnBody l))
        .all [
          .when (s.cairnTaken c) (.seq (.wrStack (cairnSlot c.slot) (wordBytes header)) (.reg .cairnLatest 0 (c.slot + 2))),
          .when copied (.mem .host (s.fld .cairnHost 0 0 0 64) (wordBytes header)),
          .svc fun v => { v with cairn := none },
          .event [0] 0x06 0 0 0 (c.slot + 2 * b2n copied + endOf l * 2 ^ 32),
          .when (c.cls == 1 || s.u.svc.pressPending) .serviceReady]))

def execCairnComplete (s : State) : Host.Outcome State Fault Refusal := Act.cairnDone.outcome s

/-- CAIRN_HOST's rule. -/
def ruleCairnHost : Rule := fun _ i v k =>
  if bits v 0 12 = 0 ∧ bits v 64 12 = 0 ∧ bits v 64 32 ≤ 2 ^ 28 then .seq (.store .cairnHost i (v % 2 ^ 96)) (k stOk) else k stRefused

/-! ### Service (R492 to R495) -/

/-- Every open session, one that drains among them, is closed as by CLOSE with CLOSE_NOW (R200, R492). -/
def Act.closeSessions : Act :=
  .get fun s => .each ((List.range 256).filter fun i => [1, 2].contains (s.rd .sessionState i)) fun i =>
    .get fun s => .seq (.ses i fun x => { x with reqs := x.reqs ++ [{ idx := 0, time := s.now, w0 := 3, own := true }] })
      (.when (!(s.ses i).inFlight) (.boundaryNow i))

/-- A drain begins (steps 1 and 2 of R492). -/
def Act.drainStart : Act :=
  .get fun s => .all [.reg .serviceState 0 1, .event allFns 0x07 0 0 0 0,
    .svc fun v => { v with frozen := true, drainStep := 3, asked := (s.now, s.rd .recoveryEpoch) }, .closeSessions]

/-- What a press does on firmware that runs (R492). -/
def Act.pressed : Act :=
  .get fun s => .when (s.rd .serviceEn == 1 && s.rd .serviceState == 0 && s.u.svc.drainStep == 0) (
    if s.u.pow.fatal then .all [.reg .serviceState 0 1, .event allFns 0x07 0 0 0 0,
      if s.u.svc.cairn.isSome then .svc fun v => { v with pressPending := true } else .serviceReady]
    else .when s.u.pow.ready .drainStart)

/-- The service button has been pressed. -/
def Act.press : Act :=
  .get fun s => .when s.u.pow.power (.all [.countFld .serviceCount 0 0 0 32, .trace 0x0A 0 0 0 (s.rd .serviceState), .raiseSrc 111,
    if s.u.pow.restarting then .when (s.rd .serviceEn == 1) (.svc fun v => { v with pressWaits := true }) else .when s.fwRuns .pressed])

def execServiceButtonPress (s : State) : Host.Outcome State Fault Refusal := Act.press.outcome s

/-- A context has work that a drain waits for. -/
def State.ctxBusy (s : State) (ctx : Nat) : Bool :=
  ((s.queuesOf ctx).any fun q => s.qValid q && s.qKind q == 0 && s.qHead q != s.qTail q) ||
    (s.liveSes.any fun p => p.2.ctx == ctx) || s.moltOf ctx

/-- What a drain waits for has ended, teardowns under way among it (steps 3 and 4 of R492, R496). -/
def State.drainOver (s : State) : Bool :=
  !s.moltRuns && ((List.range 1024).all fun c => s.ctxState c != 2) &&
    (s.u.svc.drainStep == 4 || s.u.svc.drainStep == 3 && !s.readyCtxs.any s.ctxBusy)

/-- FLOW_ABORT goes out on every OPEN flow. -/
def Act.abortFlows (cause : Nat) : Act := .get fun s => .each (s.flowList.filter fun f => s.flowSt f == 2) fun f => .sendAbort f cause

/-- All work has ended: flows are told (step 5 of R492). -/
def Act.drainDone : Act :=
  .get fun s => .when (s.fwRuns && s.drainOver) (.seq (.abortFlows 4) (.svc fun v => { v with drainStep := 5 }))

def execDrainComplete (s : State) : Host.Outcome State Fault Refusal := Act.drainDone.outcome s

/-- DRAIN_MS has passed: READY contexts with unfinished work are reset (step 4 of R492). -/
def Act.drainLate : Act :=
  .get fun s => .when (s.fwRuns && s.u.svc.drainStep == 3) (.all [.svc fun v => { v with drainStep := 4 },
    .countFld .serviceCount 0 8 0 32, .each (s.readyCtxs.filter s.ctxBusy) .ctxReset])

def execDrainTimeout (s : State) : Host.Outcome State Fault Refusal := Act.drainLate.outcome s

/-- The ports are held DISABLED, and the cairn or the end of service follows (steps 5 to 7 of R492). -/
def Act.drainPorts : Act :=
  .get fun s => .when (s.fwRuns && s.u.svc.drainStep == 5) (.all [.svc fun v => { v with drainStep := 6 },
    .each (List.range 8) .portDisable,
    if s.rd .serviceCairn = 1 then .cairnBegin 1 0 0 0 s.u.svc.asked.1 s.u.svc.asked.2 else .serviceReady])

def execDrainPortsDisable (s : State) : Host.Outcome State Fault Refusal := Act.drainPorts.outcome s

/-- SERVICE_CANCEL's rule (R493). -/
def ruleServiceCancel : Rule := fun _ _ v k =>
  .get fun s =>
    if v = 1 ∧ (s.u.svc.drainStep = 3 ∨ s.u.svc.drainStep = 4) then
      .all [.svc fun w => { w with frozen := false, drainStep := 0 }, .trace 0x0A 0 0 3 (s.rd .serviceState), .reg .serviceState 0 0,
        .event allFns 0x09 0 0 0 0, k stOk]
    else k stRefused

def execServiceCancel (r : Requester) (v : Byte) (s : State) : Host.Outcome State Fault Refusal :=
  (Act.entryRow .serviceCancel ruleServiceCancel r 0 v.toNat).outcome s

/-- The ejector latch opens: a planned removal, or a surprise (R494). -/
def Act.latch : Act :=
  .get fun s =>
    let st := s.rd .serviceState
    .when s.u.pow.power (.all [.trace 0x0A 0 0 1 st, .raiseSrc 111, .when (st < 2) (.all [
        .countFld .serviceCount 0 12 0 32, .abortFlows 3,
        .each (List.range 8) fun p => .get fun s => .when (s.portSt p != psDisabled && s.portSt p != psDown) (.portDown p dcReset),
        .cairnSome, .svc fun v => { v with cairn := none, fatalWaits := none }]),
      .svc fun v => { v with frozen := true, drainStep := 0, pressPending := false, pressWaits := false }, .reg .serviceState 0 3])

def execLatchOpen (s : State) : Host.Outcome State Fault Refusal := Act.latch.outcome s

/-- The handle pad is touched: every port light is lit (R491, R495). -/
def Act.touch : Act :=
  .get fun s => .when s.u.pow.power (.all [.countFld .serviceCount 0 16 0 32, .trace 0x0A 0 0 2 (s.rd .serviceState), .raiseSrc 111,
    .svc fun v => { v with portLight := (List.range 8).map fun p => (p, 1) }])

def execHandlePadTouch (s : State) : Host.Outcome State Fault Refusal := Act.touch.outcome s

/-- 30 s after the last touch or change of the port's state (R491). -/
def execPortLightTimeout (port : Fin 8) (s : State) : Host.Outcome State Fault Refusal :=
  (Act.svc fun v => { v with portLight := tdel v.portLight port.val }).outcome s

/-- The saddle's restart ends; a press that waited is acted on (R471, R496). -/
def execSaddleRestartDone (s : State) : Host.Outcome State Fault Refusal :=
  (Act.seq .restartDone (.get fun s => .when (s.u.svc.pressWaits && !s.u.pow.restarting)
    (.seq (.svc fun v => { v with pressWaits := false }) (.when s.fwRuns .pressed)))).outcome s

/-! ### Lights (R330, R490, R491) -/

/-- Colours of the lights. -/
inductive Colour where
  | amber | blue | green
  deriving DecidableEq, Repr

/-- What a light shows; a blink's rate in tenths of a hertz, 0 where the manual gives none. -/
inductive Light where
  | off
  | steady (c : Colour)
  | blink (c : Colour) (rate : Nat)
  deriving DecidableEq, Repr

/-- The status light (R490). -/
def State.statusLight (s : State) : Light :=
  let st := s.rd .serviceState
  if !s.u.pow.power then .off
  else if st = 3 then .blink .amber 40
  else if st = 2 then .steady .blue
  else if st = 1 then .blink .blue 20
  else if s.u.pow.fatal then .steady .amber
  else if s.rd .locate = 1 then .blink .blue 5
  else if (List.range 256).any fun src => s.fld .errwinState src 0 8 1 == 1 then .blink .amber 10
  else if !s.u.pow.ready || s.u.pow.deep then .blink .green 10
  else .steady .green

/-- A port's light (R330, R491). -/
def State.portLightShown (s : State) (p : Nat) : Light :=
  let st := s.portSt p
  if st = psQuarantined then .blink .amber 0
  else if (tget s.u.svc.portLight p).isNone && s.rd .lightsAlways == 0 then .off
  else if st = psDisabled then .off
  else if st = psUp then .steady .green
  else if st = psDown then .steady .amber
  else .blink .green 0

end Sys2Proof.Machine
end

