-- ==== Sys2Proof/Machine/Reset.lean ====
section
/-! DEFINITION. Resets and what each keeps (R442, R469 to R472), power (R524), NAP and DEEP (R463, R464), memory training (R281)
and the saddle restart (R471). -/

namespace Sys2Proof.Machine

/-! ### What a reset keeps (R442) -/

/-- Entries that stay over a warm reset: FIXED, KEEP and STORE, but STORE entries where a factory reset is pending (R456). -/
def warmStays (factory : Bool) (n : EName) (_ : Nat) : Bool :=
  match n.info.pers with
  | .fixed | .keep => true
  | .store => !factory || n == .storeWrites || n == .cairnCount
  | _ => false

/-- Entries that stay on entering DEEP: all but VOL, and of these the counters that only a warm reset clears (R332, R333, R430, R519). -/
def deepStays (n : EName) (_ : Nat) : Bool :=
  n.info.pers != .vol || [.transportCount, .portStatus, .hostCount, .policyCount, .spdmCount].contains n

/-- Entries that stay over a power loss: FIXED and STORE. -/
def powerStays (n : EName) (_ : Nat) : Bool := n.info.pers == .fixed || n.info.pers == .store

/-- The units after a reset: what is held on the die is gone. Local time, the messages sent, power, trust's flash and fuses;
the trace stays where memory does. -/
def Units.cleared (keepTrace : Bool) (u : Units) : Units :=
  { now := u.now, frac := u.frac, free := u.free, outbox := u.outbox, pow := u.pow
    mem := { u.mem with spent := [], queued := [], waits := [], errs := if keepTrace then u.mem.errs else [] }
    host := { atsDeny := u.host.atsDeny }
    svc := { trace := if keepTrace then u.svc.trace else [] }
    trust := { copies := u.trust.copies, active := u.trust.active, svn := u.trust.svn, unlock := u.trust.unlock }
    reorderMib := u.reorderMib }

/-- A STORE write that the flash does not hold yet is there afterwards or not, which is open (R440). -/
def Act.storeLost : Act :=
  .get fun s => .each s.u.dict.storeDue fun d => .draw fun v => .when (v % 2 == 1) (match findKey d.key with
    | some e => (match d.old with
        | some x => .reg e.1 e.2 x
        | none => .regErase e.1 e.2)
    | none => .skip)

/-- Where memory of one layout lies in another (R265). -/
def MemU.moves (old new : MemU) (a : Nat) : Option Nat := (new.dpaOf (old.place a)).map fun g => g + a % 128

/-- The errors of bursts go with them. -/
def MemU.errsMoved (old new : MemU) : Tab (Tab Nat) :=
  old.errs.foldl (fun t e => match old.moves new (64 * e.1) with | some a => tset t (a / 64) e.2 | none => t) []

/-- Memory moves to another layout: each place keeps its bytes, so an address holds what its new place held (R265). -/
def Act.relayout (old new : MemU) : Act :=
  .get fun s =>
    let moved := old.moves new
    .when (old.share != new.share) (.all [.upd (.lose .stack 0 stackSize),
      .each s.stack.bytes fun c => (match moved c.1 with | some a => .mem .stack a [(c.2, false)] | none => .skip),
      .each s.stack.poison fun g => (match moved (64 * g) with | some a => .upd (.poison .stack (a / 64)) | none => .skip)])

/-- The layout and the reorder pool that the entries ask for come into force (R265, R332, R441). -/
def Act.layoutTake (move : Bool) : Act :=
  .get fun s =>
    let new := s.layoutAsked
    let errs := if s.u.mem.share = new.share then s.u.mem.errs else s.u.mem.errsMoved new
    .seq (.when move (.relayout s.u.mem new)) (.units fun u => { u with
      mem := { new with spent := [], stuck := u.mem.stuck, errs := if move then errs else [] }, reorderMib := s.rd .reorderMib })

/-- DEBUG_NONCE is new (R517). -/
def Act.newNonce : Act := .draw fun v => .reg .debugNonce 0 v

/-! ### Warm reset (R470) -/

/-- Everything stops: ports DOWN, memory in self-refresh, a cairn left incomplete. Memory that has not trained will train in full. -/
def Act.warmStop : Act :=
  .all [.cairnSome, .each (List.range 8) fun p => .get fun s => .when (s.portSt p != psDisabled && s.portSt p != psDown) (.portDown p dcReset),
    .units fun u => { u with
      svc := { u.svc with cairn := none }
      pow := { u.pow with perst := true, ready := false, linkUp := false, memOn := false, boot := .rom, restarting := false, nap := false,
                          napEntering := false, waking := false, held := [] } }]

/-- The sequence that follows a warm reset's deassertion: entries and units return to their defaults, straps are latched, the layout
asked for comes into force, an accepted debug unlock opens and wipes memory but the cairn region, and local time starts at 0
(R442, R443, R458, R470, R517). Memory that never trained has undefined contents. -/
def Act.warmBegin (cause counter : Nat) (straps : Nat) : Act :=
  .get fun s =>
    let keepMem := s.u.pow.trained && !s.u.pow.deep
    .all [
      .storeLost,
      .upd (.regKeep (warmStays (s.rd .storeFactory == 1))),
      .units (Units.cleared keepMem),
      .units fun u => { u with
        now := 0
        frac := 0
        pow := { power := u.pow.power, latched := true, perstSeen := u.pow.perstSeen, trained := keepMem, memOn := keepMem,
                 straps := straps, pins := straps,
                 flashOk := u.pow.flashOk, failedCh := u.pow.failedCh } },
      .upd (.lose .scratch 0 scratchSize), .when (!keepMem) (.upd (.lose .stack 0 stackSize)), .layoutTake keepMem,
      (match s.u.trust.unlock with
        | some scope => .all [.upd (.lose .stack 0 cairnBase),
            .units fun u => { u with mem := { u.mem with errs := u.mem.errs.filter fun e => cairnBase ≤ 64 * e.1 } }, .reg .debugState 0 scope,
            .units fun u => { u with trust := { u.trust with unlock := none } }]
        | none => .skip),
      .newNonce, .reg .resetCause 0 cause, .countFld .resetCount 0 (4 * counter) 0 32]

/-- A warm reset as one event: it latches the strap pins as they stand (R443, R531; log entry 9). -/
def Act.warmReset (cause counter : Nat) : Act := .get fun s => .seq .warmStop (.warmBegin cause counter s.u.pow.pins)

/-- PERST# is asserted after its first deassertion (R469, R470). -/
def Act.perstAssert : Act := .get fun s => .when (s.u.pow.power && s.u.pow.perstSeen && !s.u.pow.perst) .warmStop

def execPerstAssert (s : State) : Host.Outcome State Fault Refusal := Act.perstAssert.outcome s

/-- PERST# is deasserted: the first time as a part of power-on, then as the start of a warm reset's sequence (R472). -/
def Act.perstDeassert (straps : Nat) (flashOk : Bool) : Act :=
  .get fun s => .when s.u.pow.power (
    if s.u.pow.perst then .seq (.pow fun p => { p with flashOk := flashOk }) (.warmBegin 1 0 straps)
    else .pow fun p => { p with perstSeen := true, pins := straps })

def execPerstDeassert (latch : Latch) (s : State) : Host.Outcome State Fault Refusal :=
  (Act.perstDeassert latch.straps.toNat latch.flashOk).outcome s

/-- The PCIe link goes down or comes up, once PERST# has been deasserted (R420, R472); a cairn's mirror ends with the link (R485). -/
def Act.linkChange (up : Bool) : Act :=
  .get fun s => .when (s.u.pow.power && s.u.pow.perstSeen && !s.u.pow.deep && !s.u.pow.perst) (.all [
    .when (!up) .cairnCut, .pow fun p => { p with linkUp := up }, .raiseSrc 104])

def execPcieLinkChange (up : Bool) (s : State) : Host.Outcome State Fault Refusal := (Act.linkChange up).outcome s

/-- A hot reset on the link (R403). -/
def Act.hotReset : Act := .get fun s => .when (s.u.pow.power && s.u.pow.linkUp) (.warmReset 2 1)

def execPcieHotReset (s : State) : Host.Outcome State Fault Refusal := Act.hotReset.outcome s

/-- WARM_RESET's rule (R470). -/
def ruleWarmReset : Rule := fun _ _ v k => if v = 1 then .seq (k stOk) (.warmReset 3 0) else k stRefused

def execWarmReset (r : Requester) (s : State) : Host.Outcome State Fault Refusal := (Act.entryRow .warmReset ruleWarmReset r 0 1).outcome s

/-! ### Power (R472, R524, R526, R527) -/

/-- What a power loss leaves of the units: the free values, what was sent, dead pins, the host's translations, flash and fuses. -/
def Units.lost (u : Units) (p : PowU) : Units :=
  { free := u.free, outbox := u.outbox, pow := p, mem := { stuck := u.mem.stuck }, host := { atsDeny := u.host.atsDeny }
    trust := { copies := u.trust.copies, active := u.trust.active, svn := u.trust.svn } }

/-- Only FIXED and STORE entries are left, and memory is lost (R442, R524). -/
def Act.powerGone (f : PowU → PowU) : Act :=
  .all [.storeLost, .upd (.regKeep powerStays), .units fun u => u.lost (f u.pow), .upd (.lose .stack 0 stackSize),
    .upd (.lose .scratch 0 scratchSize)]

/-- Power-good rises: only FIXED and STORE entries are left, memory is lost, and the straps are latched. -/
def Act.powerOn (straps : Nat) (flashOk : Bool) : Act :=
  .get fun s => .when (!s.u.pow.power || !s.u.pow.latched) (.all [
    .powerGone fun _ => { latched := true, straps := straps, pins := straps, flashOk := flashOk }, .layoutTake false, .newNonce])

def execPowerOn (latch : Latch) (s : State) : Host.Outcome State Fault Refusal := (Act.powerOn latch.straps.toNat latch.flashOk).outcome s

/-- Power-good falls: nothing runs, and everything is lost that power-on loses. -/
def Act.powerFall : Act := .powerGone fun p => { flashOk := p.flashOk, straps := p.straps, pins := p.pins, power := false }

def execPowerLoss (s : State) : Host.Outcome State Fault Refusal := Act.powerFall.outcome s

/-- Input above 59 V opens the input switch (R524). -/
def execInputOvervoltage (s : State) : Host.Outcome State Fault Refusal := Act.powerFall.outcome s

/-- Channel training ends; channels that failed stay unusable and are reported (R281, R472, R477). -/
def Act.trained (failed : List Nat) : Act :=
  .get fun s =>
    let p := s.u.pow
    .when (p.power && !p.perst && !p.deep && !p.nap && !p.memOn) (
      .seq (.pow fun p => { p with memOn := true, trained := true, failedCh := failed.eraseDups })
        (.each failed.eraseDups fun c => .errEvent (60 + c / 1536) c))

def execMemoryTrainingDone (failed : List (Fin 30720)) (s : State) : Host.Outcome State Fault Refusal :=
  (Act.trained (failed.map Fin.val)).outcome s

/-! ### NAP and DEEP (R463, R464) -/

/-- The device enters DEEP from NAP: flows are told, ports and link go down, VOL entries and memory are lost. -/
def Act.deepEnter : Act :=
  .all [
    .get fun s => .each (s.flowList.filter fun f => s.flowSt f == 2) fun f => .sendAbort f 2,
    .each (List.range 8) fun p => .get fun s => .when (s.portSt p != psDisabled && s.portSt p != psDown) (.portDown p dcReset),
    .storeLost, .upd (.regKeep deepStays), .units (Units.cleared false),
    .pow fun p => { power := p.power, latched := p.latched, perstSeen := p.perstSeen, straps := p.straps, pins := p.pins
                    flashOk := p.flashOk, deep := true },
    .each (List.range 16) .columnLost,
    .upd (.lose .stack 0 stackSize), .upd (.lose .scratch 0 scratchSize), .reg .deviceState 0 3]

/-- NAP entry completes: slot states are saved, columns and memory interfaces are off (R463). Work that has come since the request holds
it off (R82). -/
def Act.napEntered : Act :=
  .get fun s => .when (s.u.pow.napEntering && s.poolHoldsAll (s.holders (List.range 192)) && s.mayNap) (.all [
    .each (List.range 16) .columnDown,
    .pow fun p => { p with napEntering := false, nap := true, memOn := false, napSince := s.now },
    .reg .deviceState 0 2, .count .stateCount 0 2, .when s.u.pow.deepAsked .deepEnter])

def execNapEntryDone (s : State) : Host.Outcome State Fault Refusal := Act.napEntered.outcome s

def execNapWakeEvent (_ : WakeEvent) (s : State) : Host.Outcome State Fault Refusal := Act.napWake.outcome s

/-- DEEP is left by the BMC: the first-second sequence runs again from the boot ROM on, with memory to be trained in full
(R464). -/
def Act.deepLeave : Act :=
  .all [.pow fun p => { p with deep := false, boot := .rom }, .regErase .deviceState 0, .reg .resetCause 0 4, .newNonce]

/-- STATE_REQ's rule: 0 wakes, 2 asks for NAP, 3, by the BMC only, for DEEP; other values are refused (R463, R464, R473). -/
def ruleStateReq : Rule := fun r _ v k =>
  if v = 0 then .seq .napWake (k stOk)
  else if v = 2 then stateReqSleep false k
  else if v = 3 then (if reqClass r = 2 then stateReqSleep true k else k stAccess)
  else k stRefused

/-- In DEEP the island serves the BMC's write of 0 alone (R453). -/
def execStateReqWake (r : Requester) (s : State) : Host.Outcome State Fault Refusal :=
  (Act.get fun s => if s.u.pow.deep then .when (reqClass r == 2) .deepLeave else .entryRow .stateReq ruleStateReq r 0 0).outcome s

def execStateReqNap (r : Requester) (s : State) : Host.Outcome State Fault Refusal := (Act.entryRow .stateReq ruleStateReq r 0 2).outcome s

def execStateReqDeep (r : Requester) (s : State) : Host.Outcome State Fault Refusal := (Act.entryRow .stateReq ruleStateReq r 0 3).outcome s

/-! ### Saddle restart (R471) -/

/-- SADDLE_RESTART's rule. -/
def ruleSaddleRestart : Rule := fun _ _ v k =>
  .get fun s =>
    if v ≠ 1 then k stRefused
    else if s.moltRuns then k stBusy
    else .all [k stOk, .countFld .resetCount 0 8 0 32, .cairnSome, .pow fun p => { p with restarting := true }]

def execSaddleRestart (r : Requester) (s : State) : Host.Outcome State Fault Refusal :=
  (Act.entryRow .saddleRestart ruleSaddleRestart r 0 1).outcome s

/-- The firmware watchdog restarts the saddle; a molt that executes fails as the participant's (R471). -/
def Act.watchdogRestart : Act :=
  .get fun s => .when s.fwRuns (.all [.countFld .resetCount 0 12 0 32, .errEvent 57 0, .moltFail 0 causePeer 0 0 0 0 0 0, .cairnSome,
    .pow fun p => { p with restarting := true }])

def execFirmwareWatchdog (s : State) : Host.Outcome State Fault Refusal := Act.watchdogRestart.outcome s

/-- A second after FATAL without a complete cairn, the saddle restarts, once. -/
def Act.cairnLate : Act :=
  .get fun s => .when (s.u.pow.fatal && s.u.svc.cairn.isSome && !s.u.svc.cairnRetried)
    (.seq (.svc fun v => { v with cairnRetried := true }) .watchdogRestart)

def execCairnTimeout (s : State) : Host.Outcome State Fault Refusal := Act.cairnLate.outcome s

end Sys2Proof.Machine
end

