-- ==== Sys2Proof/Machine/Entries.lean ====
section
/-! DEFINITION. The rule of every writable entry, and the CONFIG lock (R437, R438, R456). -/

namespace Sys2Proof.Machine

/-! ### The CONFIG lock (R437, R438) -/

/-- CFG_LOCK's rule: 1 takes the lock unless another holds it, 0 by the holder releases it. -/
def ruleCfgLock : Rule := fun r _ v k =>
  .get fun s =>
    if 1 < v then k stRefused
    else if s.u.dict.holder.isSome && !s.holds r then k stLocked
    else if v = 1 then .seq (.dict fun d => { d with holder := some r, leaseAt := s.now }) (k stOk)
    else .seq (.dict fun d => { d with holder := none }) (k stOk)

def execCfgLockTake (r : Requester) (s : State) : Host.Outcome State Fault Refusal := (Act.entryRow .cfgLock ruleCfgLock r 0 1).outcome s

def execCfgLockRelease (r : Requester) (s : State) : Host.Outcome State Fault Refusal := (Act.entryRow .cfgLock ruleCfgLock r 0 0).outcome s

/-- The lease lapses: the lock ends and the lapse counts. -/
def execCfgLeaseLapse (s : State) : Host.Outcome State Fault Refusal :=
  (Act.get fun s => .when s.u.dict.holder.isSome (.seq (.dict fun d => { d with holder := none }) (.countFld .cfgLapses 0 0 0 32))).outcome s

/-- STORE_FACTORY's rule (R456). -/
def ruleStoreFactory : Rule := ruleIf .storeFactory fun _ v => v ≤ 1

def execStoreFactory (r : Requester) (v : Byte) (s : State) : Host.Outcome State Fault Refusal :=
  (Act.entryRow .storeFactory ruleStoreFactory r 0 v.toNat).outcome s

/-! ### Every entry's rule -/

/-- A rule that takes any value of the type. -/
def ruleAny (n : EName) : Rule := ruleIf n fun _ _ => true

/-- BUCKET_BOUND's rule: the seven bounds stay strictly increasing (R156). -/
def ruleBucketBound : Rule := fun r i v k =>
  ruleIf .bucketBound (fun s v => (i == 0 || s.rd .bucketBound (i - 1) < v) && (i == 6 || v < s.rd .bucketBound (i + 1))) r i v k

/-- VC_WEIGHT's rule: no weight of 0 in the bytes of VC 1 to 6 (R298, R332). -/
def ruleVcWeight : Rule := ruleIf .vcWeight fun _ v => [1, 2, 3, 4, 5, 6].all fun c => bits v (8 * c) 8 != 0

/-- The rule of an entry. An entry that is read only has none. -/
def EName.rule (n : EName) : Rule :=
  match n with
  | .phaseGating => rulePhaseGating
  | .monClear => ruleMonClear
  | .ringBase => ruleRingBase
  | .ringSize => ruleRingSize
  | .readIndex => ruleReadIndex
  | .recordEnable => ruleRecordEnable
  | .accSplit => ruleAccSplit
  | .pepperSeed => rulePepperSeed
  | .cmdWatchdog => ruleCmdWatchdog
  | .tarnUnits => ruleTarnUnits
  | .bucketBound => ruleBucketBound
  | .sessionDesc => ruleSessionDesc
  | .stepRead => ruleStepRead
  | .screeMib => ruleScreeMib
  | .gbankMib => ruleGbankMib
  | .screeDiscard => ruleScreeDiscard
  | .splitGrad => ruleSplitGrad
  | .lbrStream => ruleLbrStream
  | .spillMib => ruleSpillMib
  | .patrolHours => rulePatrolHours
  | .partition => rulePartition
  | .eraseList => ruleEraseList
  | .lbCtrl => ruleLbCtrl
  | .lbTimeUs => ruleLbTime
  | .reorderMib => ruleIf .reorderMib fun _ v => 8 ≤ v && v ≤ 512
  | .portEnable => rulePortEnable
  | .portReset => rulePortReset
  | .peerExpect => rulePeerExpect
  | .vcWeight => ruleVcWeight
  | .flowCfg => ruleFlowCfg
  | .collGroup => ruleCollGroup
  | .moltStart => ruleMoltStart
  | .moltResolve => ruleMoltResolve
  | .scrubMinutes => ruleScrubMinutes
  | .repairSrc => ruleRepairSrc
  | .versionRelease => ruleVersionRelease
  | .sliceUs => ruleSliceUs
  | .tidOwner => ruleTidOwner
  | .ctxAdmin => ruleCtxAdmin
  | .ptRoot => rulePtRoot
  | .ctxReset => ruleCtxReset
  | .ptInvalidate => rulePtInvalidate
  | .queueCfg => ruleQueueCfg
  | .mbxCfg => ruleMbxCfg
  | .mbxTimeoutMs => ruleMbxTimeoutMs
  | .eventVec => ruleEventVec
  | .apertureBase => ruleApertureBase
  | .policyLoad => rulePolicyLoad
  | .cfgLock => ruleCfgLock
  | .cfgLeaseS => ruleIf .cfgLeaseS fun _ v => 1 ≤ v && v ≤ 3600
  | .storeFactory => ruleStoreFactory
  | .stateReq => ruleStateReq
  | .columnOffUs => ruleColumnOffUs
  | .sustainW => ruleSustainW
  | .peakW => rulePeakW
  | .clockMaxMhz => ruleClockMax
  | .warmReset => ruleWarmReset
  | .saddleRestart => ruleSaddleRestart
  | .errwinCfg => ruleErrwinCfg
  | .errwinClear => ruleErrwinClear
  | .evtRing => ruleEvtRing
  | .cairnHost => ruleCairnHost
  | .drainMs => ruleIf .drainMs fun _ v => 100 ≤ v && v ≤ 60000
  | .serviceCancel => ruleServiceCancel
  | .fwSvnCommit => ruleFwSvnCommit
  | .fwUpdate => ruleFwUpdate
  | .fwChunk => ruleFwChunk
  | .keySlot => ruleKeySlot
  | .enrollFreeze => ruleEnrollFreeze
  | .debugUnlock => ruleDebugUnlock
  | .debugRelock => ruleDebugRelock
  | n => if n.writable then ruleAny n else fun _ _ _ k => k stDirection

/-- A whole write of an entry (R446): the checks in order, then the entry's rule. -/
def Act.entryWrite (r : Requester) (index sub : Nat) (data : List Byte) : Act :=
  .seq (.asks r (index * 256 + sub)) <| .get fun s => (
    if !s.served r then .countReq stBusy
    else if 0xF000 ≤ index ∧ reqClass r ≠ 4 then .countReq stAccess
    else match findEntry index sub with
      | none => .countReq stNoEntry
      | some (n, i) =>
        if s.wrGuard r n i ≠ stOk then .countReq (s.wrGuard r n i)
        else if data.length ≠ n.info.size then .countReq stLength
        else .applyWrite n n.rule r i (leNat data) .countReq)

def execEntryWrite (r : Requester) (index : BitVec 16) (sub : Byte) (data : List Byte) (s : State) : Host.Outcome State Fault Refusal :=
  (Act.entryWrite r index.toNat sub.toNat data).outcome s

end Sys2Proof.Machine
end

