-- ==== Sys2Proof/Machine/Kwehus.lean ====
section
/-! DEFINITION. Kwehus over its paths (R444 to R453), the window at BAR0 with its access port (R454, R455), the commit of STORE
writes (R440), MCTP control (R451), and the fabric's messages as they reach the dictionary (R300, R452). -/

namespace Sys2Proof.Machine

/-! ### PDUs (R444) -/

def pduOp (p : Pdu) : Nat := bits p.w0.toNat 8 7
def pduTag (p : Pdu) : Nat := bits p.w0.toNat 16 8
def pduKey (p : Pdu) : Nat := bits p.w0.toNat 32 16 * 256 + bits p.w0.toNat 48 8
def pduFinal (p : Pdu) : Bool := bit p.w0.toNat 56
def pduOff (p : Pdu) : Nat := bits p.w1.toNat 0 32
def pduLen (p : Pdu) : Nat := bits p.w1.toNat 32 8

/-- Operations of R444. -/
def opRead : Nat := 1
def opWrite : Nat := 2
def opInfo : Nat := 3
def opNext : Nat := 4

/-- The operation is one of the four. -/
def opKnown (op : Nat) : Bool := 1 ≤ op && op ≤ 4

def pduBytes (p : Pdu) : List Byte := leBytes 8 p.w0.toNat ++ leBytes 8 p.w1.toNat ++ p.data

def pduOf (bs : List Byte) : Pdu :=
  { w0 := BitVec.ofNat 64 (leNat (bs.take 8)), w1 := BitVec.ofNat 64 (leNat ((bs.drop 8).take 8)), data := bs.drop 16 }

/-- MCTP_PEN's value: the IANA enterprise number of Kwehus messages (R451, R456). -/
def kwPen : Nat := 236113

/-- The body of an MCTP message of Kwehus: type 0x7F with IC 0, the enterprise number, most significant byte first, and the PDU (R451). -/
def kwBody (p : Pdu) : List Byte := 0x7F#8 :: (leBytes 4 kwPen).reverse ++ pduBytes p

/-- The PDU of such a body, where it is one (R451). -/
def kwOfBody (body : List Byte) : Option Pdu :=
  if body.take 5 = 0x7F#8 :: (leBytes 4 kwPen).reverse ∧ 21 ≤ body.length then some (pduOf (body.drop 5)) else none

/-- The header is well formed (check 2 of R446), the message's body is no longer than 245 bytes, which is 224 bytes of data (R444, R451),
and a WRITE carries the bytes that LENGTH gives. -/
def pduGood (p : Pdu) : Bool :=
  bits p.w0.toNat 0 8 == 1 && !bit p.w0.toNat 15 && bits p.w0.toNat 24 8 == 0 && bits p.w0.toNat 57 7 == 0 && bits p.w1.toNat 40 24 == 0 &&
    opKnown (pduOp p) && pduLen p ≤ 224 && (kwBody p).length ≤ 245 && (pduOp p != opWrite || p.data.length == pduLen p)

/-- The response to a request: OP, TAG, INDEX, SUB, FINAL and OFFSET are echoed; NEXT names another address. -/
def pduResp (p : Pdu) (st : Nat) (data : List Byte) (key : Nat) : Pdu :=
  { w0 := BitVec.ofNat 64 (1 + pduOp p * 2 ^ 8 + 2 ^ 15 + pduTag p * 2 ^ 16 + st * 2 ^ 24 + key / 256 * 2 ^ 32 + key % 256 * 2 ^ 48 +
      b2n (pduFinal p) * 2 ^ 56)
    w1 := BitVec.ofNat 64 (pduOff p + data.length * 2 ^ 32)
    data := data }

/-! ### The mailbox path (R415, R450) -/

/-- The firmware answers a message with this header here: it asks for Kwehus, under a reserved PROTO, or breaks the table of R415. What
other services answer the spec does not say. -/
def mailAsks (h : Nat) : Bool := bits h 0 8 == 1 || !([2, 3].contains (bits h 0 8) || 0x80 ≤ bits h 0 8) || mailBroken h

/-- The header of a request keeps the table of R415, and its payload holds a whole Kwehus header. -/
def mailHdrGood (h : Nat) : Bool := bits h 0 8 == 1 && zeroBits h [(8, 8), (24, 8), (48, 16)] && 16 ≤ bits h 32 8 && bits h 32 8 ≤ 240

/-- The PDU that fills the payload. -/
def mailPdu (x : Mbx) : Pdu := pduOf (leBytes (max 16 (min 240 (bits (mailHdr x) 32 8))) (x.msg / 2 ^ 128))

/-- The channel that holds this request of a host function: posted by the function, for the firmware to answer, on a channel that the
firmware serves itself. -/
def State.mailOf (s : State) (r : Requester) (p : Pdu) : Option Nat :=
  match reqFn r with
  | none => none
  | some fn => (List.range 64).find? fun c =>
      let x := s.mbx c
      s.fld .mbxCfg c 0 0 1 == 1 && s.fld .mbxCfg c 0 28 1 == 0 && s.mbxFn c == fn && x.state == 2 && x.poster == 0 &&
        mailAsks (mailHdr x) && mailPdu x == p

/-- OP and TAG of a PDU, by which an answer finds its request. -/
def mailSig (p : Pdu) : Nat := bits p.w0.toNat 8 7 * 2 ^ 8 + bits p.w0.toNat 16 8

/-- The answer to a request that came by a mailbox channel is posted there. The mailbox header's LENGTH is 16 and the data, its STATUS is
0: the outcome lies in the Kwehus STATUS alone (R450). -/
def Act.mailAnswer (r : Requester) (p : Pdu) : Act :=
  .get fun s => match s.u.host.mail.find? fun e => some e.1 == reqFn r && e.2.1 == mailSig p with
    | none => .skip
    | some e => .seq (.host fun h => { h with mail := h.mail.erase e }) (.mailPut e.2.2.1 (mailResp 1 e.2.2.2 0 (pduBytes p)))

/-- An answer goes back on the path of its requester (R450 to R452). -/
def Act.answerOut : Out → Act
  | .answer (.bmc e) p => .seq (.out (.answer (.bmc e) p)) (.out (.mctpBody e.toNat (kwBody p)))
  | .answer (.peer a) p => .sendMsg 0 { dest := a, type := 12, data := (pduBytes p).map fun b => (b, false) }
  | .answer r p => .seq (.out (.answer r p)) (.mailAnswer r p)
  | o => .out o

/-- A request is answered and counted (R456). -/
def Act.answer (r : Requester) (p : Pdu) (st : Nat) (data : List Byte := []) (key : Nat := pduKey p) : Act :=
  .seq (.get fun s => .when (!s.u.pow.deep) (.countReq st)) (.answerOut (.answer r (pduResp p st data key)))

/-! ### What one identity has (R447, R448) -/

def execStagingLapse (r : Requester) (s : State) : Host.Outcome State Fault Refusal := (Act.stageDrop r).outcome s

/-- The answers still kept: the last 16 of the last 100 ms. -/
def State.kept (s : State) (r : Requester) : List (Nat × Nat × Nat × Nat × Nat) :=
  let l := (s.did r).kept.filter fun e => s.now < e.2.2.2.2 + 10 ^ 8
  l.drop (l.length - 16)

/-- The kept status of the same WRITE. -/
def State.keptFor (s : State) (r : Requester) (p : Pdu) : Option Nat :=
  ((s.kept r).find? fun e => e.1 == pduTag p && e.2.1 == pduKey p && e.2.2.1 == pduOff p).map fun e => e.2.2.2.1

/-! ### Reads, descriptions and browsing (R445, R447) -/

/-- A requester can read or write the entry (R445, log entry 53). -/
def State.reaches (s : State) (r : Requester) (n : EName) (i : Nat) : Bool :=
  (n.readable && s.mayRead r n i) || (n.writable && s.mayWrite r n i)

/-- A STR or BLOB is read and written in parts (R447). -/
def EName.whole (n : EName) : Bool := n.info.ty == .str || n.info.ty == .blob

/-- What the island serves: FIXED, STRAP and KEEP entries (R453). -/
def EName.island (n : EName) : Bool := n.info.pers == .fixed || n.info.pers == .strap || n.info.pers == .keep

/-- The access code of R445. -/
def EAcc.code : EAcc → Nat
  | .ro => 0 | .rw => 1 | .wo => 2 | .rwl => 3

/-- The persistence code of R445. -/
def EPers.code : EPers → Nat
  | .fixed => 0 | .strap => 1 | .keep => 2 | .store => 3 | .vol => 4

/-- The 16 bytes of INFO; a right in a direction that the access code forbids is not shown. -/
def EName.infoBytes (n : EName) : List Byte :=
  let e := n.info
  [BitVec.ofNat 8 e.ty.code, BitVec.ofNat 8 e.acc.code, BitVec.ofNat 8 e.pers.code, BitVec.ofNat 8 e.origin] ++ leBytes 2 e.size ++
    [BitVec.ofNat 8 (if n.readable then e.rd else 0), BitVec.ofNat 8 (if n.writable then e.wr else 0)] ++ List.replicate 8 0

/-- The first address above one that the requester reaches. -/
def State.nextFor (s : State) (r : Requester) (ok : EName → Bool) : Nat → Nat → Option Nat
  | 0, _ => none
  | fuel + 1, a => match addrAbove a with
    | none => none
    | some b => match findKey b with
      | none => none
      | some (n, i) => if ok n && s.reaches r n i then some b else s.nextFor r ok fuel b

/-- Checks 3 to 5 of a read at an address, then the entry (R431, R446). -/
def State.readAt (s : State) (r : Requester) (key : Nat) (k : EName → Nat → Nat × List Byte) : Nat × List Byte :=
  if 0xF00000 ≤ key ∧ reqClass r ≠ 4 then (stAccess, []) else
  match findKey key with
  | none => (stNoEntry, [])
  | some (n, i) => if s.rdGuard r n i ≠ stOk then (s.rdGuard r n i, []) else k n i

/-- What a READ of a PDU gives: a scalar whole, a STR or BLOB in part from this moment or from a snapshot of the last second. -/
def State.readPdu (s : State) (r : Requester) (p : Pdu) (n : EName) (i : Nat) : Nat × List Byte :=
  let size := n.info.size
  if !n.whole then (if pduOff p ≠ 0 ∨ pduLen p < size then (stLength, []) else (stOk, s.valueBytes n i))
  else if size ≤ pduOff p then (stLength, [])
  else if pduOff p = 0 then (stOk, (s.valueBytes n i).take (pduLen p))
  else match tget (s.did r).snaps (pduKey p) with
    | none => (stStale, [])
    | some (t, bs) => if s.now < t + 10 ^ 9 then (stOk, (bs.drop (pduOff p)).take (pduLen p)) else (stStale, [])

/-- READ. A read at OFFSET 0 of a STR or BLOB takes the snapshot. -/
def Act.kwRead (r : Requester) (p : Pdu) : Act :=
  .get fun s =>
    let x := s.readAt r (pduKey p) (s.readPdu r p)
    .seq (match findKey (pduKey p) with
      | some (n, i) => .when (x.1 == stOk && n.whole && pduOff p == 0)
          (.did r fun d => { d with snaps := tset d.snaps (pduKey p) (s.now, s.valueBytes n i) })
      | none => .skip) (.answer r p x.1 x.2)

/-- INFO (R445, R446). -/
def State.infoOf (s : State) (r : Requester) (key : Nat) : Nat × List Byte :=
  if 0xF00000 ≤ key ∧ reqClass r ≠ 4 then (stAccess, []) else
  match findKey key with
  | none => (stNoEntry, [])
  | some (n, i) => if s.hasRight r n i then (stOk, n.infoBytes) else (stAccess, [])

def Act.kwInfo (r : Requester) (p : Pdu) : Act :=
  .get fun s => .answer r p (s.infoOf r (pduKey p)).1 (s.infoOf r (pduKey p)).2

/-- NEXT. -/
def Act.kwNext (r : Requester) (p : Pdu) (ok : EName → Bool := fun _ => true) : Act :=
  .get fun s => match s.nextFor r ok addrFuel (pduKey p) with
    | some a => .answer r p stOk [] a
    | none => .answer r p stNoEntry

/-! ### Writes (R446 to R448) -/

/-- The last STORE write waits for flash, and so does what is told of it. -/
def Act.dueLast (f : StoreDue → StoreDue) : Act :=
  .dict fun d => { d with storeDue := match d.storeDue.reverse with
    | [] => []
    | x :: rest => (f x :: rest).reverse }

/-- A WRITE has its outcome: the answer is kept where R448 keeps it, and it waits for flash where a STORE entry took the value. -/
def Act.writeDone (r : Requester) (p : Pdu) (store final : Bool) (st : Nat) : Act :=
  .get fun s => .seq
    (.when (st == stOk || (st != stBusy && !final)) (.did r fun d =>
      let l := s.kept r ++ [(pduTag p, pduKey p, pduOff p, st, s.now)]
      { d with kept := l.drop (l.length - 16) }))
    (if store && st == stOk then
      .seq (.countReq st) (.dueLast fun x => { x with answers := x.answers ++ [.answer r (pduResp p st [] (pduKey p))] })
    else .answer r p st)

/-- Checks 3 to 6 of a WRITE at an address, then the entry. -/
def State.writeAt (s : State) (r : Requester) (key : Nat) : Nat ⊕ (EName × Nat) :=
  if 0xF00000 ≤ key ∧ reqClass r ≠ 4 then .inl stAccess else
  match findKey key with
  | none => .inl stNoEntry
  | some (n, i) => if s.wrGuard r n i ≠ stOk then .inl (s.wrGuard r n i) else .inr (n, i)

/-- A STR or BLOB is at the address, or nothing: what is no scalar has parts without FINAL (R447, R448). -/
def keyWhole (key : Nat) : Bool :=
  match findKey key with
  | some e => e.1.whole
  | none => true

/-- A scalar is written whole; a STR or BLOB in parts, the last of which applies it (R447). -/
def Act.kwWritePart (r : Requester) (p : Pdu) (n : EName) (i : Nat) : Act :=
  let store := n.info.pers == .store
  if !n.whole then
    if pduOff p ≠ 0 ∨ pduLen p ≠ n.info.size then .writeDone r p store true stLength
    else if !pduFinal p then .writeDone r p store true stMalformed
    else .applyWrite n n.rule r i (leNat p.data) (.writeDone r p store true)
  else .get fun s =>
    let d := s.did r
    let staged := if pduOff p = 0 then [] else d.stData
    if n.info.size < pduOff p + pduLen p then .seq (.stageDrop r) (.writeDone r p store (pduFinal p) stLength)
    else if pduOff p ≠ 0 ∧ (d.stKey ≠ some (pduKey p) ∨ d.stData.length ≠ pduOff p) then
      .seq (.stageDrop r) (.writeDone r p store (pduFinal p) stMalformed)
    else
      let all := staged ++ p.data
      .seq (.when (pduOff p == 0) (.stageDrop r)) (
        if !pduFinal p then .seq (.did r fun d => { d with stKey := some (pduKey p), stData := all }) (.writeDone r p false false stOk)
        else if all.length ≠ n.info.size then
          .all [.did r fun d => { d with stKey := some (pduKey p) }, .stageDrop r, .writeDone r p store true stMalformed]
        else .seq (.did r fun d => { d with stKey := none, stData := [] })
          (.applyWrite n n.rule r i (leNat all) (.writeDone r p store true)))

/-- An answer that waits goes out once more. -/
def StoreDue.answerAgain (o : Out) (x : StoreDue) : StoreDue := if x.answers.contains o then { x with answers := x.answers ++ [o] } else x

/-- WRITE: a kept answer is returned and nothing applied (R448). An answer that flash still holds up is returned with it. -/
def Act.kwWrite (r : Requester) (p : Pdu) : Act :=
  .get fun s =>
    let again := Out.answer r (pduResp p stOk [] (pduKey p))
    match s.keptFor r p with
    | some st => .seq (.count .dictCount 0 3) (
        if s.u.dict.storeDue.any (fun x => x.answers.contains again) then
          .seq (.countReq st) (.dict fun d => { d with storeDue := d.storeDue.map (StoreDue.answerAgain again) })
        else .answer r p st)
    | none => match s.writeAt r (pduKey p) with
      | .inl st => .writeDone r p false (pduFinal p || !keyWhole (pduKey p)) st
      | .inr e => .kwWritePart r p e.1 e.2

/-! ### The server (R446, R453) -/

/-- The boot ROM takes an image over this request (R453, R501). -/
def State.romTakes (s : State) (r : Requester) (key : Nat) : Bool := s.romServes r && key == EName.fwChunk.key 0

/-- The island alone answers, on MCTP. -/
def Act.island (p : Pdu) (r : Requester) : Act :=
  .get fun s =>
    let key := pduKey p
    let busy : Act := .answer r p stBusy
    let extra (n : EName) : Bool := (s.u.pow.deep && n == .deviceState) || (s.u.pow.fatal && n == .fatalState)
    if !pduGood p then busy
    else if pduOp p = opWrite ∧ s.romTakes r key = true then .kwWrite r p
    else if pduOp p = opWrite ∧ s.u.pow.deep = true ∧ key = EName.stateReq.key 0 ∧ p.data = [0#8] ∧ pduFinal p = true ∧ pduOff p = 0 then
      .seq .deepLeave (.answer r p stOk)
    else if pduOp p = opNext then .kwNext r p EName.island
    else match findKey key with
      | some (n, _) =>
        if pduOp p = opRead ∧ (n.island || extra n) = true then .kwRead r p
        else if pduOp p = opInfo ∧ n.island = true then .kwInfo r p
        else busy
      | none => busy

/-- A request that arrives on a path the requester has: host functions from READY, the management path from 20 ms after
power-good, control cores, and peers once a port has come UP (R434, R453). -/
def State.pathOpen (s : State) (r : Requester) : Bool :=
  match r with
  | .bmc _ => s.u.pow.power && s.u.pow.latched
  | .firmware _ => s.fwRuns
  | .peer _ => s.colOn && s.u.wasUp
  | _ => s.hostReach && !s.u.pow.perst

/-- One Kwehus request. Every PEER request is refused while PEER_DICT is 0
(R326, R436). -/
def Act.kwRequest (r : Requester) (p : Pdu) : Act :=
  .get fun s => .when (s.pathOpen r) (.all [
    .asks r (pduKey p),
    .when (reqClass r == 2) (.raiseSrc 109),
    if !s.fwRuns then (if reqClass r = 2 then .island p r else .answer r p stBusy)
    else if !pduGood p then .answer r p stMalformed
    else if reqClass r = 3 ∧ s.rd .peerDict = 0 then .answer r p stAccess
    else if pduOp p = opRead then .kwRead r p
    else if pduOp p = opWrite then .kwWrite r p
    else if pduOp p = opInfo then .kwInfo r p
    else .kwNext r p])

/-- A request that a mailbox channel holds is taken from it by the firmware, and answered there. One whose mailbox header breaks R415 is
answered MALFORMED (R415, R450; log entry 107). -/
def Act.kwArrive (r : Requester) (p : Pdu) : Act :=
  .get fun s => match s.mailOf r p with
    | none => .kwRequest r p
    | some c => .when (s.pathOpen r && s.fwRuns) (
        let h := mailHdr (s.mbx c)
        .seq (.mbxTo c (s.mbx c).emptied) (
          if mailHdrGood h then .seq
            (.host fun x => { x with mail := x.mail ++ [(s.mbxFn c, mailSig p, c, bits h 16 8)] }) (.kwRequest r p)
          else .mailPut c (mailResp (bits h 0 8) (bits h 16 8) 3 [])))

/-- The row of one operation; a PDU whose OP is none of the four is answered by any of them. -/
def Act.kwRow (op : Nat) (r : Requester) (p : Pdu) : Act := .when (pduOp p == op || !opKnown (pduOp p)) (.kwArrive r p)

def execRead (r : Requester) (p : Pdu) (s : State) : Host.Outcome State Fault Refusal := (Act.kwRow opRead r p).outcome s
def execWrite (r : Requester) (p : Pdu) (s : State) : Host.Outcome State Fault Refusal := (Act.kwRow opWrite r p).outcome s
def execInfo (r : Requester) (p : Pdu) (s : State) : Host.Outcome State Fault Refusal := (Act.kwRow opInfo r p).outcome s
def execNext (r : Requester) (p : Pdu) (s : State) : Host.Outcome State Fault Refusal := (Act.kwRow opNext r p).outcome s

/-- The module flash holds the oldest STORE write: its answers go out and its port's operation ends (R440). -/
def Act.flashHolds : Act :=
  .get fun s => match s.u.dict.storeDue with
    | [] => .skip
    | x :: rest => .all [.dict fun d => { d with
          storeDue := rest
          ports := match x.port with
            | some fn => tmod d.ports fn {} fun q => { q with pending := false }
            | none => d.ports },
        .lifeCount .storeWrites, .each x.answers .answerOut]

def execStoreWriteCommitted (s : State) : Host.Outcome State Fault Refusal := Act.flashHolds.outcome s

/-! ### Kwehus on the fabric (R452) -/

/-- A dictionary message has come: a request from a peer, or the answer to a request of the firmware. -/
def Act.kwMsg (m : Msg) : Act :=
  let p := pduOf (dataOf m.data)
  .seq (.raiseSrc 108) (
    if bit p.w0.toNat 15 then .dict fun d => { d with sent := d.sent.filter fun e => e.1 != pduTag p }
    else .kwRequest (.peer m.src) p)

def execKwehus (m : Msg) (s : State) : Host.Outcome State Fault Refusal :=
  (Act.get fun s => .when (s.colOn && s.u.wasUp && m.type.toNat == 12) (.route none 0 m (.arrive .kwMsg))).outcome s

/-- A message in the col is routed. A request of this device's own firmware is remembered until it is answered (R300, R452). -/
def Act.routeRow (m : Msg) : Act :=
  .get fun s => .when s.colOn (.seq
    (.when (m.type.toNat == 12 && m.src.toNat == s.fabric && !bit (pduOf (dataOf m.data)).w0.toNat 15 && s.fwRuns)
      (let tag := pduTag (pduOf (dataOf m.data))
       .dict fun d => { d with sent := (d.sent.filter fun e => e.1 != tag) ++ [(tag, 0, m)] }))
    (.route none (vcOf 1 m.type.toNat) m (.arrive .kwMsg)))

def execMessageRoute (m : Msg) (s : State) : Host.Outcome State Fault Refusal := (Act.routeRow m).outcome s

def execDataFlit (port : Fin 8) (f : Flit) (s : State) : Host.Outcome State Fault Refusal :=
  (Act.portRow (.seq (.flitIn port.val f (.arrive .kwMsg)) .deliverHeld)).outcome s

/-- A request of the firmware without an answer is sent again, up to 8 times. -/
def Act.resendReq (tag : Nat) : Act :=
  .get fun s => match s.u.dict.sent.find? fun e => e.1 == tag with
    | none => .skip
    | some e => .when (s.fwRuns && e.2.1 < 8) (.seq
        (.dict fun d => { d with sent := d.sent.map fun x => if x.1 = tag then (x.1, x.2.1 + 1, x.2.2) else x })
        (.sendMsg 0 e.2.2))

def execKwehusResend (tag : Byte) (s : State) : Host.Outcome State Fault Refusal := (Act.resendReq tag.toNat).outcome s

/-! ### The window (R454, R455) -/

/-- The requester of a function's window. -/
def hostReq (fn : Fin 32) : Requester := if fn.val = 0 then .hostPf else .hostVf fn

def State.aport (s : State) (fn : Nat) : APort := tgetD s.u.dict.ports fn {}

def Act.aport (fn : Nat) (f : APort → APort) : Act := .dict fun d => { d with ports := tmod d.ports fn {} f }

/-- A refused access of the window. -/
def Act.winError (fn key st : Nat) : Act :=
  .seq (.aport fn fun q => { q with errors := min (q.errors + 1) (2 ^ 32 - 1), lastIndex := key / 256, lastSub := key % 256, lastStatus := st })
    (.count .dictCount 0 5)

/-- The window is reached by its function; with STRAP_BOOT 01 the PF's port is, before READY (R453). -/
def State.winOpen (s : State) (fn : Fin 32) : Bool :=
  (s.hostReach || (s.romServes (hostReq fn) && s.u.pow.linkUp)) && !s.u.pow.perst && !s.u.host.flr.contains fn.val

/-- An access of the window ends with a status. -/
def Act.winDone (fn key st : Nat) : Act := .seq (.countReq st) (.when (st != stOk) (.winError fn key st))

/-- A byte of the access port's registers and buffer (R455). -/
def portByte (q : APort) (off : Nat) : Byte :=
  if 0x1000 ≤ off then (q.buf[off - 0x1000]?).getD 0 else
  let w := match off / 4 with
    | 0 => q.index + q.sub * 2 ^ 16
    | 2 => q.status + b2n q.pending * 2 ^ 8
    | 3 => q.size
    | 4 => q.errors
    | 5 => q.lastIndex + q.lastSub * 2 ^ 16 + q.lastStatus * 2 ^ 24
    | _ => 0
  BitVec.ofNat 8 (w / 2 ^ (8 * (off % 4)))

/-- Bytes of the buffer replaced. -/
def bufSet (buf : List Byte) (off : Nat) (bs : List Byte) : List Byte :=
  let full := buf ++ List.replicate (16384 - buf.length) 0
  (full.take off ++ bs ++ full.drop (off + bs.length)).take 16384

/-- An operation of the access port ends. -/
def Act.portDone (fn key : Nat) (store : Bool) (st : Nat) : Act :=
  .all [.aport fn fun q => { q with status := st, pending := store && st == stOk },
    .when (store && st == stOk) (.dueLast fun x => { x with port := some fn }), .winDone fn key st]

/-- One operation of a function's access port on the entry it names (R455). -/
def Act.portOp (fn : Fin 32) (op : Nat) : Act :=
  .get fun s =>
    let r := hostReq fn
    let q := s.aport fn.val
    let key := q.index * 256 + q.sub
    let done := Act.portDone fn.val key
    .seq (.asks r key) <|
    if q.pending then .winError fn.val key stBusy
    else if s.romTakes r key && op == opWrite then ruleFwChunk r 0 (leNat (q.buf.take 16384)) (done false)
    else if !s.served r then done false stBusy
    else if op = opRead then
      let x := s.readAt r key fun n i => (stOk, s.valueBytes n i)
      .seq (.when (x.1 == stOk) (.aport fn.val fun q => { q with buf := bufSet q.buf 0 x.2, size := x.2.length })) (done false x.1)
    else if op = opWrite then
      match s.writeAt r key with
      | .inl st => done false st
      | .inr (n, i) => .applyWrite n n.rule r i (leNat (q.buf.take n.info.size)) (done (n.info.pers == .store))
    else if op = opInfo then
      let x := s.infoOf r key
      .seq (.when (x.1 == stOk) (.aport fn.val fun q =>
        { q with buf := bufSet q.buf 0 x.2, size := leNat ((x.2.drop 4).take 2) })) (done false x.1)
    else match s.nextFor r (fun _ => true) addrFuel key with
      | some a => .seq (.aport fn.val fun q => { q with index := a / 256, sub := a % 256 }) (done false stOk)
      | none => done false stNoEntry

/-- The row of one operation of the port. -/
def Act.portRun (fn : Fin 32) (op : Nat) : Act := .get fun s => .when (s.winOpen fn) (.portOp fn op)

def execAccessPortRead (fn : Fin 32) (s : State) : Host.Outcome State Fault Refusal := (Act.portRun fn opRead).outcome s
def execAccessPortWrite (fn : Fin 32) (s : State) : Host.Outcome State Fault Refusal := (Act.portRun fn opWrite).outcome s
def execAccessPortInfo (fn : Fin 32) (s : State) : Host.Outcome State Fault Refusal := (Act.portRun fn opInfo).outcome s
def execAccessPortNext (fn : Fin 32) (s : State) : Host.Outcome State Fault Refusal := (Act.portRun fn opNext).outcome s

/-- Bytes are written to the port's registers and buffer; one that covers OP starts the operation. -/
def Act.portWrite (fn : Fin 32) (off : Nat) (data : List Byte) : Act :=
  .get fun s =>
    let q := s.aport fn.val
    if q.pending then .winError fn.val (q.index * 256 + q.sub) stBusy else
    let at_ (a : Nat) : Option Byte := if off ≤ a then data[a - off]? else none
    let byteOr (a old : Nat) : Nat := match at_ a with | some b => b.toNat | none => old
    .seq (.aport fn.val fun q => { q with
        index := byteOr 0 (q.index % 256) + byteOr 1 (q.index / 256) * 256
        sub := byteOr 2 q.sub
        buf := if 0x1000 < off + data.length then bufSet q.buf (off - 0x1000) (data.drop (0x1000 - off)) else q.buf })
      (match at_ 4 with
        | some b => .when (opKnown (b.toNat % 8)) (.portOp fn (b.toNat % 8))
        | none => .skip)

/-- A write of a direct slot (R454). -/
def Act.slotWrite (fn : Fin 32) (off : Nat) (data : List Byte) : Act :=
  .get fun s =>
    let r := hostReq fn
    let key := off / 128 * 256 + off % 128 / 8
    let done := Act.winDone fn.val key
    .seq (.asks r key) <| if !s.served r then done stBusy else
    match s.writeAt r key with
    | .inl st => done st
    | .inr (n, i) =>
      if n.whole || off % 8 != 0 || data.length < n.info.size || (data.drop n.info.size).any (· != 0) then done stLength
      else .applyWrite n n.rule r i (leNat (data.take n.info.size)) done

/-- First offset of the direct slots: index 0x1000. -/
def slotBase : Nat := 0x1000 * 128

def execWindowSlotWrite (fn : Fin 32) (off : BitVec 23) (data : List Byte) (s : State) : Host.Outcome State Fault Refusal :=
  (Act.get fun s => .when (s.winOpen fn) (.seq (.renew (hostReq fn))
    (if off.toNat < slotBase then .portWrite fn off.toNat data else .slotWrite fn off.toNat data))).outcome s

/-- What a read of a direct slot gives, from an offset on: the scalar in its low bytes and zeros. -/
def State.slotRead (s : State) (r : Requester) (key : Nat) : Nat × List Byte :=
  s.readAt r key fun n i => if n.whole then (stLength, []) else (stOk, s.valueBytes n i)

/-- A read of the window returns up to the 8 bytes of a slot. -/
def Act.winRead (fn : Fin 32) (off : Nat) : Act :=
  .get fun s =>
    let r := hostReq fn
    let q := s.aport fn.val
    .when (s.winOpen fn) (.seq (.renew r) (
      if off < slotBase then
        .out (.read ((List.range (8 - off % 8)).map fun i => (if off + i < 0x5000 then portByte q (off + i) else 0, false)))
      else
        let key := off / 128 * 256 + off % 128 / 8
        let x := if s.served r then s.slotRead r key else (stBusy, [])
        .all [.asks r key, .winDone fn.val key x.1,
          .out (.read (((x.2 ++ List.replicate (8 - x.2.length) 0).drop (off % 8)).map fun b => (b, false)))]))

/-- A function reads bytes of BAR0 outside the dictionary window, or of BAR2 (R404, R405, R407). -/
def Act.barRead (byte : Nat → Nat) (off len : Nat) : Act :=
  .get fun s => .when (s.u.pow.power && s.u.pow.linkUp && !s.u.pow.perst)
    (.out (.read ((List.range len).map fun i => (BitVec.ofNat 8 (byte (off + i)), false))))

def execWindowSlotRead (fn : Fin 32) (what : FnRead) (s : State) : Host.Outcome State Fault Refusal :=
  (match what with
    | .window off => Act.winRead fn off.toNat
    | .bar0 off len => Act.barRead (s.bar0Byte fn) off.toNat len.val
    | .bar2 off len => Act.barRead (s.bar2Byte fn) off.toNat len.val).outcome s

/-! ### MCTP control (R451) -/

/-- The MCTP endpoint answers a control command. -/
def Act.mctp (code : Nat) (data : List Nat) : Act :=
  .get fun s => .when (s.pathOpen (.bmc 0)) (.seq (.raiseSrc 109) (.out (.mctp code data)))

/-- Set Endpoint ID: 0 and 255 name no endpoint (log entry 47). The answer says which ID is in force. -/
def execSetEndpointId (eid : Byte) (s : State) : Host.Outcome State Fault Refusal :=
  (if eid = 0 ∨ eid = 255 then Act.mctp 1 [2]
    else .seq (.get fun s => .when (s.pathOpen (.bmc 0)) (.reg .mctpEid 0 eid.toNat)) (.mctp 1 [0, 0, eid.toNat, 0])).outcome s

def execGetEndpointId (s : State) : Host.Outcome State Fault Refusal := (Act.mctp 2 [0, s.rd .mctpEid, 0, 0]).outcome s

/-- Get MCTP Version Support: the spec gives no version numbers. -/
def execGetMctpVersionSupport (msgType : Byte) (s : State) : Host.Outcome State Fault Refusal :=
  (if [0xFF, 0x00, 0x05, 0x7F].contains msgType.toNat then Act.draw fun v => .mctp 4 [0, 1, v] else Act.mctp 4 [0x80]).outcome s

def execGetMessageTypeSupport (s : State) : Host.Outcome State Fault Refusal := (Act.mctp 5 [0, 2, 0x05, 0x7F]).outcome s

/-- Get Vendor Defined Message Support: one set, under the IANA enterprise number. -/
def execGetVendorDefinedMsgSupport (selector : Byte) (s : State) : Host.Outcome State Fault Refusal :=
  (if selector = 0 then Act.draw fun v => .mctp 6 [0, 0xFF, 1, s.rd .mctpPen, v] else Act.mctp 6 [2]).outcome s

end Sys2Proof.Machine
end

