-- ==== Sys2Proof/Machine/Spdm.lean ====
section
/-! DEFINITION. The SPDM responder (R511 to R515). The spec gives the exchanges' rules; codes and layouts of the standard's messages
are presumed from it (log entry 48). -/

namespace Sys2Proof.Machine

/-- A transport's number, as State keeps it. -/
def tpNo : Transport → Nat
  | .mctp => 0
  | .doe => 1

def State.spdm (s : State) (tp : Transport) : Spdm := tgetD s.u.spdm (tpNo tp) {}

def Act.spdm (tp : Transport) (f : Spdm → Spdm) : Act := .units fun u => { u with spdm := tmod u.spdm (tpNo tp) {} f }

/-- Error codes of the standard. -/
def seInvalid : Nat := 1
def seBusy : Nat := 3
def seUnexpected : Nat := 4
def seUnspecified : Nat := 5
def seUnsupported : Nat := 7

/-- An ERROR response. -/
def Act.spdmError (tp : Transport) (code : Nat) (data : Nat := 0) : Act :=
  .get fun s => .seq (.when (!s.u.pow.deep) (.count .spdmCount 0 3)) (.out (.spdm tp 0x7F code data []))

/-- A request comes in on a transport: counted, and answered Busy where no firmware runs (R515). -/
def Act.spdmReq (tp : Transport) (a : Act) : Act :=
  .get fun s =>
    let here := match tp with
      | .mctp => s.pathOpen (.bmc 0)
      | .doe => s.u.pow.power && s.u.pow.linkUp
    .when here (.all [.raiseSrc (109 + tpNo tp), .when (!s.u.pow.deep) (.count .spdmCount 0 (tpNo tp)),
      if s.fwRuns then a else .spdmError tp seBusy])

/-- A request that needs a stage of the negotiation. -/
def Act.spdmAt (tp : Transport) (stage : Nat) (a : Act) : Act :=
  .spdmReq tp (.get fun s => if (s.spdm tp).stage = stage then a else .spdmError tp seUnexpected)

/-- The bytes of a message as the transcripts take them. -/
def spdmBytes (code p1 p2 : Nat) (data : List Byte) : List Byte :=
  [0x12#8, BitVec.ofNat 8 code, BitVec.ofNat 8 p1, BitVec.ofNat 8 p2] ++ data

/-- A response of the negotiation: the next stage, and both messages in the transcript. -/
def Act.spdmNeg (tp : Transport) (stage : Nat) (req : List Byte) (code p1 p2 : Nat) (data : List Byte) : Act :=
  .seq (.spdm tp fun x => { x with stage := stage, vca := x.vca ++ req ++ spdmBytes code p1 p2 data }) (.out (.spdm tp code p1 p2 data))

/-- GET_VERSION starts the negotiation again: 1.2 alone. -/
def execGetVersion (tp : Transport) (s : State) : Host.Outcome State Fault Refusal :=
  (Act.spdmReq tp (.seq (.spdm tp fun _ => {})
    (.spdmNeg tp 1 (spdmBytes 0x84 0 0 []) 0x04 0 0 (leBytes 1 0 ++ leBytes 1 1 ++ leBytes 2 0x1200)))).outcome s

/-- GET_CAPABILITIES: CERT_CAP, CHAL_CAP and MEAS_CAP with signatures; both sizes are 4,096. The spec gives no CTExponent. -/
def execGetCapabilities (tp : Transport) (s : State) : Host.Outcome State Fault Refusal :=
  (Act.spdmAt tp 1 (.draw fun v => .spdmNeg tp 2 (spdmBytes 0xE1 0 0 []) 0x61 0 0
    (leBytes 1 0 ++ leBytes 1 v ++ leBytes 2 0 ++ leBytes 4 0x16 ++ leBytes 4 4096 ++ leBytes 4 4096))).outcome s

/-- NEGOTIATE_ALGORITHMS: the one algorithm of each kind, where the requester offers them (R513). -/
def execNegotiateAlgorithms (tp : Transport) (asym hash measHash measSpec : Bool) (s : State) : Host.Outcome State Fault Refusal :=
  (Act.spdmAt tp 2 (
    if asym && hash && measHash && measSpec then
      .spdmNeg tp 3 (spdmBytes 0xE3 0 0 [BitVec.ofNat 8 (b2n asym + 2 * b2n hash + 4 * b2n measHash + 8 * b2n measSpec)]) 0x63 0 0 [15#8]
    else .spdmError tp seInvalid)).outcome s

/-- A response about certificates. -/
def Act.spdmCert (tp : Transport) (req : List Byte) (code p1 p2 : Nat) (data : List Byte) : Act :=
  .seq (.spdm tp fun x => { x with said := x.said ++ req ++ spdmBytes code p1 p2 data }) (.out (.spdm tp code p1 p2 data))

/-- A value in DER: tag, length, contents. -/
def der (tag : Nat) (l : List Byte) : List Byte :=
  let n := l.length
  leBytes 1 tag ++ (if n < 128 then leBytes 1 n else leBytes 1 0x82 ++ leBytes 1 (n / 256) ++ leBytes 1 n) ++ l

/-- What is signed of a certificate of slot 0: 0 the vendor root's, 1 the device's; with the subject's key and serial number (R514). -/
def certTbs (i key serial : Nat) : List Byte :=
  der 0x30 (Config.certHead i ++ der 2 (leBytes 8 serial).reverse ++ der 3 (leBytes 1 0 ++ leBytes 1 4 ++ leBytes 64 key) ++ Config.certTail i)

/-- A DER X.509 certificate signed by the vendor root: what is signed, the algorithm, the signature over its digest (R514). -/
def cert (i key serial : Nat) : List Byte :=
  der 0x30 (certTbs i key serial ++ der 0x30 (Config.certTail 2) ++
    der 3 (leBytes 1 0 ++ leBytes 64 (Config.rootSign (Config.sm3 (certTbs i key serial)))))

/-- The chain of slot 0: the vendor root, self-signed and matching ROOT_PUB, and the device certificate, which binds IDENTITY_PUB to
SERIAL (R514; log entry 48). -/
def certChain : List Byte := cert 0 Config.rootPub 0 ++ cert 1 Config.identityPub Config.serial

/-- The digest of slot 0's chain. -/
def chainDigest : List Byte := leBytes 32 (Config.sm3 certChain)

/-- GET_DIGESTS: slot 0 alone, and none while the flash cannot be read (R514). -/
def execGetDigests (tp : Transport) (s : State) : Host.Outcome State Fault Refusal :=
  (Act.spdmAt tp 3 (if s.u.pow.flashOk then .spdmCert tp (spdmBytes 0x81 0 0 []) 0x01 0 1 chainDigest
    else .spdmCert tp (spdmBytes 0x81 0 0 []) 0x01 0 0 [])).outcome s

/-- GET_CERTIFICATE: a portion of slot 0's chain and how much is left. -/
def execGetCertificate (tp : Transport) (slot : Fin 8) (off len : BitVec 16) (s : State) : Host.Outcome State Fault Refusal :=
  (Act.spdmAt tp 3 (
    let part := (certChain.drop off.toNat).take (min len.toNat 4088)
    if slot.val ≠ 0 then .spdmError tp seInvalid
    else if !s.u.pow.flashOk then .spdmError tp seUnspecified
    else if certChain.length ≤ off.toNat then .spdmError tp seInvalid
    else .spdmCert tp (spdmBytes 0x82 0 0 (leBytes 2 off.toNat ++ leBytes 2 len.toNat)) 0x02 0 0
      (leBytes 2 part.length ++ leBytes 2 (certChain.length - off.toNat - part.length) ++ part))).outcome s

/-- A signature over a transcript with the device's key; it counts, and the security block has ended an operation (R420; log entry 45). -/
def Act.signed (transcript : List Byte) (k : List Byte → Act) : Act :=
  .all [.count .spdmCount 0 2, .raiseSrc 142, k (leBytes 64 (Config.sm2Sign (Config.sm3 transcript)))]

/-- CHALLENGE: the chain's digest, a fresh nonce, and the signature over everything said. -/
def execChallenge (tp : Transport) (slot : Fin 8) (nonce : BitVec 256) (s : State) : Host.Outcome State Fault Refusal :=
  (Act.spdmAt tp 3 (
    if !s.u.pow.flashOk then .spdmError tp seUnspecified
    else if slot.val ≠ 0 then .spdmError tp seInvalid
    else .draw fun v =>
      let x := s.spdm tp
      let body := chainDigest ++ leBytes 32 v ++ leBytes 2 0
      .signed (x.vca ++ x.said ++ spdmBytes 0x83 0 0 (leBytes 32 nonce.toNat) ++ spdmBytes 0x03 0 1 body) fun sig =>
        .seq (.spdm tp fun x => { x with said := [] }) (.out (.spdm tp 0x03 0 1 (body ++ sig))))).outcome s

/-- DMTF value type of a measurement (R511): bit 7 marks a raw value. -/
def measType (i : Nat) : Nat :=
  match i with
  | 1 => 0 | 2 => 1 | 3 => 0x87 | 4 => 1 | 5 => 1 | 6 => 3 | 7 => 0x85 | _ => 0x82

/-- Bytes of a measurement. -/
def measSize (i : Nat) : Nat := match i with | 3 => 8 | 7 => 2 | 8 => 8 | _ => 32

/-- A measurement block: index, DMTF specification, size, value type, value size, value. -/
def State.measBlock (s : State) (i : Nat) : List Byte :=
  leBytes 1 i ++ leBytes 1 1 ++ leBytes 2 (measSize i + 3) ++ leBytes 1 (measType i) ++ leBytes 2 (measSize i) ++
    leBytes (measSize i) (s.measurement i)

/-- GET_MEASUREMENTS: how many there are (0), all (255) or one, from one moment, signed or not (R511, R515). -/
def execGetMeasurements (tp : Transport) (index : Byte) (signed : Bool) (nonce : BitVec 256) (s : State) : Host.Outcome State Fault Refusal :=
  (Act.spdmAt tp 3 (.get fun s =>
    let i := index.toNat
    let which := if i = 0 then [] else if i = 255 then [1, 2, 3, 4, 5, 6, 7, 8] else [i]
    if i ≠ 255 ∧ 8 < i then .spdmError tp seInvalid
    else if signed && !s.u.pow.flashOk then .spdmError tp seUnspecified
    else .draw fun v =>
      let record := which.flatMap s.measBlock
      let body := leBytes 1 which.length ++ leBytes 3 record.length ++ record ++ leBytes 32 v ++ leBytes 2 0
      let p1 := if i = 0 then 8 else 0
      let x := s.spdm tp
      let said := x.meas ++ spdmBytes 0xE0 (b2n signed) i (if signed then leBytes 32 nonce.toNat else []) ++ spdmBytes 0x60 p1 0 body
      if signed then .signed (x.vca ++ said) fun sig =>
        .seq (.spdm tp fun x => { x with meas := [] }) (.out (.spdm tp 0x60 p1 0 (body ++ sig)))
      else .seq (.spdm tp fun x => { x with meas := said }) (.out (.spdm tp 0x60 p1 0 body)))).outcome s

/-- RESPOND_IF_READY: no response is ever deferred, each request being answered whole (R515; log entry 49). -/
def execRespondIfReady (tp : Transport) (_ : Byte) (s : State) : Host.Outcome State Fault Refusal :=
  (Act.spdmReq tp (.spdmError tp seUnexpected)).outcome s

/-- Requests that the responder does not support (R512). -/
def execSpdmUnsupportedRequest (tp : Transport) (code : Byte) (s : State) : Host.Outcome State Fault Refusal :=
  (Act.spdmReq tp (.spdmError tp seUnsupported code.toNat)).outcome s

end Sys2Proof.Machine
end

