-- ==== Sys2Proof/Machine/Dispatch.lean ====
section
/-! DEFINITION. The dispatcher: one arm per command, each one direct call of its meaning. -/

namespace Sys2Proof.Machine

/-- The effect of a command on everything but the queue. -/
def exec (i : Instr) (s : State) : Host.Outcome State Fault Refusal :=
  match i with
  | .nop q d => Sys2Proof.Machine.execNop q d s
  | .jobBegin q d => Sys2Proof.Machine.execJobBegin q d s
  | .jobEnd q d => Sys2Proof.Machine.execJobEnd q d s
  | .fence q d => Sys2Proof.Machine.execFence q d s
  | .gateSet q d => Sys2Proof.Machine.execGateSet q d s
  | .flagSet q d => Sys2Proof.Machine.execFlagSet q d s
  | .attnFwd q d => Sys2Proof.Machine.execAttnFwd q d s
  | .attnBwd q d => Sys2Proof.Machine.execAttnBwd q d s
  | .attnVerify q d => Sys2Proof.Machine.execAttnVerify q d s
  | .teBegin q d => Sys2Proof.Machine.execTeBegin q d s
  | .teAccumulate q d => Sys2Proof.Machine.execTeAccumulate q d s
  | .teEnd q d => Sys2Proof.Machine.execTeEnd q d s
  | .veMap q d => Sys2Proof.Machine.execVeMap q d s
  | .veReduce q d => Sys2Proof.Machine.execVeReduce q d s
  | .veSample q d => Sys2Proof.Machine.execVeSample q d s
  | .veFlag q d => Sys2Proof.Machine.execVeFlag q d s
  | .vePepperSave q d => Sys2Proof.Machine.execVePepperSave q d s
  | .vePepperLoad q d => Sys2Proof.Machine.execVePepperLoad q d s
  | .veTopkGate q d => Sys2Proof.Machine.execVeTopkGate q d s
  | .veUpdate q d => Sys2Proof.Machine.execVeUpdate q d s
  | .dmCopy q d => Sys2Proof.Machine.execDmCopy q d s
  | .accumW40 q d => Sys2Proof.Machine.execAccumW40 q d s
  | .dmCollective q d => Sys2Proof.Machine.execDmCollective q d s
  | .dmPut q d => Sys2Proof.Machine.execDmPut q d s
  | .dmGet q d => Sys2Proof.Machine.execDmGet q d s
  | .dmAtomicAdd q d => Sys2Proof.Machine.execDmAtomicAdd q d s
  | .dmDispatch q d => Sys2Proof.Machine.execDmDispatch q d s
  | .dmScreePush q d => Sys2Proof.Machine.execDmScreePush q d s
  | .dmScreePop q d => Sys2Proof.Machine.execDmScreePop q d s
  | .dmMoltSegment q d => Sys2Proof.Machine.execDmMoltSegment q d s
  | .dmDigest q d => Sys2Proof.Machine.execDmDigest q d s
  | .commandComplete q => Sys2Proof.Machine.execCommandComplete q s
  | .gateClaim core eng waited => Sys2Proof.Machine.execGateClaim core eng waited s
  | .teYield core te => Sys2Proof.Machine.execTeYield core te s
  | .phaseGateUnit u => Sys2Proof.Machine.execPhaseGateUnit u s
  | .monClear r tid => Sys2Proof.Machine.execMonClear r tid s
  | .readIndexWrite r ctx v => Sys2Proof.Machine.execReadIndexWrite r ctx v s
  | .telemRingConfig r ctx size v => Sys2Proof.Machine.execTelemRingConfig r ctx size v s
  | .accSplitWrite r v => Sys2Proof.Machine.execAccSplitWrite r v s
  | .pepperSeedWrite r ctx v => Sys2Proof.Machine.execPepperSeedWrite r ctx v s
  | .pepperReadyDone ctx => Sys2Proof.Machine.execPepperReadyDone ctx s
  | .sessionOpen r sess v => Sys2Proof.Machine.execSessionOpen r sess v s
  | .sessionCheckDone sess => Sys2Proof.Machine.execSessionCheckDone sess s
  | .sessionFree r sess => Sys2Proof.Machine.execSessionFree r sess s
  | .stepReadWrite r sess v => Sys2Proof.Machine.execStepReadWrite r sess v s
  | .admitReq q d => Sys2Proof.Machine.execAdmit q d s
  | .cancel q d => Sys2Proof.Machine.execCancel q d s
  | .close q d => Sys2Proof.Machine.execClose q d s
  | .stepCommit sess => Sys2Proof.Machine.execStepCommit sess s
  | .stepRelease sess => Sys2Proof.Machine.execStepRelease sess s
  | .screeDiscard r core => Sys2Proof.Machine.execScreeDiscard r core s
  | .splitGradWrite r entry v => Sys2Proof.Machine.execSplitGradWrite r entry v s
  | .lbrStreamWrite r stream v => Sys2Proof.Machine.execLbrStreamWrite r stream v s
  | .lbrDeadline stream => Sys2Proof.Machine.execLbrDeadline stream s
  | .patrolScrub stack channel location burst errs => Sys2Proof.Machine.execPatrolScrub stack channel location burst errs s
  | .poisonReport dpa => Sys2Proof.Machine.execPoisonReport dpa s
  | .stackTempSample stack t0 t1 t2 t3 => Sys2Proof.Machine.execStackTempSample stack t0 t1 t2 t3 s
  | .loopbackStart r v => Sys2Proof.Machine.execLoopbackStart r v s
  | .loopbackDone results => Sys2Proof.Machine.execLoopbackDone results s
  | .portEnable r v => Sys2Proof.Machine.execPortEnable r v s
  | .cmisReadDone port c => Sys2Proof.Machine.execCmisReadDone port c s
  | .holdoffExpire port => Sys2Proof.Machine.execHoldoffExpire port s
  | .lanesLocked l => Sys2Proof.Machine.execLanesLocked l s
  | .trainingTimeout port => Sys2Proof.Machine.execTrainingTimeout port s
  | .creditInit port => Sys2Proof.Machine.execCreditInit port s
  | .creditInitTimeout port => Sys2Proof.Machine.execCreditInitTimeout port s
  | .ident port addr peerPort serial => Sys2Proof.Machine.execIdent port addr peerPort serial s
  | .identResend port => Sys2Proof.Machine.execIdentResend port s
  | .dataFlit port f => Sys2Proof.Machine.execDataFlit port f s
  | .retry port f => Sys2Proof.Machine.execRetry port f s
  | .retryResend port => Sys2Proof.Machine.execRetryResend port s
  | .laneLockLost port lane => Sys2Proof.Machine.execLaneLockLost port lane s
  | .signalLoss port => Sys2Proof.Machine.execSignalLoss port s
  | .cablePlugged port => Sys2Proof.Machine.execCablePlugged port s
  | .portReset r v => Sys2Proof.Machine.execPortReset r v s
  | .peerExpectWrite r port v => Sys2Proof.Machine.execPeerExpectWrite r port v s
  | .messageRoute m => Sys2Proof.Machine.execMessageRoute m s
  | .messageAgeDiscard port => Sys2Proof.Machine.execMessageAgeDiscard port s
  | .put m => Sys2Proof.Machine.execPut m s
  | .getReq m => Sys2Proof.Machine.execGetReq m s
  | .getResp m => Sys2Proof.Machine.execGetResp m s
  | .atomicAdd m => Sys2Proof.Machine.execAtomicAdd m s
  | .atomicResp m => Sys2Proof.Machine.execAtomicResp m s
  | .ack m => Sys2Proof.Machine.execAck m s
  | .nack m => Sys2Proof.Machine.execNack m s
  | .noticeOnly m => Sys2Proof.Machine.execNoticeOnly m s
  | .noticePost flow => Sys2Proof.Machine.execNoticePost flow s
  | .coll m => Sys2Proof.Machine.execColl m s
  | .lbr m => Sys2Proof.Machine.execLbr m s
  | .kwehus m => Sys2Proof.Machine.execKwehus m s
  | .openFlow m => Sys2Proof.Machine.execOpenFlow m s
  | .flowAbort m => Sys2Proof.Machine.execFlowAbort m s
  | .ackTimer flow => Sys2Proof.Machine.execAckTimer flow s
  | .nackTimer flow => Sys2Proof.Machine.execNackTimer flow s
  | .retransmitTimeout flow => Sys2Proof.Machine.execRetransmitTimeout flow s
  | .openResend flow => Sys2Proof.Machine.execOpenResend flow s
  | .flowCfgWrite r flow v => Sys2Proof.Machine.execFlowCfgWrite r flow v s
  | .collGroupWrite r group v => Sys2Proof.Machine.execCollGroupWrite r group v s
  | .moltStart r v => Sys2Proof.Machine.execMoltStart r v s
  | .moltCheckDone => Sys2Proof.Machine.execMoltCheckDone s
  | .moltSegmentIssue => Sys2Proof.Machine.execMoltSegmentIssue s
  | .moltData m => Sys2Proof.Machine.execMoltData m s
  | .segEnd m => Sys2Proof.Machine.execSegEnd m s
  | .srcDone m => Sys2Proof.Machine.execSrcDone m s
  | .refetch m => Sys2Proof.Machine.execRefetch m s
  | .moltReady m => Sys2Proof.Machine.execMoltReady m s
  | .moltCommit m => Sys2Proof.Machine.execMoltCommit m s
  | .moltAbort m => Sys2Proof.Machine.execMoltAbort m s
  | .moltFail m => Sys2Proof.Machine.execMoltFail m s
  | .repairReq m => Sys2Proof.Machine.execRepairReq m s
  | .segmentMissingTimeout seg => Sys2Proof.Machine.execSegmentMissingTimeout seg s
  | .moltReadySend => Sys2Proof.Machine.execMoltReadySend s
  | .moltDeadline => Sys2Proof.Machine.execMoltDeadline s
  | .moltInDoubtTimeout => Sys2Proof.Machine.execMoltInDoubtTimeout s
  | .moltResolveCommit r => Sys2Proof.Machine.execMoltResolveCommit r s
  | .moltResolveAbort r => Sys2Proof.Machine.execMoltResolveAbort r s
  | .versionRelease r model v => Sys2Proof.Machine.execVersionRelease r model v s
  | .scrubPass => Sys2Proof.Machine.execScrubPass s
  | .repairAttempt model version seg => Sys2Proof.Machine.execRepairAttempt model version seg s
  | .ptRootWrite r ctx v => Sys2Proof.Machine.execPtRootWrite r ctx v s
  | .ctxReset r ctx v => Sys2Proof.Machine.execCtxReset r ctx v s
  | .ptInvalidate r ctx v => Sys2Proof.Machine.execPtInvalidate r ctx v s
  | .tidOwnerWrite r tid v => Sys2Proof.Machine.execTidOwnerWrite r tid v s
  | .queueCfgWrite r q v => Sys2Proof.Machine.execQueueCfgWrite r q v s
  | .ctxAdminWrite r ctx v => Sys2Proof.Machine.execCtxAdminWrite r ctx v s
  | .teardownEnd ctx => Sys2Proof.Machine.execTeardownEnd ctx s
  | .sliceEnd core slot => Sys2Proof.Machine.execSliceEnd core slot s
  | .earlyYield core slot => Sys2Proof.Machine.execEarlyYield core slot s
  | .rotation core slot deferredNs => Sys2Proof.Machine.execRotation core slot deferredNs s
  | .bundleLong q => Sys2Proof.Machine.execBundleLong q s
  | .bundleOverrun q => Sys2Proof.Machine.execBundleOverrun q s
  | .cmdWatchdog core eng => Sys2Proof.Machine.execCmdWatchdog core eng s
  | .functionLevelReset fn => Sys2Proof.Machine.execFunctionLevelReset fn s
  | .doorbell fn q v => Sys2Proof.Machine.execDoorbell fn q v s
  | .apertureRead off len => Sys2Proof.Machine.execApertureRead off len s
  | .apertureWrite off data ep => Sys2Proof.Machine.execApertureWrite off data ep s
  | .atsInvalidation a => Sys2Proof.Machine.execAtsInvalidation a s
  | .mbxClaim side ch => Sys2Proof.Machine.execMbxClaim side ch s
  | .mbxUnclaim side ch => Sys2Proof.Machine.execMbxUnclaim side ch s
  | .mbxPost side ch => Sys2Proof.Machine.execMbxPost side ch s
  | .mbxRelease side ch => Sys2Proof.Machine.execMbxRelease side ch s
  | .mbxWithdraw side ch => Sys2Proof.Machine.execMbxWithdraw side ch s
  | .dbSet side ch v => Sys2Proof.Machine.execDbSet side ch v s
  | .doorbellClear side ch v => Sys2Proof.Machine.execDoorbellClear side ch v s
  | .hostEnableWrite side ch w => Sys2Proof.Machine.execHostEnableWrite side ch w s
  | .mbxTimeout ch => Sys2Proof.Machine.execMbxTimeout ch s
  | .claimNormal k => Sys2Proof.Machine.execClaimNormal k s
  | .claimFast k => Sys2Proof.Machine.execClaimFast k s
  | .eoi k src => Sys2Proof.Machine.execEoi k src s
  | .swiSet w => Sys2Proof.Machine.execSwiSet w s
  | .swiClear v => Sys2Proof.Machine.execSwiClear v s
  | .fastInterrupt k => Sys2Proof.Machine.execFastInterrupt k s
  | .normalInterrupt k => Sys2Proof.Machine.execNormalInterrupt k s
  | .mret k => Sys2Proof.Machine.execMret k s
  | .policyLoad r kind v => Sys2Proof.Machine.execPolicyLoad r kind v s
  | .admissionCall sess order skip => Sys2Proof.Machine.execAdmissionCall sess order skip s
  | .schedulingCall core slot choice => Sys2Proof.Machine.execSchedulingCall core slot choice s
  | .noticeCall kind ch => Sys2Proof.Machine.execNoticeCall kind ch s
  | .policyEcall kind a7 ch data => Sys2Proof.Machine.execPolicyEcall kind a7 ch data s
  | .policyCallTimeout call => Sys2Proof.Machine.execPolicyCallTimeout call s
  | .read r p => Sys2Proof.Machine.execRead r p s
  | .write r p => Sys2Proof.Machine.execWrite r p s
  | .info r p => Sys2Proof.Machine.execInfo r p s
  | .next r p => Sys2Proof.Machine.execNext r p s
  | .windowSlotWrite fn off data => Sys2Proof.Machine.execWindowSlotWrite fn off data s
  | .accessPortRead fn => Sys2Proof.Machine.execAccessPortRead fn s
  | .accessPortWrite fn => Sys2Proof.Machine.execAccessPortWrite fn s
  | .accessPortInfo fn => Sys2Proof.Machine.execAccessPortInfo fn s
  | .accessPortNext fn => Sys2Proof.Machine.execAccessPortNext fn s
  | .entryWrite r index sub data => Sys2Proof.Machine.execEntryWrite r index sub data s
  | .cfgLockTake r => Sys2Proof.Machine.execCfgLockTake r s
  | .cfgLockRelease r => Sys2Proof.Machine.execCfgLockRelease r s
  | .cfgLeaseLapse => Sys2Proof.Machine.execCfgLeaseLapse s
  | .stagingLapse r => Sys2Proof.Machine.execStagingLapse r s
  | .storeFactory r v => Sys2Proof.Machine.execStoreFactory r v s
  | .setEndpointId eid => Sys2Proof.Machine.execSetEndpointId eid s
  | .getEndpointId => Sys2Proof.Machine.execGetEndpointId s
  | .getMctpVersionSupport msgType => Sys2Proof.Machine.execGetMctpVersionSupport msgType s
  | .getMessageTypeSupport => Sys2Proof.Machine.execGetMessageTypeSupport s
  | .getVendorDefinedMsgSupport selector => Sys2Proof.Machine.execGetVendorDefinedMsgSupport selector s
  | .getVersion tp => Sys2Proof.Machine.execGetVersion tp s
  | .getCapabilities tp => Sys2Proof.Machine.execGetCapabilities tp s
  | .negotiateAlgorithms tp asym hash measHash measSpec => Sys2Proof.Machine.execNegotiateAlgorithms tp asym hash measHash measSpec s
  | .getDigests tp => Sys2Proof.Machine.execGetDigests tp s
  | .getCertificate tp slot off len => Sys2Proof.Machine.execGetCertificate tp slot off len s
  | .challenge tp slot nonce => Sys2Proof.Machine.execChallenge tp slot nonce s
  | .getMeasurements tp index signed nonce => Sys2Proof.Machine.execGetMeasurements tp index signed nonce s
  | .respondIfReady tp token => Sys2Proof.Machine.execRespondIfReady tp token s
  | .spdmUnsupportedRequest tp code => Sys2Proof.Machine.execSpdmUnsupportedRequest tp code s
  | .stateReqWake r => Sys2Proof.Machine.execStateReqWake r s
  | .stateReqNap r => Sys2Proof.Machine.execStateReqNap r s
  | .stateReqDeep r => Sys2Proof.Machine.execStateReqDeep r s
  | .napEntryDone => Sys2Proof.Machine.execNapEntryDone s
  | .napWakeEvent e => Sys2Proof.Machine.execNapWakeEvent e s
  | .memoryWakeDone => Sys2Proof.Machine.execMemoryWakeDone s
  | .columnClockGate col => Sys2Proof.Machine.execColumnClockGate col s
  | .columnPowerOff col => Sys2Proof.Machine.execColumnPowerOff col s
  | .columnWake col => Sys2Proof.Machine.execColumnWake col s
  | .governorTick p a mv10 slow => Sys2Proof.Machine.execGovernorTick p a mv10 slow s
  | .clockChange col => Sys2Proof.Machine.execClockChange col s
  | .dieTempSample col t => Sys2Proof.Machine.execDieTempSample col t s
  | .thermalCeilingStep target => Sys2Proof.Machine.execThermalCeilingStep target s
  | .powerOn latch => Sys2Proof.Machine.execPowerOn latch s
  | .powerLoss => Sys2Proof.Machine.execPowerLoss s
  | .inputOvervoltage => Sys2Proof.Machine.execInputOvervoltage s
  | .perstAssert => Sys2Proof.Machine.execPerstAssert s
  | .perstDeassert latch => Sys2Proof.Machine.execPerstDeassert latch s
  | .warmReset r => Sys2Proof.Machine.execWarmReset r s
  | .saddleRestart r => Sys2Proof.Machine.execSaddleRestart r s
  | .firmwareWatchdog => Sys2Proof.Machine.execFirmwareWatchdog s
  | .memoryTrainingDone failed => Sys2Proof.Machine.execMemoryTrainingDone failed s
  | .bootVerify => Sys2Proof.Machine.execBootVerify s
  | .deviceReady => Sys2Proof.Machine.execDeviceReady s
  | .fwChunk r data => Sys2Proof.Machine.execFwChunk r data s
  | .fwUpdate r v => Sys2Proof.Machine.execFwUpdate r v s
  | .fwSvnCommit r v => Sys2Proof.Machine.execFwSvnCommit r v s
  | .keySlotWrite r slot v => Sys2Proof.Machine.execKeySlotWrite r slot v s
  | .enrollFreeze r v => Sys2Proof.Machine.execEnrollFreeze r v s
  | .debugUnlock r token => Sys2Proof.Machine.execDebugUnlock r token s
  | .debugRelock r v => Sys2Proof.Machine.execDebugRelock r v s
  | .errwinDrain src => Sys2Proof.Machine.execErrwinDrain src s
  | .errwinClear r v => Sys2Proof.Machine.execErrwinClear r v s
  | .evtRingWrite r fn v => Sys2Proof.Machine.execEvtRingWrite r fn v s
  | .fatalEnter cause detail => Sys2Proof.Machine.execFatalEnter cause detail s
  | .cairnComplete => Sys2Proof.Machine.execCairnComplete s
  | .cairnTimeout => Sys2Proof.Machine.execCairnTimeout s
  | .serviceButtonPress => Sys2Proof.Machine.execServiceButtonPress s
  | .drainComplete => Sys2Proof.Machine.execDrainComplete s
  | .drainTimeout => Sys2Proof.Machine.execDrainTimeout s
  | .drainPortsDisable => Sys2Proof.Machine.execDrainPortsDisable s
  | .serviceCancel r v => Sys2Proof.Machine.execServiceCancel r v s
  | .latchOpen => Sys2Proof.Machine.execLatchOpen s
  | .handlePadTouch => Sys2Proof.Machine.execHandlePadTouch s
  | .portLightTimeout port => Sys2Proof.Machine.execPortLightTimeout port s
  | .signalDetect port => Sys2Proof.Machine.execSignalDetect port s
  | .idleFlit port f => Sys2Proof.Machine.execIdleFlit port f s
  | .pcieHotReset => Sys2Proof.Machine.execPcieHotReset s
  | .pcieLinkChange up => Sys2Proof.Machine.execPcieLinkChange up s
  | .pcieConfigRequest c => Sys2Proof.Machine.execPcieConfigRequest c s
  | .msixUnmask fn w => Sys2Proof.Machine.execMsixUnmask fn w s
  | .flrComplete fn => Sys2Proof.Machine.execFlrComplete fn s
  | .saddleRestartDone => Sys2Proof.Machine.execSaddleRestartDone s
  | .fwUpdateDone flashOk => Sys2Proof.Machine.execFwUpdateDone flashOk s
  | .storeWriteCommitted => Sys2Proof.Machine.execStoreWriteCommitted s
  | .reservedOpcode q d => Sys2Proof.Machine.execReservedOpcode q d s
  | .reservedRequest q d => Sys2Proof.Machine.execReservedRequest q d s
  | .windowSlotRead fn what => Sys2Proof.Machine.execWindowSlotRead fn what s
  | .mbxMsgWrite side ch off data => Sys2Proof.Machine.execMbxMsgWrite side ch off data s
  | .machineTimerInterrupt k => Sys2Proof.Machine.execMachineTimerInterrupt k s
  | .scrubSegmentCheck model version seg => Sys2Proof.Machine.execScrubSegmentCheck model version seg s
  | .partitionTokenRefill part east tokens waitedNs => Sys2Proof.Machine.execPartitionTokenRefill part east tokens waitedNs s
  | .kwehusResend tag => Sys2Proof.Machine.execKwehusResend tag s

end Sys2Proof.Machine
end

