-- ==== Sys2Proof/Machine/Step.lean ====
section
/-! DEFINITION. One step: the command at the front of the queue runs on the state with the queue's rest; with no command
waiting, one reference cycle passes. -/

namespace Sys2Proof.Machine

/-- Nanoseconds of one cycle of the 25 MHz reference (R458). -/
def tickNs : Nat := 40

/-- An idle step: local time advances by one reference cycle (R458; log entry 1). Where in the cycle a running clock reads it then is
open; the island alone, in DEEP, sees the count itself. -/
def State.idle (s : State) : State :=
  if s.u.pow.power then { s with u := { s.u with
    now := (s.u.now + tickNs) % 2 ^ 64
    frac := if s.u.pow.deep then 0 else Config.freeValue s.u.free % tickNs
    free := s.u.free + 1 } }
  else s

/-- One step. -/
def step (s : State) : Host.Outcome State Fault Refusal :=
  match s.pending with
  | [] => .next s.idle
  | c :: rest => exec c { s with pending := rest }

/-- The state with the command a word spells at the front of its queue; the table spells none, so the state itself. -/
def State.withFetchWord (s : State) (nbits w : Nat) : State :=
  match decodeTableWord nbits w with
  | some c => { s with pending := c :: s.pending }
  | none => s

end Sys2Proof.Machine
end

