-- ==== Sys2Proof/Safety.lean ====
section
/-! DEFINITION. The terms in which claims are stated: canonical form of the byte stores and of the register file, what a
command completes with, what it leaves unchanged, and when a descriptor or an entry write goes through. -/

namespace Sys2Proof.Machine

/-! ### Canonical form -/

/-- Keys strictly rise. -/
abbrev Rising {α : Type} (t : List (Nat × α)) : Prop := t.Pairwise fun a b => a.1 < b.1

/-- The cells of a byte store are canonical: addresses strictly rise, and no cell holds what an unlisted address reads. -/
abbrev Memory.wf (m : List Host.Cell) : Prop := Rising m ∧ ∀ c ∈ m, c.2 ≠ 0#8

/-- A byte store is canonical and lies inside its space: so do its poison marks (R273). -/
def Store.Wf (sel : MemSel) (x : Store) : Prop :=
  Memory.wf x.bytes ∧ (∀ c ∈ x.bytes, c.1 < sel.size) ∧ x.poison.Pairwise (· < ·) ∧ ∀ g ∈ x.poison, g * sel.grain < sel.size

/-- A listed register is an entry of the dictionary that a write can change, with a value of its size (R431, R433, R439). -/
def RegOk (p : Nat × Nat) : Prop :=
  ∃ n : EName, ∃ i, i < n.count ∧ n.info.pers ≠ .fixed ∧ p.1 = n.key i ∧ p.2 < 2 ^ (8 * n.info.size)

/-- What every step keeps: the three stores and the register file are canonical, no listed address lies outside its space,
and no register holds a value wider than its entry or belongs to an entry of class FIXED. -/
structure State.Inv (s : State) : Prop where
  stack : Store.Wf .stack s.stack
  host : Store.Wf .host s.host
  scratch : Store.Wf .scratch s.scratch
  rising : Rising s.regs
  regs : ∀ p ∈ s.regs, RegOk p

/-! ### Outcomes and frames -/

/-- The command answers a next state of which `P` holds. -/
def Completes (c : Instr) (s : State) (P : State → Prop) : Prop := ∃ t, exec c s = .next t ∧ P t

/-- Every byte of stack memory, host memory and scratch reads as before, its poison mark too. -/
def SameMem (s t : State) : Prop := ∀ (m : MemSel) (a n : Nat), t.rdMem m a n = s.rdMem m a n

/-- Every dictionary entry but the listed ones reads as before. -/
def SameEntriesBut (l : List (EName × Nat)) (s t : State) : Prop :=
  ∀ n i, i < n.count → (n, i) ∉ l → t.rd n i = s.rd n i

/-- Memory reads as before, and so does every entry but DICT_COUNT, which counts requests, and the listed ones. -/
def EntryOnly (l : List (EName × Nat)) (s t : State) : Prop := SameMem s t ∧ SameEntriesBut ((.dictCount, 0) :: l) s t

/-! ### When a command goes through -/

/-- A requester's write of an entry meets no check of R446 before the entry's own rule. -/
def Accepts (s : State) (r : Requester) (n : EName) (i v : Nat) : Prop :=
  s.served r = true ∧ s.wrGuard r n i = stOk ∧ s.applyGuard n v = stOk

/-- A well-formed request of an operation reaches the server, which runs, and the identity has no staging of another entry that it would
discard; no mailbox channel holds it, nor another of its OP and TAG; a peer asks while PEER_DICT is 1 (R434, R436, R446, R447, R450,
R453). -/
structure Serves (s : State) (r : Requester) (p : Pdu) (op : Nat) : Prop where
  path : s.pathOpen r = true
  runs : s.fwRuns = true
  good : pduGood p = true
  asks : pduOp p = op
  staging : (s.did r).stKey = none ∨ (s.did r).stKey = some (pduKey p)
  vendor : 0xF00000 ≤ pduKey p → reqClass r = 4
  direct : s.mailOf r p = none
  peers : reqClass r = 3 → s.rd .peerDict ≠ 0
  noMail : ∀ e ∈ s.u.host.mail, ¬ (some e.1 = reqFn r ∧ e.2.1 = mailSig p)

/-- What leaves the device for an answer: to the BMC also as the body of its MCTP message (R451). -/
def Out.sent : Out → List Out
  | .answer (.bmc e) p => [.answer (.bmc e) p, .mctpBody e.toNat (kwBody p)]
  | o => [o]

/-- The answer to a request goes back on its path, from a state of which `P` holds: sent out, or as a message to the peer that asked
(R450 to R452). -/
def Answers (s t : State) (r : Requester) (p : Pdu) (P : State → Prop) : Prop :=
  match r with
  | .peer a => ∃ u, P u ∧ t = (Act.sendMsg 0 { dest := a, type := 12, data := (pduBytes p).map fun b => (b, false) }).run u
  | _ => t.u.outbox = s.u.outbox ++ Out.sent (.answer r p) ∧ P t

/-- An SPDM request comes in on its transport while firmware runs (R512, R515). -/
def SpdmHere (s : State) (tp : Transport) : Prop :=
  s.fwRuns = true ∧ match tp with
    | .mctp => s.pathOpen (.bmc 0) = true
    | .doe => s.u.pow.power = true ∧ s.u.pow.linkUp = true

/-- The descriptor of a queue's next index as its slot has fetched it: the bytes of `d`, clean (R386). -/
def State.buffered (s : State) (q : Nat) (d : Desc) : Prop :=
  s.fetched (s.qCore q) (s.qCtx q) q = some { q := q, idx := (s.stream q).next, bytes := (descBytes d).map fun b => (b, false) }

/-- The next descriptor of the queue is taken up now: the device runs, the queue has a descriptor to fetch, the core's column has its
clock, slot `k` holds the queue's context, serves the queue, does not rotate and has its turn, no FENCE of the stream is open, and no
loop-back holds memory (R102, R119, R280, R384, R386 to R388). -/
structure Turn (s : State) (q k : Nat) : Prop where
  runs : s.runs = true
  fetchable : s.fetchable q 0 = true
  column : s.columnOn (s.qCore q) = true
  memory : s.loopback = false
  slot : s.slotOf (s.qCore q) (s.qCtx q) = some k
  serves : s.serves (s.qCore q) k (s.qCtx q) q = true
  still : s.rotating (s.qCore q) k = false
  turn : s.turn (s.qCore q) k = true
  fences : ∀ f ∈ (s.stream q).fly, hOpcode f.d = 3 → f.done = true

/-- The descriptor `d` is the next of its queue, was fetched, and is taken up now (R386). -/
structure Comes (s : State) (q k : Nat) (d : Desc) : Prop extends Turn s q k where
  bytes : s.buffered q d

/-- The descriptor comes up and passes the header checks of R99, and nothing holds it back at dispatch: SERIAL, an unsettled
predicate, commands of the slot's last rotation that are still to re-enter (R102, R105, R114, R388). -/
structure Passes (s : State) (q k : Nat) (d : Desc) : Prop extends Comes s q k d where
  header : s.headerReason q (s.stream q).next d false (rulesOf d) = none
  serial : hSerial d = true → allRetired (s.stream q) = true
  pred : predWaits (s.stream q) d = false
  saved : (s.ctxCore (s.qCore q) (s.qCtx q)).saved = []

/-- Its predicate holds, so it executes (R114). -/
structure Ready (s : State) (q k : Nat) (d : Desc) : Prop extends Passes s q k d where
  holds : s.predOk (s.qCore q) (s.qCtx q) d = true

/-- The row of a descriptor's opcode, where it names a command (R98, R223). -/
def commandOf (q : Fin 65536) (d : Desc) : Option Instr :=
  match hOpcode d with
  | 0x00 => some (.nop q d)
  | 0x01 => some (.jobBegin q d)
  | 0x02 => some (.jobEnd q d)
  | 0x03 => some (.fence q d)
  | 0x04 => some (.gateSet q d)
  | 0x05 => some (.flagSet q d)
  | 0x10 => some (.attnFwd q d)
  | 0x11 => some (.attnBwd q d)
  | 0x12 => some (.attnVerify q d)
  | 0x20 => some (.teBegin q d)
  | 0x21 => some (.teAccumulate q d)
  | 0x22 => some (.teEnd q d)
  | 0x40 => some (.veMap q d)
  | 0x41 => some (.veReduce q d)
  | 0x42 => some (.veSample q d)
  | 0x43 => some (.veFlag q d)
  | 0x44 => some (.vePepperSave q d)
  | 0x45 => some (.vePepperLoad q d)
  | 0x48 => some (.veTopkGate q d)
  | 0x4C => some (.veUpdate q d)
  | 0x80 => some (if dmT d = 8 then .accumW40 q d else .dmCopy q d)
  | 0x84 => some (.dmCollective q d)
  | 0x85 => some (.dmDispatch q d)
  | 0x86 => some (.dmScreePush q d)
  | 0x87 => some (.dmScreePop q d)
  | 0x88 => some (.dmMoltSegment q d)
  | 0x89 => some (.dmDigest q d)
  | 0x8A => some (.dmPut q d)
  | 0x8B => some (.dmGet q d)
  | 0x8C => some (.dmAtomicAdd q d)
  | _ => none

/-! ### Engine commands -/

/-- The command that a descriptor becomes at dispatch. -/
def State.cmdOf (s : State) (q : Nat) (d : Desc) : Cmd := s.newCmd (s.qCore q) q (s.stream q).next (s.qCtx q) d

/-- A ready descriptor of an engine finds the engines it takes, and looks at again, without a command, no other holder of a slot having
commands that wait to re-enter, and passes its engine's checks (R100, R103, R388). -/
structure Lone (s : State) (q k : Nat) (d : Desc) : Prop extends Ready s q k d where
  engine : opClass (hOpcode d) ≠ some 0
  free : ∀ e ∈ engsOf d ++ s.rerunOf (s.qCore q) d, s.engQ (s.qCore q) e = []
  settled : s.reentering (s.qCore q) = []
  check : (rulesOf d).check (s.asLeft (s.qCore q) q (s.qCtx q)) (s.qCore q) (s.qCtx q) d = none

/-- Its gates hold what `n` pieces claim: WAIT once, STREAM and POST for each piece (R107, R108). -/
structure Supplied (s : State) (q : Nat) (d : Desc) (n : Nat) : Prop where
  wait : ∀ r, hWait d = some r → r.2 ≤ (s.gate (s.qCore q) (s.qCtx q) r.1).filled
  stream : ∀ r, hStream d = some r → n * r.2 ≤ (s.gate (s.qCore q) (s.qCtx q) r.1).filled
  post : ∀ r, hPost d = some r → n * r.2 ≤ (s.gate (s.qCore q) (s.qCtx q) r.1).credits

/-- The state in which the dispatched command stands in its engines' queues. -/
def State.queued (s : State) (q k : Nat) (d : Desc) : State :=
  (Act.all [.inFlight (s.qCore q) k q (s.stream q).next d, .reserve (s.cmdOf q d), .enqueue (s.cmdOf q d)]).run s

/-- The command as its engine has taken it up, its WAIT units claimed (R72, R108). -/
def State.taken (s : State) (q k : Nat) (d : Desc) : Cmd := { (runOf d).latch (s.queued q k d) (s.cmdOf q d) with waited := true }

/-- The state in which the dispatched command has made its WAIT claim. -/
def State.dispatched (s : State) (q k : Nat) (d : Desc) : State :=
  (Act.all [.claim (s.cmdOf q d) (hWait d), .front (s.taken q k d)]).run (s.queued q k d)

/-- One piece of a command between the claims and the returns of its gates (R108); `k` follows. -/
def Act.onePieceOf (c : Cmd) (k : Cmd → Act) : Act :=
  let a := { c with streamed := true }
  let b := { a with posted := true }
  let e := { b with started := true, yielded := false }
  .all [.when (!c.streamed) (.seq (.claim c (hStream c.d)) (.front a)), .when (!c.posted) (.seq (.takePost a) (.front b)), .front e,
    .bundleStart e,
    (runOf c.d).piece e fun
      | .done x =>
        let y := { x with streamed := false, posted := false, asked := false }
        .all [.pieceEnd x, .front y, k y]
      | .sent x readsDone =>
        let y := { x with streamed := x.streamed && !readsDone }
        .all [.when readsDone (.streamBack x), .front y, k y]
      | _ => .skip]

/-- A command runs exactly `n` pieces, absent ones passed over, and then has none left (`k true`) or waits for answers
(`k false`) (R109, R311). -/
def Act.pieces : Nat → Cmd → (Bool → Cmd → Act) → Act
  | 0, c, k => .get fun s => match (runOf c.d).prep s c with
    | .over x => k true x
    | .hold => k false c
    | _ => .skip
  | n + 1, c, k => .get fun s => match (runOf c.d).prep s c with
    | .ready x => .onePieceOf x fun y => Act.pieces n y k
    | _ => .skip

/-- From its dispatch on the command runs `n` pieces without a fault and comes to `c` in state `y`, with none left or waiting. -/
def RunsTo (s : State) (q k : Nat) (d : Desc) (n : Nat) (over_ : Bool) (c : Cmd) (y : State) : Prop :=
  ∀ f : Bool → Cmd → Act, (Act.pieces n (s.taken q k d) f).run (s.dispatched q k d) = (f over_ c).run y

/-- The command at an index of a queue retired as its record will say (R104, R145). -/
def Retired (t : State) (q idx : Nat) (d : Desc) (res res2 : Nat) : Prop :=
  ∃ f ∈ (t.stream q).fly, f.idx = idx ∧ f.d = d ∧ f.done = true ∧ f.status = 0 ∧ f.res = res ∧ f.res2 = res2

/-- The queue's next descriptor is the one after. -/
def TookOne (s t : State) (q : Nat) : Prop := (t.stream q).next = idx32 ((s.stream q).next + 1)

/-- A command's messages are on a flow for it: sent and not acknowledged, or waiting for the window (R309, R311). -/
def OnFlow (t : State) (f : Nat) (owner : Option (Nat × Nat)) (ms : List Msg) : Prop :=
  ∀ m ∈ ms, ∃ x ∈ (t.flow f).unacked ++ (t.flow f).sendq, x.owner = owner ∧ { x.m with fseq := m.fseq } = m

/-! ### What tensor and vector commands compute -/

/-- The tiles of a TE_ACCUMULATE that are present, by the mask it read as it was taken up (R72, R89). -/
def tilesPresent (m : Cmd) : List Nat :=
  (List.range (accTiles m.d)).filter fun i => dfld m.d 0x10 40 1 == 0 || (maskBit m.mask i).1

/-- The metadata of the `p`-th stored weight tile (R76). -/
def State.tileMetadata (s : State) (m : Cmd) (g : Group) (p : Nat) : PBytes :=
  s.rdScr m.core (dfld m.d 0x28 0 21 + p * 1024) (tileMeta g.sparse)

/-- The columns of the `p`-th stored weight tile. -/
def State.tileColumns (s : State) (m : Cmd) (g : Group) (p : Nat) : List WCol :=
  tileCols (accW m.d) g.sparse (s.rdScr m.core (dfld m.d 0x20 0 21 + p * tileElems (accW m.d)) (tileElems (accW m.d)))
    (s.rdScr m.core (dfld m.d 0x20 32 21 + p * tileScales (accW m.d) g.sparse) (tileScales (accW m.d) g.sparse)) (s.tileMetadata m g p)

/-- The activation rows of tile `i`. -/
def State.tileRows (s : State) (m : Cmd) (g : Group) (i : Nat) : List ARow :=
  (List.range g.m).map (s.actRow m g i (tileValid m.d g.sparse i))

/-- Activation blocks of tile `i` that are skipped against the `p`-th stored weight tile (R90). -/
def State.tileSkips (s : State) (m : Cmd) (g : Group) (i p : Nat) : Nat :=
  let valid := tileValid m.d g.sparse i
  let bad := (List.range (cdiv valid 32)).map (weightBad (accW m.d) (s.tileColumns m g p))
  ((s.tileRows m g i).map fun r =>
    ((List.range (cdiv valid 32)).filter fun b => skipBlock (accA m.d) valid (bad.getD b true) r b).length).foldl (· + ·) 0

/-- The group after every present tile was added in order and the K-tile counter advanced (R81, R84). -/
def State.accumulatedTo (s : State) (m : Cmd) (g : Group) : Group :=
  let g' := ((tilesPresent m).zipIdx).foldl (fun a x => tilePass { m with piece := x.1 } a (s.tileColumns m g x.2) (s.tileRows m g x.1)) g
  { g' with t := g.t + accTiles m.d }

/-- The command's operands are good: no poisoned mask byte, and for every present tile its extents inside scratch and metadata that is
clean and in order (R72, R87, R273). -/
def State.tilesGood (s : State) (m : Cmd) (g : Group) : Bool :=
  ((List.range (accTiles m.d)).all fun i => dfld m.d 0x10 40 1 == 0 || !(maskBit m.mask i).2) &&
    (tilesPresent m).zipIdx.all fun x =>
      !(g.sparse && (anyPoison (s.tileMetadata m g x.2) || badMeta (s.tileMetadata m g x.2))) &&
        !(dfld m.d 0x10 40 1 == 1 && accPast m.d g x.1 (x.1 + 1) x.2 (x.2 + 1))

/-- The rows a VE_MAP computes, in FP32 with poison: uniform draws, or the function of its operands (R133, R142). -/
def State.mapped (s : State) (m : Cmd) : List (List (Nat × Bool)) :=
  if veFunc m.d = 0x20 then
    (uniformRows s (veCols m.d) (veRows m.d) { core := m.core, ctx := m.ctx }).1.map fun row => row.map fun x => (x, false)
  else (List.range (veRows m.d)).map (s.mapRow m.core m.d)

/-- Byte runs written to places of a core's scratch, one after another. -/
def State.wroteScr (s : State) (core : Nat) (ws : List (Nat × PBytes)) : State := (Act.each ws fun w => .wrScr core w.1 w.2).run s

/-- What a TE_END writes: the records of a reduction group's rows, or the rows of a SUM group with their scales, unless it only folds
(R77, R92). -/
def State.ended (s : State) (m : Cmd) : List (Nat × PBytes) :=
  let g := s.teGroup m
  let f := (dfmt (dfld m.d 0x10 3 4)).getD .fp32
  let stride := dfld m.d 0x18 32 21
  if g.mode ≠ 0 then [(dfld m.d 0x10 32 21, (List.range g.m).flatMap fun r => (redRecord (tget g.cells r)).1)]
  else if dfld m.d 0x10 8 2 = 1 then []
  else (List.range g.m).flatMap fun i =>
    let r := g.outRow f (dfld m.d 0x10 7 1 == 1) i
    (dfld m.d 0x10 32 21 + i * stride, r.elems) ::
      if f.mx then [(dfld m.d 0x18 0 21 + i * (stride / f.blockBytes), r.scales)] else []

/-- The groups of a tensor engine's context after a TE_END: its own is closed; a folded one holds the better of its rows and the group's
sums (R81, R91). -/
def State.groupAfterEnd (s : State) (m : Cmd) (key : Nat) : Option Group :=
  let g := s.teGroup m
  let old := (s.ctxCore m.core m.ctx).grp
  let red := hEngine m.d * 8 + dfld m.d 0x10 10 3
  if key = hEngine m.d * 8 + dfld m.d 0x10 0 3 then none
  else if g.mode = 0 ∧ dfld m.d 0x10 8 2 ≠ 0 ∧ key = red then some (foldGroup g (tgetD old red {}) (dfld m.d 0x20 0 32))
  else tget old key

/-- The results of a VE_REDUCE, row by row: FP32, or value and index, poisoned where an element of the row is (R135, R273). -/
def State.reduced (s : State) (m : Cmd) : List (Nat × PBytes) :=
  let w := reduceWidth (veFunc m.d)
  (List.range (veRows m.d)).map fun i =>
    let xs := s.veARow m.core m.d i
    (dfld m.d 0x28 0 21 + i * strideOf m.d w, (leBytes w (reduceOne (veFunc m.d) (xs.map Prod.fst))).map fun b => (b, xs.any Prod.snd))

/-- The first `n` rows of a VE_SAMPLE in order, token and log-probability each, and the lanes after their draws (R137, R142). -/
def State.sampledTo (s : State) (m : Cmd) : Nat → List (Nat × PBytes) × Lanes
  | 0 => ([], { core := m.core, ctx := m.ctx })
  | r + 1 =>
    let before := s.sampledTo m r
    let par := s.rdScr m.core (dfld m.d 0x20 0 21 + 16 * r) 16
    let v := leNat (dataOf par)
    let a := s.veARow m.core m.d r
    let x := sampleRow s (veFunc m.d) r (bits v 0 32) (bits v 32 32) (bits v 64 32) (a.map Prod.fst) before.2
    (before.1 ++ [(dfld m.d 0x28 0 21 + 8 * r,
      (leBytes 8 (x.1 + x.2.1 * 2 ^ 32)).map fun b => (b, anyPoison par || a.any Prod.snd))], x.2.2)

/-- The eight choice records of each token of a VE_TOPK_GATE, and the tokens whose logits hold a NaN (R171, R172). -/
def State.gated (s : State) (m : Cmd) : List (Nat × PBytes) × Nat :=
  let bias := s.tgBias m
  let token (t : Nat) : List Nat × Bool := topkToken m.d t ((s.veARow m.core m.d t).map Prod.fst) (bias.map Prod.fst)
  ((List.range (veRows m.d)).map fun t => (dfld m.d 0x28 0 21 + 64 * t, ((token t).1.flatMap (leBytes 8)).map fun b =>
      (b, (s.veARow m.core m.d t).any Prod.snd || bias.any Prod.snd)),
    ((List.range (veRows m.d)).filter fun t => (token t).2).length)

/-- What one block of 32 elements of a VE_UPDATE writes in place, and what it counts: both moments in INT8 with their scales, and the
halves of class S or the parts of class C with theirs (R243 to R248). -/
def State.updates (s : State) (m : Cmd) (h : Hyper) (poisoned : Bool) (b : Nat) (rs : List Nat) : List (Nat × PBytes) × UpCount :=
  let d := m.d
  let ins := s.upBlock m b
  let els := ins.map (upElement h)
  let po := ins.map fun x => x.poison || poisoned
  let mean := blockOut .int8 (upFit d) (els.map UpEl.m) po
  let root := blockOut .int8 (upFit d) (els.map UpEl.s) po
  let codes (f : DFmt) (a : Nat) (cs : List (Nat × Bool)) : Nat × PBytes := (a + f.bytes (32 * b), packCodes f cs)
  let scale (a : Nat) (x : Nat × Bool) : Nat × PBytes := (a + b, [(BitVec.ofNat 8 x.1, x.2)])
  let moments := [codes .int8 (dfld d 0x28 0 21) mean.codes, scale (dfld d 0x28 21 21) mean.scale,
    codes .int8 (dfld d 0x28 42 21) root.codes, scale (dfld d 0x30 0 21) root.scale]
  let counts : UpCount := { flushed := mean.flushed + root.flushed, momSat := if upFit d then 0 else mean.sat + root.sat }
  if upC d then
    let c := upClassC d (els.map UpEl.x) rs po
    (moments ++ [codes (upPFmt d) (dfld d 0x18 21 21) c.1.codes, scale (dfld d 0x18 42 21) c.1.scale,
      codes (upRFmt d) (dfld d 0x20 0 21) c.2.1.codes, scale (dfld d 0x20 21 21) c.2.1.scale],
      (counts.add c.2.2).add { skipped := (els.filter UpEl.skipped).length })
  else
    let c := ((els.zip rs).zip po).map fun p => upClassS d p.1.1 p.1.2 p.2
    (moments ++ [codes .bf16 (dfld d 0x18 21 21) (c.map fun x => x.1), codes .bf16 (dfld d 0x20 0 21) (c.map fun x => x.2.1)],
      (c.map fun x => x.2.2).foldl UpCount.add counts)

/-- The first `n` blocks of a VE_UPDATE one after another, each with 16 bits for every element from its column's lane (R142, R245). -/
def State.updatedTo (s : State) (m : Cmd) (h : Hyper) (poisoned : Bool) : Nat → State × Lanes × UpCount
  | 0 => (s, { core := m.core, ctx := m.ctx }, {})
  | b + 1 =>
    let before := s.updatedTo m h poisoned b
    let r := draw16 s 32 (32 * b % upCols m.d) before.2.1
    let u := before.1.updates m h poisoned b r.1
    (before.1.wroteScr m.core u.1, r.2, before.2.2.add u.2)

/-! ### What attention commands compute -/

/-- One row of a forward attention command: a record, a KV head, a unit of the record, a query token of the record, and the query head's
place in its group (R163, R170). -/
structure AttnRow where
  r : SeqRec
  h : Nat
  u : Nat × Nat
  tok : Nat
  g : Nat

/-- The rows of a forward command, record by record, head by head, unit by unit. -/
def State.attnRows (s : State) (m : Cmd) : List AttnRow :=
  (s.seqRecs m).flatMap fun r => (List.range (atHeads m.d)).flatMap fun h => (atUnits m.d r).flatMap fun u =>
    (List.range u.2).flatMap fun i => (List.range (atG m.d)).map fun g => ⟨r, h, u, u.1 + i, g⟩

/-- The query head of a row, and its row in the arrays. -/
def AttnRow.q (x : AttnRow) (d : Desc) : Nat := x.h * atG d + x.g
def AttnRow.t (x : AttnRow) : Nat := x.r.qFirst + x.tok

/-- A row after its first `n` blocks of keys and values: running maximum, sum and outputs (R163). -/
def State.attended (s : State) (m : Cmd) (x : AttnRow) : Nat → RowSt
  | 0 => { mx := fNInf, l := 0, acc := List.replicate (atDim m.d) 0 }
  | j + 1 => rowBlock m.d (if atTarn m.d && atQFmt m.d == 3 then .e4m3 else .bf16) x.r.keys (x.r.pos0 + x.tok) j
      (s.qRow m x.t (x.q m.d)) (s.kvBlock m x.r x.h j) (s.attended m x j)

/-- A row after every block its unit visits. -/
def State.attendedAll (s : State) (m : Cmd) (x : AttnRow) : RowSt := s.attended m x (unitBlocks m.d x.r x.u)

/-- A row's result carries poison: that of its query or of a block it visits (R168, R273). -/
def State.attnPoison (s : State) (m : Cmd) (x : AttnRow) : Bool :=
  (s.qRow m x.t (x.q m.d)).poison || (List.range (unitBlocks m.d x.r x.u)).any fun j => (s.kvBlock m x.r x.h j).poison

/-- What a row writes: its output in O's format with scales, and its LSE where that is saved (R160, R164). -/
def State.attnWrites (s : State) (m : Cmd) (x : AttnRow) : List (Nat × PBytes) :=
  let d := m.d
  let f := atO d
  let o := (s.attendedAll m x).out
  let p := s.attnPoison m x
  let row := writeVals f (atFit d) (o.1.map fun v => (fp32.val v, p))
  let q := x.q d
  (dfld d 0x20 21 21 + x.t * atOStride d + f.bytes (q * atDim d), row.elems) ::
    (if f.mx then [(dfld d 0x28 42 21 + x.t * (atOStride d / f.blockBytes) + q * atDim d / 32, row.scales)] else []) ++
    if atSaveLse d then [(dfld d 0x28 0 21 + (x.t * atHeads d * atG d + q) * 4, (leBytes 4 o.2).map fun b => (b, p))] else []

/-- The tarn's places that a command with APPEND writes first, with their bytes (R165). -/
def State.appends (s : State) (m : Cmd) : List (List (MemSel × Nat × Nat) × PBytes) :=
  if !atAppend m.d then [] else
  (s.seqRecs m).flatMap fun r => match r.named with
    | none => []
    | some x => (List.range r.qTokens).flatMap fun i => (List.range (atHeads m.d)).flatMap fun h =>
        (s.appendHead m x.2.1 x.2.2 (r.qFirst + i) (x.2.2.fill + i) h).1

/-- The state in which a forward command attends: its keys and values are in the tarn (R165, R170). -/
def State.appended (s : State) (m : Cmd) : State := (Act.each (s.appends m) fun w => .wrSpan w.1 w.2).run s

/-- Its counts: blocks visited, rows with no visible key, rows with a NaN or infinite score, positions appended (R164, R165). -/
def State.attnCounts (s : State) (m : Cmd) : List Nat :=
  [((s.seqRecs m).flatMap fun r => (List.range (atHeads m.d)).flatMap fun _ => (atUnits m.d r).map (unitBlocks m.d r)).foldl (· + ·) 0,
    ((s.attnRows m).filter fun x => !(s.attendedAll m x).seen).length, ((s.attnRows m).filter fun x => (s.attendedAll m x).bad).length,
    if atAppend m.d then (((s.seqRecs m).filter fun r => r.named.isSome).map SeqRec.qTokens).foldl (· + ·) 0 else 0]

/-- dQ of a query row with dS · K added in place: where it goes, and its bytes (R169). -/
def State.queryGradient (s : State) (m : Cmd) (x : BwdRow) (poisoned : Bool) (ds : FVec) (kcols : List FVec) : Nat × PBytes :=
  let g := s.grad m 1
  let f := (dfmt g.2.1).getD .fp32
  let w := f.ebits / 8
  let a := g.1 + x.t * g.2.2 + w * x.q * atDim m.d
  (a, (w40Out f (((valsOf f (atDim m.d) (s.rdScr m.core a (w * atDim m.d)) []).zip kcols).map fun p =>
    (((dotInto (atQ m.d) .bf16 ds p.2 (some (w40.arith p.1.1, false))).getD (0, false)).1, p.1.2 || poisoned))).elems)

/-- One unit of query rows against block `j` of keys: dQ in place, row after row, and what the rows add to the block's dK and dV, with
poison (R169). -/
def State.unitGradients (s : State) (m : Cmd) (r : SeqRec) (h j : Nat) (b : KvBlock) (acc : BwdAcc × Bool) (u : Nat × Nat) :
    State × BwdAcc × Bool :=
  let d := m.d
  let dof := (dfmt (s.grad m 0).2.1).getD .bf16
  let rows := (List.range u.2).flatMap fun i => (List.range (atG d)).map fun g => s.bwdRow m r h (u.1 + i) g
  let ps := rows.map (bwdRowBlock d dof r.keys j b (turnVec 64 b.v))
  let columns (l : List (List Nat)) : List FVec := (Machine.turn 64 l).map fun c => convVec (atQ d) false c
  ((rows.zip ps).foldl (fun y x => y.wroteScr m.core
      [y.queryGradient m x.1 (b.poison || x.1.poison) (convVec (atQ d) false x.2.2) (turnVec (atDim d) b.k)]) s,
    ⟨addProducts (atQ d) (atQ d) acc.1.dk (columns (ps.map Prod.snd)) (turnVec (atDim d) (rows.map fun x => x.qv)),
      addProducts (atQ d) dof acc.1.dv (columns (ps.map Prod.fst)) (turnVec (atDim d) (rows.map fun x => x.dov))⟩,
    acc.2 || b.poison || rows.any fun x => x.poison)

/-- One block of one KV head of a record: every unit that visits it, then its rows of dK and of dV (R169). -/
def State.blockGradients (s : State) (m : Cmd) (w : SeqRec × Nat × Nat) : State :=
  let (r, h, j) := w
  let none_ : List (List Term) := List.replicate 64 (List.replicate (atDim m.d) none)
  let y := ((atUnits m.d r).filter fun u => j < unitBlocks m.d r u).foldl
    (fun (y : State × BwdAcc × Bool) u => y.1.unitGradients m r h j (s.kvScratch m r h j) y.2 u) (s, ⟨none_, none_⟩, false)
  let part (e : Nat) (t : List (List Term)) : List (Nat × PBytes) :=
    let g := s.grad m e
    let f := (dfmt g.2.1).getD .fp32
    (t.take (min 64 (r.keys - 64 * j))).zipIdx.map fun x =>
      (g.1 + (r.kvFirst + 64 * j + x.2) * g.2.2 + f.ebits / 8 * h * atDim m.d,
        (w40Out f (x.1.map fun v => ((v.getD (0, false)).1, y.2.2))).elems)
  y.1.wroteScr m.core (part 2 y.2.1.dk ++ part 3 y.2.1.dv)

/-- The state after ATTN_BWD: head by head, record by record, block by block (R169). -/
def State.backward (s : State) (m : Cmd) : State :=
  ((List.range (atHeads m.d)).flatMap fun h => (s.seqRecs m).flatMap fun r => (List.range (cdiv r.keys 64)).map fun j =>
    (r, h, j)).foldl (fun y w => y.blockGradients m w) s

/-- The lanes of a core's context after a command's draws (R142). -/
def LanesAfter (s t : State) (l : Lanes) : Prop := ∀ n, t.lane l.core l.ctx n = (tget l.adv n).getD (s.lane l.core l.ctx n)

/-- The three stores of one state are those of another. -/
def SameStores (s t : State) : Prop := t.stack = s.stack ∧ t.host = s.host ∧ t.scratch = s.scratch

/-! ### Messages -/

/-- The payload of a message's last DATA flit. -/
def lastPayload (m : Msg) : List Byte :=
  (dataOf ((wireBytes m).drop (240 * (flitCount m - 1))) ++ List.replicate 240 0#8).take 240

/-- A message leaves through a port: it waits there, whole or in part, or its last flit went out (R298, R300). -/
def Leaves (s t : State) (p : Nat) (m : Msg) : Prop :=
  (∃ o ∈ (t.port p).queue, o.m = m) ∨
    ∃ l f, t.u.outbox = s.u.outbox ++ l ∧ Out.flit p f ∈ l ∧ f.payload = lastPayload m

/-- A message of a flow as this device puts it into the col (R290, R306). -/
def State.wire (s : State) (f : Nat) (m : Msg) : Msg := { s.flowMsg f m with src := BitVec.ofNat 16 s.fabric }

/-- A message of a flow leaves by the hop that routing gives it (R300). -/
def SentOn (s t : State) (f : Nat) (m : Msg) : Prop := ∀ p m' rev, s.hop none (s.wire f m) = .out p m' rev → Leaves s t p m'

/-- A message of a type reaches this device, which takes it in (R300, R308). -/
structure ForUs (s : State) (m : Msg) (type : Nat) : Prop where
  on : s.colOn = true
  type : m.type.toNat = type
  here : s.hop none m = .here m

/-- Its flow is OPEN, names the sender and knows the sender's GEN (R305, R306, R309). -/
structure OnOpen (s : State) (m : Msg) (type : Nat) : Prop extends ForUs s m type where
  isOpen : s.flowSt m.destFlow.toNat = 2
  peer : s.matches_ m.destFlow.toNat m = true
  gen : s.peerGen m.destFlow.toNat = m.gen.toNat

/-- No data mover holds a command. -/
def NoDmWork (s : State) : Prop := ∀ x ∈ s.u.core.engQ, x.1 % 8 = 5 ∨ x.1 % 8 = 6 → x.2 = []

/-- A sequenced message comes in its turn to a device that is awake, nothing of its flow being held, no data mover waiting, and a credit
being there for the notice it asks for; memory takes no errors, which a read would mend (R309, R314, R464). -/
structure InTurn (s : State) (m : Msg) (type : Nat) : Prop extends OnOpen s m type where
  awake : s.u.pow.nap = false
  sound : s.u.mem.faulty = false
  next : m.fseq.toNat = s.recvNext m.destFlow.toNat
  held : (s.flow m.destFlow.toNat).held = []
  applied : (s.flow m.destFlow.toNat).noticeWait = false
  movers : NoDmWork s
  credit : m.notice = true → s.fld .flowCfg m.destFlow.toNat 8 11 1 = 1 → 0 < (s.gate (s.fld .flowCfg m.destFlow.toNat 8 0 8)
    (s.flowCtx m.destFlow.toNat) (s.fld .flowCfg m.destFlow.toNat 8 8 3)).credits

/-- A sequenced message was delivered: RECV_NEXT advances and nothing is held (R309). -/
def Taken (s t : State) (m : Msg) : Prop :=
  t.recvNext m.destFlow.toNat = (s.recvNext m.destFlow.toNat + 1) % 2 ^ 32 ∧ (t.flow m.destFlow.toNat).held = []

/-- A message of a kind names the molt that executes here and is past its plan check (R356). -/
structure OfMolt (s : State) (m : Msg) (kind : Nat) : Prop extends InTurn s m 10 where
  memory : s.loopback = false
  kind : bits m.aux.toNat 0 4 = kind
  molt : bits m.aux.toNat 8 16 = s.u.molt.id
  named : s.u.molt.id ≠ 0xFFFF
  runs : s.moltRuns = true
  ctx : s.u.moltCtx = s.flowCtx m.destFlow.toNat
  checked : s.rd .moltState ≠ 1

/-- The request that a descriptor of a request queue makes (R187). -/
def State.reqOf (s : State) (q : Nat) (d : Desc) : Req :=
  { idx := s.qHead q, time := s.now, w0 := Desc.w d 0, w1 := Desc.w d 1, w2 := Desc.w d 2, w3 := Desc.w d 3, w4 := Desc.w d 4 }

/-- The last three words of a request are 0. -/
def reqRest (d : Desc) : Bool := [5, 6, 7].all fun k => Desc.w d k == 0

/-- The descriptor `d` is the next of the request queue of session `i`, and the new HEAD can be written at `l`; memory takes no errors
(R187, R384). -/
structure Asks (s : State) (q : Nat) (d : Desc) (i : Nat) (l : List (MemSel × Nat × Nat)) : Prop where
  session : ∃ x, s.reqSession q = some (i, x)
  runs : s.runs = true
  memory : s.loopback = false
  served : s.fwRuns = true
  valid : s.qValid q = true
  kind : s.qKind q = 1
  ready : s.ctxState (s.qCtx q) = 1
  waits : s.qHead q ≠ s.qTail q
  bytes : s.rdCtx (s.qCtx q) (s.descAddr q (s.qHead q)) 64 = .ok ((descBytes d).map fun b => (b, false))
  head : s.span (s.qCtx q) (s.qHeadAddr q) 4 true = .ok l
  sound : s.u.mem.faulty = false

/-- The state after a request was read: HEAD has advanced, in its entry and in memory (R187, R384). -/
def ReadBy (s t : State) (q : Nat) (l : List (MemSel × Nat × Nat)) : Prop :=
  t.qHead q = (s.qHead q + 1) % 2 ^ 32 ∧ SameStores t ((Act.wrSpan l (cleanBytes 4 ((s.qHead q + 1) % 2 ^ 32))).run s)

/-! ### Boundaries of sessions -/

/-- A boundary of session `i` is left to the base policy: no CANCEL or CLOSE waits, no module gave an order, and the session is not pinned
(R189, R191, R201). -/
structure Plain (s : State) (i : Nat) : Prop where
  reqs : (s.ses i).reqs = []
  policy : (s.ses i).policy = none
  unpinned : (s.ses i).fld 0 52 1 = 0

/-- It has no deadlines either (R198). -/
structure Unhurried (s : State) (i : Nat) : Prop extends Plain s i where
  targets : ∀ first, (s.ses i).target first = 0

/-- A token is one of the session's eight stop tokens (R178, R196). -/
def Sess.stops (x : Sess) (v : Nat) : Prop := ∃ k, k < 8 ∧ v ≠ 0xFFFFFFFF ∧ x.fld (0x58 + 8 * (k / 2)) (32 * (k % 2)) 32 = v

/-- Why a delivery ends with a token, the sequence then having that many tokens generated and keys: STOP, MAX_NEW, MAX_LEN (R196). -/
def EndsBy (x : Sess) (q : Sq) (v gen keys reason : Nat) : Prop :=
  (reason = 1 ∧ x.stops v) ∨ (reason = 2 ∧ ¬ x.stops v ∧ q.maxNew ≤ gen) ∨
    (reason = 3 ∧ ¬ x.stops v ∧ gen < q.maxNew ∧ x.maxLen ≤ keys)

/-- Nothing ends the delivery with that token. -/
def GoesOn (x : Sess) (q : Sq) (v gen keys : Nat) : Prop := ¬ x.stops v ∧ gen < q.maxNew ∧ keys < x.maxLen

/-- A sequence has left at a boundary: its pages join the pending set, or wait for the commands that name its handle (R154, R155). -/
def Left (b : Bnd) (h : Nat) (q : Sq) : Prop := b.x.seqs = [] ∧ (h, q.pages.flatten) ∈ b.pend ++ b.held

end Sys2Proof.Machine
end

