-- ==== Sys2Proof/Certificates/Slice0/Obligations.lean ====
section
/-! DEFINITION. The statements for the provers, in the terms of Safety: the queue and the whole machine, then the commands family by
family in the order of the spec's files. -/

open Sys2Proof Sys2Proof.Machine

/-! ### The queue, the whole machine -/

/-- A step takes the command at the front of the queue and runs it on the state with the queue's rest. -/
def Obligations.StepRunsTheFrontCommand : Prop :=
  ∀ (c : Instr) (rest : List Instr) (s : State), step { s with pending := c :: rest } = exec c { s with pending := rest }

/-- With no command waiting, one cycle of the 25 MHz reference passes and local time is interpolated to some nanosecond of it, but for
DEEP; without input power nothing happens (log entry 1: the model's choice). -/
def Obligations.IdleStepIsOneReferenceCycle : Prop :=
  ∀ s : State, s.pending = [] →
    (s.u.pow.power = true → ∃ frac, frac < 40 ∧ (s.u.pow.deep = true → frac = 0) ∧
      step s = .next { s with u := { s.u with now := (s.u.now + 40) % 2 ^ 64, frac := frac, free := s.u.free + 1 } }) ∧
    (s.u.pow.power = false → step s = .next s)

/-- Every command answers a next state, whatever the state, and leaves the commands behind it as they are. -/
def Obligations.EveryCommandAnswersANextState : Prop :=
  ∀ (c : Instr) (s : State), Completes c s fun t => t.pending = s.pending

/-- The state after reset meets the invariant. -/
def Obligations.ResetMeetsTheInvariant : Prop := State.reset.Inv

/-- Every step keeps the invariant: the byte stores and the register file stay in canonical form, no address lies outside its space, no
entry holds a value wider than it is, and no FIXED entry holds a value of its own. -/
def Obligations.EveryStepKeepsTheInvariant : Prop := ∀ s t : State, s.Inv → step s = .next t → t.Inv

/-- No command changes what an entry of class FIXED reads. -/
def Obligations.FixedEntriesNeverChange : Prop :=
  ∀ (c : Instr) (s t : State) (n : EName) (i : Nat), s.Inv → exec c s = .next t → n.info.pers = .fixed → i < n.count →
    t.rd n i = s.rd n i

/-- After power-good every entry reads its default: local time 0, READY 0, no command waiting, nothing in memory. Memory that nothing has
written reads 0 (log entry 3), and so do the straps before their latch, from which STRAP entries take their defaults (log entry 9): the
model's choices. -/
def Obligations.ResetLeavesDefaults : Prop :=
  (∀ (n : EName) (i : Nat), State.reset.rd n i = n.fit (n.dfltOf i 0)) ∧ State.reset.now = 0 ∧ State.reset.u.pow.ready = false ∧
    State.reset.pending = [] ∧ ∀ (m : MemSel) (a n : Nat), State.reset.rdMem m a n = List.replicate n (0#8, false)

/-! ### Descriptors (R97 to R147) -/

/-- The sequencer's own commands. NOP retires and does nothing more; JOB_BEGIN opens a job, JOB_END closes it once every earlier command
retired; GATE_SET gives a gate its capacity, all of it credits; FLAG_SET computes a flag word; a FENCE with nothing to wait for
retires at once. Any command whose predicate does not hold is skipped: it retires at once with status SKIPPED, enters no engine and
changes no gate, flag word, job, group or memory; BLAST closes its bundle all the same. -/
def Obligations.SequencerCommandsTakeEffect : Prop :=
  (∀ (s : State) (q : Fin 65536) (k : Nat) (d : Desc) (c : Instr), Passes s q k d → s.predOk (s.qCore q) (s.qCtx q) d = false →
    commandOf q d = some c → Completes c s fun t =>
      (∃ f ∈ (t.stream q).fly, f.idx = (s.stream q).next ∧ f.d = d ∧ f.done = true ∧ f.status = 1 ∧ f.reason = 0 ∧ f.res = 0 ∧ f.res2 = 0) ∧
      TookOne s t q ∧ t.u.core.engQ = s.u.core.engQ ∧ t.u.core.mon = s.u.core.mon ∧
      (∀ core ctx g, t.gate core ctx g = s.gate core ctx g ∧ t.flag core ctx g = s.flag core ctx g) ∧
      (∀ core ctx, (t.ctxCore core ctx).grp = (s.ctxCore core ctx).grp ∧ (t.ctxCore core ctx).dgrp = (s.ctxCore core ctx).dgrp) ∧
      (t.stream q).jobOpen = (s.stream q).jobOpen ∧ (t.stream q).bundle = (if hBlast d then 0 else hBundle d) ∧
      SameMem s t ∧ SameEntriesBut [(.columnState, 0), (.deviceState, 0)] s t) ∧
  ∀ (s : State) (q : Fin 65536) (k : Nat) (d : Desc), Ready s q k d →
    (hOpcode d = 0 → Completes (.nop q d) s fun t => Retired t q (s.stream q).next d 0 0 ∧ TookOne s t q ∧ SameMem s t ∧
      SameEntriesBut [(.columnState, 0), (.deviceState, 0)] s t) ∧
    (hOpcode d = 1 → Completes (.jobBegin q d) s fun t => Retired t q (s.stream q).next d 0 0 ∧ TookOne s t q ∧
      (t.stream q).jobOpen = true ∧ (t.stream q).jobLearn = (dfld d 0x10 0 1 == 1) ∧ SameMem s t) ∧
    (hOpcode d = 2 → allRetired (s.stream q) = true → Completes (.jobEnd q d) s fun t => Retired t q (s.stream q).next d 0 0 ∧
      TookOne s t q ∧ (t.stream q).jobOpen = false) ∧
    (hOpcode d = 3 → s.fenceSet q (s.qCtx q) (dfld d 0x10 0 1) = [] → (dfld d 0x10 0 1 = 1 → s.moltOf (s.qCtx q) = false) →
      Completes (.fence q d) s fun t => Retired t q (s.stream q).next d 0 0 ∧ TookOne s t q ∧ SameMem s t) ∧
    (hOpcode d = 4 → s.gateBusy (s.qCore q) (s.qCtx q) (dfld d 0x10 0 3) = false → Completes (.gateSet q d) s fun t =>
      t.gate (s.qCore q) (s.qCtx q) (dfld d 0x10 0 3) = ⟨dfld d 0x10 16 10, dfld d 0x10 16 10, 0⟩ ∧
        Retired t q (s.stream q).next d 0 0 ∧ TookOne s t q ∧ SameMem s t) ∧
    (hOpcode d = 5 → ((s.stream q).fly.any fun f => !f.done && hOpcode f.d == 0x43 && dfld f.d 0x38 32 4 == dfld d 0x10 0 4) = false →
      Completes (.flagSet q d) s fun t =>
        t.flag (s.qCore q) (s.qCtx q) (dfld d 0x10 0 4) = flagOp (dfld d 0x10 4 2) (s.flag (s.qCore q) (s.qCtx q) (dfld d 0x10 0 4))
            (dfld d 0x10 32 32) % 2 ^ 32 ∧
          Retired t q (s.stream q).next d 0 0 ∧ TookOne s t q ∧ SameMem s t)

/-- A descriptor with a reserved opcode faults its context: the context is torn down, the recovery epoch rises, and FAULT_INFO names the
queue, status ILLEGAL and reason OPCODE. -/
def Obligations.ReservedOpcodeFaultsItsContext : Prop :=
  ∀ (s : State) (q : Fin 65536) (k : Nat) (d : Desc), Comes s q k d → opClass (hOpcode d) = none →
    Completes (.reservedOpcode q d) s fun t => t.ctxState (s.qCtx q) = 2 ∧ t.fld .faultInfo (s.qCtx q) 0 0 16 = q ∧
      t.fld .faultInfo (s.qCtx q) 4 0 8 = 3 ∧ t.fld .faultInfo (s.qCtx q) 5 0 8 = 0x10 ∧
      t.rd .recoveryEpoch = (s.rd .recoveryEpoch + 1) % 2 ^ 32 ∧ SameMem s t

/-- A command alone in its engines runs piece by piece between the claims and returns of its gates, all in one step (log entry 19: the
model's choice). With no piece left it retires; with answers due it keeps its engine and waits. -/
def Obligations.EngineCommandsRunTheirPieces : Prop :=
  ∀ (s : State) (q : Fin 65536) (k n : Nat) (d : Desc) (o : Bool) (c : Cmd) (y : State), Lone s q k d → Supplied s q d n → n ≤ 65536 →
    hOpcode d ≠ 0x84 → RunsTo s q k d n o c y →
    let t : State := if o then (Act.all [.pieceEnd c, .bundleStart c, .retire c]).run y else y
    (hOpcode d = 0x10 → exec (.attnFwd q d) s = .next t) ∧ (hOpcode d = 0x11 → exec (.attnBwd q d) s = .next t) ∧
    (hOpcode d = 0x12 → exec (.attnVerify q d) s = .next t) ∧ (hOpcode d = 0x20 → exec (.teBegin q d) s = .next t) ∧
    (hOpcode d = 0x21 → exec (.teAccumulate q d) s = .next t) ∧ (hOpcode d = 0x22 → exec (.teEnd q d) s = .next t) ∧
    (hOpcode d = 0x40 → exec (.veMap q d) s = .next t) ∧ (hOpcode d = 0x41 → exec (.veReduce q d) s = .next t) ∧
    (hOpcode d = 0x42 → exec (.veSample q d) s = .next t) ∧ (hOpcode d = 0x43 → exec (.veFlag q d) s = .next t) ∧
    (hOpcode d = 0x44 → exec (.vePepperSave q d) s = .next t) ∧ (hOpcode d = 0x45 → exec (.vePepperLoad q d) s = .next t) ∧
    (hOpcode d = 0x48 → exec (.veTopkGate q d) s = .next t) ∧ (hOpcode d = 0x4C → exec (.veUpdate q d) s = .next t) ∧
    (hOpcode d = 0x80 → dmT d ≠ 8 → exec (.dmCopy q d) s = .next t) ∧ (hOpcode d = 0x80 → dmT d = 8 → exec (.accumW40 q d) s = .next t) ∧
    (hOpcode d = 0x85 → exec (.dmDispatch q d) s = .next t) ∧ (hOpcode d = 0x86 → exec (.dmScreePush q d) s = .next t) ∧
    (hOpcode d = 0x87 → exec (.dmScreePop q d) s = .next t) ∧ (hOpcode d = 0x88 → exec (.dmMoltSegment q d) s = .next t) ∧
    (hOpcode d = 0x89 → exec (.dmDigest q d) s = .next t) ∧ (hOpcode d = 0x8A → exec (.dmPut q d) s = .next t) ∧
    (hOpcode d = 0x8B → exec (.dmGet q d) s = .next t) ∧ (hOpcode d = 0x8C → exec (.dmAtomicAdd q d) s = .next t)

/-- TE_BEGIN opens its group, empty or preloaded. TE_END writes the group's rows or records, folds its sums into a reduction group where
it says so, closes it, and leaves every other group as it is. -/
def Obligations.TensorGroupsOpenAndClose : Prop :=
  ∀ (s : State) (q : Fin 65536) (k : Nat) (d : Desc), Lone s q k d → Supplied s q d 1 →
    (hOpcode d = 0x20 → Completes (.teBegin q d) s fun t =>
      tget (t.ctxCore (s.qCore q) (s.qCtx q)).grp (hEngine d * 8 + dfld d 0x10 0 3) = some { beginGroup d with
        cells := if dfld d 0x10 5 1 = 1 then preloadCells s (s.cmdOf q d) (beginGroup d) else [] } ∧
      tget (t.ctxCore (s.qCore q) (s.qCtx q)).dgrp (hEngine d * 8 + dfld d 0x10 0 3) = some (beginGroup d) ∧
      Retired t q (s.stream q).next d 0 0 ∧ SameStores s t) ∧
    (hOpcode d = 0x22 → Completes (.teEnd q d) s fun t =>
      (∀ g, tget (t.ctxCore (s.qCore q) (s.qCtx q)).grp g = s.groupAfterEnd (s.cmdOf q d) g) ∧
      tget (t.ctxCore (s.qCore q) (s.qCtx q)).dgrp (hEngine d * 8 + dfld d 0x10 0 3) = none ∧
      SameStores (s.wroteScr (s.qCore q) (s.ended (s.cmdOf q d))) t ∧ Retired t q (s.stream q).next d 0 0)

/-- TE_ACCUMULATE adds every present tile to its group in the fixed order, advances the K-tile counter by all its tiles, and reports the
tiles present and the activation blocks skipped. -/
def Obligations.TeAccumulateAddsItsTiles : Prop :=
  ∀ (s : State) (q : Fin 65536) (k : Nat) (d : Desc), Lone s q k d → hOpcode d = 0x21 →
    let m := teMask s (s.cmdOf q d)
    let g := s.teGroup m
    Supplied s q d (tilesPresent m).length → s.tilesGood m g = true →
    Completes (.teAccumulate q d) s fun t => t.teGroup m = s.accumulatedTo m g ∧ SameStores s t ∧
      Retired t q (s.stream q).next d (tilesPresent m).length
        ((((tilesPresent m).zipIdx).map fun x => s.tileSkips m g x.1 x.2).foldl (· + ·) 0)

/-- VE_MAP writes its rows in OUT_FMT, UNIFORM once the lanes are ready. VE_REDUCE writes the result of every row, VE_SAMPLE the token and
log-probability that its draws give, VE_TOPK_GATE the choice records of every token, and VE_UPDATE each block of 32 elements in place and
its counts into the parameter record. The lanes drawn from take their new states. ATTN_FWD and ATTN_VERIFY append to the tarn where they
are told to, and then write the outputs of every query row over the blocks it visits; ATTN_BWD adds dQ in place and writes dK and dV. A
fused command that passes its checks leaves the accumulator groups as they were. Sigmoid and softmax are composed as log entry 28 says,
and the open points of attention are log entries 72 and 112: the model's readings. -/
def Obligations.VectorAndAttentionCommandsWriteTheirResults : Prop :=
  ∀ (s : State) (q : Fin 65536) (k : Nat) (d : Desc), Lone s q k d → Supplied s q d 1 →
    let m := s.cmdOf q d
    (hOpcode d = 0x40 → (veFunc d = 0x20 → s.pepperReady (s.qCtx q) = true) → Completes (.veMap q d) s fun t =>
      SameStores ((Act.veWrite (s.qCore q) d (s.mapped m) fun _ _ => .skip).run s) t ∧ Retired t q (s.stream q).next d 0 0) ∧
    (hOpcode d = 0x41 → Completes (.veReduce q d) s fun t => SameStores (s.wroteScr (s.qCore q) (s.reduced m)) t ∧
      Retired t q (s.stream q).next d 0 0) ∧
    (hOpcode d = 0x42 → s.pepperReady (s.qCtx q) = true → Completes (.veSample q d) s fun t =>
      SameStores (s.wroteScr (s.qCore q) (s.sampledTo m (veRows d)).1) t ∧ LanesAfter s t (s.sampledTo m (veRows d)).2 ∧
      Retired t q (s.stream q).next d 0 0) ∧
    (hOpcode d = 0x48 → s.qCore q < 192 → Completes (.veTopkGate q d) s fun t =>
      SameStores (s.wroteScr (s.qCore q) (s.gated m).1) t ∧
      t.cnt .attnMoeCount (s.qCore q) 7 = (s.cnt .attnMoeCount (s.qCore q) 7 + (s.gated m).2) % 2 ^ 64 ∧
      Retired t q (s.stream q).next d 0 0) ∧
    (let rb := s.rdScr (s.qCore q) (upRec d) 64
     let v := leNat (dataOf rb)
     let u := s.updatedTo m (hyperOf v) (anyPoison (rb.take 0x28)) (upN d / 32)
     hOpcode d = 0x4C → s.pepperReady (s.qCtx q) = true → recWord v 10 = 0 → recWord v 11 = 0 → Completes (.veUpdate q d) s fun t =>
      SameStores (u.1.wroteScr (s.qCore q) [(upRec d + 0x30, (recResults v u.2.2).map fun b => (b, anyPoison (rb.drop 0x30)))]) t ∧
      LanesAfter s t u.2.1 ∧
      (∀ k, k < 4 → t.cnt .updateCount 0 k = (s.cnt .updateCount 0 k +
        [upN d - u.2.2.skipped, u.2.2.skipped, u.2.2.lowSat, u.2.2.momSat].getD k 0) % 2 ^ 64) ∧ Retired t q (s.stream q).next d 0 0) ∧
    (s.atReason m = none →
      let attends (t : State) : Prop :=
        SameStores ((s.appended m).wroteScr (s.qCore q) (((s.appended m).attnRows m).flatMap ((s.appended m).attnWrites m))) t ∧
        (s.qCore q < 192 → ∀ k, k < 4 → t.cnt .attnMoeCount (s.qCore q) k =
          (s.cnt .attnMoeCount (s.qCore q) k + ((s.appended m).attnCounts m).getD k 0) % 2 ^ 64) ∧
        (t.ctxCore (s.qCore q) (s.qCtx q)).grp = (s.ctxCore (s.qCore q) (s.qCtx q)).grp ∧ Retired t q (s.stream q).next d 0 0
      (s.tokensOk (s.qCtx q) (s.atPlaces m) = true → s.u.mem.faulty = false →
        (hOpcode d = 0x10 → Completes (.attnFwd q d) s attends) ∧ (hOpcode d = 0x12 → Completes (.attnVerify q d) s attends)) ∧
      (hOpcode d = 0x11 → Completes (.attnBwd q d) s fun t => SameStores (s.backward m) t ∧
        (t.ctxCore (s.qCore q) (s.qCtx q)).grp = (s.ctxCore (s.qCore q) (s.qCtx q)).grp ∧ Retired t q (s.stream q).next d 0 0))

/-- VE_FLAG writes its count to a flag word, at most 0xFFFFFFFF, and reports it; VE_PEPPER_SAVE stores the state of all 528 lanes, and
VE_PEPPER_LOAD gives them the states stored, or, where one of them is zero, faults its context with VE_PEPPER_ZERO and loads nothing.
Neither draws. -/
def Obligations.FlagAndPepperCommands : Prop :=
  ∀ (s : State) (q : Fin 65536) (k : Nat) (d : Desc), Lone s q k d → Supplied s q d 1 →
    let m := s.cmdOf q d
    (hOpcode d = 0x43 → Completes (.veFlag q d) s fun t =>
      t.flag (s.qCore q) (s.qCtx q) (dfld d 0x38 32 4) = min (s.flagCount m) 0xFFFFFFFF ∧ SameStores s t ∧
      Retired t q (s.stream q).next d (s.flagCount m) 0) ∧
    (hOpcode d = 0x44 → s.pepperReady (s.qCtx q) = true → s.Inv → s.qCore q < 192 → Completes (.vePepperSave q d) s fun t =>
      (∀ l, l < 528 → dataOf (t.rdScr (s.qCore q) (dfld d 0x28 0 21 + 16 * l) 16) = leBytes 16 (s.lane (s.qCore q) (s.qCtx q) l)) ∧
      (∀ l, t.lane (s.qCore q) (s.qCtx q) l = s.lane (s.qCore q) (s.qCtx q) l) ∧ Retired t q (s.stream q).next d 0 0) ∧
    (hOpcode d = 0x45 → (∃ l, l < 528 ∧ leNat (dataOf (s.rdScr (s.qCore q) (dfld d 0x18 0 21 + 16 * l) 16)) = 0) →
      Completes (.vePepperLoad q d) s fun t => t.ctxState (s.qCtx q) = 2 ∧ t.fld .faultInfo (s.qCtx q) 0 0 16 = q ∧
        t.fld .faultInfo (s.qCtx q) 4 0 8 = 3 ∧ t.fld .faultInfo (s.qCtx q) 5 0 8 = 0x32 ∧
        (∀ l, t.lane (s.qCore q) (s.qCtx q) l = s.lane (s.qCore q) (s.qCtx q) l) ∧ SameStores s t) ∧
    (hOpcode d = 0x45 → (∀ l, l < 528 → leNat (dataOf (s.rdScr (s.qCore q) (dfld d 0x18 0 21 + 16 * l) 16)) ≠ 0) →
      Completes (.vePepperLoad q d) s fun t =>
        (∀ l, l < 528 → t.lane (s.qCore q) (s.qCtx q) l = leNat (dataOf (s.rdScr (s.qCore q) (dfld d 0x18 0 21 + 16 * l) 16))) ∧
        SameStores s t ∧ Retired t q (s.stream q).next d 0 0)

/-- A DM_COPY of one row writes what its transform makes of the source; an ACCUM_W40 of one row adds into its containers, or drains
them. The context's partition has tokens, memory takes no errors, and the sources carry no poison here, which would be counted besides. -/
def Obligations.DataMoverRowsAreWritten : Prop :=
  ∀ (s : State) (q : Fin 65536) (k : Nat) (d : Desc), Lone s q k d → Supplied s q d 1 → hOpcode d = 0x80 → dmRows d = 1 →
    dmMask d = false → s.u.mem.faulty = false →
    let m := s.cmdOf q d
    (∀ p ls, dmT d ≠ 8 → s.planRow m 0 0 = .ok p → s.planDst m p.writes = .ok ls →
      s.tokensOk (s.qCtx q) (p.reads.flatten ++ ls.flatten) = true → (∀ l ∈ p.reads, anyPoison (s.rdSpan l) = false) →
      Completes (.dmCopy q d) s fun t => SameStores ((Act.each (ls.zip p.writes) fun x => .wrSpan x.1 x.2.2).run s) t ∧
        Retired t q (s.stream q).next d 1 0) ∧
    (∀ l, dmT d = 8 → awAcc d = true → (s.awRow m 0).2 = false →
      s.span (s.qCtx q) (dmDst d + (s.awRow m 0).1 * awDstStride d) (awDstBytes d) true id = .ok l →
      s.tokensOk (s.qCtx q) l = true → anyPoison (s.rdSpan l) = false →
      Completes (.accumW40 q d) s fun t =>
        SameStores ((Act.wrSpan l ((s.accumulated (slots8 l) (s.awSrc m 0)).flatMap containerBytes)).run s) t ∧
        Retired t q (s.stream q).next d 1 0) ∧
    (∀ l vs, dmT d = 8 → awAcc d = false → s.span (s.qCtx q) (dmSrc d) (dmRowBytes d) false id = .ok l →
      exAll ((slots8 l).zipIdx.map fun p => s.drained (s.qCtx q) (dmSrc d + 8 * p.2) p.1) = .ok vs →
      s.tokensOk (s.qCtx q) (wholeBlocks 128 (vs.flatMap fun v => v.2.2)) = true → anyPoison (s.rdSpan l) = false →
      Completes (.accumW40 q d) s fun t =>
        SameStores ((Act.wrScr (s.qCore q) (dmDst d)
          (writeVals ((dmDF d).getD .w40) false (vs.map fun v => (w40.val v.1.1, v.1.2))).elems).run s) t ∧
        Retired t q (s.stream q).next d 1 0)

/-- DM_SCREE_PUSH stores its rows above the entries held and puts its tag on top; DM_SCREE_POP returns the top entry's rows to scratch and
takes it off, and the scree that loses its last entry is EMPTY with no owner. -/
def Obligations.ScreePushAndPop : Prop :=
  ∀ (s : State) (q : Fin 65536) (k : Nat) (d : Desc), Lone s q k d → Supplied s q d 1 → s.u.mem.faulty = false →
    let core := s.qCore q
    let m := s.cmdOf q d
    s.tokensOk (s.qCtx q) [(.stack, s.u.mem.coreBase core + m.place, m.bytes)] = true →
    m.after.all (fun x => s.hasRetired x && x != m.ser) = true →
    (hOpcode d = 0x86 → Completes (.dmScreePush q d) s fun t =>
      SameStores ((Act.wrStack (s.u.mem.coreBase core + (s.scree core).used)
        ((List.range (scRows d)).flatMap fun r => s.rdScr core (scRowAt d r) (scRowBytes d))).run s) t ∧
      t.scree core = { state := 1, owner := s.qCtx q,
                       ents := ⟨(s.scree core).used, scBytes d, scTag d, tagParity (scTag d), m.ser⟩ :: (s.scree core).ents } ∧
      Retired t q (s.stream q).next d 0 0) ∧
    (∀ e r, hOpcode d = 0x87 → (s.scree core).ents = e :: r → anyPoison (s.rdStack (s.u.mem.coreBase core + e.place) e.bytes) = false →
      Completes (.dmScreePop q d) s fun t =>
        SameStores ((Act.each (List.range (scRows d)) fun i => .wrScr core (scRowAt d i)
          (((s.rdStack (s.u.mem.coreBase core + e.place) e.bytes).drop (i * scRowBytes d)).take (scRowBytes d))).run s) t ∧
        t.scree core = (if r = [] then {} else { s.scree core with state := 2, ents := r }) ∧ Retired t q (s.stream q).next d 0 0)

/-- DM_DIGEST writes the fold digest of its bytes under its key. -/
def Obligations.DmDigestWritesTheFoldDigest : Prop :=
  ∀ (s : State) (q : Fin 65536) (k : Nat) (d : Desc) (l : List (MemSel × Nat × Nat)), Lone s q k d → Supplied s q d 1 → hOpcode d = 0x89 →
    s.tokensOk (s.qCtx q) l = true → s.Inv → s.qCore q < 192 → leNat (dataOf (s.rdScr (s.qCore q) (dgKey d) 16)) ≠ 0 →
    s.span (s.qCtx q) (dgAddr d) (dgLen d) false = .ok l →
    Completes (.dmDigest q d) s fun t =>
      dataOf (t.rdScr (s.qCore q) (dgOut d) 16) =
        leBytes 16 (foldDigest (leNat (dataOf (s.rdScr (s.qCore q) (dgKey d) 16))) (dataOf (s.rdSpan l))) ∧
      Retired t q (s.stream q).next d 0 0

/-- On an OPEN flow DM_PUT sends its bytes, DM_GET its request and DM_ATOMIC_ADD its operand; the command does not retire before the
answers that R311 asks for. DM_DISPATCH gives its tokens their slots by R175, writes the rows of local experts, sends those of remote ones
on their flows with a notice on each flow (in a message of its own: log entry 68, the model's choice), and writes the records; COMBINE
writes the weighted sums of the rows returned. -/
def Obligations.FabricCommandsSendOnTheirFlow : Prop :=
  (∀ (s : State) (q : Fin 65536) (k : Nat) (d : Desc), Lone s q k d → Supplied s q d 1 → s.flowSt (fcFlow d) = 2 →
    let idx := (s.stream q).next
    (∀ l, hOpcode d = 0x8A → s.putBytes (s.cmdOf q d) = .ok l → s.tokensOk (s.qCtx q) l = true → anyPoison (s.rdSpan l) = false →
      Completes (.dmPut q d) s fun t =>
        OnFlow t (fcFlow d) (some (q.val, idx)) (dataMsgs 0 (fcRemote d) (fun _ => 0) id (dfld d 0x10 17 1 == 1) (s.rdSpan l)) ∧
        TookOne s t q ∧ (∃ f ∈ (t.stream q).fly, f.idx = idx ∧ f.d = d ∧ f.done = false)) ∧
    (hOpcode d = 0x8B → Completes (.dmGet q d) s fun t =>
        OnFlow t (fcFlow d) (some (q.val, idx)) [{ type := 1, addr := BitVec.ofNat 48 (fcRemote d), aux := BitVec.ofNat 64 (fcLen d) }] ∧
        (∃ a ∈ (t.flow (fcFlow d)).awaits, a.q = q ∧ a.idx = idx ∧ a.atomic = false ∧ a.addr = fcLocal d ∧ a.len = fcLen d) ∧
        TookOne s t q ∧ (∃ f ∈ (t.stream q).fly, f.idx = idx ∧ f.d = d ∧ f.done = false)) ∧
    (hOpcode d = 0x8C → Completes (.dmAtomicAdd q d) s fun t =>
        OnFlow t (fcFlow d) (some (q.val, idx))
          [{ type := 3, addr := BitVec.ofNat 48 (aaRemote d), aux := d.w4, op := BitVec.ofNat 2 (aaOp d) }] ∧
        (∃ a ∈ (t.flow (fcFlow d)).awaits, a.q = q ∧ a.idx = idx ∧ a.atomic = true) ∧
        TookOne s t q ∧ (∃ f ∈ (t.stream q).fly, f.idx = idx ∧ f.d = d ∧ f.done = false))) ∧
  ∀ (s : State) (q : Fin 65536) (k : Nat) (d : Desc), Lone s q k d → Supplied s q d 1 → hOpcode d = 0x85 →
    let m := s.cmdOf q d
    let core := s.qCore q
    let idx := (s.stream q).next
    let es := s.dpEntries core d
    let recs := s.dpRecords core d
    let kind (e : Nat) : Nat := bits (es.getD e (0, 0)).1 48 2
    s.dpBad m recs es = none →
    (∀ ls, dpCombine d = false → (∀ f ∈ dpFlows es, s.flowBad (s.qCtx q) f [5] = false ∧ s.flowSt f = 2) → s.u.mem.faulty = false →
      let a := assignSlots (dpK d) (dpSpill d) (fun e => bits (es.getD e (0, 0)).2 16 16) (dpExp d) recs
      let row (t : Nat) : PBytes := s.rdScr core (dpX d + t * dpRow d) (dpRow d)
      s.dpLocal m es a.rows = .ok ls → s.tokensOk (s.qCtx q) (ls.flatMap Prod.snd) = true → Completes (.dmDispatch q d) s fun t =>
        SameStores (((Act.each ls fun x => .wrSpan x.2 (row x.1)).run s).wroteScr core
          [(dpGate d, a.recs.flatMap fun ws => ws.flatMap (cleanBytes 8))]) t ∧
        (∀ x ∈ a.rows, kind x.2.1 = 1 → OnFlow t (bits (es.getD x.2.1 (0, 0)).2 0 13) (some (q.val, idx))
          (dataMsgs 0 (bits (es.getD x.2.1 (0, 0)).1 0 48 + x.2.2 * dpRow d) (fun _ => 0) id false (row x.1))) ∧
        (∀ f ∈ dpFlows es, OnFlow t f (some (q.val, idx)) [{ type := 7, notice := true }]) ∧
        (core < 192 → ∀ k, k < 3 → t.cnt .attnMoeCount core (4 + k) =
          (s.cnt .attnMoeCount core (4 + k) + [a.rows.length, a.subst, a.residual].getD k 0) % 2 ^ 64) ∧ TookOne s t q ∧
        (dpFlows es = [] → Retired t q idx d 0 0) ∧ (dpFlows es ≠ [] → ∃ f ∈ (t.stream q).fly, f.idx = idx ∧ f.d = d ∧ f.done = false)) ∧
    (dpCombine d = true → (∀ ws ∈ recs, (s.dpToken m es ws).isSome = true) → Completes (.dmDispatch q d) s fun t =>
      SameStores (s.wroteScr core ((recs.filterMap (s.dpToken m es)).zipIdx.map fun x => (dpX d + x.2 * dpRow d, x.1.elems))) t ∧
      Retired t q idx d 0 0)

/-- A RING reduction whose group has every flow OPEN takes the group's next number and sends its first partial to the next member. A
DIRECT one sends every member its part of the input and stages its own; a late-bound one does so under the stream's next reduction number,
which is open from then on; ALL_GATHER writes its own part and sends it to the next member, or with DIRECT to all. A DM_MOLT_SEGMENT for
another device sends its segment's bytes and its SEG_END; one for this device places them, and the segment verifies by its digest. -/
def Obligations.CollectiveAndMoltSegmentSend : Prop :=
  ∀ (s : State) (q : Fin 65536) (k : Nat) (d : Desc), Lone s q k d → Supplied s q d 1 →
    let idx := (s.stream q).next
    (∀ bs, hOpcode d = 0x84 → s.tokensOk (s.qCtx q) (s.coPlaces (s.qCtx q) d) = true → coOp d ≤ 1 → coDirect d = false → s.u.colls = [] →
      let g := coGroup d
      let p := s.cgP g
      let me := s.cgSelf g
      let j := (me + p - 1) % p
      let w := (coIn d).ebits / 8
      2 ≤ p → me < p → (∀ x ∈ s.others g, s.flowSt (s.cgBase g + x) = 2 ∧ (s.flow (s.cgBase g + x)).held = []) →
      s.rdCtx (s.qCtx q) (dfld d 0x18 0 48 + j * partL (coN d) p * w) (partLen (coN d) p j * w) = .ok bs → anyPoison bs = false →
      Completes (.dmCollective q d) s fun t =>
        OnFlow t (s.cgBase g + (me + 1) % p) (some (q.val, idx))
          (dataMsgs 8 0 (fun _ => g + me * 2 ^ 8 + tgetD s.u.collNum g 0 * 2 ^ 16) id false
            (outOf (coWire d) (w40s (coIn d) (partLen (coN d) p j) bs)).elems) ∧
        tgetD t.u.collNum g 0 = tgetD s.u.collNum g 0 + 1 ∧ TookOne s t q) ∧
    (hOpcode d = 0x84 → s.tokensOk (s.qCtx q) (s.coPlaces (s.qCtx q) d) = true → s.u.colls = [] → s.u.mem.faulty = false →
      let ctx := s.qCtx q
      let g := coGroup d
      let p := s.cgP g
      let me := s.cgSelf g
      let w := (coIn d).ebits / 8
      let part (j : Nat) : Nat := partLen (coN d) p j
      2 ≤ p → me < p → (∀ x ∈ s.others g, s.flowSt (s.cgBase g + x) = 2 ∧ (s.flow (s.cgBase g + x)).held = []) →
      (∀ (bs : Nat → PBytes) l, coOp d ≠ 2 → coDirect d = true → (coLbr d = true → (s.lbr (coStream d)).isOpen = false) →
        (∀ j, j < p → s.rdCtx ctx (dfld d 0x18 0 48 + j * partL (coN d) p * w) (part j * w) = .ok (bs j) ∧ anyPoison (bs j) = false) →
        s.span ctx (dfld d 0x28 0 48 + me * partL (coN d) p * w) (part me * w) true = .ok l →
        let no := (s.lbr (coStream d)).next
        Completes (.dmCollective q d) s fun t =>
          (∀ x ∈ s.others g, OnFlow t (s.cgBase g + x) (some (q.val, idx)) (
            if coLbr d = false then dataMsgs 8 0 (fun _ => g + me * 2 ^ 8 + tgetD s.u.collNum g 0 * 2 ^ 16) id false (bs x)
            else if part x = 0 then [{ type := 9, aux := BitVec.ofNat 64 (coStream d + me * 2 ^ 8 + no * 2 ^ 16) }]
            else dataMsgs 9 0 (fun _ => coStream d + me * 2 ^ 8 + no * 2 ^ 16) id false (bs x))) ∧
          (0 < part me → SameStores ((Act.wrSpan l (bs me)).run s) t ∧
            (coLbr d = true → (t.lbr (coStream d)).isOpen = true ∧ (t.lbr (coStream d)).next = no + 1)) ∧
          tgetD t.u.collNum g 0 = tgetD s.u.collNum g 0 + 1 ∧ TookOne s t q) ∧
      (∀ bs l, coOp d = 2 → s.rdCtx ctx (dfld d 0x18 0 48) (part me * w) = .ok bs → anyPoison bs = false →
        let o := (outOf (coOut d) (w40s (coIn d) (part me) bs)).elems
        s.span ctx (dfld d 0x20 0 48 + me * partL (coN d) p * ((coOut d).ebits / 8)) o.length true = .ok l →
        Completes (.dmCollective q d) s fun t =>
          (∀ x ∈ if coDirect d then s.others g else [(me + 1) % p], OnFlow t (s.cgBase g + x) (some (q.val, idx))
            (dataMsgs 8 0 (fun _ => g + me * 2 ^ 8 + tgetD s.u.collNum g 0 * 2 ^ 16) id false o)) ∧
          SameStores ((Act.wrSpan l o).run s) t ∧ tgetD t.u.collNum g 0 = tgetD s.u.collNum g 0 + 1 ∧ TookOne s t q)) ∧
    (∀ f l, hOpcode d = 0x88 → s.msFlow d = some f → s.flowSt f = 2 →
      let e := s.u.molt.seg (msIndex d)
      let aux (kind : Nat) : Nat := kind + msAttempt d * 2 ^ 4 + s.u.molt.id * 2 ^ 8 + sgId e * 2 ^ 24
      s.sgSource (s.qCtx q) (if msAlt d then wf e 0x20 0 48 else wf e 0x10 0 48) e = .ok l → s.tokensOk (s.qCtx q) l.flatten = true →
      let bs := (s.sgRead e l).1
      Completes (.dmMoltSegment q d) s fun t =>
        OnFlow t f (some (q.val, idx)) (dataMsgs 10 0 (fun _ => aux 0) id false bs ++
          [{ type := 10, aux := BitVec.ofNat 64 (aux 1), data := cleanBytes 16 (foldDigest s.u.molt.key (dataOf bs)) }]) ∧
        TookOne s t q) ∧
    (∀ l ls, hOpcode d = 0x88 → s.msFlow d = none →
      let x := s.u.molt
      let i := msIndex d
      let e := x.seg i
      (x.segIn i).attempt = msAttempt d → (x.segIn i).ok = false → (x.segIn i).rx = [] →
      s.sgSource (s.qCtx q) (if msAlt d then wf e 0x20 0 48 else wf e 0x10 0 48) e = .ok l →
      let bs := (s.sgRead e l).1
      s.tokensOk (s.qCtx q) (s.msPlaces (s.cmdOf q d) e l bs.length) = true → (∀ p ∈ l, anyPoison (s.rdSpan p) = false) →
      anyPoison bs = false → bs.length = sgStream e → s.u.mem.faulty = false →
      exAll ((sgPlaces e 0 bs.length).map fun p => s.span (s.qCtx q) p.1 p.2 true) = .ok ls →
      (wf (x.shard (sgShard e)) 0 48 1 = 0 ∨ ∃ k ∈ x.segsOf (sgShard e), k ≠ i ∧ (x.segIn k).ok = false) →
      Completes (.dmMoltSegment q d) s fun t => SameStores ((Act.wrSpan ls.flatten bs).run s) t ∧
        (t.u.molt.segIn i).ok = true ∧ (t.u.molt.segIn i).digest = foldDigest x.key (dataOf bs) ∧ i ∈ t.u.molt.retired ∧
        t.cnt .moltCount 0 5 = (s.cnt .moltCount 0 5 + bs.length) % 2 ^ 64 ∧ Retired t q idx d 0 0)

/-! ### Retirement, gates, slots (R83, R104 to R109, R386 to R392) -/

/-- The oldest command of a queue completes: its record is written where it asks for one or did not succeed, a job it opened or closed is
counted, HEAD rises by one and is written to the queue's HEAD_ADDR. Memory takes no errors here, which a page walk would mend. -/
def Obligations.CompletionWritesRecordAndHead : Prop :=
  ∀ (s : State) (q : Fin 65536) (f : Fly) (r : List Fly) (l1 l2 : List (MemSel × Nat × Nat)),
    let ctx := s.qCtx q
    let counted := ((match jobCounter f with | some k => Act.count .jobCount ctx k | none => .skip) : Act).run s
    let written := if hComplete f.d = true ∨ 2 ≤ f.status then (Act.wrSpan l1 (counted.flyRecord q f)).run s else s
    (s.stream q).fly = f :: r → f.done = true → s.runs = true → s.ctxState ctx = 1 → s.u.mem.faulty = false →
    s.recordGoes q f = true → (hComplete f.d = true ∨ 2 ≤ f.status → s.span ctx (s.qCq q + f.idx % s.qSize q * 32) 32 true = .ok l1) →
    written.span ctx (s.qHeadAddr q) 4 true = .ok l2 →
    Completes (.commandComplete q) s fun t =>
      (t.stream q).fly = r ∧ t.qHead q = idx32 (s.qHead q + 1) ∧
      SameStores ((Act.wrSpan l2 (cleanBytes 4 (idx32 (s.qHead q + 1)))).run written) t ∧
      ∀ k, k < 3 → t.cnt .jobCount ctx k = (s.cnt .jobCount ctx k + if jobCounter f = some k then 1 else 0) % 2 ^ 64

/-- A command at the front of its engine claims its WAIT units as soon as the gate has them; cycles spent waiting for POST credits alone
count for the physical gate, by the row's operand (log entry 16). A TE_ACCUMULATE of a BE context gives way to LC commands behind it. A
unit that the phase gates loses its clock when idle, by the row, for a core's unit or the device's (log entry 78). Both are the model's
choices. -/
def Obligations.GatesYieldsAndPhaseGating : Prop :=
  (∀ (s : State) (core : Fin 192) (eng : Fin 7) (waited : Nat) (m c : Cmd) (r : List Cmd) (g n : Nat),
    s.engQ core eng = m :: r → s.runs = true → s.ctxState m.ctx = 1 → s.headsAll m = true → m.core = core →
    (∀ (taken : Cmd) (claimed : State), taken = { (runOf m.d).latch s m with waited := true } →
      claimed = (Act.all [.claim m (hWait m.d), .front taken]).run s → s.suspended m = false → claimed.suspended taken = false →
      m.waited = false → hWait m.d = some (g, n) → n ≤ (s.gate core m.ctx g).filled →
      (runOf m.d).prep claimed taken = .ready c → c.streamed = false → claimed.canClaim c (hStream c.d) = false →
      c.core = core → c.ctx = m.ctx →
      Completes (.gateClaim core eng waited) s fun t =>
        (t.gate core m.ctx g).filled = (s.gate core m.ctx g).filled - n ∧ SameMem s t ∧ SameEntriesBut [] s t) ∧
    (∀ k, m.waited = true → m.streamed = true → m.posted = false → hPost m.d = some (g, n) → s.canPost m = false →
      s.slotOf core m.ctx = some k → (∀ x : State, (runOf m.d).prep x m = .ready m) →
      Completes (.gateClaim core eng waited) s fun t =>
        t.cnt .coreGateExhaust core (8 * k + g) = (s.cnt .coreGateExhaust core (8 * k + g) + waited) % 2 ^ 64 ∧ SameMem s t)) ∧
  (∀ (s : State) (core : Fin 192) (te : Fin 4) (m x : Cmd) (r : List Cmd),
    s.engQ core te = m :: x :: r → s.runs = true → hOpcode m.d = 0x21 → m.started = true → m.bun = 0 → s.isLC m.ctx = false →
    s.isLC x.ctx = true → x.waited = false → s.canClaim x (hWait x.d) = false →
    Completes (.teYield core te) s fun t =>
      t.engQ core te = (x :: r).takeWhile (fun y => s.isLC y.ctx) ++ { m with yielded := true } :: (x :: r).dropWhile (fun y => s.isLC y.ctx) ∧
      t.cnt .teWork core (te * 6 + 5) = (s.cnt .teWork core (te * 6 + 5) + 1) % 2 ^ 64 ∧ SameMem s t) ∧
  (∀ (s : State) (unit : Fin 13) (core : Fin 192), s.rd .deviceState ≤ 1 → s.rd .phaseGating = 1 → bit (awakeMask (s.rd .phase)) unit = false →
    s.unitBusy unit core = false → Completes (.phaseGateUnit ⟨unit, core⟩) s fun t =>
      unitKey unit core ∈ t.u.core.gated ∧ SameMem s t ∧ SameEntriesBut [] s t)

/-- A slot fetches its queue's next descriptors before it takes one up. A slice ends; an idle holder yields its slot early; from then on a
slot for which another context waits dispatches nothing once no bundle runs, and the rotation saves the holder's commands on the core and
gives the slot to the context that waited longest, unless the save pool is full. -/
def Obligations.SlotsPassOn : Prop :=
  (∀ (s : State) (q k : Nat) (d : Desc) (row : Desc → Bool), Turn s q k → s.fetched (s.qCore q) (s.qCtx q) q = none →
    s.u.mem.faulty = false → s.stack.poison = [] → s.host.poison = [] →
    let t := (Act.fetch (s.qCore q) (s.qCtx q) q).run s
    Turn t q k → (Act.desc row q d).run s = (Act.desc row q d).run t ∧ SameStores s t ∧ t.regs = s.regs ∧
      ∀ bs, s.rdCtx (s.qCtx q) (s.descAddr q (s.stream q).next) 64 = .ok bs →
        t.fetched (s.qCore q) (s.qCtx q) q = some { q := q, idx := (s.stream q).next, bytes := bs }) ∧
  (∀ (s : State) (q k : Nat) (d : Desc) (row : Desc → Bool), s.slotOf (s.qCore q) (s.qCtx q) = some k → s.rotating (s.qCore q) k = true →
    (Act.desc row q d).run s = s) ∧
  ∀ (s : State) (core : Fin 192) (slot : Fin 4) (h : Nat),
    let x := s.slot core slot
    x.holder = some h →
    (Completes (.sliceEnd core slot) s fun t =>
      t.slot core slot = { x with sliceOver := true, deferAt :=
        if x.deferAt = none ∧ s.bundleRuns core h = true ∧ (s.nextHolder core slot).isSome = true then some s.now else x.deferAt } ∧
      SameMem s t ∧ SameEntriesBut [] s t) ∧
    (s.idleOn core h = true → (s.nextHolder core slot).isSome = true → x.sliceOver = false →
      let since := if x.deferAt = none ∧ s.bundleRuns core h = true then some s.now else x.deferAt
      Completes (.earlyYield core slot) s fun t => t.slot core slot = { x with sliceOver := true, deferAt := since } ∧
        t.cnt .slotCount core 1 = (s.cnt .slotCount core 1 + 1) % 2 ^ 64 ∧ SameMem s t ∧ SameEntriesBut [(.slotCount, core)] s t) ∧
    (∀ c ns, s.runs = true → x.sliceOver = true → s.nextHolder core slot = some c → s.bundleRuns core h = false → s.allStop core h = true →
      (s.poolHolds core h = true → (∀ e, e < 7 → ∀ m ∈ s.engQ core e, m.ctx = h) → (s.ctxCore core c).saved = [] →
        (∀ (j : Fin 4) o, j ≠ slot → (s.slot core j).holder = some o → o ≠ h ∧ (s.ctxCore core o).saved = []) →
        Completes (.rotation core slot ns) s fun t => t.slot core slot = { holder := some c } ∧ (∀ e, e < 7 → t.engQ core e = []) ∧
          (t.ctxCore core h).saved = (s.queuedOf core h).map (fun m =>
            if hOpcode m.d = 0x21 ∧ m.started = true then { m with yielded := true } else m) ++ (s.ctxCore core h).saved ∧
          t.cnt .slotCount core 0 = (s.cnt .slotCount core 0 + 1) % 2 ^ 64 ∧ SameMem s t) ∧
      (s.poolHolds core h = false → (∀ e, e < 7 → s.engQ core e = []) → Completes (.rotation core slot ns) s fun t =>
        t.slot core slot = { x with sliceOver := false, deferAt := none } ∧
        t.cnt .slotCount core 2 = (s.cnt .slotCount core 2 + 1) % 2 ^ 64 ∧ SameMem s t ∧ SameEntriesBut [(.slotCount, core)] s t))

/-- A bundle that has run for 2 ms is counted once; one that has run for 4 ms faults its context with status BUNDLE_OVERRUN, and a command
that exceeds its engine's limit with status WATCHDOG. -/
def Obligations.LimitsOfBundlesAndCommands : Prop :=
  (∀ (s : State) (q : Fin 65536) (r : Nat) (rs : List Nat), (s.stream q).running = r :: rs → s.qCore q < 192 →
    ((s.stream q).bunLong < r → Completes (.bundleLong q) s fun t => (t.stream q).bunLong = r ∧
      t.cnt .slotCount (s.qCore q) 5 = (s.cnt .slotCount (s.qCore q) 5 + 1) % 2 ^ 64 ∧ SameMem s t ∧
      SameEntriesBut [(.slotCount, s.qCore q)] s t) ∧
    (s.ctxState (s.qCtx q) = 1 → s.u.mem.faulty = false → Completes (.bundleOverrun q) s fun t => t.ctxState (s.qCtx q) = 2 ∧
      t.fld .faultInfo (s.qCtx q) 0 0 16 = q ∧ t.fld .faultInfo (s.qCtx q) 4 0 8 = 6 ∧
      t.rd .recoveryEpoch = (s.rd .recoveryEpoch + 1) % 2 ^ 32 ∧
      t.cnt .slotCount (s.qCore q) 6 = (s.cnt .slotCount (s.qCore q) 6 + 1) % 2 ^ 64 ∧ SameMem s t)) ∧
  (∀ (s : State) (core : Fin 192) (eng : Fin 7) (m : Cmd) (r : List Cmd), s.engQ core eng = m :: r → s.headsAll m = true →
    s.ctxState (s.qCtx m.q) = 1 → Completes (.cmdWatchdog core eng) s fun t => t.ctxState (s.qCtx m.q) = 2 ∧
      t.fld .faultInfo (s.qCtx m.q) 4 0 8 = 7 ∧ t.fld .faultInfo (s.qCtx m.q) 0 0 16 = m.q % 2 ^ 16 ∧
      (∀ e, ∀ x ∈ t.engQ core e, x.ctx ≠ s.qCtx m.q) ∧ SameMem s t)

/-- The teardown of a context that holds no slot and executes no molt ends with its commands complete: HEAD of every VALID queue reads
TAIL and its stream is idle, its sessions are ABORTED, and it is FAULTED; after CTX_RESET it is FREE and its queues are unconfigured. -/
def Obligations.TeardownEndsFaultedOrFree : Prop :=
  ∀ (s : State) (ctx : Fin 1024) (x : Tear), s.ctxState ctx = 2 → tget s.u.core.tear ctx = some x → s.coresOf ctx = [] →
    s.moltOf ctx = false → s.loopback = false →
    (x.reset = false → x.after = false → Completes (.teardownEnd ctx) s fun t => t.ctxState ctx = 3 ∧ tget t.u.core.tear ctx = none ∧
      (∀ q, q < 65536 → s.qCtx q = ctx → s.qValid q = true → t.qHead q = s.qTail q ∧ t.stream q = { next := s.qTail q }) ∧
      (∀ i, i < 256 → (tget s.u.sess i).isSome = true → (s.ses i).ctx = ctx → (s.sesLive i = true ∨ s.rd .sessionState i = 3) →
        t.rd .sessionState i = 4)) ∧
    (x.reset = true → Completes (.teardownEnd ctx) s fun t => t.ctxState ctx = 0 ∧ t.rd .ptRoot ctx = 0 ∧
      tget t.u.core.tear ctx = none ∧ ∀ q, q < 65536 → s.qCtx q = ctx → t.rd .queueCfg q = 0)

/-! ### Entry rows of cores and contexts (R62 to R80, R141, R219, R233, R377 to R397) -/

/-- The entries of monitors, telemetry rings, accumulators and seeds take what is written where their rules let it in. -/
def Obligations.CoreEntriesTakeWrites : Prop :=
  ∀ (s : State) (r : Requester),
    (∀ tid : BitVec 16, Accepts s r .monClear 0 tid.toNat → tid.toNat < 16384 → s.mayMon r tid.toNat = true →
      Completes (.monClear r tid) s fun t => tget t.u.core.mon tid.toNat = none ∧
        (∀ k, k ≠ tid.toNat → tget t.u.core.mon k = tget s.u.core.mon k) ∧ EntryOnly [] s t) ∧
    (∀ (ctx : Fin 1024) (v : BitVec 32), Accepts s r .readIndex ctx v.toNat → s.ctxGate ctx = stOk →
      dist32 v.toNat (s.rd .writeIndex ctx) ≤ s.rd .ringSize ctx →
      Completes (.readIndexWrite r ctx v) s fun t => t.rd .readIndex ctx = v.toNat ∧ EntryOnly [(.readIndex, ctx)] s t) ∧
    (∀ (ctx : Fin 1024) (v : W64), Accepts s r .ringBase ctx v.toNat → s.ctxGate ctx = stOk → v.toNat % 64 = 0 →
      Completes (.telemRingConfig r ctx false v) s fun t => t.rd .ringBase ctx = v.toNat ∧ t.rd .writeIndex ctx = 0 ∧
        t.rd .readIndex ctx = 0 ∧ t.rd .droppedRecords ctx = 0 ∧
        EntryOnly [(.ringBase, ctx), (.writeIndex, ctx), (.readIndex, ctx), (.droppedRecords, ctx)] s t) ∧
    (∀ (ctx : Fin 1024) (v : W64), Accepts s r .ringSize ctx (v.toNat % 2 ^ 32) → s.ctxGate ctx = stOk →
      ringSizeOk (v.toNat % 2 ^ 32) = true →
      Completes (.telemRingConfig r ctx true v) s fun t => t.rd .ringSize ctx = v.toNat % 2 ^ 32 ∧ t.rd .writeIndex ctx = 0 ∧
        t.rd .readIndex ctx = 0 ∧ t.rd .droppedRecords ctx = 0 ∧
        EntryOnly [(.ringSize, ctx), (.writeIndex, ctx), (.readIndex, ctx), (.droppedRecords, ctx)] s t) ∧
    (∀ v : BitVec 32, Accepts s r .accSplit 0 v.toNat → s.safeMode = false → s.groupsOpen = false → splitSum v.toNat 0 ≤ 8 →
      splitSum v.toNat 4 ≤ 8 → Completes (.accSplitWrite r v) s fun t => t.rd .accSplit = v.toNat ∧ EntryOnly [(.accSplit, 0)] s t) ∧
    (∀ (ctx : Fin 1024) (v : W64), Accepts s r .pepperSeed ctx v.toNat → s.ctxGate ctx = stOk → s.unretired ctx = false →
      Completes (.pepperSeedWrite r ctx v) s fun t => t.rd .pepperSeed ctx = v.toNat ∧ t.rd .pepperReady ctx = 0 ∧
        (∀ core, (t.ctxCore core ctx).pepper = []) ∧ EntryOnly [(.pepperSeed, ctx), (.pepperReady, ctx)] s t) ∧
    (∀ ctx : Fin 1024, s.rd .pepperReady ctx = 0 → (∀ core, s.engQ core 4 = []) →
      Completes (.pepperReadyDone ctx) s fun t => t.rd .pepperReady ctx = 1 ∧ SameMem s t ∧ SameEntriesBut [(.pepperReady, ctx)] s t) ∧
    (∀ core : Byte, Accepts s r .screeDiscard 0 core.toNat → core.toNat < 192 → s.mayDiscard r core.toNat = true →
      ((s.scree core.toNat).state = 0 ∨ s.screeBusy core.toNat = false) →
      Completes (.screeDiscard r core) s fun t => (t.scree core.toNat).state = 0 ∧ (t.scree core.toNat).ents = [] ∧
        EntryOnly [(.stateCount, 0), (.deviceState, 0), (.screeState, core.toNat)] s t) ∧
    (∀ (e : Fin 64) (v : BitVec 256), Accepts s r .splitGrad e v.toNat → s.ctxGate (s.ctxField .splitGrad e) = stOk →
      s.mayWriteCtx r (bits v.toNat 8 10) = true → s.splitOk e v.toNat = true →
      Completes (.splitGradWrite r e v) s fun t => t.rd .splitGrad e = v.toNat &&& splitMask ∧ EntryOnly [(.splitGrad, e)] s t)

/-- The entries of contexts and queues take what is written where their rules let it in. PT_ROOT makes a FREE context READY; CTX_RESET
tears a READY context down and frees one that is FREE or FAULTED; a tensor ID's grant or release clears its monitor; a queue made VALID
starts at index 0. -/
def Obligations.ContextEntriesTakeWrites : Prop :=
  ∀ (s : State) (r : Requester),
    (∀ (ctx : Fin 1024) (v : W64), Accepts s r .ptRoot ctx v.toNat → s.ctxGate ctx = stOk → s.rootOk v.toNat = true →
      s.unretired ctx = false → Completes (.ptRootWrite r ctx v) s fun t => t.rd .ptRoot ctx = v.toNat ∧
        t.ctxState ctx = (if s.ctxState ctx = 0 then 1 else s.ctxState ctx) ∧ EntryOnly [(.ptRoot, ctx), (.ctxState, ctx)] s t) ∧
    (∀ ctx : Fin 1024, Accepts s r .ctxReset ctx 1 → s.ctxState ctx = 1 → Completes (.ctxReset r ctx 1) s fun t =>
      t.ctxState ctx = 2 ∧ t.rd .recoveryEpoch = (s.rd .recoveryEpoch + 1) % 2 ^ 32 ∧
      ((tget t.u.core.tear ctx).map Tear.reset) = some true ∧ (∀ core e, ∀ m ∈ t.engQ core e, m.ctx ≠ ctx) ∧
      EntryOnly ((.ctxState, ctx.val) :: (.recoveryEpoch, 0) :: (List.range 32).map fun i => (.engineQueueExhaust, i)) s t) ∧
    (∀ ctx : Fin 1024, Accepts s r .ctxReset ctx 1 → (s.ctxState ctx = 0 ∨ s.ctxState ctx = 3) → Completes (.ctxReset r ctx 1) s fun t =>
      t.ctxState ctx = 0 ∧ t.rd .ptRoot ctx = 0 ∧ (∀ q, q < 65536 → s.qCtx q = ctx → t.rd .queueCfg q = 0) ∧
      (∀ tid, tid < 16384 → s.tidOwner tid = some ctx.val → t.tidOwner tid = none) ∧ SameMem s t) ∧
    (∀ ctx : Fin 1024, Accepts s r .ptInvalidate ctx 1 → s.ctxGate ctx = stOk →
      Completes (.ptInvalidate r ctx 1) s fun t => EntryOnly [] s t) ∧
    (∀ (tid : Fin 16384) (v : BitVec 16), Accepts s r .tidOwner tid v.toNat → bit v.toNat 15 = true → reqRules r = true →
      (s.tidOwner tid = none ∨ s.tidOwner tid = some (bits v.toNat 0 10)) → s.ctxState (bits v.toNat 0 10) = 1 →
      Completes (.tidOwnerWrite r tid v) s fun t => t.tidOwner tid = some (bits v.toNat 0 10) ∧ tget t.u.core.mon tid = none ∧
        EntryOnly [(.tidOwner, tid)] s t) ∧
    (∀ (tid : Fin 16384) (v : BitVec 16), Accepts s r .tidOwner tid v.toNat → bit v.toNat 15 = false →
      (∀ c, s.tidOwner tid = some c → s.ctxGate c = stOk ∧ s.unretired c = false) →
      Completes (.tidOwnerWrite r tid v) s fun t => t.tidOwner tid = none ∧ tget t.u.core.mon tid = none ∧ EntryOnly [(.tidOwner, tid)] s t) ∧
    (∀ (ctx : Fin 1024) (v : BitVec 32), Accepts s r .ctxAdmin ctx v.toNat → s.ctxGate ctx = stOk →
      (s.ctxState ctx = 0 ∨ bits v.toNat 0 6 = s.fld .ctxAdmin ctx 0 0 6) →
      Completes (.ctxAdminWrite r ctx v) s fun t => t.rd .ctxAdmin ctx = v.toNat &&& 0xF3F ∧ EntryOnly [(.ctxAdmin, ctx)] s t) ∧
    (∀ (q : Fin 65536) (v : BitVec 256), Accepts s r .queueCfg q v.toNat → s.ctxGate (s.qCtx q) = stOk →
      s.mayWriteCtx r (bits v.toNat 8 10) = true → queueZero v.toNat = true → bits v.toNat 48 11 < vecCount (s.ctxFn (bits v.toNat 8 10)) →
      (s.qValid q = true → s.qTail q = s.qHead q) → s.coreAllowed (bits v.toNat 18 8) = true →
      (bit v.toNat 0 = true → s.queueOk q v.toNat = true) →
      Completes (.queueCfgWrite r q v) s fun t => t.rd .queueCfg q = v.toNat ∧
        t.stream q = { jobOpen := (s.stream q).jobOpen, jobLearn := (s.stream q).jobLearn } ∧
        (bit v.toNat 0 = true → t.qHead q = 0 ∧ t.qTail q = 0) ∧ EntryOnly [(.queueCfg, q), (.queueState, q)] s t)

/-- A write that a check of R446 turns away changes no entry but the request counts. -/
def Obligations.RefusedWritesChangeNothing : Prop :=
  ∀ (s : State) (r : Requester) (index : BitVec 16) (sub : Byte) (data : List Byte) (n : EName) (i : Nat),
    s.served r = true → (0xF000 ≤ index.toNat → reqClass r = 4) → findEntry index.toNat sub.toNat = some (n, i) →
    (s.wrGuard r n i ≠ stOk ∨ data.length ≠ n.info.size ∨ s.applyGuard n (leNat data) ≠ stOk) →
    Completes (.entryWrite r index sub data) s fun t => EntryOnly [] s t ∧ t.cnt .dictCount 0 0 = (s.cnt .dictCount 0 0 + 1) % 2 ^ 64

/-! ### The host interface (R399 to R430) -/

/-- A doorbell of the owning function moves TAIL forward within the ring, where its context holds a slot or takes one of an idle core, and
is counted where it would not; a foreign one is counted for the function. One that comes before READY, in a saddle restart (log entry 62)
or behind a write of the PF that is held is kept, but not in FATAL. -/
def Obligations.DoorbellsMoveTail : Prop :=
  ∀ (s : State) (fn : Fin 32) (q : Fin 65536) (v : BitVec 32), s.u.pow.power = true → s.u.pow.linkUp = true →
    ((s.u.pow.ready = false ∨ s.u.pow.restarting = true ∨ (fn = 0 ∧ ∃ off data ep, Held.write off data ep ∈ s.u.pow.held)) →
      (s.u.pow.fatal = false → Completes (.doorbell fn q v) s fun t =>
        t.u.host.keptDb = s.u.host.keptDb ++ [(fn.val, q.val, v.toNat)] ∧ SameMem s t ∧ SameEntriesBut [] s t) ∧
      (s.u.pow.fatal = true → exec (.doorbell fn q v) s = .next s)) ∧
    (s.u.pow.ready = true → s.u.pow.restarting = false → (fn = 0 → ∀ off data ep, Held.write off data ep ∉ s.u.pow.held) →
      ((s.qValid q = false ∨ s.ctxFn (s.qCtx q) ≠ fn) → Completes (.doorbell fn q v) s fun t =>
        t.cnt .hostCount fn 0 = (s.cnt .hostCount fn 0 + 1) % 2 ^ 64 ∧ SameMem s t ∧ SameEntriesBut [(.hostCount, fn)] s t) ∧
      (s.qValid q = true → s.ctxFn (s.qCtx q) = fn → (s.u.pow.fatal = true ∨ s.u.svc.frozen = true ∨ s.ctxState (s.qCtx q) ≠ 1) →
        exec (.doorbell fn q v) s = .next s) ∧
      (s.qValid q = true → s.ctxFn (s.qCtx q) = fn → s.u.pow.fatal = false → s.u.svc.frozen = false → s.ctxState (s.qCtx q) = 1 →
        (((s.slotOf (s.qCore q) (s.qCtx q)).isSome = true ∨
          ((∀ e, e < 7 → s.engQ (s.qCore q) e = []) ∧ ∀ c, (s.ctxCore (s.qCore q) c).saved = [])) →
         dist32 (s.qTail q) v.toNat ≤ dist32 (s.qTail q) (idx32 (s.qHead q + s.qSize q)) → Completes (.doorbell fn q v) s fun t =>
          t.qTail q = v.toNat ∧ t.qHead q = s.qHead q ∧ SameMem s t ∧ SameEntriesBut
            [(.queueState, q), (.columnState, 0), (.deviceState, 0), (.stateCount, 0), (.slotCount, s.qCore q)] s t) ∧
        (dist32 (s.qTail q) (idx32 (s.qHead q + s.qSize q)) < dist32 (s.qTail q) v.toNat → Completes (.doorbell fn q v) s fun t =>
          t.fld .queueState q 8 0 32 = (s.fld .queueState q 8 0 32 + 1) % 2 ^ 32 ∧ t.qTail q = s.qTail q ∧ SameMem s t)))

/-- A function-level reset resets the function's contexts, empties its mailbox channels, masks its vectors, frees its hold of the CONFIG
lock and raises its source; the firmware's acknowledgement ends it. That ATS and bus mastering go off (log entries 106 and 15) and that
pending bits clear (log entry 62) is the model's choice. -/
def Obligations.FunctionLevelResetResets : Prop :=
  ∀ (s : State) (fn : Fin 32),
    (s.u.pow.linkUp = true → Completes (.functionLevelReset fn) s fun t => fn.val ∈ t.u.host.flr ∧ fn.val ∉ t.u.host.ats ∧
      fn.val ∉ t.u.host.masters ∧ t.asserted (t.srcTarget (72 + fn.val)) (72 + fn.val) = true ∧
      (∀ c, c < 1024 → (fn.val = 0 ∨ s.ctxFn c = fn) →
        t.ctxState c = if s.ctxState c = 1 ∨ s.ctxState c = 2 then 2 else 0) ∧
      (∀ ch, ch < 64 → s.mbxFn ch = fn → (t.mbx ch).state = 0 ∧ (t.mbx ch).doorbell = 0 ∧ (t.mbx ch).hostEnable = 0 ∧
        (t.mbx ch).swStatus = 0) ∧
      (∀ v, v < 2048 → t.vec fn v = {}) ∧ (∀ r, t.u.dict.holder = some r → reqFn r ≠ some fn.val) ∧
      t.rd .eventVec fn = 0 ∧ t.rd .evtRing fn = 0 ∧ t.rd .evtWidx fn = 0 ∧ SameMem s t) ∧
    Completes (.flrComplete fn) s fun t => fn.val ∉ t.u.host.flr ∧
      (∀ k, t.asserted k (72 + fn.val) = false) ∧ SameMem s t ∧ SameEntriesBut [] s t

/-- A read within BAR4 returns memory's bytes with their poison, or is unsupported where a region may not be read; a write stores its
bytes and nothing else, poisoned where it carried EP, which is counted, and what it may not write is dropped and counted. A write across
the end of a region counts once (log entry 61: the model's choice). Both wait while the device naps or their stack is looped back. Beyond
BAR4 nothing happens. Memory takes no errors here. -/
def Obligations.ApertureReachesMemory : Prop :=
  ∀ (s : State) (off : BitVec 36), s.hostReach = true → s.u.mem.faulty = false →
    let a := s.rd .apertureBase + off.toNat
    let within (len : Nat) : Prop := off.toNat + len ≤ 2 ^ (30 + s.u.host.bar4)
    let free (h : Held) : Prop := s.u.pow.nap = false ∧ s.u.pow.napEntering = false ∧ s.apHolds h = false ∧ s.u.pow.memOn = true
    let waits (h : Held) (t : State) : Prop := t.u.pow.held = s.u.pow.held ++ [h] ∧
      (s.u.pow.nap = true → t.u.pow.waking = true) ∧ SameMem s t
    (∀ len : Fin 4097,
      (within len → free (.read off.toNat len) → ((pieces a len).all fun p => apReadable (s.u.mem.region p.1)) = true →
        Completes (.apertureRead off len) s fun t => t.u.outbox = s.u.outbox ++ [.read (s.rdStack a len)] ∧ SameMem s t ∧
          t.cnt .hostCount 0 6 = (s.cnt .hostCount 0 6 + if anyPoison (s.rdStack a len) = true then 1 else 0) % 2 ^ 64) ∧
      (within len → free (.read off.toNat len) → ((pieces a len).all fun p => apReadable (s.u.mem.region p.1)) = false →
        Completes (.apertureRead off len) s fun t => t.u.outbox = s.u.outbox ++ [.unsupported] ∧
          t.cnt .hostCount 0 1 = (s.cnt .hostCount 0 1 + 1) % 2 ^ 64 ∧ SameMem s t ∧ SameEntriesBut [(.hostCount, 0)] s t) ∧
      (within len → (s.u.pow.nap = true ∨ s.apHolds (.read off.toNat len) = true) →
        Completes (.apertureRead off len) s (waits (.read off.toNat len))) ∧
      (¬ within len → exec (.apertureRead off len) s = .next s)) ∧
    (∀ (data : List Byte) (ep : Bool),
      (within data.length → free (.write off.toNat data ep) → s.Inv → s.u.pow.failedCh = [] →
        Completes (.apertureWrite off data ep) s fun t => t.scratch = s.scratch ∧ (ep = false → t.host = s.host) ∧
          (∀ j, t.stack.byte j = if a ≤ j ∧ j < a + data.length ∧ apWritable (s.u.mem.region j) = true then data.getD (j - a) 0#8
            else s.stack.byte j) ∧
          (ep = true → ∀ j, a ≤ j → j < a + data.length → apWritable (s.u.mem.region j) = true →
            t.rdStack j 1 = [(data.getD (j - a) 0#8, true)]) ∧
          t.cnt .hostCount 0 5 = (s.cnt .hostCount 0 5 + if ep = true then 1 else 0) % 2 ^ 64 ∧
          t.cnt .hostCount 0 1 = (s.cnt .hostCount 0 1 +
            if ((pieces a data.length).all fun p => apWritable (s.u.mem.region p.1)) = true then 0 else 1) % 2 ^ 64) ∧
      (within data.length → (s.u.pow.nap = true ∨ s.apHolds (.write off.toNat data ep) = true) →
        Completes (.apertureWrite off data ep) s (waits (.write off.toNat data ep))) ∧
      (¬ within data.length → exec (.apertureWrite off data ep) s = .next s))

/-- An ATS invalidation completes at once and leaves the refusals that the host gives for the function (log entry 106). A configuration
request is answered with success once the device is READY, or the boot strap asks for it, and no FLR of the function runs, and what it
writes is set; else it is answered with retry status. A link change raises source 104; unmasking a vector sends its pending message, and
masking it sends none. The mask bit and the message that MSIX_UNMASK writes are log entry 11, and bus mastering set by PCIE_CONFIG_REQUEST
log entry 15: the model's choices. -/
def Obligations.LinkAndVectorEvents : Prop :=
  ∀ (s : State) (fn : Fin 32),
    let entry (w : Option (W64 × BitVec 32)) (t : State) (v : Nat) : Prop :=
      (w = none → (t.vec fn v).addr = (s.vec fn v).addr ∧ (t.vec fn v).data = (s.vec fn v).data) ∧
      (∀ a d, w = some (a, d) → (t.vec fn v).addr = a.toNat ∧ (t.vec fn v).data = d.toNat)
    (s.u.pow.linkUp = true → ∀ deny, Completes (.atsInvalidation ⟨fn, deny⟩) s fun t => t.u.outbox = s.u.outbox ++ [.atsDone fn] ∧
      (∀ a w, (fn.val, a, w) ∈ t.u.host.atsDeny ↔ ∃ d ∈ deny, d.1.toNat = a ∧ d.2 = w) ∧
      (∀ x, x.1 ≠ fn.val → (x ∈ t.u.host.atsDeny ↔ x ∈ s.u.host.atsDeny)) ∧ SameMem s t ∧ SameEntriesBut [] s t) ∧
    (s.u.pow.linkUp = true → ∀ w,
      ((s.u.pow.ready = true ∨ s.bootStrap = 1) → fn.val ∉ s.u.host.flr → Completes (.pcieConfigRequest ⟨fn, w⟩) s fun t =>
        t.u.outbox = s.u.outbox ++ [.confOk fn] ∧ SameMem s t ∧ SameEntriesBut [] s t ∧
        (w = none → t.u.host = s.u.host) ∧ (∀ on, w = some (.ats on) → (fn.val ∈ t.u.host.ats ↔ on = true) ∧ t.u.host.bar4 = s.u.host.bar4) ∧
        (∀ k, w = some (.bar4 k) → t.u.host.bar4 = (if fn = 0 then k.val else s.u.host.bar4) ∧ t.u.host.ats = s.u.host.ats) ∧
        (∀ on, w = some (.master on) → (fn.val ∈ t.u.host.masters ↔ on = true) ∧ t.u.host.ats = s.u.host.ats)) ∧
      ((s.u.pow.ready = false ∧ s.bootStrap ≠ 1 ∨ fn.val ∈ s.u.host.flr) → Completes (.pcieConfigRequest ⟨fn, w⟩) s fun t =>
        t.u.outbox = s.u.outbox ++ [.retryStatus fn] ∧ t.u.host = s.u.host ∧ SameMem s t ∧ SameEntriesBut [] s t)) ∧
    (∀ up, s.u.pow.power = true → s.u.pow.perstSeen = true → s.u.pow.deep = false → s.u.pow.perst = false →
      Completes (.pcieLinkChange up) s fun t => t.u.pow.linkUp = up ∧ 104 ∈ t.u.host.raised ∧
        ((up = true ∨ s.u.svc.cairn = none) → SameMem s t ∧ SameEntriesBut [] s t) ∧
        (up = false → ∀ c, s.u.svc.cairn = some c → ∃ c' n, t.u.svc.cairn = some c' ∧ c'.cut = some n ∧ (c.cut = some n ∨ c.cut = none))) ∧
    (∀ (v : Fin 2048) w, s.hostReach = true → v.val < vecCount fn → Completes (.msixUnmask fn ⟨v, false, w⟩) s fun t =>
      (t.vec fn v).masked = false ∧ (t.vec fn v).pending = false ∧ entry w t v ∧
      t.u.outbox = s.u.outbox ++ (if (s.vec fn v).pending = true then [.msix fn v] else []) ∧
      t.cnt .hostCount fn 7 = (s.cnt .hostCount fn 7 + if (s.vec fn v).pending = true then 1 else 0) % 2 ^ 64 ∧ SameMem s t) ∧
    (∀ (v : Fin 2048) w, s.hostReach = true → v.val < vecCount fn → Completes (.msixUnmask fn ⟨v, true, w⟩) s fun t =>
      (t.vec fn v).masked = true ∧ (t.vec fn v).pending = (s.vec fn v).pending ∧ entry w t v ∧ t.u.outbox = s.u.outbox ∧ SameMem s t ∧
        SameEntriesBut [] s t)

/-- The operations of a mailbox channel by a side that reaches it: claim, unclaim, message, post with its sender word and doorbell bit,
release by the receiver and withdrawal by the poster; any other use is counted as a violation and changes nothing else. A channel that
becomes EMPTY takes the answer that the firmware has for it (log entry 107). -/
def Obligations.MailboxOperations : Prop :=
  ∀ (s : State) (side : Side) (ch : Fin 64), s.mbxReach side ch = true →
    let x := s.mbx ch
    let idle : Prop := ∀ e ∈ s.u.host.mailDue, e.1 ≠ ch.val
    let violates (i : Instr) : Prop := Completes i s fun t => t.mbx ch = { x with violations := min (x.violations + 1) (2 ^ 32 - 1) } ∧
      t.cnt .hostCount (s.mbxFn ch) 2 = (s.cnt .hostCount (s.mbxFn ch) 2 + 1) % 2 ^ 64 ∧ SameMem s t ∧
      SameEntriesBut [(.hostCount, s.mbxFn ch)] s t
    let answered (e : Nat × Nat) (t : State) : Prop := (t.mbx ch).state = 2 ∧ (t.mbx ch).poster = 1 ∧ (t.mbx ch).msg / 2 ^ 64 = e.2 ∧
      bit (t.mbx ch).doorbell 1 = true ∧ t.u.host.mailDue = s.u.host.mailDue.erase e ∧ SameMem s t
    (x.state = 0 → Completes (.mbxClaim side ch) s fun t => (t.mbx ch).state = 1 ∧ holdsMbx (t.mbx ch) side = true ∧
      (t.mbx ch).msg = x.msg ∧ (t.mbx ch).doorbell = x.doorbell ∧ SameMem s t ∧ SameEntriesBut [] s t) ∧
    (x.state ≠ 0 → violates (.mbxClaim side ch)) ∧
    (x.state = 1 → holdsMbx x side = true →
      (idle → Completes (.mbxUnclaim side ch) s fun t => t.mbx ch = { x with state := 0 } ∧ SameMem s t ∧ SameEntriesBut [] s t) ∧
      (∀ e, s.u.host.mailDue.find? (fun e => e.1 == ch.val) = some e → s.fwRuns = true → Completes (.mbxUnclaim side ch) s (answered e)) ∧
      (∀ (off : Fin 256) (data : List Byte), Completes (.mbxMsgWrite side ch off data) s fun t =>
        (∀ j, off.val ≤ j → j < off.val + data.length → 8 ≤ j → j < 256 →
          bits (t.mbx ch).msg (8 * j) 8 = (data.getD (j - off.val) 0#8).toNat) ∧
        (∀ j, (j < off.val ∨ off.val + data.length ≤ j ∨ j < 8 ∨ 256 ≤ j) → bits (t.mbx ch).msg (8 * j) 8 = bits x.msg (8 * j) 8) ∧
        (t.mbx ch).state = 1 ∧ SameMem s t ∧ SameEntriesBut [] s t) ∧
      (Completes (.mbxPost side ch) s fun t => (t.mbx ch).state = 2 ∧ (t.mbx ch).poster = postBit side ∧
        bits (t.mbx ch).msg 0 64 = s.senderWord side ch (x.seq + 1) false % 2 ^ 64 ∧ (t.mbx ch).seq = (x.seq + 1) % 2 ^ 32 ∧
        (t.mbx ch).msg / 2 ^ 64 = x.msg / 2 ^ 64 ∧ (t.mbx ch).doorbell = x.doorbell ||| 2 ^ postBit side ∧ SameMem s t)) ∧
    ((x.state ≠ 1 ∨ holdsMbx x side = false) → violates (.mbxUnclaim side ch) ∧ violates (.mbxPost side ch) ∧
      ∀ (off : Fin 256) (data : List Byte), violates (.mbxMsgWrite side ch off data)) ∧
    (x.state = 2 → x.poster ≠ postBit side →
      (idle → Completes (.mbxRelease side ch) s fun t => (t.mbx ch).state = 0 ∧ bit (t.mbx ch).doorbell x.poster = false ∧
        (t.mbx ch).msg = x.msg ∧ SameMem s t) ∧
      (∀ e, s.u.host.mailDue.find? (fun e => e.1 == ch.val) = some e → s.fwRuns = true → Completes (.mbxRelease side ch) s (answered e))) ∧
    ((x.state ≠ 2 ∨ x.poster = postBit side) → violates (.mbxRelease side ch)) ∧
    (x.state = 2 → holdsMbx x side = true →
      (idle → Completes (.mbxWithdraw side ch) s fun t => (t.mbx ch).state = 0 ∧ bit (t.mbx ch).doorbell x.poster = false ∧
        (t.mbx ch).msg = x.msg ∧ SameMem s t) ∧
      (∀ e, s.u.host.mailDue.find? (fun e => e.1 == ch.val) = some e → s.fwRuns = true → Completes (.mbxWithdraw side ch) s (answered e))) ∧
    ((x.state ≠ 2 ∨ holdsMbx x side = false) → violates (.mbxWithdraw side ch))

/-- DB_SET sets bits of DOORBELL and DOORBELL_CLEAR clears them, bits 0 and 1 aside; HOST_ENABLE takes its value, and CORE_ENABLE of a
core where the saddle writes it (on this row by log entry 11, the model's choice); a post not taken in time comes back to the host with
SW_STATUS, which the host's next claim clears, and bit 2, or empties the channel where the saddle posted; a saddle that does not run sets
nothing. No answer of the firmware waits for the channel here, which would take an EMPTY one. -/
def Obligations.DoorbellRegistersAndTimeouts : Prop :=
  ∀ (s : State) (ch : Fin 64), (∀ e ∈ s.u.host.mailDue, e.1 ≠ ch.val) →
    let x := s.mbx ch
    (∀ (side : Side) (v : BitVec 32), s.mbxReach side ch = true →
      (Completes (.dbSet side ch v) s fun t => (t.mbx ch).doorbell = x.doorbell ||| newBits v.toNat 3 ∧ SameMem s t) ∧
      (Completes (.doorbellClear side ch v) s fun t => (t.mbx ch).doorbell = newBits x.doorbell (newBits v.toNat 3) ∧ SameMem s t) ∧
      (Completes (.hostEnableWrite side ch ⟨none, v⟩) s fun t => (t.mbx ch).hostEnable = v.toNat ∧ (t.mbx ch).doorbell = x.doorbell ∧
        SameMem s t) ∧
      (∀ k, Completes (.hostEnableWrite side ch ⟨some k, v⟩) s fun t => (∀ j : Nat, (t.mbx ch).enable j =
        (match side with | .core _ => if j = k.val then v.toNat else x.enable j | .host _ => x.enable j)) ∧
        (t.mbx ch).hostEnable = x.hostEnable ∧ (t.mbx ch).doorbell = x.doorbell ∧ SameMem s t)) ∧
    (s.fwRuns = true → x.state = 2 →
      (x.poster = 0 → Completes (.mbxTimeout ch) s fun t => (t.mbx ch).state = 2 ∧ (t.mbx ch).doorbell = x.doorbell ||| 4 ∧
        (t.mbx ch).swStatus = 1 + bits x.msg 80 8 * 2 ^ 8 ∧
        t.cnt .hostCount (s.mbxFn ch) 3 = (s.cnt .hostCount (s.mbxFn ch) 3 + 1) % 2 ^ 64 ∧ SameMem s t) ∧
      (x.poster ≠ 0 → Completes (.mbxTimeout ch) s fun t => (t.mbx ch).state = 0 ∧ bit (t.mbx ch).doorbell x.poster = false ∧
        t.cnt .hostCount (s.mbxFn ch) 4 = (s.cnt .hostCount (s.mbxFn ch) 4 + 1) % 2 ^ 64 ∧ SameMem s t)) ∧
    (∀ fn, s.mbxReach (.host fn) ch = true → x.state = 0 → Completes (.mbxClaim (.host fn) ch) s fun t => (t.mbx ch).state = 1 ∧
      (t.mbx ch).swStatus = 0 ∧ SameMem s t) ∧
    (∀ fn, s.mbxReach (.host fn) ch = true → x.state = 2 → x.poster = 0 → x.holder = 0 → Completes (.mbxWithdraw (.host fn) ch) s fun t =>
      (t.mbx ch).state = 0 ∧ SameMem s t) ∧
    (s.fwRuns = false → Completes (.mbxTimeout ch) s fun t => t.mbx ch = x ∧ SameMem s t ∧ SameEntriesBut [] s t)

/-- A claim of a class answers its pending source with the lowest number and puts it in service; EOI ends the service, and whether it has
served the whole cause of a source from 104 on is open (log entry 45); the software sources are set and cleared bit by bit, and a source
register takes ENABLE, CLASS and TARGET (on SWI_SET's row by log entry 11, the model's choice). -/
def Obligations.InterruptClaimsAndEnds : Prop :=
  ∀ (s : State) (k : Fin 8), s.fwRuns = true →
    ((s.ctl k).inNormal = 256 → Completes (.claimNormal k) s fun t => t.u.outbox = s.u.outbox ++ [.claim k (s.pendingSrc k false)] ∧
      t.ctl k = { s.ctl k with inNormal := s.pendingSrc k false,
                               claimed := (s.ctl k).claimed || s.pendingSrc k false != 256 } ∧ SameMem s t ∧ SameEntriesBut [] s t) ∧
    ((s.ctl k).inFast = 256 → Completes (.claimFast k) s fun t => t.u.outbox = s.u.outbox ++ [.claim k (s.pendingSrc k true)] ∧
      t.ctl k = { s.ctl k with inFast := s.pendingSrc k true,
                               claimed := (s.ctl k).claimed || s.pendingSrc k true != 256 } ∧ SameMem s t ∧ SameEntriesBut [] s t) ∧
    (∀ src : Byte, ((s.ctl k).inNormal = src.toNat ∨ (s.ctl k).inFast = src.toNat) → Completes (.eoi k src) s fun t =>
      (t.ctl k).inNormal ≠ src.toNat ∧ (t.ctl k).inFast ≠ src.toNat ∧
      (∀ x, x ≠ src.toNat → (x ∈ t.u.host.raised ↔ x ∈ s.u.host.raised)) ∧ (src.toNat ∉ s.u.host.raised → src.toNat ∉ t.u.host.raised) ∧
      ((s.ctl k).inFast ≠ src.toNat → (t.ctl k).inFast = (s.ctl k).inFast) ∧
      ((s.ctl k).inNormal ≠ src.toNat → (t.ctl k).inNormal = (s.ctl k).inNormal) ∧ SameMem s t ∧ SameEntriesBut [] s t) ∧
    (∀ src : Byte, (s.ctl k).inNormal ≠ src.toNat → (s.ctl k).inFast ≠ src.toNat → Completes (.eoi k src) s fun t =>
      t.ctl k = s.ctl k ∧ SameMem s t ∧ SameEntriesBut [] s t) ∧
    (∀ v : Byte, Completes (.swiSet (.swi v)) s fun t => (∀ i, bit t.u.host.swi i = (bit s.u.host.swi i || bit v.toNat i)) ∧
      t.u.host.src = s.u.host.src ∧ SameMem s t) ∧
    (∀ (i : Fin 256) (v : BitVec 32), Completes (.swiSet (.source i v)) s fun t => t.u.host.swi = s.u.host.swi ∧
      (∀ j : Nat, t.srcReg j = if j = i.val then v.toNat % 32 else s.srcReg j) ∧ SameMem s t) ∧
    (∀ v : Byte, Completes (.swiClear v) s fun t => (∀ i, bit t.u.host.swi i = (bit s.u.host.swi i && !bit v.toNat i)) ∧ SameMem s t)

/-- An interrupt that a control core takes: a fast one keeps mepc, mcause, mtval and mstatus in the four F registers and switches to the
fast bank, any goes to the direct vector with pc in mepc; mret undoes it. What mstatus becomes is the RISC-V rule (log entry 46). -/
def Obligations.ControlCoresTrapAndReturn : Prop :=
  ∀ (s : State) (k : Fin 8), s.fwRuns = true →
    let c := s.ctl k
    (c.inFast = 256 → s.pendingSrc k true ≠ 256 → Completes (.fastInterrupt k) s fun t =>
      (t.ctl k).fEpc = c.mepc ∧ (t.ctl k).fCause = c.mcause ∧ (t.ctl k).fTval = c.mtval ∧ (t.ctl k).fStatus = c.mstatus ∧
      (t.ctl k).fastActive = true ∧ (t.ctl k).mepc = c.pc ∧ (t.ctl k).mcause = 2 ^ 63 + 16 ∧ (t.ctl k).pc = c.mtvec / 4 * 4 ∧
      (t.ctl k).priv = 3 ∧ (t.ctl k).main = c.main ∧ SameMem s t ∧ SameEntriesBut [] s t) ∧
    (s.takesNormal k = true → s.pendingSrc k false ≠ 256 → Completes (.normalInterrupt k) s fun t =>
      (t.ctl k).mepc = c.pc ∧ (t.ctl k).mcause = 2 ^ 63 + 11 ∧ (t.ctl k).pc = c.mtvec / 4 * 4 ∧ (t.ctl k).priv = 3 ∧
      bit (t.ctl k).mstatus 3 = false ∧ bit (t.ctl k).mstatus 7 = bit c.mstatus 3 ∧ (t.ctl k).fastActive = c.fastActive ∧ SameMem s t) ∧
    (s.takesNormal k = true → Completes (.machineTimerInterrupt k) s fun t =>
      (t.ctl k).mepc = c.pc ∧ (t.ctl k).mcause = 2 ^ 63 + 7 ∧ (t.ctl k).pc = c.mtvec / 4 * 4 ∧ (t.ctl k).priv = 3 ∧ SameMem s t) ∧
    (c.fastActive = true → Completes (.mret k) s fun t => (t.ctl k).pc = c.mepc ∧ (t.ctl k).fastActive = false ∧
      (t.ctl k).mepc = c.fEpc ∧ (t.ctl k).mcause = c.fCause ∧ (t.ctl k).mtval = c.fTval ∧ (t.ctl k).mstatus = c.fStatus ∧ SameMem s t) ∧
    (c.fastActive = false → Completes (.mret k) s fun t => (t.ctl k).pc = c.mepc ∧ (t.ctl k).priv = bits c.mstatus 11 2 ∧
      bit (t.ctl k).mstatus 3 = bit c.mstatus 7 ∧ (t.ctl k).mepc = c.mepc ∧ SameMem s t)

/-- A policy image that verifies runs, any other is refused, state 3 in safe mode too (log entry 63); an admission result orders the next
boundary, a scheduling result picks the next holder of a slot; a module's notices, ecalls and overruns do what the base policy says. What
the module's code decides comes as the rows' operands, and what a call leaves in its data is free (log entry 14). Both are the model's
choices. -/
def Obligations.PolicyModulesDecide : Prop :=
  ∀ s : State,
    (∀ (r : Requester) (kind : PolicyKind) (v : W64), Accepts s r .policyLoad (kindNo kind) v.toNat → s.imgHeld v.toNat = false →
      s.u.mem.faulty = false → Completes (.policyLoad r kind v) s fun t =>
        t.rd .policyState (kindNo kind) = (if s.imgReason (s.imgAt v.toNat) (kindNo kind + 2) = 0 ∧ s.safeMode = false then 1 else 3) ∧
        EntryOnly ((.policyState, kindNo kind) :: (List.range 20).map fun i => (.memErrors, i)) s t) ∧
    (∀ (i : Fin 256) (order : List Nat) (skip : Bool), s.fwRuns = true → s.policyRuns 0 = true → s.sesLive i = true →
      orderOk (min 4096 ((s.ses i).cands (!s.isLC (s.ses i).ctx)).length) order = true →
      Completes (.admissionCall i order skip) s fun t => (t.ses i).policy = some (order, skip) ∧
        (t.policy 0).input = (s.candArray i).flatten ∧ (∃ a o, (t.policy 0).args = [a, (s.candArray i).length, o, s.takeable i]) ∧
        t.cnt .policyCount 0 0 = (s.cnt .policyCount 0 0 + 1) % 2 ^ 64 ∧ SameMem s t ∧ SameEntriesBut [(.policyCount, 0)] s t) ∧
    (∀ (core : Fin 192) (slot : Fin 4) (choice : Int), s.fwRuns = true → s.policyRuns 1 = true → slot.val ≠ 0 →
      (choice = -1 ∨ (0 ≤ choice ∧ choice.toNat < (s.waiters core slot).length)) →
      Completes (.schedulingCall core slot choice) s fun t =>
        (t.slot core slot).pick = (if choice = -1 then none else (s.waiters core slot)[choice.toNat]?) ∧
        (t.policy 1).input = (s.waitArray core slot).flatten ∧
        (∃ a, (t.policy 1).args = [a, (s.waitArray core slot).length, core, ((s.slot core slot).holder).getD 0xFFFF]) ∧
        t.cnt .policyCount 0 2 = (s.cnt .policyCount 0 2 + 1) % 2 ^ 64 ∧ SameMem s t ∧ SameEntriesBut [(.policyCount, 0)] s t) ∧
    (∀ (kind : PolicyKind) (ch : Fin 64), s.fwRuns = true → s.policyRuns (kindNo kind) = true → s.policyChannel ch = true →
      ((s.mbx ch).state = 2 → (s.mbx ch).poster = 0 →
        let h := mailHdr (s.mbx ch)
        (mailBroken h = false → Completes (.noticeCall kind ch) s fun t => (t.mbx ch).state = 0 ∧
          (t.policy (kindNo kind)).call = true ∧ (t.policy (kindNo kind)).input = mailPayload (s.mbx ch) ∧
          (∃ a, (t.policy (kindNo kind)).args = [a, (mailPayload (s.mbx ch)).length]) ∧
          t.cnt .policyCount 0 4 = (s.cnt .policyCount 0 4 + 1) % 2 ^ 64 ∧ SameMem s t) ∧
        (mailBroken h = true → (∀ e ∈ s.u.host.mailDue, e.1 ≠ ch.val) → Completes (.noticeCall kind ch) s fun t =>
          (t.mbx ch).state = 2 ∧ (t.mbx ch).poster = 1 ∧ (t.mbx ch).msg / 2 ^ 64 = mailResp (bits h 0 8) (bits h 16 8) 3 [] ∧
          t.policy (kindNo kind) = s.policy (kindNo kind) ∧ SameMem s t)) ∧
      (∀ data : List Byte, data.length ≤ 240 → (s.mbx ch).state = 0 → Completes (.policyEcall kind 1 ch data) s fun t =>
        (t.mbx ch).state = 2 ∧ (t.mbx ch).poster = 1 ∧ (t.mbx ch).core = 6 + kindNo kind ∧
        (∀ j, j < data.length → bits (t.mbx ch).msg (8 * (16 + j)) 8 = (data.getD j 0#8).toNat) ∧ SameMem s t)) ∧
    (∀ (kind : PolicyKind) (a7 : W64) (ch : Fin 64) (data : List Byte), s.fwRuns = true → s.policyRuns (kindNo kind) = true →
      (a7 = 2 → Completes (.policyEcall kind a7 ch data) s fun t => (t.policy (kindNo kind)).call = false ∧ SameMem s t ∧
        SameEntriesBut [] s t) ∧
      ((a7 ≠ 1 ∨ 240 < data.length) → a7 ≠ 2 → Completes (.policyEcall kind a7 ch data) s fun t => t.rd .policyState (kindNo kind) = 2)) ∧
    (∀ (i : Fin 256) (order : List Nat) (skip : Bool), s.fwRuns = true → s.policyRuns 0 = true → s.sesLive i = true →
      orderOk (min 4096 ((s.ses i).cands (!s.isLC (s.ses i).ctx)).length) order = false →
      Completes (.admissionCall i order skip) s fun t => (t.ses i).policy = none ∧
        t.cnt .policyCount 0 1 = (s.cnt .policyCount 0 1 + 1) % 2 ^ 64) ∧
    (∀ (call : PolicyCall) (m c : Nat),
      (m, c) = (match call with | .admission _ => (0, 1) | .scheduling _ _ => (1, 3) | .notice kind => (kindNo kind, 5)) →
      s.fwRuns = true → s.policyRuns m = true → Completes (.policyCallTimeout call) s fun t =>
        t.cnt .policyCount 0 c = (s.cnt .policyCount 0 c + 1) % 2 ^ 64 ∧ (t.policy m).call = false ∧
        (∀ i, call = .admission i → (t.ses i).policy = none) ∧ (∀ core k, call = .scheduling core k → (t.slot core k).pick = none))

/-! ### The dictionary (R431 to R456) -/

/-- READ answers a scalar whole and a STR or BLOB from offset 0 in part, keeping the snapshot; INFO describes an entry, its rights masked
by the access code; NEXT names the next address that the requester can read or write (both by log entry 53, a reading). A peer's READ is
answered ACCESS while PEER_DICT is 0. A READ that a mailbox channel holds is answered there, one with a bad mailbox header MALFORMED (log
entry 107). -/
def Obligations.ReadsAreAnswered : Prop :=
  ∀ (s : State) (r : Requester) (p : Pdu) (n : EName) (i : Nat),
    (Serves s r p opRead → findKey (pduKey p) = some (n, i) → s.rdGuard r n i = stOk →
      (n.whole = false → pduOff p = 0 → n.info.size ≤ pduLen p → Completes (.read r p) s fun t =>
        Answers s t r (pduResp p stOk (s.valueBytes n i) (pduKey p)) (EntryOnly [] s)) ∧
      (n.whole = true → pduOff p = 0 → Completes (.read r p) s fun t =>
        Answers s t r (pduResp p stOk ((s.valueBytes n i).take (pduLen p)) (pduKey p)) fun u =>
          EntryOnly [] s u ∧ tget (u.did r).snaps (pduKey p) = some (s.now, s.valueBytes n i)) ∧
      (∀ at_ bs, n.whole = true → 0 < pduOff p → pduOff p < n.info.size → tget (s.did r).snaps (pduKey p) = some (at_, bs) →
        s.now < at_ + 10 ^ 9 → Completes (.read r p) s fun t =>
          Answers s t r (pduResp p stOk ((bs.drop (pduOff p)).take (pduLen p)) (pduKey p)) (EntryOnly [] s))) ∧
    (Serves s r p opRead → findKey (pduKey p) = some (n, i) → s.rdGuard r n i ≠ stOk → Completes (.read r p) s fun t =>
      Answers s t r (pduResp p (s.rdGuard r n i) [] (pduKey p)) (EntryOnly [] s)) ∧
    (reqClass r = 3 → s.rd .peerDict = 0 → s.pathOpen r = true → s.fwRuns = true → pduGood p = true → pduOp p = opRead →
      Completes (.read r p) s fun t => Answers s t r (pduResp p stAccess [] (pduKey p)) (EntryOnly [] s)) ∧
    (Serves s r p opInfo → findKey (pduKey p) = some (n, i) → s.hasRight r n i = true → Completes (.info r p) s fun t =>
      Answers s t r (pduResp p stOk n.infoBytes (pduKey p)) (EntryOnly [] s)) ∧
    (∀ ch, s.mailOf r p = some ch → s.pathOpen r = true → s.fwRuns = true → (∀ e ∈ s.u.host.mailDue, e.1 ≠ ch) → s.u.host.mail = [] →
      let h := mailHdr (s.mbx ch)
      let posted (t : State) (msg : Nat) : Prop := (t.mbx ch).state = 2 ∧ (t.mbx ch).poster = 1 ∧ (t.mbx ch).msg / 2 ^ 64 = msg ∧
        bit (t.mbx ch).doorbell 1 = true ∧ SameMem s t
      (mailHdrGood h = true → pduGood p = true → pduOp p = opRead → findKey (pduKey p) = some (n, i) → s.rdGuard r n i = stOk →
        n.whole = false → pduOff p = 0 → n.info.size ≤ pduLen p → (s.did r).stKey = none → Completes (.read r p) s fun t =>
          posted t (mailResp 1 (bits h 16 8) 0 (pduBytes (pduResp p stOk (s.valueBytes n i) (pduKey p))))) ∧
      (mailHdrGood h = false → pduOp p = opRead → Completes (.read r p) s fun t => posted t (mailResp (bits h 0 8) (bits h 16 8) 3 []))) ∧
    (∀ a, Serves s r p opNext → s.nextFor r (fun _ => true) addrFuel (pduKey p) = some a → Completes (.next r p) s fun t =>
      Answers s t r (pduResp p stOk [] a) (EntryOnly [] s))

/-- A WRITE that passes its checks stores the value of an entry that takes any, and is answered, for a STORE entry when the module flash
holds it, though its value is in force at once (log entry 23: the model's choice); the same WRITE again is answered from what was kept and
applies nothing. -/
def Obligations.WritesAreApplied : Prop :=
  ∀ (s : State) (r : Requester) (p : Pdu) (n : EName) (i : Nat), Serves s r p opWrite →
    (s.keptFor r p = none → findKey (pduKey p) = some (n, i) → s.wrGuard r n i = stOk → n.rule = ruleAny n → n.whole = false →
      pduOff p = 0 → pduLen p = n.info.size → pduFinal p = true → s.applyGuard n (leNat p.data) = stOk →
      (n.info.pers ≠ .store → Completes (.write r p) s fun t => Answers s t r (pduResp p stOk [] (pduKey p)) fun u =>
        u.rd n i = leNat p.data ∧ EntryOnly [(n, i)] s u) ∧
      (n.info.pers = .store → s.safeMode = false → Completes (.write r p) s fun t => t.rd n i = leNat p.data ∧ EntryOnly [(n, i)] s t ∧
        t.u.outbox = s.u.outbox ∧ ∃ x, t.u.dict.storeDue = s.u.dict.storeDue ++ [x] ∧
          x.answers = [.answer r (pduResp p stOk [] (pduKey p))])) ∧
    (∀ st, s.keptFor r p = some st → (∀ x ∈ s.u.dict.storeDue, x.answers = []) → Completes (.write r p) s fun t =>
      Answers s t r (pduResp p st [] (pduKey p)) fun u => EntryOnly [] s u ∧ u.cnt .dictCount 0 3 = (s.cnt .dictCount 0 3 + 1) % 2 ^ 64)

/-- The window: a direct slot writes and reads its scalar, and the access port reads, writes, describes and browses entries through its
registers and buffer. That slot reads give up to 8 bytes and slots below index 0x1000 are the window's registers is log entry 59, that a
STORE value is in force at once log entry 23, INFO's rights log entry 53. The rest of BAR0 reads the status block, the function's mailbox
channels and its MSI-X table, and BAR2 the TAIL of its queues (on this row by log entry 11; a foreign queue reads 0 by log entry 120).
These are the model's choices. -/
def Obligations.WindowReachesEntries : Prop :=
  ∀ (s : State) (fn : Fin 32), (s.u.pow.power = true → s.u.pow.linkUp = true → s.u.pow.perst = false →
      (∀ off len, Completes (.windowSlotRead fn (.bar0 off len)) s fun t => t.u.outbox = s.u.outbox ++ [.read ((List.range len).map fun i =>
        (BitVec.ofNat 8 (s.bar0Byte fn (off.toNat + i)), false))] ∧ SameMem s t ∧ SameEntriesBut [] s t) ∧
      (∀ off len, Completes (.windowSlotRead fn (.bar2 off len)) s fun t => t.u.outbox = s.u.outbox ++ [.read ((List.range len).map fun i =>
        (BitVec.ofNat 8 (s.bar2Byte fn (off.toNat + i)), false))] ∧ SameMem s t ∧ SameEntriesBut [] s t)) ∧
  (s.winOpen fn = true →
    let q := s.aport fn
    let r := hostReq fn
    (∀ (off : BitVec 23) (data : List Byte) (n : EName) (i : Nat), slotBase ≤ off.toNat → s.served r = true →
      findKey (off.toNat / 128 * 256 + off.toNat % 128 / 8) = some (n, i) → off.toNat / 128 < 0xF000 → n.whole = false →
      (s.wrGuard r n i = stOk → off.toNat % 8 = 0 → n.info.size ≤ data.length → ((data.drop n.info.size).all (· == 0)) = true →
        s.applyGuard n (leNat (data.take n.info.size)) = stOk → n.rule = ruleAny n → (n.info.pers = .store → s.safeMode = false) →
        Completes (.windowSlotWrite fn off data) s fun t => t.rd n i = leNat (data.take n.info.size) ∧ EntryOnly [(n, i)] s t) ∧
      (s.rdGuard r n i = stOk → Completes (.windowSlotRead fn (.window off)) s fun t => t.u.outbox = s.u.outbox ++ [.read
        (((s.valueBytes n i ++ List.replicate (8 - n.info.size) 0#8).drop (off.toNat % 8)).map fun b => (b, false))] ∧ EntryOnly [] s t)) ∧
    (∀ a b c : Byte, q.pending = false → Completes (.windowSlotWrite fn 0 [a, b, c]) s fun t =>
      (t.aport fn).index = a.toNat + b.toNat * 256 ∧ (t.aport fn).sub = c.toNat ∧ EntryOnly [] s t) ∧
    (q.pending = false → s.served r = true → s.romServes r = false → q.index < 0xF000 →
      (∀ n i, findKey (q.index * 256 + q.sub) = some (n, i) →
        (s.rdGuard r n i = stOk → Completes (.accessPortRead fn) s fun t => (t.aport fn).status = stOk ∧ (t.aport fn).size = n.info.size ∧
          (t.aport fn).buf.take n.info.size = s.valueBytes n i ∧ EntryOnly [] s t) ∧
        (s.wrGuard r n i = stOk → n.rule = ruleAny n → s.applyGuard n (leNat (q.buf.take n.info.size)) = stOk →
          (n.info.pers = .store → s.safeMode = false) → Completes (.accessPortWrite fn) s fun t =>
            t.rd n i = n.fit (leNat (q.buf.take n.info.size)) ∧ (t.aport fn).status = stOk ∧
            (t.aport fn).pending = (n.info.pers == .store) ∧ EntryOnly [(n, i)] s t) ∧
        (s.hasRight r n i = true → Completes (.accessPortInfo fn) s fun t => (t.aport fn).status = stOk ∧
          (t.aport fn).size = n.info.size ∧ (t.aport fn).buf.take 16 = n.infoBytes ∧ EntryOnly [] s t)) ∧
      (∀ a, s.nextFor r (fun _ => true) addrFuel (q.index * 256 + q.sub) = some a → Completes (.accessPortNext fn) s fun t =>
        (t.aport fn).index = a / 256 ∧ (t.aport fn).sub = a % 256 ∧ (t.aport fn).status = stOk ∧ EntryOnly [] s t)))

/-- The CONFIG lock is taken, released and lapses; a staging lapses; STORE_FACTORY takes 0 and 1; a plain entry takes a whole write; the
flash commits the oldest STORE write and its answers go out; an unanswered request of the firmware is sent again. CFG_LOCK 0 by one who
does not hold the lock is OK by log entry 57, the STORE value stood before its commit by log entry 23, and the firmware's own requests are
kept as log entry 59 says: the model's choices. -/
def Obligations.LockStagingAndStore : Prop :=
  ∀ (s : State) (r : Requester),
    (Accepts s r .cfgLock 0 1 → (s.u.dict.holder = none ∨ s.u.dict.holder = some r) → Completes (.cfgLockTake r) s fun t =>
      t.u.dict.holder = some r ∧ t.u.dict.leaseAt = s.now ∧ EntryOnly [] s t) ∧
    (Accepts s r .cfgLock 0 0 → (s.u.dict.holder = none ∨ s.u.dict.holder = some r) → Completes (.cfgLockRelease r) s fun t =>
      t.u.dict.holder = none ∧ EntryOnly [] s t) ∧
    (s.u.dict.holder.isSome = true → Completes .cfgLeaseLapse s fun t => t.u.dict.holder = none ∧
      t.rd .cfgLapses = (s.rd .cfgLapses + 1) % 2 ^ 32 ∧ SameMem s t ∧ SameEntriesBut [(.cfgLapses, 0)] s t) ∧
    ((s.did r).stKey.isSome = true → Completes (.stagingLapse r) s fun t => (t.did r).stKey = none ∧ (t.did r).stData = [] ∧
      t.cnt .dictCount 0 4 = (s.cnt .dictCount 0 4 + 1) % 2 ^ 64 ∧ EntryOnly [] s t) ∧
    (∀ v : Byte, Accepts s r .storeFactory 0 v.toNat → v.toNat ≤ 1 → Completes (.storeFactory r v) s fun t =>
      t.rd .storeFactory = v.toNat ∧ EntryOnly [(.storeFactory, 0)] s t) ∧
    (∀ (index : BitVec 16) (sub : Byte) (data : List Byte) (n : EName) (i : Nat), findEntry index.toNat sub.toNat = some (n, i) →
      index.toNat < 0xF000 → Accepts s r n i (leNat data) → data.length = n.info.size → n.rule = ruleAny n →
      (n.info.pers = .store → s.safeMode = false) →
      Completes (.entryWrite r index sub data) s fun t => t.rd n i = leNat data ∧ EntryOnly [(n, i)] s t) ∧
    (∀ x rest, s.u.dict.storeDue = x :: rest → s.u.host.mail = [] → s.noFlash = false → s.safeMode = false →
      (∀ o ∈ x.answers, ∀ a p, o ≠ .answer (.peer a) p) →
      Completes .storeWriteCommitted s fun t => t.u.dict.storeDue = rest ∧ t.u.outbox = s.u.outbox ++ x.answers.flatMap Out.sent ∧
        t.rd .storeWrites = (s.rd .storeWrites + 1) % 2 ^ 64 ∧ SameMem s t ∧ SameEntriesBut [(.storeWrites, 0)] s t) ∧
    (∀ (tag : Byte) (e : Nat × Nat × Msg), s.u.dict.sent.find? (fun e => e.1 == tag.toNat) = some e → s.fwRuns = true → e.2.1 < 8 →
      Completes (.kwehusResend tag) s fun t => t.u.dict.sent =
          s.u.dict.sent.map (fun x => if x.1 = tag.toNat then (x.1, x.2.1 + 1, x.2.2) else x) ∧
        (∃ u, t = (Act.sendMsg 0 e.2.2).run u ∧ SameMem s u ∧ SameEntriesBut [] s u ∧ u.u.ports = s.u.ports) ∧ SameMem s t)

/-! ### MCTP control and SPDM (R451, R511 to R515) -/

/-- MCTP control commands are answered; message codes and layouts are those of the standard (log entry 47), and the version number and
the vendor's command set are free. -/
def Obligations.MctpControlAnswers : Prop :=
  ∀ s : State, s.pathOpen (.bmc 0) = true →
    (∀ eid : Byte, eid ≠ 0 → eid ≠ 255 → Completes (.setEndpointId eid) s fun t => t.rd .mctpEid = eid.toNat ∧
      t.u.outbox = s.u.outbox ++ [.mctp 1 [0, 0, eid.toNat, 0]] ∧ SameMem s t ∧ SameEntriesBut [(.mctpEid, 0)] s t) ∧
    (Completes .getEndpointId s fun t => t.u.outbox = s.u.outbox ++ [.mctp 2 [0, s.rd .mctpEid, 0, 0]] ∧ SameMem s t ∧
      SameEntriesBut [] s t) ∧
    (∀ k : Byte, k.toNat ∈ [0xFF, 0x00, 0x05, 0x7F] → Completes (.getMctpVersionSupport k) s fun t =>
      ∃ v, t.u.outbox = s.u.outbox ++ [.mctp 4 [0, 1, v]] ∧ SameMem s t ∧ SameEntriesBut [] s t) ∧
    (∀ k : Byte, k.toNat ∉ [0xFF, 0x00, 0x05, 0x7F] → Completes (.getMctpVersionSupport k) s fun t =>
      t.u.outbox = s.u.outbox ++ [.mctp 4 [0x80]] ∧ SameMem s t) ∧
    (Completes .getMessageTypeSupport s fun t => t.u.outbox = s.u.outbox ++ [.mctp 5 [0, 2, 0x05, 0x7F]] ∧ SameMem s t ∧
      SameEntriesBut [] s t) ∧
    (Completes (.getVendorDefinedMsgSupport 0) s fun t => ∃ v, t.u.outbox = s.u.outbox ++ [.mctp 6 [0, 0xFF, 1, s.rd .mctpPen, v]] ∧
      SameMem s t ∧ SameEntriesBut [] s t)

/-- The SPDM negotiation goes from version to capabilities to algorithms, each answered in its stage and with UnexpectedRequest out of it;
requests the responder does not support are answered UnsupportedRequest, RESPOND_IF_READY UnexpectedRequest (log entry 49). Codes and
layouts are the standard's (log entry 48). -/
def Obligations.SpdmNegotiates : Prop :=
  ∀ (s : State) (tp : Transport), SpdmHere s tp →
    (Completes (.getVersion tp) s fun t => (t.spdm tp).stage = 1 ∧
      t.u.outbox = s.u.outbox ++ [.spdm tp 0x04 0 0 (leBytes 1 0 ++ leBytes 1 1 ++ leBytes 2 0x1200)] ∧ SameMem s t) ∧
    ((s.spdm tp).stage = 1 → Completes (.getCapabilities tp) s fun t => (t.spdm tp).stage = 2 ∧ (∃ v, t.u.outbox = s.u.outbox ++
      [.spdm tp 0x61 0 0 (leBytes 1 0 ++ leBytes 1 v ++ leBytes 2 0 ++ leBytes 4 0x16 ++ leBytes 4 4096 ++ leBytes 4 4096)]) ∧ SameMem s t) ∧
    ((s.spdm tp).stage = 2 → Completes (.negotiateAlgorithms tp true true true true) s fun t => (t.spdm tp).stage = 3 ∧
      t.u.outbox = s.u.outbox ++ [.spdm tp 0x63 0 0 [15#8]] ∧ SameMem s t) ∧
    ((s.spdm tp).stage ≠ 1 → Completes (.getCapabilities tp) s fun t => t.spdm tp = s.spdm tp ∧
      t.u.outbox = s.u.outbox ++ [.spdm tp 0x7F 4 0 []] ∧ t.cnt .spdmCount 0 3 = (s.cnt .spdmCount 0 3 + 1) % 2 ^ 64 ∧ SameMem s t) ∧
    (∀ token : Byte, Completes (.respondIfReady tp token) s fun t => t.spdm tp = s.spdm tp ∧
      t.u.outbox = s.u.outbox ++ [.spdm tp 0x7F 4 0 []] ∧ SameMem s t) ∧
    (∀ code : Byte, Completes (.spdmUnsupportedRequest tp code) s fun t => t.spdm tp = s.spdm tp ∧
      t.u.outbox = s.u.outbox ++ [.spdm tp 0x7F 7 code.toNat []] ∧ t.cnt .spdmCount 0 3 = (s.cnt .spdmCount 0 3 + 1) % 2 ^ 64 ∧ SameMem s t)

/-- After the negotiation the responder gives the digest and portions of its one certificate chain, and signs what was said for a
CHALLENGE and for signed measurements; each signature counts. Codes and layouts, the chain's too, are the standard's (log entry 48), and
what it signs with is a constant without a value (log entry 5). -/
def Obligations.SpdmAttests : Prop :=
  ∀ (s : State) (tp : Transport), SpdmHere s tp → (s.spdm tp).stage = 3 → s.u.pow.flashOk = true →
    (Completes (.getDigests tp) s fun t => t.u.outbox = s.u.outbox ++ [.spdm tp 0x01 0 1 (leBytes 32 (Config.sm3 certChain))] ∧
      SameMem s t) ∧
    (∀ off len : BitVec 16, off.toNat < certChain.length → Completes (.getCertificate tp 0 off len) s fun t =>
      let part := (certChain.drop off.toNat).take (min len.toNat 4088)
      t.u.outbox = s.u.outbox ++ [.spdm tp 0x02 0 0
        (leBytes 2 part.length ++ leBytes 2 (certChain.length - off.toNat - part.length) ++ part)] ∧ SameMem s t) ∧
    (∀ nonce : BitVec 256, Completes (.challenge tp 0 nonce) s fun t => (∃ v,
      let body := leBytes 32 (Config.sm3 certChain) ++ leBytes 32 v ++ leBytes 2 0
      let said := (s.spdm tp).vca ++ (s.spdm tp).said ++ spdmBytes 0x83 0 0 (leBytes 32 nonce.toNat) ++ spdmBytes 0x03 0 1 body
      t.u.outbox = s.u.outbox ++ [.spdm tp 0x03 0 1 (body ++ leBytes 64 (Config.sm2Sign (Config.sm3 said)))]) ∧
      t.cnt .spdmCount 0 2 = (s.cnt .spdmCount 0 2 + 1) % 2 ^ 64 ∧ (t.spdm tp).said = [] ∧ SameMem s t) ∧
    (∀ nonce : BitVec 256, Completes (.getMeasurements tp 255 true nonce) s fun t => (∃ v,
      let record := [1, 2, 3, 4, 5, 6, 7, 8].flatMap s.measBlock
      let body := leBytes 1 8 ++ leBytes 3 record.length ++ record ++ leBytes 32 v ++ leBytes 2 0
      let said := (s.spdm tp).vca ++ ((s.spdm tp).meas ++ spdmBytes 0xE0 1 255 (leBytes 32 nonce.toNat) ++ spdmBytes 0x60 0 0 body)
      t.u.outbox = s.u.outbox ++ [.spdm tp 0x60 0 0 (body ++ leBytes 64 (Config.sm2Sign (Config.sm3 said)))]) ∧
      t.cnt .spdmCount 0 2 = (s.cnt .spdmCount 0 2 + 1) % 2 ^ 64 ∧ (t.spdm tp).meas = [] ∧ SameMem s t)

/-! ### Power and resets (R42, R459 to R474, R524 to R527) -/

/-- An idle column loses its clock, then its power with its scratch, its slot holders being saved, or, where the save pool has no room for
them, keeps it, which counts; a column that has work wakes at the clock the governor wants. Lost scratch reads 0 (log entry 3), and a
power-off that finds no room counts for each core (log entry 109): the model's choices. -/
def Obligations.ColumnsGateAndPower : Prop :=
  ∀ (s : State) (col : Fin 16),
    (s.colSt col = 0 → s.colIdle col = true → Completes (.columnClockGate col) s fun t => t.colSt col = 1 ∧ SameMem s t ∧
      SameEntriesBut [(.columnState, 0), (.deviceState, 0)] s t) ∧
    (s.colPowered col = true → s.colIdle col = true → s.rd .columnOffUs ≠ 0 → (s.holders (coresOfCol col)).any s.holdsPower = false →
      s.poolHoldsAll (s.holders (coresOfCol col)) = true → Completes (.columnPowerOff col) s fun t => t.colSt col = 2 ∧
        (∀ core ∈ coresOfCol col, (∀ k, k < 4 → (t.slot core k).holder = none) ∧ ∀ off, off < 2 ^ 21 → t.rdScr core off 1 = [(0#8, false)]) ∧
        t.cnt .stateCount 0 1 = (s.cnt .stateCount 0 1 + 1) % 2 ^ 64 ∧ t.stack = s.stack ∧ t.host = s.host) ∧
    (s.colPowered col = true → s.colIdle col = true → s.rd .columnOffUs ≠ 0 → (s.holders (coresOfCol col)).any s.holdsPower = false →
      s.poolHoldsAll (s.holders (coresOfCol col)) = false → Completes (.columnPowerOff col) s fun t => t.colSt col = s.colSt col ∧
        (∀ core ∈ coresOfCol col, (∃ k, k < 4 ∧ (s.slot core k).holder.isSome = true) →
          t.cnt .slotCount core 2 = (s.cnt .slotCount core 2 + 1) % 2 ^ 64) ∧ SameMem s t ∧
        SameEntriesBut ((coresOfCol col).map fun core => (.slotCount, core)) s t) ∧
    (s.u.pow.power = true → s.colAllowed col = true → s.u.pow.memOn = true → s.u.pow.nap = false → s.u.pow.fatal = false →
      (s.colSt col = 3 ∨ (s.colSt col = 2 ∧ s.colIdle col = false)) →
      (∀ core ∈ coresOfCol col, (∀ e, e < 7 → s.engQ core e = []) ∧ ∀ c, (s.ctxCore core c).saved = []) →
      Completes (.columnWake col) s fun t => t.colSt col = 0 ∧ t.fld .columnState 0 (4 * col) 16 16 = s.target col % 2 ^ 16 ∧
        t.cnt .stateCount 0 0 = (s.cnt .stateCount 0 0 + 1) % 2 ^ 64 ∧ t.rd .deviceState = 0 ∧ SameMem s t)

/-- A tick of the governor takes the first branch of R466 that applies and moves every column's target within its ceiling; a clock step
makes the target the column's clock; a die or stack sample moves the ceilings by 50 MHz. What the sensors read comes with the tick (log
entry 13), and STEPS and LIMIT follow log entry 60: the model's choices. -/
def Obligations.GovernorSetsClocks : Prop :=
  ∀ s : State,
    (∀ (p a mv10 : Nat) (slow : Sensors), (s.fwRuns = true ∨ s.u.pow.ready = true) → s.u.pow.deep = false →
      Completes (.governorTick p a mv10 slow) s fun t =>
      let s10 := s.limitMw .sustainW 46 mv10
      let excess := if s10 < p * 1000 then s.fld .governorState 0 0x10 0 64 + 10000 else 0
      let g := govStep p a (s.limitMw .peakW 55 mv10) s10 (s.limitMw .sustainW 46 slow.mv.toNat) excess (s.u.pow.sinceStep + 10000)
      (∀ c, c < 16 → t.target c = max 800 (min (s.ceiling c) (match g with
        | .peak => s.target c - 200
        | .excursion | .average => s.target c - 50
        | .up => s.target c + 50
        | .stay => s.target c))) ∧
      t.fld .governorState 0 0 0 16 = p % 2 ^ 16 ∧ t.fld .governorState 0 0 16 16 = a % 2 ^ 16 ∧ t.rd .inputMv = slow.mv.toNat ∧
      t.rd .inputMa = slow.ma.toNat ∧
      t.rd .coolantIn = slow.coolantIn.toNat ∧ t.rd .coolantOut = slow.coolantOut.toNat ∧
      (g = .peak → t.cnt .govCount 0 2 = (s.cnt .govCount 0 2 + 1) % 2 ^ 64) ∧
      (g = .excursion → t.cnt .govCount 0 3 = (s.cnt .govCount 0 3 + 1) % 2 ^ 64) ∧
      (g = .average → t.cnt .govCount 0 4 = (s.cnt .govCount 0 4 + 1) % 2 ^ 64) ∧ SameMem s t) ∧
    (∀ col : Fin 16, s.colPowered col = true → Completes (.clockChange col) s fun t =>
      t.fld .columnState 0 (4 * col) 16 16 = s.target col % 2 ^ 16 ∧ t.colSt col = s.colSt col ∧ SameMem s t ∧
        SameEntriesBut [(.columnState, 0), (.governorState, 0)] s t) ∧
    (∀ (col : Fin 16) (x : Int), s.u.pow.power = true → (x < 115 →
      Completes (.dieTempSample col x) s fun t => tget t.u.pow.dieTemp col = some x ∧ SameMem s t ∧
        SameEntriesBut [(.governorState, 0)] s t) ∧
      (115 ≤ x → s.u.pow.fatal = false → Completes (.dieTempSample col x) s fun t => t.u.pow.fatal = true ∧
        t.fld .fatalState 0 0 0 16 = 7)) ∧
    (∀ col : Fin 18, col.val < 16 → (105 ≤ tgetD s.u.pow.dieTemp col 0 → Completes (.thermalCeilingStep col) s fun t =>
        tget t.u.pow.dieCeil col = some (max 800 (tgetD s.u.pow.dieCeil col (s.rd .clockMaxMhz) - 50)) ∧
        t.cnt .govCount 0 6 = (s.cnt .govCount 0 6 + 1) % 2 ^ 64 ∧ SameMem s t) ∧
      (∀ c, tgetD s.u.pow.dieTemp col 0 < 102 → tget s.u.pow.dieCeil col = some c → Completes (.thermalCeilingStep col) s fun t =>
        tget t.u.pow.dieCeil col = (if s.rd .clockMaxMhz ≤ c + 50 then none else some (c + 50)) ∧ SameMem s t)) ∧
    (∀ half : Fin 18, 16 ≤ half.val →
      (((List.range 10).any fun i => s.hot (10 * (half.val - 16) + i)) = true → Completes (.thermalCeilingStep half) s fun t =>
        tget t.u.pow.halfCeil (half.val - 16) = some (max 800 (tgetD s.u.pow.halfCeil (half.val - 16) (s.rd .clockMaxMhz) - 50)) ∧
        t.cnt .govCount 0 5 = (s.cnt .govCount 0 5 + 1) % 2 ^ 64 ∧ SameMem s t) ∧
      (∀ c, ((List.range 10).any fun i => s.hot (10 * (half.val - 16) + i)) = false → tget s.u.pow.halfCeil (half.val - 16) = some c →
        Completes (.thermalCeilingStep half) s fun t =>
          tget t.u.pow.halfCeil (half.val - 16) = (if s.rd .clockMaxMhz ≤ c + 50 then none else some (c + 50)) ∧ SameMem s t))

/-- NAP and DEEP: a request begins the entry where nothing forbids it, only the BMC's to DEEP; NAP turns columns and memory interfaces
off, DEEP loses memory, which then reads 0 (log entry 3: the model's choice); wake events and the BMC's write of 0 lead back. -/
def Obligations.NapAndDeep : Prop :=
  ∀ s : State,
    (∀ r : Requester, Accepts s r .stateReq 0 2 → s.u.pow.nap = false → s.mayNap = true → Completes (.stateReqNap r) s fun t =>
      t.u.pow.napEntering = true ∧ t.u.pow.deepAsked = false ∧ EntryOnly [] s t) ∧
    (∀ r : Requester, Accepts s r .stateReq 0 3 → reqClass r = 2 → s.mayNap = true → Completes (.stateReqDeep r) s fun t =>
      t.u.pow.napEntering = true ∧ t.u.pow.deepAsked = true ∧ EntryOnly [] s t) ∧
    (∀ r : Requester, s.u.pow.deep = false → Accepts s r .stateReq 0 0 → s.u.pow.nap = true → Completes (.stateReqWake r) s fun t =>
      t.u.pow.waking = true ∧ (s.u.pow.napEntering = false → EntryOnly [] s t) ∧
      (s.u.pow.napEntering = true → t.u.pow.napEntering = false ∧ EntryOnly [(.stateCount, 0)] s t)) ∧
    (∀ r : Requester, s.u.pow.deep = true → reqClass r = 2 → Completes (.stateReqWake r) s fun t => t.u.pow.deep = false ∧
      t.u.pow.boot = .rom ∧ t.rd .resetCause = 4 ∧ t.rd .deviceState = 1 ∧ SameMem s t) ∧
    (s.u.pow.napEntering = true → s.mayNap = true → s.poolHoldsAll (s.holders (List.range 192)) = true →
      (s.u.pow.deepAsked = false → Completes .napEntryDone s fun t => t.u.pow.nap = true ∧ t.u.pow.memOn = false ∧ t.rd .deviceState = 2 ∧
        (∀ c, c < 16 → t.colSt c = 2) ∧ t.cnt .stateCount 0 2 = (s.cnt .stateCount 0 2 + 1) % 2 ^ 64 ∧ t.u.pow.napSince = s.now ∧
        t.stack = s.stack ∧ t.host = s.host) ∧
      (s.u.pow.deepAsked = true → s.Inv → Completes .napEntryDone s fun t => t.u.pow.deep = true ∧ t.rd .deviceState = 3 ∧
        (∀ a n, t.rdMem .stack a n = List.replicate n (0#8, false)) ∧ (∀ a n, t.rdMem .scratch a n = List.replicate n (0#8, false)) ∧
        ∀ c, c < 1024 → t.ctxState c = 0)) ∧
    (∀ e : WakeEvent, (s.u.pow.nap = true → Completes (.napWakeEvent e) s fun t => t.u.pow.waking = true ∧ t.u.pow.napEntering = false ∧
        SameMem s t ∧ (s.u.pow.napEntering = false → SameEntriesBut [] s t) ∧
        (s.u.pow.napEntering = true → t.cnt .stateCount 0 3 = (s.cnt .stateCount 0 3 + 1) % 2 ^ 64 ∧
          SameEntriesBut [(.stateCount, 0)] s t)) ∧
      (s.u.pow.nap = false → s.u.pow.napEntering = true → Completes (.napWakeEvent e) s fun t => t.u.pow.napEntering = false ∧
        t.rd .deviceState = 1 ∧ t.cnt .stateCount 0 3 = (s.cnt .stateCount 0 3 + 1) % 2 ^ 64 ∧ SameMem s t ∧
        SameEntriesBut [(.deviceState, 0), (.stateCount, 0)] s t)) ∧
    (s.u.pow.nap = true → s.u.pow.waking = true → s.u.pow.perst = false → s.u.pow.deep = false → s.u.pow.held = [] →
      s.u.host.keptDb = [] → Completes .memoryWakeDone s fun t => t.u.pow.nap = false ∧ t.u.pow.waking = false ∧ t.u.pow.memOn = true ∧
          t.rd .deviceState = 1 ∧
        t.cnt .stateCount 0 4 = (s.cnt .stateCount 0 4 + (s.now - s.u.pow.napSince)) % 2 ^ 64 ∧ SameMem s t ∧
        SameEntriesBut [(.deviceState, 0), (.stateCount, 0)] s t)

/-- Power-good rising latches the straps, leaves FIXED and STORE entries as they were, every other entry at its default, and an empty
machine whose memory is lost; power loss and an overvoltage leave the same of entries, memory and machine, without power. Lost memory
reads 0 (log entry 3), and whether module flash can be read comes with the row (log entry 5): the model's choices. -/
def Obligations.PowerComesAndGoes : Prop :=
  ∀ s : State, s.Inv →
    let lost (t : State) : Prop := (∀ a n, t.rdMem .stack a n = List.replicate n (0#8, false)) ∧
      (∀ a n, t.rdMem .scratch a n = List.replicate n (0#8, false)) ∧ t.host = s.host
    let fell (t : State) : Prop := t.u.pow.power = false ∧ t.u.pow.ready = false ∧ t.u.pow.linkUp = false ∧ t.u.pow.memOn = false ∧ lost t ∧
      (∀ (n : EName) (i : Nat), i < n.count → n.info.pers = .fixed → t.rd n i = s.rd n i) ∧
      (s.u.dict.storeDue = [] → ∀ (n : EName) (i : Nat), i < n.count → n.info.pers = .store → tget t.regs (n.key i) = tget s.regs (n.key i)) ∧
      (∀ (n : EName) (i : Nat), i < n.count → n.info.pers ≠ .fixed → n.info.pers ≠ .store → t.rd n i = n.fit (n.dfltOf i s.u.pow.straps)) ∧
      t.u.core = {} ∧ t.u.sess = [] ∧ t.u.flows = [] ∧ t.u.molt = {} ∧ t.u.dict = {}
    (∀ latch : Latch, (s.u.pow.power = false ∨ s.u.pow.latched = false) → Completes (.powerOn latch) s fun t =>
      let straps := latch.straps
      t.u.pow.power = true ∧ t.u.pow.latched = true ∧ t.u.pow.straps = straps.toNat ∧ t.u.pow.flashOk = latch.flashOk ∧
      t.u.pow.ready = false ∧ t.now = 0 ∧
      (∀ (n : EName) (i : Nat), i < n.count → n.info.pers ≠ .fixed → n.info.pers ≠ .store → n ≠ .debugNonce →
        t.rd n i = n.fit (n.dfltOf i straps.toNat)) ∧
      (∀ (n : EName) (i : Nat), i < n.count → n.info.pers = .fixed → t.rd n i = s.rd n i) ∧
      (s.u.dict.storeDue = [] → ∀ (n : EName) (i : Nat), i < n.count → n.info.pers = .store →
        tget t.regs (n.key i) = tget s.regs (n.key i)) ∧
      t.u.core = {} ∧ t.u.sess = [] ∧ t.u.flows = [] ∧ t.u.molt = {} ∧ t.u.dict = {} ∧ lost t) ∧
    Completes .powerLoss s fell ∧ Completes .inputOvervoltage s fell

/-- What every warm reset leaves, whatever its cause: local time 0, VOL and STRAP entries at their defaults, the cause and its count,
scratch lost, which then reads 0 (log entry 3). A hot reset and WARM_RESET latch the pins as a row told them last (log entry 9), find the
flash as before (log entry 5), and the moments at which the layout and local time change are log entries 61 and 62: the model's
choices. -/
def Obligations.WarmResetsRestoreDefaults : Prop :=
  ∀ (s : State),
    let reset (cause counter : Nat) (straps : Nat) (t : State) : Prop := t.now = 0 ∧ t.u.pow.ready = false ∧ t.u.pow.straps = straps ∧
      (∀ (n : EName) (i : Nat), i < n.count → (n.info.pers = .vol ∨ n.info.pers = .strap) → n ≠ .debugNonce →
        t.rd n i = n.fit (n.dfltOf i straps)) ∧
      t.rd .resetCause = cause ∧ t.fld .resetCount 0 (4 * counter) 0 32 = (s.fld .resetCount 0 (4 * counter) 0 32 + 1) % 2 ^ 32 ∧
      (s.u.svc.cairn = none → t.host = s.host) ∧ (s.Inv → ∀ a n, t.rdMem .scratch a n = List.replicate n (0#8, false))
    let kept (t : State) : Prop := s.u.svc.cairn = none → s.u.pow.trained = true → s.u.pow.deep = false → s.u.dict.storeDue = [] →
      s.rd .storeFactory = 0 →
      s.u.mem.share = s.layoutAsked.share → s.u.trust.unlock = none → t.stack = s.stack
    (s.u.pow.power = true → s.u.pow.linkUp = true → Completes .pcieHotReset s fun t => reset 2 1 s.u.pow.pins t ∧ kept t) ∧
    (∀ r : Requester, Accepts s r .warmReset 0 1 → Completes (.warmReset r) s fun t => reset 3 0 s.u.pow.pins t ∧ kept t) ∧
    (s.u.pow.power = true → s.u.pow.perstSeen = true → s.u.pow.perst = false → Completes .perstAssert s fun t => t.u.pow.perst = true ∧
      t.u.pow.ready = false ∧ t.u.pow.linkUp = false ∧ t.u.pow.memOn = false ∧ t.u.pow.boot = .rom ∧ t.u.svc.cairn = none ∧
          (s.u.svc.cairn = none → SameMem s t)) ∧
    (∀ latch : Latch, s.u.pow.power = true → s.u.pow.perst = true → Completes (.perstDeassert latch) s fun t =>
      reset 1 0 latch.straps.toNat t ∧ t.host = s.host ∧ t.u.pow.flashOk = latch.flashOk ∧
      (latch.straps.toNat = s.u.pow.straps → latch.flashOk = s.u.pow.flashOk → kept t)) ∧
    (∀ latch : Latch, s.u.pow.power = true → s.u.pow.perst = false → Completes (.perstDeassert latch) s fun t =>
      t.u.pow.perstSeen = true ∧ t.u.pow.pins = latch.straps.toNat ∧ SameMem s t ∧ SameEntriesBut [] s t)

/-- The first second: memory trains, the boot ROM starts the copy that verifies, the device becomes READY; a saddle restart and the
firmware watchdog stop the firmware, and a copy that verifies again goes on. -/
def Obligations.BootAndRestart : Prop :=
  ∀ s : State,
    (∀ failed : List (Fin 30720), s.u.pow.power = true → s.u.pow.perst = false → s.u.pow.deep = false → s.u.pow.nap = false →
      s.u.pow.memOn = false → Completes (.memoryTrainingDone failed) s fun t => t.u.pow.memOn = true ∧ t.u.pow.trained = true ∧
        (∀ c, c ∈ t.u.pow.failedCh ↔ c ∈ failed.map Fin.val) ∧ t.stack = s.stack) ∧
    (s.romRuns = true → s.bootStrap ≠ 1 → s.bootStrap ≠ 2 →
      let a := s.u.trust.active
      Completes .bootVerify s fun t =>
        (s.copyReason a = 0 → t.u.pow.boot = .running ∧ t.u.trust.run = s.fwCopy a ∧ t.u.trust.active = a ∧
          t.rd .bootStatus = bootWord 2 a (b2n s.safeMode) 0 0 % 2 ^ 32 ∧ SameMem s t) ∧
        (s.copyReason a ≠ 0 → s.copyReason (1 - a) = 0 → t.u.pow.boot = .running ∧ t.u.trust.run = s.fwCopy (1 - a) ∧
          t.u.trust.active = 1 - a ∧ SameMem s t) ∧
        (s.copyReason a ≠ 0 → s.copyReason (1 - a) ≠ 0 → t.u.pow.boot = .failed ∧ t.fld .bootStatus 0 0 0 4 = 3)) ∧
    (s.fwRuns = true → s.u.pow.perstSeen = true → s.u.pow.memOn = true → s.u.pow.ready = false → s.u.pow.fatal = false → s.u.host.keptDb = [] →
      Completes .deviceReady s fun t => t.u.pow.ready = true ∧ SameMem s t ∧ SameEntriesBut [] s t) ∧
    (∀ r : Requester, Accepts s r .saddleRestart 0 1 → s.moltRuns = false → Completes (.saddleRestart r) s fun t =>
      t.u.pow.restarting = true ∧ t.fld .resetCount 0 8 0 32 = (s.fld .resetCount 0 8 0 32 + 1) % 2 ^ 32 ∧
      (s.u.svc.cairn = none → EntryOnly [(.resetCount, 0)] s t)) ∧
    (s.fwRuns = true → s.moltRuns = false → Completes .firmwareWatchdog s fun t => t.u.pow.restarting = true ∧
      t.fld .resetCount 0 12 0 32 = (s.fld .resetCount 0 12 0 32 + 1) % 2 ^ 32 ∧ (s.u.svc.cairn = none → t.stack = s.stack)) ∧
    (s.u.pow.restarting = true → s.u.pow.power = true → s.u.pow.perst = false → s.u.pow.deep = false →
      Completes .saddleRestartDone s fun t => t.u.pow.restarting = false ∧
        (s.bootedOk = true → s.u.host.keptDb = [] → s.u.svc.cairn = none → s.u.svc.pressWaits = false →
          s.u.svc.fatalWaits = none → t.u.pow.boot = s.u.pow.boot ∧ SameMem s t) ∧
        (s.bootedOk = false → t.u.pow.boot = .failed ∧ t.u.pow.fatal = true ∧ (s.u.pow.fatal = false → t.fld .fatalState 0 0 0 16 = 8)))

/-! ### Trust (R498 to R519) -/

/-- Firmware updates and keys: parts of an image are gathered, an image that verifies is written to the inactive copy, the rollback floor
rises; a key slot is written until enrolment freezes; a debug token for the current nonce is taken for the next warm reset. Parts of an
image are told apart as log entry 63 says, which also gives the order of checks: the model's choices. -/
def Obligations.TrustEntriesTakeWrites : Prop :=
  ∀ (s : State) (r : Requester),
    (∀ data : List Byte, data.length = 16384 → s.romServes r = false → s.u.trust.due = none → Accepts s r .fwChunk 0 (leNat data) →
      let fresh : Bool := s.u.trust.staging.isEmpty || imgWhole s.u.trust.staging
      (partHead data ≠ fresh → Completes (.fwChunk r data) s fun t => t.u.trust.staging = [] ∧ EntryOnly [] s t) ∧
      (fresh = true → partHead data = true → Completes (.fwChunk r data) s fun t =>
        t.u.trust.staging = data.take (256 + imgBytes data) ∧ SameMem s t) ∧
      (fresh = false → partHead data = false → Completes (.fwChunk r data) s fun t =>
        t.u.trust.staging = (s.u.trust.staging ++ data).take (256 + imgBytes (s.u.trust.staging ++ data)) ∧ SameMem s t)) ∧
    (∀ v : W64, Accepts s r .fwUpdate 0 v.toNat → s.u.trust.due = none → s.imgHeld v.toNat = false → s.u.mem.faulty = false →
      Completes (.fwUpdate r v) s fun t =>
        EntryOnly ((.fwUpdate, 0) :: (.fwUpdateState, 0) :: (List.range 20).map fun i => (.memErrors, i)) s t ∧ t.rd .fwUpdate = v.toNat ∧
        (s.imgReason (s.imgAt v.toNat) 1 = 0 → t.rd .fwUpdateState = 1 ∧ t.u.trust.due = some (s.imgAt v.toNat)) ∧
        (s.imgReason (s.imgAt v.toNat) 1 ≠ 0 → t.rd .fwUpdateState = 3 + s.imgReason (s.imgAt v.toNat) 1 * 2 ^ 4 ∧ t.u.trust.due = none)) ∧
    (∀ img, s.u.trust.due = some img →
      (Completes (.fwUpdateDone true) s fun t => tget t.u.trust.copies (1 - s.u.trust.active) = some img ∧
        t.u.trust.active = 1 - s.u.trust.active ∧ t.rd .fwUpdateState = 2 ∧ t.u.trust.due = none ∧ 142 ∈ t.u.host.raised ∧ SameMem s t) ∧
      (Completes (.fwUpdateDone false) s fun t => t.u.trust.copies = s.u.trust.copies ∧ t.u.trust.active = s.u.trust.active ∧
        t.rd .fwUpdateState = 83 ∧ t.u.trust.due = none ∧ SameMem s t)) ∧
    (Accepts s r .fwSvnCommit 0 1 → s.fld .bootStatus 0 0 6 1 = 0 → s.fld .bootStatus 0 0 4 2 < 2 → Completes (.fwSvnCommit r 1) s fun t =>
      t.u.trust.svn = max s.u.trust.svn (imgSvn s.u.trust.run) ∧ EntryOnly [(.fwSvnCommit, 0)] s t) ∧
    (∀ (slot : Fin 8) (v : BitVec 640), Accepts s r .keySlot slot v.toNat → s.safeMode = false → s.rd .enrollFreeze ≠ 1 →
      (bit v.toNat 0 = true → Config.sm2Point (bits v.toNat 128 512) = true) → Completes (.keySlotWrite r slot v) s fun t =>
        t.rd .keySlot slot = v.toNat &&& keySlotMask ∧
        (∀ m, m < 2 → s.policyRuns m = true → (s.policy m).slot = slot → (bit v.toNat 0 && bit v.toNat 1) = false → t.rd .policyState m = 2) ∧
        EntryOnly [(.keySlot, slot), (.policyState, 0), (.policyState, 1)] s t) ∧
    (Accepts s r .enrollFreeze 0 1 → Completes (.enrollFreeze r 1) s fun t => t.rd .enrollFreeze = 1 ∧ EntryOnly [(.enrollFreeze, 0)] s t) ∧
    (∀ token : BitVec 768, Accepts s r .debugUnlock 0 token.toNat → s.rd .debugAllow = 1 → bits token.toNat 0 128 = s.rd .debugNonce →
      bits token.toNat 128 32 < 4 → bits token.toNat 160 96 = 0 →
      Completes (.debugUnlock r token) s fun t => EntryOnly [] s t ∧ t.u.trust.unlock =
        if Config.sm2Verify Config.rootPub (Config.sm3 (leBytes 8 (s.rd .serial) ++ leBytes 16 (bits token.toNat 0 128) ++
            leBytes 4 (bits token.toNat 128 32))) (bits token.toNat 256 512) = true
          then some (bits token.toNat 128 32) else s.u.trust.unlock) ∧
    (Accepts s r .debugRelock 0 1 → Completes (.debugRelock r 1) s fun t => t.rd .debugState = 0 ∧ EntryOnly [(.debugState, 0)] s t)

/-! ### Faults, cairns and service (R476 to R497) -/

/-- Error windows drain and clear, an event ring is registered, FATAL is entered and recorded, its cairn completes or a restart helps it;
a press drains, ports go off, a removal is service, and the lights tell these and answer a touch. The latch's row, the ring's index at
registration, the order of a press in FATAL, a cairn's padding and ERRWIN_CLEAR's numbers are log entries 17, 20, 54, 55 and 56, and how
far a stopped cairn has come is free (log entry 117): the model's choices. -/
def Obligations.FaultsCairnsAndService : Prop :=
  ∀ (s : State) (r : Requester),
    (∀ src : Byte, s.u.pow.power = true → 0 < s.fld .errwinState src.toNat 0 0 8 → Completes (.errwinDrain src) s fun t =>
      t.fld .errwinState src.toNat 0 0 8 = s.fld .errwinState src.toNat 0 0 8 - 1 ∧ SameMem s t ∧
        SameEntriesBut [(.errwinState, src.toNat)] s t) ∧
    (∀ v : BitVec 16, Accepts s r .errwinClear 0 v.toNat →
      (v.toNat < 256 → Completes (.errwinClear r v) s fun t => t.fld .errwinState v.toNat 0 0 9 = 0 ∧
        EntryOnly [(.errwinState, v.toNat)] s t) ∧
      (v = 0xFFFF → Completes (.errwinClear r v) s fun t => (∀ src, src < 256 → t.fld .errwinState src 0 0 9 = 0) ∧ SameMem s t)) ∧
    (∀ (fn : Fin 32) (v : BitVec 128), Accepts s r .evtRing fn v.toNat →
      (bits v.toNat 0 64 = 0 ∨ (bits v.toNat 0 12 = 0 ∧ 6 ≤ bits v.toNat 64 8 ∧ bits v.toNat 64 8 ≤ 16)) →
      Completes (.evtRingWrite r fn v) s fun t => t.rd .evtRing fn = v.toNat % 2 ^ 72 ∧ t.rd .evtWidx fn = 0 ∧
        EntryOnly [(.evtRing, fn), (.evtWidx, fn)] s t) ∧
    (∀ (c : Byte) (detail : BitVec 40), s.u.pow.power = true → s.u.pow.perst = false → s.u.pow.deep = false → 1 ≤ c.toNat → c.toNat ≤ 8 →
      (s.u.pow.fatal = false → Completes (.fatalEnter c detail) s fun t => t.u.pow.fatal = true ∧ t.fld .fatalState 0 0 0 16 = c.toNat ∧
        t.fld .fatalState 0 8 0 64 = s.now % 2 ^ 64 ∧ (s.rd .serviceState < 2 → t.statusLight = .steady .amber) ∧
        ∀ f ∈ s.flowList, t.flowSt f = 0) ∧
      (s.u.pow.fatal = true → Completes (.fatalEnter c detail) s fun t =>
        t.fld .fatalState 0 2 0 16 = min (s.fld .fatalState 0 2 0 16 + 1) (2 ^ 16 - 1) ∧ SameMem s t ∧
        SameEntriesBut [(.fatalState, 0)] s t)) ∧
    (∀ c, s.u.svc.cairn = some c → s.fwRuns = true → s.u.pow.nap = false → s.u.pow.memOn = true → s.loopback = false → c.refused = false →
      c.cls ≠ 1 →
      s.u.svc.pressPending = false → s.u.pow.failedCh = [] → s.Inv → c.slot < 2 → Completes .cairnComplete s fun t =>
        t.u.svc.cairn = none ∧ t.rd .cairnLatest = c.slot + 2 ∧ ∃ mirror len sections digest,
          t.rdMem .stack (cairnSlot c.slot) 256 = wordBytes (s.cairnHeader c 1 mirror len sections digest)) ∧
    (s.u.pow.fatal = true → s.u.svc.cairn.isSome = true → s.u.svc.cairnRetried = false → s.fwRuns = true → s.moltRuns = false →
      Completes .cairnTimeout s fun t => t.u.svc.cairnRetried = true ∧ t.u.pow.restarting = true ∧ (s.cairnRuns = false → t.stack = s.stack)) ∧
    (s.u.pow.power = true → s.fwRuns = true → s.u.pow.restarting = false → s.rd .serviceEn = 1 → s.u.pow.ready = true →
      s.rd .serviceState = 0 → s.u.svc.drainStep = 0 → s.u.pow.fatal = false →
      (∀ i, i < 256 → s.rd .sessionState i ≠ 1 ∧ s.rd .sessionState i ≠ 2) →
      Completes .serviceButtonPress s fun t => t.rd .serviceState = 1 ∧ t.statusLight = .blink .blue 20 ∧
        t.u.svc.drainStep = 3 ∧ t.u.svc.frozen = true ∧
        t.fld .serviceCount 0 0 0 32 = (s.fld .serviceCount 0 0 0 32 + 1) % 2 ^ 32 ∧ t.stack = s.stack) ∧
    (s.fwRuns = true → s.drainOver = true → Completes .drainComplete s fun t => t.u.svc.drainStep = 5 ∧ SameMem s t) ∧
    (s.fwRuns = true → s.u.svc.drainStep = 3 → Completes .drainTimeout s fun t => t.u.svc.drainStep = 4 ∧
      t.fld .serviceCount 0 8 0 32 = (s.fld .serviceCount 0 8 0 32 + 1) % 2 ^ 32 ∧
      ∀ c ∈ s.readyCtxs, s.ctxBusy c = true → t.ctxState c = 2) ∧
    (s.fwRuns = true → s.u.svc.drainStep = 5 →
      (s.rd .serviceCairn ≠ 1 → Completes .drainPortsDisable s fun t => t.u.svc.drainStep = 7 ∧ t.rd .serviceState = 2 ∧
        t.u.pow.memOn = false ∧ ∀ p, p < 8 → t.portSt p = 0) ∧
      (s.rd .serviceCairn = 1 → Completes .drainPortsDisable s fun t => t.u.svc.drainStep = 6 ∧ t.u.svc.cairn.isSome = true ∧
        t.lifeCnt .cairnCount = (s.lifeCnt .cairnCount + 1) % 2 ^ 64 ∧ ∀ p, p < 8 → t.portSt p = 0)) ∧
    (Accepts s r .serviceCancel 0 1 → (s.u.svc.drainStep = 3 ∨ s.u.svc.drainStep = 4) → Completes (.serviceCancel r 1) s fun t =>
      t.u.svc.drainStep = 0 ∧ t.u.svc.frozen = false ∧ t.rd .serviceState = 0 ∧ t.stack = s.stack) ∧
    (s.u.pow.power = true → Completes .latchOpen s fun t => t.u.svc.frozen = true ∧ t.rd .serviceState = 3 ∧
      t.statusLight = .blink .amber 40 ∧ (s.u.svc.cairn = none → t.stack = s.stack) ∧ (s.rd .serviceState < 2 → t.u.svc.cairn = none) ∧
      (s.rd .serviceState < 2 → t.fld .serviceCount 0 12 0 32 = (s.fld .serviceCount 0 12 0 32 + 1) % 2 ^ 32 ∧
        ∀ p, p < 8 → t.portSt p = 0 ∨ t.portSt p = 8)) ∧
    (s.u.pow.power = true → Completes .handlePadTouch s fun t => (∀ p, p < 8 → tget t.u.svc.portLight p = some 1) ∧
      t.fld .serviceCount 0 16 0 32 = (s.fld .serviceCount 0 16 0 32 + 1) % 2 ^ 32 ∧ SameMem s t ∧ SameEntriesBut [(.serviceCount, 0)] s t) ∧
    (∀ p : Fin 8, Completes (.portLightTimeout p) s fun t => tget t.u.svc.portLight p = none ∧ SameMem s t ∧ SameEntriesBut [] s t)

/-! ### Stack memory (R268 to R288) -/

/-- Patrol reads one burst, with the errors that memory has taken by then (which come in with this row: log entry 103, the model's
choice): what the channel code corrects is corrected and counted, what it does not is stored back poisoned, and the patrol moves on. A
poisoned burst reaches the segments it lies in, or is FATAL in the firmware region; temperatures, loop-back runs and partition tokens show
in their entries. -/
def Obligations.MemoryRowsAct : Prop :=
  ∀ (s : State) (r : Requester),
    (∀ (stack : Fin 20) (channel : Fin 1536) (loc : Nat) (burst : Fin 2) (errs : MemErrors),
      let c : Instr := .patrolScrub stack channel loc burst errs
      let x : State := { s with u := s.u.struck errs }
      let done (t : State) : Prop :=
        t.rd .patrolPosition = if stack.val = 19 ∧ channel.val = 1535 ∧ burst.val = 1 then (loc + 1) % 87382 else loc
      (s.u.pow.memOn = true → s.u.pow.fatal = false → s.rd .patrolHours ≠ 0 → s.rd .deviceState ≤ 1 → loc = s.rd .patrolPosition →
        (s.loopback = true → s.fld .lbCtrl 0 0 0 5 ≠ stack.val) →
        (s.u.mem.dpaOf ⟨stack, channel, loc⟩ = none → Completes c s fun t => done t ∧ t.u.mem = x.u.mem ∧ SameMem s t ∧
          SameEntriesBut [(.patrolPosition, 0)] s t) ∧
        (∀ a, s.u.mem.dpaOf ⟨stack, channel, loc⟩ = some a → s.badChannel (64 * (a / 64 + burst)) = false →
          let g := a / 64 + burst.val
          let p := s.u.mem.place (64 * g)
          (x.readBurst g = .clean → Completes c s fun t => done t ∧ SameMem s t ∧ SameEntriesBut [(.patrolPosition, 0)] s t) ∧
          (∀ syms, (x.readBurst g = .corrected syms ∨ ((∃ change, x.readBurst g = .poisoned change syms) ∧ syms ≠ [])) →
            64 * g + 64 ≤ stackSize → Completes c s fun t =>
            let rest := syms.filter fun y => !(s.erased p.global).contains (y / 2)
            done t ∧ (∀ j, j < 64 → t.rdMem .stack (64 * g + j) 1 = [x.readByte (64 * g + j)]) ∧ tget t.u.mem.errs g = none ∧
            t.cnt .memErrors p.stack 0 = (s.cnt .memErrors p.stack 0 + if rest = [] then 0 else 1) % 2 ^ 64 ∧
            t.cnt .memErrors p.stack 5 = (s.cnt .memErrors p.stack 5 + if rest = [] then 0 else 1) % 2 ^ 64 ∧
            t.cnt .memErrors p.stack 2 = (s.cnt .memErrors p.stack 2 + if rest.length = syms.length then 0 else 1) % 2 ^ 64) ∧
          (x.readBurst g = .lost → 64 * g + 64 ≤ stackSize → Completes c s fun t => done t ∧ g ∈ t.stack.poison ∧
            tget t.u.mem.errs g = none ∧ (∀ j, j < 64 → t.rdMem .stack (64 * g + j) 1 = [x.readByte (64 * g + j)]) ∧
            t.cnt .memErrors p.stack 1 = (s.cnt .memErrors p.stack 1 + 1) % 2 ^ 64)))) ∧
    (∀ dpa : Nat, s.saddleUp = true → dpa / 64 ∈ s.stack.poison →
      (s.u.mem.region dpa = .firmware → Completes (.poisonReport dpa) s fun t => t.u.pow.fatal = true ∧ t.fld .fatalState 0 0 0 16 = 4) ∧
      (s.u.mem.region dpa ≠ .firmware → Completes (.poisonReport dpa) s fun t => t.stack = s.stack ∧
        ∀ p ∈ s.segsHolding dpa, p ∈ t.u.poisonSegs)) ∧
    (∀ (stack : Fin 20) (t0 t1 t2 t3 : Int), s.u.pow.power = true → s.u.pow.memOn = true →
      Completes (.stackTempSample stack t0 t1 t2 t3) s fun t =>
      let x := max (max t0 t1) (max t2 t3)
      t.fld .stackThermal stack 0 0 8 = ofInt 8 x ∧ t.fld .stackThermal stack 0 16 2 = thermalRow (s.fld .stackThermal stack 0 16 2) x ∧
      (105 ≤ x → t.u.pow.fatal = true) ∧ (x < 105 → SameMem s t ∧ SameEntriesBut [(.stackThermal, stack)] s t)) ∧
    (∀ v : BitVec 32, Accepts s r .lbCtrl 0 v.toNat → s.loopback = false → bits v.toNat 28 3 < 5 →
      bits v.toNat 5 11 + bits v.toNat 16 11 ≤ 1535 → bits v.toNat 0 5 ≤ 19 → Completes (.loopbackStart r v) s fun t =>
        t.rd .lbCtrl = v.toNat ∧ EntryOnly [(.lbCtrl, 0), (.lbResult, bits v.toNat 0 5)] s t ∧ (bit v.toNat 31 = true →
          ∀ c, c ≤ bits v.toNat 16 11 → t.fld .lbResult (bits v.toNat 0 5) (8 * (bits v.toNat 5 11 + c)) 0 64 = 0)) ∧
    (∀ results : List (Nat × W64), s.loopback = true → bits (s.rd .lbCtrl) 5 11 + bits (s.rd .lbCtrl) 16 11 ≤ 1535 →
      bits (s.rd .lbCtrl) 0 5 ≤ 19 → (∀ x ∈ s.u.core.engQ, x.2 = []) → s.flowsHeld = [] → s.u.pow.held = [] →
      s.u.mem.waits = [] → s.u.host.keptDb = [] → (∀ st, (s.lbr st).late = false) → (∀ i, (s.ses i).recs = []) →
      Completes (.loopbackDone results) s fun t => t.fld .lbCtrl 0 0 31 1 = 0 ∧ t.u.mem.queued = [] ∧
        (∀ c, c ≤ bits (s.rd .lbCtrl) 16 11 →
          t.fld .lbResult (bits (s.rd .lbCtrl) 0 5) (8 * (bits (s.rd .lbCtrl) 5 11 + c)) 0 64 =
            ((results.find? fun x => x.1 == bits (s.rd .lbCtrl) 5 11 + c).map fun x => x.2.toNat).getD 0) ∧
        SameMem s t ∧ SameEntriesBut [(.lbCtrl, 0), (.lbResult, bits (s.rd .lbCtrl) 0 5), (.memqExhaust, 0), (.memqExhaust, 1)] s t) ∧
    (∀ (part : Fin 16) (east : Bool) (tokens waited : Nat), s.fld .partition part 0 0 32 ≠ 0 → s.u.pow.memOn = true →
      (∀ w ∈ s.u.mem.waits, w.part ≠ part) →
      Completes (.partitionTokenRefill part east tokens waited) s fun t =>
        tgetD t.u.mem.spent (2 * part + b2n east) 0 = tgetD s.u.mem.spent (2 * part + b2n east) 0 - tokens ∧
        t.cnt .partitionCount part (2 + b2n east) = (s.cnt .partitionCount part (2 + b2n east) + waited) % 2 ^ 64 ∧ SameMem s t ∧
        SameEntriesBut [(.partitionCount, part)] s t)

/-! ### Ports, flits and routing (R289 to R304, R327 to R333) -/

/-- Ports come up state by state, are enabled, disabled, reset and quarantined, and go DOWN with the cause of what happened. An active
module is taken out of low power and waited for (log entry 98); the lanes lock once their markers let them be deskewed. -/
def Obligations.PortsComeUpAndGoDown : Prop :=
  ∀ s : State,
    (∀ (r : Requester) (v : Byte), Accepts s r .portEnable 0 v.toNat → Completes (.portEnable r v) s fun t => t.rd .portEnable = v.toNat ∧
      t.stack = s.stack ∧ ∀ p, p < 8 → t.portSt p =
        if bit v.toNat p = true then
          if s.portsHeld = false ∧ (s.portSt p = 0 ∨ (s.portEnabled p = false ∧ s.portSt p = 8)) then 1 else s.portSt p
        else if s.portEnabled p = true then 0 else s.portSt p) ∧
    (∀ (r : Requester) (v : Byte), Accepts s r .portReset 0 v.toNat → v.toNat < 8 → Completes (.portReset r v) s fun t =>
      t.portSt v.toNat = (if s.portEnabled v.toNat = true ∧ s.portsHeld = false then 2 else 8) ∧ t.fld .portStatus v.toNat 0 4 4 = 6 ∧
      t.cnt .portStatus v.toNat 5 = (s.cnt .portStatus v.toNat 5 + 1) % 2 ^ 64 ∧
      t.rd .recoveryEpoch = (s.rd .recoveryEpoch + 1) % 2 ^ 32 ∧ t.stack = s.stack) ∧
    (∀ (r : Requester) (p : Fin 8) (v : BitVec 32), Accepts s r .peerExpect p v.toNat → s.safeMode = false →
      Completes (.peerExpectWrite r p v) s fun t => t.rd .peerExpect p = v.toNat % 2 ^ 19 + v.toNat / 2 ^ 31 * 2 ^ 31 ∧
        (s.portSt p = 7 → (s.port p).ident = true →
          (bit v.toNat 31 = false ∨ (bits v.toNat 0 16 = s.fld .portStatus p 0 16 16 ∧ bits v.toNat 16 3 = s.fld .portStatus p 0 32 3)) →
          t.portSt p = 6) ∧ (s.portSt p ≠ 7 → t.portSt p = s.portSt p) ∧ SameMem s t) ∧
    (s.colOn = true → ∀ p : Fin 8,
      (∀ c : Cmis, s.portSt p = 1 → s.portEnabled p = true → Completes (.cmisReadDone p c) s fun t =>
        (c.readable = true → 0x40 ≤ c.revision.toNat → t.rd .cableId p = 1 + c.ident.toNat * 2 ^ 8 + c.modState.toNat * 2 ^ 16 +
            c.vendor.toNat * 2 ^ 128 + c.part.toNat * 2 ^ 256 + c.serial.toNat * 2 ^ 384 ∧
          ((s.port p).awake = none → c.active = false → t.portSt p = 2 ∧ t.u.outbox = s.u.outbox) ∧
          ((s.port p).awake = none → c.active = true → t.portSt p = (if cmisReady c = true then 2 else 1) ∧
            t.u.outbox = s.u.outbox ++ [.highPower p] ∧ (t.port p).awake = some s.now) ∧
          (∀ since, (s.port p).awake = some since → t.u.outbox = s.u.outbox ∧
            t.portSt p = if cmisReady c = true ∨ since + 3 * 10 ^ 9 ≤ s.now then 2 else 1)) ∧
        ((c.readable = false ∨ c.revision.toNat < 0x40) → t.portSt p = (if s.rd .strictCable = 1 then 7 else 2) ∧ t.rd .cableId p = 0) ∧
        SameMem s t ∧ SameEntriesBut [(.cableId, p), (.portStatus, p)] s t) ∧
      (s.portSt p = 2 → Completes (.holdoffExpire p) s fun t => t.portSt p = 3 ∧ SameMem s t ∧ SameEntriesBut [(.portStatus, p)] s t) ∧
      (∀ ms, s.portSt p = 3 → (deskewed ms = true → Completes (.lanesLocked ⟨p, ms⟩) s fun t => t.portSt p = 4 ∧ (t.port p).fecAt = [] ∧
          (∃ f, t.u.outbox = s.u.outbox ++ [.flit p f] ∧ flitFld f 0 4 = 3) ∧ SameMem s t ∧ SameEntriesBut [(.portStatus, p)] s t) ∧
        (deskewed ms = false → exec (.lanesLocked ⟨p, ms⟩) s = .next s)) ∧
      (s.portSt p = 3 → Completes (.trainingTimeout p) s fun t => t.stack = s.stack ∧
        ((s.port p).fails + 1 < 3 → t.portSt p = 2 ∧ (t.port p).fails = (s.port p).fails + 1) ∧
        (3 ≤ (s.port p).fails + 1 → t.portSt p = 8 ∧ t.fld .portStatus p 0 4 4 = 4)) ∧
      (s.portSt p = 4 → Completes (.creditInit p) s fun t => t.portSt p = 5 ∧ (t.port p).cred = freshCredits ∧
        (∃ f, t.u.outbox = s.u.outbox ++ [.flit p f] ∧ flitFld f 0 4 = 4) ∧ SameMem s t ∧ SameEntriesBut [(.portStatus, p)] s t) ∧
      (s.portSt p = 4 → Completes (.creditInitTimeout p) s fun t => t.portSt p = 8 ∧ t.fld .portStatus p 0 4 4 = 3 ∧
        t.stack = s.stack) ∧
      (∀ (a : BitVec 16) (k : Byte) (serial : W64), s.portSt p = 5 → s.flowsHeld = [] → Completes (.ident p a k serial) s fun t =>
        t.portSt p = (if s.peerOk p a.toNat (k.toNat % 8) then 6 else 7) ∧ t.fld .portStatus p 0 16 16 = a.toNat ∧
        t.fld .portStatus p 0 32 3 = k.toNat % 8 ∧ SameMem s t ∧ SameEntriesBut [(.portStatus, p), (.recoveryEpoch, 0), (.colVcExhaust, p)] s t) ∧
      (s.portSt p = 5 → (s.port p).ident = false → Completes (.identResend p) s fun t =>
        (∃ f, t.u.outbox = s.u.outbox ++ [.flit p f] ∧ flitFld f 0 4 = 4 ∧
          f.payload.take 3 = leBytes 2 s.fabric ++ leBytes 1 p) ∧ SameMem s t ∧ SameEntriesBut [] s t) ∧
      ((s.portSt p = 8 ∨ (1 ≤ s.portSt p ∧ s.portSt p ≤ 3)) → s.portEnabled p = true → s.portsHeld = false →
        Completes (.cablePlugged p) s fun t =>
        t.portSt p = 1 ∧ t.port p = {} ∧ SameMem s t ∧ SameEntriesBut [(.portStatus, p)] s t) ∧
      (s.portSt p = 8 → s.portEnabled p = true → s.portsHeld = false → Completes (.signalDetect p) s fun t => t.portSt p = 2 ∧ t.port p = {} ∧
        SameMem s t ∧
        SameEntriesBut [(.portStatus, p)] s t) ∧
      (1 ≤ s.portSt p → s.portSt p ≤ 7 → Completes (.signalLoss p) s fun t => t.portSt p = 8 ∧ t.fld .portStatus p 0 4 4 = 7 ∧
        t.stack = s.stack) ∧
      (∀ lane : Fin 8, 4 ≤ s.portSt p → s.portSt p ≤ 7 → Completes (.laneLockLost p lane) s fun t => t.portSt p = 8 ∧
        t.fld .portStatus p 0 4 4 = 1 ∧ t.fld .portStatus p 0 8 3 = lane ∧ t.stack = s.stack))

/-- The codewords that come with a flit are counted (they come with it by log entry 108, the model's choice). A DATA flit in sequence
joins its message, with what it acknowledges; one out of sequence, and a damaged one, are dropped whole and asked for again, once; a RETRY
brings the named flit and all after it; any other good flit acknowledges; messages leave by their hop, are lost without one, or age out.
No flow holds a message here that credits would let go. -/
def Obligations.FlitsAndRouting : Prop :=
  ∀ s : State, s.colOn = true → s.flowsHeld = [] →
    (∀ (p : Fin 8) (f : Flit) (w : Codeword), lanesUp (s.portSt p) = true → s.portUp p = false → f.words = [w] →
      tgetD (s.port p).fecAt w.lane 0 ≤ w.num → Completes (.dataFlit p f) s fun t =>
        t.cnt .portStatus p 1 = (s.cnt .portStatus p 1 + if cwMended w = true then 1 else 0) % 2 ^ 64 ∧
        t.cnt .portStatus p 2 = (s.cnt .portStatus p 2 + if cwLost w = true then 1 else 0) % 2 ^ 64 ∧
        tgetD (t.port p).fecAt w.lane 0 = w.num + 1 ∧ t.stack = s.stack ∧ t.scratch = s.scratch) ∧
    (∀ (p : Fin 8) (f : Flit), s.portUp p = true →
      let c := (Act.countWords p f).run s
      let asks (t : State) : Prop := (t.port p).gap = true ∧ (t.port p).rxSeq = (c.port p).rxSeq ∧
        (∃ g, t.u.outbox = c.u.outbox ++ [.flit p g] ∧ flitFld g 0 4 = 2 ∧ leNat (g.payload.take 2) = (c.port p).rxSeq) ∧ SameMem c t
      let quiet (x : State) : Prop := (x.port p).ahead f = 0 ∨ 2048 ≤ (x.port p).ahead f ∨ (x.port p).gap = true
      (flitGood f = true →
        let h := (Act.heard p f).run c
        (flitFld f 0 4 = 1 → (c.port p).ahead f = 0 →
          let bs := tgetD (h.port p).asm (flitFld f 4 3) [] ++ flitBytes f
          (bs.length < 240 * cdiv (32 + bits (leNat (dataOf ((bs.drop 8).take 8))) 40 12) 240 → Completes (.dataFlit p f) s fun t =>
            (t.port p).rxSeq = ((h.port p).rxSeq + 1) % 4096 ∧ (t.port p).gap = false ∧ tgetD (t.port p).asm (flitFld f 4 3) [] = bs ∧
            SameMem h t) ∧
          (240 * cdiv (32 + bits (leNat (dataOf ((bs.drop 8).take 8))) 40 12) 240 ≤ bs.length → (msgOf bs 0).isSome = true →
            Completes (.dataFlit p f) s fun t => ∃ u op m, msgOf bs op = some m ∧ (u.port p).rxSeq = ((h.port p).rxSeq + 1) % 4096 ∧
              tgetD (u.port p).asm (flitFld f 4 3) [] = [] ∧ SameMem h u ∧
              t = (Act.all [.route (some (p.val, flitFld f 7 1 == 1)) (flitFld f 4 3) m (.arrive .kwMsg), .returnCredits p,
                .deliverHeld]).run u)) ∧
        (flitFld f 0 4 = 1 → (c.port p).rxSeq < 4096 → (c.port p).ahead f ≠ 0 → (c.port p).ahead f < 2048 → (c.port p).gap = false →
          (c.port p).retryTx + 1 < 16 → Completes (.dataFlit p f) s asks) ∧
        (flitFld f 0 4 = 1 → (c.port p).ahead f ≠ 0 → quiet c → exec (.dataFlit p f) s = .next c) ∧
        (flitFld f 0 4 = 2 → quiet h →
          let want := bits (leNat (f.payload.take 2)) 0 12
          let oldest := ((h.port p).txSeq + 4096 - (h.port p).replay.length) % 4096
          let again := (h.port p).replay.drop ((want + 4096 - oldest) % 4096)
          ((h.port p).retryRx = 0 ∨ (h.port p).retryRxSeq ≠ want ∨ (h.port p).retryRx + 1 < 16) → Completes (.retry p f) s fun t =>
            t.u.outbox = h.u.outbox ++ again.map (Out.flit p) ∧
            t.cnt .portStatus p 7 = (h.cnt .portStatus p 7 + again.length) % 2 ^ 64 ∧ SameMem h t) ∧
        (flitFld f 0 4 ≠ 1 → flitFld f 0 4 ≤ 4 → quiet h → (c.port p).queue = [] → Completes (.idleFlit p f) s fun t =>
          t.port p = (c.port p).heard f ∧ t.u.outbox = c.u.outbox ∧ SameMem c t ∧ SameEntriesBut [(.colVcExhaust, p)] c t)) ∧
      (flitGood f = false →
        ((c.port p).gap = true → Completes (.dataFlit p f) s fun t => t.port p = c.port p ∧ t.cnt .portStatus p 3 =
          (c.cnt .portStatus p 3 + if flitDecoded f = true ∧ flitFld f 0 4 = 1 then 1 else 0) % 2 ^ 64 ∧ SameMem c t ∧
          SameEntriesBut [(.portStatus, p)] c t) ∧
        ((c.port p).rxSeq < 4096 → (c.port p).gap = false → (c.port p).retryTx + 1 < 16 → Completes (.dataFlit p f) s asks))) ∧
    (∀ p : Fin 8, s.portUp p = true → (s.port p).gap = true → (s.port p).retryTx + 1 < 16 → (s.port p).rxSeq < 4096 →
      Completes (.retryResend p) s fun t =>
        (∃ g, t.u.outbox = s.u.outbox ++ [.flit p g] ∧ flitFld g 0 4 = 2 ∧ leNat (g.payload.take 2) = (s.port p).rxSeq) ∧
        (t.port p).retryTx = (s.port p).retryTx + 1 ∧ SameMem s t ∧ SameEntriesBut [(.portStatus, p)] s t) ∧
    (∀ (p : Fin 8) (o : OutMsg), (s.port p).queue.find? (fun o => o.sent == 0) = some o → Completes (.messageAgeDiscard p) s fun t =>
      (t.port p).queue = (s.port p).queue.erase o ∧ t.cnt .transportCount 0 1 = (s.cnt .transportCount 0 1 + 1) % 2 ^ 64 ∧ SameMem s t ∧
      SameEntriesBut [(.transportCount, 0)] s t) ∧
    (∀ m : Msg, (m.type.toNat ≠ 12 ∨ m.src.toNat ≠ s.fabric) →
      (∀ p m' rev, s.hop none m = .out p m' rev → Completes (.messageRoute m) s fun t => Leaves s t p m' ∧ SameMem s t) ∧
      (s.hop none m = .lost → Completes (.messageRoute m) s fun t =>
        t.cnt .transportCount 0 1 = (s.cnt .transportCount 0 1 + 1) % 2 ^ 64 ∧ SameMem s t ∧ SameEntriesBut [(.transportCount, 0)] s t) ∧
      (∀ m', s.hop none m = .here m' → Completes (.messageRoute m) s fun t => t = (Act.arrive .kwMsg m').run s))

/-! ### Flows (R305 to R318, R334, R335) -/

/-- A sequenced message in its turn has its type's effect, and RECV_NEXT advances: puts write, gets and atomics are answered, responses
reach their command, notices are posted, collective and late-bound bytes join what waits for them. The memory takes its requests, and the
response channel has a credit. A message that its flow's peer did not send is counted and has no effect. -/
def Obligations.SequencedMessagesAreDelivered : Prop :=
  ∀ (s : State) (m : Msg),
    let f := m.destFlow.toNat
    let ctx := s.flowCtx f
    (ForUs s m 0 → s.u.pow.nap = false → s.matches_ f m = false → s.flowSt f ≠ 0 → Completes (.put m) s fun t =>
      t.cnt .transportCount 0 0 = (s.cnt .transportCount 0 0 + 1) % 2 ^ 64 ∧ t.flow f = s.flow f ∧ SameMem s t ∧
      SameEntriesBut [(.transportCount, 0)] s t) ∧
    (∀ l, InTurn s m 0 → s.span ctx m.addr.toNat m.data.length true = .ok l → s.memGoes ctx l = true → Completes (.put m) s fun t =>
      Taken s t m ∧ SameStores t ((Act.wrSpan l m.data).run s)) ∧
    (∀ l, InTurn s m 1 → s.responseGoes f = true → s.span ctx m.addr.toNat m.aux.toNat false = .ok l → s.memGoes ctx l = true →
      Completes (.getReq m) s fun t => Taken s t m ∧ OnFlow t f none (dataMsgs 2 m.addr.toNat id (fun _ => 0) false (s.rdSpan l)) ∧
        t.stack = s.stack ∧ t.scratch = s.scratch) ∧
    (∀ a, InTurn s m 2 → (s.flow f).awaits.find? (fun a => a.atomic == false) = some a → s.awaitGoes a m.aux.toNat m.data.length = true →
      (a.scr = false → ∃ l, s.span a.ctx (a.addr + m.aux.toNat) m.data.length true = .ok l) → Completes (.getResp m) s fun t =>
        Taken s t m ∧ SameStores t ((Act.awaitWrite a m.aux.toNat m.data .skip).run s) ∧
        (a.len ≤ a.got + m.data.length → (t.flow f).awaits = (s.flow f).awaits.erase a)) ∧
    (∀ l, InTurn s m 3 → s.responseGoes f = true → s.span ctx m.addr.toNat (if m.op = 1 then 4 else 8) true = .ok l →
      s.memGoes ctx l = true → Completes (.atomicAdd m) s fun t =>
      let old := leNat (dataOf (s.rdSpan l))
      let new := if m.op = 1 then fAdd old (m.aux.toNat % 2 ^ 32) else (old + m.aux.toNat) % 2 ^ 64
      let u := (Act.wrSpan l ((leBytes (if m.op = 1 then 4 else 8) new).map fun b => (b, anyPoison (s.rdSpan l)))).run s
      Taken s t m ∧
      OnFlow t f none [{ type := 4, addr := m.addr, aux := BitVec.ofNat 64 old, op := m.op, auxPoison := anyPoison (s.rdSpan l) }] ∧
      t.stack = u.stack ∧ t.scratch = u.scratch ∧ (anyPoison (s.rdSpan l) = false → t.host = u.host)) ∧
    (∀ a, InTurn s m 4 → (s.flow f).awaits.find? (fun a => a.atomic == true) = some a → s.awaitGoes a 0 a.len = true →
      (a.scr = false → ∃ l, s.span a.ctx a.addr a.len true = .ok l) → Completes (.atomicResp m) s fun t =>
        Taken s t m ∧ SameStores t ((Act.awaitWrite a 0 ((leBytes a.len m.aux.toNat).map fun b => (b, m.auxPoison)) .skip).run s) ∧
        (t.flow f).awaits = (s.flow f).awaits.erase a) ∧
    (InTurn s m 7 → Completes (.noticeOnly m) s fun t => Taken s t m ∧ SameMem s t ∧
      (m.notice = true → s.fld .flowCfg f 8 11 1 = 1 →
        let g (s : State) : Gate := s.gate (s.fld .flowCfg f 8 0 8) ctx (s.fld .flowCfg f 8 8 3)
        (g t).filled = (g s).filled + 1 ∧ (g t).credits = (g s).credits - 1)) ∧
    (∀ c, InTurn s m 8 → s.cgCtx (bits m.aux.toNat 0 6) = ctx → s.fld .collGroup (bits m.aux.toNat 0 6) 0 0 1 = 1 →
      bits m.aux.toNat 16 48 < tgetD s.u.collNum (bits m.aux.toNat 0 6) 0 →
      s.u.colls.find? (fun c => coGroup c.d == bits m.aux.toNat 0 6 && c.num == bits m.aux.toNat 16 48) = some c → c.started = false →
      s.coll c.q c.idx = some c → s.memGoes c.ctx (s.coPlaces c.ctx c.d) = true → Completes (.coll m) s fun t => Taken s t m ∧ SameMem s t ∧
        ∃ c', t.u.colls.find? (fun c => coGroup c.d == bits m.aux.toNat 0 6 && c.num == bits m.aux.toNat 16 48) = some c' ∧
          c'.from_ (bits m.aux.toNat 8 8) = c.from_ (bits m.aux.toNat 8 8) ++ m.data) ∧
    (∀ c, InTurn s m 9 →
      let st := bits m.aux.toNat 0 6
      s.fld .lbrStream st 0 0 1 = 1 → s.lbrCtx st = ctx → (s.lbr st).isOpen = true → bits m.aux.toNat 16 48 + 1 = (s.lbr st).next →
      s.coll (s.lbr st).q (s.lbr st).idx = some c → s.foldGoes st = true →
      ((s.lbr st).take (bits m.aux.toNat 8 8) (bits m.aux.toNat 16 48) m.data).2.length <
        partLen (coN c.d) (s.cgP (coGroup c.d)) (s.cgSelf (coGroup c.d)) * ((coIn c.d).ebits / 8) →
      Completes (.lbr m) s fun t => Taken s t m ∧ SameMem s t ∧
        t.lbr st = ((s.lbr st).take (bits m.aux.toNat 8 8) (bits m.aux.toNat 16 48) m.data).1)

/-- OPEN, ACK, NACK, FLOW_ABORT and the timers of flows; dictionary messages; a waiting notice; the entries of flows, groups and streams.
FLOW_ABORT acts on flows OPEN and OPENING and FLOW_CFG's refusals hold for VALID 0 too (log entry 33), an OPEN is repeated as log entry 99
says, and an ACK tells a remote fault in its data (log entry 29): the model's choices. -/
def Obligations.FlowsOpenAcknowledgeAndEnd : Prop :=
  ∀ (s : State) (m : Msg) (r : Requester),
    let g := s.flow m.destFlow.toNat
    (∀ x rest, OnOpen s m 5 → g.unacked = x :: rest → NoDmWork s → faultOf m.data = none → dist32 x.m.fseq.toNat m.fseq.toNat ≠ 0 →
      dist32 x.m.fseq.toNat m.fseq.toNat ≤ g.unacked.length → Completes (.ack m) s fun t =>
        (∃ more, (t.flow m.destFlow.toNat).unacked = g.unacked.drop (dist32 x.m.fseq.toNat m.fseq.toNat) ++ more) ∧
        t.fld .flowState m.destFlow.toNat 8 32 32 = (match (t.flow m.destFlow.toNat).unacked with
          | y :: _ => y.m.fseq.toNat
          | [] => t.sendNext m.destFlow.toNat) ∧ SameMem s t) ∧
    (∀ again : Sent → Bool, (∀ x, again x = decide (dist32 m.fseq.toNat x.m.fseq.toNat ≤ dist32 m.fseq.toNat (m.aux.toNat % 2 ^ 32))) →
      OnOpen s m 6 → (∃ x ∈ g.unacked, again x = true) → (∀ x ∈ g.unacked, again x = true → x.sends < 8) → Completes (.nack m) s fun t =>
        (t.flow m.destFlow.toNat).unacked = g.unacked.map (fun x => if again x then { x with sends := x.sends + 1 } else x) ∧
        (∀ x ∈ g.unacked, again x = true → SentOn s t m.destFlow.toNat x.m) ∧ SameMem s t) ∧
    (∀ f, ForUs s m 13 → f ∈ s.flowsTo m.src.toNat m.srcFlow.toNat → s.flowSt f = 1 → NoDmWork s → Completes (.openFlow m) s fun t =>
      t.flowSt f = 2 ∧ t.peerGen f = m.aux.toNat % 2 ^ 8 ∧ SameMem s t) ∧
    (∀ f, ForUs s m 14 → f ∈ s.flowsTo m.src.toNat m.srcFlow.toNat → (s.flowSt f = 1 ∨ s.flowSt f = 2) → s.moltRuns = false → NoDmWork s →
      Completes (.flowAbort m) s fun t => t.flowSt f = 3 ∧ t.fld .flowState f 0 8 4 = m.aux.toNat % 16 ∧ (t.flow f).unacked = [] ∧
        (t.flow f).sendq = [] ∧ SameMem s t) ∧
    (ForUs s m 12 → s.u.wasUp = true →
      let p := pduOf (dataOf m.data)
      let u := (Act.raiseSrc 108).run s
      (bit p.w0.toNat 15 = true → Completes (.kwehus m) s fun t => t.u.dict.sent = s.u.dict.sent.filter (fun e => e.1 != pduTag p) ∧
        SameMem s t ∧ SameEntriesBut [] s t) ∧
      (bit p.w0.toNat 15 = false → opKnown (pduOp p) = true → Completes (.kwehus m) s fun t =>
        (pduOp p = opRead → exec (.read (.peer m.src) p) u = .next t) ∧ (pduOp p = opWrite → exec (.write (.peer m.src) p) u = .next t) ∧
        (pduOp p = opInfo → exec (.info (.peer m.src) p) u = .next t) ∧ (pduOp p = opNext → exec (.next (.peer m.src) p) u = .next t))) ∧
    (∀ f : Fin 8192, s.colOn = true → s.flowSt f = 2 →
      (∀ x, (s.flow f).held = [x] → x.fseq.toNat = s.recvNext f → (s.flow f).noticeWait = true → x.notice = true → NoDmWork s →
        s.fld .flowCfg f 8 11 1 = 1 →
        let gate (s : State) : Gate := s.gate (s.fld .flowCfg f 8 0 8) (s.flowCtx f) (s.fld .flowCfg f 8 8 3)
        0 < (gate s).credits → Completes (.noticePost f) s fun t => (gate t).filled = (gate s).filled + 1 ∧
          (gate t).credits = (gate s).credits - 1 ∧ t.recvNext f = (s.recvNext f + 1) % 2 ^ 32 ∧ (t.flow f).noticeWait = false ∧
          (t.flow f).held = [] ∧ SameMem s t) ∧
      ((s.flow f).ackDue ≠ 0 → Completes (.ackTimer f) s fun t => (t.flow f).ackDue = 0 ∧
        SentOn s t f { type := 5, fseq := BitVec.ofNat 32 (s.recvNext f) } ∧ SameMem s t) ∧
      (∀ d, ((s.flow f).held.map fun m => dist32 (s.recvNext f) m.fseq.toNat).min? = some d → d ≠ 0 → Completes (.nackTimer f) s fun t =>
        SentOn s t f { type := 6, fseq := BitVec.ofNat 32 (s.recvNext f), aux := BitVec.ofNat 64 (idx32 (s.recvNext f + d - 1)) } ∧
        t.flow f = s.flow f ∧ SameMem s t) ∧
      ((s.flow f).unacked ≠ [] → (∀ x ∈ (s.flow f).unacked, x.sends < 8) → Completes (.retransmitTimeout f) s fun t =>
        (t.flow f).unacked = (s.flow f).unacked.map (fun x => { x with sends := x.sends + 1 }) ∧
        (∀ x ∈ (s.flow f).unacked, SentOn s t f x.m) ∧ SameMem s t) ∧
      ((∃ x ∈ (s.flow f).unacked, 8 ≤ x.sends) → s.moltRuns = false → NoDmWork s → Completes (.retransmitTimeout f) s fun t =>
        t.flowSt f = 3 ∧ t.fld .flowState f 0 8 4 = 1 ∧ (t.flow f).unacked = [] ∧ SameMem s t)) ∧
    (∀ f : Fin 8192, s.colOn = true → (s.flowSt f = 1 ∨ s.flowSt f = 2) → Completes (.openResend f) s fun t =>
      SentOn s t f { type := 0x0D, aux := BitVec.ofNat 64 (s.flowGen f) } ∧ SameMem s t) ∧
    (∀ st : Fin 64, (s.lbr st).isOpen = true → (s.lbr st).late = false → s.fld .lbrStream st 0 32 32 ≠ 0 → NoDmWork s →
      (∀ c, s.coll (s.lbr st).q (s.lbr st).idx = some c → c.contrib.length < s.lbrMin st) → Completes (.lbrDeadline st) s fun t =>
        (t.lbr st).late = true ∧ (t.lbr st).isOpen = true ∧ SameMem s t ∧ SameEntriesBut [] s t) ∧
    (∀ (f : Fin 8192) (v : BitVec 256), Accepts s r .flowCfg f v.toNat → s.ctxGate (s.flowCtx f) = stOk →
      s.mayWriteCtx r (bits v.toNat 8 10) = true → s.flowBusy f = false → s.flowCfgOk v.toNat = true →
      (bit v.toNat 0 = true → (∀ t, (s.flow f).validAt = some t → t + 50000000 ≤ s.now) → Completes (.flowCfgWrite r f v) s fun t =>
        t.rd .flowCfg f = v.toNat ∧ t.flowSt f = 1 ∧ t.flowGen f = s.flowGen f % 255 + 1 ∧ t.sendNext f = 0 ∧ t.recvNext f = 0 ∧
        (∀ p m' rev, t.hop none (t.wire f { type := 0x0D, aux := BitVec.ofNat 64 (t.flowGen f) }) = .out p m' rev → Leaves s t p m') ∧
        SameMem s t) ∧
      (bit v.toNat 0 = false → Completes (.flowCfgWrite r f v) s fun t => t.rd .flowCfg f = v.toNat ∧ t.flowSt f = 0 ∧
        EntryOnly [(.flowCfg, f), (.flowState, f)] s t)) ∧
    (∀ (k : Fin 64) (v : BitVec 4224), Accepts s r .collGroup k v.toNat → s.ctxGate (s.cgCtx k) = stOk →
      s.mayWriteCtx r (bits v.toNat 8 10) = true → s.groupBusy k = false → bits v.toNat 32 8 < bits v.toNat 18 8 + 1 →
      bits v.toNat 40 13 + bits v.toNat 18 8 ≤ 8191 → bits v.toNat (128 + 16 * bits v.toNat 32 8) 16 = s.fabric →
      Completes (.collGroupWrite r k v) s fun t => t.rd .collGroup k = v.toNat &&& groupMask ∧ EntryOnly [(.collGroup, k)] s t) ∧
    (∀ (k : Fin 64) (v : BitVec 256), Accepts s r .lbrStream k v.toNat → s.ctxGate (s.lbrCtx k) = stOk →
      s.mayWriteCtx r (bits v.toNat 8 10) = true → (s.lbr k).isOpen = false → (s.lbr k).folded = [] →
      bits v.toNat 64 8 ≤ bits v.toNat 18 8 → bits v.toNat 72 8 ≤ bits v.toNat 18 8 →
      zeroBits v.toNat [(2, 6), (26, 6), (80, 48), (176, 16), (240, 16)] = true →
      (bit v.toNat 0 = false → Completes (.lbrStreamWrite r k v) s fun t => t.rd .lbrStream k = v.toNat ∧
        EntryOnly [(.lbrStream, k)] s t) ∧
      (∀ l, bit v.toNat 0 = true → s.u.mem.faulty = false →
        s.span (bits v.toNat 8 10) (bits v.toNat 128 48) (8 * (bits v.toNat 192 48 / 8)) true = .ok l →
        Completes (.lbrStreamWrite r k v) s fun t => t.rd .lbrStream k = v.toNat ∧
          SameStores t ((Act.wrSpan l (List.replicate (8 * (bits v.toNat 192 48 / 8)) (0#8, false))).run s)))

/-- The flow to the coordinator fails while this device's molt is RUNNING, by the peer's FLOW_ABORT or because its messages were sent
eight times: the molt ends FAILED with cause FLOW. The coordinator's own deadline aborts the molt for all. On which flows FLOW_ABORT acts
is log entry 33, the model's choice. -/
def Obligations.FlowFailureFailsARunningMolt : Prop :=
  ∀ s : State, s.rd .moltState = 2 →
    (s.moltCoord = false → NoDmWork s →
      (∀ (m : Msg) (f : Nat), ForUs s m 14 → f ∈ s.flowsTo m.src.toNat m.srcFlow.toNat → (s.flowSt f = 1 ∨ s.flowSt f = 2) →
        s.u.molt.flowTo s.u.molt.coord = some f → Completes (.flowAbort m) s fun t =>
          t.flowSt f = 3 ∧ t.rd .moltState = 6 ∧ t.fld .moltReport 0 0 16 4 = 1 ∧ t.fld .moltReport 0 0 24 8 = 8) ∧
      (∀ f : Fin 8192, s.colOn = true → s.flowSt f = 2 → (∃ x ∈ (s.flow f).unacked, 8 ≤ x.sends) →
        s.u.molt.flowTo s.u.molt.coord = some f.val → Completes (.retransmitTimeout f) s fun t =>
          t.flowSt f = 3 ∧ t.rd .moltState = 6 ∧ t.fld .moltReport 0 0 16 4 = 1 ∧ t.fld .moltReport 0 0 24 8 = 8)) ∧
    (s.moltCoord = true → s.saddle = true → wf s.u.molt.hdr 0x58 0 32 ≠ 0 → Completes .moltDeadline s fun t =>
      t.rd .moltState = 7 ∧ t.fld .moltReport 0 0 16 4 = 2 ∧
        ∀ a ∈ s.moltOthers, ∀ f, s.u.molt.flowTo a = some f → (s.flowSt f = 1 ∨ s.flowSt f = 2) → s.flowClass f = 4 →
          s.flowCtx f = s.u.moltCtx → ∃ x ∈ (t.flow f).unacked ++ (t.flow f).sendq, x.m.type.toNat = 10 ∧ bits x.m.aux.toNat 0 8 = 6)

/-! ### Molts and weights (R337 to R375) -/

/-- A molt starts, is checked, runs its segments, retries, becomes READY, is decided or given up; versions are released; the scrub finds
what changed, and a repair puts it right. The plan's address space, a plan that cannot be read, the segments' descriptor and a repair's
edges are log entries 26, 40, 41 and 110: the model's choices. -/
def Obligations.MoltsRunAndVersionsAreKept : Prop :=
  ∀ (s : State) (r : Requester),
    let x := s.u.molt
    (∀ (v : W64) c bs, Accepts s r .moltStart 0 v.toNat → s.moltRuns = false → s.ctxNaming v.toNat 128 (fun w => bits w 22 10) = some (c, bs) →
      s.mayWriteCtx r c = true → Completes (.moltStart r v) s fun t => t.rd .moltState = 1 ∧ t.u.moltCtx = c ∧
        t.u.molt = { plan := v.toNat, hdr := wordsOf 16 bs, peers := s.planPeers c (wordsOf 16 bs) } ∧ t.rd .phase = 2 ∧ SameMem s t) ∧
    (s.saddle = true → s.rd .moltState = 1 →
      (s.readPlan s.u.moltCtx x.plan = none → Completes .moltCheckDone s fun t => t.rd .moltState = 6 ∧
        t.fld .moltReport 0 0 24 8 = causePlan ∧ t.fld .moltReport 0 24 32 32 = 1) ∧
      (∀ y, s.readPlan s.u.moltCtx x.plan = some y →
        (s.planCheck y ≠ 0 → Completes .moltCheckDone s fun t => t.rd .moltState = 6 ∧
          t.fld .moltReport 0 0 24 8 = (if s.planCheck y = 7 then causeSignature else causePlan) ∧
          t.fld .moltReport 0 24 32 32 = s.planCheck y) ∧
        (s.planCheck y = 0 → (∀ j, j < y.shards.length → y.segsOf j ≠ []) →
          (∀ w ∈ x.peers, peerAddr w ≠ s.fabric → (s.flow (peerFlow w)).held = []) → s.u.mem.faulty = false → Completes .moltCheckDone s fun t =>
            t.rd .moltState = 2 ∧ t.u.molt.segs = y.segs ∧ t.u.molt.todo =
              ((List.range y.segs.length).filter fun i => sgSrcDev (y.seg i) == s.fabric).map (fun i => (i, 0, false)) ∧ SameMem s t))) ∧
    (∀ i a alt rest q l, s.saddle = true → s.runs = true → s.ctxState s.u.moltCtx = 1 → 2 ≤ s.rd .moltState → s.rd .moltState ≤ 4 →
      x.todo = (i, a, alt) :: rest → s.moltQueue = some q → q < 65536 →
      s.span s.u.moltCtx (s.descAddr q (idx32 (s.qTail q))) 64 true = .ok l → s.u.mem.faulty = false →
      ((s.slotOf (s.qCore q) (s.qCtx q)).isSome = true ∨
        ((∀ e, e < 7 → s.engQ (s.qCore q) e = []) ∧ ∀ c, (s.ctxCore (s.qCore q) c).saved = [])) → Completes .moltSegmentIssue s fun t =>
        SameStores t ((Act.wrSpan l (wordBytes [0x88 + 5 * 2 ^ 8 + 2 ^ 16 + 2 ^ 18 + 2 ^ 24 + s.qTail q % 2 ^ 16 * 2 ^ 32, 0,
          i + a * 2 ^ 20 + b2n alt * 2 ^ 22, x.plan, 0, 0, 0, 0])).run s) ∧ t.qTail q = (s.qTail q + 1) % 2 ^ 32 ∧
        t.u.molt.todo = rest ∧ t.u.molt.running = x.running ++ [(i, a, alt)]) ∧
    (∀ seg i, s.saddle = true → s.rd .moltState = 2 → x.indexOf seg = some i → sgDstDev (x.seg i) = s.fabric → (x.segIn i).ok = false →
      ((x.segIn i).begun = true ∨ sgFrom (x.seg i) (x.segIn i).attempt ∈ x.srcDone) →
      ((x.segIn i).attempt < 3 → Completes (.segmentMissingTimeout seg) s fun t => t.u.molt.segIn i = { attempt := (x.segIn i).attempt + 1 } ∧
        t.u.molt.retries = x.retries + 1 ∧ t.cnt .moltCount 0 2 = (s.cnt .moltCount 0 2 + 1) % 2 ^ 64 ∧
            t.cnt .moltCount 0 4 = (s.cnt .moltCount 0 4 + 1) % 2 ^ 64 ∧ SameMem s t) ∧
      (3 ≤ (x.segIn i).attempt → Completes (.segmentMissingTimeout seg) s fun t => t.rd .moltState = 6 ∧
        t.fld .moltReport 0 0 20 4 = 4 ∧ t.fld .moltReport 0 0 24 8 = causeMissing)) ∧
    (s.saddle = true → s.rd .moltState = 2 → s.moltLocalReady = true → s.moltMayReady = true →
      (∀ f, s.moltCoord = false → x.flowTo x.coord = some f → (s.flowSt f = 1 ∨ s.flowSt f = 2) → s.flowClass f = 4 →
          s.flowCtx f = s.u.moltCtx → Completes .moltReadySend s fun t =>
        t.rd .moltState = 3 ∧ OnFlow t f none [{ type := 10, aux := BitVec.ofNat 64 (4 + x.id * 2 ^ 8) }] ∧ SameMem s t) ∧
      (s.moltCoord = true → (∃ w ∈ x.peers, peerAddr w ≠ s.fabric ∧ peerAddr w ∉ x.ready) → Completes .moltReadySend s fun t =>
        t.rd .moltState = 3 ∧ s.fabric ∈ t.u.molt.ready ∧ SameMem s t)) ∧
    (s.saddle = true → s.moltRuns = true → s.moltCoord = true → wf x.hdr 0x58 0 32 ≠ 0 → Completes .moltDeadline s fun t =>
      t.rd .moltState = 7 ∧ t.fld .moltReport 0 0 16 4 = 2 ∧ t.fld .moltReport 0 0 24 8 = causePeer ∧ t.u.molt = {}) ∧
    (s.saddle = true → s.rd .moltState = 3 → s.moltCoord = false → Completes .moltInDoubtTimeout s fun t => t.rd .moltState = 4 ∧
      t.u.molt = x ∧ t.stack = s.stack) ∧
    (Accepts s r .moltResolve 0 1 → s.rd .moltState = 4 → s.mayWriteCtx r s.u.moltCtx = true → Completes (.moltResolveCommit r) s fun t =>
      t.rd .moltState = 5 ∧ t.u.molt = {} ∧ (x.produce = true → x.release = false → x.model < 256 →
        s.verCurrent x.model ≠ some x.version → t.verCurrent x.model = some x.version ∧ t.verOwner x.model = x.ctx ∧ s.moltRecs ∈ t.u.vers)) ∧
    (Accepts s r .moltResolve 0 2 → s.moltRuns = true → s.mayWriteCtx r s.u.moltCtx = true →
      (s.rd .moltState = 4 → Completes (.moltResolveAbort r) s fun t => t.rd .moltState = 7 ∧ t.u.molt = {} ∧ t.u.vers = s.u.vers) ∧
      (s.rd .moltState ≤ 2 → Completes (.moltResolveAbort r) s fun t => t.rd .moltState = 6 ∧ t.fld .moltReport 0 0 24 8 = causeHost ∧
        t.u.vers = s.u.vers)) ∧
    (∀ (model : Fin 256) (v : BitVec 16), Accepts s r .versionRelease model v.toNat → s.verUsers model v.toNat = 0 →
      (s.verCurrent model = some v.toNat → (∀ p ∈ s.liveSes, p.2.model ≠ model) → Completes (.versionRelease r model v) s fun t =>
        t.verCurrent model = none ∧ (∀ y ∈ t.u.vers, ¬(y.model = model ∧ y.version = v.toNat)) ∧
            EntryOnly [(.versionEntry, model), (.moltCount, 0)] s t) ∧
      (s.verCurrent model ≠ some v.toNat → s.verOld model = some v.toNat → Completes (.versionRelease r model v) s fun t =>
        t.verOld model = none ∧ (∀ y ∈ t.u.vers, ¬(y.model = model ∧ y.version = v.toNat)) ∧
            EntryOnly [(.versionEntry, model), (.moltCount, 0)] s t)) ∧
    (s.saddle = true → s.rd .scrubMinutes ≠ 0 → s.rd .deviceState ≤ 1 →
      (s.u.scrub = [] → s.allSegs ≠ [] → Completes .scrubPass s fun t => t.u.scrub = s.allSegs ∧ SameMem s t ∧ SameEntriesBut [] s t) ∧
      (s.u.scrub ≠ [] → Completes .scrubPass s fun t => t.u.scrub = s.u.scrub ∧ t.u.scrubDue = true ∧
        t.cnt .moltCount 0 8 = (s.cnt .moltCount 0 8 + 1) % 2 ^ 64 ∧ SameMem s t ∧ SameEntriesBut [(.moltCount, 0)] s t)) ∧
    (∀ (model : Fin 256) (v : BitVec 16) (seg : BitVec 32) y h g ls, s.saddle = true →
      s.segRec model v.toNat seg.toNat = some (y, h, g) → s.segResident y g = .ok ls →
      let key := (model.val, v.toNat, seg.toNat)
      let root := shardRoot h.id (h.segs.map SegRec.digest)
      let last : Bool := h.segs.all fun x => !(s.u.scrub.erase key).contains (model.val, v.toNat, x.id) &&
        !s.repairing model v.toNat x.id && s.segFolds y h x
      (key ∈ s.u.scrub → s.repairing model v.toNat seg.toNat = true → s.u.scrub.erase key ≠ [] →
        Completes (.scrubSegmentCheck model v seg) s fun t => t.u.scrub = s.u.scrub.erase key ∧ SameMem s t ∧ SameEntriesBut [] s t) ∧
      (key ∈ s.u.scrub → s.repairing model v.toNat seg.toNat = false →
        (foldDigest h.key (dataOf (s.rdSpan ls)) ≠ g.digest → Completes (.scrubSegmentCheck model v seg) s fun t =>
          key ∈ t.u.poisonSegs ∧ (∃ e ∈ t.u.repairs, e.model = model.val ∧ e.version = v.toNat ∧ e.seg = seg.toNat) ∧
          t.cnt .moltCount 0 9 = (s.cnt .moltCount 0 9 + 1) % 2 ^ 64 ∧
          ∀ p ∈ ls, p.1 = .stack → ∀ k, p.2.1 / 64 ≤ k → k ≤ (p.2.1 + p.2.2 - 1) / 64 → k * 64 < stackSize → k ∈ t.stack.poison) ∧
        (foldDigest h.key (dataOf (s.rdSpan ls)) = g.digest → (last = false ∨ root = h.root) → s.u.scrub.erase key ≠ [] →
          s.u.mem.faulty = false → anyPoison (s.rdSpan ls) = false → Completes (.scrubSegmentCheck model v seg) s fun t =>
            t.u.scrub = s.u.scrub.erase key ∧ SameMem s t ∧ SameEntriesBut [] s t) ∧
        (foldDigest h.key (dataOf (s.rdSpan ls)) = g.digest → last = true → root ≠ h.root →
          Completes (.scrubSegmentCheck model v seg) s fun t => t.u.pow.fatal = true ∧ t.fld .fatalState 0 0 0 16 = 5)) ∧
      (∀ rep, s.u.repairs.find? (fun e => e.model == model.val && e.version == v.toNat && e.seg == seg.toNat) = some rep →
        (∀ bs, s.repairBytes rep g = some bs → segMatches h g bs = true → Completes (.repairAttempt model v seg) s fun t =>
          t.stack = ((Act.wrWhole ls bs).run s).stack ∧ t.u.poisonSegs = s.u.poisonSegs.erase (model.val, v.toNat, seg.toNat) ∧
          t.cnt .moltCount 0 10 = (s.cnt .moltCount 0 10 + 1) % 2 ^ 64) ∧
        ((s.repairBytes rep g).all (fun bs => !segMatches h g bs) = true → 3 ≤ rep.tries + 1 → Completes (.repairAttempt model v seg) s fun t =>
          t.cnt .moltCount 0 11 = (s.cnt .moltCount 0 11 + 1) % 2 ^ 64 ∧ t.u.poisonSegs = s.u.poisonSegs ∧ t.stack = s.stack)))

/-- The molt messages act on the molt they name: data is placed, a segment verifies or is fetched again, sources and readiness are noted,
and COMMIT, ABORT and FAIL end it; a repair request is answered with the segment's stream. -/
def Obligations.MoltMessagesAct : Prop :=
  ∀ (s : State) (m : Msg),
    let x := s.u.molt
    let f := m.destFlow.toNat
    let seg := bits m.aux.toNat 24 32
    let attempt := bits m.aux.toNat 4 4
    (∀ i, x.indexOf seg = some i → sgDstDev (x.seg i) = s.fabric → (x.segIn i).attempt = attempt → (x.segIn i).ok = false →
      (∀ ls, OfMolt s m 0 → m.addr.toNat + m.data.length ≤ sgStream (x.seg i) →
        exAll ((sgPlaces (x.seg i) m.addr.toNat m.data.length).map fun p => s.span s.u.moltCtx p.1 p.2 true) = .ok ls →
        s.memGoes s.u.moltCtx ls.flatten = true →
        Completes (.moltData m) s fun t => Taken s t m ∧ SameStores t ((Act.wrSpan ls.flatten m.data).run s) ∧
          (t.u.molt.segIn i).rx = (x.segIn i).rx ++ m.data ∧ (t.u.molt.segIn i).begun = true) ∧
      (OfMolt s m 1 →
        let own := foldDigest x.key (dataOf (x.segIn i).rx)
        let sent := leNat (dataOf (m.data.take 16))
        (anyPoison (x.segIn i).rx = false → own = sent → (x.segIn i).rx.length = sgStream (x.seg i) →
          (∃ k ∈ x.segsOf (sgShard (x.seg i)), k ≠ i ∧ (x.segIn k).ok = false) → Completes (.segEnd m) s fun t => Taken s t m ∧
            (t.u.molt.segIn i).ok = true ∧ (t.u.molt.segIn i).digest = sent ∧ SameMem s t) ∧
        (anyPoison (x.segIn i).rx = false → own ≠ sent → attempt < 3 → Completes (.segEnd m) s fun t => Taken s t m ∧
          t.u.molt.segIn i = { attempt := attempt + 1 } ∧ t.cnt .moltCount 0 3 = (s.cnt .moltCount 0 3 + 1) % 2 ^ 64 ∧
          t.cnt .moltCount 0 2 = (s.cnt .moltCount 0 2 + 1) % 2 ^ 64 ∧ SameMem s t))) ∧
    (OfMolt s m 2 → Completes (.srcDone m) s fun t => Taken s t m ∧ s.flowPeer f ∈ t.u.molt.srcDone ∧ SameMem s t) ∧
    (∀ i, OfMolt s m 3 → x.indexOf seg = some i → Completes (.refetch m) s fun t => Taken s t m ∧
      t.u.molt.todo = x.todo ++ [(i, attempt, sgAltOn (x.seg i) && sgAltDev (x.seg i) == s.fabric)] ∧ SameMem s t) ∧
    (OfMolt s m 4 → s.moltCoord = true → s.rd .moltState = 2 → Completes (.moltReady m) s fun t => Taken s t m ∧
      s.flowPeer f ∈ t.u.molt.ready ∧ t.rd .moltState = 2 ∧ SameMem s t) ∧
    (OfMolt s m 5 → (s.rd .moltState = 3 ∨ s.rd .moltState = 4) → Completes (.moltCommit m) s fun t => Taken s t m ∧
      t.rd .moltState = 5 ∧ t.u.molt = {} ∧ (x.produce = true → x.release = false → x.model < 256 →
        s.verCurrent x.model ≠ some x.version → t.verCurrent x.model = some x.version ∧ t.verOwner x.model = x.ctx ∧ s.moltRecs ∈ t.u.vers)) ∧
    (OfMolt s m 6 → Completes (.moltAbort m) s fun t => Taken s t m ∧ t.rd .moltState = 7 ∧ t.fld .moltReport 0 0 16 4 = 2 ∧
      t.u.molt = {} ∧ t.u.vers = s.u.vers) ∧
    (OfMolt s m 7 → Completes (.moltFail m) s fun t => Taken s t m ∧ t.rd .moltState = (if s.moltCoord then 7 else 6) ∧
      t.fld .moltReport 0 0 16 4 = (if s.moltCoord then 2 else 1) ∧ t.u.molt = {} ∧ t.u.vers = s.u.vers) ∧
    (InTurn s m 10 → bits m.aux.toNat 0 4 = 8 → bits m.aux.toNat 8 16 = 0xFFFF →
      let model := leNat (dataOf (m.data.take 2))
      let version := leNat (dataOf ((m.data.drop 2).take 2))
      let aux (kind : Nat) : Nat := kind + 0xFFFF * 2 ^ 8 + seg * 2 ^ 24
      (s.segRec model version seg = none → Completes (.repairReq m) s fun t => Taken s t m ∧ SameMem s t ∧
        OnFlow t f none [{ type := 10, aux := BitVec.ofNat 64 (aux 1), data := [] }]) ∧
      (∀ y h g ls, s.segRec model version seg = some (y, h, g) → y.ctx = s.flowCtx f → s.segResident y g = .ok ls → ls ≠ [] →
        s.memGoes (s.flowCtx f) ls = true → Completes (.repairReq m) s fun t => Taken s t m ∧ SameMem s t ∧
          OnFlow t f none (dataMsgs 10 0 (fun _ => aux 0) id false (s.rdSpan ls) ++
            [{ type := 10, aux := BitVec.ofNat 64 (aux 1), data := cleanBytes 16 (foldDigest h.key (dataOf (s.rdSpan ls))) }])))

/-! ### Rollout sessions (R177 to R210) -/

/-- A session opens, is checked and is freed; the host returns ring slots; requests are read and kept for the boundary, which they create
when no step is in flight, or answered INVALID; a step commits into a boundary, and the next is released with the version then in force.
What a boundary does to a session with one sequence or one waiting ADMIT: tokens are accepted as far as the candidates match, a delivery
is cut where it ends the sequence, a sequence without its page is preempted, an ADMIT is admitted, deferred or too long, and deadlines are
counted; victims are BE before LC, the latest admission first. The descriptor's address space is log entry 26, the step record of every
boundary and the number of a re-admission log entry 73, and the corners of a boundary log entry 119: the model's choices. -/
def Obligations.SessionsServeRequestsAndSteps : Prop :=
  (∀ (s : State) (r : Requester) (i : Fin 256),
    (∀ v : W64, v ≠ 0 → Accepts s r .sessionDesc i v.toNat → s.sesGate i = stOk → s.sesIdle i = true → Completes (.sessionOpen r i v) s fun t =>
      t.rd .sessionDesc i = v.toNat ∧ (t.ses i).opening = true ∧ SameMem s t) ∧
    (Accepts s r .sessionDesc i 0 → s.sesGate i = stOk → s.sesIdle i = true → Completes (.sessionFree r i) s fun t => t.rd .sessionDesc i = 0 ∧
      t.rd .sessionState i = 0 ∧ tget t.u.sess i = none ∧
          EntryOnly [(.sessionDesc, i), (.sessionState, i), (.deviceState, 0), (.stateCount, 0)] s t) ∧
    ((s.ses i).opening = true → s.fwRuns = true → s.runs = true → s.loopback = false →
      ((s.sesCheck i).1 ≠ 1 → Completes (.sessionCheckDone i) s fun t => t.rd .sessionState i = (s.sesCheck i).1 ∧
        t.ses i = (s.sesCheck i).2 ∧ (s.u.mem.faulty = false → SameMem s t ∧
          (s.stack.poison = [] → s.host.poison = [] → SameEntriesBut [(.sessionState, i)] s t))) ∧
      ((s.sesCheck i).1 = 1 → Completes (.sessionCheckDone i) s fun t => t.rd .sessionState i = 1 ∧ t.ses i = (s.sesCheck i).2 ∧
        t.rd .stepRead i = 0 ∧ t.rd .sessionCount i = 0)) ∧
    (∀ v : BitVec 32, Accepts s r .stepRead i v.toNat → s.sesGate i = stOk → dist32 v.toNat (s.ses i).widx ≤ (s.ses i).ringSlots →
      Completes (.stepReadWrite r i v) s fun t => t.rd .stepRead i = v.toNat ∧ ((s.ses i).recs = [] → EntryOnly [(.stepRead, i)] s t)) ∧
    (∀ (q : Fin 65536) (d : Desc) l, Asks s q d i l →
      (s.reqInvalid i (s.ses i) (s.reqOf q d) (reqRest d) = false →
        let kept (what : State → Prop) (t : State) : Prop := ∃ u, ReadBy s u q l ∧ SameEntriesBut [(.queueState, q)] s u ∧ what u ∧
          t = if (s.ses i).inFlight = true then u else (Act.boundaryNow i).run u
        (dfld d 0 0 8 = 1 → Completes (.admitReq q d) s (kept fun u => (u.ses i).waiting = (s.ses i).waiting ++ [s.reqOf q d])) ∧
        (dfld d 0 0 8 = 2 → Completes (.cancel q d) s (kept fun u => (u.ses i).reqs = (s.ses i).reqs ++ [s.reqOf q d])) ∧
        (dfld d 0 0 8 = 3 → Completes (.close q d) s (kept fun u => (u.ses i).reqs = (s.ses i).reqs ++ [s.reqOf q d]))) ∧
      (s.reqInvalid i (s.ses i) (s.reqOf q d) (reqRest d) = true →
        let answered (t : State) : Prop := ∃ u, ReadBy s u q l ∧ SameEntriesBut [(.queueState, q)] s u ∧
          (u.ses i).recs = (s.ses i).recs ++ [reqWords i (s.reqOf q d) 7 0xFFF s.now (s.ses i).step] ∧ t = (Act.flushRecs i).run u
        (dfld d 0 0 8 = 1 → Completes (.admitReq q d) s answered) ∧ (dfld d 0 0 8 = 2 → Completes (.cancel q d) s answered) ∧
        (dfld d 0 0 8 = 3 → Completes (.close q d) s answered) ∧
        (dfld d 0 0 8 ∉ [1, 2, 3] → Completes (.reservedRequest q d) s answered))) ∧
    (∀ rs ts, s.sesLive i = true → (s.ses i).inFlight = true → s.loopback = false → s.runs = true → s.fwRuns = true →
      s.stepEnded (s.ses i) = true →
      s.ctxState (s.ses i).ctx = 1 → s.u.mem.faulty = false →
      let x := s.ses i
      let nsamp := (x.plan.map fun p => match p.sample with | none => 0 | some _ => if p.prefill then 1 else p.n).foldl (· + ·) 0
      let nrows := (x.plan.map PlanRow.n).foldl (· + ·) 0
      s.rdCtx x.ctx (x.planAt 32 28) (8 * nsamp) = .ok rs → s.rdCtx x.ctx (x.planAt 32 0) (4 * nrows) = .ok ts → anyPoison rs = false →
      anyPoison ts = false →
      let b := s.boundary i true
        ((List.range nsamp).map fun k => (leNat (dataOf ((rs.drop (8 * k)).take 4)), leNat (dataOf ((rs.drop (8 * k + 4)).take 4)), false))
        ((List.range nrows).map fun k => (leNat (dataOf ((ts.drop (4 * k)).take 4)), false))
      Completes (.stepCommit i) s fun t => (t.ses i).step = x.step + 1 ∧ (t.ses i).inFlight = false ∧ (t.ses i).plan = [] ∧
        (t.ses i).seqs = b.x.seqs ∧ (t.ses i).waiting = b.x.waiting ∧
        t.rd .sessionState i = (if b.st = 2 ∧ b.x.seqs = [] then 3 else b.st) ∧
        t.cnt .sessionCount i 0 = (s.cnt .sessionCount i 0 + 1) % 2 ^ 64) ∧
    (s.sesLive i = true → s.loopback = false → s.runs = true → s.fwRuns = true → s.ctxState (s.ses i).ctx = 1 → (s.ses i).recs = [] →
      s.u.mem.faulty = false →
      (∀ toks, (s.ses i).due = true → (s.ses i).inFlight = false → s.verPoisoned (s.ses i).model (s.nextVersion (s.ses i)).1 = false →
        exAll ((s.planRows (s.ses i)).map (s.rowTokens (s.ses i))) = .ok toks → Completes (.stepRelease i) s fun t =>
          (t.ses i).inFlight = true ∧ (t.ses i).due = false ∧ (t.ses i).version = (s.nextVersion (s.ses i)).1 ∧
            (t.ses i).plan = (s.planRows (s.ses i)).map Prod.snd ∧
          ((∀ e ∈ (s.ses i).table, s.qSize (bits (e.getD 0 0) 0 16) - dist32 (s.qHead (bits (e.getD 0 0) 0 16)) (s.qTail (bits (e.getD 0 0) 0 16))
              < bits (e.getD 0 0) 32 32 + 2) →
            (t.ses i).left = List.range (s.ses i).table.length ∧ SameStores t ((Act.seq (.planVersion i) (.writePlan i)).run s))) ∧
      (∀ k prog pats, (s.ses i).due = false → (s.ses i).left = [k] →
        let x := s.ses i
        let e := x.table.getD k []
        let q := bits (e.getD 0 0) 0 16
        let n := bits (e.getD 0 0) 32 32
        ((s.slotOf (s.qCore q) (s.qCtx q)).isSome = true ∨
          ((∀ e, e < 7 → s.engQ (s.qCore q) e = []) ∧ ∀ c, (s.ctxCore (s.qCore q) c).saved = [])) →
        n + 2 ≤ s.qSize q - dist32 (s.qHead q) (s.qTail q) → s.rdCtx x.ctx (bits (e.getD 1 0) 0 48) (64 * n) = .ok prog →
        s.rdCtx x.ctx (bits (e.getD 2 0) 0 48) (8 * bits (e.getD 0 0) 16 16) = .ok pats → anyPoison prog = false → anyPoison pats = false →
        Completes (.stepRelease i) s fun t => (t.ses i).left = [] ∧ t.qTail q = (s.qTail q + n + 2) % 2 ^ 32 ∧
          SameStores t ((Act.wrRing q x.ctx (s.qTail q) (jobWords (s.qTail q)
            (patchAll (planCounts x x.plan) (wordsOf (bits (e.getD 0 0) 16 16) pats) (wordsOf (8 * n) prog)))).run s)))) ∧
  (∀ qs v, victim qs = some v → v ∈ qs ∧ ∀ q ∈ qs, (q.be = true → v.be = true) ∧ (q.be = v.be → q.order ≤ v.order)) ∧
  ∀ (s : State) (i : Nat),
    let x := s.ses i
    (∀ (p : PlanRow) (q : Sq) (h n : Nat) (results : List (Nat × Nat × Bool)) (slots : List (Nat × Bool)),
      Unhurried s i → x.plan = [p] → x.seqs = [q] → x.waiting = [] → p.tag = q.tag → q.handle = some h →
      let b := s.boundary i true results slots
      let y (j : Nat) : Nat × Nat × Bool := results.getD (p.sample.getD 0 + j) (0, 0, false)
      let c (j : Nat) : Nat := (slots.getD (p.row + 1 + j) (0, false)).1
      let tokens (n : Nat) : List (Nat × Nat) := (List.range n).map fun j => ((y j).1, (y j).2.1)
      let goesOn (j : Nat) : Prop := GoesOn x q (y j).1 (q.gen + (j + 1)) (q.fill + (j + 1))
      (p.prefill = false → p.sample.isSome = true → p.sample.getD 0 + p.n ≤ results.length → p.row + p.n ≤ slots.length → n < p.n →
        (∀ j, j < n → c j ≠ 0xFFFFFFFF ∧ c j = (y j).1) → (n + 1 = p.n ∨ c n = 0xFFFFFFFF ∨ c n ≠ (y n).1) →
        ((∀ j, j ≤ n → goesOn j) → (y n).1 ≠ 0xFFFFFFFF → (q.fill + (n + 1)) / 64 + 2 ≤ q.pages.length →
          (∃ e ∈ b.ents, e.sq = q ∧ e.toks = tokens (n + 1) ∧ e.fill = q.fill + (n + 1) ∧ e.finished = false ∧ e.cancelled = false) ∧
          b.x.seqs = [{ q with fill := q.fill + (n + 1), gen := q.gen + (n + 1), last := some s.now, missed := false }]) ∧
        (∀ m reason, m ≤ n → (m = n → (y n).1 ≠ 0xFFFFFFFF) → (∀ j, j < m → goesOn j) →
          EndsBy x q (y m).1 (q.gen + (m + 1)) (q.fill + (m + 1)) reason →
          (∃ e ∈ b.ents, e.sq = q ∧ e.toks = tokens (m + 1) ∧ e.fill = q.fill + (m + 1) ∧ e.finished = true ∧ e.cancelled = false ∧
            e.reason = reason) ∧ Left b h q) ∧
        ((∀ j, j < n → goesOn j) → (y n).1 = 0xFFFFFFFF →
          (∃ e ∈ b.ents, e.sq = q ∧ e.toks = tokens n ∧ e.finished = false ∧ e.cancelled = true ∧ e.reason = 4) ∧ Left b h q)) ∧
      (p.prefill = true → (q.fill + p.n) / 64 + 2 ≤ q.pages.length →
        (p.sample = none → (∃ e ∈ b.ents, e.sq = q ∧ e.toks = [] ∧ e.finished = false ∧ e.cancelled = false) ∧
          b.x.seqs = [{ q with fill := q.fill + p.n }]) ∧
        (p.sample.isSome = true → p.sample.getD 0 < results.length → (y 0).1 ≠ 0xFFFFFFFF →
          GoesOn x q (y 0).1 (q.gen + 1) (q.fill + p.n) →
          (∃ e ∈ b.ents, e.sq = q ∧ e.toks = tokens 1 ∧ e.finished = false ∧ e.cancelled = false) ∧
          b.x.seqs = [{ q with fill := q.fill + p.n, gen := q.gen + 1, last := some s.now, missed := false }]))) ∧
    (∀ (q : Sq) (h : Nat), Unhurried s i → x.plan = [] → x.seqs = [q] → x.waiting = [] → q.handle = some h → q.pages.length < q.pagesDue →
      s.takeable i < x.unitsPerPage →
      let b := s.boundary i false [] []
      b.x.seqs = [{ q with handle := none, pages := [], fill := 0, goal := q.promptLen + q.gen, preempted := q.preempted + 1 }] ∧
        (h, q.pages.flatten) ∈ b.pend ++ b.held ∧ (5, 1) ∈ b.cnt ∧ ∃ e ∈ b.ents, e.sq = q ∧ e.preempted = true) ∧
    (∀ w : Req, Unhurried s i → x.plan = [] → x.seqs = [] → x.waiting = [w] →
      let b := s.boundary i false [] []
      let units := x.needs (.fresh w)
      let room := s.u.mem.tarn - s.othersReserve i
      (room < units → b.x.waiting = [] ∧ b.x.seqs = [] ∧ (w, 6, 0xFFF) ∈ b.recs) ∧
      (units ≤ room → 0 < x.maxSeq → s.handlesUsed.length < 4096 → s.takeable i < units → b.x.seqs = [] ∧
        (1 ∉ w.told → b.x.waiting = [{ w with told := w.told ++ [1] }] ∧ (w, 1, 0xFFF) ∈ b.recs) ∧
        (1 ∈ w.told → b.x.waiting = [w] ∧ b.recs = [])) ∧
      (units ≤ room → 0 < x.maxSeq → s.handlesUsed.length < 4096 → (∃ h, h < 4096 ∧ h ∉ s.handlesUsed) → units ≤ s.takeable i →
        x.storeRoom w.maxNew = true → b.x.waiting = [] ∧ (2, 1) ∈ b.cnt ∧
        ∃ q h, b.x.seqs = [q] ∧ q.tag = w.tag ∧ q.handle = some h ∧ h < 4096 ∧ h ∉ s.handlesUsed ∧ (w, 0, h) ∈ b.recs ∧ q.fill = 0 ∧
          q.gen = 0 ∧ q.promptLen = w.promptLen ∧ q.pages.length = w.promptLen / 64 + 2 ∧ ∀ u ∈ q.pages.flatten, u ∉ s.unitsUsed)) ∧
    (Plain s i → x.plan = [] →
      let b := s.boundary i false [] []
      (∀ w : Req, x.seqs = [] → x.waiting = [w] → x.passed s.now w.time true = true → (w.missed = false → (7, 1) ∈ b.cnt) ∧
        (x.fld 0 53 1 = 1 → b.x.waiting = [] ∧ b.x.seqs = [] ∧ (w, 8, 0xFFF) ∈ b.recs)) ∧
      (∀ (q : Sq) (h : Nat), x.waiting = [] → x.seqs = [q] → q.handle = some h → x.passed s.now q.ref q.last.isNone = true →
        (q.missed = false → ((if q.last.isNone then 7 else 8), 1) ∈ b.cnt) ∧
        (x.fld 0 53 1 = 1 → Left b h q ∧ ∃ e ∈ b.ents, e.sq.tag = q.tag ∧ e.toks = [] ∧ e.cancelled = true ∧ e.reason = 6)))
end

