-- ==== Sys2Proof/Laws/State.lean ====
section
/-! SUPPORT. What each single change leaves of each field of the state, and how actions run: a proof about a command rewrites with
these and unfolds no record update. -/

namespace Sys2Proof.Machine

/-! ### Running actions -/

@[simp] theorem Act.run_skip (s : State) : Act.skip.run s = s := rfl
@[simp] theorem Act.run_upd (x : Upd) (s : State) : (Act.upd x).run s = s.apply x := rfl
@[simp] theorem Act.run_seq (a b : Act) (s : State) : (Act.seq a b).run s = b.run (a.run s) := rfl
@[simp] theorem Act.run_get (f : State → Act) (s : State) : (Act.get f).run s = (f s).run s := rfl
@[simp] theorem Act.run_all_nil (s : State) : (Act.all []).run s = s := rfl
@[simp] theorem Act.run_all_cons (a : Act) (l : List Act) (s : State) : (Act.all (a :: l)).run s = (Act.all l).run (a.run s) := rfl
@[simp] theorem Act.run_each_nil {α : Type} (f : α → Act) (s : State) : (Act.each [] f).run s = s := rfl
@[simp] theorem Act.run_each_cons {α : Type} (x : α) (l : List α) (f : α → Act) (s : State) :
    (Act.each (x :: l) f).run s = (Act.each l f).run ((f x).run s) := rfl
@[simp] theorem Act.when_true (a : Act) : Act.when true a = a := rfl
@[simp] theorem Act.when_false (a : Act) : Act.when false a = .skip := rfl
@[simp] theorem Act.outcome_eq (a : Act) (s : State) : a.outcome s = .next (a.run s) := rfl
@[simp] theorem Act.run_units (f : Units → Units) (s : State) : (Act.units f).run s = { s with u := f s.u } := rfl
@[simp] theorem Act.run_core (f : CoreU → CoreU) (s : State) : (Act.core f).run s = { s with u := { s.u with core := f s.u.core } } := rfl
@[simp] theorem Act.run_pow (f : PowU → PowU) (s : State) : (Act.pow f).run s = { s with u := { s.u with pow := f s.u.pow } } := rfl
@[simp] theorem Act.run_host (f : HostU → HostU) (s : State) : (Act.host f).run s = { s with u := { s.u with host := f s.u.host } } := rfl
@[simp] theorem Act.run_dict (f : DictU → DictU) (s : State) : (Act.dict f).run s = { s with u := { s.u with dict := f s.u.dict } } := rfl
@[simp] theorem Act.run_svc (f : SvcU → SvcU) (s : State) : (Act.svc f).run s = { s with u := { s.u with svc := f s.u.svc } } := rfl
@[simp] theorem Act.run_out (o : Out) (s : State) : (Act.out o).run s = { s with u := { s.u with outbox := s.u.outbox ++ [o] } } := rfl

theorem Act.run_when (c : Bool) (a : Act) (s : State) : (Act.when c a).run s = if c then a.run s else s := by cases c <;> rfl

theorem Act.run_ite (c : Prop) [Decidable c] (a b : Act) (s : State) :
    (if c then a else b).run s = if c then a.run s else b.run s := by split <;> rfl

theorem Act.run_all_append (l₁ l₂ : List Act) (s : State) : (Act.all (l₁ ++ l₂)).run s = (Act.all l₂).run ((Act.all l₁).run s) := by
  induction l₁ generalizing s with
  | nil => rfl
  | cons a r ih => exact ih _

/-! ### The waiting commands -/

@[simp] theorem State.withStore_pending (s : State) (m : MemSel) (x : Store) : (s.withStore m x).pending = s.pending := by cases m <;> rfl
@[simp] theorem State.withStore_regs (s : State) (m : MemSel) (x : Store) : (s.withStore m x).regs = s.regs := by cases m <;> rfl
@[simp] theorem State.withStore_u (s : State) (m : MemSel) (x : Store) : (s.withStore m x).u = s.u := by cases m <;> rfl
@[simp] theorem State.withStore_same (s : State) (m : MemSel) (x : Store) : (s.withStore m x).store m = x := by cases m <;> rfl
theorem State.withStore_other (s : State) (m k : MemSel) (x : Store) (h : k ≠ m) : (s.withStore m x).store k = s.store k := by
  cases m <;> cases k <;> first | rfl | exact absurd rfl h

/-- No change touches the waiting commands. -/
@[simp] theorem State.apply_pending (s : State) (x : Upd) : (s.apply x).pending = s.pending := by
  cases x <;> simp only [State.apply] <;> (try split) <;> simp

/-- No action touches the waiting commands. -/
@[simp] theorem Act.run_pending (a : Act) (s : State) : (a.run s).pending = s.pending := by
  induction a generalizing s with
  | skip => rfl
  | upd x => exact s.apply_pending x
  | seq a b iha ihb => simp [iha, ihb]
  | get f ih => exact ih s s

/-! ### A register write -/

@[simp] theorem Act.run_reg_u (n : EName) (i v : Nat) (s : State) : ((Act.reg n i v).run s).u = s.u := by
  simp only [Act.reg, Act.run_upd, State.apply]; split <;> rfl
@[simp] theorem Act.run_reg_stack (n : EName) (i v : Nat) (s : State) : ((Act.reg n i v).run s).stack = s.stack := by
  simp only [Act.reg, Act.run_upd, State.apply]; split <;> rfl
@[simp] theorem Act.run_reg_host (n : EName) (i v : Nat) (s : State) : ((Act.reg n i v).run s).host = s.host := by
  simp only [Act.reg, Act.run_upd, State.apply]; split <;> rfl
@[simp] theorem Act.run_reg_scratch (n : EName) (i v : Nat) (s : State) : ((Act.reg n i v).run s).scratch = s.scratch := by
  simp only [Act.reg, Act.run_upd, State.apply]; split <;> rfl
theorem Act.run_reg_regs (n : EName) (i v : Nat) (s : State) (hi : i < n.count) (hn : n.info.pers ≠ .fixed) :
    ((Act.reg n i v).run s).regs = tset s.regs (n.key i) (n.fit v) := by simp [Act.reg, State.apply, hi, hn]

/-! ### A write to a store -/

@[simp] theorem Act.run_mem_u (m : MemSel) (a : Nat) (bs : PBytes) (s : State) : ((Act.mem m a bs).run s).u = s.u := by
  simp [Act.mem, State.apply]
@[simp] theorem Act.run_mem_regs (m : MemSel) (a : Nat) (bs : PBytes) (s : State) : ((Act.mem m a bs).run s).regs = s.regs := by
  simp [Act.mem, State.apply]
@[simp] theorem Act.run_mem_same (m : MemSel) (a : Nat) (bs : PBytes) (s : State) :
    ((Act.mem m a bs).run s).store m = (s.store m).write m a bs := by simp [Act.mem, State.apply]
theorem Act.run_mem_other (m k : MemSel) (a : Nat) (bs : PBytes) (s : State) (h : k ≠ m) :
    ((Act.mem m a bs).run s).store k = s.store k := by simp [Act.mem, State.apply, State.withStore_other _ _ _ _ h]

/-! ### Changes of the units -/

@[simp] theorem State.rd_units (s : State) (f : Units → Units) (h : (f s.u).pow = s.u.pow) (n : EName) (i : Nat) :
    ({ s with u := f s.u } : State).rd n i = s.rd n i := by simp [State.rd, State.noFlash, State.safeMode, h]

end Sys2Proof.Machine
end

