-- ==== Sys2Proof/Laws/Tab.lean ====
section
/-! SUPPORT. Finite maps and the register file: reading after writing, rising keys, and that two entries never share a key. -/

namespace Sys2Proof.Machine

/-! ### Reading after writing -/

@[simp] theorem tget_nil {α : Type} (k : Nat) : tget ([] : List (Nat × α)) k = none := rfl

theorem tget_cons {α : Type} (p : Nat × α) (t : List (Nat × α)) (k : Nat) :
    tget (p :: t) k = if p.1 = k then some p.2 else tget t k := by
  by_cases h : p.1 = k <;> simp [tget, h]

@[simp] theorem tget_tset_same {α : Type} (t : List (Nat × α)) (k : Nat) (v : α) : tget (tset t k v) k = some v := by
  induction t with
  | nil => simp [tset, tget_cons]
  | cons p r ih =>
    simp only [tset]
    split
    · simp [tget_cons]
    · split
      · simp [tget_cons]
      · rename_i h1 h2; simp [tget_cons, ih, Ne.symm h2]

theorem tget_tset_other {α : Type} (t : List (Nat × α)) {k j : Nat} (v : α) (h : j ≠ k) : tget (tset t k v) j = tget t j := by
  induction t with
  | nil => simp [tset, tget_cons, Ne.symm h]
  | cons p r ih =>
    simp only [tset]
    split
    · simp [tget_cons, Ne.symm h]
    · split
      · rename_i h1 h2; simp [tget_cons, ← h2, Ne.symm h]
      · simp [tget_cons, ih]

theorem tget_tset {α : Type} (t : List (Nat × α)) (k j : Nat) (v : α) : tget (tset t k v) j = if j = k then some v else tget t j := by
  split
  · rename_i h; subst h; simp
  · rename_i h; exact tget_tset_other t v h

@[simp] theorem tgetD_tset_same {α : Type} (t : List (Nat × α)) (k : Nat) (v d : α) : tgetD (tset t k v) k d = v := by simp [tgetD]

theorem tgetD_tset_other {α : Type} (t : List (Nat × α)) {k j : Nat} (v d : α) (h : j ≠ k) : tgetD (tset t k v) j d = tgetD t j d := by
  simp [tgetD, tget_tset_other t v h]

@[simp] theorem tgetD_tmod_same {α : Type} (t : List (Nat × α)) (k : Nat) (d : α) (f : α → α) :
    tgetD (tmod t k d f) k d = f (tgetD t k d) := by simp [tmod]

theorem tgetD_tmod_other {α : Type} (t : List (Nat × α)) {k j : Nat} (d : α) (f : α → α) (h : j ≠ k) :
    tgetD (tmod t k d f) j d = tgetD t j d := by simp [tmod, tgetD_tset_other t _ _ h]

theorem tget_filter {α : Type} (t : List (Nat × α)) (keep : Nat → Bool) (k : Nat) :
    tget (t.filter fun p => keep p.1) k = if keep k then tget t k else none := by
  induction t with
  | nil => simp
  | cons p r ih =>
    by_cases hp : keep p.1 <;> by_cases hk : p.1 = k <;> simp_all [tget_cons]

@[simp] theorem tget_tdel_same {α : Type} (t : List (Nat × α)) (k : Nat) : tget (tdel t k) k = none := by
  have := tget_filter t (fun j => j != k) k
  simpa [tdel] using this

theorem tget_tdel_other {α : Type} (t : List (Nat × α)) {k j : Nat} (h : j ≠ k) : tget (tdel t k) j = tget t j := by
  have := tget_filter t (fun j => j != k) j
  simpa [tdel, h] using this

theorem tget_mem {α : Type} {t : List (Nat × α)} {k : Nat} {v : α} (h : tget t k = some v) : (k, v) ∈ t := by
  induction t with
  | nil => simp at h
  | cons p r ih =>
    rw [tget_cons] at h
    split at h
    · rename_i hk; cases h; subst hk; simp
    · exact List.mem_cons_of_mem _ (ih h)

/-! ### Rising keys -/

theorem tset_mem {α : Type} {t : List (Nat × α)} {k : Nat} {v : α} {p : Nat × α} (h : p ∈ tset t k v) : p = (k, v) ∨ p ∈ t := by
  induction t with
  | nil => simp [tset] at h; exact .inl h
  | cons q r ih =>
    simp only [tset] at h
    split at h
    · simp at h; rcases h with h | h | h <;> simp [h]
    · split at h
      · simp at h; rcases h with h | h <;> simp [h]
      · simp at h; rcases h with h | h
        · simp [h]
        · rcases ih h with h | h <;> simp [h]

theorem tset_rising {α : Type} {t : List (Nat × α)} (k : Nat) (v : α) (h : Rising t) : Rising (tset t k v) := by
  induction t with
  | nil => simp [tset, Rising]
  | cons q r ih =>
    obtain ⟨hq, hr⟩ := List.pairwise_cons.1 h
    simp only [tset]
    split
    · rename_i hk
      refine List.pairwise_cons.2 ⟨fun p hp => ?_, h⟩
      rcases List.mem_cons.1 hp with hp | hp
      · subst hp; exact hk
      · exact Nat.lt_trans hk (hq p hp)
    · split
      · rename_i hk; exact List.pairwise_cons.2 ⟨fun p hp => hk ▸ hq p hp, hr⟩
      · rename_i h1 h2
        refine List.pairwise_cons.2 ⟨fun p hp => ?_, ih hr⟩
        rcases tset_mem hp with hp | hp
        · subst hp; simp only; omega
        · exact hq p hp

theorem filter_rising {α : Type} {t : List (Nat × α)} (keep : Nat × α → Bool) (h : Rising t) : Rising (t.filter keep) := List.Pairwise.filter _ h

theorem tdel_rising {α : Type} {t : List (Nat × α)} (k : Nat) (h : Rising t) : Rising (tdel t k) := filter_rising _ h

/-! ### Keys of entries (R431) -/

/-- Two families share no key. -/
def apart (a b : EName) : Bool :=
  a.info.idxHi < b.info.idxLo || b.info.idxHi < a.info.idxLo || a.info.subHi < b.info.subLo || b.info.subHi < a.info.subLo

/-- Every pair of a list is apart. -/
def apartAll : List EName → Bool
  | [] => true
  | a :: r => r.all (apart a) && apartAll r

theorem names_apart : apartAll EName.all = true := by decide +kernel

theorem EName.mem_all (n : EName) : n ∈ EName.all := by cases n <;> decide +kernel

/-- Ranges of a family: they are not turned round, and a subindex is a byte. -/
def ranged (n : EName) : Bool := n.info.idxLo ≤ n.info.idxHi && n.info.subLo ≤ n.info.subHi && n.info.subHi < 256

theorem names_ranged : EName.all.all ranged = true := by decide +kernel

theorem EName.ranged (n : EName) : n.info.idxLo ≤ n.info.idxHi ∧ n.info.subLo ≤ n.info.subHi ∧ n.info.subHi < 256 := by
  have h := List.all_eq_true.1 names_ranged n n.mem_all
  simp only [Machine.ranged, Bool.and_eq_true, decide_eq_true_eq] at h
  omega

theorem apart_symm (a b : EName) : apart a b = apart b a := by
  simp only [apart]
  by_cases h1 : a.info.idxHi < b.info.idxLo <;> by_cases h2 : b.info.idxHi < a.info.idxLo <;>
    by_cases h3 : a.info.subHi < b.info.subLo <;> by_cases h4 : b.info.subHi < a.info.subLo <;> simp [h1, h2, h3, h4]

theorem apart_of_mem {l : List EName} (h : apartAll l = true) {a b : EName} (ha : a ∈ l) (hb : b ∈ l) (hab : a ≠ b) : apart a b = true := by
  induction l with
  | nil => simp at ha
  | cons x r ih =>
    simp only [apartAll, Bool.and_eq_true, List.all_eq_true] at h
    rcases List.mem_cons.1 ha with ha | ha <;> rcases List.mem_cons.1 hb with hb | hb
    · exact absurd (ha.trans hb.symm) hab
    · rw [ha]; exact h.1 _ hb
    · rw [apart_symm, hb]; exact h.1 _ ha
    · exact ih h.2 ha hb

/-- Index and subindex of an entry lie in its family's ranges. -/
theorem EName.key_range (n : EName) (i : Nat) (hi : i < n.count) :
    n.info.idxLo ≤ n.key i / 256 ∧ n.key i / 256 ≤ n.info.idxHi ∧ n.info.subLo ≤ n.key i % 256 ∧ n.key i % 256 ≤ n.info.subHi := by
  obtain ⟨h1, h2, h3⟩ := n.ranged
  have hp : 0 < n.nsub := by simp only [EName.nsub]; omega
  have hm : i % n.nsub < n.nsub := Nat.mod_lt _ hp
  have hd : i / n.nsub < n.info.idxHi + 1 - n.info.idxLo := Nat.div_lt_of_lt_mul (by rw [Nat.mul_comm]; exact hi)
  simp only [EName.key]
  generalize i / n.nsub = a at *
  generalize i % n.nsub = b at *
  simp only [EName.nsub] at hm
  omega

/-- Entries with one key are one entry. -/
theorem EName.key_inj {n m : EName} {i j : Nat} (hi : i < n.count) (hj : j < m.count) (h : n.key i = m.key j) : n = m ∧ i = j := by
  have hn := n.key_range i hi
  have hm := m.key_range j hj
  by_cases hnm : n = m
  · subst hnm
    refine ⟨rfl, ?_⟩
    obtain ⟨h1, h2, h3⟩ := n.ranged
    have hp : 0 < n.nsub := by simp only [EName.nsub]; omega
    have e1 : i / n.nsub = j / n.nsub := by
      have a := Nat.mod_lt i hp
      have b := Nat.mod_lt j hp
      simp only [EName.key] at h
      generalize i / n.nsub = x at *
      generalize j / n.nsub = y at *
      generalize i % n.nsub = z at *
      generalize j % n.nsub = w at *
      simp only [EName.nsub] at a b
      omega
    have e2 : i % n.nsub = j % n.nsub := by
      simp only [EName.key, e1] at h; omega
    rw [← Nat.div_add_mod i n.nsub, ← Nat.div_add_mod j n.nsub, e1, e2]
  · have ha := apart_of_mem names_apart n.mem_all m.mem_all hnm
    simp only [apart, Bool.or_eq_true, decide_eq_true_eq] at ha
    rw [h] at hn
    omega

/-! ### Reading an entry after writing one -/

/-- Writing an entry leaves every other entry as it was. -/
theorem State.rd_reg_other (s : State) {n m : EName} {i j : Nat} (v : Nat) (hi : i < n.count) (hj : j < m.count)
    (h : (m, j) ≠ (n, i)) : ((Act.reg n i v).run s).rd m j = s.rd m j := by
  have hk : m.key j ≠ n.key i := fun e => h (by obtain ⟨h1, h2⟩ := EName.key_inj hj hi e; rw [h1, h2])
  simp only [Act.reg, Act.run_upd, State.apply]
  split
  · simp only [State.rd, State.noFlash, State.safeMode, tget_tset_other _ _ hk]; rfl
  · rfl

/-- An entry that can be written reads the value written, cut to its size; a STORE entry reads its default while the flash is
unreadable and in safe mode (R439, R440). -/
theorem State.rd_reg_same (s : State) {n : EName} {i : Nat} (v : Nat) (hi : i < n.count) (hn : n.info.pers ≠ .fixed)
    (hs : n.info.pers = .store → s.noFlash = false ∧ s.safeMode = false) : ((Act.reg n i v).run s).rd n i = n.fit v := by
  simp only [Act.reg, Act.run_upd, State.apply, hi, hn, ne_eq, not_false_eq_true, and_self, if_true]
  simp only [State.rd, tget_tset_same]
  split
  · rename_i h; have := hs h.1; simp_all [State.noFlash, State.safeMode]
  · rfl

end Sys2Proof.Machine
end

