-- ==== Sys2Proof/Laws/Memory.lean ====
section
/-! SUPPORT. The byte stores: reading after writing, and that every operation over them keeps their canonical form. -/

namespace Sys2Proof.Machine

/-! ### Cells -/

/-- The byte a list of cells holds at an address. -/
def cellGet (m : List Host.Cell) (a : Nat) : Byte := (tget m a).getD 0#8

theorem Store.byte_eq (x : Store) (a : Nat) : x.byte a = cellGet x.bytes a := rfl

theorem cellSet_mem {m : List Host.Cell} {a : Nat} {b : Byte} {c : Host.Cell} (h : c ∈ cellSet m a b) :
    (c = (a, b) ∧ b ≠ 0#8) ∨ c ∈ m := by
  induction m with
  | nil => simp only [cellSet] at h; split at h <;> simp_all
  | cons q r ih =>
    obtain ⟨a', b'⟩ := q
    simp only [cellSet] at h
    split at h
    · split at h
      · exact .inr h
      · rcases List.mem_cons.1 h with h | h
        · exact .inl ⟨h, by assumption⟩
        · exact .inr h
    · split at h
      · split at h
        · exact .inr (List.mem_cons_of_mem _ h)
        · rcases List.mem_cons.1 h with h | h
          · exact .inl ⟨h, by assumption⟩
          · exact .inr (List.mem_cons_of_mem _ h)
      · rcases List.mem_cons.1 h with h | h
        · exact .inr (h ▸ List.mem_cons_self ..)
        · rcases ih h with h | h
          · exact .inl h
          · exact .inr (List.mem_cons_of_mem _ h)

theorem cellSet_rising {m : List Host.Cell} (a : Nat) (b : Byte) (h : Rising m) : Rising (cellSet m a b) := by
  induction m with
  | nil => simp only [cellSet]; split <;> simp [Rising]
  | cons q r ih =>
    obtain ⟨a', b'⟩ := q
    obtain ⟨hq, hr⟩ := List.pairwise_cons.1 h
    simp only [cellSet]
    split
    · rename_i hk
      split
      · exact h
      · refine List.pairwise_cons.2 ⟨fun p hp => ?_, h⟩
        rcases List.mem_cons.1 hp with hp | hp
        · subst hp; exact hk
        · exact Nat.lt_trans hk (hq p hp)
    · split
      · rename_i h1 h2
        split
        · exact hr
        · exact List.pairwise_cons.2 ⟨fun p hp => h2 ▸ hq p hp, hr⟩
      · rename_i h1 h2
        refine List.pairwise_cons.2 ⟨fun p hp => ?_, ih hr⟩
        rcases cellSet_mem hp with hp | hp
        · rw [hp.1]; simp only; omega
        · exact hq p hp

theorem cellSet_wf {m : List Host.Cell} (a : Nat) (b : Byte) (h : Memory.wf m) : Memory.wf (cellSet m a b) := by
  refine ⟨cellSet_rising a b h.1, fun c hc => ?_⟩
  rcases cellSet_mem hc with hc | hc
  · rw [hc.1]; exact hc.2
  · exact h.2 c hc

theorem cellGet_set (m : List Host.Cell) (a : Nat) (b : Byte) (j : Nat) (h : Rising m) :
    cellGet (cellSet m a b) j = if j = a then b else cellGet m j := by
  induction m with
  | nil =>
    by_cases hb : b = 0#8
    · simp [cellSet, cellGet, hb]
    · by_cases hj : j = a
      · simp [cellSet, cellGet, tget_cons, hb, hj]
      · simp [cellSet, cellGet, tget_cons, hb, hj, Ne.symm hj]
  | cons q r ih =>
    obtain ⟨a', b'⟩ := q
    obtain ⟨hq, hr⟩ := List.pairwise_cons.1 h
    have hnone : ∀ k, k ≤ a' → tget r k = none := by
      intro k hk
      cases e : tget r k with
      | none => rfl
      | some v => have := hq _ (tget_mem e); simp only at this; omega
    simp only [cellSet]
    split
    · rename_i hk
      by_cases hj : j = a
      · subst hj
        have h0 : tget r j = none := hnone j (by omega)
        split
        · rename_i hb; simp [cellGet, tget_cons, hb, h0, show a' ≠ j by omega]
        · simp [cellGet, tget_cons]
      · split
        · simp
        · simp [cellGet, tget_cons, Ne.symm hj]
    · split
      · rename_i h1 h2
        subst h2
        by_cases hj : j = a
        · subst hj
          have h0 : tget r j = none := hnone j (by omega)
          split
          · rename_i hb; simp [cellGet, hb, h0]
          · simp [cellGet, tget_cons]
        · split <;> simp [cellGet, tget_cons, Ne.symm hj]
      · rename_i h1 h2
        have := ih hr
        by_cases hj : a' = j
        · have : j ≠ a := by omega
          simp [cellGet, tget_cons, hj, this]
        · simp only [cellGet, tget_cons, hj, if_false] at this ⊢
          exact this

theorem cellsSet_wf {m : List Host.Cell} (a : Nat) (bs : List Byte) (h : Memory.wf m) : Memory.wf (cellsSet m a bs) := by
  induction bs generalizing m a with
  | nil => exact h
  | cons b r ih => exact ih (a + 1) (cellSet_wf a b h)

theorem cellsSet_mem {m : List Host.Cell} {a : Nat} {bs : List Byte} {c : Host.Cell} (h : c ∈ cellsSet m a bs) :
    (a ≤ c.1 ∧ c.1 < a + bs.length) ∨ c ∈ m := by
  induction bs generalizing m a with
  | nil => exact .inr h
  | cons b r ih =>
    rcases ih h with h | h
    · left; simp only [List.length_cons]; omega
    · rcases cellSet_mem h with h | h
      · left; rw [h.1]; simp
      · exact .inr h

/-- A byte reads what was written there, and any other byte what it read before. -/
theorem cellGet_sets (m : List Host.Cell) (a : Nat) (bs : List Byte) (j : Nat) (h : Memory.wf m) :
    cellGet (cellsSet m a bs) j = if a ≤ j ∧ j < a + bs.length then bs.getD (j - a) 0#8 else cellGet m j := by
  induction bs generalizing m a with
  | nil =>
    have : ¬(a ≤ j ∧ j < a + ([] : List Byte).length) := by simp only [List.length_nil]; omega
    rw [if_neg this]; rfl
  | cons b r ih =>
    rw [cellsSet, ih _ _ (cellSet_wf a b h), cellGet_set _ _ _ _ h.1]
    by_cases hj : j = a
    · subst hj; simp
    · by_cases h1 : a ≤ j ∧ j < a + (b :: r).length
      · have h2 : a + 1 ≤ j ∧ j < a + 1 + r.length := by simp only [List.length_cons] at h1; omega
        obtain ⟨k, hk⟩ : ∃ k, j - a = k + 1 := ⟨j - a - 1, by omega⟩
        have hk' : j - (a + 1) = k := by omega
        rw [if_pos h1, if_pos h2, hk, hk']; simp
      · have h2 : ¬(a + 1 ≤ j ∧ j < a + 1 + r.length) := by simp only [List.length_cons] at h1; omega
        rw [if_neg h1, if_neg h2, if_neg hj]

/-! ### Poison marks -/

theorem numAdd_mem {l : List Nat} {a x : Nat} (h : x ∈ numAdd l a) : x = a ∨ x ∈ l := by
  induction l with
  | nil => simp_all [numAdd]
  | cons y r ih =>
    simp only [numAdd] at h
    split at h
    · simpa using h
    · split at h
      · exact .inr h
      · rcases List.mem_cons.1 h with h | h
        · exact .inr (h ▸ List.mem_cons_self ..)
        · rcases ih h with h | h
          · exact .inl h
          · exact .inr (List.mem_cons_of_mem _ h)

theorem numAdd_sorted {l : List Nat} (a : Nat) (h : l.Pairwise (· < ·)) : (numAdd l a).Pairwise (· < ·) := by
  induction l with
  | nil => simp [numAdd]
  | cons y r ih =>
    obtain ⟨hy, hr⟩ := List.pairwise_cons.1 h
    simp only [numAdd]
    split
    · rename_i hk
      refine List.pairwise_cons.2 ⟨fun p hp => ?_, h⟩
      rcases List.mem_cons.1 hp with hp | hp
      · omega
      · have := hy p hp; omega
    · split
      · exact h
      · refine List.pairwise_cons.2 ⟨fun p hp => ?_, ih hr⟩
        rcases numAdd_mem hp with hp | hp
        · omega
        · exact hy p hp

theorem poisonAfter_ok (grain a size : Nat) (bs : PBytes) (_ : 0 < grain) : ∀ (k g : Nat) (p : List Nat),
    (p.Pairwise (· < ·) ∧ ∀ x ∈ p, x * grain < size) → (k = 0 ∨ (g + k - 1) * grain < size) →
    ((poisonAfter grain a bs k g p).Pairwise (· < ·) ∧ ∀ x ∈ poisonAfter grain a bs k g p, x * grain < size) := by
  intro k
  induction k with
  | zero => intro g p h _; exact h
  | succ k ih =>
    intro g p h hk
    simp only [poisonAfter]
    apply ih
    · have hgs : g * grain < size := by
        rcases hk with hk | hk
        · omega
        · exact Nat.lt_of_le_of_lt (Nat.mul_le_mul_right _ (by omega)) hk
      split
      · refine ⟨numAdd_sorted _ h.1, fun x hx => ?_⟩
        rcases numAdd_mem hx with hx | hx
        · rw [hx]; exact hgs
        · exact h.2 x hx
      · split
        · exact ⟨List.Pairwise.filter _ h.1, fun x hx => h.2 x (List.mem_filter.1 hx).1⟩
        · exact h
    · rcases hk with hk | hk
      · omega
      · by_cases k0 : k = 0
        · exact .inl k0
        · right; rwa [show g + 1 + k - 1 = g + (k + 1) - 1 by omega]

/-! ### Stores -/

theorem grain_pos (sel : MemSel) : 0 < sel.grain := by cases sel <;> decide

/-- A write keeps the canonical form. -/
theorem Store.write_wf {x : Store} {sel : MemSel} (a : Nat) (bs : PBytes) (h : Store.Wf sel x) : Store.Wf sel (x.write sel a bs) := by
  obtain ⟨h1, h2, h3, h4⟩ := h
  simp only [Store.write]
  split
  · exact ⟨h1, h2, h3, h4⟩
  · rename_i hne
    have hlen : 0 < (bs.take (sel.size - a)).length := List.length_pos_iff.2 (by simpa using hne)
    have hle : (bs.take (sel.size - a)).length ≤ sel.size - a := by simp [List.length_take]
    have hp : 0 < sel.grain := grain_pos sel
    refine ⟨cellsSet_wf _ _ h1, fun c hc => ?_, ?_⟩
    · rcases cellsSet_mem hc with hc | hc
      · rw [List.length_map] at hc; omega
      · exact h2 c hc
    · apply poisonAfter_ok sel.grain a sel.size _ hp _ _ _ ⟨h3, h4⟩
      right
      have e1 : a / sel.grain ≤ (a + (bs.take (sel.size - a)).length - 1) / sel.grain := Nat.div_le_div_right (by omega)
      have e2 := Nat.div_mul_le_self (a + (bs.take (sel.size - a)).length - 1) sel.grain
      generalize a / sel.grain = g0 at *
      generalize (a + (bs.take (sel.size - a)).length - 1) / sel.grain = g1 at *
      rw [show g0 + (g1 + 1 - g0) - 1 = g1 by omega]
      omega

/-- Losing a range keeps the canonical form. -/
theorem Store.lose_wf {x : Store} {sel : MemSel} (lo hi : Nat) (h : Store.Wf sel x) : Store.Wf sel (x.lose sel lo hi) := by
  obtain ⟨⟨h0, h1⟩, h2, h3, h4⟩ := h
  exact ⟨⟨filter_rising _ h0, fun c hc => h1 c (List.mem_filter.1 hc).1⟩, fun c hc => h2 c (List.mem_filter.1 hc).1,
    List.Pairwise.filter _ h3, fun g hg => h4 g (List.mem_filter.1 hg).1⟩

/-- Marking a grain keeps the canonical form. -/
theorem Store.poison_wf {x : Store} {sel : MemSel} {g : Nat} (hg : g * sel.grain < sel.size) (h : Store.Wf sel x) :
    Store.Wf sel { x with poison := numAdd x.poison g } := by
  obtain ⟨h1, h2, h3, h4⟩ := h
  refine ⟨h1, h2, numAdd_sorted _ h3, fun y hy => ?_⟩
  rcases numAdd_mem hy with hy | hy
  · rw [hy]; exact hg
  · exact h4 y hy

/-- A byte of a store reads what a write put there, and any other what it read before. -/
theorem Store.byte_write (x : Store) (sel : MemSel) (a : Nat) (bs : PBytes) (j : Nat) (h : Store.Wf sel x) :
    (x.write sel a bs).byte j = if a ≤ j ∧ j < a + bs.length ∧ j < sel.size then (dataOf bs).getD (j - a) 0#8 else x.byte j := by
  simp only [Store.write]
  split
  · rename_i he
    have : ¬(a ≤ j ∧ j < a + bs.length ∧ j < sel.size) := by
      have : (bs.take (sel.size - a)).length = 0 := by simpa using he
      rw [List.length_take] at this; omega
    simp [this]
  · rw [Store.byte_eq, cellGet_sets _ _ _ _ h.1, List.length_map, List.length_take]
    by_cases hj : a ≤ j ∧ j < a + bs.length ∧ j < sel.size
    · have h1 : a ≤ j ∧ j < a + min (sel.size - a) bs.length := by omega
      have h2 : j - a < sel.size - a := by omega
      simp [h1, hj, dataOf, List.getD_eq_getElem?_getD, List.getElem?_map, h2]
    · have h1 : ¬(a ≤ j ∧ j < a + min (sel.size - a) bs.length) := by omega
      simp [h1, hj, Store.byte_eq]

/-! ### The state -/

/-- The state's three stores are canonical. -/
def State.StoresWf (s : State) : Prop := ∀ m, Store.Wf m (s.store m)

theorem State.storesWf_withStore {s : State} {m : MemSel} {x : Store} (h : s.StoresWf) (hx : Store.Wf m x) : (s.withStore m x).StoresWf := by
  intro k
  by_cases e : k = m
  · subst e; simpa using hx
  · rw [s.withStore_other m k x e]; exact h k

/-- Every change keeps the stores canonical. -/
theorem State.apply_storesWf {s : State} (x : Upd) (h : s.StoresWf) : (s.apply x).StoresWf := by
  cases x with
  | reg n i v =>
    simp only [State.apply]; split
    · intro k; have := h k; cases k <;> exact this
    · exact h
  | regErase n i => intro k; have := h k; cases k <;> exact this
  | regKeep f => intro k; have := h k; cases k <;> exact this
  | mem m a bs => exact storesWf_withStore h (Store.write_wf a bs (h m))
  | poison m g =>
    simp only [State.apply]; split
    · rename_i hg; exact storesWf_withStore h (Store.poison_wf hg (h m))
    · exact h
  | lose m lo hi => exact storesWf_withStore h (Store.lose_wf lo hi (h m))
  | units f => intro k; have := h k; cases k <;> exact this

/-- Every change keeps the register file canonical. -/
theorem State.apply_regsOk {s : State} (x : Upd) (h : Rising s.regs ∧ ∀ p ∈ s.regs, RegOk p) :
    Rising (s.apply x).regs ∧ ∀ p ∈ (s.apply x).regs, RegOk p := by
  cases x with
  | reg n i v =>
    simp only [State.apply]; split
    · rename_i hn
      refine ⟨tset_rising _ _ h.1, fun p hp => ?_⟩
      rcases tset_mem hp with hp | hp
      · exact ⟨n, i, hn.1, hn.2, by rw [hp], by rw [hp]; exact Nat.mod_lt _ (Nat.pos_of_ne_zero (by simp))⟩
      · exact h.2 p hp
    · exact h
  | regErase n i => exact ⟨tdel_rising _ h.1, fun p hp => h.2 p (List.mem_filter.1 hp).1⟩
  | regKeep f => exact ⟨filter_rising _ h.1, fun p hp => h.2 p (List.mem_filter.1 hp).1⟩
  | mem m a bs => simpa [State.apply] using h
  | poison m g => simp only [State.apply]; split <;> simpa using h
  | lose m lo hi => simpa [State.apply] using h
  | units f => exact h

end Sys2Proof.Machine
end

