-- ==== Sys2Proof/Laws/Frame.lean ====
section
/-! SUPPORT. What an action leaves as it was: the property is closed under every way of composing actions, so a frame is proved from
the single changes. -/

namespace Sys2Proof.Machine

/-- The action leaves a view of the state as it was, whatever the state. -/
def Act.Keeps {α : Type} (f : State → α) (a : Act) : Prop := ∀ s, f (a.run s) = f s

variable {α β : Type} {f : State → α}

theorem Act.keeps_skip : Act.Keeps f .skip := fun _ => rfl
theorem Act.keeps_upd {x : Upd} (h : ∀ s, f (s.apply x) = f s) : Act.Keeps f (.upd x) := h
theorem Act.keeps_seq {a b : Act} (ha : a.Keeps f) (hb : b.Keeps f) : Act.Keeps f (.seq a b) := fun s => (hb _).trans (ha s)
theorem Act.keeps_get {g : State → Act} (h : ∀ s, (g s).Keeps f) : Act.Keeps f (.get g) := fun s => h s s
theorem Act.keeps_all {l : List Act} (h : ∀ a ∈ l, a.Keeps f) : (Act.all l).Keeps f := by
  induction l with
  | nil => exact keeps_skip
  | cons a r ih => exact keeps_seq (h a (by simp)) (ih fun b hb => h b (by simp [hb]))
theorem Act.keeps_each {l : List β} {g : β → Act} (h : ∀ x ∈ l, (g x).Keeps f) : (Act.each l g).Keeps f :=
  keeps_all fun a ha => by obtain ⟨x, hx, rfl⟩ := List.mem_map.1 ha; exact h x hx
theorem Act.keeps_when {c : Bool} {a : Act} (h : c = true → a.Keeps f) : (Act.when c a).Keeps f := by
  cases c
  · exact keeps_skip
  · exact h rfl
theorem Act.keeps_ite {c : Prop} [Decidable c] {a b : Act} (ha : c → a.Keeps f) (hb : ¬c → b.Keeps f) :
    (if c then a else b).Keeps f := by split <;> [exact ha ‹_›; exact hb ‹_›]

/-- A change of the units keeps what does not look at them. -/
theorem Act.keeps_units {g : Units → Units} (h : ∀ s : State, f { s with u := g s.u } = f s) : (Act.units g).Keeps f := h

/-- A view of memory, of the register file, of the units is kept by a change of something else. -/
theorem Act.reg_keeps_u {n : EName} {i v : Nat} {g : Units → α} : (Act.reg n i v).Keeps fun s => g s.u := fun s => by simp
theorem Act.reg_keeps_store {n : EName} {i v : Nat} (m : MemSel) : (Act.reg n i v).Keeps fun s => s.store m := fun s => by
  cases m <;> simp [State.store]
theorem Act.fld_keeps_u {n : EName} {i a b c v : Nat} {g : Units → α} : (Act.fld n i a b c v).Keeps fun s => g s.u :=
  keeps_get fun _ => reg_keeps_u
theorem Act.fld_keeps_store {n : EName} {i a b c v : Nat} (m : MemSel) : (Act.fld n i a b c v).Keeps fun s => s.store m :=
  keeps_get fun _ => reg_keeps_store m
theorem Act.count_keeps_u {n : EName} {i k v : Nat} {g : Units → α} : (Act.count n i k v).Keeps fun s => g s.u :=
  keeps_get fun _ => fld_keeps_u
theorem Act.count_keeps_store {n : EName} {i k v : Nat} (m : MemSel) : (Act.count n i k v).Keeps fun s => s.store m :=
  keeps_get fun _ => fld_keeps_store m
theorem Act.units_keeps_store {g : Units → Units} (m : MemSel) : (Act.units g).Keeps fun s => s.store m := fun _ => by cases m <;> rfl
theorem Act.units_keeps_regs {g : Units → Units} {k : Tab Nat → α} : (Act.units g).Keeps fun s => k s.regs := fun _ => rfl
theorem Act.mem_keeps_u {m : MemSel} {a : Nat} {bs : PBytes} {g : Units → α} : (Act.mem m a bs).Keeps fun s => g s.u := fun s => by simp
theorem Act.mem_keeps_regs {m : MemSel} {a : Nat} {bs : PBytes} {g : Tab Nat → α} : (Act.mem m a bs).Keeps fun s => g s.regs :=
  fun s => by simp

/-- Writing one entry leaves every other as it was. -/
theorem Act.reg_keeps_rd {n k : EName} {i j v : Nat} (hi : i < n.count) (hj : j < k.count) (h : (k, j) ≠ (n, i)) :
    (Act.reg n i v).Keeps fun s => s.rd k j := fun s => s.rd_reg_other v hi hj h
theorem Act.fld_keeps_rd {n k : EName} {i j a b c v : Nat} (hi : i < n.count) (hj : j < k.count) (h : (k, j) ≠ (n, i)) :
    (Act.fld n i a b c v).Keeps fun s => s.rd k j := keeps_get fun _ => reg_keeps_rd hi hj h
theorem Act.count_keeps_rd {n k : EName} {i j m v : Nat} (hi : i < n.count) (hj : j < k.count) (h : (k, j) ≠ (n, i)) :
    (Act.count n i m v).Keeps fun s => s.rd k j := keeps_get fun _ => fld_keeps_rd hi hj h

/-- Entries read from the register file, the straps and whether the flash is readable. -/
theorem State.rd_congr {s t : State} (hr : t.regs = s.regs) (hp : t.u.pow = s.u.pow) (n : EName) (i : Nat) : t.rd n i = s.rd n i := by
  simp only [State.rd, State.noFlash, State.safeMode, hr, hp]; rfl

end Sys2Proof.Machine
end

