-- ==== Sys2Proof/Laws/Descriptor.lean ====
section
/-! SUPPORT. The descriptor rows: a descriptor that comes up clean is checked and dispatched, and nothing else happens before. -/

namespace Sys2Proof.Machine

/-! ### Clean bytes leave no trace -/

theorem pagePieces_pos (k a n : Nat) : ∀ p ∈ pagePieces k a n, 0 < p.2 := by
  induction k generalizing a n with
  | zero => simp [pagePieces]
  | succ k ih =>
    intro p hp
    simp only [pagePieces] at hp
    split at hp
    · simp at hp
    · rcases List.mem_cons.1 hp with hp | hp
      · subst hp; simp only; omega
      · exact ih _ _ p hp

theorem xlateAll_pos {s : State} {ctx : Nat} {wr : Bool} {pages : Bool → Bool} {l : List (Nat × Nat)} {r : List (MemSel × Nat × Nat)}
    (h : s.xlateAll ctx wr pages l = .ok r) (hl : ∀ p ∈ l, 0 < p.2) : ∀ p ∈ r, 0 < p.2.2 := by
  induction l generalizing r with
  | nil => simp only [State.xlateAll] at h; cases h; simp
  | cons q rest ih =>
    obtain ⟨a, n⟩ := q
    simp only [State.xlateAll] at h
    split at h
    · cases h
    · split at h
      · cases h
      · split at h
        · cases h
        · split at h
          · cases h
          · split at h
            · cases h
            · rename_i l' hl'
              cases h
              intro p hp
              rcases List.mem_cons.1 hp with hp | hp
              · subst hp; exact hl (a, n) (by simp)
              · exact ih hl' (fun p hp => hl p (by simp [hp])) p hp

theorem span_pos {s : State} {ctx dva n : Nat} {wr : Bool} {pages : Bool → Bool} {l : List (MemSel × Nat × Nat)}
    (h : s.span ctx dva n wr pages = .ok l) : ∀ p ∈ l, 0 < p.2.2 := xlateAll_pos h (pagePieces_pos _ _ _)

/-- Where no burst has errors and no pin is dead, a byte reads as it was written. -/
theorem readByte_sound {s : State} (hf : s.u.mem.faulty = false) (a : Nat) :
    s.readByte a = (s.stack.byte a, s.stack.poison.contains (a / 64)) := by
  simp only [MemU.faulty, Bool.or_eq_false_iff, Bool.not_eq_false', List.isEmpty_iff] at hf
  have : s.readBurst (a / 64) = if s.stack.poison.contains (a / 64) then .poisoned [] [] else .clean := by
    simp [State.readBurst, State.deadPins, hf.1, hf.2, tget]
  simp only [State.readByte, this]
  by_cases h : s.stack.poison.contains (a / 64) = true
  · simp only [h, if_true, List.getD_nil]; simp
  · simp only [Bool.not_eq_true] at h
    simp only [h, Bool.false_eq_true, if_false]

/-- A read of sound stack memory without poison leaves no trace. -/
theorem noteRead_clean {s : State} {a n : Nat} (hf : s.u.mem.faulty = false) (h : anyPoison (s.rdStack a n) = false) :
    (Act.noteRead .stack a n).run s = s := by
  have hnone : ((burstsAt a n).filter fun g => s.u.mem.faulty || s.stack.poison.contains g) = [] := by
    rw [List.filter_eq_nil_iff]
    intro g hg hc
    unfold burstsAt at hg
    split at hg
    · cases hg
    · rename_i hn
      obtain ⟨j, hj, rfl⟩ := List.mem_map.1 hg
      have hj' := List.mem_range.1 hj
      rw [hf, Bool.false_or] at hc
      -- a byte of burst a / 64 + j that lies in the range
      have hp : ∀ i, i < n → s.stack.poison.contains ((a + i) / 64) = false := by
        intro i hi
        simp only [anyPoison, List.any_eq_false] at h
        unfold State.rdStack at h
        split at h
        · have h2 := h ((s.store .stack).byte (a + i), (s.store .stack).poison.contains ((a + i) / MemSel.grain .stack))
            (List.mem_map.2 ⟨i, List.mem_range.2 hi, rfl⟩)
          simpa [State.store, MemSel.grain] using h2
        · have h2 := h _ (List.mem_map.2 ⟨i, List.mem_range.2 hi, rfl⟩)
          split at h2
          · simp at h2
          · rw [readByte_sound hf] at h2; simpa using h2
      have h3 := hp (max a ((a / 64 + j) * 64) - a) (by omega)
      rw [show (a + (max a ((a / 64 + j) * 64) - a)) / 64 = a / 64 + j by omega] at h3
      rw [h3] at hc; cases hc
  show (Act.each _ _).run s = s
  rw [hnone]; rfl

theorem anyPoison_append (x y : PBytes) : anyPoison (x ++ y) = (anyPoison x || anyPoison y) := by simp [anyPoison]

/-- Clean bytes of sound memory at translated places leave no trace. -/
theorem noteSpan_clean {s : State} {ctx : Nat} {l : List (MemSel × Nat × Nat)} (hf : s.u.mem.faulty = false)
    (h : anyPoison (s.rdSpan l) = false) : (Act.noteSpan ctx l).run s = s := by
  induction l with
  | nil => rfl
  | cons p r ih =>
    have hsplit : s.rdSpan (p :: r) = s.rdAny p.1 p.2.1 p.2.2 ++ s.rdSpan r := by simp [State.rdSpan]
    rw [hsplit, anyPoison_append, Bool.or_eq_false_iff] at h
    have hr := ih h.2
    simp only [Act.noteSpan] at hr ⊢
    rw [Act.run_each_cons]
    obtain ⟨m, a, n⟩ := p
    cases m with
    | host =>
      have : anyPoison (s.rdMem .host a n) = false := h.1
      simp only [Act.run_get, this, Act.when_false, Act.run_skip]
      exact hr
    | stack =>
      show (Act.each r _).run ((Act.noteRead .stack a n).run s) = s
      rw [noteRead_clean hf h.1]; exact hr
    | scratch => exact hr

/-! ### Descriptors in bytes -/

theorem leBytes_length (n v : Nat) : (leBytes n v).length = n := by
  induction n generalizing v with
  | zero => rfl
  | succ n ih => simp [leBytes, ih]

theorem leNat_leBytes (n v : Nat) : leNat (leBytes n v) = v % 2 ^ (8 * n) := by
  induction n generalizing v with
  | zero => simp [leBytes, leNat, Nat.mod_one]
  | succ n ih =>
    simp only [leBytes, leNat, ih, BitVec.toNat_ofNat, Nat.shiftRight_eq_div_pow]
    rw [show 8 * (n + 1) = 8 + 8 * n by ring, pow_add, Nat.mod_mul]; rfl

/-- The descriptor that its own bytes hold (R97). -/
theorem descOf_descBytes (d : Desc) : descOf (descBytes d) = d := by
  have hb : descBytes d = leBytes 8 d.w0.toNat ++ (leBytes 8 d.w1.toNat ++ (leBytes 8 d.w2.toNat ++ (leBytes 8 d.w3.toNat ++
      (leBytes 8 d.w4.toNat ++ (leBytes 8 d.w5.toNat ++ (leBytes 8 d.w6.toNat ++ leBytes 8 d.w7.toNat)))))) := by
    simp [descBytes, List.range, List.range.loop, Desc.w]
  have tk : ∀ (x y : List Byte), x.length = 8 → (x ++ y).take 8 = x := fun x y h => by rw [← h]; simp
  have dr : ∀ (x y : List Byte) (k : Nat), x.length = 8 → (x ++ y).drop (8 + k) = y.drop k := fun x y k h => by
    rw [← h]; simp [List.drop_append]
  have ow : ∀ w : W64, BitVec.ofNat 64 (leNat (leBytes 8 w.toNat)) = w := fun w => by
    rw [leNat_leBytes]; apply BitVec.eq_of_toNat_eq; simp; exact w.isLt
  have len : ∀ w : W64, (leBytes 8 w.toNat).length = 8 := fun w => leBytes_length 8 _
  simp only [descOf, hb, Nat.mul_zero, List.drop_zero, Nat.mul_one]
  rw [show 8 * 2 = 8 + 8 from rfl, show 8 * 3 = 8 + (8 + 8) from rfl, show 8 * 4 = 8 + (8 + (8 + 8)) from rfl,
    show 8 * 5 = 8 + (8 + (8 + (8 + 8))) from rfl, show 8 * 6 = 8 + (8 + (8 + (8 + (8 + 8)))) from rfl,
    show 8 * 7 = 8 + (8 + (8 + (8 + (8 + (8 + 8))))) from rfl]
  have dr0 : ∀ (x y : List Byte), x.length = 8 → (x ++ y).drop 8 = y := fun x y h => by rw [← h]; simp
  simp only [dr _ _ _ (len _), dr0 _ _ (len _), tk _ _ (len _)]
  have tl : ∀ w : W64, (leBytes 8 w.toNat).take 8 = leBytes 8 w.toNat := fun w => List.take_of_length_le (by rw [len])
  simp only [tl, ow]

/-! ### A descriptor comes up -/

/-- The part of a descriptor row that follows the fetch. -/
def Act.descNow (row : Desc → Bool) (core k q ctx : Nat) (d : Desc) : Act :=
  .get fun s => match s.fetched core ctx q with
    | none => .skip
    | some x => match x.flt with
      | some e => .fltFault q x.idx {} e (unread := true)
      | none =>
        if anyPoison x.bytes then .cmdFault q x.idx {} 3 0x1A 0 0 true
        else if descOf (dataOf x.bytes) ≠ d ∨ row d = false then .skip
        else match s.headerReason q x.idx d false (rulesOf d) with
          | some r => .cmdFault q x.idx d 3 r 0 0
          | none => .dispatch core k q x.idx ctx d

/-- A queue whose turn it is fetches where it has to, and goes on with what it has fetched (R386). -/
theorem desc_turn {s : State} {q k : Nat} {d : Desc} {row : Desc → Bool} (h : Turn s q k) :
    (Act.desc row q d).run s =
      (Act.descNow row (s.qCore q) k q (s.qCtx q) d).run ((Act.fetch (s.qCore q) (s.qCtx q) q).run s) := by
  have hwant : (Act.wantSlot (s.qCore q) (s.qCtx q)).run s = s := by simp [Act.wantSlot, h.slot]
  have hfen : s.fenced q = false := by
    simp only [State.fenced, List.any_eq_false, Bool.and_eq_true, beq_iff_eq, Bool.not_eq_true', not_and, Bool.not_eq_false]
    exact fun f hf ho => h.fences f hf ho
  have hgoes : s.fetchGoes q = true := by simp [State.fetchGoes, h.memory]
  simp only [Act.desc, Act.run_get, h.runs, h.fetchable, h.column, hgoes, Bool.and_self, Act.when_true, Act.run_all_cons, hwant,
    Act.run_all_nil, h.slot, h.serves, hfen, h.still, h.turn, Bool.not_true, Bool.or_self, Bool.false_eq_true, if_false, Act.run_seq]
  rfl

/-- A queue that has fetched its descriptor fetches nothing. -/
theorem fetch_held {s : State} {core ctx q : Nat} {x : Fetched} (h : s.fetched core ctx q = some x) : (Act.fetch core ctx q).run s = s := by
  simp [Act.fetch, h]

/-- A descriptor that comes up is checked and dispatched (R99); nothing happens before. -/
theorem desc_comes {s : State} {q k : Nat} {d : Desc} {row : Desc → Bool} (h : Comes s q k d) (hrow : row d = true) :
    (Act.desc row q d).run s = (match s.headerReason q (s.stream q).next d false (rulesOf d) with
      | some r => Act.cmdFault q (s.stream q).next d 3 r 0 0
      | none => Act.dispatch (s.qCore q) k q (s.stream q).next (s.qCtx q) d).run s := by
  have hb : s.fetched (s.qCore q) (s.qCtx q) q = some { q := q, idx := (s.stream q).next, bytes := (descBytes d).map fun b => (b, false) } :=
    h.bytes
  have hclean : anyPoison ((descBytes d).map fun b => (b, false)) = false := by simp [anyPoison]
  have hdata : dataOf ((descBytes d).map fun b => (b, false)) = descBytes d := by simp [dataOf, Function.comp_def]
  rw [desc_turn h.toTurn, fetch_held hb]
  simp only [Act.descNow, Act.run_get, hb, hclean, hdata, descOf_descBytes, hrow, ne_eq, not_true_eq_false, Bool.true_eq_false, or_self,
    Bool.false_eq_true, if_false]

/-- A descriptor that is ready is dispatched: executed by the sequencer, or put into its engine's queue. -/
theorem desc_ready {s : State} {q k : Nat} {d : Desc} {row : Desc → Bool} (h : Ready s q k d) (hrow : row d = true) :
    (Act.desc row q d).run s = (if s.mustWait (s.qCore q) q (s.qCtx q) d then
        Act.each (s.queueWait (s.qCore q) q (s.qCtx q) d) fun e => Act.stallBegin (stallQueue (s.qCore q) e)
      else if opClass (hOpcode d) = some 0 then Act.seqCommand (s.qCore q) k q (s.stream q).next (s.qCtx q) d
      else match (rulesOf d).check (s.asLeft (s.qCore q) q (s.qCtx q)) (s.qCore q) (s.qCtx q) d with
        | some r => .checkFailed (s.qCore q) q (s.stream q).next (s.qCtx q) d r
        | none =>
          let m := s.newCmd (s.qCore q) q (s.stream q).next (s.qCtx q) d
          .all [.inFlight (s.qCore q) k q (s.stream q).next d, .reserve m, .enqueue m, .runEngine (s.qCore q) (leadOf d),
            .when (hOpcode d == 0x84) (.get fun s => .each s.collEngs fun e => .runEngine e.1 e.2)]).run s := by
  rw [desc_comes h.toComes hrow, h.header]
  simp only [Act.dispatch, Act.run_get, h.holds, Bool.not_true, Bool.false_eq_true, if_false]
  try rfl

/-- What a ready descriptor still waits for: its own kind, or a free entry in each of its engines' queues. -/
theorem mustWait_ready {s : State} {q k : Nat} {d : Desc} (h : Ready s q k d) :
    s.mustWait (s.qCore q) q (s.qCtx q) d = if opClass (hOpcode d) = some 0 then s.seqWaits (s.qCore q) q (s.qCtx q) d
      else !(s.fullQueues (s.qCore q) d).isEmpty := by
  have hs : (hSerial d && !allRetired (s.stream q)) = false := by
    cases e : hSerial d
    · rfl
    · simp [h.serial e]
  have hb : s.heldBack (s.qCore q) q (s.qCtx q) d =
      (opClass (hOpcode d) == some 0 && s.seqWaits (s.qCore q) q (s.qCtx q) d) := by
    simp only [State.heldBack, h.saved, List.isEmpty_nil, Bool.not_true, hs, h.pred, Bool.or_self, h.holds, Bool.true_and, Bool.false_or]
  by_cases hc : opClass (hOpcode d) = some 0
  · simp [State.mustWait, State.queueWait, hb, hc]
  · have hc' : (opClass (hOpcode d) == some 0) = false := by simpa using hc
    simp [State.mustWait, State.queueWait, hb, hc', hc, h.holds]

end Sys2Proof.Machine
end

