-- ==== Sys2Proof/Laws/Engine.lean ====
section
/-! SUPPORT. Engine queues and the engine's loop: a command alone in its engines runs its piece and retires. -/

namespace Sys2Proof.Machine

/-! ### Engine queues -/

@[simp] theorem Act.run_engQ_same (core eng : Nat) (f : List Cmd → List Cmd) (s : State) :
    ((Act.engQ core eng f).run s).engQ core eng = f (s.engQ core eng) := by simp [Act.engQ, State.engQ]

/-- Another engine's queue; engine numbers are below 8. -/
theorem Act.run_engQ_other {core eng e : Nat} (f : List Cmd → List Cmd) (s : State) (h : e ≠ eng) :
    ((Act.engQ core eng f).run s).engQ core e = s.engQ core e := by
  simp only [Act.engQ, State.engQ, Act.run_core]
  exact tgetD_tmod_other _ _ _ (by omega)

/-- What changes no engine queue, of any core. -/
abbrev Act.KeepsQueues (a : Act) : Prop := a.Keeps fun s => s.u.core.engQ

theorem Act.KeepsQueues.engQ {a : Act} (h : a.KeepsQueues) (s : State) (core e : Nat) : (a.run s).engQ core e = s.engQ core e := by
  simp only [State.engQ, h s]

theorem Act.gate_keepsQueues (core ctx g : Nat) (f : Gate → Gate) : (Act.gate core ctx g f).KeepsQueues := fun _ => rfl
theorem Act.claim_keepsQueues (m : Cmd) (r : Option (Nat × Nat)) : (Act.claim m r).KeepsQueues := by cases r <;> exact fun _ => rfl
theorem Act.takePost_keepsQueues (m : Cmd) : (Act.takePost m).KeepsQueues := by
  unfold Act.takePost; split <;> exact fun _ => rfl
theorem Act.credit_keepsQueues (m : Cmd) (r : Option (Nat × Nat)) : (Act.credit m r).KeepsQueues := by cases r <;> exact fun _ => rfl
theorem Act.pieceEnd_keepsQueues (m : Cmd) : (Act.pieceEnd m).KeepsQueues :=
  keeps_seq (keeps_when fun _ => credit_keepsQueues m _) (keeps_when fun _ => by split <;> exact fun _ => rfl)
theorem Act.bundleStart_keepsQueues (m : Cmd) : (Act.bundleStart m).KeepsQueues := keeps_when fun _ => fun _ => rfl

/-- A command stands alone in every engine it takes. -/
def Alone (s : State) (m : Cmd) : Prop := ∀ e ∈ engsOf m.d, s.engQ m.core e = [m]

theorem engsOf_nodup (d : Desc) : (engsOf d).Nodup := by
  unfold engsOf
  split
  · have : ∀ n, n ≤ 4 → (List.range n ++ [4, 6]).Nodup := by decide
    refine this _ ?_
    simp only [atTes]; split <;> omega
  · simp

theorem run_each_engQ {l : List Nat} (hl : l.Nodup) (core : Nat) (f : List Cmd → List Cmd) (s : State) (e : Nat) :
    ((Act.each l fun e => .engQ core e f).run s).engQ core e = if e ∈ l then f (s.engQ core e) else s.engQ core e := by
  induction l generalizing s with
  | nil => simp
  | cons a r ih =>
    obtain ⟨ha, hr⟩ := List.nodup_cons.1 hl
    rw [Act.run_each_cons, ih hr]
    by_cases h : e = a
    · subst h; simp [ha]
    · by_cases h2 : e ∈ r
      · simp [h, h2, Act.run_engQ_other _ _ h]
      · simp [h, h2, Act.run_engQ_other _ _ h]

@[simp] theorem sameCmd_self (m : Cmd) : sameCmd m m = true := by simp [sameCmd]

/-- A command that changes stands alone still. -/
theorem front_alone {s : State} {m c : Cmd} (h : Alone s m) (hd : c.d = m.d) (hc : c.core = m.core) (hq : c.q = m.q)
    (hi : c.idx = m.idx) : Alone ((Act.front c).run s) c := by
  intro e he
  rw [Act.front, run_each_engQ (engsOf_nodup _), if_pos he, hc, h e (hd ▸ he)]
  simp [sameCmd, hq, hi]

theorem alone_keeps {s : State} {m : Cmd} {a : Act} (ha : a.KeepsQueues) (h : Alone s m) : Alone (a.run s) m := fun e he => by
  rw [ha.engQ, h e he]

theorem Alone.headsAll {s : State} {m : Cmd} (h : Alone s m) : s.headsAll m = true := by
  simp only [State.headsAll, List.all_eq_true]
  intro e he; rw [h e he]; simp

/-! ### What the loop looks at -/

/-- The device runs, and the context's state: neither is changed by what an engine does around a piece. -/
def State.live (s : State) (ctx : Nat) : Bool := s.runs && s.ctxState ctx == 1

/-- What changes no register, no power state: whether commands run is left as it was. -/
abbrev Act.KeepsLive (a : Act) : Prop := a.Keeps fun s => (s.regs, s.u.pow)

theorem Act.KeepsLive.live {a : Act} (h : a.KeepsLive) (s : State) (ctx : Nat) : (a.run s).live ctx = s.live ctx := by
  have h1 := h s
  simp only [Prod.mk.injEq] at h1
  simp only [State.live, State.runs, State.ctxState, State.rd_congr h1.1 h1.2, h1.2]

theorem Act.core_keepsLive (f : CoreU → CoreU) : (Act.core f).KeepsLive := fun _ => rfl
theorem Act.gate_keepsLive (core ctx g : Nat) (f : Gate → Gate) : (Act.gate core ctx g f).KeepsLive := fun _ => rfl
theorem Act.claim_keepsLive (m : Cmd) (r : Option (Nat × Nat)) : (Act.claim m r).KeepsLive := by cases r <;> exact fun _ => rfl
theorem Act.takePost_keepsLive (m : Cmd) : (Act.takePost m).KeepsLive := by unfold Act.takePost; split <;> exact fun _ => rfl
theorem Act.credit_keepsLive (m : Cmd) (r : Option (Nat × Nat)) : (Act.credit m r).KeepsLive := by cases r <;> exact fun _ => rfl
theorem Act.pieceEnd_keepsLive (m : Cmd) : (Act.pieceEnd m).KeepsLive :=
  keeps_seq (keeps_when fun _ => credit_keepsLive m _) (keeps_when fun _ => by split <;> exact fun _ => rfl)
theorem Act.bundleStart_keepsLive (m : Cmd) : (Act.bundleStart m).KeepsLive := keeps_when fun _ => fun _ => rfl
theorem Act.front_keepsLive (m : Cmd) : (Act.front m).KeepsLive := keeps_each fun _ _ => fun _ => rfl

/-! ### The loop, one turn at a time -/

/-- The engine sees its front command alone in its engines, live, and not held back by a rotation of its slot. -/
structure Sees (x : State) (core eng : Nat) (m : Cmd) : Prop where
  alone : Alone x m
  here : eng ∈ engsOf m.d
  core : m.core = core
  live : x.live m.ctx = true
  still : x.suspended m = false

section
variable {x : State} {core eng n : Nat} {m : Cmd}

/-- What the loop does with a front command that it sees. -/
theorem engine_sees (h : Sees x core eng m) : (Act.engine core eng (n + 1)).run x =
    (if !m.waited then
        if x.canClaim m (hWait m.d) then
          Act.all [.claim m (hWait m.d), .front { (runOf m.d).latch x m with waited := true }, .engine core eng n]
        else .skip
      else match (runOf m.d).prep x m with
        | .hold => .skip
        | .abort => .seq (.abortCmd m) (.each (x.rerunOf core m.d) fun e => .engine core e n)
        | .bad st rs => .cmdFault m.q m.idx m.d st rs 0 0
        | .over c => .all [.pieceEnd c, .bundleStart c, .retire c, .each (x.rerunOf core m.d) fun e => .engine core e n]
        | .ready c =>
          if !c.streamed then
            if x.canClaim c (hStream c.d) then
              .all [.claim c (hStream c.d), .front { c with streamed := true }, .engine core eng n]
            else .front c
          else if !c.posted then
            if x.canPost c then .all [.takePost c, .front { c with posted := true }, .engine core eng n] else .front c
          else
            let c := { c with started := true, yielded := false }
            let collectives : Act := .when (hOpcode c.d == 0x84) (.each x.collEngs fun e => .engine e.1 e.2 n)
            .all [.front c, .bundleStart c,
              (runOf c.d).piece c fun
                | .done c2 => .all [.pieceEnd c2, .front { c2 with streamed := false, posted := false, asked := false }, collectives,
                    .engine core eng n]
                | .sent c2 readsDone => .all [.when readsDone (.streamBack c2),
                    .front { c2 with streamed := c2.streamed && !readsDone }, collectives, .engine core eng n]
                | .fault st rs a b => .cmdFault c.q c.idx c.d st rs a b
                | .flt e br => .seq (.noteFlt c.ctx e) (.fltFault c.q c.idx c.d e br)
                | .wait => .get fun s => .front { c with asked := s.loopback }]).run x := by
  obtain rfl := h.core
  have hl := h.live
  have hq := h.alone eng h.here
  simp only [State.live, Bool.and_eq_true, beq_iff_eq] at hl
  simp only [Act.engine, Act.run_get, hq, hl.1, hl.2, h.alone.headsAll, h.still, Bool.not_true, bne_self_eq_false,
    Bool.or_self, Bool.false_eq_true, if_false]
  try rfl

/-- The engine takes its front command up and claims what it waits for. -/
theorem engine_wait (h : Sees x core eng m) (hw : m.waited = false) (hg : x.canClaim m (hWait m.d) = true) :
    (Act.engine core eng (n + 1)).run x =
      (Act.all [.claim m (hWait m.d), .front { (runOf m.d).latch x m with waited := true }, .engine core eng n]).run x := by
  rw [engine_sees h]; simp only [hw, hg, Bool.not_false, if_true]

/-- The front command claims its STREAM units for its next piece. -/
theorem engine_stream {c : Cmd} (h : Sees x core eng m) (hw : m.waited = true) (hp : (runOf m.d).prep x m = .ready c)
    (hs : c.streamed = false) (hg : x.canClaim c (hStream c.d) = true) :
    (Act.engine core eng (n + 1)).run x =
      (Act.all [.claim c (hStream c.d), .front { c with streamed := true }, .engine core eng n]).run x := by
  rw [engine_sees h]; simp only [hw, hp, hs, hg, Bool.not_true, Bool.not_false, Bool.false_eq_true, if_false, if_true]

/-- The front command takes its POST credits for its next piece. -/
theorem engine_post {c : Cmd} (h : Sees x core eng m) (hw : m.waited = true) (hp : (runOf m.d).prep x m = .ready c)
    (hs : c.streamed = true) (ho : c.posted = false) (hg : x.canPost c = true) :
    (Act.engine core eng (n + 1)).run x = (Act.all [.takePost c, .front { c with posted := true }, .engine core eng n]).run x := by
  rw [engine_sees h]; simp only [hw, hp, hs, ho, hg, Bool.not_true, Bool.not_false, Bool.false_eq_true, if_false, if_true]

/-- The front command runs a piece to its end. -/
theorem engine_piece {c c2 : Cmd} {y : State} (h : Sees x core eng m) (hw : m.waited = true) (hp : (runOf m.d).prep x m = .ready c)
    (hs : c.streamed = true) (ho : c.posted = true) (hco : (hOpcode c.d == 0x84) = false)
    (hr : ∀ k, ((runOf c.d).piece { c with started := true, yielded := false } k).run
      ((Act.all [.front { c with started := true, yielded := false }, .bundleStart { c with started := true, yielded := false }]).run x) =
        (k (.done c2)).run y) :
    (Act.engine core eng (n + 1)).run x =
      (Act.all [.pieceEnd c2, .front { c2 with streamed := false, posted := false, asked := false }, .engine core eng n]).run y := by
  rw [engine_sees h]
  simp only [hw, hp, hs, ho, Bool.not_true, Bool.false_eq_true, if_false]
  simp only [Act.run_all_cons, Act.run_all_nil, hs, ho] at hr ⊢
  rw [hr]
  simp only [Act.run_all_cons, Act.run_all_nil, hco, Act.when_false, Act.run_skip]

/-- The front command sends what its piece asks for and goes on; with its reads done its STREAM units are back (R108). -/
theorem engine_sent {c c2 : Cmd} {y : State} {rd : Bool} (h : Sees x core eng m) (hw : m.waited = true)
    (hp : (runOf m.d).prep x m = .ready c) (hs : c.streamed = true) (ho : c.posted = true) (hco : (hOpcode c.d == 0x84) = false)
    (hr : ∀ k, ((runOf c.d).piece { c with started := true, yielded := false } k).run
      ((Act.all [.front { c with started := true, yielded := false }, .bundleStart { c with started := true, yielded := false }]).run x) =
        (k (.sent c2 rd)).run y) :
    (Act.engine core eng (n + 1)).run x =
      (Act.all [.when rd (.streamBack c2), .front { c2 with streamed := c2.streamed && !rd }, .engine core eng n]).run y := by
  rw [engine_sees h]
  simp only [hw, hp, hs, ho, Bool.not_true, Bool.false_eq_true, if_false]
  simp only [Act.run_all_cons, Act.run_all_nil, hs, ho] at hr ⊢
  rw [hr]
  simp only [Act.run_all_cons, Act.run_all_nil, hco, Act.when_false, Act.run_skip]

/-- The front command has no further piece and retires. -/
theorem engine_over {c : Cmd} (h : Sees x core eng m) (hw : m.waited = true) (hp : (runOf m.d).prep x m = .over c) :
    (Act.engine core eng (n + 1)).run x =
      (Act.all [.pieceEnd c, .bundleStart c, .retire c, .each (x.rerunOf core m.d) fun e => .engine core e n]).run x := by
  rw [engine_sees h]; simp only [hw, hp, Bool.not_true, Bool.false_eq_true, if_false]

/-- An engine with no command does nothing. -/
theorem engine_empty (h : x.engQ core eng = []) : (Act.engine core eng n).run x = x := by
  cases n with
  | zero => rfl
  | succ n => simp only [Act.engine, Act.run_get, h, Act.run_skip]

end

end Sys2Proof.Machine
end

