-- ==== Sys2Proof/Laws/Field.lean ====
section
/-! SUPPORT. Fields of entries: a field reads what was written to it, and a field apart from it reads as before. -/

namespace Sys2Proof.Machine

theorem bits_testBit (v lo len j : Nat) : (bits v lo len).testBit j = (decide (j < len) && v.testBit (lo + j)) := by
  simp [bits, Nat.testBit_mod_two_pow, Nat.testBit_shiftRight]

theorem setBits_testBit (v lo len x j : Nat) :
    (setBits v lo len x).testBit j = if lo ≤ j ∧ j < lo + len then x.testBit (j - lo) else v.testBit j := by
  simp only [setBits, Nat.testBit_xor, Nat.testBit_shiftLeft, bits_testBit, Nat.testBit_mod_two_pow]
  by_cases h1 : lo ≤ j
  · by_cases h2 : j < lo + len
    · have h3 : j - lo < len := by omega
      have h4 : lo + (j - lo) = j := by omega
      simp [h1, h2, h3, h4]
    · have h3 : ¬ j - lo < len := by omega
      simp [h2, h3]
  · simp [h1]

/-- A field reads what was written to it. -/
@[simp] theorem bits_setBits (v lo len x : Nat) : bits (setBits v lo len x) lo len = x % 2 ^ len := by
  apply Nat.eq_of_testBit_eq
  intro j
  simp only [bits_testBit, setBits_testBit, Nat.testBit_mod_two_pow]
  by_cases h : j < len
  · have h1 : lo ≤ lo + j ∧ lo + j < lo + len := by omega
    simp [h, h1]
  · simp [h]

/-- A field apart from the one written reads as before. -/
theorem bits_setBits_apart {v lo len x lo' len' : Nat} (h : lo' + len' ≤ lo ∨ lo + len ≤ lo') :
    bits (setBits v lo len x) lo' len' = bits v lo' len' := by
  apply Nat.eq_of_testBit_eq
  intro j
  simp only [bits_testBit, setBits_testBit]
  by_cases hj : j < len'
  · have h1 : ¬(lo ≤ lo' + j ∧ lo' + j < lo + len) := by omega
    simp [hj, h1]
  · simp [hj]

/-- A field inside a value's size does not see the value cut to it. -/
theorem bits_mod {v n lo len : Nat} (h : lo + len ≤ n) : bits (v % 2 ^ n) lo len = bits v lo len := by
  apply Nat.eq_of_testBit_eq
  intro j
  simp only [bits_testBit, Nat.testBit_mod_two_pow]
  by_cases hj : j < len
  · have : lo + j < n := by omega
    simp [this]
  · simp [hj]

theorem bits_lt (v lo len : Nat) : bits v lo len < 2 ^ len := Nat.mod_lt _ (Nat.two_pow_pos _)

/-- The entry can be written: it exists, is not FIXED, and is not a STORE entry that reads its default now (R431, R439, R440). -/
structure Settable (s : State) (n : EName) (i : Nat) : Prop where
  count : i < n.count
  fixed : n.info.pers ≠ .fixed
  store : n.info.pers = .store → s.noFlash = false ∧ s.safeMode = false

theorem State.rd_reg (s : State) {n : EName} {i : Nat} (v : Nat) (h : Settable s n i) : ((Act.reg n i v).run s).rd n i = n.fit v :=
  s.rd_reg_same v h.count h.fixed h.store

/-- The field written reads the value. -/
theorem State.fld_fld (s : State) {n : EName} {i off lo len : Nat} (v : Nat) (h : Settable s n i) (hs : off * 8 + lo + len ≤ 8 * n.info.size) :
    ((Act.fld n i off lo len v).run s).fld n i off lo len = v % 2 ^ len := by
  show bits (((Act.reg n i _).run s).rd n i) _ _ = _
  rw [s.rd_reg _ h, EName.fit, bits_mod (by omega), bits_setBits]

/-- A field apart from the one written reads as before. -/
theorem State.fld_fld_apart (s : State) {n : EName} {i off lo len off' lo' len' : Nat} (v : Nat) (h : Settable s n i)
    (hs : off' * 8 + lo' + len' ≤ 8 * n.info.size)
    (ha : off' * 8 + lo' + len' ≤ off * 8 + lo ∨ off * 8 + lo + len ≤ off' * 8 + lo') :
    ((Act.fld n i off lo len v).run s).fld n i off' lo' len' = s.fld n i off' lo' len' := by
  show bits (((Act.reg n i _).run s).rd n i) _ _ = bits (s.rd n i) _ _
  rw [s.rd_reg _ h, EName.fit, bits_mod (by omega), bits_setBits_apart (by omega)]

/-- A counter wraps at its width (R38, R64). -/
theorem State.fld_countFld (s : State) {n : EName} {i off lo len k : Nat} (h : Settable s n i) (hs : off * 8 + lo + len ≤ 8 * n.info.size) :
    ((Act.countFld n i off lo len k).run s).fld n i off lo len = (s.fld n i off lo len + k) % 2 ^ len := s.fld_fld _ h hs

/-- Counter `k` of an entry of 64-bit counters wraps (R64). -/
theorem State.cnt_count (s : State) {n : EName} {i k b : Nat} (h : Settable s n i) (hs : 8 * k + 8 ≤ n.info.size) :
    ((Act.count n i k b).run s).cnt n i k = (s.cnt n i k + b) % 2 ^ 64 := s.fld_countFld h (by omega)

end Sys2Proof.Machine
end

