-- ==== Sys2Proof/WellFormed.lean ====
section
/-! DEFINITION. Which commands can come: what a row's operands are bound by beyond their types. A descriptor carries its row's opcode,
a message its row's type, a request its row's operation, and lengths and indices lie where the spec lays them. -/

namespace Sys2Proof

open Sys2Proof.Machine

/-- The descriptor carries the opcode of its row (R98). -/
def opIs (n : Nat) (d : Desc) : Bool := hOpcode d == n

/-- The message is of its row's type, and its data fits one message (R307, R308). -/
def msgIs (n : Nat) (m : Msg) : Bool := m.type.toNat == n && m.data.length ≤ 4048

/-- The message is a MOLT_SEGMENT message of its row's kind (R356). -/
def moltIs (kind : Nat) (m : Msg) : Bool := msgIs 10 m && bits m.aux.toNat 0 4 == kind

/-- The request has its row's operation and as many data bytes as a PDU holds (R444). -/
def pduIs (n : Nat) (p : Pdu) : Bool := pduOp p == n && p.data.length ≤ 224

/-- A flit has 240 payload bytes (R295). -/
def flitWhole (f : Flit) : Bool := f.payload.length == 240

/-- A temperature in degrees Celsius that eight bits hold (R278, R282). -/
def tempOk (t : Int) : Bool := -128 ≤ t && t ≤ 127

/-- The command is one that can come. -/
def Instr.wf : Instr → Bool
  | .nop _ d => opIs 0x00 d
  | .jobBegin _ d => opIs 0x01 d
  | .jobEnd _ d => opIs 0x02 d
  | .fence _ d => opIs 0x03 d
  | .gateSet _ d => opIs 0x04 d
  | .flagSet _ d => opIs 0x05 d
  | .attnFwd _ d => opIs 0x10 d
  | .attnBwd _ d => opIs 0x11 d
  | .attnVerify _ d => opIs 0x12 d
  | .teBegin _ d => opIs 0x20 d
  | .teAccumulate _ d => opIs 0x21 d
  | .teEnd _ d => opIs 0x22 d
  | .veMap _ d => opIs 0x40 d
  | .veReduce _ d => opIs 0x41 d
  | .veSample _ d => opIs 0x42 d
  | .veFlag _ d => opIs 0x43 d
  | .vePepperSave _ d => opIs 0x44 d
  | .vePepperLoad _ d => opIs 0x45 d
  | .veTopkGate _ d => opIs 0x48 d
  | .veUpdate _ d => opIs 0x4C d
  | .dmCopy _ d => opIs 0x80 d && dfld d 0x10 0 4 != 8
  | .accumW40 _ d => opIs 0x80 d && dfld d 0x10 0 4 == 8
  | .dmCollective _ d => opIs 0x84 d
  | .dmDispatch _ d => opIs 0x85 d
  | .dmScreePush _ d => opIs 0x86 d
  | .dmScreePop _ d => opIs 0x87 d
  | .dmMoltSegment _ d => opIs 0x88 d
  | .dmDigest _ d => opIs 0x89 d
  | .dmPut _ d => opIs 0x8A d
  | .dmGet _ d => opIs 0x8B d
  | .dmAtomicAdd _ d => opIs 0x8C d
  | .reservedOpcode _ d => opClass (hOpcode d) == none
  | .admitReq _ d => opIs 1 d
  | .cancel _ d => opIs 2 d
  | .close _ d => opIs 3 d
  | .reservedRequest _ d => !([1, 2, 3].contains (hOpcode d))
  | .patrolScrub stack channel location _ errs => location < 87382 && (channel.val < 512 || location < 87381) && stack.val < 20 &&
    errs.bursts.all fun e => e.1 < 20 * 2 ^ 28
  | .poisonReport dpa => dpa < 20 * 2 ^ 34
  | .stackTempSample _ t0 t1 t2 t3 => tempOk t0 && tempOk t1 && tempOk t2 && tempOk t3
  | .dieTempSample _ t => tempOk t
  | .loopbackDone results => results.all fun r => r.1 < 1536
  | .dataFlit _ f => flitWhole f
  | .retry _ f => flitWhole f
  | .idleFlit _ f => flitWhole f
  | .messageRoute m => m.data.length ≤ 4048
  | .put m => msgIs 0 m
  | .getReq m => msgIs 1 m
  | .getResp m => msgIs 2 m
  | .atomicAdd m => msgIs 3 m
  | .atomicResp m => msgIs 4 m
  | .ack m => msgIs 5 m
  | .nack m => msgIs 6 m
  | .noticeOnly m => msgIs 7 m
  | .coll m => msgIs 8 m
  | .lbr m => msgIs 9 m
  | .kwehus m => msgIs 12 m
  | .openFlow m => msgIs 13 m
  | .flowAbort m => msgIs 14 m
  | .moltData m => moltIs 0 m
  | .segEnd m => moltIs 1 m
  | .srcDone m => moltIs 2 m
  | .refetch m => moltIs 3 m
  | .moltReady m => moltIs 4 m
  | .moltCommit m => moltIs 5 m
  | .moltAbort m => moltIs 6 m
  | .moltFail m => moltIs 7 m
  | .repairReq m => moltIs 8 m
  | .segmentMissingTimeout seg => seg < 2 ^ 32
  | .apertureWrite _ data _ => 1 ≤ data.length && data.length ≤ 4096
  | .windowSlotWrite _ _ data => 1 ≤ data.length && data.length ≤ 4096
  | .mbxMsgWrite _ _ off data => off.val + data.length ≤ 256
  | .msixUnmask fn w => w.vec.val < vecCount fn
  | .admissionCall _ order _ => order.length ≤ 4096 && decide order.Nodup
  | .schedulingCall _ _ choice => -1 ≤ choice
  | .read _ p => pduIs opRead p
  | .write _ p => pduIs opWrite p
  | .info _ p => pduIs opInfo p
  | .next _ p => pduIs opNext p
  | .entryWrite _ _ _ data => data.length ≤ 16384
  | .fwChunk _ data => data.length == 16384
  | .spdmUnsupportedRequest _ code => !([0x84, 0xE1, 0xE3, 0x81, 0x82, 0x83, 0xE0, 0xFF].contains code.toNat)
  | .governorTick p a mv10 _ => p < 2 ^ 16 && a < 2 ^ 16 && mv10 < 2 ^ 32
  | .memoryTrainingDone failed => decide failed.Nodup
  | .commandComplete _ | .gateClaim _ _ _ | .teYield _ _ | .phaseGateUnit _ | .monClear _ _ | .readIndexWrite _ _ _
  | .telemRingConfig _ _ _ _ | .accSplitWrite _ _ | .pepperSeedWrite _ _ _ | .pepperReadyDone _ | .sessionOpen _ _ _
  | .sessionCheckDone _ | .sessionFree _ _ | .stepReadWrite _ _ _ | .stepCommit _ | .stepRelease _ | .screeDiscard _ _
  | .splitGradWrite _ _ _ | .lbrStreamWrite _ _ _ | .lbrDeadline _ | .loopbackStart _ _ | .portEnable _ _ | .cmisReadDone _ _
  | .holdoffExpire _ | .lanesLocked _ | .trainingTimeout _ | .creditInit _ | .creditInitTimeout _ | .ident _ _ _ _ | .identResend _
  | .retryResend _ | .laneLockLost _ _ | .signalLoss _ | .cablePlugged _ | .portReset _ _ | .peerExpectWrite _ _ _
  | .messageAgeDiscard _ | .noticePost _ | .ackTimer _ | .nackTimer _ | .retransmitTimeout _ | .openResend _ | .flowCfgWrite _ _ _
  | .collGroupWrite _ _ _ | .moltStart _ _ | .moltCheckDone | .moltSegmentIssue | .moltReadySend | .moltDeadline
  | .moltInDoubtTimeout | .moltResolveCommit _ | .moltResolveAbort _ | .versionRelease _ _ _ | .scrubPass | .repairAttempt _ _ _
  | .ptRootWrite _ _ _ | .ctxReset _ _ _ | .ptInvalidate _ _ _ | .tidOwnerWrite _ _ _ | .queueCfgWrite _ _ _ | .ctxAdminWrite _ _ _
  | .teardownEnd _ | .sliceEnd _ _ | .earlyYield _ _ | .rotation _ _ _ | .bundleLong _ | .bundleOverrun _ | .cmdWatchdog _ _
  | .functionLevelReset _ | .doorbell _ _ _ | .apertureRead _ _ | .atsInvalidation _ | .mbxClaim _ _ | .mbxUnclaim _ _
  | .mbxPost _ _ | .mbxRelease _ _ | .mbxWithdraw _ _ | .dbSet _ _ _ | .doorbellClear _ _ _ | .hostEnableWrite _ _ _
  | .mbxTimeout _ | .claimNormal _ | .claimFast _ | .eoi _ _ | .swiSet _ | .swiClear _ | .fastInterrupt _ | .normalInterrupt _
  | .mret _ | .policyLoad _ _ _ | .noticeCall _ _ | .policyEcall _ _ _ _ | .policyCallTimeout _ | .accessPortRead _
  | .accessPortWrite _ | .accessPortInfo _ | .accessPortNext _ | .cfgLockTake _ | .cfgLockRelease _ | .cfgLeaseLapse
  | .stagingLapse _ | .storeFactory _ _ | .setEndpointId _ | .getEndpointId | .getMctpVersionSupport _ | .getMessageTypeSupport
  | .getVendorDefinedMsgSupport _ | .getVersion _ | .getCapabilities _ | .negotiateAlgorithms _ _ _ _ _ | .getDigests _
  | .getCertificate _ _ _ _ | .challenge _ _ _ | .getMeasurements _ _ _ _ | .respondIfReady _ _ | .stateReqWake _ | .stateReqNap _
  | .stateReqDeep _ | .napEntryDone | .napWakeEvent _ | .memoryWakeDone | .columnClockGate _ | .columnPowerOff _ | .columnWake _
  | .clockChange _ | .thermalCeilingStep _ | .powerOn _ | .powerLoss | .inputOvervoltage | .perstAssert | .perstDeassert _
  | .warmReset _ | .saddleRestart _ | .firmwareWatchdog | .bootVerify | .deviceReady | .fwUpdate _ _ | .fwSvnCommit _ _
  | .keySlotWrite _ _ _ | .enrollFreeze _ _ | .debugUnlock _ _ | .debugRelock _ _ | .errwinDrain _ | .errwinClear _ _
  | .evtRingWrite _ _ _ | .fatalEnter _ _ | .cairnComplete | .cairnTimeout | .serviceButtonPress | .drainComplete | .drainTimeout
  | .drainPortsDisable | .serviceCancel _ _ | .latchOpen | .handlePadTouch | .portLightTimeout _ | .signalDetect _ | .pcieHotReset
  | .pcieLinkChange _ | .pcieConfigRequest _ | .flrComplete _ | .saddleRestartDone | .fwUpdateDone _ | .storeWriteCommitted
  | .windowSlotRead _ _ | .machineTimerInterrupt _ | .scrubSegmentCheck _ _ _ | .partitionTokenRefill _ _ _ _ | .kwehusResend _ => true

end Sys2Proof
end

