-- ==== Sys2Proof/Tests/Slice0.lean ====
section
/-! SUPPORT. Small states, for every statement with hypotheses a witness that meets them, the worked examples of the spec, and the refusals
of `Instr.wf`. -/

set_option Elab.async false

open Sys2Proof Sys2Proof.Machine

/-- An entry is given a value. -/
def Probe.reg (n : EName) (i v : Nat) (s : State) : State := s.apply (.reg n i v)

/-- Bytes are put into host memory, little-endian. -/
def Probe.host (a n v : Nat) (s : State) : State := s.apply (.mem .host a (cleanBytes n v))

/-- Bytes are put into stack memory. -/
def Probe.stack (a n v : Nat) (s : State) : State := s.apply (.mem .stack a (cleanBytes n v))

/-- A device that is READY and awake. -/
def Probe.live : State :=
  { State.reset with u := { now := 1000, pow := { power := true, latched := true, trained := true, memOn := true, boot := .running,
                                                  linkUp := true, perstSeen := true, ready := true } } }

/-- Context 1 is READY; its addresses lead into host memory at 0x4000_0000 through a table at 0x30_0000_0000. It holds slot 1 of core
0. -/
def Probe.ctx1 : State :=
  let s := Probe.reg .ctxState 1 1 (Probe.reg .ptRoot 1 0x3000000000
    (Probe.stack 0x3000000000 8 0x3000001001 (Probe.stack 0x3000001000 8 0x40000017 Probe.live)))
  { s with u := { s.u with core := { s.u.core with slots := [(1, { holder := some 1 })] } } }

/-- Queue 5 of context 1 on core 0: 16 descriptors at 0x1000, records at 0x2000, HEAD at 0x3000. -/
def Probe.queue : State :=
  Probe.reg .queueCfg 5 (1 + 2 ^ 8 + 4 * 2 ^ 32 + 0x1000 * 2 ^ 64 + 0x2000 * 2 ^ 128 + 0x3000 * 2 ^ 192) Probe.ctx1

/-- One descriptor waits in queue 5, fetched. -/
def Probe.desc (d : Desc) : State :=
  let s := (Probe.reg .queueState 5 (2 ^ 32) Probe.queue).apply (.mem .host 0x40001000 ((descBytes d).map fun b => (b, false)))
  { s with u := { s.u with core := { s.u.core with
      cc := [(1, { fetch := [{ q := 5, idx := 0, bytes := (descBytes d).map fun b => (b, false) }] })] } } }

/-- All that `Comes` asks, as one check. -/
def Probe.comesOk (s : State) (q k : Nat) (d : Desc) : Bool :=
  s.runs && s.fetchable q 0 && s.columnOn (s.qCore q) && !s.loopback && s.slotOf (s.qCore q) (s.qCtx q) == some k &&
    s.serves (s.qCore q) k (s.qCtx q) q && !s.rotating (s.qCore q) k && s.turn (s.qCore q) k &&
    (s.stream q).fly.all (fun f => hOpcode f.d != 3 || f.done) &&
    decide (s.fetched (s.qCore q) (s.qCtx q) q = some { q := q, idx := (s.stream q).next, bytes := (descBytes d).map fun b => (b, false) })

theorem Probe.comes_of {s : State} {q k : Nat} {d : Desc} (h : Probe.comesOk s q k d = true) : Comes s q k d := by
  simp only [Probe.comesOk, Bool.and_eq_true, decide_eq_true_eq, beq_iff_eq, List.all_eq_true, Bool.or_eq_true, bne_iff_ne,
    Bool.not_eq_true', ne_eq] at h
  obtain ⟨⟨⟨⟨⟨⟨⟨⟨⟨h1, h2⟩, h3⟩, h4⟩, h5⟩, h6⟩, h7⟩, h8⟩, h9⟩, h10⟩ := h
  exact ⟨⟨h1, h2, h3, h4, h5, h6, h7, h8, fun f hf e => (h9 f hf).resolve_left (fun n => n e)⟩, h10⟩

/-- All that `Passes` asks. -/
def Probe.passesOk (s : State) (q k : Nat) (d : Desc) : Bool :=
  Probe.comesOk s q k d && s.headerReason q (s.stream q).next d false (rulesOf d) == none &&
    (!hSerial d || allRetired (s.stream q)) && !predWaits (s.stream q) d && (s.ctxCore (s.qCore q) (s.qCtx q)).saved.isEmpty

theorem Probe.passes_of {s : State} {q k : Nat} {d : Desc} (h : Probe.passesOk s q k d = true) : Passes s q k d := by
  simp only [Probe.passesOk, Bool.and_eq_true, beq_iff_eq, Bool.or_eq_true, Bool.not_eq_true', List.isEmpty_iff] at h
  obtain ⟨⟨⟨⟨h1, h2⟩, h3⟩, h4⟩, h6⟩ := h
  exact ⟨Probe.comes_of h1, h2, fun e => h3.resolve_left (by simp [e]), h4, h6⟩

/-- All that `Ready` asks. -/
def Probe.readyOk (s : State) (q k : Nat) (d : Desc) : Bool := Probe.passesOk s q k d && s.predOk (s.qCore q) (s.qCtx q) d

theorem Probe.ready_of {s : State} {q k : Nat} {d : Desc} (h : Probe.readyOk s q k d = true) : Ready s q k d := by
  simp only [Probe.readyOk, Bool.and_eq_true] at h
  exact ⟨Probe.passes_of h.1, h.2⟩

/-- All that `Lone` and `Supplied` ask, for a number of pieces. -/
def Probe.loneOk (s : State) (q k : Nat) (d : Desc) (n : Nat) : Bool :=
  Probe.readyOk s q k d && opClass (hOpcode d) != some 0 && (engsOf d ++ s.rerunOf (s.qCore q) d).all (fun e => (s.engQ (s.qCore q) e).isEmpty) &&
    (s.reentering (s.qCore q)).isEmpty &&
    (rulesOf d).check (s.asLeft (s.qCore q) q (s.qCtx q)) (s.qCore q) (s.qCtx q) d == none &&
    (match hWait d with | some r => r.2 ≤ (s.gate (s.qCore q) (s.qCtx q) r.1).filled | none => true) &&
    (match hStream d with | some r => n * r.2 ≤ (s.gate (s.qCore q) (s.qCtx q) r.1).filled | none => true) &&
    (match hPost d with | some r => n * r.2 ≤ (s.gate (s.qCore q) (s.qCtx q) r.1).credits | none => true)

theorem Probe.lone_of {s : State} {q k : Nat} {d : Desc} {n : Nat} (h : Probe.loneOk s q k d n = true) :
    Lone s q k d ∧ Supplied s q d n := by
  simp only [Probe.loneOk, Bool.and_eq_true, beq_iff_eq, bne_iff_ne, ne_eq, List.all_eq_true, List.isEmpty_iff] at h
  obtain ⟨⟨⟨⟨⟨⟨⟨h1, h2⟩, h3⟩, h8⟩, h4⟩, h5⟩, h6⟩, h7⟩ := h
  refine ⟨⟨Probe.ready_of h1, h2, h3, h8, h4⟩, ⟨fun r e => ?_, fun r e => ?_, fun r e => ?_⟩⟩
  · simpa [e] using h5
  · simpa [e] using h6
  · simpa [e] using h7

/-- All that the invariant asks, as one check. -/
def Probe.storeOk (m : MemSel) (x : Store) : Bool :=
  decide (Memory.wf x.bytes) && x.bytes.all (fun c => c.1 < m.size) && decide (x.poison.Pairwise (· < ·)) &&
    x.poison.all fun g => g * m.grain < m.size

/-- The listed register is one that a write can have left. -/
def Probe.regOk (p : Nat × Nat) : Bool :=
  match findKey p.1 with
  | some (n, i) => i < n.count && n.info.pers != .fixed && p.1 == n.key i && p.2 < 2 ^ (8 * n.info.size)
  | none => false

def Probe.invOk (s : State) : Bool :=
  Probe.storeOk .stack s.stack && Probe.storeOk .host s.host && Probe.storeOk .scratch s.scratch && decide (Rising s.regs) &&
    s.regs.all Probe.regOk

theorem Probe.store_of {m : MemSel} {x : Store} (h : Probe.storeOk m x = true) : Store.Wf m x := by
  simp only [Probe.storeOk, Bool.and_eq_true, decide_eq_true_eq, List.all_eq_true] at h
  exact ⟨h.1.1.1, h.1.1.2, h.1.2, h.2⟩

theorem Probe.inv_of {s : State} (h : Probe.invOk s = true) : s.Inv := by
  simp only [Probe.invOk, Bool.and_eq_true, decide_eq_true_eq, List.all_eq_true] at h
  obtain ⟨⟨⟨⟨h1, h2⟩, h3⟩, h4⟩, h5⟩ := h
  refine ⟨Probe.store_of h1, Probe.store_of h2, Probe.store_of h3, h4, fun p hp => ?_⟩
  have := h5 p hp
  unfold Probe.regOk at this
  split at this
  · rename_i n i _
    simp only [Bool.and_eq_true, decide_eq_true_eq, bne_iff_ne, ne_eq, beq_iff_eq] at this
    exact ⟨n, i, this.1.1.1, this.1.1.2, this.1.2, this.2⟩
  · cases this

/-- Bytes are put into the scratch of core 0. -/
def Probe.scr (a n v : Nat) (s : State) : State := s.apply (.mem .scratch a (cleanBytes n v))

/-- Context 1 holds something else on core 0. -/
def Probe.withCore (f : CtxCore → CtxCore) (s : State) : State :=
  { s with u := { s.u with core := { s.u.core with cc := [(1, f (s.ctxCore 0 1))] } } }

/-- Address 0x4000_0000 of context 1 is a BANK page in core 0's share. -/
def Probe.bankPage (s : State) : State :=
  Probe.stack 0x3000001008 8 0x3000002001 (Probe.stack 0x3000002000 8 0x3000003001 (Probe.stack 0x3000003000 8 (s.u.mem.bankBase 0 + 0xF) s))

/-- Flow `f` of context 1, with a class, in a state: its peer is flow 9 of device 7. -/
def Probe.flow (f cls st : Nat) (s : State) : State :=
  Probe.reg .flowState f st (Probe.reg .flowCfg f (1 + cls * 2 + 2 ^ 8 + 7 * 2 ^ 32 + 9 * 2 ^ 48) s)

/-- The core unit, the context unit and so on hold something else. -/
def Probe.coreU (f : CoreU → CoreU) (s : State) : State := { s with u := { s.u with core := f s.u.core } }

/-- The host's physical function holds the CONFIG lock. -/
def Probe.held (s : State) : State := { s with u := { s.u with dict := { s.u.dict with holder := some .hostPf } } }

/-- A command of queue 5 and context 1 on core 0. -/
def Probe.cmd (d : Desc) : Cmd := { q := 5, idx := 0, d := d, ctx := 1, core := 0 }

/-- The host unit holds something else; so for the power unit. -/
def Probe.hostU (f : HostU → HostU) (s : State) : State := { s with u := { s.u with host := f s.u.host } }
def Probe.pow (f : PowU → PowU) (s : State) : State := { s with u := { s.u with pow := f s.u.pow } }

/-- A request of the dictionary by the host's physical function. -/
def Probe.pdu (op index sub off len : Nat) (data : List Byte := []) : Pdu :=
  { w0 := BitVec.ofNat 64 (1 + op * 2 ^ 8 + 9 * 2 ^ 16 + index * 2 ^ 32 + sub * 2 ^ 48 + (if op = 2 then 2 ^ 56 else 0)),
    w1 := BitVec.ofNat 64 (off + len * 2 ^ 32), data := data }

theorem Probe.serves_of {s : State} {p : Pdu} {op : Nat} (h : (s.pathOpen .hostPf && s.fwRuns && pduGood p && pduOp p == op &&
    ((s.did .hostPf).stKey == none || (s.did .hostPf).stKey == some (pduKey p)) && decide (pduKey p < 0xF00000) &&
    s.mailOf .hostPf p == none && s.u.host.mail.isEmpty) = true) : Serves s .hostPf p op := by
  simp only [Bool.and_eq_true, Bool.or_eq_true, beq_iff_eq, decide_eq_true_eq, List.isEmpty_iff] at h
  obtain ⟨⟨⟨⟨⟨⟨⟨a, b⟩, c⟩, d⟩, e⟩, f⟩, g⟩, m⟩ := h
  exact ⟨a, b, c, d, e, fun g => absurd g (by omega), g, fun g => absurd g (by decide), fun x hx => by rw [m] at hx; cases hx⟩

/-! ### Witnesses: the queue and the whole machine -/

theorem witness_IdleStepIsOneReferenceCycle : Probe.live.pending = [] ∧ Probe.live.u.pow.power = true ∧
    ({ Probe.live with u := { Probe.live.u with pow := { power := false } } } : State).u.pow.power = false := by decide +kernel

theorem witness_EveryStepKeepsTheInvariant : (Probe.desc { w0 := 0 }).Inv ∧ ∃ t, step (Probe.desc { w0 := 0 }) = .next t :=
  ⟨Probe.inv_of (by decide +kernel), _, rfl⟩

theorem witness_FixedEntriesNeverChange : Probe.live.Inv ∧ (∃ t, exec .scrubPass Probe.live = .next t) ∧
    EName.serial.info.pers = .fixed ∧ 0 < EName.serial.count :=
  ⟨Probe.inv_of (by decide +kernel), ⟨_, rfl⟩, by decide +kernel⟩

def Probe.gateSet : Desc := { w0 := 4, w2 := 7 + 1023 * 2 ^ 16 }
def Probe.flagSet : Desc := { w0 := 5, w2 := 15 + 1 * 2 ^ 4 + 0xFFFFFFFF * 2 ^ 32 }

theorem witness_SequencerCommandsTakeEffect_ready :
    Ready (Probe.desc { w0 := 0 }) 5 1 { w0 := 0 } ∧ Ready (Probe.desc { w0 := 1, w2 := 1 }) 5 1 { w0 := 1, w2 := 1 } ∧
    Ready (Probe.desc { w0 := 3, w2 := 1 }) 5 1 { w0 := 3, w2 := 1 } ∧ Ready (Probe.desc Probe.gateSet) 5 1 Probe.gateSet ∧
    Ready (Probe.desc Probe.flagSet) 5 1 Probe.flagSet :=
  ⟨Probe.ready_of (by decide +kernel), Probe.ready_of (by decide +kernel), Probe.ready_of (by decide +kernel),
    Probe.ready_of (by decide +kernel), Probe.ready_of (by decide +kernel)⟩

/-- A NOP, a FLAG_SET and a VE_MAP whose predicates fail: a flag word or a gate's count that is to be 1 is 0. -/
def Probe.skipNop : Desc := { w0 := 2 ^ 18 + 2 ^ 24 + 2 ^ 48, w1 := 2 ^ 48 }
def Probe.skipSet : Desc := { Probe.flagSet with w0 := 5 + 2 ^ 48, w1 := 2 ^ 48 + 15 * 2 ^ 52 }
def Probe.skipMap : Desc := { w0 := 0x40 + 4 * 2 ^ 8 + 2 ^ 48, w1 := 2 ^ 49, w2 := 8 * 2 ^ 8 + 8 * 2 ^ 16, w3 := 0x100, w5 := 0x200, w6 := 4 }

theorem witness_SequencerCommandsTakeEffect_skipped :
    let skips (d : Desc) (c : Instr) : Prop := Passes (Probe.desc d) 5 1 d ∧
      (Probe.desc d).predOk ((Probe.desc d).qCore 5) ((Probe.desc d).qCtx 5) d = false ∧ commandOf 5 d = some c
    skips Probe.skipNop (.nop 5 Probe.skipNop) ∧ skips Probe.skipSet (.flagSet 5 Probe.skipSet) ∧
      skips Probe.skipMap (.veMap 5 Probe.skipMap) :=
  ⟨⟨Probe.passes_of (by decide +kernel), by decide +kernel, rfl⟩, ⟨Probe.passes_of (by decide +kernel), by decide +kernel, rfl⟩,
    Probe.passes_of (by decide +kernel), by decide +kernel, rfl⟩

/-- A job is open in queue 5. -/
def Probe.jobEnd : State :=
  let s := Probe.desc { w0 := 2 }
  { s with u := { s.u with core := { s.u.core with streams := [(5, { jobOpen := true })] } } }

theorem witness_SequencerCommandsTakeEffect_clauses :
    Ready Probe.jobEnd 5 1 { w0 := 2 } ∧ allRetired (Probe.jobEnd.stream 5) = true ∧
    (Probe.desc { w0 := 3, w2 := 1 }).fenceSet 5 1 1 = [] ∧ (Probe.desc { w0 := 3, w2 := 1 }).moltOf 1 = false ∧
    (Probe.desc Probe.gateSet).gateBusy 0 1 7 = false ∧
    (((Probe.desc Probe.flagSet).stream 5).fly.any fun f => !f.done && hOpcode f.d == 0x43 && dfld f.d 0x38 32 4 == 15) = false :=
  ⟨Probe.ready_of (by decide +kernel), by decide +kernel⟩

theorem witness_ReservedOpcodeFaultsItsContext :
    Comes (Probe.desc { w0 := 0x13 }) 5 1 { w0 := 0x13 } ∧ opClass 0x13 = none ∧
    Comes (Probe.desc { w0 := 0xFF }) 5 1 { w0 := 0xFF } ∧ opClass 0xFF = none :=
  ⟨Probe.comes_of (by decide +kernel), by decide +kernel, Probe.comes_of (by decide +kernel), by decide +kernel⟩

/-- The command at its first piece, its claims made, and the state then. -/
def Probe.started (s : State) (q k : Nat) (d : Desc) : Cmd :=
  { s.taken q k d with streamed := true, posted := true, started := true, yielded := false }

def Probe.claimed (s : State) (q k : Nat) (d : Desc) : State :=
  let c := s.taken q k d
  let a : Cmd := { c with streamed := true }
  let b : Cmd := { a with posted := true }
  let e : Cmd := { b with started := true, yielded := false }
  (Act.all [.when (!c.streamed) (.seq (.claim c (hStream c.d)) (.front a)), .when (!c.posted) (.seq (.takePost a) (.front b)), .front e,
    .bundleStart e]).run (s.dispatched q k d)

/-- What follows a piece that answered. -/
def Probe.next (res : PieceRes) (k : Cmd → Act) : Act :=
  match res with
  | .done x =>
    let y := { x with streamed := false, posted := false, asked := false }
    .all [.pieceEnd x, .front y, k y]
  | .sent x readsDone =>
    let y := { x with streamed := x.streamed && !readsDone }
    .all [.when readsDone (.streamBack x), .front y, k y]
  | _ => .skip

/-- A command whose first piece answers in a state from which it comes to have none left, or waits. -/
theorem Probe.piece_runs {s : State} {q k : Nat} {d : Desc} (r : OpRun) (res : PieceRes) (o : Bool) (e : Cmd) (y z : State) (hr : runOf d = r)
    (hd : (s.taken q k d).d = d) (he : e.d = d) (h1 : r.prep (s.dispatched q k d) (s.taken q k d) = .ready (s.taken q k d))
    (hp : ∀ k', (r.piece (Probe.started s q k d) k').run (Probe.claimed s q k d) = (k' res).run y)
    (hz : ∀ K, (Probe.next res K).run y = (K e).run z) (h2 : r.prep z e = if o then .over e else .hold) :
    ∃ c y, RunsTo s q k d 1 o c y := by
  have hr' : ∀ c : Cmd, c.d = d → runOf c.d = r := fun c e => by rw [e, hr]
  refine ⟨e, z, fun f => ?_⟩
  have h : ∀ K, (Act.onePieceOf (s.taken q k d) K).run (s.dispatched q k d) = (K e).run z := fun K => by
    simp only [Act.onePieceOf, Act.run_all_cons, Act.run_all_nil, hr' _ hd]
    simp only [Probe.claimed, Probe.started, Act.run_all_cons, Act.run_all_nil] at hp
    refine (hp _).trans ?_
    rw [← hz K]
    cases res <;> rfl
  simp only [Act.pieces, Act.run_get, hr' _ hd, h1, h, hr' _ he, h2]
  cases o <;> rfl

/-- One whose piece leaves none. -/
theorem Probe.one_runs {s : State} {q k : Nat} {d : Desc} (r : OpRun) (hr : runOf d = r) (hd : (s.taken q k d).d = d)
    (h1 : r.prep (s.dispatched q k d) (s.taken q k d) = .ready (s.taken q k d))
    (hp : ∃ e y, e.d = d ∧ e.piece = 1 ∧ ∀ k', (r.piece (Probe.started s q k d) k').run (Probe.claimed s q k d) = (k' (.done e)).run y)
    (h2 : ∀ (e : Cmd) (x : State), e.d = d → e.piece = 1 → e.streamed = false → r.prep x e = .over e) : ∃ c y, RunsTo s q k d 1 true c y := by
  obtain ⟨e, y, he, hp1, h⟩ := hp
  let z : Cmd := { e with streamed := false, posted := false, asked := false }
  exact Probe.piece_runs r (.done e) true z y ((Act.front z).run ((Act.pieceEnd e).run y)) hr hd he h1 h
    (fun K => by simp only [Probe.next, Act.run_all_cons, Act.run_all_nil]; rfl) (h2 _ _ he hp1 rfl)

/-- One that is a single piece. -/
theorem Probe.whole_runs {s : State} {q k : Nat} {d : Desc} (r : OpRun) (hr : runOf d = r) (ho : r.prep = onePiece) (hd : (s.taken q k d).d = d)
    (h0 : (s.taken q k d).piece = 0)
    (hp : ∃ e y, e.d = d ∧ e.piece = 1 ∧ ∀ k', (r.piece (Probe.started s q k d) k').run (Probe.claimed s q k d) = (k' (.done e)).run y) :
    ∃ c y, RunsTo s q k d 1 true c y :=
  Probe.one_runs r hr hd (by rw [ho, onePiece, if_pos h0]) hp fun e x _ h _ => by rw [ho, onePiece, if_neg (by omega)]

theorem Probe.flag_runs {s : State} {q k : Nat} {d : Desc} (h : hOpcode d = 0x43) (hd : (s.taken q k d).d = d) (h0 : (s.taken q k d).piece = 0) :
    ∃ c y, RunsTo s q k d 1 true c y := by
  refine Probe.whole_runs veFlagRun (by simp only [runOf, h]) rfl hd h0 ?_
  exact ⟨{ Probe.started s q k d with piece := 1, present := (Probe.claimed s q k d).flagCount (Probe.started s q k d) }, _, hd, rfl,
      fun k' => rfl⟩

theorem Probe.save_runs {s : State} {q k : Nat} {d : Desc} (h : hOpcode d = 0x44) (hd : (s.taken q k d).d = d) (h0 : (s.taken q k d).piece = 0) :
    ∃ c y, RunsTo s q k d 1 true c y := by
  refine Probe.whole_runs vePepperSaveRun (by simp only [runOf, h]) rfl hd h0 ?_
  simp only [vePepperSaveRun, vePepperSavePiece, Act.run_get, Act.run_all_cons, Act.run_all_nil]
  exact ⟨{ Probe.started s q k d with piece := 1 }, _, hd, rfl, fun k' => rfl⟩

theorem Probe.load_runs {s : State} {q k : Nat} {d : Desc} (h : hOpcode d = 0x45) (hd : (s.taken q k d).d = d) (h0 : (s.taken q k d).piece = 0)
    (hp : ∀ l < 528, leNat (dataOf ((Probe.claimed s q k d).rdScr (Probe.started s q k d).core
      (dfld (Probe.started s q k d).d 0x18 0 21 + 16 * l) 16)) ≠ 0) : ∃ c y, RunsTo s q k d 1 true c y := by
  have g : ((List.range 528).map fun l => leNat (dataOf ((Probe.claimed s q k d).rdScr (Probe.started s q k d).core
      (dfld (Probe.started s q k d).d 0x18 0 21 + 16 * l) 16))).any (fun x => x == 0) = false := by
    simp only [List.any_map, List.any_eq_false, List.mem_range, Function.comp, beq_iff_eq]
    exact hp
  refine Probe.whole_runs vePepperLoadRun (by simp only [runOf, h]) rfl hd h0 ?_
  simp only [vePepperLoadRun, vePepperLoadPiece, Act.run_get, g, Bool.false_eq_true, if_false, Act.run_all_cons, Act.run_all_nil]
  exact ⟨{ Probe.started s q k d with piece := 1 }, _, hd, rfl, fun k' => rfl⟩

theorem Probe.upBlock_runs (m : Cmd) (h : Hyper) (hp : Bool) (b : Nat) (rs : List Nat) (s : State) :
    ∃ c p y, ∀ k : UpCount → Bool → Act, (Act.upBlock m h hp b rs k).run s = (k c p).run y := by
  exact ⟨_, _, _, fun k => rfl⟩

theorem Probe.upBlocks_run (m : Cmd) (h : Hyper) (hp : Bool) : ∀ (n b : Nat) (l : Lanes) (c : UpCount) (p : Bool) (s : State),
    ∃ l' c' p' y, ∀ k : Lanes → UpCount → Bool → Act, (Act.upBlocks m h hp n b l c p k).run s = (k l' c' p').run y := by
  intro n
  induction n with
  | zero => exact fun b l c p s => ⟨l, c, p, s, fun k => rfl⟩
  | succ n ih =>
    intro b l c p s
    obtain ⟨c1, p1, y1, h1⟩ := Probe.upBlock_runs m h hp b (draw16 s 32 (32 * b % upCols m.d) l).1 s
    obtain ⟨l2, c2, p2, y2, h2⟩ := ih (b + 1) (draw16 s 32 (32 * b % upCols m.d) l).2 (c.add c1) (p || p1) y1
    exact ⟨l2, c2, p2, y2,
        fun k => (h1 fun c' p' => Act.upBlocks m h hp n (b + 1) (draw16 s 32 (32 * b % upCols m.d) l).2 (c.add c') (p ||
        p') k).trans (h2 k)⟩

theorem Probe.update_runs {s : State} {q k : Nat} {d : Desc} (h : hOpcode d = 0x4C) (hd : (s.taken q k d).d = d) (h0 : (s.taken q k d).piece = 0)
    (hr : let v := leNat (dataOf ((Probe.claimed s q k d).rdScr (Probe.started s q k d).core (upRec (Probe.started s q k d).d) 64))
      ¬(recWord v 10 ≠ 0 ∨ recWord v 11 ≠ 0))
    (hp : (Probe.claimed s q k d).pepperReady (Probe.started s q k d).ctx = true) : ∃ c y, RunsTo s q k d 1 true c y := by
  let m := Probe.started s q k d
  let X := (Act.needUnit unitSR m.core).run ((Act.needUnit unitVE m.core).run (Probe.claimed s q k d))
  let rb := (Probe.claimed s q k d).rdScr m.core (upRec m.d) 64
  obtain ⟨l, c, p, y, hy⟩ := Probe.upBlocks_run m (hyperOf (leNat (dataOf rb))) (anyPoison (rb.take 0x28)) (upN m.d / 32) 0
    { core := m.core, ctx := m.ctx } {} false X
  refine Probe.whole_runs upRun (by simp only [runOf, h]) rfl hd h0 ?_
  simp only at hr
  simp only [upRun, upPiece, Act.run_get, if_neg hr, hp, Bool.not_true, Bool.false_eq_true, if_false, Act.run_all_cons, Act.run_all_nil]
  exact ⟨Cmd.addMon { m with piece := 1, poison := p } c.mon, _, hd, rfl, fun k' => (hy _).trans rfl⟩

theorem Probe.topk_runs {s : State} {q k : Nat} {d : Desc} (h : hOpcode d = 0x48) (hd : (s.taken q k d).d = d) (h0 : (s.taken q k d).piece = 0) :
    ∃ c y, RunsTo s q k d 1 true c y := by
  refine Probe.whole_runs tgRun (by simp only [runOf, h]) rfl hd h0 ?_
  simp only [tgRun, tgPiece, Act.run_get, Act.run_all_cons, Act.run_all_nil]
  refine ⟨_, _, ?_, ?_, fun k' => rfl⟩
  · exact hd
  · rfl

/-- The state in which a segment read from these places has been sent on flow `f`. -/
def Probe.segged (x : State) (m : Cmd) (f : Nat) (l : List (List (MemSel × Nat × Nat))) : State :=
  let e := x.u.molt.seg (msIndex m.d)
  let bs := (x.sgRead e l).1
  let aux (kind : Nat) : Nat := kind + msAttempt m.d * 2 ^ 4 + x.u.molt.id * 2 ^ 8 + sgId e * 2 ^ 24
  (Act.all [.needUnit unitDM m.core, .needUnit unitReshard m.core, .needUnit unitFold m.core, .noteSpan m.ctx l.flatten,
    .charge m.ctx l.flatten,
    .count .moltCount 0 5 bs.length, .flowSend f (some (m.q, m.idx)) (dataMsgs 10 0 (fun _ => aux 0) id false bs ++
      [{ type := 10, aux := BitVec.ofNat 64 (aux 1), data := cleanBytes 16 (foldDigest x.u.molt.key (dataOf bs)) }])]).run x

/-- The command after it has sent the segment. -/
def Probe.sentSeg (x : State) (m : Cmd) (l : List (List (MemSel × Nat × Nat))) : Cmd :=
  let r := x.sgRead (x.u.molt.seg (msIndex m.d)) l
  { m with piece := 1, mon := r.2, poison := anyPoison r.1 }

theorem Probe.seg_runs {s : State} {q k f : Nat} {d : Desc} {l : List (List (MemSel × Nat × Nat))} (h : hOpcode d = 0x88)
    (hd : (s.taken q k d).d = d) (h1 : msPrep (s.dispatched q k d) (s.taken q k d) = .ready (s.taken q k d))
    (hs : let x := Probe.claimed s q k d
      let m := Probe.started s q k d
      x.sgSource m.ctx (if msAlt m.d then wf (x.u.molt.seg (msIndex m.d)) 0x20 0 48 else wf (x.u.molt.seg (msIndex m.d)) 0x10 0 48)
        (x.u.molt.seg (msIndex m.d)) = .ok l)
    (ht : let x := Probe.claimed s q k d
      let m := Probe.started s q k d
      let e := x.u.molt.seg (msIndex m.d)
      x.memGoes m.ctx (x.msPlaces m e l (x.sgRead e l).1.length) = true)
    (hf : (Probe.claimed s q k d).msFlow (Probe.started s q k d).d = some f)
    (hc : (Probe.segged (Probe.claimed s q k d) (Probe.started s q k d) f l).ctxState (Probe.started s q k d).ctx = 1)
    (h2 : let c := Probe.sentSeg (Probe.claimed s q k d) (Probe.started s q k d) l
      let y := Probe.segged (Probe.claimed s q k d) (Probe.started s q k d) f l
      ∀ e x, e = { c with streamed := false } → x = (Act.front e).run ((Act.streamBack c).run y) → msPrep x e = .hold) :
    ∃ c y, RunsTo s q k d 1 false c y := by
  let c := Probe.sentSeg (Probe.claimed s q k d) (Probe.started s q k d) l
  let y := Probe.segged (Probe.claimed s q k d) (Probe.started s q k d) f l
  let z : Cmd := { c with streamed := c.streamed && !true }
  have e : z = { c with streamed := false } := by simp only [z, Bool.not_true, Bool.and_false]
  refine Probe.piece_runs msRun (.sent c true) false z y ((Act.front z).run ((Act.streamBack c).run y)) (by simp only [runOf, h]) hd hd h1
    (fun k' => ?_) (fun K => by simp only [Probe.next, Act.when, if_true, Act.run_all_cons, Act.run_all_nil]; rfl) (h2 z _ e rfl)
  simp only [Probe.segged, Act.run_all_cons, Act.run_all_nil] at hc
  simp only at hs ht
  simp only [msRun, msPiece, Act.needMem, Act.run_get, hs, ht, hf, hc, if_true, Act.run_all_cons, Act.run_all_nil, Probe.segged, c, y,
      Probe.sentSeg]

/-! ### Witnesses: engine commands -/

def Probe.flagD : Desc := { w0 := 0x43 + 4 * 2 ^ 8, w2 := 8 * 2 ^ 8, w3 := 0x100, w6 := 4, w7 := 15 * 2 ^ 32 }

theorem Probe.dqAdd_runs (m : Cmd) (x : BwdRow) (bad : Bool) (ds : FVec) (kcols : List FVec) (s : State) :
    ∃ e y, ∀ k, (Act.dqAdd m x bad ds kcols k).run s = (k e).run y := by
  unfold Act.dqAdd
  exact ⟨_, _, fun k => (Act.run_get _ s).trans (Act.run_seq _ _ _)⟩

theorem Probe.dqs_run (m : Cmd) (bad : Bool) (kcols : List FVec) (g : BwdRow × List Nat × List Nat → FVec) :
    ∀ (l : List (BwdRow × List Nat × List Nat)) (mon : MonDelta) (s : State),
      ∃ mon' y, ∀ K : MonDelta → Act, (l.foldr (fun x kk => fun mon => Act.dqAdd m x.1 (bad || x.1.poison) (g x) kcols
        fun e => kk (mon.add e)) K mon).run s = (K mon').run y := by
  intro l
  induction l with
  | nil => intro mon s; exact ⟨mon, s, fun K => rfl⟩
  | cons x r ih =>
    intro mon s
    obtain ⟨e, y, h⟩ := Probe.dqAdd_runs m x.1 (bad || x.1.poison) (g x) kcols s
    obtain ⟨mon', y', h'⟩ := ih (mon.add e) y
    refine ⟨mon', y', fun K => ?_⟩
    rw [List.foldr_cons, h]
    exact h' K

theorem Probe.bwdUnit_runs (m : Cmd) (r : SeqRec) (h j : Nat) (b : KvBlock) (vrows kcols : List FVec) :
    ∀ (us : List (Nat × Nat)) (acc : BwdAcc) (p : Bool) (mon : MonDelta) (s : State), ∃ acc' p' mon' y,
      ∀ k, (Act.bwdUnit m r h j b vrows kcols us acc p mon k).run s = (k acc' p' mon').run y := by
  intro us
  induction us with
  | nil => intro acc p mon s; exact ⟨acc, p, mon, s, fun k => rfl⟩
  | cons u rest ih =>
    intro acc p mon s
    have step : ∀ (l : List (BwdRow × List Nat × List Nat)) (A : BwdAcc) (P : Bool), ∃ acc' p' mon' y, ∀ k,
        (l.foldr (fun x kk => fun mon => Act.dqAdd m x.1 (b.poison || x.1.poison) (convVec (atQ m.d) false x.2.2) kcols
          fun e => kk (mon.add e)) (fun mon => Act.bwdUnit m r h j b vrows kcols rest A P mon k) mon).run s =
          (k acc' p' mon').run y := by
      intro l A P
      obtain ⟨mon1, y1, h1⟩ := Probe.dqs_run m b.poison kcols (fun x => convVec (atQ m.d) false x.2.2) l mon s
      obtain ⟨a2, p2, m2, y2, h2⟩ := ih A P mon1 y1
      exact ⟨a2, p2, m2, y2, fun k => (h1 _).trans (h2 k)⟩
    exact step _ _ _

theorem Probe.bwdBlock_runs (m : Cmd) (r : SeqRec) (h j : Nat) (mon : MonDelta) (p : Bool) (s : State) : ∃ mon' p' y,
    ∀ k, (Act.bwdBlock m r h j mon p k).run s = (k mon' p').run y := by
  obtain ⟨a1, p1, m1, y1, h1⟩ := Probe.bwdUnit_runs m r h j (s.kvScratch m r h j)
    (turnVec 64 (s.kvScratch m r h j).v) (turnVec (atDim m.d) (s.kvScratch m r h j).k)
    ((atUnits m.d r).filter fun u => j < unitBlocks m.d r u)
    ⟨List.replicate 64 (List.replicate (atDim m.d) none), List.replicate 64 (List.replicate (atDim m.d) none)⟩ false mon s
  exact ⟨_, _, _, fun k => (h1 _).trans rfl⟩

theorem Probe.bwdBlocks_run (m : Cmd) : ∀ (ws : List (SeqRec × Nat × Nat)) (mon : MonDelta) (p : Bool) (s : State), ∃ mon' p' y,
    ∀ k, (Act.bwdBlocks m ws mon p k).run s = (k mon' p').run y := by
  intro ws
  induction ws with
  | nil => intro mon p s; exact ⟨mon, p, s, fun k => rfl⟩
  | cons w rest ih =>
    intro mon p s
    obtain ⟨m1, p1, y1, h1⟩ := Probe.bwdBlock_runs m w.1 w.2.1 w.2.2 mon p s
    obtain ⟨m2, p2, y2, h2⟩ := ih m1 p1 y1
    exact ⟨m2, p2, y2, fun k => (h1 _).trans (h2 k)⟩

theorem Probe.bwd_ends (e : Cmd) (x : State) : ∃ e' y, e'.d = e.d ∧ e'.piece = 1 ∧
    ∀ k, (attnBwdPiece e k).run x = (k (.done e')).run y := by
  obtain ⟨mon, p, y, h⟩ := Probe.bwdBlocks_run e ((List.range (atHeads e.d)).flatMap fun h => (x.seqRecs e).flatMap fun r =>
    (List.range (cdiv r.keys 64)).map fun j => (r, h, j)) {} false
    ((Act.needUnit unitDM e.core).run ((Act.needUnit unitVE e.core).run ((Act.needUnit unitTE e.core).run x)))
  exact ⟨Cmd.addMon { e with piece := 1, poison := p } mon, y, rfl, rfl, fun k => h _⟩

theorem Probe.fwd_ends (e : Cmd) (x : State) (hm : x.memGoes e.ctx (x.atPlaces e) = true) :
    ∃ e' y, e'.d = e.d ∧ e'.piece = 1 ∧ ∀ k, (attnFwdPiece e k).run x = (k (.done e')).run y := by
  unfold attnFwdPiece
  simp only [Act.needMem, Act.run_get, hm, if_true, Act.run_all_cons, Act.run_all_nil]
  apply Exists.intro; apply Exists.intro
  refine ⟨?_, ?_, fun k => ?_⟩
  rotate_left 2
  · rfl
  · rfl
  · rfl

def Probe.fwdD : Desc := { w0 := 0x10, w2 := 6 * 2 ^ 8 + 6 * 2 ^ 12, w5 := 0x400 * 2 ^ 21, w6 := 0x1000,
                           w7 := 8 + 8 * 2 ^ 12 + 16 * 2 ^ 24 }
def Probe.verifyD : Desc := { Probe.fwdD with w0 := 0x12, w2 := 4 + 6 * 2 ^ 8 + 6 * 2 ^ 12 }
def Probe.bwdD : Desc := { Probe.fwdD with w0 := 0x11, w4 := 0x500 * 2 ^ 42 }

/-- One sequence of one token and one key at 0x400; the gradient record at 0x500; slot 1 has four groups and all rows. -/
def Probe.attn (d : Desc) : State :=
  Probe.reg .accSplit 0 (0x84 * 2 ^ 8) (Probe.scr 0x400 16 (1 + 2 ^ 96) (Probe.scr 0x500 32
    ((6 * 2 ^ 32 + 8 * 2 ^ 36) + (8 * 2 ^ 32 + 16 * 2 ^ 36) * 2 ^ 64 + (8 * 2 ^ 32 + 16 * 2 ^ 36) * 2 ^ 128 + (8 * 2 ^ 32 + 16 * 2 ^ 36) * 2 ^ 192) (Probe.desc d)))

theorem Probe.attn_runs {s : State} {q k : Nat} {d : Desc} (run : Cmd → (PieceRes → Act) → Act)
    (hr : runOf d = { prep := onePiece, piece := attnStart run,
                      finish := attnClose }) (hd : (s.taken q k d).d = d) (h0 : (s.taken q k d).piece = 0)
    (h1 : (Probe.claimed s q k d).atReason (Probe.started s q k d) = none)
    (hp : ∃ e' y, e'.d = (Probe.started s q k d).d ∧ e'.piece = 1 ∧
      ∀ k', (run (Probe.started s q k d) k').run (Probe.claimed s q k d) = (k' (.done e')).run y) : ∃ c y, RunsTo s q k d 1 true c y := by
  obtain ⟨e', y, a, b, c⟩ := hp
  refine Probe.whole_runs _ hr rfl hd h0 ⟨e', y, a.trans hd, b, fun k' => ?_⟩
  simp only [attnStart, Act.run_get, h1]
  exact c k'

theorem witness_VectorAndAttentionCommandsWriteTheirResults_attention (d : Desc) (h : d ∈ [Probe.fwdD, Probe.verifyD, Probe.bwdD]) :
    let s := Probe.attn d
    let m := s.cmdOf 5 d
    (Lone s 5 1 d ∧ Supplied s 5 d 1) ∧ s.atReason m = none ∧ s.tokensOk (s.qCtx 5) (s.atPlaces m) = true ∧ s.u.mem.faulty = false ∧
      s.qCore 5 < 192 := by
  fin_cases h <;> exact ⟨Probe.lone_of (by decide +kernel), by decide +kernel⟩

theorem witness_EngineCommandsRunTheirPieces_attention :
    (Lone (Probe.attn Probe.fwdD) 5 1 Probe.fwdD ∧ Supplied (Probe.attn Probe.fwdD) 5 Probe.fwdD 1 ∧
      ∃ c y, RunsTo (Probe.attn Probe.fwdD) 5 1 Probe.fwdD 1 true c y) ∧
    (Lone (Probe.attn Probe.bwdD) 5 1 Probe.bwdD ∧ Supplied (Probe.attn Probe.bwdD) 5 Probe.bwdD 1 ∧
      ∃ c y, RunsTo (Probe.attn Probe.bwdD) 5 1 Probe.bwdD 1 true c y) ∧
    (Lone (Probe.attn Probe.verifyD) 5 1 Probe.verifyD ∧ Supplied (Probe.attn Probe.verifyD) 5 Probe.verifyD 1 ∧
      ∃ c y, RunsTo (Probe.attn Probe.verifyD) 5 1 Probe.verifyD 1 true c y) := by
  have r10 : ∀ d : Desc, hOpcode d = 0x10 → runOf d = attnFwdRun := fun d h => by simp only [runOf, h]
  have r11 : ∀ d : Desc, hOpcode d = 0x11 → runOf d = attnBwdRun := fun d h => by simp only [runOf, h]
  have r12 : ∀ d : Desc, hOpcode d = 0x12 → runOf d = attnFwdRun := fun d h => by simp only [runOf, h]
  refine ⟨(fun h => ⟨h.1, h.2, Probe.attn_runs attnFwdPiece (r10 _ ?_) ?_ ?_ ?_ (Probe.fwd_ends _ _ ?_)⟩) (Probe.lone_of (n := 1) ?_),
    (fun h => ⟨h.1, h.2, Probe.attn_runs attnBwdPiece (r11 _ ?_) ?_ ?_ ?_ (Probe.bwd_ends _ _)⟩) (Probe.lone_of (n := 1) ?_),
    (fun h => ⟨h.1, h.2, Probe.attn_runs attnFwdPiece (r12 _ ?_) ?_ ?_ ?_ (Probe.fwd_ends _ _ ?_)⟩) (Probe.lone_of (n :=
      1) ?_)⟩ <;> decide +kernel

/-! ### Witnesses: what engine commands write -/

/-- Slot 1 has four groups and all rows; group 0 of TE 0 is open with eight rows. -/
def Probe.group (d : Desc) : State :=
  Probe.withCore (fun c => { c with dgrp := [(8, { m := 8 })], grp := [(8,
      { m := 8 })] }) (Probe.reg .accSplit 0 (0x84 * 2 ^ 8) (Probe.desc d))

def Probe.teBeginD : Desc := { w0 := 0x20 + 2 ^ 8 }
def Probe.teAccD : Desc := { w0 := 0x21 + 2 ^ 8, w2 := 6 * 2 ^ 3 + 6 * 2 ^ 7, w4 := 0x1000, w6 := 128 }
def Probe.teEndD : Desc := { w0 := 0x22 + 2 ^ 8, w2 := 8 * 2 ^ 3 + 0x100 * 2 ^ 32, w3 := 256 * 2 ^ 32 }

theorem witness_TensorGroupsOpenAndClose :
    (Lone (Probe.desc Probe.teBeginD) 5 1 Probe.teBeginD ∧ Supplied (Probe.desc Probe.teBeginD) 5 Probe.teBeginD 1) ∧
    (Lone (Probe.group Probe.teEndD) 5 1 Probe.teEndD ∧ Supplied (Probe.group Probe.teEndD) 5 Probe.teEndD 1) :=
  ⟨Probe.lone_of (by decide +kernel), Probe.lone_of (by decide +kernel)⟩

theorem witness_TeAccumulateAddsItsTiles :
    let s := Probe.group Probe.teAccD
    let m := teMask s (s.cmdOf 5 Probe.teAccD)
    (Lone s 5 1 Probe.teAccD ∧ Supplied s 5 Probe.teAccD 1) ∧ (tilesPresent m).length = 1 ∧ s.tilesGood m (s.teGroup m) = true :=
  ⟨Probe.lone_of (by decide +kernel), by decide +kernel⟩

def Probe.mapD : Desc := { w0 := 0x40 + 4 * 2 ^ 8, w2 := 8 * 2 ^ 8 + 8 * 2 ^ 16, w3 := 0x100, w5 := 0x200, w6 := 4 }
def Probe.uniformD : Desc := { w0 := 0x40 + 4 * 2 ^ 8, w2 := 0x20 + 8 * 2 ^ 16, w5 := 0x200, w6 := 4 }
def Probe.updateD : Desc := { w0 := 0x4C + 4 * 2 ^ 8, w2 := 8 * 2 + 6 * 2 ^ 5, w3 := 0x100 + 0x200 * 2 ^ 21,
                              w4 := 0x300 + 0x700 * 2 ^ 42, w5 := 0x400 + 0x500 * 2 ^ 21 + 0x540 * 2 ^ 42, w6 := 0x600 + 31 * 2 ^ 32 }
def Probe.reduceD : Desc := { Probe.mapD with w0 := 0x41 + 4 * 2 ^ 8 }
def Probe.sampleD : Desc := { Probe.mapD with w0 := 0x42 + 4 * 2 ^ 8, w4 := 0x300 }
def Probe.topkD : Desc := { Probe.mapD with w0 := 0x48 + 4 * 2 ^ 8 }
def Probe.pepper (d : Desc) : State := Probe.reg .pepperReady 1 1 (Probe.desc d)

theorem witness_VectorAndAttentionCommandsWriteTheirResults :
    (Lone (Probe.desc Probe.mapD) 5 1 Probe.mapD ∧ Supplied (Probe.desc Probe.mapD) 5 Probe.mapD 1) ∧
    (Lone (Probe.pepper Probe.uniformD) 5 1 Probe.uniformD ∧ Supplied (Probe.pepper Probe.uniformD) 5 Probe.uniformD 1) ∧
    (Lone (Probe.desc Probe.reduceD) 5 1 Probe.reduceD ∧ Supplied (Probe.desc Probe.reduceD) 5 Probe.reduceD 1) ∧
    (Lone (Probe.pepper Probe.sampleD) 5 1 Probe.sampleD ∧ Supplied (Probe.pepper Probe.sampleD) 5 Probe.sampleD 1) ∧
    (Lone (Probe.desc Probe.topkD) 5 1 Probe.topkD ∧ Supplied (Probe.desc Probe.topkD) 5 Probe.topkD 1) ∧
    (Lone (Probe.pepper Probe.updateD) 5 1 Probe.updateD ∧ Supplied (Probe.pepper Probe.updateD) 5 Probe.updateD 1) ∧
    veFunc Probe.uniformD = 0x20 ∧ (Probe.desc Probe.topkD).qCore 5 < 192 ∧ (Probe.pepper Probe.updateD).pepperReady 1 = true ∧
    recWord (leNat (dataOf ((Probe.pepper Probe.updateD).rdScr 0 (upRec Probe.updateD) 64))) 10 = 0 ∧
    recWord (leNat (dataOf ((Probe.pepper Probe.updateD).rdScr 0 (upRec Probe.updateD) 64))) 11 = 0 :=
  ⟨Probe.lone_of (by decide +kernel), Probe.lone_of (by decide +kernel), Probe.lone_of (by decide +kernel),
    Probe.lone_of (by decide +kernel),
    Probe.lone_of (by decide +kernel), Probe.lone_of (by decide +kernel), by decide +kernel⟩

def Probe.saveD : Desc := { w0 := 0x44 + 4 * 2 ^ 8, w5 := 0x100 }
def Probe.loadD : Desc := { w0 := 0x45 + 4 * 2 ^ 8, w3 := 0x100 }

/-- Every lane saved at 0x100 is the number 1. -/
def Probe.lanes : State :=
  { Probe.desc Probe.loadD with scratch := { bytes := (List.range 528).map fun l => (0x100 + 16 * l, 1) } }

theorem Probe.scr_ne {s : State} {c off n : Nat} (h : s.scratch.byte (c * 2 ^ 21 + off) ≠ 0#8) : leNat (dataOf (s.rdScr c off (n + 1))) ≠ 0 := by
  have e : (s.scratch.byte (c * 2 ^ 21 + off)).toNat ≠ 0 := fun z => h (BitVec.eq_of_toNat_eq z)
  simp only [State.rdScr, State.rdMem, List.range_succ_eq_map, List.map_cons, dataOf, leNat, State.store, Nat.add_zero]
  omega

theorem witness_FlagAndPepperCommands :
    (Lone (Probe.desc Probe.flagD) 5 1 Probe.flagD ∧ Supplied (Probe.desc Probe.flagD) 5 Probe.flagD 1) ∧
    (Lone (Probe.pepper Probe.saveD) 5 1 Probe.saveD ∧ Supplied (Probe.pepper Probe.saveD) 5 Probe.saveD 1) ∧
    (Probe.pepper Probe.saveD).Inv ∧ (Probe.pepper Probe.saveD).pepperReady 1 = true ∧ (Probe.pepper Probe.saveD).qCore 5 < 192 :=
  ⟨Probe.lone_of (by decide +kernel), Probe.lone_of (by decide +kernel), Probe.inv_of (by decide +kernel), by decide +kernel⟩

theorem witness_FlagAndPepperCommands_load :
    (Lone Probe.lanes 5 1 Probe.loadD ∧ Supplied Probe.lanes 5 Probe.loadD 1) ∧
    ∀ l, l < 528 → leNat (dataOf (Probe.lanes.rdScr 0 (dfld Probe.loadD 0x18 0 21 + 16 * l) 16)) ≠ 0 :=
  ⟨Probe.lone_of (by decide +kernel), fun l h => Probe.scr_ne ((by decide +kernel : ∀ l < 528, Probe.lanes.scratch.byte
    (0 * 2 ^ 21 + (dfld Probe.loadD 0x18 0 21 + 16 * l)) ≠ 0#8) l h)⟩

theorem witness_FlagAndPepperCommands_zero :
    (Lone (Probe.desc Probe.loadD) 5 1 Probe.loadD ∧ Supplied (Probe.desc Probe.loadD) 5 Probe.loadD 1) ∧
    ∃ l, l < 528 ∧ leNat (dataOf ((Probe.desc Probe.loadD).rdScr 0 (dfld Probe.loadD 0x18 0 21 + 16 * l) 16)) = 0 :=
  ⟨Probe.lone_of (by decide +kernel), 527, by decide +kernel⟩

def Probe.copyD : Desc := { w0 := 0x80 + 5 * 2 ^ 8, w2 := 15 * 2 ^ 4 + 15 * 2 ^ 8 + 5 * 2 ^ 32, w3 := 0x100, w4 := 0x200, w7 := 16 }
def Probe.drainD : Desc := { w0 := 0x80 + 5 * 2 ^ 8, w2 := 8 + 9 * 2 ^ 4 + 8 * 2 ^ 8 + 2 ^ 34, w3 := 0x40000000, w4 := 0x200, w7 := 16 }
def Probe.accD : Desc := { w0 := 0x80 + 5 * 2 ^ 8, w2 := 8 + 8 * 2 ^ 4 + 9 * 2 ^ 8 + 2 ^ 32, w3 := 0x100, w4 := 0x40000000, w7 := 16 }

theorem witness_DataMoverRowsAreWritten_copy :
    let s := Probe.desc Probe.copyD
    let m := s.cmdOf 5 Probe.copyD
    (Lone s 5 1 Probe.copyD ∧ Supplied s 5 Probe.copyD 1) ∧ dmRows Probe.copyD = 1 ∧ dmMask Probe.copyD = false ∧ s.u.mem.faulty = false ∧
    dmT Probe.copyD ≠ 8 ∧ ∃ p ls, s.planRow m 0 0 = .ok p ∧ s.planDst m p.writes = .ok ls ∧
        s.tokensOk 1 (p.reads.flatten ++ ls.flatten) = true ∧
      ∀ l ∈ p.reads, anyPoison (s.rdSpan l) = false := by
  refine ⟨Probe.lone_of ?_, ?_, ?_, ?_, ?_, ⟨[[(.scratch, 0x100, 16)]], [(0x200, List.replicate 16 (0, false))], {}⟩, [[(.scratch, 0x200,
      16)]], ?_⟩ <;>
    decide +kernel

theorem witness_DataMoverRowsAreWritten_bank :
    let s := Probe.bankPage (Probe.desc Probe.accD)
    let t := Probe.bankPage (Probe.desc Probe.drainD)
    (Lone s 5 1 Probe.accD ∧ Supplied s 5 Probe.accD 1) ∧ (Lone t 5 1 Probe.drainD ∧ Supplied t 5 Probe.drainD 1) ∧
    (dmRows Probe.accD = 1 ∧ dmMask Probe.accD = false ∧ s.u.mem.faulty = false ∧ dmT Probe.accD = 8 ∧ awAcc Probe.accD = true ∧
      (s.awRow (s.cmdOf 5 Probe.accD) 0).2 = false ∧
        ∃ l, s.span 1 (dmDst Probe.accD + (s.awRow (s.cmdOf 5 Probe.accD) 0).1 * awDstStride Probe.accD)
        (awDstBytes Probe.accD) true id = .ok l ∧ s.tokensOk 1 l = true ∧ anyPoison (s.rdSpan l) = false) ∧
    (dmRows Probe.drainD = 1 ∧ dmMask Probe.drainD = false ∧ t.u.mem.faulty = false ∧ dmT Probe.drainD = 8 ∧ awAcc Probe.drainD = false ∧
      ∃ l vs, t.span 1 (dmSrc Probe.drainD) (dmRowBytes Probe.drainD) false id = .ok l ∧ anyPoison (t.rdSpan l) = false ∧
        t.tokensOk 1 (wholeBlocks 128 (vs.flatMap fun v => v.2.2)) = true ∧
        exAll ((slots8 l).zipIdx.map fun p => t.drained 1 (dmSrc Probe.drainD + 8 * p.2) p.1) = .ok vs) := by
  refine ⟨Probe.lone_of ?_, Probe.lone_of ?_, ⟨?_, ?_, ?_, ?_, ?_, ?_, [(.stack, 402653184, 32)], ?_⟩, ?_, ?_, ?_, ?_, ?_, [(.stack,
      402653184, 16)],
    [((0, false), false, [(.stack, 402653184, 8)]), ((0, false), false, [(.stack, 402653192, 8)])], ?_, ?_, ?_, rfl⟩ <;> decide +kernel

def Probe.pushD : Desc := { w0 := 0x86 + 6 * 2 ^ 8, w2 := 0xFFFFFFFFFF, w3 := 0x100, w4 := 16 }
def Probe.popD : Desc := { Probe.pushD with w0 := 0x87 + 6 * 2 ^ 8 }

/-- The scree of core 0 holds one entry of context 1, or two. -/
def Probe.screeEnt (place : Nat) : ScreeEnt := ⟨place, 16, 0xFFFFFFFFFF, tagParity 0xFFFFFFFFFF, 0⟩
def Probe.scree (es : List ScreeEnt) : State :=
  Probe.coreU (fun c => { c with scree := [(0, { state := 1, owner := 1, ents := es })] }) (Probe.desc Probe.popD)

theorem witness_ScreePushAndPop :
    let s := Probe.desc Probe.pushD
    let m := s.cmdOf 5 Probe.pushD
    (Lone s 5 1 Probe.pushD ∧ Supplied s 5 Probe.pushD 1) ∧ s.u.mem.faulty = false ∧
      s.tokensOk 1 [(.stack, s.u.mem.coreBase 0 + m.place, m.bytes)] = true ∧ m.after.all (fun x => s.hasRetired x &&
          x != m.ser) = true := by
  refine ⟨Probe.lone_of ?_, ?_⟩ <;> decide +kernel

theorem witness_ScreePushAndPop_pop (es : List ScreeEnt) (h : es ∈ [[Probe.screeEnt 0], [Probe.screeEnt 128, Probe.screeEnt 0]]) :
    let s := Probe.scree es
    let m := s.cmdOf 5 Probe.popD
    (Lone s 5 1 Probe.popD ∧ Supplied s 5 Probe.popD 1) ∧ s.u.mem.faulty = false ∧
      s.tokensOk 1 [(.stack, s.u.mem.coreBase 0 + m.place, m.bytes)] = true ∧ m.after.all (fun x => s.hasRetired x && x != m.ser) = true ∧
      (s.scree 0).ents = es ∧ anyPoison (s.rdStack (s.u.mem.coreBase 0 + (es.head?.map ScreeEnt.place).getD 0) 16) = false := by
  fin_cases h <;> refine ⟨Probe.lone_of ?_, ?_⟩ <;> decide +kernel

def Probe.digestD : Desc := { w0 := 0x89 + 5 * 2 ^ 8 + 2 ^ 18 + 2 ^ 24, w2 := 0x100, w3 := 16, w4 := 0x100 + 0x200 * 2 ^ 32 }

theorem witness_DmDigestWritesTheFoldDigest :
    let s := Probe.scr 0x100 1 1 (Probe.desc Probe.digestD)
    (Lone s 5 1 Probe.digestD ∧ Supplied s 5 Probe.digestD 1) ∧ s.Inv ∧ s.qCore 5 < 192 ∧
      leNat (dataOf (s.rdScr 0 (dgKey Probe.digestD) 16)) ≠ 0 ∧
    ∃ l, s.span 1 (dgAddr Probe.digestD) (dgLen Probe.digestD) false = .ok l ∧ s.tokensOk 1 l = true := by
  refine ⟨Probe.lone_of ?_, Probe.inv_of ?_, ?_, ?_, [(.host, 0x40000100, 16)], ?_⟩ <;> decide +kernel

def Probe.putD : Desc := { w0 := 0x8A + 5 * 2 ^ 8 + 2 ^ 18 + 2 ^ 24, w2 := 8191 + 2 ^ 16 + 16 * 2 ^ 32, w3 := 0x100, w4 := 0x200 }
def Probe.getD : Desc := { Probe.putD with w0 := 0x8B + 5 * 2 ^ 8 + 2 ^ 18 + 2 ^ 24 }
def Probe.addD : Desc := { w0 := 0x8C + 5 * 2 ^ 8 + 2 ^ 18 + 2 ^ 24, w2 := 8191, w3 := 0x200, w4 := 1 }

theorem witness_FabricCommandsSendOnTheirFlow :
    let s (d : Desc) := Probe.flow 8191 1 2 (Probe.desc d)
    (Lone (s Probe.putD) 5 1 Probe.putD ∧ Supplied (s Probe.putD) 5 Probe.putD 1) ∧ (Lone (s Probe.getD) 5 1 Probe.getD ∧
      Supplied (s Probe.getD) 5 Probe.getD 1) ∧
    (Lone (s Probe.addD) 5 1 Probe.addD ∧ Supplied (s Probe.addD) 5 Probe.addD 1) ∧ (s Probe.putD).flowSt 8191 = 2 ∧
      (s Probe.getD).flowSt 8191 = 2 ∧
    (s Probe.addD).flowSt 8191 = 2 ∧ (s Probe.putD).tokensOk 1 [(.scratch, 0x100, 16)] = true ∧
    (s Probe.putD).putBytes ((s Probe.putD).cmdOf 5 Probe.putD) = .ok [(.scratch, 0x100, 16)] ∧
      anyPoison ((s Probe.putD).rdSpan [(.scratch, 0x100, 16)]) = false :=
  ⟨Probe.lone_of (by decide +kernel), Probe.lone_of (by decide +kernel), Probe.lone_of (by decide +kernel), by decide +kernel⟩

/-- Two tokens: expert 0 lies behind flow 8191, expert 1 here; one row of each comes back. -/
def Probe.sendD : Desc := { w0 := 0x85 + 5 * 2 ^ 8 + 2 ^ 18 + 2 ^ 24, w2 := 6 * 2 ^ 8 + 2 ^ 16 + 2 ^ 32, w3 := 0x100 + 0x200 * 2 ^ 32,
                            w4 := 0x300 + 0x400 * 2 ^ 32, w5 := 16 }
def Probe.backD : Desc := { Probe.sendD with w2 := Probe.sendD.w2 + 1 }
def Probe.experts (d : Desc) : State :=
  Probe.scr 0x100 8 (0x3F800000 * 2 ^ 32) (Probe.scr 0x140 8 (1 + 0x3F800000 * 2 ^ 32)
    (Probe.scr 0x200 16 (0x500 + 2 ^ 48 + (8191 + 2 ^ 16) * 2 ^ 64) (Probe.scr 0x210 16 (0x100 + 2 ^ 16 * 2 ^ 64)
      (Probe.flow 8191 5 2 (Probe.desc d)))))

theorem witness_FabricCommandsSendOnTheirFlow_experts :
    let s := Probe.experts Probe.sendD
    let es := s.dpEntries 0 Probe.sendD
    let recs := s.dpRecords 0 Probe.sendD
    let a := assignSlots 1 0 (fun e => bits (es.getD e (0, 0)).2 16 16) 2 recs
    let c := Probe.experts Probe.backD
    ((Lone s 5 1 Probe.sendD ∧ Supplied s 5 Probe.sendD 1) ∧ Lone c 5 1 Probe.backD ∧ Supplied c 5 Probe.backD 1) ∧
    (s.dpBad (s.cmdOf 5 Probe.sendD) recs es = none ∧ dpCombine Probe.sendD = false ∧ dpFlows es = [8191] ∧
      s.flowBad 1 8191 [5] = false ∧ s.flowSt 8191 = 2 ∧ s.u.mem.faulty = false ∧ a.rows = [(0, 0, 0), (1, 1, 0)]) ∧
    (s.dpLocal (s.cmdOf 5 Probe.sendD) es a.rows = .ok [(1, [(.host, 0x40000100, 16)])] ∧
      s.tokensOk 1 [(.host, 0x40000100, 16)] = true) ∧
    (dpCombine Probe.backD = true ∧ c.dpBad (c.cmdOf 5 Probe.backD) (c.dpRecords 0 Probe.backD) (c.dpEntries 0 Probe.backD) = none ∧
      ∀ ws ∈ c.dpRecords 0 Probe.backD, (c.dpToken (c.cmdOf 5 Probe.backD) (c.dpEntries 0 Probe.backD) ws).isSome = true) :=
  ⟨⟨Probe.lone_of (by decide +kernel), Probe.lone_of (by decide +kernel)⟩, by decide +kernel, by decide +kernel, by decide +kernel⟩

/-- A BF16 sum of eight elements among two members: group 0 with flow 41 to device 7. -/
def Probe.collD : Desc := { w0 := 0x84 + 5 * 2 ^ 8 + 2 ^ 18 + 2 ^ 24, w2 := 6 * 2 ^ 4 + 6 * 2 ^ 8, w3 := 0x100, w4 := 0x200, w7 := 8 }
def Probe.coll : State :=
  Probe.reg .collGroup 0 (1 + 2 ^ 8 + 2 ^ 18 + 40 * 2 ^ 40 + 7 * 2 ^ 144) (Probe.flow 41 3 2 (Probe.desc Probe.collD))

/-- A molt of context 1 executes: its segment 77 of 64 bytes goes from this device to device 7 over flow 8191. -/
def Probe.segD : Desc := { w0 := 0x88 + 5 * 2 ^ 8 + 2 ^ 18 + 2 ^ 24, w3 := 0x8000 }
def Probe.molt (s : State) : State :=
  let s := Probe.reg .moltState 0 2 (Probe.flow 8191 4 2 s)
  let m : Molt :=
    { plan := 0x8000, hdr := [3, 7 * 2 ^ 16, 1, 0, 0, 0, 0, 0, 5, 0, 0, 0], segs := [[77, 7 * 2 ^ 16, 0x9000, 0x2000, 0, 0, 64, 0]],
      shards := [[]], peers := [7 + 8191 * 2 ^ 16, 0] }
  { s with u := { s.u with moltCtx := 1, molt := m } }

theorem witness_CollectiveAndMoltSegmentSend :
    let s := Probe.coll
    let t := Probe.molt (Probe.desc Probe.segD)
    (Lone s 5 1 Probe.collD ∧ Supplied s 5 Probe.collD 1) ∧ (Lone t 5 1 Probe.segD ∧ Supplied t 5 Probe.segD 1) ∧
    (s.tokensOk 1 (s.coPlaces 1 Probe.collD) = true ∧ coOp Probe.collD ≤ 1 ∧ coDirect Probe.collD = false ∧ s.u.colls = [] ∧ 2 ≤ s.cgP 0 ∧
      s.cgSelf 0 < s.cgP 0 ∧ (∀ x ∈ s.others 0, s.flowSt (s.cgBase 0 + x) = 2 ∧ (s.flow (s.cgBase 0 + x)).held = []) ∧
      s.rdCtx 1 (0x100 + 1 * partL 8 2 * 2) (partLen 8 2 1 * 2) = .ok (List.replicate 8 (0, false))) ∧
    t.msFlow Probe.segD = some 8191 ∧ t.flowSt 8191 = 2 ∧ ∃ l, t.sgSource 1 0x9000 (t.u.molt.seg 0) = .ok l ∧
        t.tokensOk 1 l.flatten = true := by
  refine ⟨Probe.lone_of ?_, Probe.lone_of ?_, ?_, ?_, ?_, [[(.host, 0x40009000, 64)]], ?_⟩ <;> decide +kernel

/-- A DIRECT sum, a late-bound one of stream 63, and a gathering, with a staging area at 0x600. -/
def Probe.directD (op : Nat) : Desc := { Probe.collD with w2 := Probe.collD.w2 + BitVec.ofNat 64 (op + 8 + 63 * 2 ^ 40), w5 := 0x600 }
def Probe.direct (d : Desc) : State :=
  Probe.reg .lbrStream 63 (1 + 2 ^ 8 + 2 ^ 18 + 0x300 * 2 ^ 128 + 64 * 2 ^ 192)
    (Probe.reg .collGroup 0 (1 + 2 ^ 8 + 2 ^ 18 + 40 * 2 ^ 40 + 7 * 2 ^ 144) (Probe.flow 41 3 2 (Probe.desc d)))

theorem witness_CollectiveAndMoltSegmentSend_direct (op : Nat) (h : op ∈ [1, 2, 3]) :
    let d := Probe.directD op
    let s := Probe.direct d
    let z (n : Nat) : PBytes := List.replicate n (0#8, false)
    (Lone s 5 1 d ∧ Supplied s 5 d 1) ∧
    (s.tokensOk 1 (s.coPlaces 1 d) = true ∧ coOp d = op ∧ coDirect d = true ∧ coLbr d = (op == 3) ∧ s.u.colls = [] ∧
      s.u.mem.faulty = false ∧ s.cgP 0 = 2 ∧ s.cgSelf 0 = 0 ∧ (s.lbr (coStream d)).isOpen = false ∧
      (∀ x ∈ s.others 0, s.flowSt (s.cgBase 0 + x) = 2 ∧ (s.flow (s.cgBase 0 + x)).held = [])) ∧
    (s.rdCtx 1 0x100 8 = .ok (z 8) ∧ s.rdCtx 1 0x108 8 = .ok (z 8) ∧ partL (coN d) 2 = 4 ∧ (coIn d).ebits = 16 ∧
      partLen (coN d) 2 0 = 4 ∧ partLen (coN d) 2 1 = 4 ∧ anyPoison (z 8) = false ∧
      s.span 1 0x600 8 true = .ok [(.host, 0x40000600, 8)]) ∧
    (s.span 1 0x200 8 true = .ok [(.host, 0x40000200, 8)] ∧ ((outOf (coOut d) (w40s (coIn d) 4 (z 8))).elems).length = 8) := by
  fin_cases h <;> exact ⟨Probe.lone_of (by decide +kernel), by decide +kernel, by decide +kernel, by decide +kernel⟩

/-- The segment's destination is this device. -/
def Probe.moltStays : State :=
  let s := Probe.molt (Probe.desc Probe.segD)
  { s with u := { s.u with molt := { s.u.molt with segs := [[77, 0, 0x9000, 0x2000, 0, 0, 64, 0]] } } }

theorem witness_CollectiveAndMoltSegmentSend_stays :
    let s := Probe.moltStays
    let e := s.u.molt.seg 0
    let l : List (List (MemSel × Nat × Nat)) := [[(.host, 0x40009000, 64)]]
    (Lone s 5 1 Probe.segD ∧ Supplied s 5 Probe.segD 1) ∧ (s.msFlow Probe.segD = none ∧ msIndex Probe.segD = 0 ∧
      (s.u.molt.segIn 0).attempt = msAttempt Probe.segD ∧ (s.u.molt.segIn 0).ok = false ∧ (s.u.molt.segIn 0).rx = []) ∧
    (msAlt Probe.segD = false ∧ wf e 0x10 0 48 = 0x9000 ∧ s.sgSource 1 0x9000 e = .ok l ∧ (∀ p ∈ l, anyPoison (s.rdSpan p) = false) ∧
      s.tokensOk 1 (s.msPlaces (s.cmdOf 5 Probe.segD) e l (s.sgRead e l).1.length) = true) ∧
    (anyPoison (s.sgRead e l).1 = false ∧ (s.sgRead e l).1.length = sgStream e ∧ s.u.mem.faulty = false ∧
      exAll ((sgPlaces e 0 64).map fun p => s.span 1 p.1 p.2 true) = .ok [[(.host, 0x40002000, 64)]] ∧ sgStream e = 64 ∧
      wf (s.u.molt.shard (sgShard e)) 0 48 1 = 0) :=
  ⟨Probe.lone_of (by decide +kernel), by decide +kernel, by decide +kernel, by decide +kernel⟩

/-! ### Witnesses: the pieces of engine commands -/

set_option maxRecDepth 100000 in
theorem witness_EngineCommandsRunTheirPieces_tensor :
    (∃ c y, RunsTo (Probe.desc Probe.teBeginD) 5 1 Probe.teBeginD 1 true c y) ∧
      (∃ c y, RunsTo (Probe.group Probe.teAccD) 5 1 Probe.teAccD 1 true c y) ∧
    ∃ c y, RunsTo (Probe.group Probe.teEndD) 5 1 Probe.teEndD 1 true c y := by
  refine ⟨?_, ?_, ?_⟩ <;> exact ⟨_, _, fun _ => by with_unfolding_all rfl⟩

set_option maxRecDepth 100000 in
theorem witness_EngineCommandsRunTheirPieces_vector :
    (∃ c y, RunsTo (Probe.desc Probe.mapD) 5 1 Probe.mapD 1 true c y) ∧
      (∃ c y, RunsTo (Probe.desc Probe.reduceD) 5 1 Probe.reduceD 1 true c y) ∧
    ∃ c y, RunsTo (Probe.pepper Probe.sampleD) 5 1 Probe.sampleD 1 true c y := by
  refine ⟨?_, ?_, ?_⟩ <;> exact ⟨_, _, fun _ => by with_unfolding_all rfl⟩

theorem witness_EngineCommandsRunTheirPieces_lanes :
    (∃ c y, RunsTo (Probe.desc Probe.flagD) 5 1 Probe.flagD 1 true c y) ∧
      (∃ c y, RunsTo (Probe.pepper Probe.saveD) 5 1 Probe.saveD 1 true c y) ∧
    (∃ c y, RunsTo Probe.lanes 5 1 Probe.loadD 1 true c y) ∧ (∃ c y, RunsTo (Probe.pepper Probe.updateD) 5 1 Probe.updateD 1 true c y) ∧
    ∃ c y, RunsTo (Probe.desc Probe.topkD) 5 1 Probe.topkD 1 true c y := by
  refine ⟨Probe.flag_runs ?_ ?_ ?_, Probe.save_runs ?_ ?_ ?_, Probe.load_runs ?_ ?_ ?_ fun l h => Probe.scr_ne ((?_ : ∀ l < 528,
      (Probe.claimed Probe.lanes 5 1 Probe.loadD).scratch.byte ((Probe.started Probe.lanes 5 1 Probe.loadD).core * 2 ^ 21 +
        (dfld (Probe.started Probe.lanes 5 1 Probe.loadD).d 0x18 0 21 + 16 * l)) ≠ 0#8) l h),
    Probe.update_runs ?_ ?_ ?_ ?_ ?_, Probe.topk_runs ?_ ?_ ?_⟩ <;> decide +kernel

set_option maxRecDepth 100000 in
theorem witness_EngineCommandsRunTheirPieces_mover :
    (∃ c y, RunsTo (Probe.desc Probe.copyD) 5 1 Probe.copyD 1 true c y) ∧
    (∃ c y, RunsTo (Probe.bankPage (Probe.desc Probe.accD)) 5 1 Probe.accD 1 true c y) ∧
    (∃ c y, RunsTo (Probe.bankPage (Probe.desc Probe.drainD)) 5 1 Probe.drainD 1 true c y) ∧
    (∃ c y, RunsTo (Probe.desc Probe.pushD) 5 1 Probe.pushD 1 true c y) ∧
    (∃ c y, RunsTo (Probe.scree [Probe.screeEnt 0]) 5 1 Probe.popD 1 true c y) ∧
    (∃ c y, RunsTo (Probe.scr 0x100 1 1 (Probe.desc Probe.digestD)) 5 1 Probe.digestD 1 true c y) := by
  refine ⟨?_, ?_, ?_, ?_, ?_, ?_⟩ <;> exact ⟨_, _, fun _ => by with_unfolding_all rfl⟩

/-- A token with no choice and an expert table of one entry. -/
def Probe.dispatchD : Desc := { w0 := 0x85 + 5 * 2 ^ 8, w2 := 6 * 2 ^ 8, w3 := 0x100 + 0x200 * 2 ^ 32, w4 := 0x300 + 0x400 * 2 ^ 32,
                                w5 := 16 }

set_option maxRecDepth 100000 in
set_option exponentiation.threshold 600 in
theorem witness_EngineCommandsRunTheirPieces_fabric :
    (∃ c y, RunsTo (Probe.flow 8191 1 2 (Probe.desc Probe.putD)) 5 1 Probe.putD 1 false c y) ∧
    (∃ c y, RunsTo (Probe.flow 8191 1 2 (Probe.desc Probe.getD)) 5 1 Probe.getD 1 false c y) ∧
    (∃ c y, RunsTo (Probe.flow 8191 1 2 (Probe.desc Probe.addD)) 5 1 Probe.addD 1 false c y) ∧
    (Lone (Probe.desc Probe.dispatchD) 5 1 Probe.dispatchD ∧ Supplied (Probe.desc Probe.dispatchD) 5 Probe.dispatchD 1 ∧
      ∃ c y, RunsTo (Probe.desc Probe.dispatchD) 5 1 Probe.dispatchD 1 true c y) := by
  have h := Probe.lone_of (s := Probe.desc Probe.dispatchD) (q := 5) (k := 1) (d := Probe.dispatchD) (n := 1) (by decide +kernel)
  refine ⟨?_, ?_, ?_, h.1, h.2, ?_⟩ <;> exact ⟨_, _, fun _ => by with_unfolding_all rfl⟩

theorem witness_EngineCommandsRunTheirPieces_segment :
    ∃ c y, RunsTo (Probe.molt (Probe.desc Probe.segD)) 5 1 Probe.segD 1 false c y := by
  refine Probe.seg_runs (f := 8191) (l := [[(.host, 0x40009000, 64)]]) ?_ ?_ ?_ ?_ ?_ ?_ ?_ fun e x he hx => ?_
  case refine_3 => rw [msPrep, if_neg, flowPrep, if_neg, if_pos, if_neg] <;> decide +kernel
  case refine_8 =>
    subst he hx
    rw [msPrep, if_neg, flowPrep, if_neg, if_neg, if_pos] <;> decide +kernel
  all_goals decide +kernel

/-! ### Witnesses: retirement, gates, slots, contexts -/

/-- A retired command that asks for its record, and a retired JOB_BEGIN. -/
def Probe.fly (op : Nat) : Fly := { idx := 0, d := { w0 := BitVec.ofNat 64 (op + 2 ^ 16) }, done := true }
def Probe.retired (op : Nat) : State := Probe.coreU (fun c => { c with streams := [(5, { next := 1, fly := [Probe.fly op] })] }) Probe.queue

theorem witness_CompletionWritesRecordAndHead (op : Nat) (h : op ∈ [0, 1]) :
    let s := Probe.retired op
    let f := Probe.fly op
    let counted := ((match jobCounter f with | some k => Act.count .jobCount 1 k | none => .skip) : Act).run s
    (s.stream 5).fly = [f] ∧ f.done = true ∧ s.recordGoes 5 f = true ∧ s.runs = true ∧ s.ctxState 1 = 1 ∧ s.u.mem.faulty = false ∧
      hComplete f.d = true ∧
    s.span 1 (s.qCq 5 + f.idx % s.qSize 5 * 32) 32 true = .ok [(.host, 0x40002000, 32)] ∧ (jobCounter f = if op = 1 then some 0 else none) ∧
    ((Act.wrSpan [(.host, 0x40002000, 32)] (counted.flyRecord 5 f)).run s).span 1 (s.qHeadAddr 5) 4 true = .ok [(.host, 0x40003000,
      4)] := by
  fin_cases h <;> decide +kernel

/-- A VE command waits on gate 0, which has what WAIT asks, while gate 1 has nothing for STREAM. -/
def Probe.waitD : Desc := { Probe.flagD with w1 := 2 ^ 3 + 2 ^ 8 + 2 ^ 16 + 2 ^ 19 + 2 ^ 24 }
def Probe.waiting : State :=
  Probe.withCore (fun c => { c with gates := [(0, ⟨4, 3, 1⟩)] }) (Probe.coreU (fun c => { c with engQ := [(4,
      [Probe.cmd Probe.waitD])] }) Probe.queue)

theorem witness_GatesYieldsAndPhaseGating_claim :
    let s := Probe.waiting
    let m := Probe.cmd Probe.waitD
    let taken : Cmd := { (runOf m.d).latch s m with waited := true }
    let claimed := (Act.all [.claim m (hWait m.d), .front taken]).run s
    (s.engQ 0 4 = [m] ∧ s.runs = true ∧ s.ctxState 1 = 1 ∧ s.headsAll m = true ∧ m.core = 0 ∧ s.suspended m = false ∧
      claimed.suspended taken = false ∧ m.waited = false ∧ hWait m.d = some (0, 1) ∧ 1 ≤ (s.gate 0 1 0).filled ∧ taken.streamed = false ∧
      claimed.canClaim taken (hStream taken.d) = false ∧ taken.core = 0 ∧ taken.ctx = 1) ∧ (runOf m.d).prep claimed taken = .ready taken :=
  ⟨by decide +kernel, rfl⟩

/-- The same with both claims made and no credits to post. -/
def Probe.postD : Desc := { Probe.flagD with w1 := 7 * 2 ^ 32 + 2 ^ 35 + 2 ^ 40 }
def Probe.posting : State :=
  Probe.coreU (fun c => { c with engQ := [(4, [{ Probe.cmd Probe.postD with waited := true, streamed := true }])] }) Probe.queue

theorem witness_GatesYieldsAndPhaseGating_post :
    let s := Probe.posting
    let m := { Probe.cmd Probe.postD with waited := true, streamed := true }
    (s.engQ 0 4 = [m] ∧ s.runs = true ∧ s.ctxState 1 = 1 ∧ s.headsAll m = true ∧ m.core = 0 ∧ m.posted = false ∧ hPost m.d = some (7, 1) ∧
      s.canPost m = false ∧ s.slotOf 0 1 = some 1) ∧ ∀ x : State, (runOf m.d).prep x m = .ready m :=
  ⟨by decide +kernel, fun _ => rfl⟩

/-- A TE_ACCUMULATE of context 1, of class BE, before a command of context 2 that waits. -/
def Probe.accM : Cmd := { Probe.cmd { w0 := 0x21 + 2 ^ 8 } with started := true }
def Probe.lcM : Cmd := { Probe.cmd { w0 := 0x22 + 2 ^ 8, w1 := 2 ^ 3 + 2 ^ 8 } with ctx := 2 }
def Probe.yielding : State :=
  Probe.reg .ctxAdmin 1 1 (Probe.reg .ctxAdmin 2 0 (Probe.coreU (fun c => { c with engQ := [(1, [Probe.accM, Probe.lcM])] }) Probe.queue))

theorem witness_GatesYieldsAndPhaseGating_yield :
    let s := Probe.yielding
    (s.engQ 0 1 = [Probe.accM, Probe.lcM] ∧ s.runs = true ∧ hOpcode Probe.accM.d = 0x21 ∧ Probe.accM.started = true ∧ Probe.accM.bun = 0 ∧
      s.isLC 1 = false ∧ s.isLC 2 = true ∧ Probe.lcM.waited = false ∧
      s.canClaim Probe.lcM (hWait Probe.lcM.d) = false) ∧
    (Probe.live.rd .deviceState ≤ 1 ∧ (Probe.reg .phaseGating 0 1 Probe.live).rd .deviceState ≤ 1 ∧
      (Probe.reg .phaseGating 0 1 Probe.live).rd .phaseGating = 1 ∧
      bit (awakeMask ((Probe.reg .phaseGating 0 1 Probe.live).rd .phase)) 12 = false ∧
      (Probe.reg .phaseGating 0 1 Probe.live).unitBusy 12 191 = false) := by decide +kernel

/-- Context 2 waits for slot 1 of core 0, which context 1 holds. -/
def Probe.slots (over_ : Bool) : State :=
  let s := Probe.coreU (fun c => { c with slots := [(1, { holder := some 1, sliceOver := over_ })], slotWait := [(0, [2])] }) Probe.queue
  Probe.reg .queueState 6 (2 ^ 32) (Probe.reg .queueCfg 6 (1 + 2 * 2 ^ 8 + 4 * 2 ^ 32)
    (Probe.reg .ctxState 2 1 (Probe.reg .ctxAdmin 2 1 (Probe.reg .ctxAdmin 1 1 s))))

/-- Its queue's descriptor is not fetched yet. -/
def Probe.unfetched : State := Probe.coreU (fun c => { c with cc := [] }) (Probe.desc {})

/-- All that `Turn` asks, as one check. -/
theorem Probe.turn_of {s : State} {q k : Nat} (h : (s.runs && s.fetchable q 0 && s.columnOn (s.qCore q) && !s.loopback &&
    s.slotOf (s.qCore q) (s.qCtx q) == some k && s.serves (s.qCore q) k (s.qCtx q) q && !s.rotating (s.qCore q) k && s.turn (s.qCore q) k &&
    (s.stream q).fly.isEmpty) = true) : Turn s q k := by
  simp only [Bool.and_eq_true, Bool.not_eq_true', beq_iff_eq, List.isEmpty_iff] at h
  obtain ⟨⟨⟨⟨⟨⟨⟨⟨h1, h2⟩, h3⟩, h4⟩, h5⟩, h6⟩, h7⟩, h8⟩, h9⟩ := h
  exact ⟨h1, h2, h3, h4, h5, h6, h7, h8, fun f hf => by rw [h9] at hf; cases hf⟩

theorem witness_SlotsPassOn_fetch :
    let s := Probe.unfetched
    Turn s 5 1 ∧ Turn ((Act.fetch 0 1 5).run s) 5 1 ∧ s.fetched 0 1 5 = none ∧ s.u.mem.faulty = false ∧ s.stack.poison = [] ∧
        s.host.poison = [] ∧
    s.rdCtx 1 (s.descAddr 5 (s.stream 5).next) 64 = .ok (List.replicate 64 (0, false)) := by
  refine ⟨Probe.turn_of ?_, Probe.turn_of ?_, ?_⟩ <;> decide +kernel

theorem witness_SlotsPassOn :
    let s := Probe.slots false
    let t := Probe.slots true
    (s.slot 0 1).holder = some 1 ∧ s.idleOn 0 1 = true ∧ (s.nextHolder 0 1).isSome = true ∧ (s.slot 0 1).sliceOver = false ∧
    (t.slot 0 1).holder = some 1 ∧ t.runs = true ∧ (t.slot 0 1).sliceOver = true ∧ t.nextHolder 0 1 = some 2 ∧ t.bundleRuns 0 1 = false ∧
    t.allStop 0 1 = true ∧ t.poolHolds 0 1 = true ∧ (∀ e, e < 7 → ∀ m ∈ t.engQ 0 e, m.ctx = 1) ∧ (t.ctxCore 0 2).saved = [] ∧
    (∀ j : Fin 4, j ≠ 1 → (t.slot 0 j).holder = none) ∧ t.slotOf 0 1 = some 1 ∧ t.rotating 0 1 = true := by decide +kernel

/-- The save pool is full. -/
def Probe.full : State :=
  let s := Probe.slots true
  Probe.coreU (fun c => { c with cc := [(1, {}), (5, { grp := [(0, { m := 2 ^ 21 })] })] }) s

theorem witness_SlotsPassOn_full : (Probe.full.slot 0 1).holder = some 1 ∧ Probe.full.runs = true ∧ (Probe.full.slot 0 1).sliceOver = true ∧
    Probe.full.nextHolder 0 1 = some 2 ∧ Probe.full.bundleRuns 0 1 = false ∧ Probe.full.allStop 0 1 = true ∧
        Probe.full.poolHolds 0 1 = false ∧ ∀ e, e < 7 → Probe.full.engQ 0 e = [] := by
  decide +kernel

theorem witness_LimitsOfBundlesAndCommands :
    let s := Probe.coreU (fun c => { c with streams := [(5, { bundle := 1, bun := 1, bunOn := [1] })] }) Probe.queue
    let t := Probe.coreU (fun c => { c with engQ := [(4, [Probe.cmd Probe.flagD])] }) Probe.queue
    (s.stream 5).running = [1] ∧ s.qCore 5 < 192 ∧ (s.stream 5).bunLong < 1 ∧ s.ctxState (s.qCtx 5) = 1 ∧ s.u.mem.faulty = false ∧
    t.engQ 0 4 = [Probe.cmd Probe.flagD] ∧ t.headsAll (Probe.cmd Probe.flagD) = true ∧ t.ctxState (t.qCtx 5) = 1 := by decide +kernel

/-- A teardown of context 1023 under way. -/
def Probe.tearing (x : Tear) : State := Probe.reg .ctxState 1023 2 (Probe.coreU (fun c => { c with tear := [(1023, x)] }) Probe.live)

theorem witness_TeardownEndsFaultedOrFree :
    ((Probe.tearing {}).ctxState 1023 = 2 ∧ tget (Probe.tearing {}).u.core.tear 1023 = some {} ∧ (Probe.tearing {}).coresOf 1023 = [] ∧
      (Probe.tearing {}).moltOf 1023 = false ∧ (Probe.tearing {}).loopback = false) ∧
    ((Probe.tearing { reset := true }).ctxState 1023 = 2 ∧
      tget (Probe.tearing { reset := true }).u.core.tear 1023 = some { reset := true } ∧
      (Probe.tearing { reset := true }).coresOf 1023 = [] ∧ (Probe.tearing { reset := true }).moltOf 1023 = false ∧
      (Probe.tearing { reset := true }).loopback = false) := by decide +kernel

theorem witness_CoreEntriesTakeWrites :
    let s := Probe.reg .pepperReady 1023 0 (Probe.held Probe.live)
    let r : Requester := .hostPf
    (Accepts s r .monClear 0 16383 ∧ s.mayMon r 16383 = true) ∧
    (Accepts s r .readIndex 1023 0 ∧ s.ctxGate 1023 = stOk ∧ dist32 0 (s.rd .writeIndex 1023) ≤ s.rd .ringSize 1023) ∧
    (Accepts s r .ringBase 1023 64 ∧ s.ctxGate 1023 = stOk) ∧ (Accepts s r .ringSize 1023 0 ∧ ringSizeOk 0 = true) ∧
    (Accepts s r .accSplit 0 0x88 ∧ s.safeMode = false ∧ s.groupsOpen = false ∧ splitSum 0x88 0 ≤ 8 ∧ splitSum 0x88 4 ≤ 8) ∧
    (Accepts s r .pepperSeed 1023 0xFFFFFFFFFFFFFFFF ∧ s.unretired 1023 = false) ∧ s.rd .pepperReady 1023 = 0 ∧
    (Accepts s r .screeDiscard 0 191 ∧ s.mayDiscard r 191 = true ∧ (s.scree 191).state = 0) ∧
    (let v := 1 + 6 + 1023 * 2 ^ 8 + 8 * 2 ^ 128 + 8 * 2 ^ 192
     Accepts s r .splitGrad 63 v ∧ s.ctxGate (s.ctxField .splitGrad 63) = stOk ∧ s.mayWriteCtx r (bits v 8 10) = true ∧
         s.splitOk 63 v = true) := by
  unfold Accepts
  decide +kernel

theorem witness_CoreEntriesTakeWrites_idle : ∀ core,
    (Probe.reg .pepperReady 1023 0 (Probe.held Probe.live)).engQ core 4 = [] := fun _ => rfl

theorem witness_ContextEntriesTakeWrites :
    let s := Probe.held Probe.ctx1
    let r : Requester := .hostPf
    (Accepts s r .ptRoot 1023 0x3000000000 ∧ s.ctxGate 1023 = stOk ∧ s.rootOk 0x3000000000 = true ∧ s.unretired 1023 = false) ∧
    (Accepts s r .ctxReset 1 1 ∧ s.ctxState 1 = 1) ∧ (Accepts s r .ctxReset 1023 1 ∧ s.ctxState 1023 = 0) ∧
    Accepts s r .ptInvalidate 1023 1 ∧
    (Accepts s r .tidOwner 16383 0x8001 ∧ bit 0x8001 15 = true ∧ reqRules r = true ∧ s.tidOwner 16383 = none ∧
      s.ctxState (bits 0x8001 0 10) = 1) ∧
    (Accepts s r .tidOwner 16383 0 ∧ bit 0 15 = false ∧ s.tidOwner 16383 = none) ∧
    (Accepts s r .ctxAdmin 1023 0xFFF ∧ s.ctxState 1023 = 0) ∧
    (Accepts s r .queueCfg 65535 (1 + 2 ^ 8 + 191 * 2 ^ 18 + 16 * 2 ^ 32 + 2047 * 2 ^ 48) ∧ s.ctxGate (s.qCtx 65535) = stOk ∧
      s.mayWriteCtx r (bits (1 + 2 ^ 8 + 191 * 2 ^ 18 + 16 * 2 ^ 32 + 2047 * 2 ^ 48) 8 10) = true ∧
      queueZero (1 + 2 ^ 8 + 191 * 2 ^ 18 + 16 * 2 ^ 32 + 2047 * 2 ^ 48) = true ∧
      bits (1 + 2 ^ 8 + 191 * 2 ^ 18 + 16 * 2 ^ 32 + 2047 * 2 ^ 48) 48 11 < vecCount (s.ctxFn (bits (1 + 2 ^ 8 + 191 * 2 ^ 18 + 16 * 2 ^ 32 + 2047 * 2 ^ 48) 8 10)) ∧
      s.qValid 65535 = false ∧ s.coreAllowed 191 = true ∧
          s.queueOk 65535 (1 + 2 ^ 8 + 191 * 2 ^ 18 + 16 * 2 ^ 32 + 2047 * 2 ^ 48) = true) := by
  unfold Accepts
  decide +kernel

theorem witness_RefusedWritesChangeNothing :
    Probe.live.served .hostPf = true ∧ findEntry 0x2020 1 = some (.accSplit, 0) ∧
        Probe.live.wrGuard .hostPf .accSplit 0 ≠ stOk := by decide +kernel

/-! ### Witnesses: the host interface -/

theorem witness_DoorbellsMoveTail :
    let s := Probe.queue
    let t := Probe.pow (fun p => { p with ready := false }) s
    let v := Probe.reg .queueCfg 65535 (1 + 2 ^ 8 + 16 * 2 ^ 32) s
    let r := Probe.pow (fun p => { p with restarting := true }) s
    let b := Probe.pow (fun p => { p with held := [.write 0 [1] false] }) s
    let f := Probe.pow (fun p => { p with fatal := true }) t
    let g := Probe.pow (fun p => { p with fatal := true }) s
    (t.u.pow.power = true ∧ t.u.pow.linkUp = true ∧ t.u.pow.fatal = false ∧ t.u.pow.ready = false) ∧
    (r.u.pow.power = true ∧ r.u.pow.linkUp = true ∧ r.u.pow.fatal = false ∧ r.u.pow.restarting = true) ∧
    (b.u.pow.power = true ∧ b.u.pow.linkUp = true ∧ b.u.pow.fatal = false ∧ .write 0 [1] false ∈ b.u.pow.held) ∧
    (f.u.pow.power = true ∧ f.u.pow.linkUp = true ∧ f.u.pow.fatal = true ∧ f.u.pow.ready = false) ∧
    (g.u.pow.linkUp = true ∧ g.u.pow.ready = true ∧ g.u.pow.restarting = false ∧ g.u.pow.held = [] ∧ g.u.pow.fatal = true ∧
      g.qValid 5 = true ∧ g.ctxFn (g.qCtx 5) = 0) ∧
    (s.u.pow.power = true ∧ s.u.pow.linkUp = true ∧ s.u.pow.fatal = false ∧ s.u.pow.ready = true ∧ s.u.pow.restarting = false ∧
      s.u.svc.frozen = false ∧ s.u.pow.held = []) ∧
    s.ctxFn (s.qCtx 5) ≠ 31 ∧ (v.qValid 65535 = true ∧ v.ctxFn (v.qCtx 65535) = 0 ∧ v.ctxState (v.qCtx 65535) = 1 ∧
      (v.slotOf (v.qCore 65535) (v.qCtx 65535)).isSome = true) ∧
    dist32 (v.qTail 65535) 65536 ≤ dist32 (v.qTail 65535) (idx32 (v.qHead 65535 + v.qSize 65535)) ∧
    dist32 (v.qTail 65535) (idx32 (v.qHead 65535 + v.qSize 65535)) < dist32 (v.qTail 65535) 65537 := by decide +kernel

theorem witness_FunctionLevelResetResets : Probe.queue.u.pow.linkUp = true := by decide +kernel

/-- BAR4 has 64 GiB and begins where the host buffer does, or at the firmware region; a loop-back of stack 19. -/
def Probe.bar (base : Nat) : State := Probe.reg .apertureBase 0 base (Probe.hostU (fun h => { h with bar4 := 6 }) Probe.live)
def Probe.looped : State := Probe.reg .lbCtrl 0 (2 ^ 31 + 19) (Probe.bar 0)

theorem witness_ApertureReachesMemory :
    let s := Probe.bar Probe.live.u.mem.hb
    let t := Probe.pow (fun p => { p with nap := true }) s
    let v := Probe.bar firmwareBase
    let last : Held := .write (2 ^ 36 - 1) [1] true
    (s.hostReach = true ∧ s.u.mem.faulty = false ∧ s.u.pow.nap = false ∧ s.u.pow.napEntering = false ∧ s.u.pow.memOn = true ∧
      s.u.pow.failedCh = []) ∧
    (s.apHolds (.read (2 ^ 36 - 4096) 4096) = false ∧ 2 ^ 36 - 4096 + 4096 ≤ 2 ^ (30 + s.u.host.bar4) ∧
      ((pieces (s.rd .apertureBase + (2 ^ 36 - 4096)) 4096).all fun p => apReadable (s.u.mem.region p.1)) = true) ∧
    (s.apHolds last = false ∧ ((pieces (s.rd .apertureBase + (2 ^ 36 - 1)) 1).all fun p => apWritable (s.u.mem.region p.1)) = true) ∧
    (t.hostReach = true ∧ t.u.pow.nap = true) ∧
    (v.hostReach = true ∧ v.u.pow.memOn = true ∧ ((pieces (v.rd .apertureBase) 1).all fun p => apReadable (v.u.mem.region p.1)) = false ∧
      ((pieces (v.rd .apertureBase) 1).all fun p => apWritable (v.u.mem.region p.1)) = false) ∧
    ¬ 2 ^ 36 - 1 + 2 ≤ 2 ^ (30 + s.u.host.bar4) := by decide +kernel

theorem witness_ApertureReachesMemory_held :
    let a := (stackSize + 127) / 128 * 128 - 128
    Probe.looped.hostReach = true ∧ Probe.looped.u.mem.faulty = false ∧
      (((List.range 64).map fun i => Probe.looped.apHolds (.read (a - 128 * i) 1)).contains true) = true ∧
      (((List.range 64).map fun i => Probe.looped.apHolds (.write (a - 128 * i) [1] false)).contains true) = true := by decide +kernel

theorem witness_ApertureReachesMemory_inv : (Probe.bar Probe.live.u.mem.hb).Inv := Probe.inv_of (by decide +kernel)

theorem witness_LinkAndVectorEvents :
    let s := Probe.live
    let n := Probe.pow (fun p => { p with ready := false }) s
    (s.u.pow.linkUp = true ∧ s.u.pow.ready = true ∧ 31 ∉ s.u.host.flr) ∧ (n.u.pow.ready = false ∧ n.bootStrap ≠ 1) ∧
    (Probe.hostU (fun h => { h with flr := [31] }) s).u.host.flr = [31] ∧
    (s.u.pow.power = true ∧ s.u.pow.perstSeen = true ∧ s.u.pow.deep = false ∧ s.u.pow.perst = false) ∧ s.hostReach = true ∧
      2047 < vecCount 0 ∧ 63 < vecCount 31 := by
  decide +kernel

/-- Channel 63 of function 31, enabled, in a state. -/
def Probe.mbx (x : Mbx) : State := Probe.reg .mbxCfg 63 (1 + 31 * 2 + 2 ^ 28) (Probe.hostU (fun h => { h with mbx := [(63,
    x)] }) Probe.live)

/-- An answer of the firmware waits for the channel. -/
def Probe.mailWaits (x : Mbx) : State := Probe.hostU (fun h => { h with mailDue := [(63, 5)] }) (Probe.mbx x)

theorem witness_MailboxOperations :
    let h : Side := .host 31
    let c : Side := .core 7
    let reach (x : Mbx) (side : Side) : Prop := (Probe.mbx x).mbxReach side 63 = true ∧ (Probe.mbx x).mbx 63 = x ∧
      (Probe.mbx x).u.host.mailDue = [] ∧
      (Probe.mailWaits x).mbxReach side 63 = true ∧ (Probe.mailWaits x).mbx 63 = x ∧ (Probe.mailWaits x).fwRuns = true ∧
      (Probe.mailWaits x).u.host.mailDue.find? (fun e => e.1 == 63) = some (63, 5)
    reach {} h ∧ (reach { state := 1 } h ∧ holdsMbx { state := 1 } h = true ∧ holdsMbx { state := 1 } c = false) ∧
    (reach { state := 1, holder := 1, core := 7 } c ∧ holdsMbx { state := 1, holder := 1, core := 7 } c = true) ∧
    (reach { state := 2, poster := 1 } h ∧ ({ state := 2, poster := 1 } : Mbx).poster ≠ postBit h) ∧
    (reach { state := 2 } h ∧ holdsMbx { state := 2 } h = true ∧ ({ state := 2 } : Mbx).poster = postBit h) := by decide +kernel

theorem witness_DoorbellRegistersAndTimeouts :
    ((Probe.mbx { state := 2 }).mbxReach (.host 31) 63 = true ∧ (Probe.mbx { state := 2 }).fwRuns = true ∧
      ((Probe.mbx { state := 2 }).mbx 63).state = 2 ∧
      ((Probe.mbx { state := 2 }).mbx 63).poster = 0 ∧ ((Probe.mbx { state := 2 }).mbx 63).holder = 0 ∧
        (Probe.mbx { state := 2 }).u.host.mailDue = []) ∧
    ((Probe.mbx { state := 2, poster := 1 }).mbx 63).poster ≠ 0 ∧ ((Probe.mbx {}).mbxReach (.host 31) 63 = true ∧
      ((Probe.mbx {}).mbx 63).state = 0) ∧
    (Probe.pow (fun p => { p with restarting := true }) Probe.live).fwRuns = false := by decide +kernel

/-- Source 73 pends on control core 7 in a class, its interrupts enabled. -/
def Probe.irq (cls : Nat) : State :=
  let core : CtlCore := { mstatus := 8, priv := 3, fastActive := false }
  Probe.hostU (fun h => { h with src := [(73, 1 + cls * 2 + 7 * 2 ^ 2)], flr := [1], cores := [(7, core)] }) Probe.live

theorem witness_InterruptClaimsAndEnds :
    (Probe.irq 0).fwRuns = true ∧ ((Probe.irq 0).ctl 7).inNormal = 256 ∧ ((Probe.irq 0).ctl 7).inFast = 256 ∧
    ((Probe.hostU (fun h => { h with cores := [(7, { inNormal := 73 })] }) (Probe.irq 0)).ctl 7).inNormal = 73 ∧
      ((Probe.irq 0).ctl 7).inNormal ≠ 73 := by decide +kernel

theorem witness_ControlCoresTrapAndReturn :
    (((Probe.irq 1).ctl 7).inFast = 256 ∧ (Probe.irq 1).pendingSrc 7 true = 73 ∧ (Probe.irq 1).fwRuns = true) ∧
    ((Probe.irq 0).takesNormal 7 = true ∧ (Probe.irq 0).pendingSrc 7 false = 73) ∧
    ((Probe.hostU (fun h => { h with cores := [(7, { fastActive := true })] }) (Probe.irq 0)).ctl 7).fastActive = true := by decide +kernel

/-- Both modules run; session 255 is open. -/
def Probe.modules : State := Probe.reg .sessionState 255 1 (Probe.reg .policyState 0 1 (Probe.reg .policyState 1 1 (Probe.mbx {})))

theorem witness_PolicyModulesDecide :
    let s := Probe.modules
    let t := Probe.reg .policyState 0 1 (Probe.reg .policyState 1 1 (Probe.mbx { state := 2, msg := (0x80 + 240 * 2 ^ 32) * 2 ^ 64 }))
    let b := Probe.reg .policyState 0 1 (Probe.reg .policyState 1 1 (Probe.mbx { state := 2, msg := (0x80 + 241 * 2 ^ 32) * 2 ^ 64 }))
    (s.imgHeld 0xFFFFFFFFFFFFFFFF = false ∧ s.imgHeld 0 = false ∧ s.u.mem.faulty = false) ∧
      Accepts (Probe.held s) .hostPf .policyLoad 0 0xFFFFFFFFFFFFFFFF ∧ Accepts (Probe.held s) .hostPf .policyLoad 1 0 ∧
    (s.fwRuns = true ∧ s.policyRuns 0 = true ∧ s.policyRuns 1 = true ∧ s.sesLive 255 = true ∧
      orderOk (min 4096 ((s.ses 255).cands (!s.isLC (s.ses 255).ctx)).length) [] = true ∧
          orderOk (min 4096 ((s.ses 255).cands (!s.isLC (s.ses 255).ctx)).length) [0] = false) ∧
    (s.policyChannel 63 = true ∧ (s.mbx 63).state = 0) ∧ (t.fwRuns = true ∧ t.policyRuns 1 = true ∧ t.policyChannel 63 = true ∧
      (t.mbx 63).state = 2 ∧ (t.mbx 63).poster = 0 ∧ mailBroken (mailHdr (t.mbx 63)) = false) ∧ (b.fwRuns = true ∧ b.policyRuns 1 = true ∧
      b.policyChannel 63 = true ∧ (b.mbx 63).state = 2 ∧ (b.mbx 63).poster = 0 ∧ mailBroken (mailHdr (b.mbx 63)) = true ∧
      b.u.host.mailDue = []) := by
  unfold Accepts
  decide +kernel

theorem witness_PolicyModulesDecide_choice :
    let s := Probe.reg .policyState 1 1 (Probe.slots false)
    s.fwRuns = true ∧ s.policyRuns 1 = true ∧ 0 < (s.waiters 0 1).length := by decide +kernel

/-! ### Witnesses: the dictionary, MCTP and SPDM -/

/-- Something of the dictionary unit. -/
def Probe.dict (f : DictU → DictU) (s : State) : State := { s with u := { s.u with dict := f s.u.dict } }

/-- A snapshot of VERSION_SHARE 255 is kept for the physical function. -/
def Probe.snap : State := Probe.dict (fun d => { d with ids := [(.hostPf, { snaps := [(0x65FF02, (1,
    List.replicate 128 0))] })] }) Probe.live

theorem witness_ReadsAreAnswered_serves :
    Serves Probe.live .hostPf (Probe.pdu 1 0x9240 6 0 1) opRead ∧ Serves Probe.live .hostPf (Probe.pdu 1 0x65FF 2 0 16) opRead ∧
    Serves Probe.snap .hostPf (Probe.pdu 1 0x65FF 2 127 16) opRead ∧ Serves Probe.live .hostPf (Probe.pdu 1 0x2020 2 0 1) opRead ∧
    Serves Probe.live .hostPf (Probe.pdu 3 0x9240 6 0 0) opInfo ∧ Serves Probe.live .hostPf (Probe.pdu 4 0 0 0 0) opNext :=
  ⟨Probe.serves_of (by decide +kernel), Probe.serves_of (by decide +kernel), Probe.serves_of (by decide +kernel),
    Probe.serves_of (by decide +kernel),
    Probe.serves_of (by decide +kernel), Probe.serves_of (by decide +kernel)⟩

theorem witness_ReadsAreAnswered :
    let s := Probe.live
    let p := Probe.pdu 1 0x9240 6 0 1
    let w := Probe.pdu 1 0x65FF 2 0 16
    let v := Probe.pdu 1 0x65FF 2 127 16
    (findKey (pduKey p) = some (.locate, 0) ∧ s.rdGuard .hostPf .locate 0 = stOk ∧ EName.locate.whole = false ∧ pduOff p = 0 ∧
      EName.locate.info.size ≤ pduLen p) ∧
    (findKey (pduKey w) = some (.versionShare, 255) ∧ s.rdGuard .hostPf .versionShare 255 = stOk ∧ EName.versionShare.whole = true ∧
      pduOff w = 0) ∧
    (0 < pduOff v ∧ pduOff v < EName.versionShare.info.size ∧
      tget (Probe.snap.did .hostPf).snaps (pduKey v) = some (1, List.replicate 128 0) ∧
      Probe.snap.now < 1 + 10 ^ 9) ∧
    (findKey (pduKey (Probe.pdu 1 0x9240 2 0 1)) = some (.serviceEn, 0) ∧ s.hasRight .hostPf .locate 0 = true) ∧
    (∃ a, s.nextFor .hostPf (fun _ => true) addrFuel 0 = some a) :=
  ⟨by decide +kernel, by decide +kernel, by decide +kernel, by decide +kernel, 0x100001, by decide +kernel⟩

theorem witness_ReadsAreAnswered_peer :
    let s := Probe.reg .peerDict 0 0 { Probe.live with u := { Probe.live.u with wasUp := true } }
    let p := Probe.pdu 1 0x1000 4 0 8
    reqClass (.peer 5) = 3 ∧ s.rd .peerDict = 0 ∧ s.pathOpen (.peer 5) = true ∧ s.fwRuns = true ∧ pduGood p = true ∧ pduOp p = opRead := by
  decide +kernel

/-- A mailbox channel of the physical function holds a request of this header. -/
def Probe.mailed (h : Nat) (p : Pdu) : State :=
  let held : Mbx := { state := 2, msg := h * 2 ^ 64 + leNat (pduBytes p) * 2 ^ 128 }
  Probe.reg .mbxCfg 63 1 (Probe.hostU (fun u => { u with mbx := [(63, held)] }) Probe.live)

theorem witness_ReadsAreAnswered_mail (h : Nat) (g : h ∈ [1 + 255 * 2 ^ 16 + 16 * 2 ^ 32, 1 + 2 ^ 8 + 16 * 2 ^ 32, 4 + 16 * 2 ^ 32]) :
    let p := Probe.pdu 1 0x9240 6 0 1
    let s := Probe.mailed h p
    (s.mailOf .hostPf p = some 63 ∧ s.pathOpen .hostPf = true ∧ s.fwRuns = true ∧ s.u.host.mailDue = [] ∧ s.u.host.mail = []) ∧
    mailHdrGood (mailHdr (s.mbx 63)) = (bits h 0 16 == 1) ∧ (pduGood p = true ∧ pduOp p = opRead ∧ findKey (pduKey p) = some (.locate, 0) ∧
      s.rdGuard .hostPf .locate 0 = stOk ∧ EName.locate.whole = false ∧ pduOff p = 0 ∧ EName.locate.info.size ≤ pduLen p ∧
      (s.did .hostPf).stKey = none) := by
  fin_cases g <;> decide +kernel

/-- A written entry and its write. -/
def Probe.locate : Pdu := Probe.pdu 2 0x9240 6 0 1 [1]
def Probe.enable : Pdu := Probe.pdu 2 0x9240 2 0 1 [0]
def Probe.kept : State := Probe.dict (fun d => { d with ids := [(.hostPf, { kept := [(9, 0x924006, 0, 0, 1000)] })] }) Probe.live

theorem witness_WritesAreApplied_serves :
    Serves Probe.live .hostPf Probe.locate opWrite ∧ Serves Probe.live .hostPf Probe.enable opWrite ∧
        Serves Probe.kept .hostPf Probe.locate opWrite ∧
    EName.locate.rule = ruleAny .locate ∧ EName.serviceEn.rule = ruleAny .serviceEn :=
  ⟨Probe.serves_of (by decide +kernel), Probe.serves_of (by decide +kernel), Probe.serves_of (by decide +kernel), rfl, rfl⟩

theorem witness_WritesAreApplied :
    let s := Probe.live
    let p := Probe.locate
    let e := Probe.enable
    (s.keptFor .hostPf p = none ∧ findKey (pduKey p) = some (.locate, 0) ∧ s.wrGuard .hostPf .locate 0 = stOk ∧
      EName.locate.whole = false ∧ pduOff p = 0 ∧
      pduLen p = EName.locate.info.size ∧ pduFinal p = true ∧ s.applyGuard .locate (leNat p.data) = stOk ∧
          EName.locate.info.pers ≠ .store) ∧
    (s.keptFor .hostPf e = none ∧ findKey (pduKey e) = some (.serviceEn, 0) ∧ s.wrGuard .hostPf .serviceEn 0 = stOk ∧
      EName.serviceEn.whole = false ∧ pduOff e = 0 ∧
      pduLen e = EName.serviceEn.info.size ∧ pduFinal e = true ∧ s.applyGuard .serviceEn (leNat e.data) = stOk ∧
          EName.serviceEn.info.pers = .store ∧
      s.safeMode = false) ∧
    Probe.kept.keptFor .hostPf p = some 0 ∧ Probe.kept.u.dict.storeDue = [] := by decide +kernel

/-- The port of the physical function names LOCATE and holds 1. -/
def Probe.port : State := Probe.dict (fun d => { d with ports := [(0, { index := 0x9240, sub := 6, buf := [1] })] }) Probe.live

theorem witness_WindowReachesEntries :
    let s := Probe.port
    let off := 0x9240 * 128 + 6 * 8
    (s.winOpen 0 = true ∧ slotBase ≤ off ∧ s.served .hostPf = true ∧ findKey (off / 128 * 256 + off % 128 / 8) = some (.locate, 0) ∧
      off / 128 < 0xF000 ∧
      EName.locate.whole = false ∧ s.wrGuard .hostPf .locate 0 = stOk ∧ off % 8 = 0 ∧ s.applyGuard .locate (leNat [1]) = stOk ∧
      s.rdGuard .hostPf .locate 0 = stOk) ∧
    ((s.aport 0).pending = false ∧ s.romServes .hostPf = false ∧ (s.aport 0).index < 0xF000 ∧
      findKey ((s.aport 0).index * 256 + (s.aport 0).sub) = some (.locate, 0) ∧
      s.applyGuard .locate (leNat ((s.aport 0).buf.take 1)) = stOk ∧ s.hasRight .hostPf .locate 0 = true) ∧
    s.nextFor .hostPf (fun _ => true) addrFuel ((s.aport 0).index * 256 + (s.aport 0).sub) = some 0x924007 := by decide +kernel

theorem witness_LockStagingAndStore :
    let s := Probe.live
    let r : Requester := .hostPf
    let staged : DictId := { stKey := some 0x65FF02, stData := [1] }
    let due : StoreDue := { key := 0x924002, answers := [.answer r Probe.enable] }
    let t := Probe.dict (fun d => { d with ids := [(r, staged)], storeDue := [due], sent := [(255, 7, { dest := 7 })] }) s
    (Accepts s r .cfgLock 0 1 ∧ Accepts s r .cfgLock 0 0 ∧ s.u.dict.holder = none) ∧ (Probe.held s).u.dict.holder.isSome = true ∧
      (t.did r).stKey.isSome = true ∧
    (Accepts (Probe.held s) r .storeFactory 0 1) ∧
    (findEntry 0x9240 6 = some (.locate, 0) ∧ Accepts s r .locate 0 (leNat [1]) ∧ EName.locate.info.size = 1) ∧
    (t.u.dict.storeDue = [{ key := 0x924002, answers := [.answer r Probe.enable] }] ∧ t.u.host.mail = [] ∧ t.noFlash = false ∧
      t.safeMode = false) ∧
    (t.u.dict.sent.find? (fun e => e.1 == 255) = some (255, 7, { dest := 7 }) ∧ t.fwRuns = true) := by
  unfold Accepts
  decide +kernel

theorem witness_LockStagingAndStore_answers : ∀ o ∈ [Out.answer .hostPf Probe.enable], ∀ a p, o ≠ .answer (.peer a) p := by
  intro o h a p e
  simp [List.mem_singleton.mp h] at e

theorem witness_MctpControlAnswers : Probe.live.pathOpen (.bmc 0) = true ∧ (8#8 : Byte) ≠ 0 ∧ (8#8 : Byte) ≠ 255 ∧
    (0xFF#8 : Byte).toNat ∈ [0xFF, 0x00, 0x05, 0x7F] ∧ (1#8 : Byte).toNat ∉ [0xFF, 0x00, 0x05, 0x7F] := by decide +kernel

/-- An SPDM responder at a stage on both transports. -/
def Probe.spdm (k : Nat) : State :=
  let s := Probe.live
  { s with u := { s.u with spdm := [(0, { stage := k }), (1, { stage := k })] } }

theorem witness_SpdmNegotiates :
    SpdmHere Probe.live .mctp ∧ SpdmHere Probe.live .doe ∧ ((Probe.spdm 1).spdm .doe).stage = 1 ∧ ((Probe.spdm 2).spdm .mctp).stage = 2 ∧
    (Probe.live.spdm .mctp).stage ≠ 1 := by
  unfold SpdmHere
  decide +kernel

theorem witness_SpdmAttests :
    SpdmHere (Probe.spdm 3) .mctp ∧ SpdmHere (Probe.spdm 3) .doe ∧ ((Probe.spdm 3).spdm .mctp).stage = 3 ∧
        (Probe.spdm 3).u.pow.flashOk = true := by
  unfold SpdmHere
  decide +kernel

theorem witness_SpdmAttests_part : (0 : BitVec 16).toNat < certChain.length := by
  simp only [certChain, cert, der, List.length_append, leBytes_length]
  simp

/-! ### Witnesses: power, resets, boot, trust -/

theorem witness_ColumnsGateAndPower :
    let s := Probe.queue
    let t := Probe.reg .columnState 0 (3 * 2 ^ 480) s
    (s.colSt 15 = 0 ∧ s.colIdle 15 = true) ∧ (s.colPowered 0 = true ∧ s.colIdle 0 = true ∧ s.rd .columnOffUs ≠ 0 ∧
      (s.holders (coresOfCol 0)).any s.holdsPower = false ∧ s.poolHoldsAll (s.holders (coresOfCol 0)) = true) ∧
    (t.u.pow.power = true ∧ t.colAllowed 15 = true ∧ t.u.pow.memOn = true ∧ t.u.pow.nap = false ∧ t.u.pow.fatal = false ∧
      t.colSt 15 = 3) := by decide +kernel

theorem witness_ColumnsGateAndPower_empty : ∀ core ∈ coresOfCol 15, (∀ e, e < 7 →
    (Probe.reg .columnState 0 (3 * 2 ^ 480) Probe.queue).engQ core e = []) ∧
    ∀ c, ((Probe.reg .columnState 0 (3 * 2 ^ 480) Probe.queue).ctxCore core c).saved = [] := fun _ _ => ⟨fun _ _ => rfl, fun _ => rfl⟩

/-- The save pool is full while context 1 holds a slot of column 0. -/
def Probe.poolFull : State := Probe.coreU (fun c => { c with cc := [(5, { grp := [(0, { m := 2 ^ 21 })] })] }) Probe.queue

theorem witness_ColumnsGateAndPower_full :
    let s := Probe.poolFull
    s.colPowered 0 = true ∧ s.colIdle 0 = true ∧ s.rd .columnOffUs ≠ 0 ∧ (s.holders (coresOfCol 0)).any s.holdsPower = false ∧
      s.poolHoldsAll (s.holders (coresOfCol 0)) = false ∧ 0 ∈ coresOfCol 0 ∧ (s.slot 0 1).holder.isSome = true := by decide +kernel

theorem witness_GovernorSetsClocks :
    let s := Probe.pow (fun p => { p with dieTemp := [(0, 105)], dieCeil := [(15, 1550)], halfCeil := [(0,
      1500)] }) (Probe.reg .stackThermal 19 (2 * 2 ^ 16) Probe.live)
    (s.u.pow.power = true ∧ s.u.pow.ready = true ∧ s.u.pow.deep = false ∧ s.colPowered 15 = true ∧ s.u.pow.fatal = false ∧
      105 ≤ tgetD s.u.pow.dieTemp 0 0) ∧
    (tgetD s.u.pow.dieTemp 15 0 < 102 ∧ tget s.u.pow.dieCeil 15 = some 1550) ∧
    ((List.range 10).any fun i => s.hot (10 * 1 + i)) = true ∧ (((List.range 10).any fun i => s.hot (10 * 0 + i)) = false ∧
      tget s.u.pow.halfCeil 0 = some 1500) := by
  decide +kernel

/-- NAP is being entered on the way to DEEP. -/
def Probe.deepening : State := Probe.pow (fun p => { p with napEntering := true, deepAsked := true }) Probe.queue

theorem witness_NapAndDeep :
    let s := Probe.held Probe.live
    let n := Probe.held (Probe.pow (fun p => { p with nap := true, waking := true }) Probe.live)
    (Accepts s .hostPf .stateReq 0 2 ∧ s.u.pow.nap = false ∧ s.mayNap = true) ∧
    (Accepts s (.bmc 8) .stateReq 0 3 ∧ reqClass (.bmc 8) = 2) ∧ (n.u.pow.deep = false ∧ Accepts n .hostPf .stateReq 0 0 ∧
      n.u.pow.nap = true) ∧
    (Probe.pow (fun p => { p with deep := true }) Probe.live).u.pow.deep = true ∧
    Probe.deepening.u.pow.napEntering = true ∧
    Probe.deepening.mayNap = true ∧
    Probe.deepening.poolHoldsAll (Probe.deepening.holders (List.range 192)) = true ∧
    (n.u.pow.waking = true ∧ n.u.pow.perst = false ∧ n.u.pow.held = [] ∧ n.u.host.keptDb = []) := by
  unfold Accepts
  decide +kernel

theorem witness_NapAndDeep_inv : Probe.deepening.Inv := Probe.inv_of (by decide +kernel)

theorem witness_PowerComesAndGoes : State.reset.Inv ∧ State.reset.u.pow.latched = false ∧ Probe.queue.Inv :=
  ⟨Probe.inv_of (by decide +kernel), by decide +kernel, Probe.inv_of (by decide +kernel)⟩

theorem witness_WarmResetsRestoreDefaults :
    let s := Probe.pow (fun p => { p with perstSeen := true }) Probe.live
    let t := Probe.pow (fun p => { p with perst := true, perstSeen := true }) Probe.live
    (s.u.pow.power = true ∧ s.u.pow.linkUp = true ∧ s.u.pow.perstSeen = true ∧ s.u.pow.perst = false) ∧ Accepts s (.bmc 8) .warmReset 0 1 ∧
    (t.u.pow.power = true ∧ t.u.pow.perst = true) ∧
    (s.u.pow.trained = true ∧ s.u.pow.deep = false ∧ s.u.dict.storeDue = [] ∧ s.rd .storeFactory = 0 ∧ s.u.mem.share = s.layoutAsked.share ∧
      s.u.trust.unlock = none) := by
  unfold Accepts
  decide +kernel

theorem witness_BootAndRestart :
    let s := Probe.pow (fun p => { p with memOn := false, ready := false }) Probe.live
    let b := Probe.pow (fun p => { p with boot := .rom, ready := false }) Probe.live
    let n := Probe.pow (fun p => { p with ready := false }) Probe.live
    let t := Probe.pow (fun p => { p with restarting := true }) Probe.live
    (s.u.pow.power = true ∧ s.u.pow.perst = false ∧ s.u.pow.deep = false ∧ s.u.pow.nap = false ∧ s.u.pow.memOn = false) ∧
    (b.romRuns = true ∧ b.bootStrap ≠ 1 ∧ b.bootStrap ≠ 2) ∧
    (n.fwRuns = true ∧ n.u.pow.perstSeen = true ∧ n.u.pow.memOn = true ∧ n.u.pow.ready = false ∧ n.u.pow.fatal = false ∧ n.u.host.keptDb = []) ∧
    (Accepts (Probe.held Probe.live) .hostPf .saddleRestart 0 1 ∧ Probe.live.moltRuns = false ∧ Probe.live.fwRuns = true) ∧
    (t.u.pow.restarting = true ∧ t.u.pow.power = true ∧ t.u.pow.perst = false ∧ t.u.pow.deep = false ∧ t.u.host.keptDb = [] ∧
      t.u.svc.cairn = none) := by
  unfold Accepts
  decide +kernel

/-- The first part of an image, and a state that has some part. -/
def Probe.part : List Byte := leBytes 4 imgMagic ++ [1, 1, 0, 0] ++ List.replicate 16376 0
def Probe.staged : State :=
  let s := Probe.held (Probe.reg .debugNonce 0 5 (Probe.reg .debugAllow 0 1 Probe.live))
  { s with u := { s.u with trust := { s.u.trust with staging := [1] } } }
def Probe.updating : State := { Probe.staged with u := { Probe.staged.u with trust := { Probe.staged.u.trust with due := some [2] } } }

theorem witness_TrustEntriesTakeWrites_parts : Probe.part.length = 16384 ∧ imgFld Probe.part 0 4 = imgMagic ∧
    (Probe.held Probe.live).romServes .hostPf = false ∧ (Probe.held Probe.live).u.trust.due = none ∧ Probe.staged.u.trust.due = none ∧
    (∀ v, Accepts (Probe.held Probe.live) .hostPf .fwChunk 0 v) ∧ (Probe.held Probe.live).u.trust.staging = [] ∧
    (∀ v, Accepts Probe.staged .hostPf .fwChunk 0 v) ∧ Probe.staged.u.trust.staging ≠ [] ∧ imgWhole Probe.staged.u.trust.staging = false ∧
    partHead Probe.part = true ∧ (List.replicate 16384 (0#8 : Byte)).length = 16384 ∧ partHead (List.replicate 16384 0) = false :=
  ⟨by rw [Probe.part, List.length_append, List.length_replicate]; rfl, by decide +kernel, by decide +kernel, by decide +kernel, by decide +kernel,
    fun _ => ⟨by decide +kernel, by decide +kernel, rfl⟩, by decide +kernel,
    fun _ => ⟨by decide +kernel, by decide +kernel, rfl⟩, by decide +kernel, by decide +kernel, by decide +kernel, List.length_replicate ..,
    by decide +kernel⟩

theorem witness_TrustEntriesTakeWrites :
    let s := Probe.held Probe.live
    (Accepts s .hostPf .fwUpdate 0 0x40000000 ∧ s.u.trust.due = none ∧ s.imgHeld 0x40000000 = false ∧ s.u.mem.faulty = false) ∧
      Probe.updating.u.trust.due = some [2] ∧
    (Accepts s .hostPf .fwSvnCommit 0 1 ∧ s.fld .bootStatus 0 0 6 1 = 0 ∧ s.fld .bootStatus 0 0 4 2 < 2) ∧
    (Accepts s .hostPf .keySlot 7 (2 ^ 640 - 2) ∧ s.safeMode = false ∧ s.rd .enrollFreeze ≠ 1 ∧ bit (2 ^ 640 - 2) 0 = false) ∧
    Accepts s .hostPf .enrollFreeze 0 1 ∧
    (Accepts Probe.staged .hostPf .debugUnlock 0 (5 + 3 * 2 ^ 128) ∧ Probe.staged.rd .debugAllow = 1 ∧
      bits (5 + 3 * 2 ^ 128) 0 128 = Probe.staged.rd .debugNonce ∧
      bits (5 + 3 * 2 ^ 128) 128 32 < 4 ∧ bits (5 + 3 * 2 ^ 128) 160 96 = 0) ∧ Accepts s .hostPf .debugRelock 0 1 := by
  unfold Accepts
  decide +kernel

/-! ### Witnesses: faults, cairns, service, stack memory -/

/-- Something of the service unit. -/
def Probe.svc (f : SvcU → SvcU) (s : State) : State := { s with u := { s.u with svc := f s.u.svc } }

/-- A cairn of a device failure is being written into slot 1 in FATAL; a service drain stands at a step. -/
def Probe.cairn : State :=
  let c : Cairn := { cls := 2, cause := 4, source := 1, time := 1000, epoch := 0, detail := 0, slot := 1 }
  Probe.svc (fun v => { v with cairn := some c }) (Probe.pow (fun p => { p with fatal := true }) Probe.live)
def Probe.drain (k : Nat) : State :=
  Probe.svc (fun v => { v with drainStep := k, frozen := true }) (Probe.reg .serviceState 0 1 (Probe.reg .serviceEn 0 1 Probe.queue))

theorem witness_FaultsCairnsAndService :
    let s := Probe.held Probe.live
    (s.u.pow.power = true ∧ 0 < (Probe.reg .errwinState 255 3 s).fld .errwinState 255 0 0 8) ∧
    (Accepts s .hostPf .errwinClear 0 0 ∧ Accepts s .hostPf .errwinClear 0 255 ∧ Accepts s .hostPf .errwinClear 0 0xFFFF) ∧
    (Accepts s .hostPf .evtRing 31 0 ∧ Accepts s .hostPf .evtRing 31 (0x1000 + 6 * 2 ^ 64) ∧
      Accepts s .hostPf .evtRing 0 (0x1000 + 16 * 2 ^ 64)) ∧
    (s.u.pow.perst = false ∧ s.u.pow.deep = false ∧ s.u.pow.fatal = false ∧ Probe.cairn.u.pow.fatal = true) ∧
    ((Probe.cairn.u.svc.cairn.map fun c => (c.slot, c.cls, c.refused)) = some (1, 2, false) ∧ Probe.cairn.fwRuns = true ∧
      Probe.cairn.u.pow.nap = false ∧ Probe.cairn.u.pow.memOn = true ∧ Probe.cairn.loopback = false ∧
      Probe.cairn.u.svc.pressPending = false ∧ Probe.cairn.u.pow.failedCh = [] ∧ Probe.cairn.u.svc.cairnRetried = false ∧
          Probe.cairn.moltRuns = false) := by
  unfold Accepts
  decide +kernel

theorem witness_FaultsCairnsAndService_service :
    (let t := Probe.drain 0
     t.u.pow.power = true ∧ t.fwRuns = true ∧ t.u.pow.restarting = false ∧ t.rd .serviceEn = 1 ∧ t.u.pow.ready = true ∧
         (Probe.reg .serviceState 0 0 t).rd .serviceState = 0 ∧
       t.u.svc.drainStep = 0 ∧ t.u.pow.fatal = false) ∧
    ((Probe.drain 3).drainOver = true ∧ (Probe.drain 4).drainOver = true ∧ (Probe.drain 3).u.svc.drainStep = 3) ∧
    ((Probe.drain 5).u.svc.drainStep = 5 ∧ (Probe.reg .serviceCairn 0 0 (Probe.drain 5)).rd .serviceCairn ≠ 1 ∧
      (Probe.reg .serviceCairn 0 1 (Probe.drain 5)).rd .serviceCairn = 1) ∧
    (Accepts (Probe.held (Probe.drain 3)) .hostPf .serviceCancel 0 1 ∧ (Probe.held (Probe.drain 3)).u.svc.drainStep = 3) ∧
    (Probe.drain 3).rd .serviceState < 2 := by
  unfold Accepts
  decide +kernel

theorem witness_FaultsCairnsAndService_inv : Probe.cairn.Inv ∧ ∀ i, i < 256 →
    (Probe.reg .serviceState 0 0 (Probe.drain 0)).rd .sessionState i ≠ 1 ∧
      (Probe.reg .serviceState 0 0 (Probe.drain 0)).rd .sessionState i ≠ 2 :=
  ⟨Probe.inv_of (by decide +kernel), by decide +kernel⟩

/-- The patrol's burst in the last channel of location 0, with symbols changed, and poisoned or not. -/
def Probe.burst (syms : List (Fin 72)) (poison : Bool) : State :=
  let s := { Probe.live with stack := { poison := if poison then [1793068031] else [] } }
  { s with u := { s.u with mem := s.u.mem.struck { bursts := [(1793068031, syms.map fun y => (y, 255))] } } }

theorem witness_MemoryRowsAct_patrol :
    let s := Probe.reg .patrolPosition 0 87381 Probe.live
    (s.u.pow.memOn = true ∧ s.u.pow.fatal = false ∧ s.rd .patrolHours ≠ 0 ∧ s.rd .deviceState ≤ 1 ∧ 87381 = s.rd .patrolPosition ∧
      Probe.live.rd .patrolPosition = 0) ∧
    (s.u.mem.dpaOf ⟨19, 1535, 87381⟩ = none ∧ Probe.live.u.mem.dpaOf ⟨0, 0, 0⟩ = some 0 ∧
      Probe.live.u.mem.dpaOf ⟨19, 1535, 0⟩ = some 114756353920) ∧
    (114756353920 / 64 + 1 = 1793068031 ∧ Probe.live.badChannel (64 * 1793068031) = false ∧ 64 * 1793068031 + 64 ≤ stackSize) ∧
    ((Probe.burst [] false).readBurst 1793068031 = .clean ∧ (Probe.burst [0, 71] false).readBurst 1793068031 = .corrected [0, 71] ∧
      (Probe.burst [5] true).readBurst 1793068031 = .poisoned [] [5] ∧ (Probe.burst [0, 2, 4, 6, 71] false).readBurst 1793068031 = .lost) ∧
    (correctable [] [0, 1, 2, 3] = true ∧ correctable [] [0, 1, 2, 3, 71] = false ∧ correctable [3] [6] = true) := by decide +kernel

/-- A granule of the firmware region, and one of a core's bank share, hold poison. -/
def Probe.poisoned (a : Nat) : State := Probe.live.apply (.mem .stack a ((List.replicate 64 0).map fun b => (b, true)))

theorem witness_MemoryRowsAct :
    let s := Probe.held Probe.live
    ((Probe.poisoned 0).saddleUp = true ∧ 0 ∈ (Probe.poisoned 0).stack.poison ∧ (Probe.poisoned 0).u.mem.region 0 ≠ .firmware ∧
      (Probe.poisoned firmwareBase).saddleUp = true ∧ firmwareBase / 64 ∈ (Probe.poisoned firmwareBase).stack.poison ∧
      (Probe.poisoned firmwareBase).u.mem.region firmwareBase = .firmware) ∧
    (s.u.pow.power = true ∧ s.u.pow.memOn = true ∧ s.loopback = false ∧ Accepts s .hostPf .lbCtrl 0 (2 ^ 31 + 4 * 2 ^ 28 + 1535 * 2 ^ 16 + 19) ∧
      Accepts s .hostPf .lbCtrl 0 (1535 * 2 ^ 5)) ∧
    (let t := Probe.reg .lbCtrl 0 (2 ^ 31 + 1535 * 2 ^ 16 + 19) s
     t.loopback = true ∧ bits (t.rd .lbCtrl) 5 11 + bits (t.rd .lbCtrl) 16 11 ≤ 1535 ∧ bits (t.rd .lbCtrl) 0 5 ≤ 19 ∧
       t.u.core.engQ = [] ∧ t.flowsHeld = [] ∧ t.u.pow.held = [] ∧ t.u.mem.waits = [] ∧ t.u.host.keptDb = []) ∧
    ((Probe.reg .partition 15 7 s).fld .partition 15 0 0 32 ≠ 0 ∧ (Probe.reg .partition 15 7 s).u.mem.waits = []) := by
  unfold Accepts
  decide +kernel

theorem witness_MemoryRowsAct_idle :
    let t := Probe.reg .lbCtrl 0 (2 ^ 31 + 1535 * 2 ^ 16 + 19) (Probe.held Probe.live)
    (∀ st, (t.lbr st).late = false) ∧ ∀ i, (t.ses i).recs = [] := ⟨fun _ => rfl, fun _ => rfl⟩

/-! ### Witnesses: ports, flits, flows -/

/-- Port `p` stands in a state, with a link layer. -/
def Probe.port_ (p st : Nat) (x : Port) (s : State) : State :=
  let s := Probe.reg .portStatus p st (Probe.reg .portEnable 0 255 s)
  { s with u := { s.u with ports := [(p, x)] } }

theorem Probe.crcBits_lt : ∀ (k c : Nat), c < 2 ^ 32 → crcBits k c < 2 ^ 32
  | 0, _, h => h
  | k + 1, c, h => by
    unfold crcBits
    apply Probe.crcBits_lt k
    split
    · exact Nat.xor_lt_two_pow (by omega) (by omega)
    · omega

theorem Probe.crc_lt (bs : List Byte) : crc32 bs < 2 ^ 32 := by
  have : ∀ (l : List Byte) (c : Nat), c < 2 ^ 32 → l.foldl (fun c b => crcBits 8 (c ^^^ b.toNat)) c < 2 ^ 32 := by
    intro l
    induction l with
    | nil => exact fun c h => h
    | cons b r ih => exact fun c h => ih _ (Probe.crcBits_lt 8 _ (Nat.xor_lt_two_pow h (by have := b.isLt; omega)))
  exact Nat.xor_lt_two_pow (this bs _ (by decide)) (by decide)

/-- What this device sends is good. -/
theorem Probe.good (w0 : Nat) (payload : List Byte) (h : w0 < 2 ^ 64) : flitGood (mkFlit w0 payload) = true := by
  have c := Probe.crc_lt (flitBody w0 ((payload ++ List.replicate 240 0#8).take 240) 0)
  have e : flitDecoded (mkFlit w0 payload) = true := rfl
  simp only [mkFlit] at e
  simp only [flitGood, mkFlit, e, BitVec.toNat_ofNat, Nat.mod_eq_of_lt h, Bool.and_eq_true, beq_iff_eq]
  refine ⟨⟨trivial, by rw [List.length_take, List.length_append, List.length_replicate]; omega⟩, ?_⟩
  rw [Nat.mod_eq_of_lt (by omega : crc32 (flitBody w0 ((payload ++ List.replicate 240 0#8).take 240) 0) * 2 ^ 32 < 2 ^ 64),
      Nat.mul_mod_left,
    Nat.mul_div_cancel _ (by omega)]

/-- A flit of this first word and payload. -/
def Probe.flit (w0 : Nat) (payload : List Byte) : Flit := mkFlit w0 payload

/-- A message of 1000 bytes, of which one flit has 240 bytes, and one of none, as flit 4095 of channel 5. -/
def Probe.begun : Flit := Probe.flit (1 + 5 * 2 ^ 4 + 4095 * 2 ^ 8) (headerBytes {} |>.take 8 |>.append (leBytes 8 (1000 * 2 ^ 40)))
def Probe.whole : Flit := Probe.flit (1 + 5 * 2 ^ 4 + 4095 * 2 ^ 8) (headerBytes { dest := 7 })

/-- A module that is active, in a state; the markers of eight lanes, one of them late. -/
def Probe.cmis (state : Nat) : Cmis := { readable := true, active := true, modState := BitVec.ofNat 8 (2 * state) }
def Probe.markers (late : Nat) : List Marker := (List.range 8).map fun i => ⟨markerPayload i (2 ^ 29 - 1), if i = 7 then late else 0⟩

theorem witness_PortsComeUpAndGoDown :
    let s := Probe.held Probe.live
    let at_ (st : Nat) : State := Probe.port_ 7 st {} s
    (Accepts s .hostPf .portEnable 0 255 ∧ Accepts s .hostPf .portReset 0 7 ∧
      Accepts (at_ 7) .hostPf .peerExpect 7 (2 ^ 31 + 65535 + 7 * 2 ^ 16) ∧
      (at_ 7).safeMode = false ∧ (at_ 7).portSt 7 = 7 ∧ (at_ 8).portSt 7 ≠ 7) ∧
    ((at_ 8).portsHeld = false ∧ (at_ 8).portEnabled 7 = true) ∧
    (s.colOn = true ∧ (at_ 1).portSt 7 = 1 ∧ (at_ 1).portEnabled 7 = true ∧ (at_ 1).portsHeld = false ∧ (at_ 2).portSt 7 = 2 ∧
      (at_ 3).portSt 7 = 3 ∧
      (at_ 4).portSt 7 = 4 ∧ (at_ 5).portSt 7 = 5 ∧ (at_ 5).flowsHeld = [] ∧ ((at_ 5).port 7).ident = false ∧ (at_ 8).portSt 7 = 8 ∧
      ((at_ 3).port 7).fails + 1 < 3) ∧
    3 ≤ ((Probe.port_ 7 3 { fails := 2 } s).port 7).fails + 1 ∧ ((Probe.port_ 7 7 { ident := true } s).port 7).ident = true := by
  unfold Accepts
  decide +kernel

theorem witness_PortsComeUpAndGoDown_module :
    (cmisReady (Probe.cmis 3) = true ∧ cmisReady (Probe.cmis 1) = false ∧ 0x40 ≤ (Probe.cmis 1).revision.toNat ∧
      ((Probe.port_ 7 1 {} Probe.live).port 7).awake = none ∧ ((Probe.port_ 7 1 { awake := some 5 } Probe.live).port 7).awake = some 5 ∧
      ({} : Cmis).readable = false ∧ ({ readable := true, revision := 0x3F } : Cmis).revision.toNat < 0x40) ∧
    deskewed (Probe.markers 50) = true ∧ deskewed (Probe.markers 51) = false ∧ deskewed [] = false := by decide +kernel

/-- A codeword of lane 7 with this many wrong symbols. -/
def Probe.word (n : Nat) : Codeword := ⟨7, 5, (List.range n).map fun i => (Fin.ofNat 544 i, 1)⟩

theorem witness_FlitsAndRouting_words :
    let s := Probe.port_ 7 5 { fecAt := [(7, 5)] } Probe.live
    let f : Flit := { Probe.flit 0 [] with chunk := 100, words := [Probe.word 16] }
    (s.colOn = true ∧ s.flowsHeld = [] ∧ lanesUp (s.portSt 7) = true ∧ s.portUp 7 = false ∧ f.words = [Probe.word 16] ∧
      tgetD (s.port 7).fecAt 7 0 ≤ (Probe.word 16).num) ∧
    cwMended (Probe.word 15) = true ∧ cwLost (Probe.word 15) = false ∧ cwLost (Probe.word 16) = true ∧ flitDecoded f = false ∧
    flitDecoded { f with words := [Probe.word 15] } = true ∧ flitDecoded { f with chunk := 200 } = true := by decide +kernel

theorem witness_FlitsAndRouting :
    let s := Probe.port_ 7 6 { rxSeq := 4095 } Probe.live
    let bs (f : Flit) : PBytes := tgetD (s.port 7).asm (flitFld f 4 3) [] ++ flitBytes f
    let n (f : Flit) : Nat := 240 * cdiv (32 + bits (leNat (dataOf (((bs f).drop 8).take 8))) 40 12) 240
    let early := Probe.flit (1 + 2046 * 2 ^ 8) []
    let old := Probe.flit (1 + 2047 * 2 ^ 8) []
    (s.colOn = true ∧ s.flowsHeld = [] ∧ s.portUp 7 = true ∧ (s.port 7).gap = false ∧ (s.port 7).rxSeq < 4096 ∧
      (s.port 7).retryTx + 1 < 16 ∧
      (s.port 7).queue = []) ∧
    (flitFld Probe.begun 0 4 = 1 ∧ (s.port 7).ahead Probe.begun = 0 ∧ (bs Probe.begun).length < n Probe.begun) ∧
    (flitFld Probe.whole 0 4 = 1 ∧ (s.port 7).ahead Probe.whole = 0 ∧ n Probe.whole ≤ (bs Probe.whole).length ∧
      (msgOf (bs Probe.whole) 0).isSome = true) ∧
    (flitFld early 0 4 = 1 ∧ (s.port 7).ahead early ≠ 0 ∧ (s.port 7).ahead early < 2048) ∧
    (flitFld old 0 4 = 1 ∧ (s.port 7).ahead old ≠ 0 ∧ 2048 ≤ (s.port 7).ahead old) ∧
    (flitFld (Probe.flit (2 + 4095 * 2 ^ 8) (leBytes 2 4095)) 0 4 = 2 ∧
      (s.port 7).ahead (Probe.flit (2 + 4095 * 2 ^ 8) (leBytes 2 4095)) = 0 ∧
      ((Probe.port_ 7 6 { retryRx := 14, retryRxSeq := 4095 } s).port 7).retryRx + 1 < 16) ∧
    (flitFld (Probe.flit (4 + 4095 * 2 ^ 8) []) 0 4 = 4 ∧ flitFld (Probe.flit (4095 * 2 ^ 8) []) 0 4 = 0 ∧
      (s.port 7).ahead (Probe.flit (4 + 4095 * 2 ^ 8) []) = 0) := by decide +kernel

theorem witness_FlitsAndRouting_good : flitGood Probe.begun = true ∧ flitGood Probe.whole = true ∧
    flitGood (Probe.flit (1 + 2046 * 2 ^ 8) []) = true ∧
    flitGood (Probe.flit (1 + 2047 * 2 ^ 8) []) = true ∧ flitGood (Probe.flit (2 + 4095 * 2 ^ 8) (leBytes 2 4095)) = true ∧
    flitGood (Probe.flit (4 + 4095 * 2 ^ 8) []) = true := by
  refine ⟨Probe.good _ _ ?_, Probe.good _ _ ?_, Probe.good _ _ ?_, Probe.good _ _ ?_, Probe.good _ _ ?_, Probe.good _ _ ?_⟩ <;> decide

theorem witness_FlitsAndRouting_damaged :
    let s := Probe.port_ 7 6 { rxSeq := 4095, gap := true } Probe.live
    let o : OutMsg := ⟨{ dest := 7 }, 5, false, 0, none⟩
    let bad : Flit := { w0 := 1, payload := List.replicate 240 0, tail := 1 }
    (s.colOn = true ∧ s.portUp 7 = true ∧ (s.port 7).gap = true ∧ (s.port 7).retryTx + 1 < 16 ∧ (s.port 7).rxSeq < 4096 ∧
      flitGood bad = false ∧
      ((Act.countWords 7 bad).run s).port 7 = s.port 7) ∧
    ((Probe.port_ 7 6 { rxSeq := 4095 } Probe.live).port 7).gap = false ∧
    ((Probe.port_ 7 6 { queue := [o] } Probe.live).port 7).queue.find? (fun o => o.sent == 0) = some o := by decide +kernel

theorem witness_FlitsAndRouting_hops :
    let s := Probe.port_ 7 6 {} Probe.live
    let m : Msg := { dest := 64 }
    (Probe.reg .gateway 1 (2 ^ 7 + 2 ^ 6) s).hop none m = .out 7 m none ∧ s.hop none { dest := 1 } = .lost ∧ s.hop none {} = .here {} ∧
    (Probe.port_ 0 6 {} Probe.live).hop none { dest := 3 } = .out 0 { dest := 3, route := 1 } (some 1) ∧
    (({} : Msg).type.toNat ≠ 12 ∨ ({} : Msg).src.toNat ≠ s.fabric) := by decide +kernel

/-- Flow 8191 is OPEN; a message of a type in its turn on it, from flow 9 of device 7. Responses of a command are awaited. -/
def Probe.onFlow : State := Probe.flow 8191 1 2 Probe.queue
def Probe.msg (t : Nat) : Msg := { src := 7, srcFlow := 9, destFlow := 8191, type := BitVec.ofNat 5 t, addr := 0x100, aux := 16,
                                   data := cleanBytes 16 1 }
def Probe.flows (f : Nat) (x : Flow) (s : State) : State := { s with u := { s.u with flows := [(f, x)] } }
def Probe.await (atomic : Bool) : Await := ⟨5, 0, 0, 1, atomic, false, 0x200, 32, 0⟩
def Probe.credit (s : State) : State := Probe.reg .flowCfg 8191 (s.rd .flowCfg 8191 + 2 ^ 75) (Probe.withCore (fun c =>
    { c with gates := [(0, { cap := 1, credits := 1 })] }) s)

/-- All that `InTurn` asks, as one check. -/
def Probe.forUsOk (s : State) (m : Msg) (t : Nat) : Bool := s.colOn && m.type.toNat == t && s.hop none m == .here m
def Probe.onOpenOk (s : State) (m : Msg) (t : Nat) : Bool :=
  Probe.forUsOk s m t && s.flowSt m.destFlow.toNat == 2 && s.matches_ m.destFlow.toNat m && s.peerGen m.destFlow.toNat == m.gen.toNat
def Probe.inTurnOk (s : State) (m : Msg) (t : Nat) : Bool :=
  Probe.onOpenOk s m t && !s.u.pow.nap && !s.u.mem.faulty && m.fseq.toNat == s.recvNext m.destFlow.toNat &&
      (s.flow m.destFlow.toNat).held.isEmpty &&
    !(s.flow m.destFlow.toNat).noticeWait && s.u.core.engQ.isEmpty && (!m.notice || 0 < (s.gate (s.fld .flowCfg m.destFlow.toNat 8 0 8)
      (s.flowCtx m.destFlow.toNat) (s.fld .flowCfg m.destFlow.toNat 8 8 3)).credits)

theorem Probe.forUs_of {s : State} {m : Msg} {t : Nat} (h : Probe.forUsOk s m t = true) : ForUs s m t := by
  simp only [Probe.forUsOk, Bool.and_eq_true, beq_iff_eq] at h
  exact ⟨h.1.1, h.1.2, h.2⟩

theorem Probe.onOpen_of {s : State} {m : Msg} {t : Nat} (h : Probe.onOpenOk s m t = true) : OnOpen s m t := by
  simp only [Probe.onOpenOk, Bool.and_eq_true, beq_iff_eq] at h
  exact ⟨Probe.forUs_of h.1.1.1, h.1.1.2, h.1.2, h.2⟩

theorem Probe.noDm_of {s : State} (h : s.u.core.engQ = []) : NoDmWork s := fun x hx => by rw [h] at hx; cases hx

theorem Probe.inTurn_of {s : State} {m : Msg} {t : Nat} (h : Probe.inTurnOk s m t = true) : InTurn s m t := by
  simp only [Probe.inTurnOk, Bool.and_eq_true, beq_iff_eq, Bool.not_eq_true', List.isEmpty_iff, Bool.or_eq_true, decide_eq_true_eq] at h
  obtain ⟨⟨⟨⟨⟨⟨⟨a, b⟩, n⟩, c⟩, d⟩, e⟩, f⟩, g⟩ := h
  exact ⟨Probe.onOpen_of a, b, n, c, d, e, Probe.noDm_of f, fun k _ => g.resolve_left (by simp [k])⟩

theorem witness_SequencedMessagesAreDelivered :
    let s := Probe.onFlow
    let w (n : Nat) (l : List (MemSel × Nat × Nat)) : Prop := s.span 1 0x100 n true = .ok l ∧ s.memGoes 1 l = true
    (InTurn s (Probe.msg 0) 0 ∧ w 16 [(.host, 0x40000100, 16)]) ∧
    (InTurn s (Probe.msg 1) 1 ∧ s.responseGoes 8191 = true ∧ s.span 1 0x100 16 false = .ok [(.host, 0x40000100, 16)]) ∧
    (InTurn s (Probe.msg 3) 3 ∧ w 8 [(.host, 0x40000100, 8)]) ∧ (InTurn s { Probe.msg 3 with op := 1 } 3 ∧ w 4 [(.host, 0x40000100, 4)]) ∧
    (InTurn s (Probe.msg 7) 7 ∧ InTurn (Probe.credit s) { Probe.msg 7 with notice := true } 7 ∧
      (Probe.credit s).fld .flowCfg 8191 8 11 1 = 1) ∧
    (ForUs s { Probe.msg 0 with src := 8 } 0 ∧ s.u.pow.nap = false ∧ s.matches_ 8191 { Probe.msg 0 with src := 8 } = false ∧
      s.flowSt 8191 ≠ 0) := by
  refine ⟨⟨Probe.inTurn_of ?_, ?_⟩, ⟨Probe.inTurn_of ?_, ?_⟩, ⟨Probe.inTurn_of ?_, ?_⟩, ⟨Probe.inTurn_of ?_, ?_⟩,
    ⟨Probe.inTurn_of ?_, Probe.inTurn_of ?_, ?_⟩, Probe.forUs_of ?_, ?_⟩ <;> decide +kernel

theorem witness_SequencedMessagesAreDelivered_responses :
    let t := Probe.flows 8191 { awaits := [Probe.await true, Probe.await false] } Probe.onFlow
    (InTurn t (Probe.msg 2) 2 ∧ (t.flow 8191).awaits.find? (fun a => a.atomic == false) = some (Probe.await false) ∧
      t.awaitGoes (Probe.await false) 16 16 = true ∧ t.span 1 (0x200 + 16) 16 true = .ok [(.host, 0x40000210, 16)]) ∧
    (InTurn t (Probe.msg 4) 4 ∧ (t.flow 8191).awaits.find? (fun a => a.atomic == true) = some (Probe.await true) ∧
      t.awaitGoes (Probe.await true) 0 32 = true ∧ t.span 1 0x200 32 true = .ok [(.host, 0x40000200, 32)]) := by
  refine ⟨⟨Probe.inTurn_of ?_, ?_⟩, Probe.inTurn_of ?_, ?_⟩ <;> decide +kernel

/-- Collective 0 of group 0 waits for bytes, and reduction 0 of stream 63 is open for it. -/
def Probe.collRuns : State :=
  let s := Probe.reg .lbrStream 63 (1 + 2 ^ 8 + 2 ^ 18) (Probe.flow 8191 3 2 Probe.coll)
  { s with u := { s.u with colls := [{ q := 5, idx := 0, core := 0, ctx := 1, d := Probe.collD, num := 0 }], collNum := [(0, 1)],
                           lbr := [(63, { next := 1, isOpen := true, q := 5 })] } }

theorem witness_SequencedMessagesAreDelivered_coll :
    let s := Probe.collRuns
    let m : Msg := { Probe.msg 8 with aux := 2 ^ 8 }
    let l : Msg := { Probe.msg 9 with aux := 63 + 2 ^ 8, data := cleanBytes 4 1 }
    let c : Coll := { q := 5, idx := 0, core := 0, ctx := 1, d := Probe.collD, num := 0 }
    (InTurn s m 8 ∧ s.cgCtx 0 = s.flowCtx 8191 ∧ s.fld .collGroup 0 0 0 1 = 1 ∧ bits m.aux.toNat 16 48 < tgetD s.u.collNum 0 0 ∧
      s.u.colls.find? (fun c => coGroup c.d == bits m.aux.toNat 0 6 && c.num == bits m.aux.toNat 16 48) = some c ∧ c.started = false ∧
          s.coll c.q c.idx = some c ∧
      s.memGoes c.ctx (s.coPlaces c.ctx c.d) = true) ∧
    InTurn s l 9 ∧ s.fld .lbrStream 63 0 0 1 = 1 ∧ s.lbrCtx 63 = s.flowCtx 8191 ∧ (s.lbr 63).isOpen = true ∧
        bits l.aux.toNat 16 48 + 1 = (s.lbr 63).next ∧
      s.coll (s.lbr 63).q (s.lbr 63).idx = some c ∧ s.foldGoes 63 = true ∧
          ((s.lbr 63).take (bits l.aux.toNat 8 8) (bits l.aux.toNat 16 48) l.data).2.length <
        partLen (coN c.d) (s.cgP (coGroup c.d)) (s.cgSelf (coGroup c.d)) * ((coIn c.d).ebits / 8) :=
  ⟨⟨Probe.inTurn_of (by decide +kernel), by decide +kernel⟩, Probe.inTurn_of (by decide +kernel), by decide +kernel⟩

/-- Two messages sent and not acknowledged on flow 8191, the first this often. -/
def Probe.sent (n : Nat) : State :=
  Probe.flows 8191 { unacked := [⟨{ fseq := 0 }, n, none⟩, ⟨{ fseq := 1 }, 1, none⟩], ackDue := 1, held := [{ fseq := 2 }] } Probe.onFlow

theorem witness_FlowsOpenAcknowledgeAndEnd_messages :
    let s := Probe.sent 7
    let a : Msg := { Probe.msg 5 with fseq := 2, data := [] }
    let n : Msg := Probe.msg 6
    let o (st : Nat) : State := Probe.flow 8191 1 st Probe.queue
    let p : Msg := Probe.msg 13
    let k : State := { s with u := { s.u with wasUp := true } }
    (OnOpen s a 5 ∧ NoDmWork s ∧ faultOf a.data = none ∧ dist32 0 a.fseq.toNat ≠ 0 ∧ dist32 0 a.fseq.toNat ≤ (s.flow 8191).unacked.length) ∧
    (OnOpen s n 6 ∧ (s.flow 8191).unacked.any (fun x =>
      decide (dist32 n.fseq.toNat x.m.fseq.toNat ≤ dist32 n.fseq.toNat (n.aux.toNat % 2 ^ 32))) = true ∧
      ∀ x ∈ (s.flow 8191).unacked, x.sends < 8) ∧
    (ForUs (o 1) p 13 ∧ 8191 ∈ (o 1).flowsTo p.src.toNat p.srcFlow.toNat ∧ (o 1).flowSt 8191 = 1 ∧ NoDmWork (o 1)) ∧
    (ForUs (o 2) (Probe.msg 14) 14 ∧ 8191 ∈ (o 2).flowsTo 7 9 ∧ (o 2).flowSt 8191 = 2 ∧ (o 2).moltRuns = false ∧ NoDmWork (o 2)) ∧
    (ForUs k { Probe.msg 12 with data := cleanBytes 8 (2 ^ 15) } 12 ∧ k.u.wasUp = true ∧
      bit (pduOf (dataOf (cleanBytes 8 (2 ^ 15)))).w0.toNat 15 = true) ∧
    (ForUs k { Probe.msg 12 with data := cleanBytes 8 (2 ^ 8) } 12 ∧ bit (pduOf (dataOf (cleanBytes 8 (2 ^ 8)))).w0.toNat 15 = false ∧
      opKnown (pduOp (pduOf (dataOf (cleanBytes 8 (2 ^ 8))))) = true) :=
  ⟨⟨Probe.onOpen_of (by decide +kernel), Probe.noDm_of rfl, by decide +kernel⟩, ⟨Probe.onOpen_of (by decide +kernel), by decide +kernel,
    by decide +kernel⟩,
    ⟨Probe.forUs_of (by decide +kernel), by decide +kernel, by decide +kernel, Probe.noDm_of rfl⟩,
    ⟨Probe.forUs_of (by decide +kernel), by decide +kernel, by decide +kernel, by decide +kernel, Probe.noDm_of rfl⟩,
    ⟨Probe.forUs_of (by decide +kernel), by decide +kernel⟩, Probe.forUs_of (by decide +kernel), by decide +kernel⟩

theorem witness_FlowsOpenAcknowledgeAndEnd_timers :
    let s := Probe.sent 8
    let w := Probe.flows 8191 { held := [{ notice := true }], noticeWait := true } (Probe.credit Probe.onFlow)
    (s.colOn = true ∧ s.flowSt 8191 = 2 ∧ (s.flow 8191).ackDue ≠ 0 ∧
      ((s.flow 8191).held.map fun m => dist32 (s.recvNext 8191) m.fseq.toNat).min? = some 2 ∧
      (s.flow 8191).unacked ≠ [] ∧ (∃ x ∈ (s.flow 8191).unacked, 8 ≤ x.sends) ∧ s.moltRuns = false) ∧
    (w.colOn = true ∧ w.flowSt 8191 = 2 ∧ (w.flow 8191).held = [{ notice := true }] ∧
      ({ notice := true } : Msg).fseq.toNat = w.recvNext 8191 ∧ (w.flow 8191).noticeWait = true ∧
      w.fld .flowCfg 8191 8 11 1 = 1 ∧ 0 < (w.gate (w.fld .flowCfg 8191 8 0 8) (w.flowCtx 8191) (w.fld .flowCfg 8191 8 8 3)).credits) ∧
    ((Probe.flow 8191 1 1 Probe.queue).flowSt 8191 = 1 ∧ (Probe.flow 8191 1 2 Probe.queue).flowSt 8191 = 2) ∧
    (let t := Probe.reg .lbrStream 63 (1 + 2 ^ 8 + 2 ^ 32) Probe.collRuns
     (t.lbr 63).isOpen = true ∧ (t.lbr 63).late = false ∧ t.fld .lbrStream 63 0 32 32 ≠ 0 ∧
       ((t.coll (t.lbr 63).q (t.lbr 63).idx).all fun c => c.contrib.length < t.lbrMin 63) = true) := by
  decide +kernel

theorem witness_FlowsOpenAcknowledgeAndEnd_movers : NoDmWork (Probe.sent 8) ∧ NoDmWork Probe.collRuns ∧
    NoDmWork (Probe.flows 8191 { held := [{ notice := true }], noticeWait := true } (Probe.credit Probe.onFlow)) :=
  ⟨Probe.noDm_of rfl, Probe.noDm_of rfl, Probe.noDm_of rfl⟩

theorem witness_FlowsOpenAcknowledgeAndEnd_entries :
    let s := Probe.held Probe.queue
    let v := 1 + 2 + 2 ^ 8 + 65535 * 2 ^ 32 + 191 * 2 ^ 64
    let g := 1 + 2 ^ 8 + 255 * 2 ^ 18 + 255 * 2 ^ 32 + 7936 * 2 ^ 40
    let l := 1 + 2 ^ 8 + 255 * 2 ^ 18 + 255 * 2 ^ 64 + 255 * 2 ^ 72 + 0x100 * 2 ^ 128 + 64 * 2 ^ 192
    (Accepts s .hostPf .flowCfg 8191 v ∧ s.ctxGate (s.flowCtx 8191) = stOk ∧ s.mayWriteCtx .hostPf (bits v 8 10) = true ∧
      s.flowBusy 8191 = false ∧ s.flowCfgOk v = true ∧
      bit v 0 = true ∧ (s.flow 8191).validAt = none ∧ Accepts s .hostPf .flowCfg 0 (v - 1) ∧ s.flowCfgOk (v - 1) = true ∧
          bit (v - 1) 0 = false) ∧
    (Accepts s .hostPf .collGroup 63 g ∧ s.ctxGate (s.cgCtx 63) = stOk ∧ s.mayWriteCtx .hostPf (bits g 8 10) = true ∧
      s.groupBusy 63 = false ∧
      bits g 32 8 < bits g 18 8 + 1 ∧ bits g 40 13 + bits g 18 8 ≤ 8191 ∧ bits g (128 + 16 * bits g 32 8) 16 = s.fabric) ∧
    (Accepts s .hostPf .lbrStream 63 l ∧ s.ctxGate (s.lbrCtx 63) = stOk ∧ s.mayWriteCtx .hostPf (bits l 8 10) = true ∧
      (s.lbr 63).isOpen = false ∧
      (s.lbr 63).folded = [] ∧ bits l 64 8 ≤ bits l 18 8 ∧ bits l 72 8 ≤ bits l 18 8 ∧
        zeroBits l [(2, 6), (26, 6), (80, 48), (176, 16), (240, 16)] = true ∧
      bit l 0 = true ∧ s.u.mem.faulty = false ∧ (∃ x, s.span (bits l 8 10) (bits l 128 48) (8 * (bits l 192 48 / 8)) true = .ok x) ∧
          Accepts s .hostPf .lbrStream 0 (l - 1) ∧ bit (l - 1) 0 = false) := by
  unfold Accepts
  refine ⟨?_, ?_, ?_, ?_, ?_, ?_, ?_, ?_, ?_, ?_, ?_, ?_, ⟨[(.host, 0x40000100, 64)], ?_⟩, ?_, ?_⟩ <;> decide +kernel

/-- The molt of context 1 executes under device 7's coordination. -/
def Probe.moltHere : State := Probe.molt Probe.queue

theorem witness_FlowFailureFailsARunningMolt :
    let s := Probe.moltHere
    let c : State := { s with u := { s.u with molt := { s.u.molt with hdr := [3, 0, 1, 0, 0, 0, 0, 0, 5, 0, 0, 1] } } }
    (s.rd .moltState = 2 ∧ s.moltCoord = false ∧ s.u.molt.flowTo s.u.molt.coord = some 8191) ∧
    (ForUs s (Probe.msg 14) 14 ∧ 8191 ∈ s.flowsTo 7 9 ∧ s.flowSt 8191 = 2 ∧ NoDmWork s) ∧
    (∃ x ∈ ((Probe.flows 8191 { unacked := [⟨{}, 8, none⟩] } s).flow 8191).unacked, 8 ≤ x.sends) ∧
    (c.rd .moltState = 2 ∧ c.moltCoord = true ∧ c.saddle = true ∧ wf c.u.molt.hdr 0x58 0 32 ≠ 0 ∧ 7 ∈ c.moltOthers ∧
      c.u.molt.flowTo 7 = some 8191 ∧ c.flowSt 8191 = 2 ∧
      c.flowClass 8191 = 4 ∧ c.flowCtx 8191 = c.u.moltCtx) :=
  ⟨by decide +kernel, ⟨Probe.forUs_of (by decide +kernel), by decide +kernel, by decide +kernel, Probe.noDm_of rfl⟩, by decide +kernel,
    by decide +kernel⟩

/-! ### Witnesses: molts, versions, sessions -/

/-- Something of the molt that executes, and a state of it. -/
def Probe.moltWith (st : Nat) (f : Molt → Molt) : State :=
  let s := Probe.held (Probe.reg .moltState 0 st Probe.moltHere)
  { s with u := { s.u with molt := f s.u.molt } }

/-- Words go into context 1's memory. -/
def Probe.words (a : Nat) (ws : List Nat) (s : State) : State := s.apply (.mem .host (0x40000000 + a) (wordBytes ws))

/-- A whole plan stands at 0x8000: one segment from here to device 7, the coordinator, which holds its shard. -/
def Probe.plan : State :=
  Probe.words 0x9C00 [7 + 8191 * 2 ^ 16] (Probe.words 0x9800 [7 * 2 ^ 32, 1, 0, 0, 0, 0, 0, 0] (Probe.words 0x9400 [77, 7 * 2 ^ 16,
      0x9000, 0x2000, 0, 0, 64, 0]
    (Probe.words 0x8000 [3 + 2 ^ 22, 7 * 2 ^ 16 + 2 ^ 32 + 5 * 2 ^ 48, 1, 0x9400, 0x9800, 0x9C00, 0, 0, 5, 0, 0, 0, 0, 0, 0,
      0] (Probe.moltWith 1 id))))

/-- The bytes of its plan header. -/
def Probe.header : PBytes := wordBytes [3 + 2 ^ 22, 7 * 2 ^ 16 + 2 ^ 32 + 5 * 2 ^ 48, 1, 0x9400, 0x9800, 0x9C00, 0, 0, 5, 0, 0, 0, 0, 0,
    0, 0]

theorem witness_MoltsRunAndVersionsAreKept_start :
    let s := Probe.reg .moltState 0 0 Probe.plan
    (Accepts s .hostPf .moltStart 0 0x8000 ∧ s.moltRuns = false ∧ s.ctxNaming 0x8000 128 (fun w => bits w 22 10) = some (1, Probe.header) ∧
      s.mayWriteCtx .hostPf 1 = true) ∧
    (Probe.plan.saddle = true ∧ Probe.plan.rd .moltState = 1 ∧ Probe.plan.u.molt.plan = 0x8000) ∧
    (let y := (Probe.plan.readPlan 1 0x8000).getD {}
     (Probe.plan.readPlan 1 0x8000).isSome = true ∧ Probe.plan.planCheck y = 0 ∧ (∀ j, j < y.shards.length → y.segsOf j ≠ []) ∧
       y.segs.length = 1 ∧
       (∀ w ∈ Probe.plan.u.molt.peers, peerAddr w ≠ Probe.plan.fabric → (Probe.plan.flow (peerFlow w)).held = []) ∧
         Probe.plan.u.mem.faulty = false) := by
  unfold Accepts
  decide +kernel

theorem witness_MoltsRunAndVersionsAreKept_check :
    let u := Probe.moltWith 1 (fun x => { x with plan := 2 ^ 40 })
    let b := Probe.words 0x8000 [3 + 2 ^ 22, 7 * 2 ^ 16 + 2 ^ 32 + 5 * 2 ^ 48, 1, 0x9400, 0x9800, 0x9C00, 0, 0, 0, 0, 0, 0, 0, 0, 0,
      0] Probe.plan
    (u.saddle = true ∧ u.rd .moltState = 1 ∧ u.readPlan u.u.moltCtx u.u.molt.plan = none) ∧
    (b.saddle = true ∧ b.rd .moltState = 1 ∧ (b.readPlan b.u.moltCtx b.u.molt.plan).isSome = true ∧
      b.planCheck ((b.readPlan 1 0x8000).getD {}) = 1) := by decide +kernel

/-- Segment 77 comes here from device 7. -/
def Probe.comes (x : SegIn) : Molt →
    Molt := fun y => { y with segs := [[77, 7, 0x9000, 0x2000, 0, 0, 64, 0], [78, 7, 0x9000, 0x3000, 0, 0, 64, 0]], got := [(0, x)] }

theorem witness_MoltsRunAndVersionsAreKept_runs :
    let s := Probe.moltWith 4 (fun x => { x with todo := [(0, 3, true)], hdr := [3, 7 * 2 ^ 16 + 5 * 2 ^ 48] })
    let t (a : Nat) : State := Probe.moltWith 2 (Probe.comes { attempt := a, begun := true })
    (s.saddle = true ∧ s.runs = true ∧ s.ctxState s.u.moltCtx = 1 ∧ s.rd .moltState = 4 ∧ s.u.molt.todo = [(0, 3, true)] ∧
      s.moltQueue = some 5 ∧
      s.u.mem.faulty = false ∧ (s.slotOf (s.qCore 5) (s.qCtx 5)).isSome = true ∧
      s.span s.u.moltCtx (s.descAddr 5 (idx32 (s.qTail 5))) 64 true = .ok [(.host, 0x40001000, 64)]) ∧
    ((t 2).saddle = true ∧ (t 2).rd .moltState = 2 ∧ (t 2).u.molt.indexOf 77 = some 0 ∧ sgDstDev ((t 2).u.molt.seg 0) = (t 2).fabric ∧
      ((t 2).u.molt.segIn 0).ok = false ∧
      ((t 2).u.molt.segIn 0).begun = true ∧ ((t 2).u.molt.segIn 0).attempt < 3 ∧ 3 ≤ ((t 3).u.molt.segIn 0).attempt) ∧
    (let r := Probe.moltWith 2 (fun x => { x with retired := [0], shardOk := [0] })
     r.saddle = true ∧ r.moltLocalReady = true ∧ r.moltMayReady = true ∧ r.moltCoord = false ∧
         r.u.molt.flowTo r.u.molt.coord = some 8191 ∧ r.flowSt 8191 = 2 ∧
       r.flowClass 8191 = 4 ∧ r.flowCtx 8191 = r.u.moltCtx) ∧
    (let r := Probe.moltWith 2 (fun x => { x with retired := [0], shardOk := [0], hdr := [3, 0, 1] })
     r.moltLocalReady = true ∧ r.moltMayReady = true ∧ r.moltCoord = true ∧ ∃ w ∈ r.u.molt.peers, peerAddr w ≠ r.fabric ∧
         peerAddr w ∉ r.u.molt.ready) ∧
    (let d := Probe.moltWith 1 (fun x => { x with hdr := [3, 0, 1, 0, 0, 0, 0, 0, 5, 0, 0, 1] })
     d.saddle = true ∧ d.moltRuns = true ∧ d.moltCoord = true ∧ wf d.u.molt.hdr 0x58 0 32 ≠ 0) ∧
    (let d := Probe.moltWith 3 id
     d.saddle = true ∧ d.rd .moltState = 3 ∧ d.moltCoord = false) := by decide +kernel

theorem witness_MoltsRunAndVersionsAreKept_ends :
    let s := Probe.moltWith 4 (fun x => { x with hdr := [3 + 2 ^ 16 + 255 * 2 ^ 32 + 9 * 2 ^ 48, 7 * 2 ^ 16] })
    let t := Probe.moltWith 2 id
    let c := Probe.reg .versionEntry 255 (9 + 2 ^ 16) (Probe.held Probe.queue)
    let o := Probe.reg .versionEntry 255 (10 + 2 ^ 16 + 9 * 2 ^ 32 + 2 ^ 48) (Probe.held Probe.queue)
    (Accepts s .hostPf .moltResolve 0 1 ∧ s.rd .moltState = 4 ∧ s.mayWriteCtx .hostPf s.u.moltCtx = true ∧ s.u.molt.produce = true ∧
      s.u.molt.release = false ∧
      s.u.molt.model < 256 ∧ s.verCurrent s.u.molt.model ≠ some s.u.molt.version) ∧
    (Accepts s .hostPf .moltResolve 0 2 ∧ s.moltRuns = true ∧ Accepts t .hostPf .moltResolve 0 2 ∧ t.moltRuns = true ∧
      t.mayWriteCtx .hostPf t.u.moltCtx = true ∧
      t.rd .moltState ≤ 2) ∧
    (Accepts c .hostPf .versionRelease 255 9 ∧ c.verUsers 255 9 = 0 ∧ c.verCurrent 255 = some 9 ∧ (∀ p ∈ c.liveSes, p.2.model ≠ 255)) ∧
    (Accepts o .hostPf .versionRelease 255 9 ∧ o.verUsers 255 9 = 0 ∧ o.verCurrent 255 ≠ some 9 ∧ o.verOld 255 = some 9) := by
  unfold Accepts
  decide +kernel

/-- Version 9 of model 255 has one segment of 64 bytes at 0x2000, with a digest and a root. -/
def Probe.segRec (digest : Nat) : SegRec := ⟨77, [77, 0, 0, 0x2000, 0, 0, 64, 0], digest⟩
def Probe.shard (digest root : Nat) : ShardRec := ⟨8, root, 5, [Probe.segRec digest]⟩
def Probe.vers (digest root : Nat) : State :=
  let s := Probe.reg .repairSrc 255 (2 ^ 29) (Probe.reg .scrubMinutes 0 1 Probe.queue)
  { s with u := { s.u with vers := [⟨255, 9, 1, [Probe.shard digest root]⟩], scrub := [(255, 9, 77), (0, 0, 0)], repairs := [] } }

/-- The digest of its 64 bytes of zeros under key 5. -/
def Probe.zeros : Nat := foldDigest 5 (List.replicate 64 0)

theorem Probe.root_of (digest : Nat) :
    shardRoot (Probe.shard digest 0).id ((Probe.shard digest 0).segs.map SegRec.digest) = shardRoot 8 [digest] := rfl

theorem witness_MoltsRunAndVersionsAreKept_scrub :
    let s := Probe.vers 0 0
    (s.saddle = true ∧ s.rd .scrubMinutes ≠ 0 ∧ s.rd .deviceState ≤ 1 ∧ s.u.scrub = [(255, 9, 77), (0, 0, 0)] ∧
      s.repairing 255 9 77 = false ∧ s.u.mem.faulty = false) ∧
    s.segResident ⟨255, 9, 1, [Probe.shard 0 0]⟩ (Probe.segRec 0) = .ok [(.host, 0x40002000, 64)] ∧
    dataOf (s.rdSpan [(.host, 0x40002000, 64)]) = List.replicate 64 0 ∧
        anyPoison (s.rdSpan [(.host, 0x40002000, 64)]) = false := by decide +kernel

theorem witness_MoltsRunAndVersionsAreKept_whole :
    let s := Probe.vers Probe.zeros (shardRoot 8 [Probe.zeros])
    (s.saddle = true ∧ s.rd .scrubMinutes ≠ 0 ∧ s.rd .deviceState ≤ 1 ∧ s.u.scrub = [(255, 9, 77), (0, 0, 0)] ∧
      s.repairing 255 9 77 = false ∧ s.u.mem.faulty = false) ∧
    s.segResident ⟨255, 9, 1, [Probe.shard Probe.zeros (shardRoot 8 [Probe.zeros])]⟩ (Probe.segRec Probe.zeros) = .ok [(.host,
        0x40002000, 64)] ∧
    dataOf (s.rdSpan [(.host, 0x40002000, 64)]) = List.replicate 64 0 ∧
        anyPoison (s.rdSpan [(.host, 0x40002000, 64)]) = false := by decide +kernel

theorem witness_MoltsRunAndVersionsAreKept_root :
    let s := Probe.vers Probe.zeros (shardRoot 8 [Probe.zeros] + 1)
    (s.saddle = true ∧ s.rd .scrubMinutes ≠ 0 ∧ s.rd .deviceState ≤ 1 ∧ s.u.scrub = [(255, 9, 77), (0, 0, 0)] ∧
      s.repairing 255 9 77 = false ∧ s.u.mem.faulty = false) ∧
    s.segResident ⟨255, 9, 1, [Probe.shard Probe.zeros (shardRoot 8 [Probe.zeros] + 1)]⟩ (Probe.segRec Probe.zeros) = .ok [(.host,
        0x40002000, 64)] ∧
    dataOf (s.rdSpan [(.host, 0x40002000, 64)]) = List.replicate 64 0 ∧
        anyPoison (s.rdSpan [(.host, 0x40002000, 64)]) = false := by decide +kernel

theorem Probe.key_of (z r : Nat) : foldDigest (Probe.shard z r).key (List.replicate 64 0) = Probe.zeros := rfl

theorem Probe.last_of (z r : Nat) (c : (Probe.vers z r).segFolds ⟨255, 9, 1, [Probe.shard z r]⟩ (Probe.shard z r) (Probe.segRec z) = true) :
    ((Probe.shard z r).segs.all fun x => !((Probe.vers z r).u.scrub.erase (255, 9, 77)).contains (255, 9, x.id) &&
      !(Probe.vers z r).repairing 255 9 x.id && (Probe.vers z r).segFolds ⟨255, 9, 1, [Probe.shard z r]⟩ (Probe.shard z r) x) = true := by
  show ((_ && _ && _) && true) = true
  rw [c]
  rfl

theorem witness_MoltsRunAndVersionsAreKept_last :
    let h := Probe.shard Probe.zeros (shardRoot 8 [Probe.zeros] + 1)
    let s := Probe.vers Probe.zeros (shardRoot 8 [Probe.zeros] + 1)
    (h.segs.all fun x => !(s.u.scrub.erase (255, 9, 77)).contains (255, 9, x.id) && !s.repairing 255 9 x.id &&
      s.segFolds ⟨255, 9, 1, [h]⟩ h x) = true := by
  obtain ⟨-, a, b, -⟩ := witness_MoltsRunAndVersionsAreKept_root
  refine Probe.last_of _ _ ?_
  unfold State.segFolds
  rw [a]
  dsimp only
  rw [b, show (Probe.segRec Probe.zeros).digest = Probe.zeros from (fun z => (rfl : (Probe.segRec z).digest = z)) _]
  exact beq_iff_eq.mpr (Probe.key_of _ _)

theorem witness_MoltsRunAndVersionsAreKept_record (digest root : Nat) :
    (Probe.vers digest root).allSegs = [(255, 9, 77)] ∧
    (Probe.vers digest root).segRec 255 9 77 = some (⟨255, 9, 1, [Probe.shard digest root]⟩, Probe.shard digest root,
      Probe.segRec digest) := ⟨rfl, rfl⟩

theorem witness_MoltsRunAndVersionsAreKept_digest : foldDigest (Probe.shard 0 0).key (List.replicate 64 0) = Probe.zeros ∧ Probe.zeros ≠ 0 ∧
    shardRoot (Probe.shard 7 0).id ((Probe.shard 7 0).segs.map SegRec.digest) ≠ shardRoot 8 [7] + 1 := ⟨rfl, by decide +kernel,
        by rw [Probe.root_of]; omega⟩

/-- A repair of it from the host, the first attempt or the last. -/
def Probe.mends (tries : Nat) (bytes : PBytes) : Repair := { model := 255, version := 9, seg := 77, tries := tries, asked := true,
                                                             rx := bytes, whole := true }
def Probe.repairs (r : Repair) : State :=
  let s := Probe.vers Probe.zeros (shardRoot 8 [Probe.zeros])
  { s with u := { s.u with repairs := [r] } }

theorem witness_MoltsRunAndVersionsAreKept_repair :
    let r (tries : Nat) (bytes : PBytes) : Repair := Probe.mends tries bytes
    let s (tries : Nat) (bytes : PBytes) : State := Probe.repairs (r tries bytes)
    ((s 2 []).u.repairs.find? (fun e => e.model == 255 && e.version == 9 && e.seg == 77) = some (r 2 []) ∧
      (s 2 []).repairBytes (r 2 []) (Probe.segRec Probe.zeros) = some [] ∧ 3 ≤ (r 2 []).tries + 1) ∧
    ((s 0 (List.replicate 64 (0, false))).u.repairs.find? (fun e => e.model == 255 && e.version == 9 &&
      e.seg == 77) = some (r 0 (List.replicate 64 (0, false))) ∧
      (s 0 (List.replicate 64 (0, false))).repairBytes (r 0 (List.replicate 64 (0,
        false))) (Probe.segRec Probe.zeros) = some (List.replicate 64 (0, false))) := by decide +kernel

theorem witness_MoltsRunAndVersionsAreKept_passed :
    let s := Probe.repairs (Probe.mends 0 [])
    let e : State := { s with u := { s.u with scrub := [] } }
    (s.saddle = true ∧ (255, 9, 77) ∈ s.u.scrub ∧ s.repairing 255 9 77 = true ∧ s.u.scrub.erase (255, 9, 77) ≠ []) ∧
    (e.saddle = true ∧ e.rd .scrubMinutes ≠ 0 ∧ e.rd .deviceState ≤ 1 ∧ e.u.scrub = [] ∧ e.allSegs ≠ []) := by decide +kernel

theorem witness_MoltsRunAndVersionsAreKept_match :
    segMatches (Probe.shard Probe.zeros (shardRoot 8 [Probe.zeros])) (Probe.segRec Probe.zeros) (List.replicate 64 (0, false)) = true ∧
    segMatches (Probe.shard Probe.zeros (shardRoot 8 [Probe.zeros])) (Probe.segRec Probe.zeros) [] = false := by
  have a : (List.replicate 64 ((0 : Byte), false)).length == sgStream (Probe.segRec Probe.zeros).words := by decide +kernel
  have b : !anyPoison (List.replicate 64 ((0 : Byte), false)) := by decide +kernel
  have c : foldDigest 5 (dataOf (List.replicate 64 ((0 : Byte), false))) == Probe.zeros := by decide +kernel
  have d : (shardRoot 8 [Probe.zeros] == shardRoot 8 [Probe.zeros]) = true := beq_self_eq_true _
  exact ⟨by unfold segMatches; rw [a, b]; exact Bool.and_eq_true_iff.mpr ⟨c, d⟩, rfl⟩

/-- A molt message of a kind in its turn. -/
def Probe.mm (kind seg attempt : Nat) (n : Nat := 16) : Msg :=
  { Probe.msg 10 with addr := 0, aux := BitVec.ofNat 64 (kind + attempt * 2 ^ 4 + 3 * 2 ^ 8 + seg * 2 ^ 24), data := cleanBytes n 0 }

/-- All that `OfMolt` asks. -/
def Probe.ofMoltOk (s : State) (m : Msg) (kind : Nat) : Bool :=
  Probe.inTurnOk s m 10 && s.loopback == false && bits m.aux.toNat 0 4 == kind && bits m.aux.toNat 8 16 == s.u.molt.id &&
    s.u.molt.id != 0xFFFF && s.moltRuns &&
    s.u.moltCtx == s.flowCtx m.destFlow.toNat && s.rd .moltState != 1

theorem Probe.ofMolt_of {s : State} {m : Msg} {k : Nat} (h : Probe.ofMoltOk s m k = true) : OfMolt s m k := by
  simp only [Probe.ofMoltOk, Bool.and_eq_true, beq_iff_eq, bne_iff_ne, ne_eq] at h
  obtain ⟨⟨⟨⟨⟨⟨⟨a, y⟩, b⟩, c⟩, d⟩, e⟩, f⟩, g⟩ := h
  exact ⟨Probe.inTurn_of a, y, b, c, d, e, f, g⟩

theorem witness_MoltMessagesAct :
    let s (st : Nat) : State := Probe.moltWith st (Probe.comes { attempt := 2, rx := List.replicate 64 (0, false) })
    (OfMolt (s 2) (Probe.mm 0 77 2) 0 ∧ OfMolt (s 2) (Probe.mm 1 77 2) 1 ∧ OfMolt (s 2) (Probe.mm 2 0 0) 2 ∧
      OfMolt (s 2) (Probe.mm 3 77 3) 3) ∧
    ((s 2).u.molt.indexOf 77 = some 0 ∧ sgDstDev ((s 2).u.molt.seg 0) = (s 2).fabric ∧
      ((s 2).u.molt.segIn 0).attempt = bits (Probe.mm 0 77 2).aux.toNat 4 4 ∧
      ((s 2).u.molt.segIn 0).ok = false ∧ (Probe.mm 0 77 2).addr.toNat + (Probe.mm 0 77 2).data.length ≤ sgStream ((s 2).u.molt.seg 0) ∧
      exAll ((sgPlaces ((s 2).u.molt.seg 0) 0 16).map fun p => (s 2).span 1 p.1 p.2 true) = .ok [[(.host, 0x40002000, 16)]] ∧
      (s 2).memGoes 1 [(.host, 0x40002000, 16)] = true) ∧
    (anyPoison ((s 2).u.molt.segIn 0).rx = false ∧
      foldDigest (s 2).u.molt.key (dataOf ((s 2).u.molt.segIn 0).rx) ≠ leNat (dataOf ((Probe.mm 1 77 2).data.take 16)) ∧
      ((s 2).u.molt.segIn 0).rx.length = sgStream ((s 2).u.molt.seg 0) ∧
        (∃ k ∈ (s 2).u.molt.segsOf (sgShard ((s 2).u.molt.seg 0)), k ≠ 0 ∧ ((s 2).u.molt.segIn k).ok = false) ∧
      let e : Msg := { Probe.mm 1 77 2 with data := cleanBytes 16 Probe.zeros }
      foldDigest (s 2).u.molt.key (dataOf ((s 2).u.molt.segIn 0).rx) = leNat (dataOf (e.data.take 16))) ∧
    (let c := Probe.moltWith 2 (fun x => { x with hdr := [3, 0, 1] })
     OfMolt c (Probe.mm 4 0 0) 4 ∧ c.moltCoord = true ∧ c.rd .moltState = 2) ∧
    (let t := Probe.moltWith 3 (fun x => { x with hdr := [3 + 2 ^ 16 + 255 * 2 ^ 32 + 9 * 2 ^ 48, 7 * 2 ^ 16] })
     OfMolt t (Probe.mm 5 0 0) 5 ∧ t.rd .moltState = 3 ∧ t.u.molt.produce = true ∧ t.u.molt.release = false ∧ t.u.molt.model < 256 ∧
       t.verCurrent t.u.molt.model ≠ some t.u.molt.version ∧ OfMolt t (Probe.mm 6 0 0) 6 ∧
       OfMolt t (Probe.mm 7 0 0) 7) := by
  refine ⟨
    ⟨Probe.ofMolt_of ?_, Probe.ofMolt_of ?_, Probe.ofMolt_of ?_, Probe.ofMolt_of ?_⟩, ?_, ?_, 
    ⟨Probe.ofMolt_of ?_, ?_⟩, Probe.ofMolt_of ?_, ?_, ?_, ?_, ?_, ?_, Probe.ofMolt_of ?_, Probe.ofMolt_of ?_⟩
    <;> decide +kernel

theorem witness_MoltMessagesAct_repair :
    let s := Probe.flow 8191 4 2 (Probe.vers 0 0)
    let m (v : Nat) : Msg := { Probe.msg 10 with aux := BitVec.ofNat 64 (8 + 0xFFFF * 2 ^ 8 + 77 * 2 ^ 24),
                                                 data := cleanBytes 2 255 ++ cleanBytes 2 v }
    (InTurn s (m 9) 10 ∧ bits (m 9).aux.toNat 0 4 = 8 ∧ bits (m 9).aux.toNat 8 16 = 0xFFFF ∧ leNat (dataOf ((m 9).data.take 2)) = 255 ∧
      leNat (dataOf (((m 9).data.drop 2).take 2)) = 9 ∧ bits (m 9).aux.toNat 24 32 = 77 ∧ s.flowCtx 8191 = 1 ∧
          s.memGoes 1 [(.host, 0x40002000, 64)] = true ∧
      (s.segRec 255 9 77) = some (⟨255, 9, 1, [Probe.shard 0 0]⟩, Probe.shard 0 0, Probe.segRec 0) ∧
      s.segResident ⟨255, 9, 1, [Probe.shard 0 0]⟩ (Probe.segRec 0) = .ok [(.host, 0x40002000, 64)]) ∧ InTurn s (m 8) 10 ∧
          s.segRec 255 8 77 = none :=
  ⟨⟨Probe.inTurn_of (by decide +kernel), by decide +kernel⟩, Probe.inTurn_of (by decide +kernel), by decide +kernel⟩

/-- Session 255 of context 1 on model 255: request queue 6, step queue 5 with a program of `n` NOPs. -/
def Probe.sesD : List Nat := [1 + 255 * 2 ^ 16 + 2 ^ 54, 64 + 128 * 2 ^ 32, 0, 2 + 2 ^ 32 + 2 ^ 48, 0x4000, 0xA000 + 2 ^ 48, 6,
    0x10000 + 13 * 2 ^ 48, 0x3100, 0, 0, 0, 0, 0, 0, 0]
def Probe.entry (n : Nat) : List Nat := [5 + n * 2 ^ 32, 0xB000, 0, 0]
def Probe.sesMem : State :=
  let s := Probe.reg .versionEntry 255 (9 + 2 ^ 16) (Probe.held Probe.queue)
  Probe.words 0x8000 Probe.sesD (Probe.words 0xA000 (Probe.entry 1)
    (Probe.reg .queueCfg 6 (1 + 2 + 2 ^ 8 + 4 * 2 ^ 32 + 0x5000 * 2 ^ 64 + 0x2000 * 2 ^ 128 + 0x3008 * 2 ^ 192) s))
def Probe.ses (st : Nat) (x : Sess) : State :=
  let s := Probe.reg .sessionDesc 255 0x8000 (Probe.reg .sessionState 255 st Probe.sesMem)
  { s with u := { s.u with sess := [(255, x)] } }

theorem witness_SessionsServeRequestsAndSteps_opens :
    let s := Probe.ses 0 { opening := true }
    let f := Probe.reg .sessionDesc 255 0x8001 s
    let r := Probe.ses 1 { ctx := 1, d := Probe.sesD, widx := 8192, recs := [] }
    (Accepts Probe.sesMem .hostPf .sessionDesc 255 0x8000 ∧ Probe.sesMem.sesGate 255 = stOk ∧ Probe.sesMem.sesIdle 255 = true ∧
      Accepts Probe.sesMem .hostPf .sessionDesc 255 0) ∧
    ((s.ses 255).opening = true ∧ s.fwRuns = true ∧ s.runs = true ∧ s.loopback = false ∧ (s.sesCheck 255).1 = 1 ∧ (f.ses 255).opening = true ∧
      f.runs = true ∧ (f.sesCheck 255).1 = 0x10) ∧
    (Accepts r .hostPf .stepRead 255 0 ∧ r.sesGate 255 = stOk ∧ dist32 0 (r.ses 255).widx ≤ (r.ses 255).ringSlots ∧
      (r.ses 255).recs = []) := by
  unfold Accepts
  decide +kernel

/-- A request waits in queue 6. -/
def Probe.request (d : Desc) : State :=
  (Probe.reg .queueState 6 (2 ^ 32) (Probe.ses 1 { ctx := 1, d := Probe.sesD, inFlight := true })).apply
    (.mem .host 0x40005000 ((descBytes d).map fun b => (b, false)))
def Probe.askD (req rest : Nat) : Desc := { w0 := BitVec.ofNat 64 (req + 255 * 2 ^ 8 + 7 * 2 ^ 32), w2 := 1 + 2 ^ 32,
                                            w3 := 0x3F800000 * 2 ^ 32, w5 := BitVec.ofNat 64 rest }

theorem witness_SessionsServeRequestsAndSteps_asks (req rest : Nat) (h : req ∈ [0, 1, 2, 3]) (k : rest ∈ [0, 1]) :
    Asks (Probe.request (Probe.askD req rest)) 6 (Probe.askD req rest) 255 [(.host, 0x40003008, 4)] ∧
    ((Probe.request (Probe.askD req rest)).ses 255).inFlight = true ∧ dfld (Probe.askD req rest) 0 0 8 = req ∧
    (Probe.request (Probe.askD req rest)).reqInvalid 255 ((Probe.request (Probe.askD req rest)).ses 255)
      ((Probe.request (Probe.askD req rest)).reqOf 6 (Probe.askD req rest)) (reqRest (Probe.askD req rest)) = (rest == 1 || req == 0) := by
  fin_cases h <;> fin_cases k <;>
    refine ⟨⟨⟨{ ctx := 1, d := Probe.sesD, inFlight := true }, ?_⟩, ?_, ?_, ?_, ?_, ?_, ?_, ?_, ?_, ?_, ?_⟩, ?_⟩ <;> decide +kernel

/-- A sequence decodes its first token with one sample row; its buffer stands at 0xC000. -/
def Probe.sq : Sq := { tag := 7, be := false, order := 0, handle := some 0, toks := 0xC000, promptLen := 1, maxNew := 1, temp := 0,
                       topP := 0x3F800000, topK := 0, goal := 1, fill := 1, readTime := 0 }

theorem witness_SessionsServeRequestsAndSteps_commit :
    let x : Sess := { ctx := 1, d := Probe.sesD, table := [Probe.entry 1], inFlight := true, seqs := [Probe.sq], plan := [⟨7, false, 0,
      1, some 0⟩] }
    let s := Probe.ses 1 x
    (s.sesLive 255 = true ∧ (s.ses 255).inFlight = true ∧ s.loopback = false ∧ s.runs = true ∧ s.fwRuns = true ∧ s.stepEnded (s.ses 255) = true ∧
      s.ctxState (s.ses 255).ctx = 1 ∧
      s.u.mem.faulty = false) ∧
    s.rdCtx 1 (x.planAt 32 28) 8 = .ok (List.replicate 8 (0, false)) ∧ s.rdCtx 1 (x.planAt 32 0) 4 = .ok (List.replicate 4 (0, false)) ∧
    anyPoison (List.replicate 8 ((0 : Byte), false)) = false := by decide +kernel

/-- Session 255 with MAX_LEN 128 and the one stop token 9, on a tarn of four units; deadlines of 1 us and MISS_CANCEL where asked for. -/
def Probe.sesE (late : Nat) : List Nat :=
  [Probe.sesD.getD 0 0 + late * 2 ^ 53, 64 + 128 * 2 ^ 32, late * (1 + 2 ^ 32), 128 + 2 ^ 32 + 2 ^ 48, 0x4000, 0xA000 + 2 ^ 48, 6,
    0x10000 + 13 * 2 ^ 48, 0x3100, 0, 0, 9 + 0xFFFFFFFF * 2 ^ 32, 2 ^ 64 - 1, 2 ^ 64 - 1, 2 ^ 64 - 1, 0]
def Probe.bound (late : Nat) (x : Sess) : State :=
  let s := Probe.ses 1 { x with ctx := 1, d := Probe.sesE late }
  { s with u := { s.u with mem := { s.u.mem with tarn := 4 }, now := 5000 } }

/-- A sequence with 62 keys, 60 tokens and three pages; an ADMIT of one prompt token, or of 200. -/
def Probe.sqB (maxNew fill : Nat) : Sq := { Probe.sq with maxNew := maxNew, fill := fill, gen := 60, pages := [[0], [1], [2]] }
def Probe.ask (prompt : Nat) (told : List Nat) : Req :=
  { idx := 3, time := 10, w0 := 1 + 255 * 2 ^ 8 + 7 * 2 ^ 32, w2 := prompt + 2 ^ 32, w3 := 0x3F800000 * 2 ^ 32, told := told }

theorem Probe.plain_of {s : State} {i : Nat} (h : ((s.ses i).reqs.isEmpty && (s.ses i).policy.isNone && (s.ses i).fld 0 52 1 == 0) = true) :
    Plain s i := by
  simp only [Bool.and_eq_true, List.isEmpty_iff, Option.isNone_iff_eq_none, beq_iff_eq] at h
  exact ⟨h.1.1, h.1.2, h.2⟩

theorem Probe.unhurried_of {s : State} {i : Nat} (h : ((s.ses i).reqs.isEmpty && (s.ses i).policy.isNone && (s.ses i).fld 0 52 1 == 0) = true)
    (t : (s.ses i).target true = 0 ∧ (s.ses i).target false = 0) : Unhurried s i :=
  ⟨Probe.plain_of h, fun first => match first with | true => t.1 | false => t.2⟩

/-- What `EndsBy` and `GoesOn` ask of stop tokens, as a check. -/
theorem Probe.stops_iff (x : Sess) (v : Nat) : x.stops v ↔
    ((List.range 8).any fun k => v != 0xFFFFFFFF && x.fld (0x58 + 8 * (k / 2)) (32 * (k % 2)) 32 == v) = true := by
  simp only [Sess.stops, List.any_eq_true, List.mem_range, Bool.and_eq_true, bne_iff_ne, ne_eq, beq_iff_eq]

theorem witness_SessionsServeRequestsAndSteps_accept (n : Nat) (h : n ∈ [100, 61]) :
    let q := Probe.sqB n 62
    let s := Probe.bound 0 { plan := [⟨7, false, 0, 3, some 0⟩], seqs := [q], inFlight := true }
    Unhurried s 255 ∧ ((s.ses 255).plan = [⟨7, false, 0, 3, some 0⟩] ∧ (s.ses 255).seqs = [q] ∧ (s.ses 255).waiting = [] ∧ q.handle = some 0 ∧
      (q.fill + 2) / 64 + 2 ≤ q.pages.length) := by
  fin_cases h <;> exact ⟨Probe.unhurried_of (by decide +kernel) (by decide +kernel), by decide +kernel⟩

/-- Its results 5 and 6, the candidates 5 and 7: two tokens are accepted, or the second is a nonfinite one, or the first ends the sequence
by MAX_NEW, or as the stop token 9, or by MAX_LEN. -/
theorem witness_SessionsServeRequestsAndSteps_tokens :
    let x := (Probe.bound 0 {}).ses 255
    let q := Probe.sqB 100 62
    GoesOn x q 5 61 63 ∧ GoesOn x q 6 62 64 ∧ ((5 : Nat) ≠ 0xFFFFFFFF ∧ (5 : Nat) = 5 ∧ (7 : Nat) ≠ 6) ∧
    EndsBy x q 9 61 63 1 ∧ EndsBy x (Probe.sqB 61 62) 5 61 63 2 ∧ EndsBy x (Probe.sqB 100 127) 5 61 128 3 := by
  unfold GoesOn EndsBy
  simp only [Probe.stops_iff]
  decide +kernel

theorem witness_SessionsServeRequestsAndSteps_prefill (k : Option Nat) (h : k ∈ [none, some 0]) :
    let q := Probe.sqB 100 62
    let s := Probe.bound 0 { plan := [⟨7, true, 0, 2, k⟩], seqs := [q], inFlight := true }
    Unhurried s 255 ∧ (s.ses 255).plan = [⟨7, true, 0, 2, k⟩] ∧ (q.fill + 2) / 64 + 2 ≤ q.pages.length := by
  fin_cases h <;> exact ⟨Probe.unhurried_of (by decide +kernel) (by decide +kernel), by decide +kernel⟩

theorem witness_SessionsServeRequestsAndSteps_pages :
    let q : Sq := { Probe.sqB 100 200 with pages := [[0], [1], [2], [3]] }
    let s := Probe.bound 0 { seqs := [q] }
    Unhurried s 255 ∧ (s.ses 255).seqs = [q] ∧ (s.ses 255).plan = [] ∧ q.handle = some 0 ∧ q.pages.length < q.pagesDue ∧
      s.takeable 255 < (s.ses 255).unitsPerPage :=
  ⟨Probe.unhurried_of (by decide +kernel) (by decide +kernel), by decide +kernel⟩

/-- An ADMIT that never fits; one that waits for pages still pending, told so or not; one that fits. -/
theorem witness_SessionsServeRequestsAndSteps_admit :
    let long := Probe.bound 0 { waiting := [Probe.ask 200 []] }
    let fits (told : List Nat) := Probe.bound 0 { waiting := [Probe.ask 1 told] }
    let full (told : List Nat) : State := { fits told with u := { (fits told).u with tarnPend := [(5, 1, [0, 1, 2])] } }
    let units (s : State) (w : Req) : Nat := (s.ses 255).needs (.fresh w)
    (Unhurried long 255 ∧ Unhurried (fits []) 255 ∧ Unhurried (full []) 255 ∧ Unhurried (full [1]) 255) ∧
    ((long.ses 255).waiting = [Probe.ask 200 []] ∧ long.u.mem.tarn - long.othersReserve 255 < units long (Probe.ask 200 [])) ∧
    ((fits []).handlesUsed = [] ∧ 0 < ((fits []).ses 255).maxSeq ∧ units (fits []) (Probe.ask 1 []) ≤ (fits []).takeable 255 ∧
      units (fits []) (Probe.ask 1 []) ≤ (fits []).u.mem.tarn - (fits []).othersReserve 255 ∧
      ((fits []).ses 255).storeRoom (Probe.ask 1 []).maxNew = true) ∧
    ((full []).handlesUsed = [] ∧ (full []).takeable 255 < units (full []) (Probe.ask 1 []) ∧
      units (full []) (Probe.ask 1 []) ≤ (full []).u.mem.tarn - (full []).othersReserve 255) :=
  ⟨⟨Probe.unhurried_of (by decide +kernel) (by decide +kernel), Probe.unhurried_of (by decide +kernel) (by decide +kernel),
    Probe.unhurried_of (by decide +kernel) (by decide +kernel), Probe.unhurried_of (by decide +kernel) (by decide +kernel)⟩,
    by decide +kernel, by decide +kernel, by decide +kernel⟩

theorem witness_SessionsServeRequestsAndSteps_late :
    let w := Probe.bound 1 { waiting := [Probe.ask 1 []] }
    let q := Probe.bound 1 { seqs := [Probe.sqB 100 62] }
    (Plain w 255 ∧ Plain q 255) ∧
    ((w.ses 255).plan = [] ∧ (w.ses 255).waiting = [Probe.ask 1 []] ∧ (w.ses 255).passed w.now (Probe.ask 1 []).time true = true ∧
      (w.ses 255).fld 0 53 1 = 1 ∧ (Probe.ask 1 []).missed = false) ∧
    ((q.ses 255).seqs = [Probe.sqB 100 62] ∧ (Probe.sqB 100 62).last.isNone = true ∧
      (q.ses 255).passed q.now (Probe.sqB 100 62).ref true = true ∧ (Probe.sqB 100 62).missed = false) :=
  ⟨⟨Probe.plain_of (by decide +kernel), Probe.plain_of (by decide +kernel)⟩, by decide +kernel, by decide +kernel⟩

theorem witness_SessionsServeRequestsAndSteps_victim :
    (victim [Probe.sqB 100 62, { Probe.sqB 100 62 with tag := 8, be := true }]).isSome = true := by decide +kernel

theorem witness_SessionsServeRequestsAndSteps_release :
    let x : Sess := { ctx := 1, d := Probe.sesD, table := [Probe.entry 15], due := true, seqs := [Probe.sq], version := 9 }
    let y : Sess := { ctx := 1, d := Probe.sesD, table := [Probe.entry 14], inFlight := true, left := [0], seqs := [Probe.sq],
                      plan := [⟨7, false, 0, 1, some 0⟩] }
    let s := Probe.ses 2 x
    let t := Probe.ses 2 y
    (s.sesLive 255 = true ∧ s.loopback = false ∧ s.runs = true ∧ s.fwRuns = true ∧ s.ctxState (s.ses 255).ctx = 1 ∧
      (s.ses 255).recs = [] ∧ (s.ses 255).due = true ∧
      s.u.mem.faulty = false ∧ (s.ses 255).inFlight = false ∧ s.verPoisoned (s.ses 255).model (s.nextVersion (s.ses 255)).1 = false ∧
          exAll ((s.planRows (s.ses 255)).map (s.rowTokens (s.ses 255))) = .ok [[(0, false)]] ∧
      (∀ e ∈ (s.ses 255).table,
        s.qSize (bits (e.getD 0 0) 0 16) - dist32 (s.qHead (bits (e.getD 0 0) 0 16)) (s.qTail (bits (e.getD 0 0) 0 16)) < bits (e.getD 0 0) 32 32 + 2)) ∧
    (t.sesLive 255 = true ∧ t.ctxState (t.ses 255).ctx = 1 ∧ (t.ses 255).recs = [] ∧ (t.ses 255).due = false ∧ (t.ses 255).left = [0] ∧
      t.u.mem.faulty = false ∧
      (t.slotOf (t.qCore 5) (t.qCtx 5)).isSome = true ∧
      14 + 2 ≤ t.qSize 5 - dist32 (t.qHead 5) (t.qTail 5) ∧ t.rdCtx 1 0xB000 (64 * 14) = .ok (List.replicate 896 (0, false)) ∧
          t.rdCtx 1 0 0 = .ok [] ∧
      anyPoison (List.replicate 896 ((0 : Byte), false)) = false) := by decide +kernel

/-! ### The spec's worked examples -/

/-- The address of the worked example of chapter 9 lies in stack 3, channel 1,029, location 46,161. -/
theorem test_hashed_place : Probe.live.u.mem.place 0x2A43217A80 = ⟨3, 1029, 46161⟩ := by decide +kernel

/-- Core 37's share and its bank share begin where chapter 9 says. -/
theorem test_core_share : Probe.live.u.mem.coreBase 37 = 0x534000000 ∧ Probe.live.u.mem.bankBase 37 = 0x54C000000 := by decide +kernel

/-- The fold of 20 bytes under key 2 (chapter 11). -/
theorem test_fold_digest : foldDigest 2 ([1] ++ List.replicate 14 0 ++ [0x80, 0x34, 0x12, 0, 0]) = 0x4AEC := by decide +kernel

/-- The block of chapter 2 in MXFP4: 60.0, 2.25, −12.0, 0.25 and zeros, under FLOOR and under FIT. -/
def Probe.block : List Val := [.fin false 60 0, .fin false 9 (-2), .fin true 12 0, .fin false 1 (-2)] ++ List.replicate 28 .zero

theorem test_block_floor : (DFmt.e2m1.block false Probe.block).scale = 0x82 ∧
    ((DFmt.e2m1.block false Probe.block).elems.map Conv.code).take 5 = [7, 1, 0xB, 0, 0] := by decide +kernel

theorem test_block_fit : (DFmt.e2m1.block true Probe.block).scale = 0x83 ∧
    ((DFmt.e2m1.block true Probe.block).elems.map Conv.code).take 5 = [6, 0, 0xA, 0, 0] := by decide +kernel

/-- One and 127 block sums of 2⁻³⁰ keep every bit in W40, and none in FP32 (chapter 2). -/
theorem test_w40_keeps : ((List.replicate 127 (w40.arith (.fin false 1 (-30)))).foldl w40Add (w40.arith (.fin false 1 0))) =
    w40.arith (.fin false (2 ^ 30 + 127) (-30)) := by decide +kernel

theorem test_fp32_loses : fAdd fOne (fp32.arith (.fin false 1 (-30))) = fOne := by decide +kernel

/-- The W40 value 0.75 is 0x3F40 in BF16 (chapter 2). -/
theorem test_bf16 : (bf16.conv (w40.val (w40.arith (.fin false 3 (-2))))).code = 0x3F40 := by decide +kernel

/-- The class S step of chapter 8: 0.75 less 0x322B_CC77 with 0xF5C3 drawn gives 0x3F40 and 0xFFFF. -/
theorem test_low_half : (bf16.conv ((Val.fin false 3 (-2)).add (fp32.val 0x322BCC77).negate)).code = 0x3F40 ∧
    (lowHalf ((((Val.fin false 3 (-2)).add (fp32.val 0x322BCC77).negate).add (Val.fin false 3 (-2)).negate).scale 22) 0xF5C3).1 = 0xFFFF :=
      by decide +kernel

/-- PEER_EXPECT of port 2 lies at window offset 0xA0_0890 less 0x80_0000 (chapter 14). -/
theorem test_slot_offset : EName.peerExpect.key 2 = 0x401102 ∧ 0x4011 * 128 + 2 * 8 = 0xA00890 - 0x800000 := by decide +kernel

/-! ### The queue of commands -/

/-- Commands leave first in, first out; an empty queue lets the clock run. -/
theorem test_front_first :
    (match step { State.reset with pending := [.handlePadTouch,
      .latchOpen] } with | .next t => t.pending == [.latchOpen] | _ => false) = true ∧
    (match step State.reset with | .next t => t.pending == [] && t.u.now == 40 | _ => false) = true := by decide +kernel

/-! ### What is no command that can come -/

theorem test_wf_opcode : Instr.wf (.nop 5 { w0 := 1 }) = false ∧ Instr.wf (.nop 5 {}) = true := by decide +kernel
theorem test_wf_copy : Instr.wf (.dmCopy 5 { w0 := 0x80, w2 := 8 }) = false ∧
    Instr.wf (.accumW40 5 { w0 := 0x80, w2 := 8 }) = true := by decide +kernel
theorem test_wf_reserved : Instr.wf (.reservedOpcode 5 {}) = false ∧ Instr.wf (.reservedOpcode 5 { w0 := 0xFF }) = true ∧
    Instr.wf (.reservedRequest 5 { w0 := 3 }) = false := by decide +kernel
theorem test_wf_message : Instr.wf (.put { type := 1 }) = false ∧
    Instr.wf (.put { data := List.replicate 4049 (0, false) }) = false := by decide +kernel
theorem test_wf_molt : Instr.wf (.segEnd { type := 10, aux := 2 }) = false := by decide +kernel
theorem test_wf_request : Instr.wf (.read .hostPf (Probe.pdu 2 0 0 0 0)) = false ∧
    Instr.wf (.write .hostPf (Probe.pdu 2 0 0 0 225 (List.replicate 225 0))) = false := by
  decide +kernel
theorem test_wf_flit : Instr.wf (.dataFlit 0 { w0 := 1, payload := List.replicate 239 0 }) = false := by decide +kernel
theorem test_wf_temperature : Instr.wf (.dieTempSample 0 128) = false ∧
    Instr.wf (.stackTempSample 0 0 0 0 (-129)) = false := by decide +kernel
theorem test_wf_patrol : Instr.wf (.patrolScrub 19 512 87381 0 {}) = false ∧
    Instr.wf (.patrolScrub 0 0 0 0 { bursts := [(20 * 2 ^ 28, [])] }) = false ∧ Instr.wf (.poisonReport (20 * 2 ^ 34)) = false ∧
    Instr.wf (.loopbackDone [(1536, 0)]) = false := by decide +kernel
theorem test_wf_lengths : Instr.wf (.apertureWrite 0 [] false) = false ∧ Instr.wf (.windowSlotWrite 0 0 []) = false ∧
    Instr.wf (.mbxMsgWrite (.host 0) 0 255 [0, 0]) = false ∧ Instr.wf (.fwChunk .hostPf [0]) = false := by decide +kernel
theorem test_wf_lists : Instr.wf (.memoryTrainingDone [1, 1]) = false ∧ Instr.wf (.admissionCall 0 [1, 1] true) = false ∧
    Instr.wf (.msixUnmask 31 ⟨64, false, none⟩) = false := by decide +kernel
theorem test_wf_codes : Instr.wf (.spdmUnsupportedRequest .mctp 0x84) = false ∧ Instr.wf (.schedulingCall 0 0 (-2)) = false ∧
    Instr.wf (.governorTick (2 ^ 16) 0 0 ⟨0, 0, 0, 0⟩) = false := by decide +kernel

/-- A tag that lost a bit fails the next pop of its entry with PARITY, and one further down does not (R216). -/
theorem test_scree_parity :
    let s := Probe.scree [Probe.screeEnt 128, Probe.screeEnt 0]
    let torn (k : Nat) : State := { s with u := s.u.struck { tags := [(0, k)] } }
    screeCheck (torn 0) 0 1 Probe.popD = some (screeReason + 7) ∧ screeCheck (torn 1) 0 1 Probe.popD = none := by decide +kernel

/-- Power that comes back with an unreadable flash leaves FLASH_OK at 0, and no copy of the firmware boots (R440, R502). -/
theorem test_flash_unreadable :
    let s := (Act.powerOn 0 false).run State.reset
    s.noFlash = true ∧ s.copyReason 0 = 5 ∧ s.copyReason 1 = 5 := by decide +kernel
end

section
/-! SUPPORT. GATE_CLAIM, TE_YIELD and PHASE_GATE_UNIT: what each does to the front of an engine, to its gate, its counter and its clock
(R35 to R38, R83, R107, R108). GATE_CLAIM claims once where the engine is one of those its front command takes; the statement of O21
does not ask that, and a state in which the command also stands before another engine refutes it. -/

namespace Sys2Proof.Machine

/-! ### What changes of the queues and of the cores' state leave -/

/-- What no engine's loop changes around its pieces: memory, the register file and power. -/
def State.outside (s : State) : Store × Store × Store × Tab Nat × PowU := (s.stack, s.host, s.scratch, s.regs, s.u.pow)

theorem State.outside_iff {s t : State} : t.outside = s.outside ↔
    t.stack = s.stack ∧ t.host = s.host ∧ t.scratch = s.scratch ∧ t.regs = s.regs ∧ t.u.pow = s.u.pow := by simp [State.outside]

theorem sameMem_of_stores {s t : State} (h : ∀ m, t.store m = s.store m) : SameMem s t := fun m a n => by simp [State.rdMem, h m]

theorem State.store_of_outside {s t : State} (h : t.outside = s.outside) (m : MemSel) : t.store m = s.store m := by
  obtain ⟨hst, hho, hsc, -, -⟩ := State.outside_iff.1 h
  cases m
  · exact hst
  · exact hho
  · exact hsc

theorem State.rd_of_outside {s t : State} (h : t.outside = s.outside) (n : EName) (i : Nat) : t.rd n i = s.rd n i := by
  obtain ⟨-, -, -, hr, hp⟩ := State.outside_iff.1 h
  exact State.rd_congr hr hp n i

theorem sameMem_of_outside {s t : State} (h : t.outside = s.outside) : SameMem s t := sameMem_of_stores (State.store_of_outside h)

theorem sameEntries_of_outside {s t : State} (h : t.outside = s.outside) : SameEntriesBut [] s t :=
  fun n i _ _ => State.rd_of_outside h n i

theorem Act.core_keepsOutside (f : CoreU → CoreU) : (Act.core f).Keeps State.outside := fun _ => rfl
theorem Act.front_keepsOutside (m : Cmd) : (Act.front m).Keeps State.outside := keeps_each fun _ _ => core_keepsOutside _
theorem Act.claim_keepsOutside (m : Cmd) (r : Option (Nat × Nat)) : (Act.claim m r).Keeps State.outside := by
  cases r <;> exact fun _ => rfl
theorem Act.front_keepsCc (m : Cmd) : (Act.front m).Keeps fun s => s.u.core.cc := keeps_each fun _ _ => fun _ => rfl

/-- Gates, and what a command can claim of them, are told by what contexts keep on the cores. -/
theorem State.gate_of_cc {s t : State} (h : t.u.core.cc = s.u.core.cc) (core ctx g : Nat) : t.gate core ctx g = s.gate core ctx g := by
  simp only [State.gate, State.ctxCore, h]

theorem State.canClaim_of_cc {s t : State} (h : t.u.core.cc = s.u.core.cc) (m : Cmd) (role : Option (Nat × Nat)) :
    t.canClaim m role = s.canClaim m role := by simp only [State.canClaim, State.gate_of_cc h]

theorem State.canPost_of_cc {s t : State} (h : t.u.core.cc = s.u.core.cc) (m : Cmd) : t.canPost m = s.canPost m := by
  simp only [State.canPost, State.gate_of_cc h]

@[simp] theorem State.gate_front (s : State) (c : Cmd) (core ctx g : Nat) : ((Act.front c).run s).gate core ctx g = s.gate core ctx g :=
  State.gate_of_cc (Act.front_keepsCc c s) core ctx g

@[simp] theorem State.gate_gate (s : State) (core ctx g : Nat) (f : Gate → Gate) :
    ((Act.gate core ctx g f).run s).gate core ctx g = f (s.gate core ctx g) := by
  simp [Act.gate, Act.ctxCore, State.gate, State.ctxCore]

/-! ### A command changes at the front of its engines -/

/-- A command as its engine takes it up: as it stood, or with its tile mask read (R72). -/
theorem latch_cases (d : Desc) (s : State) (m : Cmd) : (runOf d).latch s m = m ∨ (runOf d).latch s m = teMask s m := by
  unfold runOf
  split
  case h_2 => exact .inr rfl
  all_goals exact .inl (by first | rfl | (split <;> rfl))

/-- Taking a command up changes neither its descriptor nor its place. -/
theorem latch_place (d : Desc) (s : State) (m : Cmd) :
    ((runOf d).latch s m).d = m.d ∧ ((runOf d).latch s m).core = m.core ∧ ((runOf d).latch s m).ctx = m.ctx ∧
      ((runOf d).latch s m).q = m.q ∧ ((runOf d).latch s m).idx = m.idx := by
  rcases latch_cases d s m with h | h <;> rw [h]
  · simp
  · unfold teMask; split <;> simp

/-- A queue of an engine that the command takes, once it changed. -/
theorem engQ_front {s : State} {c : Cmd} {e : Nat} (he : e ∈ engsOf c.d) :
    ((Act.front c).run s).engQ c.core e = (s.engQ c.core e).map fun x => if sameCmd x c then c else x := by
  rw [Act.front, run_each_engQ (engsOf_nodup _), if_pos he]

/-- A command that heads its engines heads them still once it changed. -/
theorem headsAll_front {s : State} {m c : Cmd} (h : s.headsAll m = true) (hd : c.d = m.d) (hc : c.core = m.core) (hq : c.q = m.q)
    (hi : c.idx = m.idx) : ((Act.front c).run s).headsAll c = true := by
  simp only [State.headsAll, List.all_eq_true] at h ⊢
  intro e he
  have hm := h e (hd ▸ he)
  rw [engQ_front he, hc]
  cases hs : s.engQ m.core e with
  | nil => simp [hs] at hm
  | cons x r =>
    have hx : sameCmd x c = true := by simpa [hs, sameCmd, hq, hi] using hm
    simp [hx]

/-! ### Turns of an engine's loop -/

/-- The front command of an engine, to be taken up now: the device and its context run, it heads its engines and its slot does not
rotate. -/
structure Goes (x : State) (core eng : Nat) (m : Cmd) : Prop where
  front : ∃ r, x.engQ core eng = m :: r
  live : x.live m.ctx = true
  heads : x.headsAll m = true
  still : x.suspended m = false

section
variable {x : State} {core eng n : Nat} {m : Cmd} {r : List Cmd}

/-- The front command takes its WAIT units and the engine goes on. -/
theorem engine_claims (h : Goes x core eng m) (hw : m.waited = false) (hg : x.canClaim m (hWait m.d) = true) :
    (Act.engine core eng (n + 1)).run x =
      (Act.engine core eng n).run ((Act.all [.claim m (hWait m.d), .front { (runOf m.d).latch x m with waited := true }]).run x) := by
  obtain ⟨r, hq⟩ := h.front
  have hl := h.live
  simp only [State.live, Bool.and_eq_true, beq_iff_eq] at hl
  simp [Act.engine, hq, hl, h.heads, h.still, hw, hg]

/-- The front command stands where the STREAM units of its next piece are short. -/
theorem engine_unstreamed {c : Cmd} (h : Goes x core eng m) (hw : m.waited = true) (hp : (runOf m.d).prep x m = .ready c)
    (hs : c.streamed = false) (hg : x.canClaim c (hStream c.d) = false) : (Act.engine core eng (n + 1)).run x = (Act.front c).run x := by
  obtain ⟨r, hq⟩ := h.front
  have hl := h.live
  simp only [State.live, Bool.and_eq_true, beq_iff_eq] at hl
  simp [Act.engine, hq, hl, h.heads, h.still, hw, hp, hs, hg]

/-- Where the front command's WAIT units are short, nothing happens. -/
theorem engine_unclaimed (hq : x.engQ core eng = m :: r) (hw : m.waited = false) (hg : x.canClaim m (hWait m.d) = false) :
    (Act.engine core eng (n + 1)).run x = x := by
  simp only [Act.engine, Act.run_get, hq, hw, hg, Bool.not_false, if_true, Bool.false_eq_true, if_false, ite_self, Act.run_skip]

/-- Where the front command waits for POST credits alone, it stands as it is. -/
theorem engine_unposted (hq : x.engQ core eng = m :: r) (hw : m.waited = true) (hp : (runOf m.d).prep x m = .ready m)
    (hs : m.streamed = true) (ho : m.posted = false) (hg : x.canPost m = false) :
    (Act.engine core eng (n + 1)).run x = x ∨ (Act.engine core eng (n + 1)).run x = (Act.front m).run x := by
  simp only [Act.engine, Act.run_get, hq, hw, hp, hs, ho, hg, Bool.not_true, Bool.not_false, Bool.false_eq_true, if_true, if_false]
  split
  · exact .inl rfl
  · exact .inr rfl

end

theorem engineFuel_eq : engineFuel = 4194302 + 2 := rfl

/-! ### GATE_CLAIM (R107, R108) -/

/-- A command whose WAIT units are there, with those units claimed and itself taken up. -/
theorem goes_claimed {s : State} {eng : Nat} {m taken : Cmd} (h : Goes s m.core eng m) (hown : eng ∈ engsOf m.d)
    (ht : taken = { (runOf m.d).latch s m with waited := true })
    (hstill : ((Act.all [.claim m (hWait m.d), .front taken]).run s).suspended taken = false) :
    Goes ((Act.all [.claim m (hWait m.d), .front taken]).run s) m.core eng taken := by
  obtain ⟨hd, hcore, hctx, hq, hi⟩ : taken.d = m.d ∧ taken.core = m.core ∧ taken.ctx = m.ctx ∧ taken.q = m.q ∧ taken.idx = m.idx := by
    rw [ht]; exact latch_place m.d s m
  obtain ⟨r, hfront⟩ := h.front
  have hkeep := Act.claim_keepsQueues m (hWait m.d)
  refine ⟨⟨r.map fun x => if sameCmd x taken then taken else x, ?_⟩, ?_, ?_, hstill⟩
  · show ((Act.front taken).run _).engQ m.core eng = _
    rw [← hcore, engQ_front (hd ▸ hown), hkeep.engQ, hcore, hfront]
    simp [sameCmd, hq, hi]
  · show ((Act.front taken).run _).live taken.ctx = true
    rw [(Act.front_keepsLive _).live, (Act.claim_keepsLive _ _).live, hctx, h.live]
  · refine headsAll_front (m := m) ?_ hd hcore hq hi
    simpa only [State.headsAll, hkeep.engQ] using h.heads

/-- An engine that the command takes claims its WAIT units as soon as the gate has them, where STREAM units are short (R108). -/
theorem gateClaim_claims (s : State) (core : Fin 192) (eng : Fin 7) (waited : Nat) (m c : Cmd) (r : List Cmd) (g n : Nat)
    (hown : eng.val ∈ engsOf m.d) (hfront : s.engQ core eng = m :: r) (hruns : s.runs = true) (hctx : s.ctxState m.ctx = 1)
    (hheads : s.headsAll m = true) (hcore : m.core = core) (taken : Cmd) (claimed : State)
    (ht : taken = { (runOf m.d).latch s m with waited := true }) (hcl : claimed = (Act.all [.claim m (hWait m.d), .front taken]).run s)
    (hsusp : s.suspended m = false) (hstill : claimed.suspended taken = false) (hw : m.waited = false) (hwait : hWait m.d = some (g, n))
    (hn : n ≤ (s.gate core m.ctx g).filled) (hp : (runOf m.d).prep claimed taken = .ready c) (hs : c.streamed = false)
    (hshort : claimed.canClaim c (hStream c.d) = false) :
    Completes (.gateClaim core eng waited) s fun t =>
      (t.gate core m.ctx g).filled = (s.gate core m.ctx g).filled - n ∧ SameMem s t ∧ SameEntriesBut [] s t := by
  rw [← hcore] at hfront hn ⊢
  have hgo : Goes s m.core eng m := ⟨⟨r, hfront⟩, by simp [State.live, hruns, hctx], hheads, hsusp⟩
  have hgo' : Goes claimed m.core eng taken := hcl ▸ goes_claimed hgo hown ht (hcl ▸ hstill)
  have hclaim : s.canClaim m (hWait m.d) = true := by simpa [State.canClaim, hwait] using hn
  have hd : taken.d = m.d := by rw [ht]; exact (latch_place m.d s m).1
  have hrun : (Act.gateClaim m.core eng waited).run s = (Act.front c).run claimed := by
    simp only [Act.gateClaim, Act.run_get, hfront, Act.run_seq, waitsPost, hw, Bool.false_and, Bool.false_eq_true, if_false, Act.run_skip,
      Act.runEngine, engineFuel_eq]
    rw [engine_claims hgo hw hclaim, ← ht, ← hcl, engine_unstreamed hgo' (by rw [ht]) (hd ▸ hp) hs hshort]
  have hout : ((Act.front c).run claimed).outside = s.outside := by
    rw [Act.front_keepsOutside, hcl, Act.run_all_cons, Act.run_all_cons, Act.run_all_nil, Act.front_keepsOutside, Act.claim_keepsOutside]
  refine ⟨(Act.front c).run claimed, by rw [← hrun, hcore]; rfl, ?_, sameMem_of_outside hout, sameEntries_of_outside hout⟩
  rw [State.gate_front, hcl, Act.run_all_cons, Act.run_all_cons, Act.run_all_nil, State.gate_front, hwait]
  simp [Act.claim]

/-- Cycles spent waiting for POST credits alone count for the physical gate (R31, R107). -/
theorem gateClaim_counts (s : State) (core : Fin 192) (eng : Fin 7) (waited : Nat) (m : Cmd) (r : List Cmd) (g n k : Nat)
    (hfront : s.engQ core eng = m :: r) (hruns : s.runs = true) (hw : m.waited = true) (hs : m.streamed = true) (ho : m.posted = false)
    (hpost : hPost m.d = some (g, n)) (hshort : s.canPost m = false) (hslot : s.slotOf core m.ctx = some k)
    (hp : ∀ x : State, (runOf m.d).prep x m = .ready m) :
    Completes (.gateClaim core eng waited) s fun t =>
      t.cnt .coreGateExhaust core (8 * k + g) = (s.cnt .coreGateExhaust core (8 * k + g) + waited) % 2 ^ 64 ∧ SameMem s t := by
  let y := (Act.count .coreGateExhaust core (8 * k + g) waited).run s
  have hu : y.u = s.u := Act.count_keeps_u (g := id) s
  have hk : k < 4 := by simpa using List.mem_of_find?_eq_some hslot
  have hg : g < 8 := by
    simp only [hPost] at hpost
    split at hpost
    · cases hpost; exact bits_lt _ _ 3
    · cases hpost
  have hset : Settable s .coreGateExhaust core := ⟨core.isLt, by decide, fun h => absurd h (by decide)⟩
  have hcnt : y.cnt .coreGateExhaust core (8 * k + g) = (s.cnt .coreGateExhaust core (8 * k + g) + waited) % 2 ^ 64 :=
    s.cnt_count hset (by show _ ≤ 256; omega)
  have hmem : SameMem s y := sameMem_of_stores fun m => Act.count_keeps_store m s
  have hrun : (Act.gateClaim core eng waited).run s = y ∨ (Act.gateClaim core eng waited).run s = (Act.front m).run y := by
    have hfront' : y.engQ core eng = m :: r := by simpa only [State.engQ, hu] using hfront
    have hshort' : y.canPost m = false := (State.canPost_of_cc (by rw [hu]) m).trans hshort
    simpa [Act.gateClaim, hfront, waitsPost, hw, hs, ho, hpost, hslot, hruns, Act.runEngine, engineFuel_eq] using
      engine_unposted (n := 4194303) hfront' hw (hp y) hs ho hshort'
  refine ⟨_, rfl, ?_⟩
  rcases hrun with h | h <;> rw [h]
  · exact ⟨hcnt, hmem⟩
  · have hout := Act.front_keepsOutside m y
    refine ⟨by simpa only [State.cnt, State.fld, State.rd_of_outside hout] using hcnt, fun sel a n => ?_⟩
    rw [sameMem_of_outside hout sel a n, hmem sel a n]

/-! ### TE_YIELD (R83, R103) -/

/-- A started TE_ACCUMULATE of a BE context outside a bundle gives way to the LC commands behind it, the first of which waits. -/
theorem teYield_yields (s : State) (core : Fin 192) (te : Fin 4) (m x : Cmd) (r : List Cmd) (hfront : s.engQ core te = m :: x :: r)
    (hruns : s.runs = true) (hop : hOpcode m.d = 0x21) (hst : m.started = true) (hbun : m.bun = 0) (hbe : s.isLC m.ctx = false)
    (hlc : s.isLC x.ctx = true) (hw : x.waited = false) (hshort : s.canClaim x (hWait x.d) = false) :
    Completes (.teYield core te) s fun t =>
      t.engQ core te = (x :: r).takeWhile (fun y => s.isLC y.ctx) ++ { m with yielded := true } :: (x :: r).dropWhile (fun y => s.isLC y.ctx) ∧
      t.cnt .teWork core (te * 6 + 5) = (s.cnt .teWork core (te * 6 + 5) + 1) % 2 ^ 64 ∧ SameMem s t := by
  let q := (x :: r).takeWhile (fun y => s.isLC y.ctx) ++ { m with yielded := true } :: (x :: r).dropWhile (fun y => s.isLC y.ctx)
  let y := (Act.engQ core te fun _ => q).run s
  let z := (Act.count .teWork core (te * 6 + 5)).run y
  have hu : z.u = y.u := Act.count_keeps_u (g := id) y
  have hout : y.outside = s.outside := Act.core_keepsOutside _ s
  have hq : z.engQ core te = q := by
    simp only [State.engQ, hu]
    exact Act.run_engQ_same _ _ _ s
  have hrun : (Act.teYield core te).run s = z := by
    have hz : z.canClaim x (hWait x.d) = false := (State.canClaim_of_cc (by rw [hu]; rfl) x _).trans hshort
    obtain ⟨l, hl⟩ : ∃ l, q = x :: l := by simp [q, hlc]
    have := engine_unclaimed (n := 4194303) (hq.trans hl) hw hz
    have hgives : (s.runs && hOpcode m.d == 0x21 && m.started && m.bun == 0 && !s.isLC m.ctx && s.isLC x.ctx) = true := by
      simp [hruns, hop, hst, hbun, hbe, hlc]
    simp only [Act.teYield, Act.run_get, hfront, List.headD_cons, hgives, Act.when_true]
    exact this
  have hset : Settable y .teWork core := ⟨core.isLt, by decide, fun h => absurd h (by decide)⟩
  refine ⟨z, by rw [← hrun]; rfl, hq, ?_, ?_⟩
  · rw [show z.cnt .teWork core (te * 6 + 5) = _ from y.cnt_count hset (by show _ ≤ 192; omega)]
    simp only [State.cnt, State.fld, State.rd_of_outside hout]
  · intro sel a n
    rw [show z.rdMem sel a n = y.rdMem sel a n from sameMem_of_stores (fun m => Act.count_keeps_store m y) sel a n,
      sameMem_of_outside hout sel a n]

/-! ### PHASE_GATE_UNIT (R35 to R38) -/

theorem mem_sadd {α : Type} [BEq α] [LawfulBEq α] (l : List α) (x : α) : x ∈ sadd l x := by
  unfold sadd; split <;> simp_all

/-- An idle unit that the phase gates loses its clock. -/
theorem phaseGateUnit_gates (s : State) (unit : Fin 13) (core : Fin 192) (hdev : s.rd .deviceState ≤ 1) (hon : s.rd .phaseGating = 1)
    (hphase : bit (awakeMask (s.rd .phase)) unit = false) (hidle : s.unitBusy unit core = false) :
    Completes (.phaseGateUnit ⟨unit, core⟩) s fun t => unitKey unit core ∈ t.u.core.gated ∧ SameMem s t ∧ SameEntriesBut [] s t := by
  let t := (Act.core fun c => { c with gated := sadd c.gated (unitKey unit core) }).run s
  have hrun : (Act.gateUnit unit core).run s = t := by
    simp [Act.gateUnit, hdev, hon, hphase, hidle, t]
  have hout : t.outside = s.outside := Act.core_keepsOutside _ s
  exact ⟨t, by rw [← hrun]; rfl, mem_sadd _ _, sameMem_of_outside hout, sameEntries_of_outside hout⟩

/-! ### An engine that its front command does not take -/

/-- A VE_FLAG of engine 4, which waits for one unit of gate 0 and streams one of gate 1. -/
def strayD : Desc := { w0 := 0x43 + 4 * 2 ^ 8, w1 := 2 ^ 3 + 2 ^ 8 + 2 ^ 16 + 2 ^ 19 + 2 ^ 24 }

/-- It as a command of queue 5 and context 1 on core 0. -/
def strayM : Cmd := { q := 5, idx := 0, d := strayD, ctx := 1, core := 0 }

/-- The command heads the queue of engine 4, which it takes, and that of engine 5, which it does not; gate 0 has two units, gate 1 none. -/
def strayState : State :=
  { State.reset with
    regs := [(EName.ctxState.key 1, 1)]
    u := { pow := { ready := true }
           core := { engQ := [(4, [strayM]), (5, [strayM])], slots := [(1, { holder := some 1 })],
                     cc := [(1, { gates := [(0, ⟨4, 2, 2⟩)] })] } } }

/-- All that the claim clause of O21 asks of the state, for engine 5. -/
theorem strayState_meets :
    let s := strayState
    let m := strayM
    let taken : Cmd := { (runOf m.d).latch s m with waited := true }
    let claimed := (Act.all [.claim m (hWait m.d), .front taken]).run s
    s.engQ 0 5 = [m] ∧ s.runs = true ∧ s.ctxState 1 = 1 ∧ s.headsAll m = true ∧ s.suspended m = false ∧
      claimed.suspended taken = false ∧ hWait m.d = some (0, 1) ∧ 1 ≤ (s.gate 0 1 0).filled ∧
      claimed.canClaim taken (hStream taken.d) = false := by decide +kernel

theorem strayM_ready (x : State) (c : Cmd) (h : c.piece = 0) : (runOf strayM.d).prep x c = .ready c := by
  show onePiece x c = .ready c
  simp [onePiece, h]

/-- Engine 5 claims both units for the one command: the claim marks it in the queue of engine 4 alone, so engine 5 finds it unclaimed
again. -/
theorem strayState_claims_twice :
    (strayState.gate 0 1 0).filled = 2 ∧ (((Act.gateClaim 0 5 0).run strayState).gate 0 1 0).filled = 0 := by decide +kernel

/-- Refutes O21: its first clause lets the engine be one that its front command does not take. In `strayState` engine 5 then claims the
command's one WAIT unit twice, and 0 of 2 units are left where the statement says 1. With `eng ∈ engsOf m.d` the clause holds
(`gateClaim_claims`); the others hold as they are (`gateClaim_counts`, `teYield_yields`, `phaseGateUnit_gates`). -/
theorem not_gatesYieldsAndPhaseGating : ¬ Obligations.GatesYieldsAndPhaseGating := by
  unfold Obligations.GatesYieldsAndPhaseGating
  rintro ⟨hgate, -, -⟩
  obtain ⟨hq, hruns, hctx, hheads, hsusp, hstill, hwait, hfill, hshort⟩ := strayState_meets
  obtain ⟨t, ht, hleft, -, -⟩ := (hgate strayState 0 5 0 strayM _ [] 0 1 hq hruns hctx hheads rfl).1 _ _ rfl rfl hsusp hstill rfl
    hwait hfill (strayM_ready _ _ rfl) rfl hshort rfl rfl
  obtain ⟨htwo, hnone⟩ := strayState_claims_twice
  cases ht
  have hone : 0 = 2 - 1 := hnone.symm.trans (hleft.trans (congrArg (· - 1) htwo))
  exact absurd hone (by decide)

end Sys2Proof.Machine
end

section
/-! SUPPORT. Entry rows: which entries an action touches at all, what a request leaves before its entry's rule runs, and that a write
whose checks and rule pass ends in what the rule stores (R438 to R447, R488). Then the entries of monitors, telemetry rings,
accumulators, seeds, screes and split gradients (R64 to R69, R80, R141, R219, R233). -/

namespace Sys2Proof.Machine

/-! ### What an action touches -/

/-- The action changes no memory and no entry outside the list. -/
def Act.Touches (l : List (EName × Nat)) (a : Act) : Prop := ∀ s, SameMem s (a.run s) ∧ SameEntriesBut l s (a.run s)

/-- Memory and entries read as before where the stores, the registers, the straps and the flash's state are. -/
theorem reads_same {s t : State} (l : List (EName × Nat)) (hm : ∀ m, t.store m = s.store m) (hr : t.regs = s.regs)
    (hf : t.u.pow.flashOk = s.u.pow.flashOk) (hs : t.u.pow.straps = s.u.pow.straps) : SameMem s t ∧ SameEntriesBut l s t :=
  ⟨sameMem_of_stores hm, fun n i _ _ => by simp only [State.rd, State.noFlash, State.safeMode, hr, hf, hs]; rfl⟩

section
variable {l : List (EName × Nat)} {a b : Act} {n : EName} {i : Nat}

theorem Act.Touches.rd (h : a.Touches l) (hi : i < n.count) (hn : (n, i) ∉ l) (s : State) : (a.run s).rd n i = s.rd n i :=
  (h s).2 n i hi hn

theorem Act.touches_skip : Act.Touches l .skip := fun _ => reads_same l (fun _ => rfl) rfl rfl rfl

theorem Act.touches_seq (ha : a.Touches l) (hb : b.Touches l) : (Act.seq a b).Touches l := fun s =>
  ⟨fun m x k => ((hb _).1 m x k).trans ((ha s).1 m x k), fun n i hi hn => ((hb _).2 n i hi hn).trans ((ha s).2 n i hi hn)⟩

theorem Act.touches_get {f : State → Act} (h : ∀ s, (f s).Touches l) : (Act.get f).Touches l := fun s => h s s

theorem Act.touches_when {c : Bool} (h : a.Touches l) : (Act.when c a).Touches l := by
  cases c
  · exact touches_skip
  · exact h

theorem Act.touches_ite {c : Prop} [Decidable c] (ha : a.Touches l) (hb : b.Touches l) : (if c then a else b).Touches l := by
  split <;> assumption

theorem Act.touches_all {as : List Act} (h : ∀ a ∈ as, a.Touches l) : (Act.all as).Touches l := by
  induction as with
  | nil => exact touches_skip
  | cons a r ih => exact touches_seq (h a (by simp)) (ih fun b hb => h b (by simp [hb]))

theorem Act.touches_units {f : Units → Units}
    (h : ∀ u, (f u).pow.flashOk = u.pow.flashOk ∧ (f u).pow.straps = u.pow.straps) : (Act.units f).Touches l :=
  fun s => reads_same l (fun m => units_keeps_store m s) rfl (h s.u).1 (h s.u).2

theorem Act.touches_core (f : CoreU → CoreU) : (Act.core f).Touches l := touches_units fun _ => ⟨rfl, rfl⟩
theorem Act.touches_dict (f : DictU → DictU) : (Act.dict f).Touches l := touches_units fun _ => ⟨rfl, rfl⟩

theorem Act.touches_reg {v : Nat} (h : (n, i) ∈ l) : (Act.reg n i v).Touches l := fun s => by
  refine ⟨sameMem_of_stores fun m => reg_keeps_store m s, fun k j hj hn => ?_⟩
  by_cases hi : i < n.count
  · exact s.rd_reg_other v hi hj fun e => hn (e ▸ h)
  · simp [Act.reg, State.apply, hi]

theorem Act.touches_fld {off lo len v : Nat} (h : (n, i) ∈ l) : (Act.fld n i off lo len v).Touches l :=
  touches_get fun _ => touches_reg h
theorem Act.touches_count {k by_ : Nat} (h : (n, i) ∈ l) : (Act.count n i k by_).Touches l := touches_get fun _ => touches_fld h

/-- An entry of class VOL that exists can be written. -/
theorem Settable.of_vol (s : State) (hi : i < n.count) (hn : n.info.pers = .vol) : Settable s n i :=
  ⟨hi, by rw [hn]; decide, by rw [hn]; exact fun h => nomatch h⟩

/-! ### An accepted value is stored (R439, R440) -/

theorem Act.touches_store {v : Nat} (h : (n, i) ∈ l) : (Act.store n i v).Touches l :=
  touches_get fun _ => touches_seq (touches_when (touches_dict _)) (touches_reg h)

theorem State.rd_store {s : State} {v : Nat} (w : Nat) (h : Settable s n i) (hw : 8 * n.info.size = w) (hv : v < 2 ^ w) :
    ((Act.store n i v).run s).rd n i = v := by
  rw [Act.store, Act.run_get, Act.run_seq, State.rd_reg, EName.fit, hw, Nat.mod_eq_of_lt hv]
  refine ⟨h.count, h.fixed, fun hp => ?_⟩
  rw [hp]
  exact h.store hp

end

/-! ### A request comes in (R438, R447) -/

/-- The state in which the rule of an entry finds the machine: the lease renewed, a staging of another entry discarded. -/
def State.asked (s : State) (r : Requester) (n : EName) (i : Nat) : State := (Act.asks r (n.key i)).run s

/-- What the checks of a request look at besides entries, with all that the cores keep. -/
def State.server (s : State) : CoreU × PowU × Nat × Option Requester × List Nat :=
  (s.u.core, s.u.pow, s.u.time, s.u.dict.holder, s.u.dict.storeTimes)

/-- A request changes an identity's staging, the time of the lease and the count of discarded stagings: what depends on none of them it
leaves. -/
theorem Act.asks_keeps {α : Type} {f : State → α} (r : Requester) (key : Nat)
    (hdict : ∀ (s : State) ids lease, f { s with u := { s.u with dict := { s.u.dict with ids := ids, leaseAt := lease } } } = f s)
    (hcount : (Act.count .dictCount 0 4).Keeps f) : (Act.asks r key).Keeps f :=
  keeps_seq (keeps_get fun _ => keeps_when fun _ s => hdict s s.u.dict.ids _)
    (keeps_get fun _ => keeps_when fun _ => keeps_get fun _ => keeps_when fun _ =>
      keeps_seq (keeps_get fun _ => fun s => hdict s _ s.u.dict.leaseAt) hcount)

theorem Act.asks_touches (r : Requester) (key : Nat) : (Act.asks r key).Touches [(.dictCount, 0)] :=
  touches_seq (touches_get fun _ => touches_when (touches_dict _))
    (touches_get fun _ => touches_when <| touches_get fun _ => touches_when <|
      touches_seq (touches_get fun _ => touches_dict _) (touches_count (by simp)))

/-- An entry outside class STORE reads what its register holds, or its default (R432, R439). -/
theorem State.rd_eq_getD (s : State) {n : EName} (i : Nat) (hn : n.info.pers ≠ .store) :
    s.rd n i = (tget s.regs (n.key i)).getD (n.fit (n.dfltOf i s.u.pow.straps)) := by
  simp only [State.rd, hn, false_and, if_false]
  cases tget s.regs (n.key i) <;> rfl

/-- Counting a discarded staging leaves the function of every context number. A number far outside the range of contexts can name the
counter's own register, and then the function lies in bits below that count. -/
theorem Act.countDrop_keepsCtxFn (c : Nat) : (Act.count .dictCount 0 4).Keeps fun s => s.ctxFn c := fun s => by
  simp only [Act.count, Act.countFld, Act.fld, Act.run_get, State.ctxFn, State.fld]
  rw [State.rd_eq_getD _ (n := .ctxAdmin) c (by decide), State.rd_eq_getD _ (n := .ctxAdmin) c (by decide), Act.run_reg_u,
    Act.run_reg_regs _ _ _ _ (by decide) (by decide), tget_tset]
  split
  · rename_i hkey
    rw [hkey, Option.getD_some, EName.fit, bits_mod (by decide), bits_setBits_apart (by decide),
      State.rd_eq_getD _ (n := .dictCount) 0 (by decide)]
    cases tget s.regs (EName.dictCount.key 0)
    · show bits 0 1 5 = bits 1 1 5
      decide
    · rfl
  · rfl

/-- The keys of queues follow on each other. -/
theorem EName.queueCfg_key (q : Nat) : EName.queueCfg.key q = EName.queueCfg.key 0 + q := by
  show (0x5800 + q / 256) * 256 + 0 + q % 256 = _
  show _ = 0x5800 * 256 + q
  omega

/-- What a map's keys give does not change with the value under a key that gives nothing. -/
theorem filterMap_tset {α β : Type} (f : Nat → Option β) (t : List (Nat × α)) {k : Nat} (v : α) (h : f k = none) :
    (tset t k v).filterMap (fun p => f p.1) = t.filterMap fun p => f p.1 := by
  induction t with
  | nil => simp [tset, h]
  | cons p r ih =>
    simp only [tset]
    split
    · simp [h]
    · split
      · rename_i hk; subst hk; simp [h]
      · simp [List.filterMap_cons, ih]

/-- The queue whose configuration a key names. -/
def queueOfKey (k : Nat) : Option Nat :=
  if EName.queueCfg.key 0 ≤ k ∧ k < EName.queueCfg.key 0 + 65536 then some (k - EName.queueCfg.key 0) else none

theorem State.queuesOf_eq (s : State) (ctx : Nat) :
    s.queuesOf ctx = (s.regs.filterMap fun p => queueOfKey p.1).filter fun q => s.fld .queueCfg q 0 8 10 == ctx := rfl

theorem key_of_queueOfKey {k q : Nat} (h : queueOfKey k = some q) : q < EName.queueCfg.count ∧ k = EName.queueCfg.key q := by
  obtain ⟨⟨hlo, hhi⟩, hq⟩ := Option.ite_none_right_eq_some.1 h
  rw [← Option.some.inj hq, EName.queueCfg_key (k - _)]
  exact ⟨Nat.sub_lt_left_of_lt_add hlo hhi, (Nat.add_sub_cancel' hlo).symm⟩

/-- Writing an entry that is no queue's leaves the queues of a context. -/
theorem Act.reg_keepsQueuesOf {n : EName} {i v : Nat} (ctx : Nat) (hn : n ≠ .queueCfg) : (Act.reg n i v).Keeps fun s => s.queuesOf ctx :=
  fun s => by
  by_cases hi : i < n.count ∧ n.info.pers ≠ .fixed
  · obtain ⟨hlt, hvar⟩ := hi
    have hkey : queueOfKey (n.key i) = none := by
      refine Option.eq_none_iff_forall_ne_some.2 fun q hq => hn ?_
      obtain ⟨hq, hk⟩ := key_of_queueOfKey hq
      exact (EName.key_inj hlt hq hk).1
    simp only [State.queuesOf_eq, Act.run_reg_regs n i v s hlt hvar, filterMap_tset queueOfKey s.regs (n.fit v) hkey]
    refine List.filter_congr fun q hq => ?_
    obtain ⟨p, -, hp⟩ := List.mem_filterMap.1 hq
    simp only [State.fld, s.rd_reg_other v hlt (key_of_queueOfKey hp).1 fun e => hn (Prod.mk.inj e).1.symm]
  · simp [Act.reg, State.apply, hi]

section
variable (s : State) (r : Requester) (n : EName) (i : Nat)

@[simp] theorem State.asked_server : (s.asked r n i).server = s.server :=
  Act.asks_keeps (f := State.server) r _ (fun _ _ _ => rfl)
    (Act.count_keeps_u (g := fun u => (u.core, u.pow, u.time, u.dict.holder, u.dict.storeTimes))) s
@[simp] theorem State.asked_core : (s.asked r n i).u.core = s.u.core := congrArg Prod.fst (s.asked_server r n i)
@[simp] theorem State.asked_ctxFn (c : Nat) : (s.asked r n i).ctxFn c = s.ctxFn c :=
  Act.asks_keeps (f := fun s => s.ctxFn c) r _ (fun _ _ _ => rfl) (Act.countDrop_keepsCtxFn c) s
@[simp] theorem State.asked_unretired (ctx : Nat) : (s.asked r n i).unretired ctx = s.unretired ctx := by
  have hq : (s.asked r n i).queuesOf ctx = s.queuesOf ctx :=
    Act.asks_keeps (f := fun s => s.queuesOf ctx) r _ (fun _ _ _ => rfl)
      (Act.keeps_get fun _ => Act.keeps_get fun _ => Act.reg_keepsQueuesOf ctx (by decide)) s
  simp only [State.unretired, hq, State.stream, asked_core]

variable {n i}

theorem State.asked_rd {m : EName} {j : Nat} (hj : j < m.count) (h : (m, j) ≠ (.dictCount, 0)) :
    (s.asked r n i).rd m j = s.rd m j := (Act.asks_touches r _ s).2 m j hj (by simpa using h)

theorem State.asked_fld {m : EName} {j off lo len : Nat} (hj : j < m.count) (h : (m, j) ≠ (.dictCount, 0)) :
    (s.asked r n i).fld m j off lo len = s.fld m j off lo len := by rw [State.fld, asked_rd s r hj h, State.fld]

theorem State.asked_ctxGate {c : Nat} (hc : c < 1024) : (s.asked r n i).ctxGate c = s.ctxGate c := by
  simp only [State.ctxGate, State.ctxState, s.asked_rd r (m := .ctxState) hc (by simp)]

theorem State.asked_mayWriteCtx (r' : Requester) (c : Nat) : (s.asked r n i).mayWriteCtx r' c = s.mayWriteCtx r' c := by
  simp only [State.mayWriteCtx, asked_ctxFn]

/-! ### A write whose checks and rule pass (R446, R488) -/

/-- What follows an entry's rule: an applied write is traced, and the request counts. -/
def Act.answers (n : EName) (r : Requester) (i v st : Nat) : Act :=
  .seq (.when (st == stOk) (.trace 9 0 0 (n.key i / 256 + n.key i % 256 * 2 ^ 16 + reqClass r * 2 ^ 24) (v % 2 ^ 64))) (.countReq st)

theorem Act.answers_touches (n : EName) (r : Requester) (i v st : Nat) : (Act.answers n r i v st).Touches [(.dictCount, 0)] := by
  refine touches_seq (touches_when (touches_units fun u => ?_)) (touches_all fun a ha => ?_)
  · split <;> exact ⟨rfl, rfl⟩
  · simp only [List.mem_cons, List.not_mem_nil, or_false] at ha
    obtain rfl | rfl | rfl := ha
    · exact touches_count (by simp)
    · exact touches_when (touches_count (by simp))
    · exact touches_when (touches_count (by simp))

theorem Act.answers_keepsCore (n : EName) (r : Requester) (i v st : Nat) : (Act.answers n r i v st).Keeps fun s => s.u.core := by
  refine keeps_seq (keeps_when fun _ => keeps_units fun s => ?_) (keeps_all fun a ha => ?_)
  · simp only; split <;> rfl
  · simp only [List.mem_cons, List.not_mem_nil, or_false] at ha
    obtain rfl | rfl | rfl := ha
    · exact count_keeps_u
    · exact keeps_when fun _ => count_keeps_u
    · exact keeps_when fun _ => count_keeps_u

variable {s r}

/-- The checks of R446 pass in the state the request leaves where they pass in the one it finds. -/
theorem Accepts.asked {v : Nat} (h : Accepts s r n i v) (hown : (s.asked r n i).ownerFn n i = s.ownerFn n i) :
    Accepts (s.asked r n i) r n i v := by
  have hserver := s.asked_server r n i
  simp only [State.server, Prod.mk.injEq] at hserver
  obtain ⟨-, hpow, htime, hholder, htimes⟩ := hserver
  have hpeer : (s.asked r n i).rd .peerDict = s.rd .peerDict := s.asked_rd r (by decide) (by decide)
  have howns : (s.asked r n i).owns r n i = s.owns r n i := by simp only [State.owns, hown]
  obtain ⟨hserved, hguard, happly⟩ := h
  refine ⟨?_, ?_, ?_⟩
  · rw [← hserved]
    simp only [State.served, State.fwRuns, hpow]
  · have hwrite : (s.asked r n i).mayWrite r n i = s.mayWrite r n i := by simp only [State.mayWrite, howns, hpeer]
    have hright : (s.asked r n i).hasRight r n i = s.hasRight r n i := by
      simp only [State.hasRight, State.mayRead, hwrite, howns, hpeer]
    have hholds : (s.asked r n i).holds r = s.holds r := by rw [State.holds, State.holds, hholder]
    rw [← hguard, State.wrGuard, State.wrGuard, hwrite, hright, hholds]
  · rw [← happly, State.applyGuard, State.applyGuard, State.noFlash, State.noFlash, State.storeRecent, State.storeRecent,
      State.now, State.now, hpow, htime, htimes]

/-- A STORE entry accepts a value only while the flash is readable (R440). -/
theorem Accepts.flash {v : Nat} (h : Accepts s r n i v) (hp : n.info.pers = .store) : s.noFlash = false := by
  obtain ⟨-, -, happly⟩ := h
  cases hno : s.noFlash with
  | false => rfl
  | true =>
    rw [State.applyGuard, if_pos (by rw [hp, hno]; rfl)] at happly
    exact absurd happly (by decide)

/-- With its checks passed the row is its rule, and then the answer. -/
theorem Accepts.entryRow_run {rule : Rule} {v : Nat} (h : Accepts s r n i v) (hown : (s.asked r n i).ownerFn n i = s.ownerFn n i) :
    (Act.entryRow n rule r i v).run s = (rule r i v (Act.answers n r i v)).run (s.asked r n i) := by
  obtain ⟨hserved, hguard, happly⟩ := h.asked hown
  rw [Act.entryRow, Act.run_seq, ← State.asked]
  simp only [Act.entry, Act.applyWrite, Act.run_get, hserved, hguard, happly, Bool.not_true, Bool.false_eq_true, ne_eq,
    not_true_eq_false, if_false, if_true]
  rfl

/-- `t` holds what `after` holds in the cores and in the entries other than DICT_COUNT, and differs from `s` in the listed entries only. -/
structure Takes (s t : State) (l : List (EName × Nat)) (after : State) : Prop where
  core : t.u.core = after.u.core
  rd : ∀ {m : EName} {j : Nat}, j < m.count → (m, j) ≠ (.dictCount, 0) → t.rd m j = after.rd m j
  only : EntryOnly l s t

/-- A write that passes its checks and whose rule does `body` and answers OK ends in what `body` does. -/
theorem Accepts.takes {rule : Rule} {v : Nat} {l : List (EName × Nat)} (h : Accepts s r n i v)
    (hown : (s.asked r n i).ownerFn n i = s.ownerFn n i) (body : Act)
    (hrule : ∀ k, (rule r i v k).run (s.asked r n i) = (k stOk).run (body.run (s.asked r n i)))
    (hbody : body.Touches ((.dictCount, 0) :: l)) :
    Takes s ((Act.entryRow n rule r i v).run s) l (body.run (s.asked r n i)) := by
  have hasked := Act.asks_touches r (n.key i) s
  have hdone := hbody (s.asked r n i)
  have hend := Act.answers_touches n r i v stOk (body.run (s.asked r n i))
  rw [h.entryRow_run hown, hrule]
  refine ⟨Act.answers_keepsCore .., fun hj hn => hend.2 _ _ hj (by simpa using hn), fun m a k => ?_, fun m j hj hn => ?_⟩
  · exact (hend.1 m a k).trans ((hdone.1 m a k).trans (hasked.1 m a k))
  · have hcount : (m, j) ∉ [(EName.dictCount, 0)] := fun h => hn (by simp_all)
    exact (hend.2 m j hj hcount).trans ((hdone.2 m j hj hn).trans (hasked.2 m j hj hcount))

end

/-! ### Rules that let a value in (R377) -/

section
variable {s : State} {r : Requester} {n : EName} {i v : Nat} {k : Nat → Act}

theorem ctxRule_run {ctxOf : State → Nat → Nat} {rule : Rule} (h : s.ctxGate (ctxOf s i) = stOk) :
    (ctxRule ctxOf rule r i v k).run s = (rule r i v k).run s := by simp [ctxRule, h]

/-- A rule of a context's own entries, once the request has come in. -/
theorem ownRule_asked {m : EName} {j : Nat} {r' : Requester} {rule : Rule} (hi : i < 1024) (h : s.ctxGate i = stOk) :
    (ctxRule (fun _ i => i) rule r' i v k).run (s.asked r m j) = (rule r' i v k).run (s.asked r m j) :=
  ctxRule_run (ctxOf := fun _ i => i) ((s.asked_ctxGate r hi).trans h)

theorem ruleIf_run {ok : State → Nat → Bool} (h : ok s v = true) :
    (ruleIf n ok r i v k).run s = (k stOk).run ((Act.store n i v).run s) := by simp [ruleIf, h]

end

/-! ### Monitors and telemetry rings (R64 to R69) -/

section
variable {s : State} {r : Requester}

theorem State.asked_mayMon {n : EName} {i tid : Nat} (r' : Requester) (h : tid < 16384) :
    (s.asked r n i).mayMon r' tid = s.mayMon r' tid := by
  simp only [State.mayMon, State.tidOwner, s.asked_fld r (m := .tidOwner) h (by simp), State.asked_mayWriteCtx]

/-- MON_CLEAR clears the monitor of one tensor ID (R69). -/
theorem monClear_clears (tid : BitVec 16) (h : Accepts s r .monClear 0 tid.toNat) (hlt : tid.toNat < 16384)
    (hmay : s.mayMon r tid.toNat = true) :
    Completes (.monClear r tid) s fun t => tget t.u.core.mon tid.toNat = none ∧
      (∀ k, k ≠ tid.toNat → tget t.u.core.mon k = tget s.u.core.mon k) ∧ EntryOnly [] s t := by
  have ht := h.takes (rule := ruleMonClear) (l := []) rfl (.monClear tid.toNat)
    (fun k => by simp [ruleMonClear, State.asked_mayMon r hlt, hmay, Nat.not_le.2 hlt]) (Act.touches_core _)
  refine ⟨_, rfl, ?_, fun k hk => ?_, ht.only⟩ <;> rw [ht.core]
  · simp [Act.monClear]
  · simp [Act.monClear, tget_tdel_other _ hk]

/-- READ_INDEX moves up to WRITE_INDEX at most, and stays within RING_SIZE of it (R66). -/
theorem readIndex_moves (ctx : Fin 1024) (v : BitVec 32) (h : Accepts s r .readIndex ctx v.toNat) (hgate : s.ctxGate ctx = stOk)
    (hdist : dist32 v.toNat (s.rd .writeIndex ctx) ≤ s.rd .ringSize ctx) :
    Completes (.readIndexWrite r ctx v) s fun t => t.rd .readIndex ctx = v.toNat ∧ EntryOnly [(.readIndex, ctx)] s t := by
  have ht := h.takes (rule := ruleReadIndex) (l := [(.readIndex, ctx)]) (by simp [State.ownerFn]) (.store .readIndex ctx v.toNat)
    (fun k => by
      rw [ruleReadIndex, ownRule_asked ctx.isLt hgate, ruleIf_run]
      simpa [s.asked_rd r (m := .writeIndex) ctx.isLt, s.asked_rd r (m := .ringSize) ctx.isLt] using hdist)
    (Act.touches_store (by simp))
  refine ⟨_, rfl, ?_, ht.only⟩
  rw [ht.rd ctx.isLt (by simp), State.rd_store 32 (.of_vol _ ctx.isLt rfl) rfl v.isLt]

/-- The entries of a context's telemetry ring that start again with it. -/
def ringEntries (ctx : Nat) : List (EName × Nat) := [(.writeIndex, ctx), (.readIndex, ctx), (.droppedRecords, ctx)]

theorem Act.ringZero_touches {l : List (EName × Nat)} {ctx : Nat} (h : ringEntries ctx ⊆ l) : (Act.ringZero ctx).Touches l := by
  simp only [ringEntries, List.cons_subset] at h
  obtain ⟨hw, hr, hd, -⟩ := h
  exact touches_seq (touches_reg hw) <| touches_seq (touches_reg hr) <| touches_seq (touches_reg hd) <|
    touches_seq (touches_core _) touches_skip

theorem State.rd_ringZero (x : State) {ctx : Nat} (hctx : ctx < 1024) :
    ((Act.ringZero ctx).run x).rd .writeIndex ctx = 0 ∧ ((Act.ringZero ctx).run x).rd .readIndex ctx = 0 ∧
      ((Act.ringZero ctx).run x).rd .droppedRecords ctx = 0 := by
  have hmark (n : EName) (y : State) (f : CoreU → CoreU) : ((Act.core f).run y).rd n ctx = y.rd n ctx := State.rd_congr rfl rfl n ctx
  have hzero (n : EName) (y : State) (h : Settable y n ctx) : ((Act.reg n ctx 0).run y).rd n ctx = 0 := by
    rw [State.rd_reg y 0 h, EName.fit, Nat.zero_mod]
  have hother (n m : EName) (y : State) (h : m ≠ n) (hm : ctx < m.count) : ((Act.reg n ctx 0).run y).rd m ctx = y.rd m ctx :=
    (Act.touches_reg (List.mem_singleton_self _)).rd hm (by simp [h]) y
  simp only [Act.ringZero, Act.run_all_cons, Act.run_all_nil, hmark]
  refine ⟨?_, ?_, ?_⟩
  · rw [hother _ .writeIndex _ (by decide) hctx, hother _ .writeIndex _ (by decide) hctx, hzero .writeIndex _ (.of_vol _ hctx rfl)]
  · rw [hother _ .readIndex _ (by decide) hctx, hzero .readIndex _ (.of_vol _ hctx rfl)]
  · exact hzero _ _ (.of_vol _ hctx rfl)

/-- A new RING_BASE or RING_SIZE empties the ring (R69). -/
theorem ringRow_empties {n : EName} {rule : Rule} {v : Nat} (w : Nat) (ctx : Fin 1024) (hn : n = .ringBase ∨ n = .ringSize)
    (h : Accepts s r n ctx v) (hw : 8 * n.info.size = w) (hv : v < 2 ^ w)
    (hrule : ∀ k, (rule r ctx v k).run (s.asked r n ctx) =
      (k stOk).run ((Act.seq (.store n ctx v) (.ringZero ctx)).run (s.asked r n ctx))) :
    let t := (Act.entryRow n rule r ctx v).run s
    t.rd n ctx = v ∧ t.rd .writeIndex ctx = 0 ∧ t.rd .readIndex ctx = 0 ∧ t.rd .droppedRecords ctx = 0 ∧
      EntryOnly ((n, ctx.val) :: ringEntries ctx) s t := by
  obtain ⟨hcount, hvol, hcnt, hring⟩ :
      ctx.val < n.count ∧ n.info.pers = .vol ∧ n ≠ .dictCount ∧ (n, ctx.val) ∉ ringEntries ctx := by
    obtain rfl | rfl := hn <;> exact ⟨ctx.isLt, rfl, by decide, by simp [ringEntries]⟩
  have hown : (s.asked r n ctx).ownerFn n ctx = s.ownerFn n ctx := by obtain rfl | rfl := hn <;> simp [State.ownerFn]
  have ht := h.takes (l := (n, ctx.val) :: ringEntries ctx) hown _ hrule
    (Act.touches_seq (Act.touches_store (by simp)) (Act.ringZero_touches fun _ hx => by simp [hx]))
  obtain ⟨hwrite, hread, hdrop⟩ := State.rd_ringZero ((Act.store n ctx v).run (s.asked r n ctx)) ctx.isLt
  refine ⟨?_, (ht.rd ctx.isLt (by simp)).trans hwrite, (ht.rd ctx.isLt (by simp)).trans hread,
    (ht.rd ctx.isLt (by simp)).trans hdrop, ht.only⟩
  rw [ht.rd hcount (by simp [hcnt]), Act.run_seq, (Act.ringZero_touches (List.Subset.refl _)).rd hcount hring,
    State.rd_store w (.of_vol _ hcount hvol) hw hv]

theorem ringBase_empties (ctx : Fin 1024) (v : W64) (h : Accepts s r .ringBase ctx v.toNat) (hgate : s.ctxGate ctx = stOk)
    (hv : v.toNat % 64 = 0) :
    Completes (.telemRingConfig r ctx false v) s fun t => t.rd .ringBase ctx = v.toNat ∧ t.rd .writeIndex ctx = 0 ∧
      t.rd .readIndex ctx = 0 ∧ t.rd .droppedRecords ctx = 0 ∧
      EntryOnly [(.ringBase, ctx), (.writeIndex, ctx), (.readIndex, ctx), (.droppedRecords, ctx)] s t :=
  ⟨_, rfl, ringRow_empties (rule := ruleRingBase) 64 ctx (.inl rfl) h rfl v.isLt fun k => by
    rw [ruleRingBase, ownRule_asked ctx.isLt hgate, if_pos hv]
    rfl⟩

theorem ringSize_empties (ctx : Fin 1024) (v : W64) (h : Accepts s r .ringSize ctx (v.toNat % 2 ^ 32)) (hgate : s.ctxGate ctx = stOk)
    (hv : ringSizeOk (v.toNat % 2 ^ 32) = true) :
    Completes (.telemRingConfig r ctx true v) s fun t => t.rd .ringSize ctx = v.toNat % 2 ^ 32 ∧ t.rd .writeIndex ctx = 0 ∧
      t.rd .readIndex ctx = 0 ∧ t.rd .droppedRecords ctx = 0 ∧
      EntryOnly [(.ringSize, ctx), (.writeIndex, ctx), (.readIndex, ctx), (.droppedRecords, ctx)] s t :=
  ⟨_, rfl, ringRow_empties (rule := ruleRingSize) 32 ctx (.inr rfl) h rfl (Nat.mod_lt _ (by decide)) fun k => by
    rw [ruleRingSize, ownRule_asked ctx.isLt hgate, if_pos hv]
    rfl⟩

end

/-! ### Accumulators and seeds (R80, R141, R144) -/

section
variable {s : State} {r : Requester}

theorem State.asked_groupsOpen {n : EName} {i : Nat} : (s.asked r n i).groupsOpen = s.groupsOpen := by
  rw [State.groupsOpen, State.groupsOpen, State.groupsDue, State.groupsDue, State.asked_core]

/-- ACC_SPLIT takes a split of eight accumulators while no group is open (R80). -/
theorem accSplit_stored (v : BitVec 32) (h : Accepts s r .accSplit 0 v.toNat) (hsafe : s.safeMode = false)
    (hgroups : s.groupsOpen = false) (hlow : splitSum v.toNat 0 ≤ 8) (hhigh : splitSum v.toNat 4 ≤ 8) :
    Completes (.accSplitWrite r v) s fun t => t.rd .accSplit = v.toNat ∧ EntryOnly [(.accSplit, 0)] s t := by
  have hserver := s.asked_server r .accSplit 0
  simp only [State.server, Prod.mk.injEq] at hserver
  obtain ⟨-, hpow, -⟩ := hserver
  have hset : Settable (s.asked r .accSplit 0) .accSplit 0 :=
    ⟨by decide, by decide, fun _ => by simpa only [State.noFlash, State.safeMode, hpow] using And.intro (h.flash rfl) hsafe⟩
  have ht := h.takes (rule := ruleAccSplit) (l := [(.accSplit, 0)]) rfl (.store .accSplit 0 v.toNat)
    (fun k => ruleIf_run (by simp [State.asked_groupsOpen, hgroups, hlow, hhigh]))
    (Act.touches_store (by simp))
  refine ⟨_, rfl, ?_, ht.only⟩
  rw [ht.rd (by decide) (by simp), State.rd_store 32 hset rfl v.isLt]

theorem tget_map {α β : Type} (f : Nat → α → β) (t : List (Nat × α)) (k : Nat) :
    tget (t.map fun p => (p.1, f p.1 p.2)) k = (tget t k).map (f k) := by
  induction t with
  | nil => rfl
  | cons p r ih =>
    rw [List.map_cons, tget_cons, tget_cons, ih]
    split
    · rename_i hk; subst hk; rfl
    · rfl

/-- What a context keeps on a core, by its key there, without the lanes of one context. -/
def withoutLanes (ctx key : Nat) (x : CtxCore) : CtxCore := if key % 1024 = ctx then { x with pepper := [] } else x

/-- The lanes of a context start anew on every core. -/
def lanesAnew (ctx : Nat) (c : CoreU) : CoreU := { c with cc := c.cc.map fun p => (p.1, withoutLanes ctx p.1 p.2) }

theorem pepper_of_lanesAnew {x t : State} {ctx : Nat} (hctx : ctx < 1024) (h : t.u.core = lanesAnew ctx x.u.core) (core : Nat) :
    (t.ctxCore core ctx).pepper = [] := by
  have hkey : (core * 1024 + ctx) % 1024 = ctx := by omega
  rw [State.ctxCore, h, tgetD, lanesAnew, tget_map (withoutLanes ctx)]
  cases tget x.u.core.cc (core * 1024 + ctx)
  · rfl
  · simp [withoutLanes, hkey]

/-- A new PEPPER_SEED drops the lanes of its context on every core, and they are not ready (R141, R144). -/
theorem pepperSeed_restarts (ctx : Fin 1024) (v : W64) (h : Accepts s r .pepperSeed ctx v.toNat) (hgate : s.ctxGate ctx = stOk)
    (hidle : s.unretired ctx = false) :
    Completes (.pepperSeedWrite r ctx v) s fun t => t.rd .pepperSeed ctx = v.toNat ∧ t.rd .pepperReady ctx = 0 ∧
      (∀ core, (t.ctxCore core ctx).pepper = []) ∧ EntryOnly [(.pepperSeed, ctx), (.pepperReady, ctx)] s t := by
  have ht := h.takes (rule := rulePepperSeed) (l := [(.pepperSeed, ctx), (.pepperReady, ctx)]) (by simp [State.ownerFn])
    (.seq (.store .pepperSeed ctx v.toNat) (.seq (.reg .pepperReady ctx 0) (.core (lanesAnew ctx))))
    (fun k => by
      rw [rulePepperSeed, ownRule_asked ctx.isLt hgate, Act.run_get, State.asked_unretired, hidle, if_neg (by decide)]
      rfl)
    (Act.touches_seq (Act.touches_store (by simp)) (Act.touches_seq (Act.touches_reg (by simp)) (Act.touches_core _)))
  refine ⟨_, rfl, ?_, ?_, fun core => pepper_of_lanesAnew ctx.isLt ht.core core, ht.only⟩
  · rw [ht.rd ctx.isLt (by simp), Act.run_seq, Act.run_seq, (Act.touches_core (l := []) _).rd ctx.isLt (by simp),
      (Act.touches_reg (l := [(.pepperReady, ctx.val)]) (by simp)).rd ctx.isLt (by simp),
      State.rd_store 64 (.of_vol _ ctx.isLt rfl) rfl v.isLt]
  · rw [ht.rd ctx.isLt (by simp), Act.run_seq, Act.run_seq, (Act.touches_core (l := []) _).rd ctx.isLt (by simp),
      State.rd_reg _ _ (.of_vol _ ctx.isLt rfl)]
    rfl

theorem Act.run_each_same {α : Type} {x : State} {l : List α} {f : α → Act} (h : ∀ a ∈ l, (f a).run x = x) :
    (Act.each l f).run x = x := by
  induction l with
  | nil => rfl
  | cons a l ih => rw [run_each_cons, h a (by simp), ih fun b hb => h b (by simp [hb])]

/-- PEPPER_READY rises; with no command in a vector engine nothing waited for it (R141). -/
theorem pepperReady_rises (ctx : Fin 1024) (hnot : s.rd .pepperReady ctx = 0) (hidle : ∀ core, s.engQ core 4 = []) :
    Completes (.pepperReadyDone ctx) s fun t => t.rd .pepperReady ctx = 1 ∧ SameMem s t ∧ SameEntriesBut [(.pepperReady, ctx)] s t := by
  have hrun : (Act.pepperDone ctx.val).run s = (Act.reg .pepperReady ctx 1).run s := by
    simp only [Act.pepperDone, Act.run_get, hnot, BEq.rfl, Act.when_true, Act.run_seq]
    exact Act.run_each_same fun core _ => engine_empty (by simpa [State.engQ] using hidle core)
  refine ⟨(Act.reg .pepperReady ctx 1).run s, congrArg Host.Outcome.next hrun, ?_, Act.touches_reg (by simp) s⟩
  rw [State.rd_reg _ _ (.of_vol _ ctx.isLt rfl)]
  rfl

end

/-! ### Screes and split gradients (R219, R233) -/

section
variable {s : State} {r : Requester}

theorem Act.napWake_touches {l : List (EName × Nat)} (hs : (.stateCount, 0) ∈ l) (hd : (.deviceState, 0) ∈ l) :
    Act.napWake.Touches l :=
  touches_get fun _ => touches_seq
    (touches_when (touches_seq (touches_units fun _ => ⟨rfl, rfl⟩) (touches_count hs)))
    (touches_ite (touches_units fun _ => ⟨rfl, rfl⟩) (touches_when (touches_reg hd)))

theorem Act.screeSet_touches {l : List (EName × Nat)} {core : Nat} {x : Scree} (h : (.screeState, core) ∈ l) :
    (Act.screeSet core x).Touches l :=
  touches_seq (touches_core _) <| touches_get fun _ => touches_all fun a ha => by
    simp only [List.mem_cons, List.not_mem_nil, or_false] at ha
    obtain rfl | rfl | rfl | rfl | rfl | rfl := ha <;> exact touches_fld h

@[simp] theorem Act.screeShow_core (core : Nat) (y : State) : ((Act.screeShow core).run y).u.core = y.u.core := by
  refine (keeps_get (f := fun s => s.u.core) fun s => keeps_all fun a ha => ?_) y
  simp only [List.mem_cons, List.not_mem_nil, or_false] at ha
  obtain rfl | rfl | rfl | rfl | rfl | rfl := ha <;> exact fld_keeps_u

@[simp] theorem State.scree_screeSet (y : State) (core : Nat) (x : Scree) : ((Act.screeSet core x).run y).scree core = x := by
  simp [State.scree, Act.screeSet]

@[simp] theorem State.asked_scree {n : EName} {i : Nat} (core : Nat) : (s.asked r n i).scree core = s.scree core := by
  rw [State.scree, State.asked_core, State.scree]

theorem State.asked_screeBusy {n : EName} {i : Nat} (core : Nat) : (s.asked r n i).screeBusy core = s.screeBusy core := by
  simp only [State.screeBusy, State.dmCmds, State.engQ, State.asked_core, State.asked_scree]

theorem State.asked_mayDiscard {n : EName} {i : Nat} (r' : Requester) (core : Nat) :
    (s.asked r n i).mayDiscard r' core = s.mayDiscard r' core := by
  cases r' <;> simp only [State.mayDiscard, State.asked_scree, State.asked_ctxFn]

/-- SCREE_DISCARD empties the scree of a core that none of its owner's commands uses (R219). -/
theorem screeDiscard_empties (core : Byte) (h : Accepts s r .screeDiscard 0 core.toNat) (hlt : core.toNat < 192)
    (hmay : s.mayDiscard r core.toNat = true) (hfree : (s.scree core.toNat).state = 0 ∨ s.screeBusy core.toNat = false) :
    Completes (.screeDiscard r core) s fun t => (t.scree core.toNat).state = 0 ∧ (t.scree core.toNat).ents = [] ∧
      EntryOnly [(.stateCount, 0), (.deviceState, 0), (.screeState, core.toNat)] s t := by
  have hfree' : ¬((s.scree core.toNat).state ≠ 0 ∧ s.screeBusy core.toNat = true) := fun ⟨hstate, hbusy⟩ =>
    hfree.elim hstate fun hb => by simp [hb] at hbusy
  have ht := h.takes (rule := ruleScreeDiscard) (l := [(.stateCount, 0), (.deviceState, 0), (.screeState, core.toNat)]) rfl
    (.seq .napWake (.screeDrop core.toNat))
    (fun k => by
      rw [ruleScreeDiscard, Act.run_get, if_neg (Nat.not_le.2 hlt), State.asked_mayDiscard, hmay, if_neg (by decide),
        State.asked_scree, State.asked_screeBusy, if_neg hfree']
      simp only [Act.run_all_cons, Act.run_all_nil, Act.run_seq])
    (Act.touches_seq (Act.napWake_touches (by simp) (by simp)) (Act.screeSet_touches (by simp)))
  have hempty : ((Act.entryRow .screeDiscard ruleScreeDiscard r 0 core.toNat).run s).scree core.toNat = {} := by
    rw [State.scree, ht.core, Act.run_seq, Act.screeDrop, ← State.scree, State.scree_screeSet]
  exact ⟨_, rfl, congrArg Scree.state hempty, congrArg Scree.ents hempty, ht.only⟩

/-- The other valid SPLIT_GRAD entries of the context that a value names (R233). -/
def State.splitRivals (s : State) (e v : Nat) : List Nat :=
  (List.range 64).filter fun j => j != e && s.fld .splitGrad j 0 0 1 == 1 && s.fld .splitGrad j 0 8 10 == bits v 8 10

theorem State.splitOk_eq (s : State) (e v : Nat) : s.splitOk e v =
    (!s.unretired (bits v 8 10) && (!bit v 0 || (bits v 64 48 % 8 == 0 && bits v 128 48 % 8 == 0 && bits v 192 48 % 8 == 0)) &&
      bits v 128 48 ≤ bits v 192 48 && bits v 1 2 != 0 &&
      (splitRanges v).all fun a => ((s.splitRivals e v).map fun j => s.rd .splitGrad j).all fun x =>
        (splitRanges x).all fun b => a.1 + a.2 ≤ b.1 || b.1 + b.2 ≤ a.1) := by
  simp only [State.splitOk, State.splitRivals, List.all_map, Function.comp_def]

theorem State.asked_splitOk {n : EName} {i : Nat} (e v : Nat) : (s.asked r n i).splitOk e v = s.splitOk e v := by
  have hrd {j : Nat} (hj : j ∈ List.range 64) : (s.asked r n i).rd .splitGrad j = s.rd .splitGrad j :=
    s.asked_rd r (m := .splitGrad) (List.mem_range.1 hj) (by simp)
  have hrivals : (s.asked r n i).splitRivals e v = s.splitRivals e v :=
    List.filter_congr fun j hj => by simp only [State.fld, hrd hj]
  have hvalues : (s.splitRivals e v).map (fun j => (s.asked r n i).rd .splitGrad j) =
      (s.splitRivals e v).map fun j => s.rd .splitGrad j := by
    refine List.map_congr_left fun j hj => ?_
    exact hrd (List.mem_filter.1 hj).1
  rw [State.splitOk_eq, State.splitOk_eq, State.asked_unretired, hrivals, hvalues]

/-- SPLIT_GRAD keeps the fields of its value (R233). -/
theorem splitGrad_stored (e : Fin 64) (v : BitVec 256) (h : Accepts s r .splitGrad e v.toNat)
    (hgate : s.ctxGate (s.ctxField .splitGrad e) = stOk) (hmay : s.mayWriteCtx r (bits v.toNat 8 10) = true)
    (hok : s.splitOk e v.toNat = true) :
    Completes (.splitGradWrite r e v) s fun t => t.rd .splitGrad e = v.toNat &&& splitMask ∧ EntryOnly [(.splitGrad, e)] s t := by
  have hfield : (s.asked r .splitGrad e).ctxField .splitGrad e = s.ctxField .splitGrad e := s.asked_fld r e.isLt (by simp)
  have hgate' : (s.asked r .splitGrad e).ctxGate ((s.asked r .splitGrad e).ctxField .splitGrad e) = stOk := by
    rw [hfield, s.asked_ctxGate r (bits_lt _ _ _), hgate]
  have ht := h.takes (rule := ruleSplitGrad) (l := [(.splitGrad, e)]) (by simp [State.ownerFn, hfield])
    (.store .splitGrad e (v.toNat &&& splitMask))
    (fun k => by
      rw [ruleSplitGrad, ctxRule_run (ctxOf := fun s i => s.ctxField .splitGrad i) hgate', Act.run_get, State.asked_mayWriteCtx, hmay,
        State.asked_splitOk, hok, if_neg (by decide), if_neg (by decide), Act.run_seq])
    (Act.touches_store (by simp))
  refine ⟨_, rfl, ?_, ht.only⟩
  rw [ht.rd e.isLt (by simp), State.rd_store 256 (.of_vol _ e.isLt rfl) rfl (Nat.lt_of_le_of_lt Nat.and_le_left v.isLt)]

end

/-- Settles O25: each row takes its value by the rule of its entry, once the request's checks have passed (`Accepts.takes`). -/
theorem coreEntriesTakeWrites : Obligations.CoreEntriesTakeWrites := fun _ _ =>
  ⟨monClear_clears, readIndex_moves, ringBase_empties, ringSize_empties, accSplit_stored, pepperSeed_restarts, pepperReady_rises,
    screeDiscard_empties, splitGrad_stored⟩

end Sys2Proof.Machine
end

section
/-! SUPPORT. What lets a slot go on: what its rotation is read from (R387, R388), which no step of an engine changes but the start of a
bundle, and that alone keeps a slot from rotating. -/

namespace Sys2Proof.Machine

/-! ### What rotation is read from -/

/-- The entries that say who waits for a slot, and whether the device runs. -/
def turnEntries : List EName := [.ctxState, .ctxAdmin, .queueCfg, .queueState, .policyState, .serviceState]

/-- What those entries read. -/
def State.turnReads (s : State) (n : EName) (i : Nat) : Nat := if n ∈ turnEntries ∧ i < n.count then s.rd n i else 0

/-- What the rotation of slots is read from, beside the streams: power, entries, queues, who waits, slots, saved commands. -/
def State.turnView (s : State) :
    PowU × (EName → Nat → Nat) × (Nat → List Nat) × Tab (List Nat) × (Nat → Nat → Option Nat × Bool × Option Nat) × (Nat → Nat → List Cmd) :=
  (s.u.pow, s.turnReads, s.queuesOf, s.u.core.slotWait,
    fun core k => ((s.slot core k).holder, (s.slot core k).sliceOver, (s.slot core k).pick), fun core ctx => (s.ctxCore core ctx).saved)

theorem State.turnView_iff {s t : State} : t.turnView = s.turnView ↔
    t.u.pow = s.u.pow ∧ t.turnReads = s.turnReads ∧ t.queuesOf = s.queuesOf ∧ t.u.core.slotWait = s.u.core.slotWait ∧
      (∀ core k, (t.slot core k).holder = (s.slot core k).holder ∧ (t.slot core k).sliceOver = (s.slot core k).sliceOver ∧
        (t.slot core k).pick = (s.slot core k).pick) ∧ ∀ core ctx, (t.ctxCore core ctx).saved = (s.ctxCore core ctx).saved := by
  simp only [State.turnView, Prod.mk.injEq, funext_iff]

/-! ### What keeps it -/

theorem Act.reg_keepsTurn {n : EName} {i v : Nat} (hn : n ∉ turnEntries) : (Act.reg n i v).Keeps State.turnView := fun s => by
  have hq : n ≠ .queueCfg := fun e => hn (e ▸ by decide)
  have hu : ((Act.reg n i v).run s).u = s.u := Act.run_reg_u n i v s
  have hreads : ((Act.reg n i v).run s).turnReads = s.turnReads := by
    funext m j
    simp only [State.turnReads]
    split
    · rename_i h
      obtain ⟨hm, hj⟩ := h
      exact (touches_reg (l := [(n, i)]) (by simp)).rd hj (fun e => hn (by simp_all)) s
    · rfl
  exact State.turnView_iff.2 ⟨by rw [hu], hreads, funext fun ctx => reg_keepsQueuesOf ctx hq s, by rw [hu],
    fun core k => by simp [State.slot, hu], fun core ctx => by simp [State.ctxCore, hu]⟩

theorem Act.fld_keepsTurn {n : EName} {i a b c v : Nat} (hn : n ∉ turnEntries) : (Act.fld n i a b c v).Keeps State.turnView :=
  keeps_get fun _ => reg_keepsTurn hn

theorem Act.mem_keepsTurn {m : MemSel} {a : Nat} {bs : PBytes} : (Act.mem m a bs).Keeps State.turnView := fun s => by
  have hu := Act.run_mem_u m a bs s
  have hr := Act.run_mem_regs m a bs s
  have hrd (n : EName) (i : Nat) : ((Act.mem m a bs).run s).rd n i = s.rd n i := State.rd_congr hr (by rw [hu]) n i
  exact State.turnView_iff.2 ⟨by rw [hu], by funext n i; simp only [State.turnReads, hrd],
    by funext ctx; simp only [State.queuesOf, State.fld, hr, hrd], by rw [hu], fun core k => by simp [State.slot, hu],
    fun core ctx => by simp [State.ctxCore, hu]⟩

/-- A change of the cores that leaves the slots' holders, who waits and the saved commands. -/
theorem Act.core_keepsTurn {f : CoreU → CoreU} (hwait : ∀ c, (f c).slotWait = c.slotWait)
    (hslot : ∀ c k, let x : Slot := tgetD (f c).slots k {}; let y : Slot := tgetD c.slots k {}
      x.holder = y.holder ∧ x.sliceOver = y.sliceOver ∧ x.pick = y.pick)
    (hsaved : ∀ c k, (tgetD (f c).cc k {}).saved = (tgetD c.cc k {}).saved) : (Act.core f).Keeps State.turnView := fun _ =>
  State.turnView_iff.2 ⟨rfl, rfl, rfl, hwait _, fun _ _ => hslot _ _, fun _ _ => hsaved _ _⟩

/-- A change of other parts of the cores. -/
theorem Act.core_keepsTurn_of {f : CoreU → CoreU} (h : ∀ c, (f c).slotWait = c.slotWait ∧ (f c).slots = c.slots ∧ (f c).cc = c.cc) :
    (Act.core f).Keeps State.turnView :=
  core_keepsTurn (fun c => (h c).1) (fun c k => by simp [(h c).2.1]) fun c k => by rw [(h c).2.2]

theorem Act.ctxCore_keepsTurn {core ctx : Nat} {f : CtxCore → CtxCore} (h : ∀ c, (f c).saved = c.saved) :
    (Act.ctxCore core ctx f).Keeps State.turnView :=
  core_keepsTurn (fun _ => rfl) (fun _ _ => ⟨rfl, rfl, rfl⟩) fun c k => by
    by_cases hk : k = core * 1024 + ctx
    · simp [hk, h]
    · rw [tgetD_tmod_other _ _ _ hk]

theorem Act.slot_keepsTurn {core k : Nat} {f : Slot → Slot}
    (h : ∀ x, (f x).holder = x.holder ∧ (f x).sliceOver = x.sliceOver ∧ (f x).pick = x.pick) : (Act.slot core k f).Keeps State.turnView :=
  core_keepsTurn (fun _ => rfl) (fun c j => by
    by_cases hj : j = core * 4 + k
    · simp [hj, h]
    · rw [tgetD_tmod_other _ _ _ hj]; simp) fun _ _ => rfl

theorem Act.stream_keepsTurn {q : Nat} {f : Stream → Stream} : (Act.stream q f).Keeps State.turnView :=
  core_keepsTurn_of fun _ => ⟨rfl, rfl, rfl⟩

/-! ### What it tells -/

section
variable {s x : State} {core ctx q k : Nat}

theorem State.rd_of_turn {n : EName} {i : Nat} (h : x.turnView = s.turnView) (hn : n ∈ turnEntries) (hi : i < n.count) :
    x.rd n i = s.rd n i := by
  obtain ⟨-, hreads, -⟩ := State.turnView_iff.1 h
  simpa [State.turnReads, hn, hi] using congrFun (congrFun hreads n) i

theorem State.fld_of_turn {n : EName} {i a b c : Nat} (h : x.turnView = s.turnView) (hn : n ∈ turnEntries) (hi : i < n.count) :
    x.fld n i a b c = s.fld n i a b c := by rw [State.fld, State.rd_of_turn h hn hi, State.fld]

theorem State.slotOf_of_turn (h : x.turnView = s.turnView) : x.slotOf core ctx = s.slotOf core ctx := by
  obtain ⟨-, -, -, -, hslot, -⟩ := State.turnView_iff.1 h
  simp only [State.slotOf, (hslot core _).1]

theorem State.live_of_turn (h : x.turnView = s.turnView) (hctx : ctx < 1024) : x.live ctx = s.live ctx := by
  obtain ⟨hpow, -⟩ := State.turnView_iff.1 h
  simp only [State.live, State.runs, State.ctxState, hpow, State.rd_of_turn h (n := .serviceState) (i := 0) (by decide) (by decide),
    State.rd_of_turn h (n := .ctxState) (by decide) hctx]

theorem State.reentering_of_turn (h : x.turnView = s.turnView) : x.reentering core = s.reentering core := by
  obtain ⟨-, -, -, -, hslot, hsaved⟩ := State.turnView_iff.1 h
  simp only [State.reentering, (hslot core _).1, hsaved]

/-- The queues of a context name it. -/
theorem State.mem_queuesOf (hq : q ∈ s.queuesOf ctx) : q < 65536 ∧ s.qCtx q = ctx := by
  rw [State.queuesOf_eq, List.mem_filter, List.mem_filterMap] at hq
  obtain ⟨⟨p, -, hp⟩, hctx⟩ := hq
  exact ⟨(key_of_queueOfKey hp).1, by simpa [State.qCtx] using hctx⟩

theorem State.mem_queuesOn (hq : q ∈ s.queuesOn core ctx) : q < 65536 ∧ s.qCtx q = ctx :=
  State.mem_queuesOf (List.mem_filter.1 hq).1

theorem State.queuesOn_of_turn (h : x.turnView = s.turnView) : x.queuesOn core ctx = s.queuesOn core ctx := by
  obtain ⟨-, -, hqueues, -⟩ := State.turnView_iff.1 h
  rw [State.queuesOn, State.queuesOn, hqueues]
  refine List.filter_congr fun q hq => ?_
  have hcfg (a b c : Nat) : x.fld .queueCfg q a b c = s.fld .queueCfg q a b c :=
    State.fld_of_turn h (by decide) (State.mem_queuesOf hq).1
  simp only [State.qValid, State.qKind, State.qCore, hcfg]

theorem State.fetchable_of_turn (h : x.turnView = s.turnView) (hq : q < 65536) (hstream : x.stream q = s.stream q) :
    x.fetchable q 0 = s.fetchable q 0 := by
  have hcfg (a b c : Nat) : x.fld .queueCfg q a b c = s.fld .queueCfg q a b c := State.fld_of_turn h (by decide) hq
  have hctx : s.qCtx q < 1024 := bits_lt _ _ _
  simp only [State.fetchable, State.qValid, State.qKind, State.qTail, State.qCtx, State.ctxState, hcfg, hstream,
    State.fld_of_turn h (n := .queueState) (i := q) (by decide) hq] at hctx ⊢
  rw [State.rd_of_turn h (n := .ctxState) (by decide) hctx]

end

/-! ### A slot whose holder goes on -/

/-- `x` came from `s` by what a command of queue `q` does: rotation is read from the same things, the streams of other queues are as they
were, and the queue's bundle that runs does so still. -/
structure Proceeds (s x : State) (q : Nat) : Prop where
  view : x.turnView = s.turnView
  others : ∀ p, p ≠ q → x.stream p = s.stream p
  bundle : (s.stream q).running ≠ [] → (x.stream q).running ≠ []

section
variable {s x : State} {core q k : Nat}

theorem Proceeds.of_same {t : State} (h : Proceeds s x q) (hview : t.turnView = x.turnView)
    (hstream : t.u.core.streams = x.u.core.streams) : Proceeds s t q := by
  have hs (p : Nat) : t.stream p = x.stream p := by rw [State.stream, hstream, State.stream]
  exact ⟨hview.trans h.view, fun p hp => (hs p).trans (h.others p hp), by rw [hs]; exact h.bundle⟩

/-- A context that waits for a slot of the core does so still. -/
theorem Proceeds.needsSlot (h : Proceeds s x q) (hslot : s.slotOf core (s.qCtx q) = some k) {c : Nat} (hc : c < 1024) :
    x.needsSlot core c = s.needsSlot core c := by
  obtain ⟨-, -, -, -, -, hsaved⟩ := State.turnView_iff.1 h.view
  rw [State.needsSlot, State.needsSlot, State.ctxState, State.ctxState, State.rd_of_turn h.view (n := .ctxState) (by decide) hc,
    State.slotOf_of_turn h.view, State.queuesOn_of_turn h.view, hsaved]
  cases hnone : s.slotOf core c with
  | some _ => simp
  | none =>
    have hfetch (p : Nat) (hp : p ∈ s.queuesOn core c) : x.fetchable p 0 = s.fetchable p 0 := by
      obtain ⟨hlt, hctx⟩ := State.mem_queuesOn hp
      refine State.fetchable_of_turn h.view hlt (h.others p ?_)
      rintro rfl
      rw [hctx, hnone] at hslot
      cases hslot
    have hany : (s.queuesOn core c).any (fun p => x.fetchable p 0) = (s.queuesOn core c).any fun p => s.fetchable p 0 := by
      rw [Bool.eq_iff_iff, List.any_eq_true, List.any_eq_true]
      exact exists_congr fun p => and_congr_right fun hp => by rw [hfetch p hp]
    rw [hany]

/-- The slot passes to whom it would have passed. -/
theorem Proceeds.nextHolder (h : Proceeds s x q) (hslot : s.slotOf core (s.qCtx q) = some k) (hwait : ∀ c ∈ s.waiting core, c < 1024)
    (j : Nat) : x.nextHolder core j = s.nextHolder core j := by
  obtain ⟨-, -, -, hw, hslots, -⟩ := State.turnView_iff.1 h.view
  have hwaiters : x.waiters core j = s.waiters core j := by
    rw [State.waiters, State.waiters, State.waiting, hw, ← State.waiting]
    refine List.filter_congr fun c hc => ?_
    rw [h.needsSlot hslot (hwait c hc), State.isLC, State.isLC, State.fld_of_turn h.view (n := .ctxAdmin) (by decide) (hwait c hc)]
  have hpolicy : x.policyRuns 1 = s.policyRuns 1 := by
    rw [State.policyRuns, State.rd_of_turn h.view (n := .policyState) (by decide) (by decide), State.policyRuns]
  rw [State.nextHolder, hwaiters, hpolicy, (hslots core j).2.2, State.nextHolder]

/-- A bundle of a context that runs on the core does so still. -/
theorem Proceeds.bundleRuns (h : Proceeds s x q) {c : Nat} (hs : s.bundleRuns core c = true) : x.bundleRuns core c = true := by
  simp only [State.bundleRuns, State.queuesOn_of_turn h.view, List.any_eq_true, Bool.not_eq_true', List.isEmpty_eq_false_iff] at hs ⊢
  obtain ⟨p, hp, hrun⟩ := hs
  refine ⟨p, hp, ?_⟩
  by_cases hpq : p = q
  · subst hpq; exact h.bundle hrun
  · rwa [h.others p hpq]

/-- A slot that does not rotate does not begin to: every number that waits for a slot of the core being a context's. -/
theorem Proceeds.still (h : Proceeds s x q) (hslot : s.slotOf core (s.qCtx q) = some k) (hwait : ∀ c ∈ s.waiting core, c < 1024)
    (hs : s.rotating core k = false) : x.rotating core k = false := by
  obtain ⟨-, -, -, -, hslots, -⟩ := State.turnView_iff.1 h.view
  rw [State.rotating, (hslots core k).1, (hslots core k).2.1, h.nextHolder hslot hwait]
  rw [State.rotating] at hs
  cases hover : (s.slot core k).sliceOver with
  | false => simp
  | true =>
    cases hnext : (s.nextHolder core k).isSome with
    | false => simp
    | true =>
      cases hholder : (s.slot core k).holder with
      | none => simp
      | some c =>
        have : s.bundleRuns core c = true := by simpa [hover, hnext, hholder] using hs
        simp [h.bundleRuns this]

end

end Sys2Proof.Machine
end

section
/-! SUPPORT. A command alone in its engines, from its dispatch to its retirement: what the engine's loop leaves as it was around the
command's pieces, the claims and returns of its gates, one piece, and the end (R102 to R109). -/

namespace Sys2Proof.Machine

/-! ### What the loop leaves around a piece -/

/-- What the engine's loop looks at to go on with a command. -/
def State.standing (s : State) := (s.turnView, s.u.core.streams, s.u.core.engQ)

/-- Memory, and what the contexts keep on the cores. -/
def State.holdings (s : State) : Tab CtxCore × Store × Store × Store := (s.u.core.cc, s.stack, s.host, s.scratch)

/-- Memory, and the groups of a context on a core. -/
def State.work (core ctx : Nat) (s : State) : Store × Store × Store × Tab Group × Tab Group :=
  (s.stack, s.host, s.scratch, (s.ctxCore core ctx).grp, (s.ctxCore core ctx).dgrp)

/-- The gates of a context on a core. -/
def State.gates (core ctx : Nat) (s : State) : Tab Gate := (s.ctxCore core ctx).gates

section
variable {s t : State} {core ctx : Nat}

theorem State.work_iff {w : Store × Store × Store × Tab Group × Tab Group} : s.work core ctx = w ↔
    s.stack = w.1 ∧ s.host = w.2.1 ∧ s.scratch = w.2.2.1 ∧ (s.ctxCore core ctx).grp = w.2.2.2.1 ∧
      (s.ctxCore core ctx).dgrp = w.2.2.2.2 := by simp only [State.work, Prod.ext_iff]

theorem State.holdings_iff : t.holdings = s.holdings ↔
    t.u.core.cc = s.u.core.cc ∧ t.stack = s.stack ∧ t.host = s.host ∧ t.scratch = s.scratch := by simp [State.holdings]

theorem State.work_of_holdings (h : t.holdings = s.holdings) : t.work core ctx = s.work core ctx := by
  obtain ⟨hcc, hst, hho, hsc⟩ := State.holdings_iff.1 h
  simp only [State.work, State.ctxCore, hcc, hst, hho, hsc]

theorem State.gates_of_holdings (h : t.holdings = s.holdings) : t.gates core ctx = s.gates core ctx := by
  obtain ⟨hcc, -⟩ := State.holdings_iff.1 h
  simp only [State.gates, State.ctxCore, hcc]

theorem State.gate_of_gates (h : t.gates core ctx = s.gates core ctx) (g : Nat) : t.gate core ctx g = s.gate core ctx g :=
  congrArg (fun l => tgetD l g ({} : Gate)) h

theorem State.rdScr_of_scratch (h : t.scratch = s.scratch) (c off n : Nat) : t.rdScr c off n = s.rdScr c off n := by
  simp [State.rdScr, State.rdMem, State.store, h]

theorem State.ctxCore_run (s : State) (c x core ctx : Nat) (f : CtxCore → CtxCore) : ((Act.ctxCore c x f).run s).ctxCore core ctx =
    if core * 1024 + ctx = c * 1024 + x then f (s.ctxCore c x) else s.ctxCore core ctx := by
  split
  · rename_i h
    simp only [Act.ctxCore, State.ctxCore, Act.run_core, h, tgetD_tmod_same]
  · rename_i h
    exact tgetD_tmod_other _ _ _ h

@[simp] theorem State.ctxCore_run_same (s : State) (core ctx : Nat) (f : CtxCore → CtxCore) :
    ((Act.ctxCore core ctx f).run s).ctxCore core ctx = f (s.ctxCore core ctx) := by simp [State.ctxCore_run]

theorem State.gate_run (s : State) (core ctx g j : Nat) (f : Gate → Gate) : ((Act.gate core ctx g f).run s).gate core ctx j =
    if j = g then f (s.gate core ctx g) else s.gate core ctx j := by
  simp only [State.gate, Act.gate, State.ctxCore_run_same]
  split
  · rename_i h; rw [h, tgetD_tmod_same]
  · rename_i h; exact tgetD_tmod_other _ _ _ h

end

section
variable {core ctx : Nat}

theorem Act.keepsStanding {a : Act} (hview : a.Keeps State.turnView) (hstream : a.Keeps fun s => s.u.core.streams)
    (hqueue : a.KeepsQueues) : a.Keeps State.standing := fun s => by
  have hstream := hstream s
  have hqueue := hqueue s
  simp only at hstream hqueue
  rw [State.standing, hview s, hstream, hqueue, State.standing]

theorem Act.keepsHoldings {a : Act} (hcc : a.Keeps fun s => s.u.core.cc) (hmem : ∀ m, a.Keeps fun s => s.store m) :
    a.Keeps State.holdings := fun s => State.holdings_iff.2 ⟨hcc s, hmem .stack s, hmem .host s, hmem .scratch s⟩

theorem Act.core_keepsHoldings {f : CoreU → CoreU} (h : ∀ c, (f c).cc = c.cc) : (Act.core f).Keeps State.holdings := fun _ =>
  State.holdings_iff.2 ⟨h _, rfl, rfl, rfl⟩

theorem Act.reg_keepsHoldings {n : EName} {i v : Nat} : (Act.reg n i v).Keeps State.holdings :=
  keepsHoldings (reg_keeps_u (g := fun u => u.core.cc)) reg_keeps_store
theorem Act.fld_keepsHoldings {n : EName} {i a b c v : Nat} : (Act.fld n i a b c v).Keeps State.holdings :=
  keeps_get fun _ => reg_keepsHoldings
theorem Act.count_keepsHoldings {n : EName} {i k v : Nat} : (Act.count n i k v).Keeps State.holdings :=
  keeps_get fun _ => fld_keepsHoldings

theorem Act.fld_keepsStanding {n : EName} {i a b c v : Nat} (hn : n ∉ turnEntries) : (Act.fld n i a b c v).Keeps State.standing :=
  keepsStanding (fld_keepsTurn hn) (fld_keeps_u (g := fun u => u.core.streams)) (fld_keeps_u (g := fun u => u.core.engQ))
theorem Act.count_keepsStanding {n : EName} {i k v : Nat} (hn : n ∉ turnEntries) : (Act.count n i k v).Keeps State.standing :=
  keeps_get fun _ => fld_keepsStanding hn
theorem Act.mem_keepsStanding {m : MemSel} {a : Nat} {bs : PBytes} : (Act.mem m a bs).Keeps State.standing :=
  keepsStanding mem_keepsTurn (mem_keeps_u (g := fun u => u.core.streams)) (mem_keeps_u (g := fun u => u.core.engQ))
theorem Act.ctxCore_keepsStanding {c x : Nat} {f : CtxCore → CtxCore} (h : ∀ y, (f y).saved = y.saved) :
    (Act.ctxCore c x f).Keeps State.standing := keepsStanding (ctxCore_keepsTurn h) (fun _ => rfl) fun _ => rfl

/-- A wake on demand of a gated unit (R34). -/
theorem Act.needUnit_keepsStanding {row c : Nat} : (Act.needUnit row c).Keeps State.standing :=
  keeps_get fun _ => keeps_when fun _ => keeps_seq
    (keepsStanding (core_keepsTurn_of fun _ => ⟨rfl, rfl, rfl⟩) (fun _ => rfl) fun _ => rfl)
    (keeps_get fun _ => fld_keepsStanding (by decide))
theorem Act.needUnit_keepsHoldings {row c : Nat} : (Act.needUnit row c).Keeps State.holdings :=
  keeps_get fun _ => keeps_when fun _ => keeps_seq (core_keepsHoldings fun _ => rfl) (keeps_get fun _ => fld_keepsHoldings)

theorem Act.front_keepsHoldings (m : Cmd) : (Act.front m).Keeps State.holdings :=
  keeps_each fun _ _ => core_keepsHoldings fun _ => rfl
theorem Act.bundleStart_keepsHoldings (m : Cmd) : (Act.bundleStart m).Keeps State.holdings :=
  keeps_when fun _ => core_keepsHoldings fun _ => rfl

/-! ### Gates -/

/-- What no claim and no return changes: what the loop looks at, memory and groups. -/
def State.ungated (core ctx : Nat) (s : State) := (s.standing, s.work core ctx)

theorem Act.gate_keepsStanding {c x g : Nat} {f : Gate → Gate} : (Act.gate c x g f).Keeps State.standing :=
  ctxCore_keepsStanding fun _ => rfl
theorem Act.gate_keepsUngated {c x g : Nat} {f : Gate → Gate} : (Act.gate c x g f).Keeps (State.ungated core ctx) := fun s => by
  have hwork : ((Act.gate c x g f).run s).work core ctx = s.work core ctx := by
    refine State.work_iff.2 ⟨rfl, rfl, rfl, ?_, ?_⟩ <;> (rw [Act.gate, State.ctxCore_run]; split) <;> simp_all [State.ctxCore, State.work]
  rw [State.ungated, gate_keepsStanding s, hwork, State.ungated]

theorem Act.claim_keepsUngated (m : Cmd) (r : Option (Nat × Nat)) : (Act.claim m r).Keeps (State.ungated core ctx) := by
  cases r
  · exact keeps_skip
  · exact gate_keepsUngated
theorem Act.credit_keepsUngated (m : Cmd) (r : Option (Nat × Nat)) : (Act.credit m r).Keeps (State.ungated core ctx) := by
  cases r
  · exact keeps_skip
  · exact gate_keepsUngated
theorem Act.takePost_keepsUngated (m : Cmd) : (Act.takePost m).Keeps (State.ungated core ctx) := by
  unfold Act.takePost
  split
  · exact keeps_skip
  · exact gate_keepsUngated
theorem Act.pieceEnd_keepsUngated (m : Cmd) : (Act.pieceEnd m).Keeps (State.ungated core ctx) :=
  keeps_seq (keeps_when fun _ => credit_keepsUngated m _) (keeps_when fun _ => by
    split
    · exact gate_keepsUngated
    · exact keeps_skip)

end

/-- The gates of a descriptor hold what `a` claims of STREAM units and `b` of POST credits take. -/
structure Funded (s : State) (core ctx : Nat) (d : Desc) (a b : Nat) : Prop where
  stream : ∀ r, hStream d = some r → a * r.2 ≤ (s.gate core ctx r.1).filled
  post : ∀ r, hPost d = some r → b * r.2 ≤ (s.gate core ctx r.1).credits

section
variable {s t : State} {core ctx a b : Nat} {d : Desc} {m : Cmd}

theorem Funded.of_gates (h : Funded s core ctx d a b) (hg : t.gates core ctx = s.gates core ctx) : Funded t core ctx d a b := by
  obtain ⟨hstream, hpost⟩ := h
  exact ⟨fun r hr => by rw [State.gate_of_gates hg]; exact hstream r hr, fun r hr => by rw [State.gate_of_gates hg]; exact hpost r hr⟩

/-- A gate that loses neither units nor credits. -/
theorem Funded.gate {g : Nat} {f : Gate → Gate} (h : Funded s core ctx d a b) (hf : ∀ x, x.filled ≤ (f x).filled)
    (hc : ∀ x, x.credits ≤ (f x).credits) : Funded ((Act.gate core ctx g f).run s) core ctx d a b := by
  refine ⟨fun r hr => (h.stream r hr).trans ?_, fun r hr => (h.post r hr).trans ?_⟩ <;> rw [State.gate_run] <;> split
  · rename_i he; rw [he]; exact hf _
  · exact Nat.le_refl _
  · rename_i he; rw [he]; exact hc _
  · exact Nat.le_refl _

theorem Funded.canClaim (h : Funded s core ctx d (a + 1) b) (hm : m.d = d) (hcore : m.core = core) (hctx : m.ctx = ctx) :
    s.canClaim m (hStream m.d) = true := by
  subst hm hcore hctx
  cases hr : hStream m.d with
  | none => rfl
  | some r =>
    have := h.stream r hr
    simp only [State.canClaim, decide_eq_true_eq]
    exact (Nat.le_mul_of_pos_left r.2 (Nat.succ_pos a)).trans this

theorem Funded.canPost (h : Funded s core ctx d a (b + 1)) (hm : m.d = d) (hcore : m.core = core) (hctx : m.ctx = ctx) :
    s.canPost m = true := by
  subst hm hcore hctx
  cases hr : hPost m.d with
  | none => simp [State.canPost, hr]
  | some r =>
    have := h.post r hr
    simp only [State.canPost, hr, decide_eq_true_eq]
    exact (Nat.le_mul_of_pos_left r.2 (Nat.succ_pos b)).trans this

/-- The STREAM claim of a piece leaves what the other pieces claim. -/
theorem Funded.claim (h : Funded s core ctx d (a + 1) b) (hm : m.d = d) (hcore : m.core = core) (hctx : m.ctx = ctx) :
    Funded ((Act.claim m (hStream m.d)).run s) core ctx d a b := by
  subst hm hcore hctx
  cases hr : hStream m.d with
  | none => exact ⟨fun r e => by simp [hr] at e, h.post⟩
  | some r =>
    refine ⟨fun r' e => ?_, fun r' e => ?_⟩
    · obtain rfl : r = r' := by simpa [hr] using e
      have := h.stream r hr
      rw [Nat.succ_mul] at this
      rw [Act.claim, State.gate_run, if_pos rfl]
      show a * r.2 ≤ _ - r.2
      omega
    · rw [Act.claim, State.gate_run]
      split
      · rename_i he; have := h.post r' e; rwa [he] at this
      · exact h.post r' e

/-- The POST credits of a piece leave what the other pieces take. -/
theorem Funded.takePost (h : Funded s core ctx d a (b + 1)) (hm : m.d = d) (hcore : m.core = core) (hctx : m.ctx = ctx) :
    Funded ((Act.takePost m).run s) core ctx d a b := by
  subst hm hcore hctx
  cases hr : hPost m.d with
  | none =>
    have : (Act.takePost m).run s = s := by simp [Act.takePost, hr]
    rw [this]
    exact ⟨h.stream, fun r e => by simp [hr] at e⟩
  | some r =>
    have hrun : (Act.takePost m).run s = (Act.gate m.core m.ctx r.1 fun g => { g with credits := g.credits - r.2 }).run s := by
      simp [Act.takePost, hr]
    rw [hrun]
    refine ⟨fun r' e => ?_, fun r' e => ?_⟩ <;> rw [State.gate_run]
    · split
      · rename_i he; have := h.stream r' e; rwa [he] at this
      · exact h.stream r' e
    · obtain rfl : r = r' := by simpa [hr] using e
      have := h.post r hr
      rw [Nat.succ_mul] at this
      rw [if_pos rfl]
      show b * r.2 ≤ _ - r.2
      omega

/-- What a piece returns leaves what the other pieces claim. -/
theorem Funded.pieceEnd (h : Funded s core ctx d a b) (hcore : m.core = core) (hctx : m.ctx = ctx) :
    Funded ((Act.pieceEnd m).run s) core ctx d a b := by
  subst hcore hctx
  have hback : Funded ((Act.streamBack m).run s) m.core m.ctx d a b := by
    rw [Act.streamBack, Act.run_when]
    split
    · cases hStream m.d with
      | none => exact h
      | some r => exact h.gate (fun _ => Nat.le_refl _) fun _ => Nat.le_add_right _ _
    · exact h
  rw [Act.pieceEnd, Act.run_seq, Act.run_when]
  split
  · split
    · exact hback.gate (fun _ => Nat.le_add_right _ _) fun _ => Nat.le_refl _
    · exact hback
  · exact hback

/-- The WAIT claim leaves what the pieces claim: no gate has two roles (R99). -/
theorem Funded.wait (h : Funded s core ctx d a b) (hroles : ((hRoles d).map Prod.fst).Nodup) (hm : m.d = d) (hcore : m.core = core)
    (hctx : m.ctx = ctx) : Funded ((Act.claim m (hWait m.d)).run s) core ctx d a b := by
  subst hm hcore hctx
  cases hw : hWait m.d with
  | none => exact h
  | some w =>
    refine ⟨fun r e => ?_, fun r e => ?_⟩ <;> rw [Act.claim, State.gate_run]
    · have hne : r.1 ≠ w.1 := fun he => by simp [hRoles, hw, e, he] at hroles
      rw [if_neg hne]
      exact h.stream r e
    · split
      · rename_i he; have := h.post r e; rwa [he] at this
      · exact h.post r e

end

end Sys2Proof.Machine
end

section
/-! SUPPORT. A command alone in its engines goes through its pieces and retires, where every number that waits for a slot of its core is
a context's (R102 to R109, R388). -/

namespace Sys2Proof.Machine

/-! ### The command at the front of its engines -/

/-- What names a command: its descriptor, its place in its queue, its core and its context. -/
def Cmd.ident (m : Cmd) : Desc × Nat × Nat × Nat × Nat := (m.d, m.q, m.idx, m.core, m.ctx)

theorem Cmd.ident_iff {c m : Cmd} : c.ident = m.ident ↔ c.d = m.d ∧ c.q = m.q ∧ c.idx = m.idx ∧ c.core = m.core ∧ c.ctx = m.ctx := by
  simp [Cmd.ident]

/-- A command at its stages in a turn of the loop: its piece supplied by STREAM, by POST too, begun, and over. -/
def Cmd.fed (c : Cmd) : Cmd := { c with streamed := true }
def Cmd.supplied (c : Cmd) : Cmd := { c with streamed := true, posted := true }
def Cmd.begun (c : Cmd) : Cmd := { c with streamed := true, posted := true, started := true, yielded := false }
def Cmd.rested (c : Cmd) : Cmd := { c with streamed := false, posted := false, asked := false }

/-- The stream of a queue holds its command `idx`, of descriptor `d`, and no FENCE of it is open. -/
def InFlight (x : State) (q idx : Nat) (d : Desc) : Prop :=
  (∃ f ∈ (x.stream q).fly, f.idx = idx ∧ f.d = d) ∧ ∀ f ∈ (x.stream q).fly, hOpcode f.d = 3 → f.done = true

/-- In `x`, to which the run of queue `q`'s next command has come from `s`, the command stands alone in its engines as `m`. -/
structure Stands (s : State) (q : Nat) (x : State) (m : Cmd) : Prop where
  proceeds : Proceeds s x q
  alone : Alone x m
  queue : m.q = q
  core : m.core = s.qCore q
  ctx : m.ctx = s.qCtx q
  fly : InFlight x q m.idx m.d

section
variable {s x : State} {q : Nat} {m c : Cmd}

theorem State.engQ_of_cores {t : State} (h : t.u.core.engQ = x.u.core.engQ) (core e : Nat) : t.engQ core e = x.engQ core e := by
  rw [State.engQ, h, State.engQ]

theorem InFlight.of_streams {t : State} {idx : Nat} {d : Desc} (hfly : InFlight x q idx d) (h : t.u.core.streams = x.u.core.streams) :
    InFlight t q idx d := by
  have hs : t.stream q = x.stream q := by rw [State.stream, h, State.stream]
  rw [InFlight, hs]
  exact hfly

theorem Stands.of_standing {t : State} (h : Stands s q x m) (hx : t.standing = x.standing) : Stands s q t m := by
  simp only [State.standing, Prod.mk.injEq] at hx
  obtain ⟨hview, hstream, hqueue⟩ := hx
  obtain ⟨hproceeds, halone, hq, hcore, hctx, hfly⟩ := h
  exact ⟨hproceeds.of_same hview hstream, fun e he => by rw [State.engQ_of_cores hqueue, halone e he], hq, hcore, hctx,
    hfly.of_streams hstream⟩

theorem Stands.keeps {a : Act} (h : Stands s q x m) (ha : a.Keeps State.standing) : Stands s q (a.run x) m := h.of_standing (ha x)

theorem Act.engQ_keepsTurn (core e : Nat) (f : List Cmd → List Cmd) : (Act.engQ core e f).Keeps State.turnView :=
  core_keepsTurn_of fun _ => ⟨rfl, rfl, rfl⟩
theorem Act.engQ_keepsHoldings (core e : Nat) (f : List Cmd → List Cmd) : (Act.engQ core e f).Keeps State.holdings :=
  core_keepsHoldings fun _ => rfl
theorem Act.front_keepsView (m : Cmd) : (Act.front m).Keeps State.turnView :=
  keeps_each fun _ _ => engQ_keepsTurn _ _ _
theorem Act.front_keepsStreams (m : Cmd) : (Act.front m).Keeps fun s => s.u.core.streams := keeps_each fun _ _ => fun _ => rfl

theorem Stands.front (h : Stands s q x m) (hc : c.ident = m.ident) : Stands s q ((Act.front c).run x) c := by
  obtain ⟨hd, hq, hi, hcore, hctx⟩ := Cmd.ident_iff.1 hc
  exact ⟨h.proceeds.of_same (Act.front_keepsView c x) (Act.front_keepsStreams c x), front_alone h.alone hd hcore hq hi,
    hq.trans h.queue, hcore.trans h.core, hctx.trans h.ctx, by rw [hd, hi]; exact h.fly.of_streams (Act.front_keepsStreams c x)⟩

theorem mem_sadd_of_mem {α : Type} [BEq α] {l : List α} {a b : α} (h : a ∈ l) : a ∈ sadd l b := by
  unfold sadd; split <;> simp [h]

theorem State.stream_run (s : State) (q p : Nat) (f : Stream → Stream) :
    ((Act.stream q f).run s).stream p = if p = q then f (s.stream q) else s.stream p := by
  split
  · rename_i h; subst h; exact tgetD_tmod_same _ _ _ _
  · rename_i h; exact tgetD_tmod_other _ _ _ h

/-- The start of a bundle leaves what runs and what is in flight (R117). -/
theorem Stands.bundleStart (h : Stands s q x m) (hc : c.q = q) : Stands s q ((Act.bundleStart c).run x) m := by
  rw [Act.bundleStart, Act.run_when]
  split
  · rw [hc]
    have hs (p : Nat) := x.stream_run q p fun t => { t with bunOn := sadd t.bunOn c.bun }
    obtain ⟨⟨hview, hothers, hbundle⟩, halone, hq, hcore, hctx, hfly⟩ := h
    refine ⟨⟨(Act.stream_keepsTurn x).trans hview, fun p hp => by rw [hs, if_neg hp, hothers p hp], fun hrun => ?_⟩,
      halone, hq, hcore, hctx, ?_⟩
    · obtain ⟨r, hr⟩ := List.exists_mem_of_ne_nil _ (hbundle hrun)
      rw [hs, if_pos rfl]
      simp only [Stream.running, List.mem_filter] at hr
      exact List.ne_nil_of_mem (a := r) (List.mem_filter.2 ⟨mem_sadd_of_mem hr.1, hr.2⟩)
    · rw [InFlight, hs, if_pos rfl]; exact hfly
  · exact h

/-- The engine goes on with the command. -/
theorem Stands.sees {k eng : Nat} (h : Stands s q x m) (ht : Turn s q k) (hwait : ∀ c ∈ s.waiting (s.qCore q), c < 1024)
    (heng : eng ∈ engsOf m.d) : Sees x (s.qCore q) eng m := by
  have hview := h.proceeds.view
  have hctx : s.ctxState (s.qCtx q) = 1 := by
    have := ht.fetchable
    simp only [State.fetchable, Bool.and_eq_true, beq_iff_eq] at this
    exact this.1.2
  have hlive : s.live (s.qCtx q) = true := by simp [State.live, ht.runs, hctx]
  refine ⟨h.alone, heng, h.core, ?_, ?_⟩
  · rw [h.ctx, State.live_of_turn hview (bits_lt _ _ _), hlive]
  · rw [State.suspended, h.core, h.ctx, State.slotOf_of_turn hview, ht.slot]
    simp [h.proceeds.still ht.slot hwait ht.still]

end

/-! ### One piece -/

section
variable {s x : State} {q k n a b : Nat} {m c : Cmd} {Q : Cmd → Prop} {w : Store × Store × Store × Tab Group × Tab Group}

theorem State.standing_of_ungated {t : State} {core ctx : Nat} (h : t.ungated core ctx = s.ungated core ctx) :
    t.standing = s.standing ∧ t.work core ctx = s.work core ctx := by simpa [State.ungated] using h

theorem Act.keepsStanding_of_ungated {a : Act} (h : a.Keeps (State.ungated 0 0)) : a.Keeps State.standing := fun s =>
  (State.standing_of_ungated (h s)).1

/-- A claim and the mark of it on the command leave memory and groups. -/
theorem work_claimed {a : Act} {core ctx : Nat} (ha : ∀ core ctx, a.Keeps (State.ungated core ctx)) (c : Cmd) :
    ((Act.front c).run (a.run x)).work core ctx = x.work core ctx :=
  (State.work_of_holdings (Act.front_keepsHoldings c _)).trans (State.standing_of_ungated (ha core ctx x)).2

theorem Stands.claimed {a : Act} (h : Stands s q x m) (ha : ∀ core ctx, a.Keeps (State.ungated core ctx)) (hc : c.ident = m.ident) :
    Stands s q ((Act.front c).run (a.run x)) c :=
  (h.keeps (Act.keepsStanding_of_ungated (ha 0 0))).front hc

/-- What a family's piece does from any state with memory and groups `w0`: it comes to a command of which `Q` holds, with memory and groups
`w`, and changes nothing that the loop looks at. -/
def PieceDoes (core ctx : Nat) (c : Cmd) (Q : Cmd → Prop) (w0 w : Store × Store × Store × Tab Group × Tab Group) : Prop :=
  ∀ y : State, y.work core ctx = w0 → ∃ (z : State) (c2 : Cmd), Q c2 ∧ c2.ident = c.ident ∧ z.standing = y.standing ∧
    z.gates core ctx = y.gates core ctx ∧ z.work core ctx = w ∧ ∀ k, ((runOf c.d).piece c.begun k).run y = (k (.done c2)).run z

/-- The command claims its STREAM units. -/
theorem Stands.streams {eng : Nat} (h : Stands s q x m) (ht : Turn s q k) (hwait : ∀ c ∈ s.waiting (s.qCore q), c < 1024)
    (heng : eng ∈ engsOf m.d) (hw : m.waited = true) (hprep : (runOf m.d).prep x m = .ready c) (hc : c.ident = m.ident)
    (hs : c.streamed = false) (hfund : Funded x m.core m.ctx m.d (a + 1) b) :
    ∃ z, (Act.engine (s.qCore q) eng (n + 1)).run x = (Act.engine (s.qCore q) eng n).run z ∧ Stands s q z c.fed ∧
      z.work m.core m.ctx = x.work m.core m.ctx ∧ Funded z m.core m.ctx m.d a b := by
  obtain ⟨hd, -, -, hcore, hctx⟩ := Cmd.ident_iff.1 hc
  refine ⟨(Act.front c.fed).run ((Act.claim c (hStream c.d)).run x), ?_, h.claimed (fun _ _ => Act.claim_keepsUngated c _) hc,
    work_claimed (fun _ _ => Act.claim_keepsUngated c _) _,
    (hfund.claim hd hcore hctx).of_gates (State.gates_of_holdings (Act.front_keepsHoldings _ _))⟩
  rw [engine_stream (h.sees ht hwait heng) hw hprep hs (hfund.canClaim hd hcore hctx)]
  rfl

/-- The command takes its POST credits. -/
theorem Stands.posts {eng : Nat} (h : Stands s q x m) (ht : Turn s q k) (hwait : ∀ c ∈ s.waiting (s.qCore q), c < 1024)
    (heng : eng ∈ engsOf m.d) (hw : m.waited = true) (hprep : (runOf m.d).prep x m = .ready m) (hs : m.streamed = true)
    (hp : m.posted = false) (hfund : Funded x m.core m.ctx m.d a (b + 1)) :
    ∃ z, (Act.engine (s.qCore q) eng (n + 1)).run x = (Act.engine (s.qCore q) eng n).run z ∧ Stands s q z { m with posted := true } ∧
      z.work m.core m.ctx = x.work m.core m.ctx ∧ Funded z m.core m.ctx m.d a b := by
  refine ⟨(Act.front { m with posted := true }).run ((Act.takePost m).run x), ?_, h.claimed (fun _ _ => Act.takePost_keepsUngated m) rfl,
    work_claimed (fun _ _ => Act.takePost_keepsUngated m) _,
    (hfund.takePost rfl rfl rfl).of_gates (State.gates_of_holdings (Act.front_keepsHoldings _ _))⟩
  rw [engine_post (h.sees ht hwait heng) hw hprep hs hp (hfund.canPost rfl rfl rfl)]
  rfl

/-- The command, supplied, runs a piece and returns what it claimed. -/
theorem Stands.runs {eng : Nat} (h : Stands s q x c.supplied) (ht : Turn s q k) (hwait : ∀ c ∈ s.waiting (s.qCore q), c < 1024)
    (heng : eng ∈ engsOf c.d) (hco : hOpcode c.d ≠ 0x84) (hw : c.waited = true) (hprep : (runOf c.d).prep x c.supplied = .ready c.supplied)
    (hpiece : PieceDoes c.core c.ctx c Q (x.work c.core c.ctx) w) (hfund : Funded x c.core c.ctx c.d a b) :
    ∃ z c2, Q c2 ∧ c2.ident = c.ident ∧ (Act.engine (s.qCore q) eng (n + 1)).run x = (Act.engine (s.qCore q) eng n).run z ∧
      Stands s q z c2.rested ∧ z.work c.core c.ctx = w ∧ Funded z c.core c.ctx c.d a b := by
  have hy : Stands s q ((Act.bundleStart c.begun).run ((Act.front c.begun).run x)) c.begun :=
    (h.front (c := c.begun) rfl).bundleStart h.queue
  have hkept : ((Act.bundleStart c.begun).run ((Act.front c.begun).run x)).holdings = x.holdings :=
    (Act.bundleStart_keepsHoldings _ _).trans (Act.front_keepsHoldings _ _)
  obtain ⟨z, c2, hQ, hc2, hzs, hzg, hzw, hrun⟩ := hpiece _ (State.work_of_holdings hkept)
  obtain ⟨-, -, -, hcore, hctx⟩ := Cmd.ident_iff.1 hc2
  refine ⟨(Act.front c2.rested).run ((Act.pieceEnd c2).run z), c2, hQ, hc2, ?_, ?_, ?_, ?_⟩
  · rw [engine_piece (c := c.supplied) (h.sees ht hwait heng) hw hprep rfl rfl (beq_eq_false_iff_ne.2 hco) hrun]
    rfl
  · exact (hy.of_standing hzs).claimed (fun _ _ => Act.pieceEnd_keepsUngated c2) hc2
  · exact (work_claimed (fun _ _ => Act.pieceEnd_keepsUngated c2) _).trans hzw
  · exact ((hfund.of_gates (hzg.trans (State.gates_of_holdings hkept))).pieceEnd hcore hctx).of_gates
      (State.gates_of_holdings (Act.front_keepsHoldings _ _))

/-- The command claims for its next piece, runs it, and returns what it claimed. -/
theorem Stands.piece {eng : Nat} (h : Stands s q x m) (ht : Turn s q k) (hwait : ∀ c ∈ s.waiting (s.qCore q), c < 1024)
    (heng : eng ∈ engsOf c.d) (hco : hOpcode c.d ≠ 0x84) (hw : m.waited = true ∧ c.waited = true)
    (hprep : (runOf m.d).prep x m = .ready c) (hc : c.ident = m.ident) (hclaims : c.streamed = false ∧ c.posted = false)
    (hready : ∀ y : State, y.work c.core c.ctx = x.work c.core c.ctx →
      (runOf c.d).prep y c.fed = .ready c.fed ∧ (runOf c.d).prep y c.supplied = .ready c.supplied)
    (hpiece : PieceDoes c.core c.ctx c Q (x.work c.core c.ctx) w) (hfund : Funded x c.core c.ctx c.d (a + 1) (b + 1)) :
    ∃ z c2, Q c2 ∧ c2.ident = c.ident ∧ (Act.engine (s.qCore q) eng (n + 3)).run x = (Act.engine (s.qCore q) eng n).run z ∧
      Stands s q z c2.rested ∧ z.work c.core c.ctx = w ∧ Funded z c.core c.ctx c.d a b := by
  obtain ⟨hd, -, -, hcore, hctx⟩ := Cmd.ident_iff.1 hc
  obtain ⟨x1, hrun1, h1, hwork1, hfund1⟩ :=
    h.streams ht hwait (hd ▸ heng) hw.1 hprep hc hclaims.1 (n := n + 2) (by rwa [← hd, ← hcore, ← hctx])
  rw [← hcore, ← hctx] at hwork1
  rw [← hd, ← hcore, ← hctx] at hfund1
  obtain ⟨x2, hrun2, h2, hwork2, hfund2⟩ := h1.posts ht hwait heng hw.2 (hready x1 hwork1).1 rfl hclaims.2 (n := n + 1) hfund1
  have hwork2 : x2.work c.core c.ctx = x.work c.core c.ctx := hwork2.trans hwork1
  obtain ⟨z, c2, hQ, hc2, hrun3, h3⟩ :=
    h2.runs (c := c) ht hwait heng hco hw.2 (hready x2 hwork2).2 (hwork2 ▸ hpiece) hfund2 (n := n)
  exact ⟨z, c2, hQ, hc2, hrun1.trans (hrun2.trans hrun3), h3⟩

end

/-! ### The end -/

section
variable {s x : State} {q idx res res2 n : Nat} {d : Desc} {p : Bool}

theorem State.mem_openFences {f : Nat × Fly} (h : f ∈ x.openFences) : f.2 ∈ (x.stream f.1).fly ∧ hOpcode f.2.d = 3 ∧ f.2.done = false := by
  obtain ⟨r, -, hr⟩ := List.mem_flatMap.1 h
  obtain ⟨g, hg, rfl⟩ := List.mem_map.1 hr
  simpa using hg

/-- FENCEs that retire are none of a stream that has none open. -/
theorem fencesUp_stream (hopen : ∀ f ∈ (x.stream q).fly, hOpcode f.d = 3 → f.done = true) :
    ((Act.fencesUp n).run x).stream q = x.stream q := by
  induction n generalizing x with
  | zero => rfl
  | succ n ih =>
    rw [Act.fencesUp, Act.run_get]
    split
    · rename_i f hf
      obtain ⟨hmem, hop, hdone⟩ := State.mem_openFences (List.mem_of_find?_eq_some hf)
      have hne : q ≠ f.1 := by
        rintro rfl
        rw [hopen _ hmem hop] at hdone
        cases hdone
      have hsame : ((Act.flySet f.1 f.2.idx 0 0 0 0 false).run x).stream q = x.stream q := by
        rw [Act.flySet, Act.run_get, State.stream_run, if_neg hne]
      rw [Act.run_seq, ih (by rwa [hsame]), hsame]
    · rfl

theorem flySet_fly {st rs : Nat} : (((Act.flySet q idx st rs res res2 p).run x).stream q).fly =
    (x.stream q).fly.map fun f => if f.idx = idx then
      { f with done := true, status := st, reason := rs, res := res, res2 := res2, poison := p, epoch := x.rd .recoveryEpoch, time := x.now }
      else f := by
  rw [Act.flySet, Act.run_get, State.stream_run, if_pos rfl]

/-- A command in flight that is marked retired has retired, and FENCEs that waited for it do not change that (R104). -/
theorem flyDone_retires (h : InFlight x q idx d) : Retired ((Act.flyDone q idx 0 0 res res2 p).run x) q idx d res res2 := by
  obtain ⟨⟨f, hf, hidx, hd⟩, hopen⟩ := h
  have hs := flySet_fly (x := x) (q := q) (idx := idx) (st := 0) (rs := 0) (res := res) (res2 := res2) (p := p)
  have hstill : ∀ g ∈ (((Act.flySet q idx 0 0 res res2 p).run x).stream q).fly, hOpcode g.d = 3 → g.done = true := by
    rw [hs]
    intro g hg hop
    obtain ⟨g', hg', rfl⟩ := List.mem_map.1 hg
    split
    · rfl
    · rename_i hne; rw [if_neg hne] at hop; exact hopen _ hg' hop
  rw [Act.flyDone, Act.run_seq, Retired, Act.fences, Act.run_get, fencesUp_stream hstill, hs]
  exact ⟨_, List.mem_map.2 ⟨f, hf, if_pos hidx⟩, hidx, hd, rfl, rfl, rfl, rfl⟩

theorem Act.flyDone_keeps {α : Type} {f : State → α} {st rs : Nat} (h : ∀ q g, (Act.stream q g).Keeps f) :
    (Act.flyDone q idx st rs res res2 p).Keeps f := by
  have hset (q idx st rs res res2 : Nat) (p : Bool) : (Act.flySet q idx st rs res res2 p).Keeps f := keeps_get fun _ => h _ _
  have hup (n : Nat) : (Act.fencesUp n).Keeps f := by
    induction n with
    | zero => exact keeps_skip
    | succ n ih =>
      refine keeps_get fun _ => ?_
      split
      · exact keeps_seq (hset _ _ _ _ _ _ _) ih
      · exact keeps_skip
  exact keeps_seq (hset _ _ _ _ _ _ _) (keeps_get fun _ => hup _)

theorem Act.stallEnd_keepsCore (n : Nat) : (Act.stallEnd n).Keeps fun s => s.u.core := keeps_get fun _ => by
  split
  · exact keeps_skip
  · exact keeps_seq (keeps_units fun _ => rfl) (count_keeps_u (g := fun u => u.core))
theorem Act.stallEnd_keepsStore (n : Nat) (m : MemSel) : (Act.stallEnd n).Keeps fun s => s.store m := keeps_get fun _ => by
  split
  · exact keeps_skip
  · exact keeps_seq (units_keeps_store m) (count_keeps_store m)

/-- Sequencers that wait no longer change neither the cores nor memory. -/
theorem Act.settleQueues_keepsCore : Act.settleQueues.Keeps fun s => s.u.core :=
  keeps_get fun _ => keeps_each fun _ _ => stallEnd_keepsCore _
theorem Act.settleQueues_keepsHoldings : Act.settleQueues.Keeps State.holdings :=
  keepsHoldings (fun s => congrArg CoreU.cc (settleQueues_keepsCore s)) fun m => keeps_get fun _ => keeps_each fun _ _ => stallEnd_keepsStore _ m

end

section
variable {s x : State} {q k n : Nat} {m c : Cmd}

/-- A command leaves its engines' queues empty, and nothing moves up where no saved command waits to (R103). -/
theorem leave_alone (h : Alone x m) (hc : c.ident = m.ident) (hset : x.reentering m.core = []) :
    (∀ e ∈ engsOf m.d, ((Act.leave c).run x).engQ m.core e = []) ∧ ((Act.leave c).run x).holdings = x.holdings ∧
      ((Act.leave c).run x).u.core.streams = x.u.core.streams := by
  obtain ⟨hd, hq, hi, hcore, -⟩ := Cmd.ident_iff.1 hc
  obtain ⟨out, hout⟩ : ∃ out : Act, out = .each (engsOf c.d) fun e => .engQ c.core e fun l => l.filter fun y => !sameCmd y c := ⟨_, rfl⟩
  have hview : (out.run x).turnView = x.turnView := hout ▸ Act.keeps_each (fun _ _ => Act.engQ_keepsTurn _ _ _) x
  have hstay : (Act.reenter c.core).run (out.run x) = out.run x := by
    rw [Act.reenter, Act.run_get, State.reentering_of_turn hview, hcore, hset, Act.run_each_nil]
  have hrun : (Act.leave c).run x = Act.settleQueues.run (out.run x) := by
    rw [Act.leave, ← hout, Act.run_all_cons, Act.run_all_cons, Act.run_all_cons, Act.run_all_nil, hstay]
  have hcores := Act.settleQueues_keepsCore (out.run x)
  have hheld : (out.run x).holdings = x.holdings := hout ▸ Act.keeps_each (fun _ _ => Act.engQ_keepsHoldings _ _ _) x
  have hstreams : (out.run x).u.core.streams = x.u.core.streams :=
    hout ▸ Act.keeps_each (f := fun s : State => s.u.core.streams) (fun _ _ _ => rfl) x
  rw [hrun]
  refine ⟨fun e he => ?_, (Act.settleQueues_keepsHoldings _).trans hheld, (congrArg CoreU.streams hcores).trans hstreams⟩
  rw [State.engQ_of_cores (congrArg CoreU.engQ hcores), hout, ← hcore, run_each_engQ (engsOf_nodup _), if_pos (hd ▸ he), hcore, h e he]
  simp [sameCmd, hq, hi]

/-- What a command adds to its monitor as it retires (R64). -/
def Act.addsMon (m : Cmd) : Act := match (rulesOf m.d).mon m.d with
  | some tid => .monitor tid m.mon
  | none => .skip

theorem Act.addsMon_keepsStanding : (Act.addsMon c).Keeps State.standing := by
  unfold Act.addsMon
  split
  · exact keepsStanding (core_keepsTurn_of fun _ => ⟨rfl, rfl, rfl⟩) (fun _ => rfl) fun _ => rfl
  · exact keeps_skip
theorem Act.addsMon_keepsHoldings : (Act.addsMon c).Keeps State.holdings := by
  unfold Act.addsMon
  split
  · exact core_keepsHoldings fun _ => rfl
  · exact keeps_skip

theorem retire_run : (Act.retire c).run x = (Act.flyDone c.q c.idx 0 0 ((runOf c.d).res x c) ((runOf c.d).res2 c) c.poison).run
    ((Act.addsMon c).run (((runOf c.d).finish c).run ((Act.credit c (hWait c.d)).run ((Act.leave c).run x)))) := by
  simp only [Act.retire, Act.run_get, Act.run_all_cons, Act.run_all_nil]
  rfl

/-- What follows a command's leaving its engines: they stay as they are, the command has retired with its results, and memory and groups
are as its family finishes them. -/
theorem retire_left (hfly : InFlight x c.q c.idx c.d) (r : Nat)
    (hfin : ((runOf c.d).finish c).Keeps State.standing) :
    let t := (Act.flyDone c.q c.idx 0 0 r ((runOf c.d).res2 c) c.poison).run
      ((Act.addsMon c).run (((runOf c.d).finish c).run ((Act.credit c (hWait c.d)).run x)))
    t.u.core.engQ = x.u.core.engQ ∧ Retired t c.q c.idx c.d r ((runOf c.d).res2 c) ∧
      ∃ y : State, y.work c.core c.ctx = x.work c.core c.ctx ∧
        t.work c.core c.ctx = (((runOf c.d).finish c).run y).work c.core c.ctx := by
  obtain ⟨hbackStanding, hbackWork⟩ :=
    State.standing_of_ungated (Act.credit_keepsUngated c (hWait c.d) (core := c.core) (ctx := c.ctx) x)
  generalize (Act.credit c (hWait c.d)).run x = back at *
  have hdone : ((Act.addsMon c).run (((runOf c.d).finish c).run back)).standing = x.standing :=
    (Act.addsMon_keepsStanding _).trans ((hfin back).trans hbackStanding)
  have hheld := Act.addsMon_keepsHoldings (c := c) (((runOf c.d).finish c).run back)
  generalize (Act.addsMon c).run (((runOf c.d).finish c).run back) = done at *
  simp only [State.standing, Prod.mk.injEq] at hdone
  obtain ⟨-, hdoneStreams, hdoneQueues⟩ := hdone
  refine ⟨?_, ?_, back, hbackWork, ?_⟩
  · exact (Act.flyDone_keeps (f := fun s : State => s.u.core.engQ) (fun _ _ _ => rfl) done).trans hdoneQueues
  · exact flyDone_retires (hfly.of_streams hdoneStreams)
  · exact (State.work_of_holdings (Act.flyDone_keeps (fun _ _ => Act.core_keepsHoldings fun _ => rfl) done)).trans
      (State.work_of_holdings hheld)

/-- The command retires with its results: its engines are free, and memory and groups are as its family finishes them. -/
theorem Stands.retire (h : Stands s q x m) (hc : c.ident = m.ident) (hset : s.reentering (s.qCore q) = [])
    (hfin : ((runOf c.d).finish c).Keeps State.standing) :
    (∀ e ∈ engsOf m.d, ((Act.retire c).run x).engQ (s.qCore q) e = []) ∧
      Retired ((Act.retire c).run x) c.q c.idx c.d ((runOf c.d).res x c) ((runOf c.d).res2 c) ∧
      ∃ y : State, y.work c.core c.ctx = x.work c.core c.ctx ∧
        ((Act.retire c).run x).work c.core c.ctx = (((runOf c.d).finish c).run y).work c.core c.ctx := by
  obtain ⟨hd, hq, hi, -, -⟩ := Cmd.ident_iff.1 hc
  obtain ⟨hfree, hheld, hstreams⟩ := leave_alone h.alone hc (by rw [State.reentering_of_turn h.proceeds.view, h.core, hset])
  rw [retire_run]
  generalize (Act.leave c).run x = left at *
  have hfly : InFlight left c.q c.idx c.d := by
    rw [hq, h.queue, hi, hd]
    exact h.fly.of_streams hstreams
  obtain ⟨hqueues, hretired, y, hy, hwork⟩ := retire_left hfly ((runOf c.d).res x c) hfin
  refine ⟨fun e he => ?_, hretired, y, hy.trans (State.work_of_holdings hheld), hwork⟩
  rw [State.engQ_of_cores hqueues, ← h.core]
  exact hfree e he

/-- With no piece left the command retires, and its engines find nothing more to do. -/
theorem Stands.over {k eng : Nat} (h : Stands s q x m) (ht : Turn s q k) (hwait : ∀ c ∈ s.waiting (s.qCore q), c < 1024)
    (heng : eng ∈ engsOf m.d) (hscree : hOpcode m.d ≠ 0x86 ∧ hOpcode m.d ≠ 0x87) (hset : s.reentering (s.qCore q) = []) (hw : m.waited = true)
    (hprep : (runOf m.d).prep x m = .over c) (hc : c.ident = m.ident) (hclaims : c.streamed = false ∧ c.posted = false)
    (hfin : ((runOf c.d).finish c).Keeps State.standing) :
    let t := (Act.engine (s.qCore q) eng (n + 1)).run x
    ∃ y z : State, y.work c.core c.ctx = x.work c.core c.ctx ∧ t.work c.core c.ctx = (((runOf c.d).finish c).run y).work c.core c.ctx ∧
      Retired t c.q c.idx c.d ((runOf c.d).res z c) ((runOf c.d).res2 c) := by
  intro t
  obtain ⟨-, hq, -⟩ := Cmd.ident_iff.1 hc
  let begun := (Act.bundleStart c).run x
  have hbegun : Stands s q begun m := h.bundleStart (hq.trans h.queue)
  obtain ⟨hfree, hretired, y, hy, hwork⟩ := hbegun.retire hc hset hfin
  have hrerun : x.rerunOf (s.qCore q) m.d = engsOf m.d := by
    rw [State.rerunOf, State.reentering_of_turn h.proceeds.view, hset]
    simp [hscree]
  have hrun : t = (Act.retire c).run begun := by
    have hend : (Act.pieceEnd c).run x = x := by simp [Act.pieceEnd, Act.streamBack, hclaims]
    show (Act.engine (s.qCore q) eng (n + 1)).run x = _
    rw [engine_over (h.sees ht hwait heng) hw hprep, Act.run_all_cons, hend, hrerun]
    exact Act.run_each_same fun e he => engine_empty (hfree e he)
  rw [hrun]
  exact ⟨y, begun, hy.trans (State.work_of_holdings (Act.bundleStart_keepsHoldings c x)), hwork, hretired⟩

end

end Sys2Proof.Machine
end

section
/-! SUPPORT. A TE command alone in its engine is dispatched and taken up: what dispatch changes, and what it leaves to the command's
pieces (R99 to R108). -/

namespace Sys2Proof.Machine

section
variable {s y : State} {core ctx q p k idx : Nat} {d : Desc}

/-! ### What dispatch changes -/

theorem some_else_eq_none {c : Prop} [Decidable c] {a : Nat} {r : Option Nat} :
    (if c then some a else r) = none ↔ ¬ c ∧ r = none := by split <;> simp_all

theorem header_passes {rules : OpRules} (h : s.headerReason q idx d false rules = none) :
    s.gateBad (s.qCore q) (s.qCtx q) d = false ∧ bundleBad (s.stream q) d = false := by
  simp only [State.headerReason, some_else_eq_none, Bool.not_eq_true] at h
  obtain ⟨-, -, -, hgate, -, hbundle, -⟩ := h
  exact ⟨hgate, hbundle⟩

/-- No gate of a command that passes its header checks has two roles (R99). -/
theorem roles_apart (h : s.gateBad core ctx d = false) : ((hRoles d).map Prod.fst).Nodup := by
  simp only [State.gateBad] at h
  split at h
  · rename_i hempty
    simp [List.isEmpty_iff.1 hempty]
  · simp only [Bool.or_eq_false_iff, Bool.not_eq_false', decide_eq_true_eq] at h
    exact h.2

theorem Stream.push_fly (t : Stream) (d : Desc) (g : Fly) : ∃ f : Fly, (t.push d g).fly = t.fly ++ [f] ∧ f.idx = g.idx ∧ f.d = g.d :=
  ⟨_, rfl, rfl, rfl⟩

theorem bundle_push {t : Stream} {f : Fly} (hbad : bundleBad t d = false) (hf : f.done = false ∧ f.d = d) (hrun : t.running ≠ []) :
    (t.push d f).running ≠ [] := by
  obtain ⟨r, hr⟩ := List.exists_mem_of_ne_nil _ hrun
  obtain ⟨hon, hdue⟩ := List.mem_filter.1 hr
  refine List.ne_nil_of_mem (a := r) (List.mem_filter.2 ⟨hon, ?_⟩)
  simp only [Stream.blastDue, Bool.or_eq_true, Bool.and_eq_true, bne_iff_ne, ne_eq, beq_iff_eq] at hdue ⊢
  rcases hdue with ⟨hopen, hbun⟩ | hfly
  · have hb : hBundle d = t.bundle := by
      simp only [bundleBad, hopen, ne_eq, not_false_eq_true, if_true, Bool.or_eq_false_iff, bne_eq_false_iff_eq] at hbad
      exact hbad.1
    have hb0 : hBundle d ≠ 0 := hb ▸ hopen
    cases hblast : hBlast d with
    | true => exact .inr (by simp [Stream.push, hb0, hopen, hbun, hf, hblast])
    | false => exact .inl ⟨by simp [Stream.push, hblast, hb0], by simp [Stream.push, hopen, hbun]⟩
  · exact .inr (by simp only [Stream.push, List.any_append, hfly, Bool.true_or])

theorem Act.ctxCore_keepsWork {c x : Nat} {f : CtxCore → CtxCore} (h : ∀ y, (f y).grp = y.grp ∧ (f y).dgrp = y.dgrp) :
    (Act.ctxCore c x f).Keeps (State.work core ctx) := fun s => by
  refine State.work_iff.2 ⟨rfl, rfl, rfl, ?_, ?_⟩ <;> (rw [State.ctxCore_run]; split) <;> simp_all [State.ctxCore, State.work]
theorem Act.ctxCore_keepsGates {c x : Nat} {f : CtxCore → CtxCore} (h : ∀ y, (f y).gates = y.gates) :
    (Act.ctxCore c x f).Keeps (State.gates core ctx) := fun s => by
  rw [State.gates, State.ctxCore_run]
  split
  · rename_i he; rw [h, State.gates, State.ctxCore, State.ctxCore, he]
  · rfl

/-- What dispatch of a command leaves, beside its queue's stream: what rotation is read from, the engines' queues, memory, groups and
gates. -/
def State.undispatched (core ctx : Nat) (s : State) :=
  (s.turnView, s.u.core.engQ, s.work core ctx, s.gates core ctx)

theorem Act.keepsUndispatched {a : Act} (hview : a.Keeps State.turnView) (hqueue : a.KeepsQueues) (hheld : a.Keeps State.holdings) :
    a.Keeps (State.undispatched core ctx) := fun s => by
  have hqueue := hqueue s
  simp only at hqueue
  rw [State.undispatched, hview s, hqueue, State.work_of_holdings (hheld s), State.gates_of_holdings (hheld s), State.undispatched]

theorem Act.ctxCore_keepsUndispatched {c x : Nat} {f : CtxCore → CtxCore}
    (h : ∀ y, (f y).saved = y.saved ∧ (f y).grp = y.grp ∧ (f y).dgrp = y.dgrp ∧ (f y).gates = y.gates) :
    (Act.ctxCore c x f).Keeps (State.undispatched core ctx) := fun s => by
  rw [State.undispatched, ctxCore_keepsTurn (fun y => (h y).1) s, ctxCore_keepsWork (fun y => ⟨(h y).2.1, (h y).2.2.1⟩) s,
    ctxCore_keepsGates (fun y => (h y).2.2.2) s]
  rfl

theorem Act.fld_keepsUndispatched {n : EName} {i a b c v : Nat} (hn : n ∉ turnEntries) :
    (Act.fld n i a b c v).Keeps (State.undispatched core ctx) :=
  keepsUndispatched (fld_keepsTurn hn) (fld_keeps_u (g := fun u => u.core.engQ)) fld_keepsHoldings

theorem Act.inFlight_keepsUndispatched : (Act.inFlight p k q idx d).Keeps (State.undispatched core ctx) := keeps_all fun a ha => by
  simp only [List.mem_cons, List.not_mem_nil, or_false] at ha
  obtain rfl | rfl | rfl | rfl | rfl | rfl := ha
  · exact keepsUndispatched (core_keepsTurn_of fun _ => ⟨rfl, rfl, rfl⟩) (fun _ => rfl) (core_keepsHoldings fun _ => rfl)
  · exact keeps_get fun _ => keepsUndispatched stream_keepsTurn (fun _ => rfl) (core_keepsHoldings fun _ => rfl)
  · exact keeps_get fun _ => ctxCore_keepsUndispatched fun _ => ⟨rfl, rfl, rfl, rfl⟩
  · exact keepsUndispatched (slot_keepsTurn fun _ => ⟨rfl, rfl, rfl⟩) (fun _ => rfl) (core_keepsHoldings fun _ => rfl)
  · exact keeps_get fun _ => keeps_when fun _ => fld_keepsUndispatched (by decide)
  · exact keepsUndispatched (reg_keepsTurn (by decide)) (reg_keeps_u (g := fun u => u.core.engQ)) reg_keepsHoldings

/-- The stream of a queue whose command goes into flight takes it, and the others stay. -/
theorem inFlight_streams : ∃ ser, ∀ j, ((Act.inFlight p k q idx d).run s).stream j =
    if j = q then (s.stream q).push d { idx := idx, d := d, ser := ser } else s.stream j := by
  refine ⟨s.u.core.serial + 1, fun j => ?_⟩
  have hrest (x : State) : ((Act.all [.get fun s => .ctxCore p (s.qCtx q) fun x => { x with fetch := x.fetch.drop 1 },
      .slot p k fun sl => { sl with cur := some q, run := if sl.cur = some q then sl.run + 1 else 1 },
      .get fun s => .when (s.fld .columnState 0 (p / 12 * 4) 0 2 == 1) (.fld .columnState 0 (p / 12 * 4) 0 2 0),
      .reg .deviceState 0 0]).run x).u.core.streams = x.u.core.streams := by
    refine Act.keeps_all (f := fun s : State => s.u.core.streams) (fun a ha => ?_) x
    simp only [List.mem_cons, List.not_mem_nil, or_false] at ha
    obtain rfl | rfl | rfl | rfl := ha
    · exact Act.keeps_get fun _ _ => rfl
    · exact fun _ => rfl
    · exact Act.keeps_get fun _ => Act.keeps_when fun _ => Act.fld_keeps_u (g := fun u => u.core.streams)
    · exact Act.reg_keeps_u (g := fun u => u.core.streams)
  rw [State.stream, Act.inFlight, Act.run_all_cons, Act.run_all_cons, hrest, ← State.stream, Act.run_get, State.stream_run]
  rfl

theorem teDispatch_keeps {α : Type} {f : State → α}
    (h : ∀ g : CtxCore → Tab Group, (Act.ctxCore core ctx fun y => { y with dgrp := g y }).Keeps f) : (teDispatch core ctx d).Keeps f := by
  unfold teDispatch
  exact Act.keeps_ite (fun _ => h fun c => tset c.dgrp _ _) fun _ => Act.keeps_ite (fun _ => h fun c => tdel c.dgrp _) fun _ =>
    Act.keeps_skip

/-- Dispatch changes the groups that later checks see, and those alone. -/
theorem teDispatch_work (h : y.work core ctx = s.work core ctx) :
    ((teDispatch core ctx d).run y).work core ctx = ((teDispatch core ctx d).run s).work core ctx := by
  obtain ⟨hst, hho, hsc, hgrp, hdgrp⟩ := State.work_iff.1 h
  have hedit (g : Tab Group → Tab Group) : ((Act.ctxCore core ctx fun c => { c with dgrp := g c.dgrp }).run y).work core ctx =
      ((Act.ctxCore core ctx fun c => { c with dgrp := g c.dgrp }).run s).work core ctx := by
    refine State.work_iff.2 ⟨hst, hho, hsc, ?_, ?_⟩ <;> simp only [State.work, State.ctxCore_run_same] at *
    · exact hgrp
    · rw [hdgrp]
  unfold teDispatch
  split
  · exact hedit fun l => tset l _ _
  · split
    · exact hedit fun l => tdel l _
    · exact h

/-- A command enters its engines' queues, which are empty (R103). -/
theorem enqueue_alone {m : Cmd} (hfree : ∀ e ∈ engsOf m.d, s.engQ m.core e = []) : Alone ((Act.enqueue m).run s) m := fun e he => by
  rw [Act.enqueue, Act.run_get, run_each_engQ (engsOf_nodup _), if_pos he, hfree e he]
  split <;> rfl
theorem Act.enqueue_keeps {α : Type} {f : State → α} {m : Cmd} (h : ∀ c e g, (Act.engQ c e g).Keeps f) : (Act.enqueue m).Keeps f :=
  keeps_get fun _ => keeps_each fun _ _ => h _ _ _

end

/-! ### A TE command in its engine -/

section
variable {s : State} {q k n : Nat} {d : Desc}

theorem cmdOf_of_te (hte : opClass (hOpcode d) = some 2) : s.cmdOf q d =
    { q := q, idx := (s.stream q).next, d := d, ctx := s.qCtx q, core := s.qCore q, bun := (s.stream q).bunOf d,
      ser := s.u.core.serial + 1 } := by
  have hne : ¬(hOpcode d = 0x86 ∨ hOpcode d = 0x87) := by
    rintro (h | h) <;> rw [h] at hte <;> exact absurd hte (by decide)
  rw [State.cmdOf, State.newCmd, if_neg hne]

theorem engsOf_te (hte : opClass (hOpcode d) = some 2) : engsOf d = [hEngine d] := by simp [engsOf, hte]
theorem leadOf_te (hte : opClass (hOpcode d) = some 2) : leadOf d = hEngine d := by simp [leadOf, hte]

/-- A TE command alone in its engine is dispatched into the engine's queue, and the engine runs (R99, R102, R103). -/
theorem Lone.dispatch_run (h : Lone s q k d) (hte : opClass (hOpcode d) = some 2) {row : Desc → Bool} (hrow : row d = true) :
    (Act.desc row q d).run s = (Act.runEngine (s.qCore q) (hEngine d)).run (s.queued q k d) := by
  have hfull : s.fullQueues (s.qCore q) d = [] := by
    rw [State.fullQueues, engsOf_te hte, List.filter_eq_nil_iff]
    intro e he
    rw [h.free e (List.mem_append.2 (.inl (engsOf_te hte ▸ he)))]
    decide
  have hgoes : s.mustWait (s.qCore q) q (s.qCtx q) d = false := by rw [mustWait_ready h.toReady, if_neg h.engine, hfull]; rfl
  have hop : (hOpcode d == 0x84) = false := beq_eq_false_iff_ne.2 fun e => by rw [e] at hte; exact absurd hte (by decide)
  rw [desc_ready h.toReady hrow, hgoes, if_neg (by decide), if_neg h.engine, h.check, leadOf_te hte]
  simp only [hop, Act.when_false, Act.run_all_cons, Act.run_all_nil, Act.run_skip]
  rfl

/-- The command goes into flight: its slot goes on, and its stream holds it with no FENCE open. -/
theorem Lone.inFlight (h : Lone s q k d) (hte : opClass (hOpcode d) = some 2) :
    let x := (Act.inFlight (s.qCore q) k q (s.stream q).next d).run s
    Proceeds s x q ∧ InFlight x q (s.stream q).next d := by
  intro x
  obtain ⟨ser, hstream⟩ := inFlight_streams (s := s) (p := s.qCore q) (k := k) (q := q) (idx := (s.stream q).next) (d := d)
  have hview : x.turnView = s.turnView :=
    congrArg Prod.fst (Act.inFlight_keepsUndispatched (core := 0) (ctx := 0) (p := s.qCore q) (k := k) s)
  have hpush : x.stream q = (s.stream q).push d { idx := (s.stream q).next, d := d, ser := ser } := by rw [hstream, if_pos rfl]
  obtain ⟨f, hfly, hidx, hd⟩ := (s.stream q).push_fly d { idx := (s.stream q).next, d := d, ser := ser }
  rw [← hpush] at hfly
  refine ⟨⟨hview, fun j hj => by rw [hstream, if_neg hj], fun hruns => ?_⟩, ?_, ?_⟩
  · rw [hpush]
    exact bundle_push (header_passes h.header).2 ⟨rfl, rfl⟩ hruns
  · rw [hfly]
    exact ⟨f, List.mem_append.2 (.inr (List.mem_singleton_self _)), hidx, hd⟩
  · rw [hfly]
    intro g hg hop
    rcases List.mem_append.1 hg with hg | hg
    · exact h.fences g hg hop
    · obtain rfl := List.mem_singleton.1 hg
      rw [show g.d = d from hd] at hop
      rw [hop] at hte
      exact absurd hte (by decide)

/-- In its engine's queue the command stands alone, with memory, groups and gates as they were but for what dispatch reserved. -/
theorem Lone.queued (h : Lone s q k d) (hte : opClass (hOpcode d) = some 2) :
    Stands s q (s.queued q k d) (s.cmdOf q d) ∧
      (s.queued q k d).work (s.qCore q) (s.qCtx q) = ((teDispatch (s.qCore q) (s.qCtx q) d).run s).work (s.qCore q) (s.qCtx q) ∧
      (s.queued q k d).gates (s.qCore q) (s.qCtx q) = s.gates (s.qCore q) (s.qCtx q) := by
  obtain ⟨hproceeds, hfly⟩ := h.inFlight hte
  have hflight := Act.inFlight_keepsUndispatched (core := s.qCore q) (ctx := s.qCtx q) (p := s.qCore q) (k := k) (q := q)
    (idx := (s.stream q).next) (d := d) s
  obtain ⟨m, hm⟩ : ∃ m, m = s.cmdOf q d := ⟨_, rfl⟩
  obtain ⟨hmq, hmi, hmd, hmctx, hmcore⟩ : m.q = q ∧ m.idx = (s.stream q).next ∧ m.d = d ∧ m.ctx = s.qCtx q ∧ m.core = s.qCore q := by
    rw [hm, cmdOf_of_te hte]; exact ⟨rfl, rfl, rfl, rfl, rfl⟩
  have hreserve : Act.reserve m = teDispatch (s.qCore q) (s.qCtx q) d := by simp only [Act.reserve, hmd, hte, hmctx, hmcore]
  have hrun : s.queued q k d = (Act.enqueue m).run ((teDispatch (s.qCore q) (s.qCtx q) d).run
      ((Act.inFlight (s.qCore q) k q (s.stream q).next d).run s)) := by
    rw [State.queued, ← hm, hreserve]; rfl
  rw [hrun, ← hm]
  generalize (Act.inFlight (s.qCore q) k q (s.stream q).next d).run s = x at hproceeds hfly hflight ⊢
  simp only [State.undispatched, Prod.mk.injEq] at hflight
  obtain ⟨-, hqueue, hwork, hgates⟩ := hflight
  have hstanding : ((teDispatch (s.qCore q) (s.qCtx q) d).run x).standing = x.standing :=
    teDispatch_keeps (fun g => Act.ctxCore_keepsStanding fun _ => rfl) x
  have hdispatched := teDispatch_work (d := d) hwork
  have hreserved : ((teDispatch (s.qCore q) (s.qCtx q) d).run x).gates (s.qCore q) (s.qCtx q) = x.gates (s.qCore q) (s.qCtx q) :=
    teDispatch_keeps (fun g => Act.ctxCore_keepsGates fun _ => rfl) x
  generalize (teDispatch (s.qCore q) (s.qCtx q) d).run x = y at hstanding hdispatched hreserved ⊢
  simp only [State.standing, Prod.mk.injEq] at hstanding
  obtain ⟨hview, hstreams, hqueues⟩ := hstanding
  have hheld := Act.enqueue_keeps (m := m) Act.engQ_keepsHoldings y
  have hpassed := Act.enqueue_keeps (m := m) Act.engQ_keepsTurn y
  have hpassedStreams : ((Act.enqueue m).run y).u.core.streams = y.u.core.streams :=
    Act.enqueue_keeps (f := fun s : State => s.u.core.streams) (fun _ _ _ _ => rfl) y
  refine ⟨⟨hproceeds.of_same (hpassed.trans hview) (hpassedStreams.trans hstreams), enqueue_alone fun e he => ?_, hmq, hmcore, hmctx, ?_⟩,
    (State.work_of_holdings hheld).trans hdispatched, (State.gates_of_holdings hheld).trans (hreserved.trans hgates)⟩
  · rw [State.engQ_of_cores (hqueues.trans hqueue), hmcore]
    exact h.free e (List.mem_append.2 (.inl (hmd ▸ he)))
  · rw [hmi, hmd]
    exact hfly.of_streams (hpassedStreams.trans hstreams)

/-- Its engine takes the command up: its WAIT units are claimed, and its pieces can be supplied (R107, R108). -/
theorem Lone.taken (h : Lone s q k d) (hte : opClass (hOpcode d) = some 2) (hwait : ∀ c ∈ s.waiting (s.qCore q), c < 1024)
    (hsup : Supplied s q d n) {row : Desc → Bool} (hrow : row d = true) :
    ∃ x, (Act.desc row q d).run s = (Act.engine (s.qCore q) (hEngine d) 4194303).run x ∧
      Stands s q x (s.taken q k d) ∧
      x.work (s.qCore q) (s.qCtx q) = ((teDispatch (s.qCore q) (s.qCtx q) d).run s).work (s.qCore q) (s.qCtx q) ∧
      Funded x (s.qCore q) (s.qCtx q) d n n := by
  obtain ⟨hstands, hwork, hgates⟩ := h.queued hte
  obtain ⟨hmd, hmctx, hmcore, hmw⟩ : (s.cmdOf q d).d = d ∧ (s.cmdOf q d).ctx = s.qCtx q ∧ (s.cmdOf q d).core = s.qCore q ∧
      (s.cmdOf q d).waited = false := by rw [cmdOf_of_te hte]; exact ⟨rfl, rfl, rfl, rfl⟩
  have hident : (s.taken q k d).ident = (s.cmdOf q d).ident := by
    obtain ⟨hd, hcore, hctx, hq, hi⟩ := latch_place d (s.queued q k d) (s.cmdOf q d)
    exact Cmd.ident_iff.2 ⟨hd, hq, hi, hcore, hctx⟩
  have hsees : Sees (s.queued q k d) (s.qCore q) (hEngine d) (s.cmdOf q d) :=
    hstands.sees h.toTurn hwait (by rw [hmd, engsOf_te hte]; exact List.mem_singleton_self _)
  have hclaim : (s.queued q k d).canClaim (s.cmdOf q d) (hWait (s.cmdOf q d).d) = true := by
    rw [hmd]
    cases hr : hWait d with
    | none => rfl
    | some r =>
      simp only [State.canClaim, hmcore, hmctx, State.gate_of_gates hgates, decide_eq_true_eq]
      exact hsup.wait r hr
  have hfund : Funded (s.queued q k d) (s.qCore q) (s.qCtx q) d n n := Funded.of_gates ⟨hsup.stream, hsup.post⟩ hgates
  refine ⟨(Act.front (s.taken q k d)).run ((Act.claim (s.cmdOf q d) (hWait (s.cmdOf q d).d)).run (s.queued q k d)), ?_, ?_, ?_, ?_⟩
  · rw [h.dispatch_run hte hrow, Act.runEngine, show engineFuel = 4194303 + 1 from rfl, engine_wait hsees hmw hclaim, hmd]
    rfl
  · exact hstands.claimed (fun _ _ => Act.claim_keepsUngated _ _) hident
  · exact (work_claimed (fun _ _ => Act.claim_keepsUngated _ _) _).trans hwork
  · exact (hfund.wait (roles_apart (header_passes h.header).1) hmd hmcore hmctx).of_gates
      (State.gates_of_holdings (Act.front_keepsHoldings _ _))

end

end Sys2Proof.Machine
end

section
/-! SUPPORT. TE_BEGIN and TE_END alone in their engine, where every number that waits for a slot of their core is a context's (R74, R77,
R81, R91, R92): what O11 says of them. -/

namespace Sys2Proof.Machine

/-! ### A command of one piece -/

section
variable {s : State} {q k : Nat} {d : Desc} {Q : Cmd → Prop} {w : Store × Store × Store × Tab Group × Tab Group}

/-- The dispatched command with its WAIT units claimed. -/
def State.upCmd (s : State) (q : Nat) (d : Desc) : Cmd := { s.cmdOf q d with waited := true }

/-- What is left to a command that has run its one piece. -/
def Finished (c : Cmd) : Prop := c.waited = true ∧ c.piece ≠ 0 ∧ c.res2 = 0

theorem upCmd_of_te (hte : opClass (hOpcode d) = some 2) : s.upCmd q d =
    { q := q, idx := (s.stream q).next, d := d, ctx := s.qCtx q, core := s.qCore q, bun := (s.stream q).bunOf d,
      ser := s.u.core.serial + 1, waited := true } := by rw [State.upCmd, cmdOf_of_te hte]

/-- A TE command of one piece runs it and retires with memory and groups as the piece leaves them. -/
theorem Lone.onePiece (h : Lone s q k d) (hte : opClass (hOpcode d) = some 2) (hwait : ∀ c ∈ s.waiting (s.qCore q), c < 1024)
    (hsup : Supplied s q d 1) {row : Desc → Bool} (hrow : row d = true) {piece : Cmd → (PieceRes → Act) → Act}
    (hrun : runOf d = { prep := Machine.onePiece, piece := piece })
    (hpiece : PieceDoes (s.qCore q) (s.qCtx q) (s.upCmd q d) Finished
      (((teDispatch (s.qCore q) (s.qCtx q) d).run s).work (s.qCore q) (s.qCtx q)) w) :
    ((Act.desc row q d).run s).work (s.qCore q) (s.qCtx q) = w ∧ Retired ((Act.desc row q d).run s) q (s.stream q).next d 0 0 := by
  obtain ⟨x, hstart, hstands, hwork, hfund⟩ := h.taken hte hwait hsup hrow
  obtain ⟨n, hn⟩ : ∃ n, 4194303 = n + 1 + 3 := ⟨4194299, rfl⟩
  rw [hn] at hstart
  have htaken : s.taken q k d = s.upCmd q d := by rw [State.taken, hrun]; rfl
  obtain ⟨m, hm⟩ : ∃ m, m = s.upCmd q d := ⟨_, rfl⟩
  obtain ⟨hmd, hmi, hmctx, hmcore, hmw, hms, hmp, hm0⟩ : m.d = d ∧ m.idx = (s.stream q).next ∧ m.ctx = s.qCtx q ∧ m.core = s.qCore q ∧
      m.waited = true ∧ m.streamed = false ∧ m.posted = false ∧ m.piece = 0 := by
    rw [hm, upCmd_of_te hte]; exact ⟨rfl, rfl, rfl, rfl, rfl, rfl, rfl, rfl⟩
  have hready (y : State) (c : Cmd) (hc : c.piece = 0) : (runOf m.d).prep y c = .ready c := by
    rw [hmd, hrun]; exact if_pos hc
  have heng : hEngine d ∈ engsOf m.d := by rw [hmd, engsOf_te hte]; exact List.mem_singleton_self _
  have hco : hOpcode m.d ≠ 0x84 := fun e => by rw [← hmd, e] at hte; exact absurd hte (by decide)
  rw [htaken, ← hm] at hstands
  rw [← hm, ← hwork, ← hmcore, ← hmctx] at hpiece
  rw [← hmcore, ← hmctx, ← hmd] at hfund
  obtain ⟨z, c, hdone, hc, hrun1, hz, hzw, -⟩ := hstands.piece h.toTurn hwait heng hco ⟨hmw, hmw⟩ (hready x m hm0) rfl ⟨hms, hmp⟩
    (fun y _ => ⟨hready y _ hm0, hready y _ hm0⟩) hpiece (a := 0) (b := 0) hfund (n := n + 1)
  obtain ⟨hcw, hcp, hc2⟩ := hdone
  obtain ⟨hcd, -, hci, hccore, hcctx⟩ := Cmd.ident_iff.1 hc
  have hrund : runOf c.rested.d = { prep := Machine.onePiece, piece := piece } := by
    rw [show c.rested.d = d from hcd.trans hmd, hrun]
  have hnone : (runOf c.rested.d).prep z c.rested = .over c.rested := by
    rw [hrund]; exact if_neg hcp
  obtain ⟨y, v, hy, hend, hretired⟩ := hz.over h.toTurn hwait (show hEngine d ∈ engsOf c.d from hcd ▸ heng) (c := c.rested)
    (by rw [show c.rested.d = d from hcd.trans hmd]; constructor <;> (intro e; rw [e] at hte; exact absurd hte (by decide)))
    h.settled hcw hnone rfl ⟨rfl, rfl⟩ (by rw [hrund]; exact Act.keeps_skip) (n := n)
  rw [show c.rested.core = m.core from hccore, show c.rested.ctx = m.ctx from hcctx] at hy hend
  rw [hrund] at hend hretired
  rw [show c.rested.q = q from hz.queue, show c.rested.idx = (s.stream q).next from hci.trans hmi,
    show c.rested.d = d from hcd.trans hmd] at hretired
  rw [show ({ prep := Machine.onePiece, piece := piece } : OpRun).res2 c.rested = 0 from hc2] at hretired
  rw [hmcore, hmctx] at hend hy hzw
  rw [hstart, hrun1]
  exact ⟨hend.trans (hy.trans hzw), hretired⟩

end

/-! ### TE_BEGIN (R74, R81) -/

section
variable {s y : State} {q k : Nat} {d : Desc}

/-- Dispatch leaves memory and the groups that the engine has. -/
theorem teDispatch_leaves (core ctx : Nat) : ((teDispatch core ctx d).run s).stack = s.stack ∧ ((teDispatch core ctx d).run s).host = s.host ∧
    ((teDispatch core ctx d).run s).scratch = s.scratch ∧ (((teDispatch core ctx d).run s).ctxCore core ctx).grp = (s.ctxCore core ctx).grp := by
  have h := teDispatch_keeps (core := core) (ctx := ctx) (d := d) (f := fun s : State => (s.stack, s.host, s.scratch, (s.ctxCore core ctx).grp))
    (fun g s => by simp only [State.ctxCore_run_same]; rfl) s
  simpa only [Prod.mk.injEq] using h

/-- A group takes its new contents, and nothing else changes. -/
theorem teGroup_work (m : Cmd) (g : Group) : ((Act.teGroup m g).run y).work m.core m.ctx =
    (y.stack, y.host, y.scratch, tset (y.ctxCore m.core m.ctx).grp (hEngine m.d * 8 + dfld m.d 0x10 0 3) g,
      (y.ctxCore m.core m.ctx).dgrp) := by
  rw [State.work, Act.teGroup, State.ctxCore_run_same]; rfl

theorem teGroup_keepsStanding (m : Cmd) (g : Group) : (Act.teGroup m g).Keeps State.standing := Act.ctxCore_keepsStanding fun _ => rfl
theorem teGroup_keepsGates (m : Cmd) (g : Group) (core ctx : Nat) : (Act.teGroup m g).Keeps (State.gates core ctx) :=
  Act.ctxCore_keepsGates fun _ => rfl

theorem preloadCells_of {m c : Cmd} (hs : y.scratch = s.scratch) (hd : m.d = c.d) (hcore : m.core = c.core) (g : Group) :
    preloadCells y m g = preloadCells s c g := by simp only [preloadCells, State.rdScr_of_scratch hs, hd, hcore]

/-- What TE_BEGIN puts into its group. -/
def State.begun (s : State) (q : Nat) (d : Desc) : Group :=
  { beginGroup d with cells := if dfld d 0x10 5 1 = 1 then preloadCells s (s.cmdOf q d) (beginGroup d) else [] }

/-- The piece of TE_BEGIN opens its group. -/
theorem teBegin_piece (hop : hOpcode d = 0x20) {w : Store × Store × Store × Tab Group × Tab Group} (hw : w.2.2.1 = s.scratch) :
    PieceDoes (s.qCore q) (s.qCtx q) (s.upCmd q d) Finished w
      (w.1, w.2.1, w.2.2.1, tset w.2.2.2.1 (hEngine d * 8 + dfld d 0x10 0 3) (s.begun q d), w.2.2.2.2) := fun y hy => by
  have hte : opClass (hOpcode d) = some 2 := by rw [hop]; rfl
  obtain ⟨m, hm⟩ : ∃ m, m = (s.upCmd q d).begun := ⟨_, rfl⟩
  obtain ⟨hmd, hmctx, hmcore, hmw, hmr⟩ : m.d = d ∧ m.ctx = s.qCtx q ∧ m.core = s.qCore q ∧ m.waited = true ∧ m.res2 = 0 := by
    rw [hm, upCmd_of_te hte]; exact ⟨rfl, rfl, rfl, rfl, rfl⟩
  obtain ⟨hst, hho, hsc, hgrp, hdgrp⟩ := State.work_iff.1 hy
  have hident : ({ m with piece := 1 } : Cmd).ident = (s.upCmd q d).ident := by rw [hm]; rfl
  have hrun : runOf (s.upCmd q d).d = teBeginRun := by rw [upCmd_of_te hte]; simp only [runOf, hop]
  have hgroup : ({ beginGroup m.d with cells := if dfld m.d 0x10 5 1 = 1 then preloadCells y m (beginGroup m.d) else [] } : Group) =
      s.begun q d := by
    rw [State.begun, hmd, preloadCells_of (c := s.cmdOf q d) (hsc.trans hw) (by rw [hmd, cmdOf_of_te hte]) (by rw [hmcore, cmdOf_of_te hte])]
  have hheld : ((Act.needUnit unitTE m.core).run y).holdings = y.holdings := Act.needUnit_keepsHoldings y
  refine ⟨(Act.teGroup m (s.begun q d)).run ((Act.needUnit unitTE m.core).run y), { m with piece := 1 }, ⟨hmw, Nat.one_ne_zero, hmr⟩,
    hident, (teGroup_keepsStanding m _ _).trans (Act.needUnit_keepsStanding y),
    (teGroup_keepsGates m _ _ _ _).trans (State.gates_of_holdings hheld), ?_, fun k => ?_⟩
  · have hkept := State.work_iff.1 ((State.work_of_holdings hheld).trans hy)
    obtain ⟨hst, hho, hsc, hgrp, hdgrp⟩ := hkept
    rw [← hmcore, ← hmctx] at hgrp hdgrp ⊢
    rw [teGroup_work, hst, hho, hsc, hgrp, hdgrp, hmd]
  · rw [hrun, ← hm, teBeginRun]
    simp only [teBeginPiece, Act.run_get, Act.run_all_cons, Act.run_all_nil, hgroup]

/-- TE_BEGIN opens its group, empty or preloaded, and retires: what O11 says of it, where every number that waits for a slot of its core
is a context's. -/
theorem teBegin_opens (q : Fin 65536) (h : Lone s q k d) (hop : hOpcode d = 0x20) (hwait : ∀ c ∈ s.waiting (s.qCore q), c < 1024)
    (hsup : Supplied s q d 1) : Completes (.teBegin q d) s fun t =>
      tget (t.ctxCore (s.qCore q) (s.qCtx q)).grp (hEngine d * 8 + dfld d 0x10 0 3) = some { beginGroup d with
        cells := if dfld d 0x10 5 1 = 1 then preloadCells s (s.cmdOf q d) (beginGroup d) else [] } ∧
      tget (t.ctxCore (s.qCore q) (s.qCtx q)).dgrp (hEngine d * 8 + dfld d 0x10 0 3) = some (beginGroup d) ∧
      Retired t q (s.stream q).next d 0 0 ∧ SameStores s t := by
  have hte : opClass (hOpcode d) = some 2 := by rw [hop]; rfl
  obtain ⟨hst, hho, hsc, hgrp⟩ := teDispatch_leaves (s := s) (d := d) (s.qCore q) (s.qCtx q)
  have hdgrp : (((teDispatch (s.qCore q) (s.qCtx q) d).run s).ctxCore (s.qCore q) (s.qCtx q)).dgrp =
      tset (s.ctxCore (s.qCore q) (s.qCtx q)).dgrp (hEngine d * 8 + dfld d 0x10 0 3) (beginGroup d) := by
    rw [teDispatch, if_pos hop, State.ctxCore_run_same]
  obtain ⟨hwork, hretired⟩ := h.onePiece (row := isOp 0x20) hte hwait hsup (by simp [isOp, hop]) (by simp only [runOf, hop]; rfl)
    (teBegin_piece hop hsc)
  obtain ⟨hst', hho', hsc', hgrp', hdgrp'⟩ := State.work_iff.1 hwork
  refine ⟨_, rfl, ?_, ?_, hretired, hst'.trans hst, hho'.trans hho, hsc'.trans hsc⟩
  · rw [hgrp']; exact tget_tset_same _ _ _
  · rw [hdgrp']; exact (congrArg (fun t => tget t _) hdgrp).trans (tget_tset_same _ _ _)

end

/-! ### TE_END (R77, R81, R91, R92) -/

section
variable {s y : State} {core ctx q k : Nat} {d : Desc}

theorem wroteScr_append (ws vs : List (Nat × PBytes)) : y.wroteScr core (ws ++ vs) = (y.wroteScr core ws).wroteScr core vs := by
  rw [State.wroteScr, Act.each, List.map_append, Act.run_all_append]; rfl

/-- Actions that write to scratch one after another write what they write together. -/
theorem each_wroteScr {α : Type} {f : α → Act} {g : α → List (Nat × PBytes)} (h : ∀ a y, (f a).run y = y.wroteScr core (g a))
    (l : List α) (y : State) : (Act.each l f).run y = y.wroteScr core (l.flatMap g) := by
  induction l generalizing y with
  | nil => rfl
  | cons a l ih => rw [Act.run_each_cons, h, ih, List.flatMap_cons, wroteScr_append]

theorem State.store_scratch (s : State) : s.store .scratch = s.scratch := rfl

/-- What scratch holds after bytes were written depends on what it held. -/
theorem wroteScr_scratch (h : y.scratch = s.scratch) (ws : List (Nat × PBytes)) :
    (y.wroteScr core ws).scratch = (s.wroteScr core ws).scratch := by
  induction ws generalizing y s with
  | nil => exact h
  | cons a l ih =>
    have hone (x : State) : ((Act.wrScr core a.1 a.2).run x).scratch = x.scratch.write .scratch (core * 2 ^ 21 + a.1) a.2 := by
      rw [Act.wrScr, ← State.store_scratch, Act.run_mem_same, State.store_scratch]
    rw [State.wroteScr, State.wroteScr, Act.run_each_cons, Act.run_each_cons]
    exact ih (by rw [hone, hone, h])

theorem Act.wroteScr_keeps {α : Type} {f : State → α} (h : ∀ a bs, (Act.mem .scratch a bs).Keeps f) (ws : List (Nat × PBytes)) (y : State) :
    f (y.wroteScr core ws) = f y := keeps_each (fun _ _ => h _ _) y

/-- The groups of a tensor engine's context after a TE_END, as a map. -/
def State.groupsAfterEnd (s : State) (m : Cmd) : Tab Group :=
  let g := s.teGroup m
  let old := (s.ctxCore m.core m.ctx).grp
  let red := hEngine m.d * 8 + dfld m.d 0x10 10 3
  tdel (if g.mode = 0 ∧ dfld m.d 0x10 8 2 ≠ 0 then tset old red (foldGroup g (tgetD old red {}) (dfld m.d 0x20 0 32)) else old)
    (hEngine m.d * 8 + dfld m.d 0x10 0 3)

theorem tget_tdel_ite {a b : Prop} [Decidable a] [Decidable b] (t : Tab Group) (own red key : Nat) (g : Group) :
    tget (tdel (if a ∧ b then tset t red g else t) own) key =
      if key = own then none else if a ∧ b ∧ key = red then some g else tget t key := by
  by_cases hkey : key = own
  · rw [if_pos hkey, hkey, tget_tdel_same]
  · rw [if_neg hkey, tget_tdel_other _ hkey]
    by_cases ha : a <;> by_cases hb : b <;> simp [ha, hb, tget_tset]

theorem tget_groupsAfterEnd (s : State) (m : Cmd) (key : Nat) : tget (s.groupsAfterEnd m) key = s.groupAfterEnd m key := by
  rw [State.groupsAfterEnd, State.groupAfterEnd, tget_tdel_ite]

/-- The end of a TE_END: a change of its context's groups to `G`, after its writes. -/
theorem ends_work {a : Act} {G : Tab Group} {w : Store × Store × Store × Tab Group × Tab Group} (ws : List (Nat × PBytes))
    (hstanding : a.Keeps State.standing) (hgates : a.Keeps (State.gates core ctx))
    (ha : ∀ v : State, (v.ctxCore core ctx).grp = w.2.2.2.1 → (a.run v).work core ctx =
      (v.stack, v.host, v.scratch, G, (v.ctxCore core ctx).dgrp))
    (hy : y.work core ctx = w) (hs : w.2.2.1 = s.scratch) :
    let z := a.run (((Act.needUnit unitTE core).run y).wroteScr core ws)
    z.standing = y.standing ∧ z.gates core ctx = y.gates core ctx ∧
      z.work core ctx = (w.1, w.2.1, (s.wroteScr core ws).scratch, G, w.2.2.2.2) := by
  have hheld : ((Act.needUnit unitTE core).run y).holdings = y.holdings := Act.needUnit_keepsHoldings y
  have hneed : ((Act.needUnit unitTE core).run y).standing = y.standing := Act.needUnit_keepsStanding y
  obtain ⟨hst, hho, hsc, hgrp, hdgrp⟩ := State.work_iff.1 ((State.work_of_holdings hheld).trans hy)
  have hheldGates := State.gates_of_holdings (core := core) (ctx := ctx) hheld
  generalize (Act.needUnit unitTE core).run y = u at *
  have hu : (u.wroteScr core ws).u = u.u := Act.wroteScr_keeps (f := State.u) (fun _ _ => Act.mem_keeps_u (g := id)) ws u
  have hcc : (u.wroteScr core ws).ctxCore core ctx = u.ctxCore core ctx := by rw [State.ctxCore, hu, State.ctxCore]
  refine ⟨(hstanding _).trans ((Act.wroteScr_keeps (fun _ _ => Act.mem_keepsStanding) ws u).trans hneed), ?_, ?_⟩
  · rw [hgates, ← hheldGates, State.gates, hcc, State.gates]
  · rw [ha _ ((congrArg CtxCore.grp hcc).trans hgrp), hcc, hdgrp, wroteScr_scratch (hsc.trans hs),
      Act.wroteScr_keeps (f := State.stack) (fun a bs x => Act.run_mem_other .scratch .stack a bs x (by decide)) ws u,
      Act.wroteScr_keeps (f := State.host) (fun a bs x => Act.run_mem_other .scratch .host a bs x (by decide)) ws u, hst, hho]

/-- Rows with their scales, written one after another. -/
theorem rows_wroteScr (skip scaled : Prop) [Decidable skip] [Decidable scaled] (n : Nat) (F : Nat → RowOut) (elemsAt scalesAt : Nat → Nat) (y : State) :
    (Act.each (if skip then [] else (List.range n).map F).zipIdx fun (r, i) => .seq (.wrScr core (elemsAt i) r.elems)
      (.when (decide scaled) (.wrScr core (scalesAt i) r.scales))).run y =
    y.wroteScr core (if skip then [] else (List.range n).flatMap fun i =>
      (elemsAt i, (F i).elems) :: if scaled then [(scalesAt i, (F i).scales)] else []) := by
  split
  · rfl
  · have hrows : ((List.range n).map F).zipIdx = (List.range n).map fun i => (F i, i) :=
      List.ext_getElem (by simp) fun _ _ _ => by simp
    rw [hrows, each_wroteScr (g := fun x : RowOut × Nat =>
      (elemsAt x.2, x.1.elems) :: if scaled then [(scalesAt x.2, x.1.scales)] else []), List.flatMap_map]
    rintro ⟨r, i⟩ y
    by_cases h : scaled <;> simp only [h, decide_true, decide_false, Act.when_true, Act.when_false] <;> rfl

/-- A group is folded into a reduction group, where TE_END says so, and a group is closed (R81, R91). -/
def Act.teFold (m : Cmd) (g : Group) : Act := .when (dfld m.d 0x10 8 2 != 0) (.ctxCore m.core m.ctx fun c => { c with
  grp := tset c.grp (hEngine m.d * 8 + dfld m.d 0x10 10 3)
    (foldGroup g (tgetD c.grp (hEngine m.d * 8 + dfld m.d 0x10 10 3) {}) (dfld m.d 0x20 0 32)) })
def Act.teClose (m : Cmd) : Act := .ctxCore m.core m.ctx fun c => { c with grp := tdel c.grp (hEngine m.d * 8 + dfld m.d 0x10 0 3) }

/-- The command after its one piece, with what it counted and whether it wrote poison. -/
def Cmd.ended (m : Cmd) (poison : Bool) (mon : MonDelta) : Cmd := Cmd.addMon { m with piece := 1, poison := poison } mon

/-- The records that a reduction group gives, and the rows that a SUM group writes (R77, R92). -/
def Group.records (g : Group) : List (PBytes × Conv × Bool) := (List.range g.m).map fun r => redRecord (tget g.cells r)
def Group.endRows (g : Group) (d : Desc) : List RowOut :=
  if dfld d 0x10 8 2 = 1 then []
  else (List.range g.m).map (g.outRow ((dfmt (dfld d 0x10 3 4)).getD .fp32) (dfld d 0x10 7 1 == 1))

/-- A reduction group writes its records and closes. -/
theorem teEndPiece_records {m : Cmd} {g : Group} (hg : y.teGroup m = g) (hmode : g.mode ≠ 0) (k : PieceRes → Act) :
    (teEndPiece m k).run y =
      (k (.done (m.ended (g.records.any fun r => r.2.2) (sumMon (g.records.map fun r => countOne r.2.1 r.2.2))))).run
        ((Act.teClose m).run (((Act.needUnit unitTE m.core).run y).wroteScr m.core (y.ended m))) := by
  have hwrites : y.ended m = [(dfld m.d 0x10 32 21, g.records.flatMap fun r => r.1)] := by
    rw [State.ended, hg, if_pos hmode, Group.records, List.flatMap_map]
  rw [hwrites, teEndPiece, Act.run_get, hg, if_pos hmode]
  rfl

/-- A SUM group writes its rows unless it only folds, folds where it says so, and closes. -/
theorem teEndPiece_sums {m : Cmd} {g : Group} (hg : y.teGroup m = g) (hmode : g.mode = 0) (k : PieceRes → Act) :
    (teEndPiece m k).run y =
      (k (.done (m.ended ((g.endRows m.d).any RowOut.poison) (sumMon ((g.endRows m.d).map RowOut.mon))))).run
        ((Act.seq (.teFold m g) (.teClose m)).run (((Act.needUnit unitTE m.core).run y).wroteScr m.core (y.ended m))) := by
  have hwrites : (y.ended m) = if dfld m.d 0x10 8 2 = 1 then [] else (List.range g.m).flatMap fun i =>
      let r := g.outRow ((dfmt (dfld m.d 0x10 3 4)).getD .fp32) (dfld m.d 0x10 7 1 == 1) i
      (dfld m.d 0x10 32 21 + i * dfld m.d 0x18 32 21, r.elems) ::
        if ((dfmt (dfld m.d 0x10 3 4)).getD .fp32).mx then
          [(dfld m.d 0x18 0 21 + i * (dfld m.d 0x18 32 21 / ((dfmt (dfld m.d 0x10 3 4)).getD .fp32).blockBytes), r.scales)] else [] := by
    rw [State.ended, hg, if_neg (not_not.2 hmode)]
  have hrows := rows_wroteScr (core := m.core) (dfld m.d 0x10 8 2 = 1) (((dfmt (dfld m.d 0x10 3 4)).getD .fp32).mx = true) g.m
    (g.outRow ((dfmt (dfld m.d 0x10 3 4)).getD .fp32) (dfld m.d 0x10 7 1 == 1)) (fun i => dfld m.d 0x10 32 21 + i * dfld m.d 0x18 32 21)
    (fun i => dfld m.d 0x18 0 21 + i * (dfld m.d 0x18 32 21 / ((dfmt (dfld m.d 0x10 3 4)).getD .fp32).blockBytes))
    ((Act.needUnit unitTE m.core).run y)
  rw [hwrites, ← hrows, teEndPiece, Act.run_get, hg, if_neg (not_not.2 hmode), Bool.decide_eq_true]
  rfl

theorem teClose_work (m : Cmd) : ((Act.teClose m).run y).work m.core m.ctx = (y.stack, y.host, y.scratch,
    tdel (y.ctxCore m.core m.ctx).grp (hEngine m.d * 8 + dfld m.d 0x10 0 3), (y.ctxCore m.core m.ctx).dgrp) := by
  rw [State.work, Act.teClose, State.ctxCore_run_same]; rfl
theorem teClose_keepsStanding (m : Cmd) : (Act.teClose m).Keeps State.standing := Act.ctxCore_keepsStanding fun _ => rfl
theorem teClose_keepsGates (m : Cmd) : (Act.teClose m).Keeps (State.gates core ctx) := Act.ctxCore_keepsGates fun _ => rfl

theorem teFold_work (m : Cmd) (g : Group) : ((Act.teFold m g).run y).work m.core m.ctx = (y.stack, y.host, y.scratch,
    (if dfld m.d 0x10 8 2 ≠ 0 then tset (y.ctxCore m.core m.ctx).grp (hEngine m.d * 8 + dfld m.d 0x10 10 3)
      (foldGroup g (tgetD (y.ctxCore m.core m.ctx).grp (hEngine m.d * 8 + dfld m.d 0x10 10 3) {}) (dfld m.d 0x20 0 32))
      else (y.ctxCore m.core m.ctx).grp), (y.ctxCore m.core m.ctx).dgrp) := by
  by_cases hdest : dfld m.d 0x10 8 2 = 0
  · rw [if_neg (not_not.2 hdest), Act.teFold, bne_eq_false_iff_eq.2 hdest]; rfl
  · rw [if_pos hdest, Act.teFold, bne_iff_ne.2 hdest, Act.when_true, State.work, State.ctxCore_run_same]; rfl
theorem teFold_keepsStanding (m : Cmd) (g : Group) : (Act.teFold m g).Keeps State.standing :=
  Act.keeps_when fun _ => Act.ctxCore_keepsStanding fun _ => rfl
theorem teFold_keepsGates (m : Cmd) (g : Group) : (Act.teFold m g).Keeps (State.gates core ctx) :=
  Act.keeps_when fun _ => Act.ctxCore_keepsGates fun _ => rfl

theorem ended_of_ident {m c : Cmd} (h : m.ident = c.ident) : s.ended m = s.ended c ∧ s.groupsAfterEnd m = s.groupsAfterEnd c := by
  obtain ⟨hd, -, -, hcore, hctx⟩ := Cmd.ident_iff.1 h
  cases m
  cases c
  cases hd
  cases hcore
  cases hctx
  exact ⟨rfl, rfl⟩

/-- What a TE_END writes depends on its group alone. -/
theorem ended_of_group {m : Cmd} (h : y.teGroup m = s.teGroup m) : y.ended m = s.ended m := by
  simp only [State.ended, h]

/-- The piece of a TE_END writes what its group gives and then changes its context's groups alone, in both modes (R77, R81, R91). -/
theorem teEnd_acts {m : Cmd} (hg : y.teGroup m = s.teGroup m) : ∃ (a : Act) (poison : Bool) (mon : MonDelta),
    a.Keeps State.standing ∧ a.Keeps (State.gates m.core m.ctx) ∧
      (∀ v : State, (v.ctxCore m.core m.ctx).grp = (s.ctxCore m.core m.ctx).grp → (a.run v).work m.core m.ctx =
        (v.stack, v.host, v.scratch, s.groupsAfterEnd m, (v.ctxCore m.core m.ctx).dgrp)) ∧
      ∀ k : PieceRes → Act, (teEndPiece m k).run y = (k (.done (m.ended poison mon))).run
        (a.run (((Act.needUnit unitTE m.core).run y).wroteScr m.core (s.ended m))) := by
  rw [← ended_of_group hg]
  by_cases hmode : (s.teGroup m).mode = 0
  · refine ⟨_, _, _, Act.keeps_seq (teFold_keepsStanding m _) (teClose_keepsStanding m),
      Act.keeps_seq (teFold_keepsGates m _) (teClose_keepsGates m), fun v hv => ?_, teEndPiece_sums hg hmode⟩
    obtain ⟨hst, hho, hsc, hgrp, hdgrp⟩ := State.work_iff.1 (teFold_work (y := v) m (s.teGroup m))
    rw [Act.run_seq, teClose_work, hst, hho, hsc, hgrp, hdgrp, hv]
    simp only [State.groupsAfterEnd, hmode, true_and]
  · refine ⟨_, _, _, teClose_keepsStanding m, teClose_keepsGates m, fun v hv => ?_, teEndPiece_records hg hmode⟩
    rw [teClose_work, hv]
    simp only [State.groupsAfterEnd, hmode, false_and, if_false]

/-- The piece of TE_END writes, folds where it says so, and closes its group. -/
theorem teEnd_piece (hop : hOpcode d = 0x22) {w : Store × Store × Store × Tab Group × Tab Group} (hw : w.2.2.1 = s.scratch)
    (hg : w.2.2.2.1 = (s.ctxCore (s.qCore q) (s.qCtx q)).grp) :
    PieceDoes (s.qCore q) (s.qCtx q) (s.upCmd q d) Finished w
      (w.1, w.2.1, (s.wroteScr (s.qCore q) (s.ended (s.cmdOf q d))).scratch, s.groupsAfterEnd (s.cmdOf q d), w.2.2.2.2) := fun y hy => by
  have hte : opClass (hOpcode d) = some 2 := by rw [hop]; rfl
  obtain ⟨m, hm⟩ : ∃ m, m = (s.upCmd q d).begun := ⟨_, rfl⟩
  obtain ⟨hmctx, hmcore, hmw, hmr⟩ : m.ctx = s.qCtx q ∧ m.core = s.qCore q ∧ m.waited = true ∧ m.res2 = 0 := by
    rw [hm, upCmd_of_te hte]; exact ⟨rfl, rfl, rfl, rfl⟩
  have hident : m.ident = (s.upCmd q d).ident := by rw [hm]; rfl
  have hrun : runOf (s.upCmd q d).d = teEndRun := by rw [upCmd_of_te hte]; simp only [runOf, hop]
  obtain ⟨hended, hgroups⟩ := ended_of_ident (s := s) (m := s.cmdOf q d) (c := m) (by rw [hm]; rfl)
  rw [hrun, ← hm, hended, hgroups]
  rw [← hmcore, ← hmctx] at hg hy ⊢
  have hgroup : y.teGroup m = s.teGroup m := by
    obtain ⟨-, -, -, hgrp, -⟩ := State.work_iff.1 hy
    rw [State.teGroup, State.teGroup, hgrp, hg]
  obtain ⟨a, poison, mon, hstanding, hgates, hwork, hpiece⟩ := teEnd_acts hgroup
  obtain ⟨hz, hzgates, hzwork⟩ := ends_work (s.ended m) hstanding hgates (fun v hv => hwork v (hv.trans hg)) hy hw
  exact ⟨_, m.ended poison mon, ⟨hmw, Nat.one_ne_zero, hmr⟩, hident, hz, hzgates, hzwork, fun k => hpiece k⟩

/-- TE_END writes the rows or records of its group, folds its sums where it says so, closes the group and retires: what O11 says of it,
where every number that waits for a slot of its core is a context's. -/
theorem teEnd_closes (q : Fin 65536) (h : Lone s q k d) (hop : hOpcode d = 0x22) (hwait : ∀ c ∈ s.waiting (s.qCore q), c < 1024)
    (hsup : Supplied s q d 1) : Completes (.teEnd q d) s fun t =>
      (∀ g, tget (t.ctxCore (s.qCore q) (s.qCtx q)).grp g = s.groupAfterEnd (s.cmdOf q d) g) ∧
      tget (t.ctxCore (s.qCore q) (s.qCtx q)).dgrp (hEngine d * 8 + dfld d 0x10 0 3) = none ∧
      SameStores (s.wroteScr (s.qCore q) (s.ended (s.cmdOf q d))) t ∧ Retired t q (s.stream q).next d 0 0 := by
  have hte : opClass (hOpcode d) = some 2 := by rw [hop]; rfl
  obtain ⟨hst, hho, hsc, hgrp⟩ := teDispatch_leaves (s := s) (d := d) (s.qCore q) (s.qCtx q)
  have hdgrp : (((teDispatch (s.qCore q) (s.qCtx q) d).run s).ctxCore (s.qCore q) (s.qCtx q)).dgrp =
      tdel (s.ctxCore (s.qCore q) (s.qCtx q)).dgrp (hEngine d * 8 + dfld d 0x10 0 3) := by
    rw [teDispatch, if_neg (by rw [hop]; decide), if_pos hop, State.ctxCore_run_same]
  obtain ⟨hwork, hretired⟩ := h.onePiece (row := isOp 0x22) hte hwait hsup (by simp [isOp, hop]) (by simp only [runOf, hop]; rfl)
    (teEnd_piece hop hsc hgrp)
  obtain ⟨hst', hho', hsc', hgrp', hdgrp'⟩ := State.work_iff.1 hwork
  refine ⟨_, rfl, fun g => ?_, ?_, ⟨?_, ?_, hsc'⟩, hretired⟩
  · rw [hgrp', tget_groupsAfterEnd]
  · rw [hdgrp']; exact (congrArg (fun t => tget t _) hdgrp).trans (tget_tdel_same _ _)
  · rw [Act.wroteScr_keeps (f := State.stack) (fun a bs x => Act.run_mem_other .scratch .stack a bs x (by decide))]
    exact hst'.trans hst
  · rw [Act.wroteScr_keeps (f := State.host) (fun a bs x => Act.run_mem_other .scratch .host a bs x (by decide))]
    exact hho'.trans hho

end

end Sys2Proof.Machine
end

section
/-! SUPPORT. TE_ACCUMULATE alone in its engine, where every number that waits for a slot of its core is a context's (R72, R81, R84, R89,
R90): what O12 says of it. -/

namespace Sys2Proof.Machine

/-! ### The tiles that are left (R72, R89) -/

/-- The present tiles from tile `i` on. -/
def tilesFrom (d : Desc) (mask : PBytes) (i : Nat) : List Nat :=
  (List.range' i (accTiles d - i)).filter fun i => dfld d 0x10 40 1 == 0 || (maskBit mask i).1

/-- No mask byte that the command looks at is poisoned. -/
def CleanMask (m : Cmd) : Prop := ∀ i < accTiles m.d, dfld m.d 0x10 40 1 = 0 ∨ (maskBit m.mask i).2 = false

section
variable {d : Desc} {m : Cmd} {mask : PBytes} {i j n : Nat} {l : List Nat}

theorem tilesPresent_eq (m : Cmd) : tilesPresent m = tilesFrom m.d m.mask 0 := by
  rw [tilesPresent, tilesFrom, List.range_eq_range', Nat.sub_zero]

theorem tilesFrom_end (h : accTiles d ≤ i) : tilesFrom d mask i = [] := by
  rw [tilesFrom, Nat.sub_eq_zero_of_le h]; rfl

theorem tilesFrom_next (h : i < accTiles d) : tilesFrom d mask i =
    if dfld d 0x10 40 1 = 0 ∨ (maskBit mask i).1 = true then i :: tilesFrom d mask (i + 1) else tilesFrom d mask (i + 1) := by
  obtain ⟨k, hk⟩ : ∃ k, accTiles d - i = k + 1 := ⟨accTiles d - i - 1, by omega⟩
  rw [tilesFrom, tilesFrom, show accTiles d - (i + 1) = k by omega, hk, List.range'_succ, List.filter_cons]
  simp

theorem accTiles_le (d : Desc) : accTiles d ≤ 256 := by
  have : dfld d 0x10 16 8 < 256 := bits_lt _ _ _
  rw [accTiles]
  omega

theorem tilesFrom_length (d : Desc) (mask : PBytes) : (tilesFrom d mask 0).length ≤ 256 :=
  (List.length_filter_le _ _).trans (by rw [List.length_range']; exact accTiles_le d)

/-- Under a clean mask the command's next piece is its first present tile, and it is over when none is left. -/
theorem nextTile_tilesFrom (hclean : CleanMask m) (hn : accTiles m.d < i + n) :
    (tilesFrom m.d m.mask i = [] ∧ ∃ j, nextTile m n i = .over { m with piece := j }) ∨
      ∃ j, tilesFrom m.d m.mask i = j :: tilesFrom m.d m.mask (j + 1) ∧ tilesFrom m.d m.mask j = tilesFrom m.d m.mask i ∧
        nextTile m n i = .ready { m with piece := j } := by
  induction n generalizing i with
  | zero => exact .inl ⟨tilesFrom_end (by omega), i, rfl⟩
  | succ n ih =>
    rw [nextTile]
    by_cases hend : accTiles m.d ≤ i
    · exact .inl ⟨tilesFrom_end hend, i, if_pos hend⟩
    · rw [if_neg hend, tilesFrom_next (Nat.lt_of_not_le hend)]
      by_cases hflag : dfld m.d 0x10 40 1 = 0
      · exact .inr ⟨i, if_pos (.inl hflag), tilesFrom_next (Nat.lt_of_not_le hend), if_pos hflag⟩
      · have hgood : (maskBit m.mask i).2 = false := (hclean i (Nat.lt_of_not_le hend)).resolve_left hflag
        simp only [hflag, hgood, false_or, if_false, Bool.false_eq_true]
        by_cases hbit : (maskBit m.mask i).1 = true
        · refine .inr ⟨i, if_pos hbit, ?_, if_pos hbit⟩
          rw [tilesFrom_next (Nat.lt_of_not_le hend), if_pos (.inr hbit), if_pos hbit]
        · rw [if_neg hbit, if_neg hbit]
          exact ih (by omega)

end

/-! ### What a tile is computed from -/

section
variable {s y : State} {m c : Cmd} {core ctx : Nat}

theorem teGroup_of_ident (h : c.ident = m.ident) (y : State) : y.teGroup c = y.teGroup m := by
  obtain ⟨hd, -, -, hcore, hctx⟩ := Cmd.ident_iff.1 h
  simp only [State.teGroup, hd, hcore, hctx]

theorem teGroup_of_work (h : y.work m.core m.ctx = s.work m.core m.ctx) : y.teGroup m = s.teGroup m := by
  obtain ⟨-, -, -, hgrp, -⟩ := State.work_iff.1 h
  exact congrArg (fun t => tgetD t _ _) hgrp

theorem tilePass_of_ident (h : c.ident = m.ident) : tilePass c = tilePass { m with piece := c.piece } := by
  obtain ⟨hd, -⟩ := Cmd.ident_iff.1 h
  cases c
  cases m
  cases hd
  rfl

/-- A tile is computed from scratch, whatever piece its command is at. -/
theorem tileOperands_of_scratch (hs : y.scratch = s.scratch) (h : c.ident = m.ident) (g : Group) (i p : Nat) :
    y.tileMetadata c g p = s.tileMetadata m g p ∧ y.tileColumns c g p = s.tileColumns m g p ∧ y.tileRows c g i = s.tileRows m g i ∧
      y.tileSkips c g i p = s.tileSkips m g i p := by
  obtain ⟨hd, -, -, hcore, -⟩ := Cmd.ident_iff.1 h
  have hmeta : y.tileMetadata c g p = s.tileMetadata m g p := by
    simp only [State.tileMetadata, State.rdScr_of_scratch hs, hd, hcore]
  have hcols : y.tileColumns c g p = s.tileColumns m g p := by
    simp only [State.tileColumns, hmeta, State.rdScr_of_scratch hs, hd, hcore]
  have hrows : y.tileRows c g i = s.tileRows m g i := by
    have hrow : y.actRow c g i (tileValid m.d g.sparse i) = s.actRow m g i (tileValid m.d g.sparse i) := by
      funext row
      simp only [State.actRow, State.rdScr_of_scratch hs, hd, hcore]
    rw [State.tileRows, State.tileRows, hd, hrow]
  exact ⟨hmeta, hcols, hrows, by simp only [State.tileSkips, hcols, hrows, hd]⟩

/-! ### One tile (R84, R90, R96) -/

/-- What a tile adds to the counts of its engine. -/
def Act.tileCounts (m : Cmd) (blocks skipped rows : Nat) : Act :=
  .all [.count .teWork m.core (hEngine m.d * 6) blocks, .count .teWork m.core (hEngine m.d * 6 + 1) skipped,
    .count .teWork m.core (hEngine m.d * 6 + 2) rows, .count .teWork m.core (hEngine m.d * 6 + 4)]

theorem tileCounts_keeps {α : Type} {f : State → α} (h : ∀ i k v, (Act.count .teWork i k v).Keeps f) (m : Cmd) (a b e : Nat) :
    (Act.tileCounts m a b e).Keeps f := Act.keeps_all fun x hx => by
  simp only [List.mem_cons, List.not_mem_nil, or_false] at hx
  obtain rfl | rfl | rfl | rfl := hx <;> exact h _ _ _

/-- The command after a tile. -/
def Cmd.tiled (m : Cmd) (skipped : Nat) : Cmd := { m with piece := m.piece + 1, present := m.present + 1, res2 := m.res2 + skipped }

/-- The activation blocks that each row of tile `i` skips against the `p`-th stored weight tile. -/
def State.rowSkips (s : State) (m : Cmd) (g : Group) (i p : Nat) : List Nat :=
  let valid := tileValid m.d g.sparse i
  let bad := (List.range (cdiv valid 32)).map (weightBad (accW m.d) (s.tileColumns m g p))
  (s.tileRows m g i).map fun r => ((List.range (cdiv valid 32)).filter fun b => skipBlock (accA m.d) valid (bad.getD b true) r b).length

/-- What a tile leaves beside its group. -/
theorem tile_work {g : Group} {w : Store × Store × Store × Tab Group × Tab Group} (hy : y.work m.core m.ctx = w) (a b e : Nat) :
    let z := (Act.tileCounts m a b e).run ((Act.teGroup m g).run ((Act.needUnit unitTE m.core).run y))
    z.standing = y.standing ∧ z.gates core ctx = y.gates core ctx ∧ z.work m.core m.ctx =
      (w.1, w.2.1, w.2.2.1, tset w.2.2.2.1 (hEngine m.d * 8 + dfld m.d 0x10 0 3) g, w.2.2.2.2) := by
  have hheld : ((Act.needUnit unitTE m.core).run y).holdings = y.holdings := Act.needUnit_keepsHoldings y
  have hcounted := tileCounts_keeps (fun _ _ _ => Act.count_keepsHoldings) m a b e
    ((Act.teGroup m g).run ((Act.needUnit unitTE m.core).run y))
  obtain ⟨hst, hho, hsc, hgrp, hdgrp⟩ := State.work_iff.1 ((State.work_of_holdings hheld).trans hy)
  refine ⟨?_, ?_, ?_⟩
  · exact (tileCounts_keeps (fun _ _ _ => Act.count_keepsStanding (by decide)) m a b e _).trans
      ((teGroup_keepsStanding m g _).trans (Act.needUnit_keepsStanding y))
  · exact (State.gates_of_holdings hcounted).trans ((teGroup_keepsGates m g _ _ _).trans (State.gates_of_holdings hheld))
  · exact (State.work_of_holdings hcounted).trans (by rw [teGroup_work, hst, hho, hsc, hgrp, hdgrp])

/-- A tile with clean metadata is added to its group. -/
theorem teAccPiece_adds {g : Group} {w : Store × Store × Store × Tab Group × Tab Group} (hg : y.teGroup m = g)
    (hgood : (g.sparse && (anyPoison (y.tileMetadata m g m.present) || badMeta (y.tileMetadata m g m.present))) = false)
    (hy : y.work m.core m.ctx = w) : ∃ z : State, z.standing = y.standing ∧ z.gates core ctx = y.gates core ctx ∧
      z.work m.core m.ctx = (w.1, w.2.1, w.2.2.1, tset w.2.2.2.1 (hEngine m.d * 8 + dfld m.d 0x10 0 3)
        (tilePass m g (y.tileColumns m g m.present) (y.tileRows m g m.piece)), w.2.2.2.2) ∧
      ∀ k, (teAccPiece m k).run y = (k (.done (m.tiled (y.tileSkips m g m.piece m.present)))).run z := by
  rw [Bool.and_or_distrib_left, Bool.or_eq_false_iff] at hgood
  obtain ⟨hclean, hordered⟩ := hgood
  obtain ⟨hz, hzgates, hzwork⟩ := tile_work (core := core) (ctx := ctx)
    (g := tilePass m g (y.tileColumns m g m.present) (y.tileRows m g m.piece)) hy
    (g.m * cdiv (tileValid m.d g.sparse m.piece) 32 - y.tileSkips m g m.piece m.present) (y.tileSkips m g m.piece m.present)
    ((y.rowSkips m g m.piece m.present).filter fun x => x == cdiv (tileValid m.d g.sparse m.piece) 32).length
  refine ⟨_, hz, hzgates, hzwork, fun k => ?_⟩
  rw [teAccPiece, Act.run_get, hg]
  exact congrArg (fun a => Act.run a y) ((if_neg (Bool.eq_false_iff.1 hclean)).trans (if_neg (Bool.eq_false_iff.1 hordered)))

end

/-! ### The tiles in order -/

/-- The TE_ACCUMULATE `m` stands in its engine as `c`, with the tiles `l` left and `g` in its group. -/
structure Adding (s : State) (q : Nat) (m : Cmd) (l : List Nat) (x : State) (c : Cmd) (g : Group) : Prop where
  stands : Stands s q x c
  ident : c.ident = m.ident
  mask : c.mask = m.mask
  claims : c.waited = true ∧ c.streamed = false ∧ c.posted = false
  left : tilesFrom m.d m.mask c.piece = l
  group : x.teGroup m = g
  shape : ∃ cells, g = { s.teGroup m with cells := cells }
  stores : SameStores s x

/-- The tile `i`, the `p`-th present one, has its extents inside scratch and metadata that is clean and in order. -/
def TileGood (s : State) (m : Cmd) (i p : Nat) : Prop :=
  let g := s.teGroup m
  (g.sparse && (anyPoison (s.tileMetadata m g p) || badMeta (s.tileMetadata m g p))) = false ∧
    ¬ (dfld m.d 0x10 40 1 = 1 ∧ accPast m.d g i (i + 1) p (p + 1) = true)

/-- The group after the tile `i`, the `p`-th present one. -/
def State.withTile (s : State) (m : Cmd) (g : Group) (i p : Nat) : Group :=
  tilePass { m with piece := i } g (s.tileColumns m (s.teGroup m) p) (s.tileRows m (s.teGroup m) i)

section
variable {s x y : State} {q k n a j : Nat} {m c : Cmd} {l : List Nat} {g : Group}

theorem withTile_shape {p : Nat} (h : ∃ cells, g = { s.teGroup m with cells := cells }) :
    ∃ cells, s.withTile m g j p = { s.teGroup m with cells := cells } := by
  obtain ⟨cells, rfl⟩ := h
  exact ⟨_, rfl⟩

/-- The engine comes to the next present tile. -/
theorem teAccPrep_tile (hclean : CleanMask c) (hleft : tilesFrom c.d c.mask c.piece = j :: l)
    (hin : ¬ (dfld c.d 0x10 40 1 = 1 ∧ accPast c.d (y.teGroup c) j (j + 1) c.present (c.present + 1) = true)) :
    teAccPrep y c = .ready { c with piece := j } ∧ tilesFrom c.d c.mask j = j :: l ∧ tilesFrom c.d c.mask (j + 1) = l := by
  have hfuel : accTiles c.d < c.piece + 257 := by have := accTiles_le c.d; omega
  rcases nextTile_tilesFrom hclean hfuel with ⟨hnone, -⟩ | ⟨i, hi, hstart, hnext⟩
  · simp [hnone] at hleft
  · rw [hleft] at hi hstart
    obtain ⟨rfl, rfl⟩ := List.cons.inj hi
    refine ⟨?_, hstart, rfl⟩
    rw [teAccPrep, hnext]
    exact if_neg hin

/-- With no tile left the command is over. -/
theorem teAccPrep_over (hclean : CleanMask c) (hleft : tilesFrom c.d c.mask c.piece = []) : ∃ j, teAccPrep y c = .over { c with piece := j } := by
  have hfuel : accTiles c.d < c.piece + 257 := by have := accTiles_le c.d; omega
  rcases nextTile_tilesFrom hclean hfuel with ⟨-, j, hj⟩ | ⟨i, hi, -⟩
  · exact ⟨j, by rw [teAccPrep, hj]⟩
  · simp [hleft] at hi

/-- A tile is added to its group, from any state with the memory and groups of `x`. -/
theorem Adding.piece (h : Adding s q m (j :: l) x c g) (hop : hOpcode m.d = 0x21) (hgood : TileGood s m j c.present) :
    PieceDoes m.core m.ctx { c with piece := j }
      (· = ({ c with piece := j } : Cmd).begun.tiled (s.tileSkips m (s.teGroup m) j c.present)) (x.work m.core m.ctx)
      (x.stack, x.host, x.scratch, tset (x.ctxCore m.core m.ctx).grp (hEngine m.d * 8 + dfld m.d 0x10 0 3) (s.withTile m g j c.present),
        (x.ctxCore m.core m.ctx).dgrp) := fun y hy => by
  obtain ⟨cells, hcells⟩ := h.shape
  obtain ⟨b, hb⟩ : ∃ b, b = ({ c with piece := j } : Cmd).begun := ⟨_, rfl⟩
  obtain ⟨hbi, hbj, hbp⟩ : b.ident = m.ident ∧ b.piece = j ∧ b.present = c.present := by rw [hb]; exact ⟨h.ident, rfl, rfl⟩
  obtain ⟨hbd, -, -, hbcore, hbctx⟩ := Cmd.ident_iff.1 hbi
  have hscratch : y.scratch = s.scratch := (State.work_iff.1 hy).2.2.1.trans h.stores.2.2
  have hgroup : y.teGroup b = g := (teGroup_of_ident hbi y).trans ((teGroup_of_work hy).trans h.group)
  obtain ⟨hmeta, hcols, hrows, hskips⟩ := tileOperands_of_scratch hscratch hbi g j c.present
  have hof : s.tileMetadata m g c.present = s.tileMetadata m (s.teGroup m) c.present ∧
      s.tileColumns m g c.present = s.tileColumns m (s.teGroup m) c.present ∧ s.tileRows m g j = s.tileRows m (s.teGroup m) j ∧
      s.tileSkips m g j c.present = s.tileSkips m (s.teGroup m) j c.present ∧ g.sparse = (s.teGroup m).sparse := by
    subst hcells; exact ⟨rfl, rfl, rfl, rfl, rfl⟩
  obtain ⟨hmetaOf, hcolsOf, hrowsOf, hskipsOf, hsparse⟩ := hof
  have hyb : y.work b.core b.ctx = x.work m.core m.ctx := by rw [hbcore, hbctx]; exact hy
  obtain ⟨z, hz, hzgates, hzwork, hrun⟩ := teAccPiece_adds (core := m.core) (ctx := m.ctx) hgroup
    (by rw [hbp, hmeta, hmetaOf, hsparse]; exact hgood.1) hyb
  rw [hbcore, hbctx, hbd, hbj, hbp, hcols, hcolsOf, hrows, hrowsOf, tilePass_of_ident hbi, hbj, ← State.withTile] at hzwork
  rw [hbj, hbp, hskips, hskipsOf] at hrun
  have hacc : (runOf c.d).piece = teAccPiece := by
    rw [show c.d = m.d from (Cmd.ident_iff.1 h.ident).1]; simp only [runOf, hop, teAccRun]
  rw [← hb]
  refine ⟨z, b.tiled _, rfl, (show b.ident = c.ident from hbi.trans h.ident.symm), hz, hzgates, hzwork, fun k => ?_⟩
  rw [hacc]
  exact hrun k

/-- The command adds its next tile. -/
theorem Adding.tile (h : Adding s q m (j :: l) x c g) (ht : Turn s q k) (hwait : ∀ c ∈ s.waiting (s.qCore q), c < 1024)
    (hop : hOpcode m.d = 0x21) (hclean : CleanMask m) (hgood : TileGood s m j c.present) (hfund : Funded x m.core m.ctx m.d (a + 1) (a + 1)) :
    ∃ z c2, (Act.engine (s.qCore q) (hEngine m.d) (n + 3)).run x = (Act.engine (s.qCore q) (hEngine m.d) n).run z ∧
      Adding s q m l z c2 (s.withTile m g j c.present) ∧ Funded z m.core m.ctx m.d a a ∧ c2.present = c.present + 1 ∧
      c2.res2 = c.res2 + s.tileSkips m (s.teGroup m) j c.present := by
  obtain ⟨hcd, -, -, hcore, hctx⟩ := Cmd.ident_iff.1 h.ident
  obtain ⟨cells, hcells⟩ := h.shape
  obtain ⟨hwaited, hstreamed, hposted⟩ := h.claims
  have hte : opClass (hOpcode m.d) = some 2 := by rw [hop]; rfl
  have hacc : (runOf c.d).prep = teAccPrep := by rw [hcd]; simp only [runOf, hop, teAccRun]
  have hcleanAt : CleanMask c := by rw [CleanMask, hcd, h.mask]; exact hclean
  have hleft : tilesFrom c.d c.mask c.piece = j :: l := by rw [hcd, h.mask]; exact h.left
  have hin (y : State) (hy : y.teGroup m = g) :
      ¬ (dfld c.d 0x10 40 1 = 1 ∧ accPast c.d (y.teGroup c) j (j + 1) c.present (c.present + 1) = true) := by
    rw [teGroup_of_ident h.ident, hy, hcd, hcells]
    exact hgood.2
  obtain ⟨hprep, hstart, hrest⟩ := teAccPrep_tile hcleanAt hleft (hin x h.group)
  have hagain (y : State) (hy : y.work m.core m.ctx = x.work m.core m.ctx) :
      teAccPrep y ({ c with piece := j } : Cmd).fed = .ready ({ c with piece := j } : Cmd).fed ∧
        teAccPrep y ({ c with piece := j } : Cmd).supplied = .ready ({ c with piece := j } : Cmd).supplied :=
    have hg := (teGroup_of_work hy).trans h.group
    ⟨(teAccPrep_tile (c := ({ c with piece := j } : Cmd).fed) hcleanAt hstart (hin y hg)).1,
      (teAccPrep_tile (c := ({ c with piece := j } : Cmd).supplied) hcleanAt hstart (hin y hg)).1⟩
  have hpiece := h.piece hop hgood
  rw [← hcore, ← hctx] at hpiece
  obtain ⟨z, c2, hc2, hident, hrun, hz, hzwork, hzfund⟩ := h.stands.piece (c := { c with piece := j }) ht hwait
    (show hEngine m.d ∈ engsOf c.d by rw [hcd, engsOf_te hte]; exact List.mem_singleton_self _)
    (show hOpcode c.d ≠ 0x84 by rw [hcd, hop]; decide) ⟨hwaited, hwaited⟩ (by rw [hacc]; exact hprep) rfl ⟨hstreamed, hposted⟩
    (by rw [hacc]; exact fun y hy => hagain y (by rwa [← hcore, ← hctx]))
    hpiece
    (show Funded x c.core c.ctx c.d (a + 1) (a + 1) by rw [hcd, hcore, hctx]; exact hfund) (n := n)
  obtain ⟨hst, hho, hsc, hgrp, -⟩ := State.work_iff.1 hzwork
  subst hc2
  refine ⟨z, _, hrun, ⟨hz, hident.trans h.ident, h.mask, ⟨hwaited, rfl, rfl⟩, ?_, ?_, withTile_shape h.shape,
    hst.trans h.stores.1, hho.trans h.stores.2.1, hsc.trans h.stores.2.2⟩, ?_, rfl, rfl⟩
  · rw [← hcd, ← h.mask]; exact hrest
  · rw [State.teGroup, ← hcore, ← hctx]
    exact (congrArg (fun t => tgetD t _ _) hgrp).trans (tgetD_tset_same _ _ _ _)
  · rw [← hcd, ← hcore, ← hctx]; exact hzfund

/-- The command adds all its tiles in order, and none is left. -/
theorem Adding.tiles (h : Adding s q m l x c g) (ht : Turn s q k) (hwait : ∀ c ∈ s.waiting (s.qCore q), c < 1024)
    (hop : hOpcode m.d = 0x21) (hclean : CleanMask m) (hgood : ∀ t ∈ l.zipIdx c.present, TileGood s m t.1 t.2)
    (hfund : Funded x m.core m.ctx m.d l.length l.length) :
    ∃ z c2, (Act.engine (s.qCore q) (hEngine m.d) (n + 3 * l.length)).run x = (Act.engine (s.qCore q) (hEngine m.d) n).run z ∧
      Adding s q m [] z c2 ((l.zipIdx c.present).foldl (fun g t => s.withTile m g t.1 t.2) g) ∧ c2.present = c.present + l.length ∧
      c2.res2 = ((l.zipIdx c.present).map fun t => s.tileSkips m (s.teGroup m) t.1 t.2).foldl (· + ·) c.res2 := by
  induction l generalizing x c g with
  | nil => exact ⟨x, c, rfl, h, rfl, rfl⟩
  | cons j l ih =>
    obtain ⟨z, c1, hrun, hz, hzfund, hpresent, hskips⟩ := h.tile ht hwait hop hclean (hgood (j, c.present) (by simp)) hfund
      (n := n + 3 * l.length)
    rw [List.zipIdx_cons, ← hpresent] at hgood ⊢
    obtain ⟨z', c2, hrun', hz', hpresent', hskips'⟩ := ih hz (fun t ht => hgood t (List.mem_cons_of_mem _ ht)) hzfund
    refine ⟨z', c2, hrun.trans hrun', hz', by rw [hpresent', hpresent, List.length_cons]; omega, ?_⟩
    rw [hskips', hskips]
    rfl

/-- The end of the command advances the K-tile counter (R81). -/
theorem teAccFinish_run (hy : y.work m.core m.ctx = x.work m.core m.ctx) :
    let t := (teAccFinish m).run y
    t.teGroup m = { x.teGroup m with t := (x.teGroup m).t + accTiles m.d } ∧ SameStores x t := by
  intro t
  have hwork := State.work_of_holdings (core := m.core) (ctx := m.ctx) (Act.count_keepsHoldings (n := .teWork) (i := m.core)
    (k := hEngine m.d * 6 + 3) (v := accTiles m.d - m.present)
    ((Act.teGroup m { y.teGroup m with t := (y.teGroup m).t + accTiles m.d }).run y))
  have hrun : t = (Act.count .teWork m.core (hEngine m.d * 6 + 3) (accTiles m.d - m.present)).run
      ((Act.teGroup m { y.teGroup m with t := (y.teGroup m).t + accTiles m.d }).run y) := rfl
  rw [← hrun, teGroup_work, teGroup_of_work hy] at hwork
  obtain ⟨hst, hho, hsc, hgrp, -⟩ := State.work_iff.1 hwork
  obtain ⟨hxst, hxho, hxsc, -, -⟩ := State.work_iff.1 hy
  exact ⟨(congrArg (fun t => tgetD t _ _) hgrp).trans (tgetD_tset_same _ _ _ _), hst.trans hxst, hho.trans hxho, hsc.trans hxsc⟩

theorem teAccFinish_keepsStanding (m : Cmd) : (teAccFinish m).Keeps State.standing := Act.keeps_get fun _ =>
  Act.keeps_seq (teGroup_keepsStanding m _) (Act.count_keepsStanding (by decide))

/-- With all its tiles added the command retires. -/
theorem Adding.over (h : Adding s q m [] x c g) (ht : Turn s q k) (hwait : ∀ c ∈ s.waiting (s.qCore q), c < 1024)
    (hset : s.reentering (s.qCore q) = []) (hop : hOpcode m.d = 0x21) (hclean : CleanMask m) :
    let t := (Act.engine (s.qCore q) (hEngine m.d) (n + 1)).run x
    t.teGroup m = { g with t := g.t + accTiles m.d } ∧ SameStores s t ∧ Retired t q m.idx m.d c.present c.res2 := by
  intro t
  obtain ⟨hcd, -, hci, hcore, hctx⟩ := Cmd.ident_iff.1 h.ident
  obtain ⟨hwaited, hclaims⟩ := h.claims
  have hte : opClass (hOpcode m.d) = some 2 := by rw [hop]; rfl
  have hacc : runOf c.d = teAccRun := by rw [hcd]; simp only [runOf, hop]
  obtain ⟨j, hover⟩ := teAccPrep_over (y := x) (c := c) (by rw [CleanMask, hcd, h.mask]; exact hclean)
    (by rw [hcd, h.mask]; exact h.left)
  obtain ⟨y, z, hy, hend, hretired⟩ := h.stands.over ht hwait (c := { c with piece := j })
    (show hEngine m.d ∈ engsOf c.d by rw [hcd, engsOf_te hte]; exact List.mem_singleton_self _)
    (by rw [hcd, hop]; decide) hset hwaited (by rw [hacc]; exact hover) rfl hclaims
    (show ((runOf c.d).finish { c with piece := j }).Keeps State.standing by rw [hacc]; exact teAccFinish_keepsStanding _) (n := n)
  rw [hacc] at hend hretired
  obtain ⟨hgroup, hstores⟩ := teAccFinish_run (m := { c with piece := j }) hy
  obtain ⟨hst, hho, hsc, -, -⟩ := State.work_iff.1 hend
  have hsame : t.teGroup c = { x.teGroup c with t := (x.teGroup c).t + accTiles c.d } := (teGroup_of_work hend).trans hgroup
  rw [teGroup_of_ident h.ident, teGroup_of_ident h.ident, h.group, hcd] at hsame
  refine ⟨hsame, ⟨hst.trans (hstores.1.trans h.stores.1), hho.trans (hstores.2.1.trans h.stores.2.1),
    hsc.trans (hstores.2.2.trans h.stores.2.2)⟩, ?_⟩
  rw [← hcd, ← hci, ← h.stands.queue]
  exact hretired

theorem teMask_of_scratch (h : y.scratch = s.scratch) : teMask y c = teMask s c := by simp only [teMask, State.rdScr_of_scratch h]

/-- A TE command with its tile mask is at its first piece. -/
theorem teMask_fresh {d : Desc} (hte : opClass (hOpcode d) = some 2) : let m := teMask s (s.cmdOf q d)
    m.d = d ∧ m.idx = (s.stream q).next ∧ m.core = s.qCore q ∧ m.ctx = s.qCtx q ∧ m.piece = 0 ∧ m.present = 0 ∧ m.res2 = 0 ∧ m.streamed = false ∧ m.posted = false := by
  intro m
  have hm : m = teMask s (s.cmdOf q d) := rfl
  rw [teMask, cmdOf_of_te hte] at hm
  split at hm <;> rw [hm] <;> exact ⟨rfl, rfl, rfl, rfl, rfl, rfl, rfl, rfl, rfl⟩

/-- What TE_ACCUMULATE asks of its operands, tile by tile. -/
theorem tilesGood_iff : s.tilesGood m (s.teGroup m) = true ↔
    CleanMask m ∧ ∀ t ∈ (tilesPresent m).zipIdx, TileGood s m t.1 t.2 := by
  simp only [State.tilesGood, CleanMask, TileGood, Bool.and_eq_true, List.all_eq_true, List.mem_range, Bool.or_eq_true, beq_iff_eq,
    Bool.not_eq_true', Bool.and_eq_false_iff, Bool.or_eq_false_iff, beq_eq_false_iff_ne, not_and_or, ne_eq, Bool.not_eq_true]

/-- The engine takes a TE_ACCUMULATE up with the tile mask it reads from scratch (R72). -/
theorem Lone.adding {d : Desc} (h : Lone s q k d) (hop : hOpcode d = 0x21) (hwait : ∀ c ∈ s.waiting (s.qCore q), c < 1024)
    (hsup : Supplied s q d n) {row : Desc → Bool} (hrow : row d = true) :
    let m := teMask s (s.cmdOf q d)
    ∃ x c, (Act.desc row q d).run s = (Act.engine (s.qCore q) (hEngine m.d) 4194303).run x ∧
      Adding s q m (tilesPresent m) x c (s.teGroup m) ∧ Funded x m.core m.ctx m.d n n ∧ c.present = 0 ∧ c.res2 = 0 := by
  intro m
  have hte : opClass (hOpcode d) = some 2 := by rw [hop]; rfl
  obtain ⟨x, hstart, hstands, hwork, hfund⟩ := h.taken hte hwait hsup hrow
  obtain ⟨hmd, -, hmcore, hmctx, hmp, hmn, hmr, hms, hmq⟩ : m.d = d ∧ m.idx = _ ∧ m.core = s.qCore q ∧ m.ctx = s.qCtx q ∧ m.piece = 0 ∧ m.present = 0 ∧
      m.res2 = 0 ∧ m.streamed = false ∧ m.posted = false := teMask_fresh hte
  have hqueued : (s.queued q k d).scratch = s.scratch :=
    (State.work_iff.1 (h.queued hte).2.1).2.2.1.trans (teDispatch_leaves _ _).2.2.1
  have htaken : s.taken q k d = { m with waited := true } := by
    rw [State.taken, show (runOf d).latch = teMask by simp only [runOf, hop, teAccRun], teMask_of_scratch hqueued]
  rw [htaken] at hstands
  rw [show teDispatch (s.qCore q) (s.qCtx q) d = .skip by simp only [teDispatch, hop]; rfl, Act.run_skip, ← hmcore, ← hmctx] at hwork
  rw [← hmcore, ← hmctx, ← hmd] at hfund
  obtain ⟨hst, hho, hsc, -, -⟩ := State.work_iff.1 hwork
  refine ⟨x, _, by rw [hmd]; exact hstart, ⟨hstands, rfl, rfl, ⟨rfl, hms, hmq⟩, ?_, teGroup_of_work hwork, ⟨_, rfl⟩, hst, hho, hsc⟩,
    hfund, hmn, hmr⟩
  rw [tilesPresent_eq]
  exact congrArg _ hmp

end

/-- TE_ACCUMULATE adds its present tiles in order, advances the K-tile counter by all its tiles and retires with the tiles present and the
activation blocks skipped: what O12 says of it, where every number that waits for a slot of its core is a context's. -/
theorem teAccumulate_adds {s : State} (q : Fin 65536) {k : Nat} {d : Desc} (h : Lone s q k d) (hop : hOpcode d = 0x21)
    (hwait : ∀ c ∈ s.waiting (s.qCore q), c < 1024) :
    let m := teMask s (s.cmdOf q d)
    let g := s.teGroup m
    Supplied s q d (tilesPresent m).length → s.tilesGood m g = true →
    Completes (.teAccumulate q d) s fun t => t.teGroup m = s.accumulatedTo m g ∧ SameStores s t ∧
      Retired t q (s.stream q).next d (tilesPresent m).length
        ((((tilesPresent m).zipIdx).map fun x => s.tileSkips m g x.1 x.2).foldl (· + ·) 0) := by
  intro m g hsup hgood
  have hte : opClass (hOpcode d) = some 2 := by rw [hop]; rfl
  obtain ⟨hclean, htiles⟩ := tilesGood_iff.1 hgood
  obtain ⟨x, hx⟩ := h.adding hop hwait hsup (row := isOp 0x21) (by simp [isOp, hop])
  obtain ⟨c, hstart, hx, hfund, hpresent, hskips⟩ := hx
  obtain ⟨hmd, hmi, -⟩ : m.d = d ∧ m.idx = (s.stream q).next ∧ _ := teMask_fresh hte
  have hopm : hOpcode m.d = 0x21 := hmd ▸ hop
  have hmost : (tilesPresent m).length ≤ 256 := by rw [tilesPresent_eq]; exact tilesFrom_length _ _
  obtain ⟨n, hn⟩ : ∃ n, 4194303 = n + 1 + 3 * (tilesPresent m).length := ⟨4194302 - 3 * (tilesPresent m).length, by omega⟩
  obtain ⟨z, c2, hrun, hz, hpresent2, hskips2⟩ := hx.tiles h.toTurn hwait hopm hclean (by rw [hpresent]; exact htiles) hfund (n := n + 1)
  obtain ⟨hgroup, hstores, hretired⟩ := hz.over h.toTurn hwait h.settled hopm hclean (n := n)
  generalize (Act.engine (s.qCore q) (hEngine m.d) (n + 1)).run z = t at hrun hgroup hstores hretired
  rw [hpresent2, hskips2, hpresent, hskips, Nat.zero_add, hmi, hmd] at hretired
  rw [hpresent] at hgroup
  rw [hn, hrun] at hstart
  have hcount : (((tilesPresent m).zipIdx).foldl (fun g t => s.withTile m g t.1 t.2) (s.teGroup m)).t = (s.teGroup m).t := by
    obtain ⟨cells, hcells⟩ := hz.shape
    rw [← hpresent, hcells]
  rw [hcount] at hgroup
  refine ⟨_, rfl, ?_⟩
  rw [hstart]
  exact ⟨hgroup, hstores, hretired⟩

end Sys2Proof.Machine
end

section
/-! SUPPORT. TE commands where a number that is no context's waits for a slot (R103, R387, R388): O11 and O12 let any number stand in the
list of waiting contexts, and one far outside their range reads its class from DEVICE_STATE, which dispatch itself changes. -/

namespace Sys2Proof.Machine

/-! ### A slot that begins to rotate as its command is dispatched -/

/-- A number that is no context's: the key of its CTX_ADMIN is that of DEVICE_STATE. -/
def strayCtx : Nat := 0x2C00

/-- Context 1, of class LC, holds slot 0 of core 0 with its slice over, and `d` is the next descriptor of its queue 5. The stray number
waits for a slot, with a saved command. While DEVICE_STATE reads 1 it counts as BE, and cannot have slot 0. -/
def crowdedState (d : Desc) : State :=
  { State.reset with
    regs := [(EName.ctxAdmin.key 1, 0), (EName.ctxState.key 1, 1), (EName.queueCfg.key 5, 1 + 2 ^ 8 + 4 * 2 ^ 32),
             (EName.queueState.key 5, 2 ^ 32), (EName.deviceState.key 0, 1), (EName.ctxState.key strayCtx, 1)]
    u := { pow := { ready := true }
           core := { slots := [(0, { holder := some 1, sliceOver := true })], slotWait := [(0, [strayCtx])],
                     cc := [(1, { fetch := [{ q := 5, idx := 0, bytes := (descBytes d).map fun b => (b, false) }],
                                  dgrp := [(8, { m := 8 })], grp := [(8, { m := 8 })] }),
                            (strayCtx, { saved := [{ q := 6, idx := 0, d := d, ctx := strayCtx, core := 0 }] })] } } }

/-- A TE_BEGIN of group 0 of TE 0, and a TE_ACCUMULATE of one tile into group 0 of TE 1. -/
def crowdedBegin : Desc := { w0 := 0x20 }
def crowdedAcc : Desc := { w0 := 0x21 + 2 ^ 8, w2 := 6 * 2 ^ 3 + 6 * 2 ^ 7, w4 := 0x1000, w6 := 128 }

theorem crowdedState_turn : ∀ d ∈ [crowdedBegin, crowdedAcc], let s := crowdedState d
    s.runs = true ∧ s.fetchable 5 0 = true ∧ s.columnOn (s.qCore 5) = true ∧ s.loopback = false ∧ s.slotOf (s.qCore 5) (s.qCtx 5) = some 0 ∧
      s.serves (s.qCore 5) 0 (s.qCtx 5) 5 = true ∧ s.rotating (s.qCore 5) 0 = false ∧ s.turn (s.qCore 5) 0 = true ∧
      (∀ f ∈ (s.stream 5).fly, hOpcode f.d = 3 → f.done = true) ∧
      s.fetched (s.qCore 5) (s.qCtx 5) 5 =
        some { q := 5, idx := (s.stream 5).next, bytes := (descBytes d).map fun b => (b, false) } := by decide +kernel

theorem crowdedState_ready : ∀ d ∈ [crowdedBegin, crowdedAcc], let s := crowdedState d
    s.headerReason 5 (s.stream 5).next d false (rulesOf d) = none ∧ allRetired (s.stream 5) = true ∧ predWaits (s.stream 5) d = false ∧
      (s.ctxCore (s.qCore 5) (s.qCtx 5)).saved = [] ∧ s.predOk (s.qCore 5) (s.qCtx 5) d = true ∧ opClass (hOpcode d) = some 2 ∧
      (∀ e ∈ engsOf d ++ s.rerunOf (s.qCore 5) d, s.engQ (s.qCore 5) e = []) ∧ s.reentering (s.qCore 5) = [] ∧
      (rulesOf d).check (s.asLeft (s.qCore 5) 5 (s.qCtx 5)) (s.qCore 5) (s.qCtx 5) d = none ∧
      hWait d = none ∧ hStream d = none ∧ hPost d = none := by decide +kernel

/-- All that O11 and O12 ask of the state. -/
theorem crowdedState_meets {d : Desc} (hd : d ∈ [crowdedBegin, crowdedAcc]) :
    Lone (crowdedState d) 5 0 d ∧ ∀ n, Supplied (crowdedState d) 5 d n := by
  obtain ⟨hruns, hfetch, hcol, hmem, hslot, hserves, hstill, hturn, hfences, hbytes⟩ := crowdedState_turn d hd
  obtain ⟨hheader, hserial, hpred, hsaved, hholds, hclass, hfree, hsettled, hcheck, hwait, hstream, hpost⟩ := crowdedState_ready d hd
  have hturns : Turn (crowdedState d) 5 0 := ⟨hruns, hfetch, hcol, hmem, hslot, hserves, hstill, hturn, hfences⟩
  exact ⟨⟨⟨⟨⟨hturns, hbytes⟩, hheader, fun _ => hserial, hpred, hsaved⟩, hholds⟩, by simp [hclass], hfree, hsettled, hcheck⟩,
    fun _ => ⟨by simp [hwait], by simp [hstream], by simp [hpost]⟩⟩

/-- Dispatch makes DEVICE_STATE read 0, the stray number counts as LC, slot 0 rotates, and the command does not start. -/
theorem crowdedState_stands : ∀ d ∈ [crowdedBegin, crowdedAcc],
    ∀ f ∈ (((Act.desc (isOp (hOpcode d)) 5 d).run (crowdedState d)).stream 5).fly, f.done = false := by decide +kernel

theorem crowdedState_notRetired {d : Desc} {t : State} {op idx res res2 : Nat} (hd : d ∈ [crowdedBegin, crowdedAcc])
    (hop : hOpcode d = op) (ht : (Act.desc (isOp op) 5 d).outcome (crowdedState d) = .next t) : ¬ Retired t 5 idx d res res2 := by
  rintro ⟨f, hf, -, -, hdone, -⟩
  obtain rfl := Host.Outcome.next.inj ht
  rw [crowdedState_stands d hd f (hop ▸ hf)] at hdone
  exact absurd hdone (by decide)

/-- Refutes O11: the statement lets any number wait for a slot of the core. In `crowdedState` the slot begins to rotate as TE_BEGIN is
dispatched, and the command stands in its engine's queue unstarted, where the statement says that it retires. Where every number that
waits for a slot of the core is a context's, both clauses hold: `teBegin_opens` and `teEnd_closes`. -/
theorem not_tensorGroupsOpenAndClose : ¬ Obligations.TensorGroupsOpenAndClose := by
  unfold Obligations.TensorGroupsOpenAndClose
  intro h
  obtain ⟨hlone, hsupplied⟩ := crowdedState_meets (d := crowdedBegin) (by simp)
  have hop : hOpcode crowdedBegin = 0x20 := by decide
  obtain ⟨t, ht, -, -, hretired, -⟩ := (h (crowdedState crowdedBegin) 5 0 crowdedBegin hlone (hsupplied 1)).1 hop
  exact crowdedState_notRetired (by simp) hop ht hretired

theorem crowdedAcc_good : let s := crowdedState crowdedAcc
    let m := teMask s (s.cmdOf 5 crowdedAcc)
    s.tilesGood m (s.teGroup m) = true := by decide +kernel

/-- Refutes O12: TE_ACCUMULATE stands unstarted in `crowdedState` as TE_BEGIN does. Where every number that waits for a slot of the core is
a context's, the statement holds: `teAccumulate_adds`. -/
theorem not_teAccumulateAddsItsTiles : ¬ Obligations.TeAccumulateAddsItsTiles := by
  unfold Obligations.TeAccumulateAddsItsTiles
  intro h
  obtain ⟨hlone, hsupplied⟩ := crowdedState_meets (d := crowdedAcc) (by simp)
  have hop : hOpcode crowdedAcc = 0x21 := by decide
  obtain ⟨t, ht, -, -, hretired⟩ := h (crowdedState crowdedAcc) 5 0 crowdedAcc hlone hop (hsupplied _) crowdedAcc_good
  exact crowdedState_notRetired (by simp) hop ht hretired

end Sys2Proof.Machine
end

section
/-! SUPPORT. Context faults (R146, R392 steps 1 to 4, R398): what the fault of a command leaves in the entries. -/

namespace Sys2Proof.Machine

/-! ### What a fault touches -/

/-- Counters of full engine queues, in which sequencers count what they waited (R31). -/
def stallCounters : List (EName × Nat) := (List.range 43).map fun i => (.engineQueueExhaust, i)

section
variable {l : List (EName × Nat)} {n : EName} {i : Nat}

theorem Act.touches_countFld {off lo len k : Nat} (h : (n, i) ∈ l) : (Act.countFld n i off lo len k).Touches l :=
  touches_get fun _ => touches_fld h

theorem Act.touches_each {β : Type} {bs : List β} {f : β → Act} (h : ∀ b ∈ bs, (f b).Touches l) : (Act.each bs f).Touches l :=
  touches_all fun a ha => by
    obtain ⟨b, hb, rfl⟩ := List.mem_map.1 ha
    exact h b hb

theorem Act.trace_touches (code engine ctx data0 data1 : Nat) : (Act.trace code engine ctx data0 data1).Touches l :=
  touches_units fun u => by split <;> exact ⟨rfl, rfl⟩

/-- The wait of a sequencer before a full queue ends in that queue's counter. -/
theorem Act.stallEnd_touches {x : Nat} (hx : x < stallVc 0 0) (hl : stallCounters ⊆ l) : (Act.stallEnd x).Touches l :=
    touches_get fun s => by
  split
  · exact touches_skip
  · refine touches_seq (touches_units fun _ => ⟨rfl, rfl⟩) (touches_count (hl ?_))
    have hx' : x < 2048 := hx
    simp only [State.stallPlace, hx, if_true, stallCounters, List.mem_map, List.mem_range, Prod.mk.injEq, true_and, exists_eq_right]
    omega

theorem Act.settleQueues_touches (hl : stallCounters ⊆ l) : Act.settleQueues.Touches l :=
  touches_get fun s => touches_each fun p hp => by
    simp only [List.mem_filter, Bool.and_eq_true, decide_eq_true_eq] at hp
    exact stallEnd_touches hp.2.1 hl

/-- A teardown starts with the epoch and CTX_STATE; what follows counts at most waits of sequencers in the entries. -/
theorem Act.tearStart_eq (ctx : Nat) (t : Tear) (hl : stallCounters ⊆ l) :
    ∃ rest : Act, Act.tearStart ctx t = .seq .epochUp (.seq (.reg .ctxState ctx 2) rest) ∧ rest.Touches l := by
  refine ⟨_, rfl, touches_all fun a ha => ?_⟩
  simp only [List.mem_cons, List.not_mem_nil, or_false] at ha
  obtain rfl | rfl | rfl | rfl | rfl := ha
  · exact touches_get fun _ => touches_each fun _ _ => touches_core _
  · exact touches_get fun _ => touches_core _
  · exact settleQueues_touches hl
  · exact touches_get fun _ => touches_units fun _ => ⟨rfl, rfl⟩
  · exact touches_get fun _ => trace_touches _ _ _ _ _

theorem Act.Touches.mono {a : Act} {l' : List (EName × Nat)} (h : a.Touches l) (hl : l ⊆ l') : a.Touches l' := fun s =>
  ⟨(h s).1, fun k j hj hn => (h s).2 k j hj fun hm => hn (hl hm)⟩

theorem Act.tearStart_touches (ctx : Nat) (t : Tear) :
    (Act.tearStart ctx t).Touches ((.recoveryEpoch, 0) :: (.ctxState, ctx) :: stallCounters) := by
  obtain ⟨rest, heq, hrest⟩ := Act.tearStart_eq ctx t (l := stallCounters) (fun _ h => h)
  rw [heq]
  exact touches_seq (touches_countFld (by simp)) (touches_seq (touches_reg (by simp)) (hrest.mono fun p hp => by simp [hp]))

/-- Entries that the fault of a command of a context changes. -/
def faultEntries (ctx : Nat) : List (EName × Nat) := (.faultInfo, ctx) :: (.recoveryEpoch, 0) :: (.ctxState, ctx) :: stallCounters

theorem Act.cmdFault_touches (s : State) (q idx st rs res res2 : Nat) (d : Desc) (unread : Bool) :
    SameMem s ((Act.cmdFault q idx d st rs res res2 unread).run s) ∧
      SameEntriesBut (faultEntries (s.qCtx q)) s ((Act.cmdFault q idx d st rs res res2 unread).run s) := by
  rw [Act.cmdFault, Act.run_get]
  refine touches_ite touches_skip (touches_all fun a ha => ?_) s
  simp only [List.mem_cons, List.not_mem_nil, or_false] at ha
  obtain rfl | rfl | rfl := ha
  · exact touches_get fun _ => touches_reg (by simp [faultEntries])
  · exact trace_touches _ _ _ _ _
  · exact (tearStart_touches _ _).mono (List.subset_cons_self _ _)

end

/-! ### A context is torn down -/

theorem not_mem_stallCounters {n : EName} {i : Nat} (hn : n ≠ .engineQueueExhaust) : (n, i) ∉ stallCounters := by
  simp [stallCounters, hn.symm]

/-- The recovery epoch wraps at 32 bits (R395). -/
theorem State.epochUp_rd (s : State) : (Act.epochUp.run s).rd .recoveryEpoch = (s.rd .recoveryEpoch + 1) % 2 ^ 32 := by
  have hset : Settable s .recoveryEpoch 0 := Settable.of_vol s (by decide) rfl
  have hlow (v : Nat) : bits v 0 32 = v % 2 ^ 32 := by simp [bits]
  have hfld : (Act.epochUp.run s).rd .recoveryEpoch % 2 ^ 32 = (s.rd .recoveryEpoch % 2 ^ 32 + 1) % 2 ^ 32 := by
    simpa only [Act.epochUp, State.fld, hlow] using s.fld_countFld (k := 1) (off := 0) (lo := 0) (len := 32) hset (by decide)
  have hrd : (Act.epochUp.run s).rd .recoveryEpoch < 2 ^ 32 := by
    show ((Act.reg .recoveryEpoch 0 _).run s).rd .recoveryEpoch 0 < _
    rw [s.rd_reg _ hset]
    exact Nat.mod_lt _ (by decide)
  rwa [Nat.mod_eq_of_lt hrd, Nat.mod_add_mod] at hfld

/-- The context `ctx` begins its teardown between `s` and `t`: it reads TEARDOWN, and the epoch rises (R392, R395). -/
structure TearsDown (s t : State) (ctx : Nat) : Prop where
  teardown : t.ctxState ctx = 2
  epoch : t.rd .recoveryEpoch = (s.rd .recoveryEpoch + 1) % 2 ^ 32

theorem State.tearStart_run (s : State) {ctx : Nat} (hctx : ctx < 1024) (t : Tear) : TearsDown s ((Act.tearStart ctx t).run s) ctx := by
  obtain ⟨rest, heq, hrest⟩ := Act.tearStart_eq ctx t (l := stallCounters) (fun _ h => h)
  rw [heq, Act.run_seq, Act.run_seq]
  constructor
  · rw [State.ctxState, hrest.rd hctx (not_mem_stallCounters (by decide)), State.rd_reg _ _ (Settable.of_vol _ hctx rfl)]
    rfl
  · rw [hrest.rd (by decide) (not_mem_stallCounters (by decide)), State.rd_reg_other _ _ hctx (by decide) (by simp), s.epochUp_rd]

/-- What FAULT_INFO of a context says: the queue of its faulting command, the status and the reason (R398). -/
structure FaultSays (t : State) (ctx q st rs : Nat) : Prop where
  queue : t.fld .faultInfo ctx 0 0 16 = q % 2 ^ 16
  status : t.fld .faultInfo ctx 4 0 8 = st
  reason : t.fld .faultInfo ctx 5 0 8 = rs

theorem State.faultInfo_says (s : State) {ctx q qseq st rs : Nat} (hctx : ctx < 1024) (hst : st < 256) (hrs : rs < 256) :
    FaultSays ((Act.faultInfo ctx q qseq st rs).run s) ctx q st rs := by
  have hrd : ((Act.faultInfo ctx q qseq st rs).run s).rd .faultInfo ctx = _ := s.rd_reg _ (Settable.of_vol s hctx rfl)
  have hsize (v : Nat) : EName.faultInfo.fit v = v % 2 ^ 128 := rfl
  constructor
  all_goals
    rw [State.fld, hrd, hsize, bits_mod (by decide), bits, Nat.shiftRight_eq_div_pow]
    omega

theorem FaultSays.of_rd {s t : State} {ctx q st rs : Nat} (h : FaultSays s ctx q st rs) (hrd : t.rd .faultInfo ctx = s.rd .faultInfo ctx) :
    FaultSays t ctx q st rs := by
  obtain ⟨hq, hst, hrs⟩ := h
  constructor <;> simpa only [State.fld, hrd]

theorem State.qCtx_lt (s : State) (q : Nat) : s.qCtx q < 1024 := bits_lt _ _ _

/-- The fault of a command of a READY context begins its teardown, and FAULT_INFO tells it (R392). -/
theorem State.cmdFault_run (s : State) {q idx st rs res res2 : Nat} {d : Desc} {unread : Bool} (h : s.ctxState (s.qCtx q) = 1)
    (hst : st < 256) (hrs : rs < 256) :
    TearsDown s ((Act.cmdFault q idx d st rs res res2 unread).run s) (s.qCtx q) ∧
      FaultSays ((Act.cmdFault q idx d st rs res res2 unread).run s) (s.qCtx q) q st rs := by
  have hctx := s.qCtx_lt q
  rw [Act.cmdFault, Act.run_get]
  simp only [h, ne_eq, not_true_eq_false, if_false, Act.run_all_cons, Act.run_all_nil]
  generalize (recordWords _ _ _ _ _ _ _ _ _ _ _ _ _) = w
  have hinfo := s.faultInfo_says (q := q) (qseq := if unread then idx else hQseq d) hctx hst hrs
  have hepoch : ((Act.faultInfo (s.qCtx q) q (if unread then idx else hQseq d) st rs).run s).rd .recoveryEpoch = s.rd .recoveryEpoch :=
    s.rd_reg_other _ hctx (by decide) (by simp)
  generalize (Act.faultInfo (s.qCtx q) q (if unread then idx else hQseq d) st rs).run s = x at *
  have htrace := Act.trace_touches (l := []) 1 (engineId (s.qCore q) d) (s.qCtx q) (w.getD 0 0) (w.getD 1 0)
  have htear := ((Act.trace 1 (engineId (s.qCore q) d) (s.qCtx q) (w.getD 0 0) (w.getD 1 0)).run x).tearStart_run hctx
    { fault := some (q, idx, st, rs, res, res2) }
  refine ⟨⟨htear.teardown, ?_⟩, hinfo.of_rd ?_⟩
  · rw [htear.epoch, htrace.rd (by decide) (by simp), hepoch]
  · rw [(Act.tearStart_touches _ _).rd hctx (by simp [not_mem_stallCounters]), htrace.rd hctx (by simp)]

/-! ### A reserved opcode -/

/-- Settles O9: the first check of the header refuses the opcode (R99), and the fault tears the queue's context down (R392). -/
theorem reservedOpcodeFaultsItsContext : Obligations.ReservedOpcodeFaultsItsContext := by
  unfold Obligations.ReservedOpcodeFaultsItsContext
  intro s q k d h hop
  have hready : s.ctxState (s.qCtx q) = 1 := by
    have := h.fetchable
    simp only [State.fetchable, Bool.and_eq_true, beq_iff_eq] at this
    exact this.1.2
  have hreason : s.headerReason q (s.stream q).next d false (rulesOf d) = some 0x10 := by simp [State.headerReason, hop]
  have hrun := desc_comes (row := fun d => (opClass (hOpcode d)).isNone) h (by simp [hop])
  rw [hreason] at hrun
  obtain ⟨hmem, -⟩ := Act.cmdFault_touches s q (s.stream q).next 3 0x10 0 0 d false
  obtain ⟨⟨hdown, hepoch⟩, ⟨hqueue, hstatus, hwhy⟩⟩ :=
    s.cmdFault_run (q := q) (idx := (s.stream q).next) (st := 3) (rs := 0x10) (res := 0) (res2 := 0) (d := d) (unread := false) hready
      (by decide) (by decide)
  rw [← hrun] at hmem hdown hepoch hqueue hstatus hwhy
  exact ⟨_, rfl, hdown, hqueue.trans (Nat.mod_eq_of_lt q.isLt), hstatus, hwhy, hepoch, hmem⟩

end Sys2Proof.Machine
end

section
/-! SUPPORT. Bundles over their limits (R390): the count of one over 2 ms, and one over 4 ms whose next descriptor lies poisoned in host
memory, so that its read raises an event that is written there. -/

namespace Sys2Proof.Machine

/-! ### A bundle of 2 ms -/

/-- The oldest bundle that runs is counted once when it has run for 2 ms (R390). -/
theorem bundleIsLong_counts (s : State) (q : Fin 65536) (r : Nat) (rs : List Nat) (hrun : (s.stream q).running = r :: rs)
    (hcore : s.qCore q < 192) (hlong : (s.stream q).bunLong < r) :
    Completes (.bundleLong q) s fun t => (t.stream q).bunLong = r ∧
      t.cnt .slotCount (s.qCore q) 5 = (s.cnt .slotCount (s.qCore q) 5 + 1) % 2 ^ 64 ∧ SameMem s t ∧
      SameEntriesBut [(.slotCount, s.qCore q)] s t := by
  have heq : (Act.bundleIsLong q).run s =
      (Act.seq (.stream q fun t => { t with bunLong := r }) (.count .slotCount (s.qCore q) 5)).run s := by
    simp [Act.bundleIsLong, hrun, hlong]
  have hmark : (Act.stream q fun t => { t with bunLong := r }).Touches [] := Act.touches_core _
  have hcount : (Act.count .slotCount (s.qCore q) 5).Touches [(.slotCount, s.qCore q)] := Act.touches_count (by simp)
  refine ⟨_, rfl, ?_⟩
  beta_reduce
  rw [heq, Act.run_seq]
  refine ⟨?_, ?_, Act.touches_seq (hmark.mono (List.nil_subset _)) hcount s⟩
  · refine congrArg Stream.bunLong (Eq.trans (Act.count_keeps_u (g := fun u => tgetD u.core.streams q {}) _) (s.stream_run q q _)) |>.trans ?_
    rw [if_pos rfl]
  · rw [State.cnt_count _ (Settable.of_vol _ hcore rfl) (by decide), State.cnt, State.fld, hmark.rd hcore (by simp)]
    rfl

/-! ### A poisoned descriptor raises an event -/

/-- Entries given a value, one after another. -/
def State.withRegs (s : State) (l : List (EName × Nat × Nat)) : State := l.foldl (fun s e => s.apply (.reg e.1 e.2.1 e.2.2)) s

/-- Context 1 is READY, and its addresses lead through a table at 0x30_0000_0000 into host memory at 0x4000_0000. Queue 5 is its own, with
16 descriptors at 0x1000, the first of which waits and lies poisoned in host memory; every member fetched of the bundle that its stream
runs has retired. The window of link errors has filled up to 7 of its 8, and function 0 has registered an event ring at 0x5000_0000. -/
def overrunState : State :=
  let s := (((State.reset.apply (.mem .stack 0x3000000000 (cleanBytes 8 0x3000001001))).apply
    (.mem .stack 0x3000001000 (cleanBytes 8 0x40000017))).apply (.mem .host 0x40001000 [(0#8, true)])).withRegs
      [(.ptRoot, 1, 0x3000000000), (.ctxState, 1, 1), (.queueCfg, 5, 1 + 2 ^ 8 + 4 * 2 ^ 32 + 0x1000 * 2 ^ 64), (.queueState, 5, 2 ^ 32),
        (.errwinState, 56, 7), (.evtRing, 0, 0x50000000)]
  { s with u := { s.u with pow := { s.u.pow with ready := true }, core := { s.u.core with
      streams := [(5, { bundle := 1, bundleLen := 1, bun := 1, bunOn := [1] })] } } }

theorem overrunState_meets : let s := overrunState
    (s.stream 5).running = [1] ∧ s.qCore 5 < 192 ∧ s.ctxState (s.qCtx 5) = 1 ∧ s.u.mem.faulty = false := by decide +kernel

/-- The event of the full window has code 4, which its record holds in byte 4 (R479). -/
theorem overrunState_writes : overrunState.rdMem .host 0x50000004 1 = [(0#8, false)] ∧
    ((Act.bundleOver 5).run overrunState).rdMem .host 0x50000004 1 = [(4#8, false)] := by decide +kernel

/-- Refutes O23: its clause on 4 ms says that memory is left as it is, but the next descriptor of the stream is read where every member
fetched has retired. In `overrunState` it lies poisoned in host memory: its read fills the window of link errors, and the event of that
is written to function 0's ring. The clause on 2 ms holds as it is (`bundleIsLong_counts`). -/
theorem not_limitsOfBundlesAndCommands : ¬ Obligations.LimitsOfBundlesAndCommands := by
  unfold Obligations.LimitsOfBundlesAndCommands
  rintro ⟨hbundles, -⟩
  obtain ⟨hrun, hcore, hready, hsound⟩ := overrunState_meets
  obtain ⟨t, ht, -, -, -, -, -, hmem⟩ := (hbundles overrunState 5 1 [] hrun hcore).2 hready hsound
  obtain rfl := Host.Outcome.next.inj ht
  obtain ⟨hbefore, hafter⟩ := overrunState_writes
  have : [(4#8, false)] = [(0#8, false)] := hafter.symm.trans ((hmem .host 0x50000004 1).trans hbefore)
  exact absurd this (by decide)

end Sys2Proof.Machine
end

section
/-! SUPPORT. The sequencer's own commands and skipped ones (R110, R114 to R121): what retiring at once leaves, telemetry at the end of a job,
and the retirement of a FENCE. -/

namespace Sys2Proof.Machine

/-! ### The core's state is left by accesses to memory -/

section

/-- The action leaves what the cores keep. -/
def Act.KeepsCore (a : Act) : Prop := a.Keeps fun s => s.u.core

theorem Act.count_keepsCore {n : EName} {i k v : Nat} : (Act.count n i k v).KeepsCore := count_keeps_u (g := fun u => u.core)
theorem Act.reg_keepsCore {n : EName} {i v : Nat} : (Act.reg n i v).KeepsCore := reg_keeps_u (g := fun u => u.core)
theorem Act.fld_keepsCore {n : EName} {i a b c v : Nat} : (Act.fld n i a b c v).KeepsCore := fld_keeps_u (g := fun u => u.core)
theorem Act.mem_keepsCore {m : MemSel} {a : Nat} {bs : PBytes} : (Act.mem m a bs).KeepsCore := mem_keeps_u (g := fun u => u.core)
theorem Act.trace_keepsCore (code engine ctx data0 data1 : Nat) : (Act.trace code engine ctx data0 data1).KeepsCore :=
  keeps_units fun s => by dsimp only; split <;> rfl

theorem Act.msix_keepsCore (fn v : Nat) : (Act.msix fn v).KeepsCore :=
  keeps_get fun _ => keeps_ite (fun _ => keeps_skip) fun _ => keeps_ite (fun _ => keeps_units fun _ => rfl) fun _ =>
    keeps_ite (fun _ => keeps_seq (keeps_units fun _ => rfl) count_keepsCore) fun _ => keeps_skip

theorem Act.eventTo_keepsCore (fn code scope ctx source data : Nat) : (Act.eventTo fn code scope ctx source data).KeepsCore :=
  keeps_get fun _ => keeps_ite (fun _ => keeps_skip) fun _ =>
    keeps_seq mem_keepsCore (keeps_seq reg_keepsCore (keeps_seq (msix_keepsCore _ _) keeps_skip))

theorem Act.errEvent_keepsCore (src detail : Nat) : (Act.errEvent src detail).KeepsCore :=
  keeps_get fun _ => keeps_seq (keeps_get fun _ => fld_keepsCore) <| keeps_seq fld_keepsCore <| keeps_seq (keeps_when fun _ =>
    keeps_seq fld_keepsCore <| keeps_get fun _ => keeps_seq (keeps_units fun _ => rfl) <| keeps_each fun _ _ => eventTo_keepsCore _ _ _ _ _ _)
    keeps_skip

theorem Act.burstBack_keepsCore (g : Nat) : (Act.burstBack g).KeepsCore :=
  keeps_get fun _ => keeps_seq (keeps_units fun _ => rfl) mem_keepsCore

theorem Act.burstCorrected_keepsCore (patrol : Bool) (g : Nat) (l : List Nat) : (Act.burstCorrected patrol g l).KeepsCore :=
  keeps_get fun _ => keeps_seq (burstBack_keepsCore g) <| keeps_seq (keeps_when fun _ => count_keepsCore) <| keeps_seq
    (keeps_when fun _ => keeps_seq (keeps_units fun _ => rfl) <| keeps_seq (keeps_units fun _ => rfl) <| keeps_seq count_keepsCore <|
      keeps_seq (keeps_when fun _ => count_keepsCore) <| keeps_seq fld_keepsCore <| keeps_seq (errEvent_keepsCore _ _) keeps_skip) keeps_skip

theorem Act.burstLost_keepsCore (g : Nat) : (Act.burstLost g).KeepsCore :=
  keeps_get fun _ => keeps_seq (burstBack_keepsCore g) <| keeps_seq (keeps_units fun _ => rfl) <| keeps_seq (keeps_units fun _ => rfl) <|
    keeps_seq count_keepsCore <| keeps_seq fld_keepsCore <| keeps_seq (errEvent_keepsCore _ _) <|
    keeps_seq (trace_keepsCore _ _ _ _ _) keeps_skip

theorem Act.burstRead_keepsCore (patrol : Bool) (g : Nat) : (Act.burstRead patrol g).KeepsCore := keeps_get fun _ =>
  keeps_ite (fun _ => keeps_skip) fun _ => by
    split
    · exact keeps_skip
    · exact burstCorrected_keepsCore _ _ _
    · exact keeps_seq (keeps_when fun _ => count_keepsCore) (keeps_when fun _ => burstCorrected_keepsCore _ _ _)
    · exact burstLost_keepsCore g

theorem Act.noteWalks_keepsCore (ctx dva n : Nat) : (Act.noteWalks ctx dva n).KeepsCore := keeps_get fun _ => keeps_when fun _ =>
  keeps_each fun _ _ => keeps_get fun _ => keeps_each fun _ _ => burstRead_keepsCore _ _

theorem Act.wrStack_keepsCore (a : Nat) (bs : PBytes) : (Act.wrStack a bs).KeepsCore := keeps_get fun _ =>
  keeps_seq (keeps_get fun _ => keeps_when fun _ => keeps_each fun _ _ =>
    keeps_ite (fun _ => keeps_units fun _ => rfl) fun _ => burstRead_keepsCore _ _) <|
  keeps_seq (keeps_ite (fun _ => mem_keepsCore) fun _ => keeps_each fun _ _ => mem_keepsCore) <|
  keeps_seq (keeps_when fun _ => keeps_each fun _ _ => count_keepsCore) keeps_skip

theorem Act.wrSpan_keepsCore (l : List (MemSel × Nat × Nat)) (bs : PBytes) : (Act.wrSpan l bs).KeepsCore := by
  induction l generalizing bs with
  | nil => exact keeps_skip
  | cons p r ih =>
    refine keeps_seq ?_ (ih _)
    obtain ⟨m, a, n⟩ := p
    cases m
    · exact wrStack_keepsCore _ _
    · exact mem_keepsCore
    · exact mem_keepsCore

theorem Act.wrCtx_keepsCore {ctx dva : Nat} {bs : PBytes} {k : Option Flt → Act} {α : Type} {f : CoreU → α}
    (hk : ∀ e, (k e).Keeps fun s => f s.u.core) : (Act.wrCtx ctx dva bs k).Keeps fun s => f s.u.core := by
  have hf {a : Act} (h : a.KeepsCore) : a.Keeps fun s => f s.u.core := fun s => congrArg f (h s)
  refine keeps_get fun _ => keeps_seq (hf (noteWalks_keepsCore _ _ _)) ?_
  split
  · exact hk _
  · exact keeps_seq (hf (wrSpan_keepsCore _ _)) <|
      keeps_seq (keeps_when fun _ => keeps_get fun _ => hf count_keepsCore) <| keeps_seq (hk _) keeps_skip

/-! ### Telemetry at the end of a job (R65) -/

/-- What of a stream no telemetry record changes, even where the write of one faults the context: the next index, the open job, and the
commands in flight but for their marks of poison. -/
def CoreU.course (q : Nat) (c : CoreU) : Nat × Bool × List (Nat × Desc × Bool) :=
  let t := tgetD c.streams q {}
  (t.next, t.jobOpen, t.fly.map fun f => (f.idx, f.d, f.done))

theorem Act.core_keepsCourse {q : Nat} {f : CoreU → CoreU} (h : ∀ c, (f c).course q = c.course q) :
    (Act.core f).Keeps fun s => s.u.core.course q := keeps_units fun s => h s.u.core

theorem Act.KeepsCore.course {a : Act} (h : a.KeepsCore) (q : Nat) : a.Keeps fun s => s.u.core.course q :=
  fun s => congrArg (CoreU.course q) (h s)

/-- The poison mark on a command's record leaves the course of its stream. -/
theorem Act.poisonMark_keepsCourse (q p i : Nat) : (Act.core fun c => { c with streams := tmod c.streams p {} fun t =>
    { t with fly := t.fly.map fun f => if f.idx = i then { f with poison := true } else f } }).Keeps fun s => s.u.core.course q :=
  core_keepsCourse fun c => by
    by_cases hp : q = p
    · subst hp
      simp only [CoreU.course, tgetD_tmod_same, List.map_map, Prod.mk.injEq, true_and]
      refine List.map_congr_left fun f _ => ?_
      simp only [Function.comp]
      split <;> rfl
    · simp only [CoreU.course, tgetD_tmod_other _ _ _ hp]

theorem Act.tearStart_keepsCourse (q ctx : Nat) (t : Tear) : (Act.tearStart ctx t).Keeps fun s => s.u.core.course q :=
  keeps_seq (keeps_get fun _ => fld_keepsCore.course q) <| keeps_seq (reg_keepsCore.course q) <|
    keeps_seq (keeps_get fun _ => keeps_each fun _ _ => poisonMark_keepsCourse _ _ _) <|
    keeps_seq (keeps_get fun _ => core_keepsCourse fun _ => rfl) <|
    keeps_seq (fun s => congrArg (CoreU.course q) (settleQueues_keepsCore s)) <|
    keeps_seq (keeps_get fun _ => keeps_units fun _ => rfl) <|
    keeps_seq (keeps_get fun _ => (trace_keepsCore _ _ _ _ _).course q) keeps_skip

theorem Act.ownFault_keepsCourse (q ctx kind : Nat) (e : Flt) : (Act.ownFault ctx kind e).Keeps fun s => s.u.core.course q :=
  keeps_get fun _ => keeps_ite (fun _ => keeps_skip) fun _ =>
    keeps_seq (keeps_get fun _ => reg_keepsCore.course q) <| keeps_seq ((trace_keepsCore _ _ _ _ _).course q) <|
    keeps_seq (tearStart_keepsCourse q _ _) keeps_skip

theorem Act.telemetry_keepsCourse (q ctx source tag : Nat) : (Act.telemetry ctx source tag).Keeps fun s => s.u.core.course q := by
  refine keeps_get fun _ => keeps_when fun _ => keeps_each fun p _ => keeps_get fun _ => keeps_ite (fun _ => keeps_skip) fun _ =>
    keeps_ite (fun _ => keeps_seq (count_keepsCore.course q) (core_keepsCourse fun _ => rfl)) fun _ => keeps_seq ?_ <|
    keeps_seq (keeps_get fun _ => keeps_when fun _ => keeps_seq (reg_keepsCore.course q) (core_keepsCourse fun _ => rfl)) keeps_skip
  refine wrCtx_keepsCore fun e => ?_
  cases e
  · exact keeps_skip
  · exact ownFault_keepsCourse q _ _ _

end

/-! ### A command that retires at once (R115, R118) -/

/-- Entries that a dispatch changes: its column's load, and the device's state (R457, R461). -/
def dispatchEntries : List (EName × Nat) := [(.columnState, 0), (.deviceState, 0)]

section
variable {s x : State} {core k q idx st : Nat} {d : Desc}

theorem Act.inFlight_touches : (Act.inFlight core k q idx d).Touches dispatchEntries := touches_all fun a ha => by
  simp only [List.mem_cons, List.not_mem_nil, or_false] at ha
  obtain rfl | rfl | rfl | rfl | rfl | rfl := ha
  · exact touches_core _
  · exact touches_get fun _ => touches_core _
  · exact touches_get fun _ => touches_core _
  · exact touches_core _
  · exact touches_get fun _ => touches_when (touches_fld (by simp [dispatchEntries]))
  · exact touches_reg (by simp [dispatchEntries])

theorem Act.flySet_touches {l : List (EName × Nat)} (q idx st rs res res2 : Nat) (p : Bool) : (Act.flySet q idx st rs res res2 p).Touches l :=
  touches_get fun _ => touches_core _

theorem Act.fencesUp_touches {l : List (EName × Nat)} (n : Nat) : (Act.fencesUp n).Touches l := by
  induction n with
  | zero => exact touches_skip
  | succ n ih =>
    refine touches_get fun x => ?_
    split
    · exact touches_seq (flySet_touches _ _ _ _ _ _ _) ih
    · exact touches_skip

theorem Act.seqDone_touches : (Act.seqDone core k q idx d st).Touches dispatchEntries :=
  touches_seq inFlight_touches <| touches_seq (touches_when (touches_core _)) <|
    touches_seq (touches_seq (flySet_touches _ _ _ _ _ _ _) (touches_get fun _ => fencesUp_touches _)) touches_skip

/-- What the sequencer leaves where a command enters no engine and executes nothing: the engines' queues, the monitors, and what every
context keeps on the cores of gates, flag words and groups. -/
def State.unexecuted (s : State) : Tab (List Cmd) × Tab Mon × (Nat → Nat → Tab Gate × Tab Nat × Tab Group × Tab Group) :=
  (s.u.core.engQ, s.u.core.mon, fun core ctx => let c := s.ctxCore core ctx; (c.gates, c.flags, c.grp, c.dgrp))

theorem Act.inFlight_keepsUnexecuted : (Act.inFlight core k q idx d).Keeps State.unexecuted := keeps_all fun a ha => by
  simp only [List.mem_cons, List.not_mem_nil, or_false] at ha
  have hreg {n : EName} {i v : Nat} : (Act.reg n i v).Keeps State.unexecuted := fun s => by
    simp only [State.unexecuted, State.ctxCore, Act.run_reg_u]
  obtain rfl | rfl | rfl | rfl | rfl | rfl := ha
  · exact fun _ => rfl
  · exact keeps_get fun _ _ => rfl
  · refine keeps_get fun y x => ?_
    refine Prod.ext rfl (Prod.ext rfl (funext fun c => funext fun ctx => ?_))
    simp only [State.unexecuted, State.ctxCore_run]
    split
    · rename_i h; simp only [State.ctxCore, h]
    · rfl
  · exact fun _ => rfl
  · exact keeps_get fun _ => keeps_when fun _ => keeps_get fun _ => hreg
  · exact hreg

theorem Act.seqDone_keepsUnexecuted : (Act.seqDone core k q idx d st).Keeps State.unexecuted :=
  keeps_seq inFlight_keepsUnexecuted <| keeps_seq (keeps_when fun _ _ => rfl) <| keeps_seq (flyDone_keeps fun _ _ _ => rfl) keeps_skip

/-- The stream after its command retired at once: with the command, done as its record will say, and one index on. -/
structure RetiredNow (s t : State) (q idx : Nat) (d : Desc) (st : Nat) : Prop where
  done : ∃ f ∈ (t.stream q).fly, f.idx = idx ∧ f.d = d ∧ f.done = true ∧ f.status = st ∧ f.reason = 0 ∧ f.res = 0 ∧ f.res2 = 0
  next : (t.stream q).next = idx32 ((s.stream q).next + 1)
  bundle : (t.stream q).bundle = if hBlast d then 0 else hBundle d

theorem RetiredNow.retired {t : State} (h : RetiredNow s t q idx d 0) : Retired t q idx d 0 0 := by
  obtain ⟨f, hf, hidx, hd, hdone, hst, -, hres, hres2⟩ := h.done
  exact ⟨f, hf, hidx, hd, hdone, hst, hres, hres2⟩

theorem RetiredNow.of_same {t t' : State} (h : RetiredNow s t q idx d st) (hfly : (t'.stream q).fly = (t.stream q).fly)
    (hnext : (t'.stream q).next = (t.stream q).next) (hbundle : (t'.stream q).bundle = (t.stream q).bundle) : RetiredNow s t' q idx d st :=
  ⟨hfly ▸ h.done, hnext ▸ h.next, hbundle ▸ h.bundle⟩

theorem RetiredNow.of_streams {t t' : State} (h : RetiredNow s t q idx d st) (he : t'.u.core.streams = t.u.core.streams) :
    RetiredNow s t' q idx d st := by
  have hs : t'.stream q = t.stream q := by rw [State.stream, he, State.stream]
  exact h.of_same (by rw [hs]) (by rw [hs]) (by rw [hs])

/-- The stream of a command that starts its bundle at dispatch, like any other member of it (R117). -/
theorem bundleOn_stream {b : Bool} : ∃ on, ((Act.when b (.stream q fun t => { t with bunOn := sadd t.bunOn t.bun })).run x).stream q =
    { x.stream q with bunOn := on } := by
  cases b
  · exact ⟨_, rfl⟩
  · exact ⟨_, (x.stream_run q q _).trans (if_pos rfl)⟩

/-- A command whose stream has no FENCE open retires at once. -/
theorem seqDone_retires (hopen : ∀ f ∈ (s.stream q).fly, hOpcode f.d = 3 → f.done = true) :
    let t := (Act.seqDone core k q idx d st).run s
    RetiredNow s t q idx d st ∧ (t.stream q).jobOpen = (s.stream q).jobOpen := by
  obtain ⟨ser, hstream⟩ := inFlight_streams (s := s) (p := core) (k := k) (q := q) (idx := idx) (d := d)
  have hx := hstream q
  rw [if_pos rfl] at hx
  have hrun : (Act.seqDone core k q idx d st).run s = (Act.flyDone q idx st 0 0 0 false).run
    ((Act.when (hBundle d != 0) (.stream q fun t => { t with bunOn := sadd t.bunOn t.bun })).run ((Act.inFlight core k q idx d).run s)) := rfl
  intro t
  rw [show t = _ from hrun]
  generalize (Act.inFlight core k q idx d).run s = x at hx
  obtain ⟨on, hy⟩ := bundleOn_stream (x := x) (q := q) (b := hBundle d != 0)
  generalize (Act.when (hBundle d != 0) (.stream q fun t => { t with bunOn := sadd t.bunOn t.bun })).run x = y at hy
  rw [hx] at hy
  have hz : ((Act.flySet q idx st 0 0 0 false).run y).stream q = _ := (y.stream_run q q _).trans (if_pos rfl)
  have hfly := flySet_fly (x := y) (q := q) (idx := idx) (st := st) (rs := 0) (res := 0) (res2 := 0) (p := false)
  rw [hy] at hz hfly
  obtain ⟨f, hpush, hidx, hd⟩ := (s.stream q).push_fly d { idx := idx, d := d, ser := ser }
  have hstill : ∀ g ∈ (((Act.flySet q idx st 0 0 0 false).run y).stream q).fly, hOpcode g.d = 3 → g.done = true := by
    rw [hfly]
    intro g hg hop
    obtain ⟨g', hg', rfl⟩ := List.mem_map.1 hg
    split
    · rfl
    · rename_i hne
      rw [if_neg hne] at hop
      rcases List.mem_append.1 (hpush ▸ hg' : g' ∈ (s.stream q).fly ++ [f]) with hold | hnew
      · exact hopen g' hold hop
      · exact absurd (List.mem_singleton.1 hnew ▸ hidx) hne
  have hdone : ((Act.flyDone q idx st 0 0 0 false).run y).stream q = ((Act.flySet q idx st 0 0 0 false).run y).stream q := by
    rw [Act.flyDone, Act.run_seq, Act.fences, Act.run_get, fencesUp_stream hstill]
  refine ⟨⟨?_, ?_, ?_⟩, ?_⟩
  · rw [hdone, hfly]
    have hf : f ∈ ((s.stream q).push d { idx := idx, d := d, ser := ser }).fly := by simp [hpush]
    exact ⟨_, List.mem_map.2 ⟨f, hf, if_pos hidx⟩, hidx, hd, rfl, rfl, rfl, rfl, rfl⟩
  · rw [hdone, hz]; rfl
  · rw [hdone, hz]; rfl
  · rw [hdone, hz]; rfl

end

/-! ### Skipped commands (R115) -/

section
variable {s : State} {q k : Nat} {d : Desc}

/-- The row of a descriptor's opcode takes the descriptor up. -/
theorem exec_commandOf {q : Fin 65536} {c : Instr} (h : commandOf q d = some c) :
    ∃ row : Desc → Bool, row d = true ∧ exec c s = .next ((Act.desc row q d).run s) := by
  have hop (n : Nat) (e : hOpcode d = n) : isOp n d = true := by simp [isOp, e]
  unfold commandOf at h
  split at h
  case h_21 e =>
    obtain rfl := Option.some.inj h
    split
    · rename_i ht; exact ⟨fun d => hOpcode d == 0x80 && dmT d == 8, by simp [e, ht], rfl⟩
    · rename_i ht; exact ⟨fun d => hOpcode d == 0x80 && dmT d != 8, by simp [e, ht], rfl⟩
  case h_31 => cases h
  all_goals
    rename_i e
    obtain rfl := Option.some.inj h
    exact ⟨_, hop _ e, rfl⟩

/-- A descriptor that passes its header checks and whose predicate does not hold is not held: it retires at once (R114, R115). -/
theorem desc_skipped {row : Desc → Bool} (h : Passes s q k d) (hpred : s.predOk (s.qCore q) (s.qCtx q) d = false) (hrow : row d = true) :
    (Act.desc row q d).run s = (Act.seqDone (s.qCore q) k q (s.stream q).next d 1).run s := by
  have hserial : (hSerial d && !allRetired (s.stream q)) = false := by
    cases e : hSerial d
    · rfl
    · simp [h.serial e]
  have hheld : s.heldBack (s.qCore q) q (s.qCtx q) d = false := by
    simp [State.heldBack, h.saved, hserial, h.pred, hpred]
  have hwait : s.mustWait (s.qCore q) q (s.qCtx q) d = false := by simp [State.mustWait, State.queueWait, hheld, hpred]
  rw [desc_comes h.toComes hrow, h.header]
  simp only [Act.dispatch, Act.run_get, hwait, hpred, Bool.not_false, Bool.false_eq_true, if_false, if_true]

/-! ### Sequencer commands -/

/-- A ready command of the sequencer that waits for nothing executes. -/
theorem desc_sequencer {row : Desc → Bool} (h : Ready s q k d) (hrow : row d = true) (hclass : opClass (hOpcode d) = some 0)
    (hwait : s.seqWaits (s.qCore q) q (s.qCtx q) d = false) :
    (Act.desc row q d).run s = (Act.seqCommand (s.qCore q) k q (s.stream q).next (s.qCtx q) d).run s := by
  have hmust : s.mustWait (s.qCore q) q (s.qCtx q) d = false := by rw [mustWait_ready h, if_pos hclass, hwait]
  rw [desc_ready h hrow, hmust, if_neg (by decide), if_pos hclass]

/-- Work of the phase changes no stream. -/
theorem Act.phase_keepsStreams : Act.phase.Keeps fun s => s.u.core.streams :=
  keeps_get fun _ => keeps_ite (fun _ => keeps_skip) fun _ => keeps_seq (reg_keeps_u (g := fun u => u.core.streams)) <|
    keeps_seq (keeps_get fun _ => fld_keeps_u (g := fun u => u.core.streams)) <|
    keeps_seq (fun s => congrArg CoreU.streams (trace_keepsCore _ _ _ _ _ s)) <| keeps_seq (fun _ => rfl) keeps_skip

theorem Act.phase_touches : Act.phase.Touches [(.phase, 0), (.phaseChanges, 0)] :=
  touches_get fun _ => touches_ite touches_skip <| touches_seq (touches_reg (by simp)) <| touches_seq (touches_countFld (by simp)) <|
    touches_seq (trace_touches _ _ _ _ _) <| touches_seq (touches_core _) touches_skip

/-- NOP retires and does nothing more (R98). -/
theorem nop_retires (h : Ready s q k d) (hop : hOpcode d = 0) :
    let t := (Act.desc (isOp 0) q d).run s
    RetiredNow s t q (s.stream q).next d 0 ∧ SameMem s t ∧ SameEntriesBut dispatchEntries s t := by
  have hrun : (Act.desc (isOp 0) q d).run s = (Act.seqDone (s.qCore q) k q (s.stream q).next d 0).run s := by
    rw [desc_sequencer h (by simp [isOp, hop]) (by rw [hop]; rfl) (by simp [State.seqWaits, hop])]
    simp only [Act.seqCommand, Act.run_get, hop]
  intro t
  rw [show t = _ from hrun]
  exact ⟨(seqDone_retires h.fences).1, Act.seqDone_touches s⟩

/-- JOB_BEGIN opens a job, of learning where it says so (R118). -/
theorem jobBegin_retires (h : Ready s q k d) (hop : hOpcode d = 1) :
    let t := (Act.desc (isOp 1) q d).run s
    RetiredNow s t q (s.stream q).next d 0 ∧ (t.stream q).jobOpen = true ∧ (t.stream q).jobLearn = (dfld d 0x10 0 1 == 1) ∧
      SameMem s t := by
  have hrun : (Act.desc (isOp 1) q d).run s = (Act.all [.seqDone (s.qCore q) k q (s.stream q).next d 0,
      .stream q fun t => { t with jobOpen := true, jobLearn := dfld d 0x10 0 1 == 1 },
      .when (dfld d 0x10 0 1 == 1) .phase]).run s := by
    rw [desc_sequencer h (by simp [isOp, hop]) (by rw [hop]; rfl) (by simp [State.seqWaits, hop])]
    simp only [Act.seqCommand, Act.run_get, hop]
  intro t
  have hmem : SameMem s t := by
    rw [show t = _ from hrun]
    exact (Act.touches_seq (l := dispatchEntries ++ [(.phase, 0), (.phaseChanges, 0)]) (Act.seqDone_touches.mono (by simp))
      (Act.touches_seq (Act.touches_core _)
        (Act.touches_seq (Act.touches_when (Act.phase_touches.mono (by simp))) Act.touches_skip)) s).1
  have hdone := (seqDone_retires (core := s.qCore q) (k := k) (idx := (s.stream q).next) (d := d) (st := 0) h.fences).1
  rw [Act.run_all_cons, Act.run_all_cons, Act.run_all_cons, Act.run_all_nil] at hrun
  generalize (Act.seqDone (s.qCore q) k q (s.stream q).next d 0).run s = y at hrun hdone
  have hopen := (y.stream_run q q fun t => { t with jobOpen := true, jobLearn := dfld d 0x10 0 1 == 1 }).trans (if_pos rfl)
  generalize (Act.stream q fun t => { t with jobOpen := true, jobLearn := dfld d 0x10 0 1 == 1 }).run y = z at hrun hopen
  have hphase : t.u.core.streams = z.u.core.streams := by
    rw [show t = _ from hrun]; exact Act.keeps_when (fun _ => Act.phase_keepsStreams) z
  have hz : RetiredNow s z q (s.stream q).next d 0 := hdone.of_same (by rw [hopen]) (by rw [hopen]) (by rw [hopen])
  have ht : t.stream q = z.stream q := by rw [State.stream, hphase, State.stream]
  exact ⟨hz.of_streams hphase, by rw [ht, hopen], by rw [ht, hopen], hmem⟩

/-- A command that retires at once and then changes what its context keeps on the core. -/
theorem seqDone_then {core idx c ctx st : Nat} {f : CtxCore → CtxCore}
    (hopen : ∀ f ∈ (s.stream q).fly, hOpcode f.d = 3 → f.done = true) :
    let t := (Act.all [.seqDone core k q idx d st, .ctxCore c ctx f]).run s
    RetiredNow s t q idx d st ∧ SameMem s t := by
  intro t
  refine ⟨?_, (Act.touches_seq Act.seqDone_touches (Act.touches_seq (Act.touches_core _) Act.touches_skip) s).1⟩
  have hdone := (seqDone_retires (core := core) (k := k) (idx := idx) (d := d) (st := st) hopen).1
  rw [show t = _ from Act.run_all_cons _ _ _]
  generalize (Act.seqDone core k q idx d st).run s = y at hdone
  exact hdone.of_streams rfl

/-- GATE_SET retires and gives its gate the capacity, all of it credits (R110). -/
theorem gateSet_retires (h : Ready s q k d) (hop : hOpcode d = 4)
    (hfree : s.gateBusy (s.qCore q) (s.qCtx q) (dfld d 0x10 0 3) = false) :
    let t := (Act.desc (isOp 4) q d).run s
    t.gate (s.qCore q) (s.qCtx q) (dfld d 0x10 0 3) = ⟨dfld d 0x10 16 10, dfld d 0x10 16 10, 0⟩ ∧
      RetiredNow s t q (s.stream q).next d 0 ∧ SameMem s t := by
  have hrun : (Act.desc (isOp 4) q d).run s = (Act.all [.seqDone (s.qCore q) k q (s.stream q).next d 0,
      .gate (s.qCore q) (s.qCtx q) (dfld d 0x10 0 3) fun _ => ⟨dfld d 0x10 16 10, dfld d 0x10 16 10, 0⟩]).run s := by
    rw [desc_sequencer h (by simp [isOp, hop]) (by rw [hop]; rfl) (by simp [State.seqWaits, hop, hfree])]
    simp only [Act.seqCommand, Act.run_get, hop]
  exact hrun ▸ ⟨by rw [Act.run_all_cons, Act.run_all_cons, Act.run_all_nil, State.gate_run, if_pos rfl], seqDone_then h.fences⟩

/-- FLAG_SET retires and computes its flag word (R121). -/
theorem flagSet_retires (h : Ready s q k d) (hop : hOpcode d = 5)
    (hfree : ((s.stream q).fly.any fun f => !f.done && hOpcode f.d == 0x43 && dfld f.d 0x38 32 4 == dfld d 0x10 0 4) = false) :
    let t := (Act.desc (isOp 5) q d).run s
    t.flag (s.qCore q) (s.qCtx q) (dfld d 0x10 0 4) = flagOp (dfld d 0x10 4 2) (s.flag (s.qCore q) (s.qCtx q) (dfld d 0x10 0 4))
        (dfld d 0x10 32 32) % 2 ^ 32 ∧ RetiredNow s t q (s.stream q).next d 0 ∧ SameMem s t := by
  have hrun : (Act.desc (isOp 5) q d).run s = (Act.all [.seqDone (s.qCore q) k q (s.stream q).next d 0,
      .flag (s.qCore q) (s.qCtx q) (dfld d 0x10 0 4) (flagOp (dfld d 0x10 4 2) (s.flag (s.qCore q) (s.qCtx q) (dfld d 0x10 0 4))
        (dfld d 0x10 32 32))]).run s := by
    rw [desc_sequencer h (by simp [isOp, hop]) (by rw [hop]; rfl) (by simp only [State.seqWaits, hop, hfree])]
    simp only [Act.seqCommand, Act.run_get, hop]
  exact hrun ▸ ⟨by rw [Act.run_all_cons, Act.run_all_cons, Act.run_all_nil, Act.flag, State.flag, State.ctxCore_run_same, tgetD_tset_same],
    seqDone_then h.fences⟩

/-- What the course of a stream tells: where the course is the same, no FENCE opens. -/
theorem fences_of_course {x y : State} (h : y.u.core.course q = x.u.core.course q)
    (hopen : ∀ f ∈ (x.stream q).fly, hOpcode f.d = 3 → f.done = true) :
    ∀ f ∈ (y.stream q).fly, hOpcode f.d = 3 → f.done = true := by
  intro f hf hop
  have hmem : (f.idx, f.d, f.done) ∈ (x.stream q).fly.map fun f => (f.idx, f.d, f.done) :=
    (congrArg (fun c => c.2.2) h : (y.stream q).fly.map _ = (x.stream q).fly.map _) ▸ List.mem_map.2 ⟨f, hf, rfl⟩
  obtain ⟨g, hg, he⟩ := List.mem_map.1 hmem
  simp only [Prod.mk.injEq] at he
  obtain ⟨-, hd, hdone⟩ := he
  rw [← hdone]
  exact hopen g hg (hd ▸ hop)

/-- JOB_END closes the job once every earlier command retired; the telemetry records that it writes change none of it (R65, R118). -/
theorem jobEnd_retires (h : Ready s q k d) (hop : hOpcode d = 2) (hall : allRetired (s.stream q) = true) :
    let t := (Act.desc (isOp 2) q d).run s
    RetiredNow s t q (s.stream q).next d 0 ∧ (t.stream q).jobOpen = false := by
  have hown : s.ownGoes = true := by simp [State.ownGoes, h.memory]
  have hrun : (Act.desc (isOp 2) q d).run s = (Act.all [.stream q fun t => { t with jobOpen := false, jobLearn := false },
      .telemetry (s.qCtx q) 0 (s.rd .jobCount (s.qCtx q) / 2 ^ 64 % 2 ^ 64 + s.jobsDue (s.qCtx q) + 1),
      .seqDone (s.qCore q) k q (s.stream q).next d 0, .when (s.stream q).jobLearn .phase]).run s := by
    rw [desc_sequencer h (by simp [isOp, hop]) (by rw [hop]; rfl) (by simp [State.seqWaits, hop, hall, hown])]
    simp only [Act.seqCommand, Act.run_get, hop]
  intro t
  rw [Act.run_all_cons, Act.run_all_cons, Act.run_all_cons, Act.run_all_cons, Act.run_all_nil] at hrun
  have hclosed := (s.stream_run q q fun t => { t with jobOpen := false, jobLearn := false }).trans (if_pos rfl)
  generalize (Act.stream q fun t => { t with jobOpen := false, jobLearn := false }).run s = x at hrun hclosed
  have hcourse := Act.telemetry_keepsCourse q (s.qCtx q) 0 (s.rd .jobCount (s.qCtx q) / 2 ^ 64 % 2 ^ 64 + s.jobsDue (s.qCtx q) + 1) x
  generalize (Act.telemetry (s.qCtx q) 0 (s.rd .jobCount (s.qCtx q) / 2 ^ 64 % 2 ^ 64 + s.jobsDue (s.qCtx q) + 1)).run x = y at hrun hcourse
  have hnext : (y.stream q).next = (s.stream q).next := Eq.trans (b := (x.stream q).next) (congrArg Prod.fst hcourse) (by rw [hclosed])
  have hjob : (y.stream q).jobOpen = false := Eq.trans (b := (x.stream q).jobOpen) (congrArg (fun c => c.2.1) hcourse) (by rw [hclosed])
  obtain ⟨⟨hdone, hone, hbundle⟩, hstays⟩ :=
    seqDone_retires (s := y) (core := s.qCore q) (k := k) (idx := (s.stream q).next) (d := d) (st := 0)
    (fences_of_course hcourse (by rw [hclosed]; exact h.fences))
  generalize (Act.seqDone (s.qCore q) k q (s.stream q).next d 0).run y = z at hrun hdone hone hbundle hstays
  have hphase : t.u.core.streams = z.u.core.streams := by
    rw [show t = _ from hrun]; exact Act.keeps_when (fun _ => Act.phase_keepsStreams) z
  have hz : RetiredNow s z q (s.stream q).next d 0 := ⟨hdone, hnext ▸ hone, hbundle⟩
  refine ⟨hz.of_streams hphase, ?_⟩
  rw [State.stream, hphase, ← State.stream, hstays, hjob]

end

/-! ### A FENCE with nothing to wait for (R119, R396) -/

section
variable {s x : State} {q idx : Nat} {d : Desc}

/-- FENCEs that have not retired: commands of opcode 3 in flight in some stream. -/
theorem State.mem_openFences_iff {p : Nat × Fly} : p ∈ x.openFences ↔
    p.1 ∈ x.u.core.streams.map Prod.fst ∧ p.2 ∈ (x.stream p.1).fly ∧ hOpcode p.2.d = 3 ∧ p.2.done = false := by
  obtain ⟨r, g⟩ := p
  simp only [State.openFences, List.mem_flatMap, List.mem_map, List.mem_filter, Prod.mk.injEq, Bool.and_eq_true, beq_iff_eq,
    Bool.not_eq_true']
  constructor
  · rintro ⟨a, ha, f, ⟨hf, hop, hdone⟩, rfl, rfl⟩
    exact ⟨ha, hf, hop, hdone⟩
  · rintro ⟨hr, hf, hop, hdone⟩
    exact ⟨r, hr, g, ⟨hf, hop, hdone⟩, rfl, rfl⟩

/-- A stream that holds a command has its key. -/
theorem State.mem_streams {f : Fly} (hf : f ∈ (x.stream q).fly) : q ∈ x.u.core.streams.map Prod.fst := by
  cases hq : tget x.u.core.streams q with
  | none => simp [State.stream, tgetD, hq] at hf
  | some t => exact List.mem_map.2 ⟨(q, t), tget_mem hq, rfl⟩

/-- Each FENCE that retires leaves fewer open. -/
theorem openFences_flySet {p : Nat × Fly} (hp : p ∈ x.openFences) :
    (((Act.flySet p.1 p.2.idx 0 0 0 0 false).run x).openFences.toFinset) ⊂ x.openFences.toFinset := by
  have hfly := flySet_fly (x := x) (q := p.1) (idx := p.2.idx) (st := 0) (rs := 0) (res := 0) (res2 := 0) (p := false)
  have hold {r : Nat} {g : Fly} (hg : (r, g) ∈ ((Act.flySet p.1 p.2.idx 0 0 0 0 false).run x).openFences) :
      (r, g) ∈ x.openFences ∧ (r = p.1 → g.idx ≠ p.2.idx) := by
    obtain ⟨hr, hg, hop, hdone⟩ := State.mem_openFences_iff.1 hg
    have hkey : r ∈ x.u.core.streams.map Prod.fst := by
      obtain ⟨e, he, rfl⟩ := List.mem_map.1 hr
      rcases tset_mem he with rfl | he
      · exact (State.mem_openFences_iff.1 hp).1
      · exact List.mem_map.2 ⟨e, he, rfl⟩
    by_cases hrp : r = p.1
    · subst hrp
      rw [hfly] at hg
      obtain ⟨g', hg', rfl⟩ := List.mem_map.1 hg
      by_cases hi : g'.idx = p.2.idx
      · simp [hi] at hdone
      · rw [if_neg hi] at hop hdone ⊢
        exact ⟨State.mem_openFences_iff.2 ⟨hkey, hg', hop, hdone⟩, fun _ => hi⟩
    · rw [Act.flySet, Act.run_get, State.stream_run, if_neg hrp] at hg
      exact ⟨State.mem_openFences_iff.2 ⟨hkey, hg, hop, hdone⟩, fun e => absurd e hrp⟩
  refine Finset.ssubset_iff_subset_ne.2 ⟨fun g hg => List.mem_toFinset.2 (hold (List.mem_toFinset.1 hg)).1, fun he => ?_⟩
  have hnew := List.mem_toFinset.1 (he ▸ List.mem_toFinset.2 hp : p ∈ _)
  exact (hold hnew).2 rfl rfl

/-- The command of a queue is retired as a FENCE retires, or waits for nothing more. -/
def Unfenced (x : State) (q idx : Nat) (d : Desc) : Prop := ∃ f ∈ (x.stream q).fly, f.idx = idx ∧ f.d = d ∧
  ((f.done = true ∧ f.status = 0 ∧ f.res = 0 ∧ f.res2 = 0) ∨ (f.done = false ∧ f.fence = [] ∧ f.fenceMolt = none))

theorem Unfenced.flySet (h : Unfenced x q idx d) (p j : Nat) : Unfenced ((Act.flySet p j 0 0 0 0 false).run x) q idx d := by
  obtain ⟨f, hf, hidx, hd, hstate⟩ := h
  by_cases hp : q = p
  · subst hp
    rw [Unfenced, flySet_fly]
    refine ⟨_, List.mem_map.2 ⟨f, hf, rfl⟩, ?_⟩
    split
    · exact ⟨hidx, hd, .inl ⟨rfl, rfl, rfl, rfl⟩⟩
    · exact ⟨hidx, hd, hstate⟩
  · have hsame : ((Act.flySet p j 0 0 0 0 false).run x).stream q = x.stream q := by
      rw [Act.flySet, Act.run_get, State.stream_run, if_neg hp]
    rw [Unfenced, hsame]
    exact ⟨f, hf, hidx, hd, hstate⟩

/-- Where no FENCE that is open is satisfied, one that waits for nothing has retired. -/
theorem Unfenced.retired (h : Unfenced x q idx d) (hop : hOpcode d = 3) (hnone : ∀ p ∈ x.openFences, x.fenceOk p.2 = false) :
    Retired x q idx d 0 0 := by
  obtain ⟨f, hf, hidx, rfl, ⟨hdone, hst, hres, hres2⟩ | ⟨hdone, hfence, hmolt⟩⟩ := h
  · exact ⟨f, hf, hidx, rfl, hdone, hst, hres, hres2⟩
  · have := hnone (q, f) (State.mem_openFences_iff.2 ⟨State.mem_streams hf, hf, hop, hdone⟩)
    simp [State.fenceOk, hfence, hmolt] at this

theorem fencesUp_retires {n : Nat} (h : Unfenced x q idx d) (hop : hOpcode d = 3) (hn : x.openFences.toFinset.card ≤ n) :
    Retired ((Act.fencesUp n).run x) q idx d 0 0 := by
  induction n generalizing x with
  | zero =>
    have hempty : x.openFences = [] := by simpa using hn
    exact h.retired hop (by simp [hempty])
  | succ n ih =>
    rw [Act.fencesUp, Act.run_get]
    split
    · rename_i p hp
      have hless := Finset.card_lt_card (openFences_flySet (List.mem_of_find?_eq_some hp))
      exact ih (h.flySet p.1 p.2.idx) (by omega)
    · rename_i hp
      exact h.retired hop fun p hm => by simpa using List.find?_eq_none.1 hp p hm

/-- FENCEs that retire move no stream on. -/
theorem Act.fencesUp_keepsNext (n q : Nat) : (Act.fencesUp n).Keeps fun s => (s.stream q).next := by
  induction n with
  | zero => exact keeps_skip
  | succ n ih =>
    refine keeps_get fun _ => ?_
    split
    · refine keeps_seq (keeps_get fun _ x => ?_) ih
      rw [State.stream_run]
      split
      · rename_i h; rw [h]
      · rfl
    · exact keeps_skip

/-- A FENCE that finds nothing to wait for retires as it is dispatched. -/
theorem fence_retires {k : Nat} (h : Ready s q k d) (hop : hOpcode d = 3) (hnone : s.fenceSet q (s.qCtx q) (dfld d 0x10 0 1) = [])
    (hmolt : dfld d 0x10 0 1 = 1 → s.moltOf (s.qCtx q) = false) :
    let t := (Act.desc (isOp 3) q d).run s
    Retired t q (s.stream q).next d 0 0 ∧ TookOne s t q ∧ SameMem s t := by
  have hfree : (dfld d 0x10 0 1 == 1 && s.moltOf (s.qCtx q)) = false := by
    by_cases he : dfld d 0x10 0 1 = 1
    · simp [hmolt he]
    · simp [he]
  have hrun : (Act.desc (isOp 3) q d).run s = (Act.all [.inFlight (s.qCore q) k q (s.stream q).next d,
      .when (hBundle d != 0) (.stream q fun t => { t with bunOn := sadd t.bunOn t.bun }),
      .stream q fun t => { t with fly := t.fly.map fun f =>
        if f.idx = (s.stream q).next then { f with fence := [], fenceMolt := none } else f },
      .fences]).run s := by
    rw [desc_sequencer h (by simp [isOp, hop]) (by rw [hop]; rfl) (by simp [State.seqWaits, hop])]
    simp only [Act.seqCommand, Act.run_get, hop, hnone, hfree, Bool.false_eq_true, if_false]
  intro t
  have hmem : SameMem s t := by
    rw [show t = _ from hrun]
    exact (Act.touches_seq Act.inFlight_touches (Act.touches_seq (Act.touches_when (Act.touches_core _)) (Act.touches_seq (Act.touches_core _)
      (Act.touches_seq (Act.touches_get fun _ => Act.fencesUp_touches _) Act.touches_skip))) s).1
  rw [Act.run_all_cons, Act.run_all_cons, Act.run_all_cons, Act.run_all_cons, Act.run_all_nil] at hrun
  obtain ⟨ser, hstream⟩ := inFlight_streams (s := s) (p := s.qCore q) (k := k) (q := q) (idx := (s.stream q).next) (d := d)
  have hx := hstream q
  rw [if_pos rfl] at hx
  generalize (Act.inFlight (s.qCore q) k q (s.stream q).next d).run s = x at hrun hx
  obtain ⟨on, hy⟩ := bundleOn_stream (x := x) (q := q) (b := hBundle d != 0)
  generalize (Act.when (hBundle d != 0) (.stream q fun t => { t with bunOn := sadd t.bunOn t.bun })).run x = y at hrun hy
  rw [hx] at hy
  have hz := (y.stream_run q q fun t => { t with fly := t.fly.map fun f =>
    if f.idx = (s.stream q).next then { f with fence := [], fenceMolt := none } else f }).trans (if_pos rfl)
  rw [hy] at hz
  generalize (Act.stream q fun t => { t with fly := t.fly.map fun f =>
    if f.idx = (s.stream q).next then { f with fence := [], fenceMolt := none } else f }).run y = z at hrun hz
  have hwaits : Unfenced z q (s.stream q).next d := by
    rw [Unfenced, hz]
    exact ⟨_, List.mem_map.2 ⟨_, List.mem_append.2 (.inr (List.mem_singleton_self _)), if_pos rfl⟩, rfl, rfl, .inr ⟨rfl, rfl, rfl⟩⟩
  refine ⟨?_, ?_, hmem⟩
  · rw [show t = _ from hrun]
    exact fencesUp_retires hwaits hop (List.toFinset_card_le _)
  · rw [TookOne, show t = _ from hrun]
    exact (Act.fencesUp_keepsNext z.openFences.length q z).trans (congrArg Stream.next hz)

end

/-! ### The statement -/

/-- Settles O8: a skipped command and each of the sequencer's own retires at once; a FENCE that waits for nothing is among the open
FENCEs that are satisfied, as many of which retire as are open. -/
theorem sequencerCommandsTakeEffect : Obligations.SequencerCommandsTakeEffect := by
  unfold Obligations.SequencerCommandsTakeEffect
  refine ⟨fun s q k d c h hpred hc => ?_, fun s q k d h => ⟨fun hop => ?_, fun hop => ?_, fun hop hall => ?_, fun hop hnone hmolt => ?_,
    fun hop hfree => ?_, fun hop hfree => ?_⟩⟩
  · obtain ⟨row, hrow, hexec⟩ := exec_commandOf (s := s) hc
    rw [desc_skipped h hpred hrow] at hexec
    obtain ⟨⟨hdone, hnext, hbundle⟩, hjob⟩ :=
      seqDone_retires (core := s.qCore q) (k := k) (idx := (s.stream q).next) (d := d) (st := 1) h.fences
    obtain ⟨hmem, hrd⟩ := Act.seqDone_touches (core := s.qCore q) (k := k) (q := q) (idx := (s.stream q).next) (d := d) (st := 1) s
    have hkept := Act.seqDone_keepsUnexecuted (core := s.qCore q) (k := k) (q := q) (idx := (s.stream q).next) (d := d) (st := 1) s
    simp only [State.unexecuted, Prod.mk.injEq, funext_iff] at hkept
    obtain ⟨hqueues, hmon, hcc⟩ := hkept
    refine ⟨_, hexec, hdone, hnext, hqueues, hmon, fun core ctx g => ?_, fun core ctx => ?_, hjob, hbundle, hmem, hrd⟩
    · obtain ⟨hgates, hflags, -, -⟩ := hcc core ctx
      exact ⟨by rw [State.gate, hgates, State.gate], by rw [State.flag, hflags, State.flag]⟩
    · obtain ⟨-, -, hgrp, hdgrp⟩ := hcc core ctx
      exact ⟨hgrp, hdgrp⟩
  · obtain ⟨hdone, hmem, hrd⟩ := nop_retires h hop
    exact ⟨_, rfl, hdone.retired, hdone.next, hmem, hrd⟩
  · obtain ⟨hdone, hopen, hlearn, hmem⟩ := jobBegin_retires h hop
    exact ⟨_, rfl, hdone.retired, hdone.next, hopen, hlearn, hmem⟩
  · obtain ⟨hdone, hclosed⟩ := jobEnd_retires h hop hall
    exact ⟨_, rfl, hdone.retired, hdone.next, hclosed⟩
  · exact ⟨_, rfl, fence_retires h hop hnone hmolt⟩
  · obtain ⟨hgate, hdone, hmem⟩ := gateSet_retires h hop hfree
    exact ⟨_, rfl, hgate, hdone.retired, hdone.next, hmem⟩
  · obtain ⟨hflag, hdone, hmem⟩ := flagSet_retires h hop hfree
    exact ⟨_, rfl, hflag, hdone.retired, hdone.next, hmem⟩

end Sys2Proof.Machine
end

section
/-! SUPPORT. Writes in a context's address space where memory takes no errors (R269, R288, R381), and with them the completion of a
command (R104, R145, R384). -/

namespace Sys2Proof.Machine

/-! ### What an access in a context's address space depends on -/

/-- Entries that the completion of a command counts in, with those that its accesses to memory count in. -/
def countedEntries : List EName := [.memErrors, .jobCount, .queueState]

/-- What translations and writes look at where memory takes no errors: the stores, the layout, power and straps, what the host has
granted, and every entry but the counters. -/
def State.paths (s : State) : (MemSel → Store) × MemU × PowU × HostU × (EName → Nat → Nat) :=
  (s.store, s.u.mem, s.u.pow, s.u.host, fun n i => if n ∈ countedEntries ∨ n.count ≤ i then 0 else s.rd n i)

section
variable {s t : State} {ctx : Nat}

theorem State.paths_iff : t.paths = s.paths ↔
    (∀ m, t.store m = s.store m) ∧ t.u.mem = s.u.mem ∧ t.u.pow = s.u.pow ∧ t.u.host = s.u.host ∧
    ∀ n i, n ∉ countedEntries → i < n.count → t.rd n i = s.rd n i := by
  simp only [State.paths, Prod.mk.injEq, funext_iff]
  refine and_congr_right fun _ => and_congr_right fun _ => and_congr_right fun _ => and_congr_right fun _ =>
    forall_congr' fun n => forall_congr' fun i => ?_
  by_cases hn : n ∈ countedEntries
  · simp [hn]
  · rcases Nat.lt_or_ge i n.count with hi | hi
    · simp [hn, hi, Nat.not_le.2 hi]
    · simp [hn, hi, Nat.not_lt.2 hi]

theorem State.stack_of_paths (h : t.paths = s.paths) : t.stack = s.stack := (State.paths_iff.1 h).1 .stack

theorem State.rd_of_paths {n : EName} {i : Nat} (h : t.paths = s.paths) (hn : n ∉ countedEntries) (hi : i < n.count) :
    t.rd n i = s.rd n i := (State.paths_iff.1 h).2.2.2.2 n i hn hi

theorem State.faulty_of_paths (h : t.paths = s.paths) (hf : s.u.mem.faulty = false) : t.u.mem.faulty = false := by
  rw [(State.paths_iff.1 h).2.1, hf]

theorem State.rdStack_of_paths (h : t.paths = s.paths) (hf : s.u.mem.faulty = false) (a n : Nat) : t.rdStack a n = s.rdStack a n := by
  obtain ⟨hstore, hmem, hpow, -, -⟩ := State.paths_iff.1 h
  simp only [State.rdStack, State.rdMem, State.badChannel, hstore, hmem, hpow, State.stack_of_paths h, readByte_sound hf,
    readByte_sound (State.faulty_of_paths h hf)]

theorem State.tableEntry_of_paths (h : t.paths = s.paths) (hf : s.u.mem.faulty = false) (dva level table : Nat) :
    t.tableEntry dva level table = s.tableEntry dva level table := by
  simp only [State.tableEntry, State.rdStack_of_paths h hf, (State.paths_iff.1 h).2.1]

theorem State.walk_of_paths (h : t.paths = s.paths) (hf : s.u.mem.faulty = false) (dva level table : Nat) :
    t.walk dva level table = s.walk dva level table := by
  induction level generalizing table with
  | zero => unfold State.walk; rw [State.tableEntry_of_paths h hf]
  | succ level ih => unfold State.walk; simp only [State.tableEntry_of_paths h hf, ih]

theorem State.xlate_of_paths (h : t.paths = s.paths) (hf : s.u.mem.faulty = false) (hctx : ctx < 1024) (dva : Nat) (wr : Bool) :
    t.xlate ctx dva wr = s.xlate ctx dva wr := by
  simp only [State.xlate, State.walk_of_paths h hf, State.rd_of_paths h (n := .ptRoot) (by decide) hctx]

theorem State.atsFault_of_paths (h : t.paths = s.paths) (hctx : ctx < 1024) (a n : Nat) (wr : Bool) :
    t.atsFault ctx a n wr = s.atsFault ctx a n wr := by
  simp only [State.atsFault, State.fld, State.rd_of_paths h (n := .ctxAdmin) (by decide) hctx, (State.paths_iff.1 h).2.2.2.1]
  rfl

theorem State.xlateAll_of_paths (h : t.paths = s.paths) (hf : s.u.mem.faulty = false) (hctx : ctx < 1024) (wr : Bool)
    (pages : Bool → Bool) (l : List (Nat × Nat)) : t.xlateAll ctx wr pages l = s.xlateAll ctx wr pages l := by
  induction l with
  | nil => rfl
  | cons p r ih => simp only [State.xlateAll, State.xlate_of_paths h hf hctx, State.atsFault_of_paths h hctx, ih]

/-- Translations are the same. -/
theorem State.span_of_paths (h : t.paths = s.paths) (hf : s.u.mem.faulty = false) (hctx : ctx < 1024) (dva n : Nat) (wr : Bool) :
    t.span ctx dva n wr = s.span ctx dva n wr := State.xlateAll_of_paths h hf hctx wr not _

end

/-! ### Writes -/

/-- Besides memory, `t` differs from `s` at most in counts of memory errors. -/
structure OnlyMemory (s t : State) : Prop where
  units : t.u = s.u
  entries : ∀ n i, n ≠ .memErrors → i < n.count → t.rd n i = s.rd n i

theorem OnlyMemory.refl (s : State) : OnlyMemory s s := ⟨rfl, fun _ _ _ _ => rfl⟩

section
variable {s t x : State} {l : List (MemSel × Nat × Nat)} {bs : PBytes}

theorem OnlyMemory.trans (h : OnlyMemory s t) (h' : OnlyMemory t x) : OnlyMemory s x :=
  ⟨h'.units.trans h.units, fun n i hn hi => (h'.entries n i hn hi).trans (h.entries n i hn hi)⟩

theorem OnlyMemory.sound (h : OnlyMemory s t) (hf : s.u.mem.faulty = false) : t.u.mem.faulty = false := by rw [h.units, hf]

theorem OnlyMemory.paths (h : OnlyMemory s t) (hstore : ∀ m, t.store m = s.store m) : t.paths = s.paths :=
  State.paths_iff.2 ⟨hstore, by rw [h.units], by rw [h.units], by rw [h.units],
    fun n i hn hi => h.entries n i (fun e => hn (e ▸ by decide)) hi⟩

theorem OnlyMemory.mem (s : State) (m : MemSel) (a : Nat) (bs : PBytes) : OnlyMemory s ((Act.mem m a bs).run s) :=
  ⟨Act.mem_keeps_u (g := id) s, fun n i _ _ => State.rd_congr (Act.mem_keeps_regs (g := id) s) (Act.mem_keeps_u (g := fun u => u.pow) s) n i⟩

theorem OnlyMemory.count (s : State) (i k by_ : Nat) : OnlyMemory s ((Act.count .memErrors i k by_).run s) := by
  refine ⟨Act.count_keeps_u (g := id) s, fun n j hn hj => ?_⟩
  have := Act.touches_count (l := [(.memErrors, i)]) (n := .memErrors) (i := i) (k := k) (by_ := by_) (by simp)
  exact this.rd hj (by simp [hn]) s

/-- A burst of sound memory is clean, or was stored poisoned. -/
theorem readBurst_sound (hf : s.u.mem.faulty = false) (g : Nat) :
    s.readBurst g = if s.stack.poison.contains g then .poisoned [] [] else .clean := by
  simp only [MemU.faulty, Bool.or_eq_false_iff, Bool.not_eq_false', List.isEmpty_iff] at hf
  simp [State.readBurst, State.deadPins, hf.1, hf.2, tget]

/-- The action counts memory errors at most, memory being sound. -/
def Act.CountsErrors (a : Act) : Prop :=
  ∀ s : State, s.u.mem.faulty = false → OnlyMemory s (a.run s) ∧ ∀ m, (a.run s).store m = s.store m

theorem Act.countsErrors_skip : Act.skip.CountsErrors := fun s _ => ⟨.refl s, fun _ => rfl⟩

theorem Act.countsErrors_count (i k by_ : Nat) : (Act.count .memErrors i k by_).CountsErrors := fun s _ =>
  ⟨.count s i k by_, fun m => Act.count_keeps_store m s⟩

theorem Act.countsErrors_each {β : Type} {bs : List β} {f : β → Act} (h : ∀ b ∈ bs, (f b).CountsErrors) :
    (Act.each bs f).CountsErrors := by
  induction bs with
  | nil => exact countsErrors_skip
  | cons b r ih =>
    intro s hf
    obtain ⟨honly, hstore⟩ := h b (by simp) s hf
    obtain ⟨honly', hstore'⟩ := ih (fun c hc => h c (by simp [hc])) _ (honly.sound hf)
    rw [Act.run_each_cons]
    exact ⟨honly.trans honly', fun m => (hstore' m).trans (hstore m)⟩

theorem Act.burstRead_countsErrors (g : Nat) : (Act.burstRead false g).CountsErrors := fun s hf => by
  have hrun : (Act.burstRead false g).run s = s ∨ ∃ p, (Act.burstRead false g).run s = (Act.count .memErrors p 3).run s := by
    simp only [Act.burstRead, Act.run_get]
    split
    · exact .inl rfl
    · rw [readBurst_sound hf]
      split
      · exact .inl rfl
      · rename_i h; split at h <;> cases h
      · rename_i h
        split at h <;> cases h
        exact .inr ⟨_, rfl⟩
      · rename_i h; split at h <;> cases h
  rcases hrun with h | ⟨p, h⟩ <;> rw [h]
  · exact ⟨.refl s, fun _ => rfl⟩
  · exact countsErrors_count p 3 1 s hf

theorem Act.noteRead_countsErrors (a n : Nat) : (Act.noteRead .stack a n).CountsErrors := fun s =>
  countsErrors_each (fun g _ => burstRead_countsErrors g) s

/-- Walks of page tables are counted reads. -/
theorem Act.noteWalks_countsErrors (ctx dva n : Nat) : (Act.noteWalks ctx dva n).CountsErrors := fun s hf => by
  simp only [Act.noteWalks, Act.run_get]
  cases (s.u.mem.faulty || !s.stack.poison.isEmpty)
  · exact countsErrors_skip s hf
  · exact countsErrors_each (fun a _ => noteRead_countsErrors a 8) s hf

/-- Memory being sound, the action changes memory alone, and alike from states that an access sees alike. -/
def Act.Writes (a : Act) : Prop := ∀ s t : State, s.u.mem.faulty = false → t.paths = s.paths →
  OnlyMemory s (a.run s) ∧ (a.run t).paths = (a.run s).paths

theorem Act.writes_skip : Act.skip.Writes := fun s _ _ h => ⟨.refl s, h⟩

theorem Act.writes_seq {a b : Act} (ha : a.Writes) (hb : b.Writes) : (Act.seq a b).Writes := fun s t hf h => by
  obtain ⟨honly, hpaths⟩ := ha s t hf h
  obtain ⟨honly', hpaths'⟩ := hb _ _ (honly.sound hf) hpaths
  exact ⟨honly.trans honly', hpaths'⟩

theorem Act.writes_get {g : State → Act} (h : ∀ s t : State, s.u.mem.faulty = false → t.paths = s.paths → g t = g s ∧ (g s).Writes) :
    (Act.get g).Writes := fun s t hf hp => by
  obtain ⟨heq, hw⟩ := h s t hf hp
  simpa only [Act.run_get, heq] using hw s t hf hp

theorem Act.writes_each {β : Type} {bs : List β} {f : β → Act} (h : ∀ b ∈ bs, (f b).Writes) : (Act.each bs f).Writes := by
  induction bs with
  | nil => exact writes_skip
  | cons b r ih => exact writes_seq (h b (by simp)) (ih fun c hc => h c (by simp [hc]))

theorem Act.writes_mem (m : MemSel) (a : Nat) (bs : PBytes) : (Act.mem m a bs).Writes := fun s t _ h => by
  have hs := OnlyMemory.mem s m a bs
  have ht := OnlyMemory.mem t m a bs
  obtain ⟨hstore, hmem, hpow, hhost, hrd⟩ := State.paths_iff.1 h
  refine ⟨hs, State.paths_iff.2 ⟨fun k => ?_, by rw [ht.units, hs.units, hmem], by rw [ht.units, hs.units, hpow],
    by rw [ht.units, hs.units, hhost], fun n i hn hi => ?_⟩⟩
  · by_cases hk : k = m
    · subst hk; simp [hstore]
    · rw [Act.run_mem_other m k a bs t hk, Act.run_mem_other m k a bs s hk, hstore]
  · have hne : n ≠ .memErrors := fun e => hn (e ▸ by decide)
    rw [ht.entries n i hne hi, hs.entries n i hne hi, hrd n i hn hi]

theorem Act.writes_count (i k by_ : Nat) : (Act.count .memErrors i k by_).Writes := fun s t hf h => by
  have hpaths (x : State) : ((Act.count .memErrors i k by_).run x).paths = x.paths :=
    (OnlyMemory.count x i k by_).paths fun m => Act.count_keeps_store m x
  exact ⟨.count s i k by_, by rw [hpaths, hpaths, h]⟩

/-- Bytes written to stack memory that is sound leave no errors to settle. -/
theorem Act.settleErrs_writes (a n : Nat) : (Act.settleErrs a n).Writes := fun s t hf h => by
  have hskip (x : State) (hx : x.u.mem.faulty = false) : (Act.settleErrs a n).run x = x := by simp [Act.settleErrs, hx]
  rw [hskip s hf, hskip t (State.faulty_of_paths h hf)]
  exact ⟨.refl s, h⟩

theorem Act.wrStack_writes (a : Nat) (bs : PBytes) : (Act.wrStack a bs).Writes := writes_get fun s t hf h => by
  obtain ⟨-, hmem, hpow, -, -⟩ := State.paths_iff.1 h
  refine ⟨by simp only [State.badChannel, hmem, hpow], writes_seq (settleErrs_writes _ _) (writes_seq ?_ (writes_seq ?_ writes_skip))⟩
  · split
    · exact writes_mem _ _ _
    · exact writes_each fun _ _ => writes_mem _ _ _
  · cases anyPoison bs
    · exact writes_skip
    · exact writes_each fun _ _ => writes_count _ _ _

theorem Act.wrSpan_writes (l : List (MemSel × Nat × Nat)) (bs : PBytes) : (Act.wrSpan l bs).Writes := by
  induction l generalizing bs with
  | nil => exact writes_skip
  | cons p r ih =>
    refine writes_seq ?_ (ih _)
    obtain ⟨m, a, n⟩ := p
    cases m
    · exact wrStack_writes _ _
    · exact writes_mem _ _ _
    · exact writes_mem _ _ _

/-- A write that Melkody makes on its own account, clean and translated, writes its bytes and counts errors of memory at most (R394). -/
theorem wrOwn_writes {ctx kind dva : Nat} (hf : s.u.mem.faulty = false) (hclean : anyPoison bs = false)
    (hspan : s.span ctx dva bs.length true = .ok l) :
    OnlyMemory s ((Act.wrOwn ctx kind dva bs).run s) ∧ ((Act.wrOwn ctx kind dva bs).run s).paths = ((Act.wrSpan l bs).run s).paths := by
  obtain ⟨hwalk, hstore⟩ := Act.noteWalks_countsErrors ctx dva bs.length s hf
  have hrun : (Act.wrOwn ctx kind dva bs).run s = (Act.wrSpan l bs).run ((Act.noteWalks ctx dva bs.length).run s) := by
    simp [Act.wrOwn, Act.wrCtx, hspan, Act.noteOut, hclean]
  rw [hrun]
  have hsame := hwalk.paths hstore
  exact ⟨hwalk.trans (Act.wrSpan_writes l bs _ _ (hwalk.sound hf) rfl).1, (Act.wrSpan_writes l bs _ _ hf hsame).2⟩

theorem anyPoison_cleanBytes (n v : Nat) : anyPoison (cleanBytes n v) = false := by simp [anyPoison, cleanBytes]

theorem anyPoison_wordBytes (ws : List Nat) : anyPoison (wordBytes ws) = false := by
  induction ws with
  | nil => rfl
  | cons w r ih => rw [wordBytes, List.flatMap_cons, anyPoison_append, anyPoison_cleanBytes]; exact ih

theorem cleanBytes_length (n v : Nat) : (cleanBytes n v).length = n := by simp [cleanBytes, leBytes_length]

end

/-! ### The parts of a completion -/

section
variable {s t : State} {q : Nat} {f : Fly}

/-- A completed JOB_BEGIN or JOB_END counts its job (R118). -/
def Act.jobDone (ctx : Nat) (f : Fly) : Act := match jobCounter f with | some k => .count .jobCount ctx k | none => .skip

theorem jobCounter_lt {k : Nat} (h : jobCounter f = some k) : k < 2 := by
  unfold jobCounter at h
  split at h
  · cases h; decide
  · split at h <;> cases h; decide

theorem Act.jobDone_touches (ctx : Nat) (f : Fly) : (Act.jobDone ctx f).Touches [(.jobCount, ctx)] := by
  unfold Act.jobDone
  split
  · exact touches_count (by simp)
  · exact touches_skip

theorem Act.jobDone_keepsUnits (ctx : Nat) (f : Fly) : (Act.jobDone ctx f).Keeps State.u := by
  unfold Act.jobDone
  split
  · exact count_keeps_u (g := id)
  · exact keeps_skip

theorem Act.jobDone_keepsStore (ctx : Nat) (f : Fly) (m : MemSel) : (Act.jobDone ctx f).Keeps fun s => s.store m := by
  unfold Act.jobDone
  split
  · exact count_keeps_store m
  · exact keeps_skip

theorem State.jobDone_paths (s : State) (ctx : Nat) (f : Fly) : ((Act.jobDone ctx f).run s).paths = s.paths := by
  have hu := Act.jobDone_keepsUnits ctx f s
  exact State.paths_iff.2 ⟨fun m => Act.jobDone_keepsStore ctx f m s, by rw [hu], by rw [hu], by rw [hu], fun n i hn hi =>
    (Act.jobDone_touches ctx f).rd hi (fun h => hn (by simp only [List.mem_singleton, Prod.mk.injEq] at h; rw [h.1]; decide)) s⟩

/-- The counts of jobs after it (R118). -/
theorem State.jobDone_cnt (s : State) {ctx k : Nat} (f : Fly) (hctx : ctx < 1024) (hk : k < 3) :
    ((Act.jobDone ctx f).run s).cnt .jobCount ctx k = (s.cnt .jobCount ctx k + if jobCounter f = some k then 1 else 0) % 2 ^ 64 := by
  have hset : Settable s .jobCount ctx := Settable.of_vol s hctx rfl
  have hsize : EName.jobCount.info.size = 24 := rfl
  have hlt : s.cnt .jobCount ctx k < 2 ^ 64 := bits_lt _ _ _
  unfold Act.jobDone
  cases hj : jobCounter f with
  | none => simpa using (Nat.mod_eq_of_lt hlt).symm
  | some j =>
    have hj2 := jobCounter_lt hj
    by_cases hjk : j = k
    · subst hjk
      simpa using s.cnt_count (b := 1) hset (by omega)
    · simp only [Option.some.injEq, hjk, if_false, Nat.add_zero, Nat.mod_eq_of_lt hlt]
      exact s.fld_fld_apart _ hset (by omega) (by omega)

theorem Act.headUp_touches (q : Nat) : (Act.headUp q).Touches [(.queueState, q)] := touches_countFld (by simp)

theorem Act.headUp_keepsUnits (q : Nat) : (Act.headUp q).Keeps State.u := keeps_get fun _ => fld_keeps_u (g := id)

theorem State.headUp_paths (s : State) (q : Nat) : ((Act.headUp q).run s).paths = s.paths := by
  have hu := Act.headUp_keepsUnits q s
  exact State.paths_iff.2 ⟨fun m => Act.keeps_get (fun _ => Act.fld_keeps_store m) s, by rw [hu], by rw [hu], by rw [hu], fun n i hn hi =>
    (Act.headUp_touches q).rd hi (fun h => hn (by simp only [List.mem_singleton, Prod.mk.injEq] at h; rw [h.1]; decide)) s⟩

theorem State.headUp_qHead (s : State) (hq : q < 65536) : ((Act.headUp q).run s).qHead q = idx32 (s.qHead q + 1) :=
  s.fld_countFld (Settable.of_vol s hq rfl) (by decide)

/-- A message of a function raises an interrupt, and counts at most. -/
theorem Act.msix_touches (fn v : Nat) : (Act.msix fn v).Touches [(.hostCount, fn)] :=
  touches_get fun s => touches_ite touches_skip (touches_ite (touches_units fun _ => ⟨rfl, rfl⟩)
    (touches_ite (touches_seq (touches_units fun _ => ⟨rfl, rfl⟩) (touches_count (by simp))) touches_skip))

theorem Act.msix_keepsStore (fn v : Nat) (m : MemSel) : (Act.msix fn v).Keeps fun s => s.store m :=
  keeps_get fun _ => keeps_ite (fun _ => keeps_skip) fun _ => keeps_ite (fun _ => units_keeps_store m) fun _ =>
    keeps_ite (fun _ => keeps_seq (units_keeps_store m) (count_keeps_store m)) fun _ => keeps_skip

/-- A command that asks for an interrupt raises its queue's (R419). -/
def Act.irq (ctx q : Nat) (f : Fly) : Act := .get fun s => .when (s.ctxState ctx == 1 && hIrq f.d) (.msix (s.ctxFn ctx) (s.qVec q))

theorem Act.irq_keepsRd {ctx i : Nat} {n : EName} (hi : i < n.count) (hn : n ≠ .hostCount) : (Act.irq ctx q f).Keeps fun s => s.rd n i :=
  keeps_get fun s => (touches_when (c := s.ctxState ctx == 1 && hIrq f.d) (msix_touches (s.ctxFn ctx) (s.qVec q))).rd hi (by simp [hn])
theorem Act.irq_keepsCore (ctx : Nat) : (Act.irq ctx q f).Keeps fun s => s.u.core := keeps_get fun _ => keeps_when fun _ => msix_keepsCore _ _
theorem Act.irq_keepsStore (ctx : Nat) (m : MemSel) : (Act.irq ctx q f).Keeps fun s => s.store m :=
  keeps_get fun _ => keeps_when fun _ => msix_keepsStore _ _ m

/-- What follows the record: HEAD rises and is written, and an interrupt may be raised (R384). -/
def Act.headDone (ctx q : Nat) (f : Fly) : Act :=
  .all [.headUp q, .get fun s => .wrOwn ctx 2 (s.qHeadAddr q) (cleanBytes 4 (s.qHead q)), .irq ctx q f]

theorem headDone_writes {ctx : Nat} {l : List (MemSel × Nat × Nat)} (hf : s.u.mem.faulty = false) (hpaths : t.paths = s.paths)
    (hq : q < 65536) (hctx : ctx < 1024) (hspan : s.span ctx (s.qHeadAddr q) 4 true = .ok l) :
    let x := (Act.headDone ctx q f).run t
    x.qHead q = idx32 (t.qHead q + 1) ∧ (∀ m, x.store m = ((Act.wrSpan l (cleanBytes 4 (idx32 (t.qHead q + 1)))).run s).store m) ∧
      x.u.core = t.u.core ∧ ∀ k, x.cnt .jobCount ctx k = t.cnt .jobCount ctx k := by
  intro x
  have hzs : ((Act.headUp q).run t).paths = s.paths := (t.headUp_paths q).trans hpaths
  have hu := Act.headUp_keepsUnits q t
  have hjobs : ((Act.headUp q).run t).rd .jobCount ctx = t.rd .jobCount ctx := (Act.headUp_touches q).rd hctx (by simp) t
  have hhead := t.headUp_qHead hq
  have hrun : x = (Act.irq ctx q f).run ((Act.wrOwn ctx 2 (((Act.headUp q).run t).qHeadAddr q)
      (cleanBytes 4 (((Act.headUp q).run t).qHead q))).run ((Act.headUp q).run t)) := rfl
  rw [hrun]
  generalize (Act.headUp q).run t = z at hzs hu hjobs hhead ⊢
  rw [hhead]
  have haddr : z.qHeadAddr q = s.qHeadAddr q := by
    simp only [State.qHeadAddr, State.fld, State.rd_of_paths hzs (n := .queueCfg) (by decide) hq]
  rw [← State.span_of_paths hzs hf hctx, ← haddr] at hspan
  obtain ⟨honly, hwritten⟩ := wrOwn_writes (kind := 2) (State.faulty_of_paths hzs hf)
    (anyPoison_cleanBytes 4 (idx32 (t.qHead q + 1))) ((cleanBytes_length 4 _).symm ▸ hspan)
  have hsame := hwritten.trans (Act.wrSpan_writes l _ s z hf hzs).2
  generalize (Act.wrOwn ctx 2 (z.qHeadAddr q) (cleanBytes 4 (idx32 (t.qHead q + 1)))).run z = w at honly hsame ⊢
  refine ⟨?_, fun m => (Act.irq_keepsStore ctx m w).trans ((State.paths_iff.1 hsame).1 m), ?_, fun k => ?_⟩
  · rw [← hhead]
    simp only [State.qHead, State.fld, Act.irq_keepsRd (n := .queueState) hq (by decide) w, honly.entries .queueState _ (by decide) hq]
  · exact (Act.irq_keepsCore ctx w).trans (congrArg Units.core (honly.units.trans hu))
  · simp only [State.cnt, State.fld, Act.irq_keepsRd (n := .jobCount) hctx (by decide) w, honly.entries .jobCount _ (by decide) hctx, hjobs]

end

/-! ### The record, and HEAD after it -/

section
variable {s : State} {q : Nat} {f : Fly} {r : List Fly}

/-- The state in which a completing command's record is made: its job is counted, and it has left its stream. -/
def State.popped (s : State) (q : Nat) (f : Fly) : State :=
  (Act.stream q fun t => { t with fly := t.fly.drop 1 }).run ((Act.jobDone (s.qCtx q) f).run s)

theorem State.popped_paths (s : State) (q : Nat) (f : Fly) : (s.popped q f).paths = s.paths := s.jobDone_paths (s.qCtx q) f

theorem State.popped_stream (hfly : (s.stream q).fly = f :: r) : ((s.popped q f).stream q).fly = r := by
  rw [State.popped, State.stream_run, if_pos rfl, State.stream, Act.jobDone_keepsUnits]
  exact congrArg (List.drop 1) hfly

theorem State.popped_qHead (s : State) (f : Fly) (hq : q < 65536) : (s.popped q f).qHead q = s.qHead q :=
  congrArg (bits · _ _) ((Act.jobDone_touches (s.qCtx q) f).rd (n := .queueState) hq (by simp) s)

/-- A completed command has a record where it asks for one or did not succeed (R145). -/
def Fly.told (f : Fly) : Bool := hComplete f.d || decide (2 ≤ f.status)

theorem Fly.told_iff : f.told = true ↔ hComplete f.d = true ∨ 2 ≤ f.status := by simp [Fly.told]

/-- The write of the record. -/
def Act.record (ctx q : Nat) (f : Fly) : Act :=
  .get fun x => .when f.told (.wrOwn ctx 1 (x.qCq q + f.idx % x.qSize q * 32) (x.flyRecord q f))

/-- A completion that goes through: the job is counted, the command leaves its stream, its record is written where there is one, and
HEAD follows (R104). -/
theorem complete_run (hfly : (s.stream q).fly = f :: r) (hdone : f.done = true) (hruns : s.runs = true)
    (hready : s.ctxState (s.qCtx q) = 1) (hgoes : s.recordGoes q f = true) :
    (Act.complete q).run s = (Act.get fun x => .when (x.ctxState (s.qCtx q) == 1) (.headDone (s.qCtx q) q f)).run
      ((Act.record (s.qCtx q) q f).run (s.popped q f)) := by
  rw [Act.complete, Act.run_get, hfly]
  simp only [hdone, hruns, hready, hgoes, Bool.and_self, beq_self_eq_true, Act.when_true]
  rfl

/-- The record is clean, so its write changes memory alone, as the write of the same bytes from the state before does. -/
theorem record_run {l : List (MemSel × Nat × Nat)} (hq : q < 65536) (hf : s.u.mem.faulty = false)
    (hspan : f.told = true → s.span (s.qCtx q) (s.qCq q + f.idx % s.qSize q * 32) 32 true = .ok l) :
    let y := (Act.record (s.qCtx q) q f).run (s.popped q f)
    OnlyMemory (s.popped q f) y ∧
      y.paths = (if f.told then (Act.wrSpan l ((s.popped q f).flyRecord q f)).run s else s).paths := by
  have hx := s.popped_paths q f
  have hplace : (s.popped q f).qCq q + f.idx % (s.popped q f).qSize q * 32 = s.qCq q + f.idx % s.qSize q * 32 := by
    simp only [State.qCq, State.qSize, State.fld, State.rd_of_paths hx (n := .queueCfg) (by decide) hq]
  have hlen : ((s.popped q f).flyRecord q f).length = 32 := rfl
  rw [Act.record, Act.run_get, hplace]
  cases htold : f.told with
  | false => exact ⟨.refl _, hx⟩
  | true =>
    rw [← State.span_of_paths hx hf (s.qCtx_lt q), ← hlen] at hspan
    obtain ⟨honly, hwritten⟩ := wrOwn_writes (kind := 1) (State.faulty_of_paths hx hf) (anyPoison_wordBytes _) (hspan htold)
    exact ⟨honly, hwritten.trans (Act.wrSpan_writes l _ s _ hf hx).2⟩

end

/-- Settles O20: the record and HEAD are clean, so their writes change memory alone; they find the places that the statement names, as
translation looks at no counter. -/
theorem completionWritesRecordAndHead : Obligations.CompletionWritesRecordAndHead := by
  unfold Obligations.CompletionWritesRecordAndHead
  intro s q f r l1 l2 ctx counted written hfly hdone hruns hready hsound hgoes hrecord hhead
  have hctx : ctx < 1024 := s.qCtx_lt q
  have hx := s.popped_paths q f
  have hcounted : counted = (Act.jobDone ctx f).run s := by
    show Act.run _ s = _
    unfold Act.jobDone
    cases jobCounter f <;> rfl
  obtain ⟨honly, hpaths⟩ := record_run q.isLt hsound fun h => hrecord (Fly.told_iff.1 h)
  have hwritten : written = if f.told then (Act.wrSpan l1 ((s.popped q f).flyRecord q f)).run s else s := by
    show (if _ then _ else _) = _
    simp only [Fly.told_iff, hcounted]
    rfl
  rw [← hwritten] at hpaths
  have hrun := complete_run hfly hdone hruns hready hgoes
  generalize (Act.record (s.qCtx q) q f).run (s.popped q f) = y at honly hpaths hrun
  have hentry {n : EName} {i : Nat} (hn : n ∉ countedEntries) (hi : i < n.count) : y.rd n i = s.rd n i :=
    (honly.entries n i (fun e => hn (e ▸ by decide)) hi).trans (State.rd_of_paths hx hn hi)
  have hstill : y.ctxState ctx = 1 := (hentry (by decide) hctx).trans hready
  have hcfg : written.rd .queueCfg q = s.rd .queueCfg q :=
    (State.rd_of_paths hpaths (by decide) q.isLt).symm.trans (hentry (by decide) q.isLt)
  have haddr : written.qHeadAddr q = s.qHeadAddr q := congrArg (bits · _ _) hcfg
  rw [Act.run_get, hstill, beq_self_eq_true, Act.when_true] at hrun
  obtain ⟨hqueue, hstores, hcore, hjobs⟩ := headDone_writes (f := f)
    (State.faulty_of_paths hpaths.symm (honly.sound (State.faulty_of_paths hx hsound))) hpaths q.isLt hctx (haddr.symm ▸ hhead)
  have hold : y.qHead q = s.qHead q :=
    (congrArg (bits · _ _) (honly.entries .queueState q (by decide) q.isLt)).trans (s.popped_qHead f q.isLt)
  rw [← hrun] at hqueue hstores hcore hjobs
  rw [hold] at hqueue hstores
  refine ⟨_, rfl, ?_, hqueue, ⟨hstores .stack, hstores .host, hstores .scratch⟩, fun k hk => ?_⟩
  · rw [State.stream, hcore, honly.units]
    exact State.popped_stream hfly
  · rw [hjobs, State.cnt, State.fld, honly.entries _ _ (by decide) hctx]
    exact s.jobDone_cnt f hctx hk

end Sys2Proof.Machine
end

section
/-! SUPPORT. Commands of the vector engine and of the data movers, and pieces of a TE_BEGIN, where a number that is no context's waits for
a slot (R103, R387, R388): as in the statements of O11 and O12, the slot of `crowdedState` begins to rotate as the command is dispatched,
and the command does not start. -/

namespace Sys2Proof.Machine

/-! ### A command of another engine stands in the crowded state -/

/-- A VE_REDUCE and a VE_FLAG over four FP32 elements of scratch, and a DM_COPY of one row of scratch. -/
def crowdedReduce : Desc := { w0 := 0x41 + 4 * 2 ^ 8, w2 := 8 * 2 ^ 8 + 8 * 2 ^ 16, w3 := 0x100, w5 := 0x200, w6 := 4 }
def crowdedFlag : Desc := { w0 := 0x43 + 4 * 2 ^ 8, w2 := 8 * 2 ^ 8, w3 := 0x100, w6 := 4, w7 := 15 * 2 ^ 32 }
def crowdedCopy : Desc := { w0 := 0x80 + 5 * 2 ^ 8, w2 := 15 * 2 ^ 4 + 15 * 2 ^ 8 + 5 * 2 ^ 32, w3 := 0x100, w4 := 0x200, w7 := 16 }

theorem crowdedOthers_turn : ∀ d ∈ [crowdedReduce, crowdedFlag, crowdedCopy], let s := crowdedState d
    s.runs = true ∧ s.fetchable 5 0 = true ∧ s.columnOn (s.qCore 5) = true ∧ s.loopback = false ∧ s.slotOf (s.qCore 5) (s.qCtx 5) = some 0 ∧
      s.serves (s.qCore 5) 0 (s.qCtx 5) 5 = true ∧ s.rotating (s.qCore 5) 0 = false ∧ s.turn (s.qCore 5) 0 = true ∧
      (∀ f ∈ (s.stream 5).fly, hOpcode f.d = 3 → f.done = true) ∧
      s.fetched (s.qCore 5) (s.qCtx 5) 5 =
        some { q := 5, idx := (s.stream 5).next, bytes := (descBytes d).map fun b => (b, false) } := by decide +kernel

theorem crowdedOthers_ready : ∀ d ∈ [crowdedReduce, crowdedFlag, crowdedCopy], let s := crowdedState d
    s.headerReason 5 (s.stream 5).next d false (rulesOf d) = none ∧ allRetired (s.stream 5) = true ∧ predWaits (s.stream 5) d = false ∧
      (s.ctxCore (s.qCore 5) (s.qCtx 5)).saved = [] ∧ s.predOk (s.qCore 5) (s.qCtx 5) d = true ∧ opClass (hOpcode d) ≠ some 0 ∧
      (∀ e ∈ engsOf d ++ s.rerunOf (s.qCore 5) d, s.engQ (s.qCore 5) e = []) ∧ s.reentering (s.qCore 5) = [] ∧
      (rulesOf d).check (s.asLeft (s.qCore 5) 5 (s.qCtx 5)) (s.qCore 5) (s.qCtx 5) d = none ∧
      hWait d = none ∧ hStream d = none ∧ hPost d = none := by decide +kernel

/-- All that the statements ask of a command alone in its engines. -/
theorem crowdedOthers_meet {d : Desc} (hd : d ∈ [crowdedReduce, crowdedFlag, crowdedCopy]) :
    Lone (crowdedState d) 5 0 d ∧ ∀ n, Supplied (crowdedState d) 5 d n := by
  obtain ⟨hruns, hfetch, hcol, hmem, hslot, hserves, hstill, hturn, hfences, hbytes⟩ := crowdedOthers_turn d hd
  obtain ⟨hheader, hserial, hpred, hsaved, hholds, hclass, hfree, hsettled, hcheck, hwait, hstream, hpost⟩ := crowdedOthers_ready d hd
  have hturns : Turn (crowdedState d) 5 0 := ⟨hruns, hfetch, hcol, hmem, hslot, hserves, hstill, hturn, hfences⟩
  exact ⟨⟨⟨⟨⟨hturns, hbytes⟩, hheader, fun _ => hserial, hpred, hsaved⟩, hholds⟩, hclass, hfree, hsettled, hcheck⟩,
    fun _ => ⟨by simp [hwait], by simp [hstream], by simp [hpost]⟩⟩

/-- The row of a descriptor of the vector engine, and that of DM_COPY. -/
def crowdedRow (d : Desc) : Desc → Bool := if d = crowdedCopy then fun d => hOpcode d == 0x80 && dmT d != 8 else isOp (hOpcode d)

/-- Dispatch makes DEVICE_STATE read 0, the stray number counts as LC, slot 0 rotates, and the command does not start. -/
theorem crowdedOthers_stand : ∀ d ∈ [crowdedReduce, crowdedFlag, crowdedCopy],
    ∀ f ∈ (((Act.desc (crowdedRow d) 5 d).run (crowdedState d)).stream 5).fly, f.done = false := by decide +kernel

/-- A stream none of whose commands is done has retired none. -/
theorem not_retired {t : State} {q idx res res2 : Nat} {d : Desc} (h : ∀ f ∈ (t.stream q).fly, f.done = false) :
    ¬ Retired t q idx d res res2 := by
  rintro ⟨f, hf, -, -, hdone, -⟩
  rw [h f hf] at hdone
  cases hdone

/-! ### The statements that it refutes -/

/-- Refutes O13: the statement lets any number wait for a slot of the core. In `crowdedState` the slot begins to rotate as VE_REDUCE is
dispatched, and the command stands in its engine's queue unstarted, where the statement says that it retires. -/
theorem not_vectorAndAttentionCommandsWriteTheirResults : ¬ Obligations.VectorAndAttentionCommandsWriteTheirResults := by
  unfold Obligations.VectorAndAttentionCommandsWriteTheirResults
  intro h
  obtain ⟨hlone, hsupplied⟩ := crowdedOthers_meet (d := crowdedReduce) (by simp)
  obtain ⟨-, hreduce, -⟩ := h (crowdedState crowdedReduce) 5 0 crowdedReduce hlone (hsupplied 1)
  obtain ⟨t, ht, -, hretired⟩ := hreduce (by decide)
  obtain rfl := Host.Outcome.next.inj ht
  exact not_retired (crowdedOthers_stand crowdedReduce (by simp)) hretired

/-- Refutes O14: as VE_REDUCE for O13, VE_FLAG stands in `crowdedState` unstarted. -/
theorem not_flagAndPepperCommands : ¬ Obligations.FlagAndPepperCommands := by
  unfold Obligations.FlagAndPepperCommands
  intro h
  obtain ⟨hlone, hsupplied⟩ := crowdedOthers_meet (d := crowdedFlag) (by simp)
  obtain ⟨hflag, -⟩ := h (crowdedState crowdedFlag) 5 0 crowdedFlag hlone (hsupplied 1)
  obtain ⟨t, ht, -, -, hretired⟩ := hflag (by decide)
  obtain rfl := Host.Outcome.next.inj ht
  exact not_retired (crowdedOthers_stand crowdedFlag (by simp)) hretired

/-- The copy's row moves sixteen clean bytes of scratch to 0x200 of it. -/
def crowdedPlan : RowPlan := ⟨[[(.scratch, 0x100, 16)]], [(0x200, List.replicate 16 (0, false))], {}⟩

theorem crowdedCopy_plan : let s := crowdedState crowdedCopy
    let m := s.cmdOf 5 crowdedCopy
    let ls : List (List (MemSel × Nat × Nat)) := [[(.scratch, 0x200, 16)]]
    s.planRow m 0 0 = .ok crowdedPlan ∧ s.planDst m crowdedPlan.writes = .ok ls ∧
      s.tokensOk (s.qCtx 5) (crowdedPlan.reads.flatten ++ ls.flatten) = true ∧ ∀ l ∈ crowdedPlan.reads, anyPoison (s.rdSpan l) = false := by
  decide +kernel

/-- Refutes O15: as VE_REDUCE for O13, a DM_COPY of one row stands in `crowdedState` unstarted. -/
theorem not_dataMoverRowsAreWritten : ¬ Obligations.DataMoverRowsAreWritten := by
  unfold Obligations.DataMoverRowsAreWritten
  intro h
  obtain ⟨hlone, hsupplied⟩ := crowdedOthers_meet (d := crowdedCopy) (by simp)
  obtain ⟨hplan, hdst, htokens, hclean⟩ := crowdedCopy_plan
  obtain ⟨hcopy, -⟩ := h (crowdedState crowdedCopy) 5 0 crowdedCopy hlone (hsupplied 1) (by decide) (by decide) (by decide) rfl
  obtain ⟨t, ht, -, hretired⟩ := hcopy _ _ (by decide) hplan hdst htokens hclean
  obtain rfl := Host.Outcome.next.inj ht
  exact not_retired (crowdedOthers_stand crowdedCopy (by simp)) hretired

/-! ### Pieces that the engine does not run -/

/-- With no piece left a command retires, and otherwise it waits. -/
def Act.endOf (over_ : Bool) (c : Cmd) : Act := if over_ then .all [.pieceEnd c, .bundleStart c, .retire c] else .skip

/-- What a run of pieces comes to is what follows it from the dispatched command on. -/
theorem RunsTo.end_run {s y : State} {q k n : Nat} {d : Desc} {o : Bool} {c : Cmd} (h : RunsTo s q k d n o c y) :
    (if o then (Act.all [.pieceEnd c, .bundleStart c, .retire c]).run y else y) =
      (Act.pieces n (s.taken q k d) Act.endOf).run (s.dispatched q k d) := by
  rw [h]
  cases o <;> rfl

set_option maxRecDepth 100000 in
theorem crowdedBegin_runsTo : ∃ c y, RunsTo (crowdedState crowdedBegin) 5 0 crowdedBegin 1 true c y :=
  ⟨_, _, fun _ => by with_unfolding_all rfl⟩

/-- TE_BEGIN retires after its one piece, where the engine lets it stand. -/
theorem crowdedBegin_pieces : let s := crowdedState crowdedBegin
    (((Act.pieces 1 (s.taken 5 0 crowdedBegin) Act.endOf).run (s.dispatched 5 0 crowdedBegin)).stream 5).fly.map Fly.done = [true] ∧
      (((Act.desc (isOp 0x20) 5 crowdedBegin).run s).stream 5).fly.map Fly.done = [false] := by decide +kernel

/-- Refutes O10: `RunsTo` runs the pieces whatever becomes of the slot, while the engine stops where the slot rotates. In `crowdedState` it
does as TE_BEGIN is dispatched: the one piece of TE_BEGIN leads to its retirement, and the row leaves it unstarted. -/
theorem not_engineCommandsRunTheirPieces : ¬ Obligations.EngineCommandsRunTheirPieces := by
  unfold Obligations.EngineCommandsRunTheirPieces
  intro h
  obtain ⟨hlone, hsupplied⟩ := crowdedState_meets (d := crowdedBegin) (by simp)
  obtain ⟨c, y, hruns⟩ := crowdedBegin_runsTo
  obtain ⟨-, -, -, hbegin, -⟩ :=
    h (crowdedState crowdedBegin) 5 0 1 crowdedBegin true c y hlone (hsupplied 1) (by decide) (by decide) hruns
  have hsame := (Host.Outcome.next.inj (hbegin (by decide))).trans hruns.end_run
  obtain ⟨hpieces, hrow⟩ := crowdedBegin_pieces
  have : [false] = [true] := hrow.symm.trans ((congrArg (fun t : State => (t.stream 5).fly.map Fly.done) hsame).trans hpieces)
  exact absurd this (by decide)

end Sys2Proof.Machine
end

section
/-! SUPPORT. A fabric command where a number that is no context's waits for a slot (R103, R317, R387, R388): as in the statements of O11
to O15, the slot of `crowdedState` begins to rotate as the command is dispatched, and the command sends nothing. -/

namespace Sys2Proof.Machine

/-! ### A DM_GET stands in the crowded state -/

/-- A DM_GET of 16 bytes to scratch, over flow 41. -/
def crowdedGet : Desc := { w0 := 0x8B + 5 * 2 ^ 8, w2 := 41 + 2 ^ 16 + 16 * 2 ^ 32, w3 := 0x100, w4 := 0x200 }

/-- The crowded state in which flow 41 of context 1, of the request class, is OPEN to flow 9 of device 7. -/
def crowdedFlow : State :=
  (Act.all [.reg .flowCfg 41 (1 + 2 + 2 ^ 8 + 7 * 2 ^ 32 + 9 * 2 ^ 48), .reg .flowState 41 2]).run (crowdedState crowdedGet)

theorem crowdedGet_lone : Lone crowdedFlow 5 0 crowdedGet where
  runs := by decide +kernel
  fetchable := by decide +kernel
  column := by decide +kernel
  memory := by decide +kernel
  slot := by decide +kernel
  serves := by decide +kernel
  still := by decide +kernel
  turn := by decide +kernel
  fences := by decide +kernel
  bytes := by unfold State.buffered; decide +kernel
  header := by decide +kernel
  serial := by decide +kernel
  pred := by decide +kernel
  saved := by decide +kernel
  holds := by decide +kernel
  engine := by decide +kernel
  free := by decide +kernel
  settled := by decide +kernel
  check := by decide +kernel

/-- It names no gate. -/
theorem crowdedGet_supplied : Supplied crowdedFlow 5 crowdedGet 1 where
  wait := by rintro r ⟨⟩
  stream := by rintro r ⟨⟩
  post := by rintro r ⟨⟩

/-- Dispatch makes DEVICE_STATE read 0, the stray number counts as LC, slot 0 rotates, and the command does not start: its flow awaits no
response. -/
theorem crowdedGet_stands : (((Act.desc (isOp 0x8B) 5 crowdedGet).run crowdedFlow).flow 41).awaits = [] := by decide +kernel

/-- Refutes O18: the statement lets any number wait for a slot of the core. In `crowdedFlow` the slot begins to rotate as DM_GET is
dispatched, and on its OPEN flow the command awaits no response, where the statement says that it sent its request and waits. -/
theorem not_fabricCommandsSendOnTheirFlow : ¬ Obligations.FabricCommandsSendOnTheirFlow := by
  unfold Obligations.FabricCommandsSendOnTheirFlow
  rintro ⟨h, -⟩
  obtain ⟨-, hget, -⟩ := h crowdedFlow 5 0 crowdedGet crowdedGet_lone crowdedGet_supplied (by decide +kernel)
  obtain ⟨t, ht, -, ⟨a, ha, -⟩, -⟩ := hget (by decide)
  obtain rfl := Host.Outcome.next.inj ht
  exact List.not_mem_nil (crowdedGet_stands ▸ ha)

end Sys2Proof.Machine
end

section
/-! SUPPORT. The opening of a session whose descriptor lies poisoned in host memory (R179, R399, R477, R479): as in the statement on
bundles (O23), the read fills the window of link errors, and the event of that is written to function 0's ring. -/

namespace Sys2Proof.Machine

/-! ### The checks of an opening raise an event -/

/-- The context, the window and the event ring of `overrunState`. The firmware runs, and session 0 is being opened: its descriptor, which
names context 1, begins at 0x1000, and its first byte lies poisoned in host memory. -/
def poisonedOpening : State :=
  let s := (overrunState.apply (.mem .host 0x40001000 [(1#8, true)])).withRegs [(.sessionDesc, 0, 0x1000)]
  { s with u := { s.u with pow := { s.u.pow with boot := .running }, sess := [(0, { opening := true })] } }

theorem poisonedOpening_meets : let s := poisonedOpening
    (s.ses 0).opening = true ∧ s.fwRuns = true ∧ s.runs = true ∧ s.loopback = false ∧ s.u.mem.faulty = false := by decide +kernel

/-- The poisoned descriptor is FIELD (R179). -/
theorem poisonedOpening_fails : (poisonedOpening.sesCheck 0).1 = 0x10 := by decide +kernel

/-- The event of the full window has code 4, which its record holds in byte 4 (R479). -/
theorem poisonedOpening_writes : poisonedOpening.rdMem .host 0x50000004 1 = [(0#8, false)] ∧
    ((Act.sesCheckDone 0).run poisonedOpening).rdMem .host 0x50000004 1 = [(4#8, false)] := by decide +kernel

/-- Refutes O60: its clause on an opening that fails says that memory is left as it is wherever memory takes no errors; only what it says of
the entries is confined to memory without poison. In `poisonedOpening` the checks read a poisoned descriptor, which fills the window of
link errors, and the event record is written to function 0's ring. -/
theorem not_sessionsServeRequestsAndSteps : ¬ Obligations.SessionsServeRequestsAndSteps := by
  unfold Obligations.SessionsServeRequestsAndSteps
  rintro ⟨hsession, -⟩
  obtain ⟨hopening, hfirmware, hruns, hgoes, hsound⟩ := poisonedOpening_meets
  obtain ⟨-, -, hcheck, -⟩ := hsession poisonedOpening .hostPf 0
  obtain ⟨hfails, -⟩ := hcheck hopening hfirmware hruns hgoes
  have hfield : (poisonedOpening.sesCheck 0).1 ≠ 1 := by rw [poisonedOpening_fails]; decide
  obtain ⟨t, ht, -, -, hframe⟩ := hfails hfield
  obtain ⟨hmem, -⟩ := hframe hsound
  obtain rfl := Host.Outcome.next.inj ht
  obtain ⟨hbefore, hafter⟩ := poisonedOpening_writes
  have : [(4#8, false)] = [(0#8, false)] := hafter.symm.trans ((hmem .host 0x50000004 1).trans hbefore)
  exact absurd this (by decide)

end Sys2Proof.Machine
end

section
/-! SUPPORT. A scree command where a number that is no context's waits for a slot (R103, R213, R217, R387, R388): as in the statements of
O11 to O15, the slot of `crowdedState` begins to rotate as the command is dispatched, and the command does not start. -/

namespace Sys2Proof.Machine

/-! ### A DM_SCREE_PUSH stands in the crowded state -/

/-- A DM_SCREE_PUSH of one row of 16 bytes of scratch, on DM1. -/
def crowdedPush : Desc := { w0 := 0x86 + 6 * 2 ^ 8, w2 := 0xFFFFFFFFFF, w3 := 0x100, w4 := 16 }

theorem crowdedPush_lone : Lone (crowdedState crowdedPush) 5 0 crowdedPush where
  runs := by decide +kernel
  fetchable := by decide +kernel
  column := by decide +kernel
  memory := by decide +kernel
  slot := by decide +kernel
  serves := by decide +kernel
  still := by decide +kernel
  turn := by decide +kernel
  fences := by decide +kernel
  bytes := by unfold State.buffered; decide +kernel
  header := by decide +kernel
  serial := by decide +kernel
  pred := by decide +kernel
  saved := by decide +kernel
  holds := by decide +kernel
  engine := by decide +kernel
  free := by decide +kernel
  settled := by decide +kernel
  check := by decide +kernel

/-- It names no gate. -/
theorem crowdedPush_supplied : Supplied (crowdedState crowdedPush) 5 crowdedPush 1 where
  wait := by rintro r ⟨⟩
  stream := by rintro r ⟨⟩
  post := by rintro r ⟨⟩

/-- Its partition has tokens for the entry it writes, and the pops it follows, of which there are none, have retired. -/
theorem crowdedPush_goes : let s := crowdedState crowdedPush
    let m := s.cmdOf 5 crowdedPush
    s.tokensOk (s.qCtx 5) [(.stack, s.u.mem.coreBase (s.qCore 5) + m.place, m.bytes)] = true ∧
      m.after.all (fun x => s.hasRetired x && x != m.ser) = true := by decide +kernel

/-- Dispatch makes DEVICE_STATE read 0, the stray number counts as LC, slot 0 rotates, and the command does not start. -/
theorem crowdedPush_stands :
    ∀ f ∈ (((Act.desc (isOp 0x86) 5 crowdedPush).run (crowdedState crowdedPush)).stream 5).fly, f.done = false := by decide +kernel

/-- Refutes O16: the statement lets any number wait for a slot of the core. In `crowdedState` the slot begins to rotate as DM_SCREE_PUSH is
dispatched, and the command stands in its engine's queue unstarted, where the statement says that it retires. -/
theorem not_screePushAndPop : ¬ Obligations.ScreePushAndPop := by
  unfold Obligations.ScreePushAndPop
  intro h
  obtain ⟨htokens, hafter⟩ := crowdedPush_goes
  obtain ⟨hpush, -⟩ := h (crowdedState crowdedPush) 5 0 crowdedPush crowdedPush_lone crowdedPush_supplied rfl htokens hafter
  obtain ⟨t, ht, -, -, hretired⟩ := hpush (by decide)
  obtain rfl := Host.Outcome.next.inj ht
  exact not_retired crowdedPush_stands hretired

end Sys2Proof.Machine
end

section
/-! SUPPORT. A collective where a number that is no context's waits for a slot (R103, R320, R322, R387, R388): as in the statements of O11
to O16 and O18, the slot of `crowdedState` begins to rotate as the command is dispatched, and the command does not start. -/

namespace Sys2Proof.Machine

/-! ### A RING reduction stands in the crowded state -/

/-- A RING reduction of eight BF16 elements of group 0, from 0x100 to 0x200 of its context's addresses, in a bundle of its own. -/
def crowdedSum : Desc := { w0 := 0x84 + 5 * 2 ^ 8 + 2 ^ 18 + 2 ^ 24, w2 := 6 * 2 ^ 4 + 6 * 2 ^ 8, w3 := 0x100, w4 := 0x200, w7 := 8 }

/-- The crowded state in which context 1's addresses lead through a table at 0x30_0000_0000 into host memory at 0x4000_0000. Group 0 is its
own: this device is member 0, and flow 41, of the collective class, is OPEN to device 7, which is member 1. -/
def crowdedGroup : State :=
  (((crowdedState crowdedSum).apply (.mem .stack 0x3000000000 (cleanBytes 8 0x3000001001))).apply
    (.mem .stack 0x3000001000 (cleanBytes 8 0x40000017))).withRegs
      [(.ptRoot, 1, 0x3000000000), (.collGroup, 0, 1 + 2 ^ 8 + 2 ^ 18 + 40 * 2 ^ 40 + 7 * 2 ^ 144),
        (.flowCfg, 41, 1 + 3 * 2 + 2 ^ 8 + 7 * 2 ^ 32 + 9 * 2 ^ 48), (.flowState, 41, 2)]

theorem crowdedSum_comes : Comes crowdedGroup 5 0 crowdedSum := by
  refine ⟨⟨?_, ?_, ?_, ?_, ?_, ?_, ?_, ?_, ?_⟩, ?bytes⟩
  case bytes => unfold State.buffered; decide +kernel
  all_goals decide +kernel

theorem crowdedSum_lone : Lone crowdedGroup 5 0 crowdedSum := by
  refine ⟨⟨⟨crowdedSum_comes, ?_, ?_, ?_, ?_⟩, ?_⟩, ?_, ?_, ?_, ?_⟩ <;> decide +kernel

/-- It names no gate. -/
theorem crowdedSum_supplied : Supplied crowdedGroup 5 crowdedSum 1 where
  wait := by rintro r ⟨⟩
  stream := by rintro r ⟨⟩
  post := by rintro r ⟨⟩

/-- The group has two members and its flow is OPEN. The part of the input that goes out first is four clean zeros. -/
theorem crowdedSum_goes : let s := crowdedGroup
    let g := coGroup crowdedSum
    let p := s.cgP g
    let me := s.cgSelf g
    let j := (me + p - 1) % p
    let w := (coIn crowdedSum).ebits / 8
    s.tokensOk (s.qCtx 5) (s.coPlaces (s.qCtx 5) crowdedSum) = true ∧ s.u.colls = [] ∧ 2 ≤ p ∧ me < p ∧
      (∀ x ∈ s.others g, s.flowSt (s.cgBase g + x) = 2 ∧ (s.flow (s.cgBase g + x)).held = []) ∧
      s.rdCtx (s.qCtx 5) (dfld crowdedSum 0x18 0 48 + j * partL (coN crowdedSum) p * w) (partLen (coN crowdedSum) p j * w) =
        .ok (List.replicate 8 (0, false)) := by decide +kernel

/-- Dispatch makes DEVICE_STATE read 0, the stray number counts as LC, slot 0 rotates, and the command does not start: the flow to the next
member, on which its partial sum should be one message, neither has sent one nor holds one back. -/
theorem crowdedSum_stands : let s := crowdedGroup
    let g := coGroup crowdedSum
    let p := s.cgP g
    let me := s.cgSelf g
    let j := (me + p - 1) % p
    let x := ((Act.desc (isOp 0x84) 5 crowdedSum).run s).flow (s.cgBase g + (me + 1) % p)
    x.unacked ++ x.sendq = [] ∧ dataMsgs 8 0 (fun _ => g + me * 2 ^ 8 + tgetD s.u.collNum g 0 * 2 ^ 16) id false
      (outOf (coWire crowdedSum) (w40s (coIn crowdedSum) (partLen (coN crowdedSum) p j) (List.replicate 8 (0, false)))).elems ≠ [] := by
  decide +kernel

/-- Messages of a command are on no flow that has neither sent one nor holds one back. -/
theorem not_onFlow {t : State} {f : Nat} {owner : Option (Nat × Nat)} {ms : List Msg} (hms : ms ≠ [])
    (h : (t.flow f).unacked ++ (t.flow f).sendq = []) : ¬ OnFlow t f owner ms := by
  obtain ⟨m, hm⟩ := List.exists_mem_of_ne_nil ms hms
  intro hflow
  obtain ⟨x, hx, -⟩ := hflow m hm
  exact List.not_mem_nil (h ▸ hx)

/-- Refutes O19: the statement lets any number wait for a slot of the core. In `crowdedGroup` the slot begins to rotate as a RING reduction
is dispatched, and the command stands in its engine's queue unstarted, where the statement says that its first partial sum is on the flow to
the next member. -/
theorem not_collectiveAndMoltSegmentSend : ¬ Obligations.CollectiveAndMoltSegmentSend := by
  unfold Obligations.CollectiveAndMoltSegmentSend
  intro h
  obtain ⟨htokens, hnone, htwo, hself, hopen, hread⟩ := crowdedSum_goes
  obtain ⟨hring, -⟩ := h crowdedGroup 5 0 crowdedSum crowdedSum_lone crowdedSum_supplied
  obtain ⟨t, ht, hflow, -⟩ := hring _ (by decide) htokens (by decide) (by decide) hnone htwo hself hopen hread (by decide)
  obtain rfl := Host.Outcome.next.inj ht
  obtain ⟨hidle, hsends⟩ := crowdedSum_stands
  exact not_onFlow hsends hidle hflow

end Sys2Proof.Machine
end

section
/-! SUPPORT. The report of a poisoned burst (R274, R370, R371): which segments are poisoned after it, and the state in which it finds a
segment under repair that is not among the poisoned ones. -/

namespace Sys2Proof.Machine

/-! ### What a poison report leaves -/

/-- The segments under repair. -/
def State.mended (s : State) : List (Nat × Nat × Nat) := s.u.repairs.map fun r => (r.model, r.version, r.seg)

/-- Stack memory, the poisoned segments and those under repair. -/
def State.mending (s : State) : Store × List (Nat × Nat × Nat) × List (Nat × Nat × Nat) := (s.stack, s.u.poisonSegs, s.mended)

theorem State.repairing_iff {s : State} {model version seg : Nat} :
    s.repairing model version seg = true ↔ (model, version, seg) ∈ s.mended := by
  simp [State.repairing, State.mended, and_assoc]

/-- What is told of a segment, and the asking for its replica, leave these as they are. -/
abbrev Act.KeepsMending (a : Act) : Prop := a.Keeps State.mending

theorem Act.units_keepsMending {g : Units → Units} (h : ∀ u, (g u).poisonSegs = u.poisonSegs ∧ (g u).repairs = u.repairs) :
    (Act.units g).KeepsMending := fun s => by simp [State.mending, State.mended, h]
theorem Act.fld_keepsMending {n : EName} {i a b c v : Nat} : (Act.fld n i a b c v).KeepsMending := keeps_get fun _ s => by
  simp [State.mending, State.mended]
theorem Act.count_keepsMending {n : EName} {i k v : Nat} : (Act.count n i k v).KeepsMending := keeps_get fun _ => fld_keepsMending

theorem Act.msix_keepsMending (fn v : Nat) : (Act.msix fn v).KeepsMending :=
  keeps_get fun _ => keeps_ite (fun _ => keeps_skip) fun _ => keeps_ite (fun _ => units_keepsMending fun _ => ⟨rfl, rfl⟩) fun _ =>
    keeps_ite (fun _ => keeps_seq (units_keepsMending fun _ => ⟨rfl, rfl⟩) count_keepsMending) fun _ => keeps_skip

/-- Event records go to host memory. -/
theorem Act.eventTo_keepsMending (fn code scope ctx source data : Nat) : (Act.eventTo fn code scope ctx source data).KeepsMending :=
  keeps_get fun _ => keeps_ite (fun _ => keeps_skip) fun _ =>
    keeps_seq (fun s => by simp [State.mending, State.mended, Act.mem, State.apply, State.withStore]) <|
      keeps_seq (fun s => by simp [State.mending, State.mended]) (keeps_seq (msix_keepsMending _ _) keeps_skip)

theorem Act.event_keepsMending (fns : List Nat) (code scope ctx source data : Nat) :
    (Act.event fns code scope ctx source data).KeepsMending :=
  keeps_get fun _ => keeps_seq (units_keepsMending fun _ => ⟨rfl, rfl⟩) <| keeps_each fun _ _ => eventTo_keepsMending _ _ _ _ _ _

theorem Act.poisonEvent_keepsMending (code model version seg : Nat) : (Act.poisonEvent code model version seg).KeepsMending :=
  keeps_get fun _ => keeps_each fun _ _ => event_keepsMending _ _ _ _ _ _

theorem Act.stallEnd_keepsMending (x : Nat) : (Act.stallEnd x).KeepsMending := keeps_get fun _ => by
  split
  · exact keeps_skip
  · exact keeps_seq (units_keepsMending fun _ => ⟨rfl, rfl⟩) count_keepsMending

theorem Act.vcStalls_keepsMending (p : Nat) : (Act.vcStalls p).KeepsMending := keeps_get fun _ => keeps_each fun _ _ =>
  keeps_ite (fun _ => units_keepsMending fun _ => by split <;> exact ⟨rfl, rfl⟩) fun _ => stallEnd_keepsMending _

theorem Act.pump_keepsMending (p n : Nat) : (Act.pump p n).KeepsMending := by
  induction n with
  | zero => exact keeps_skip
  | succ n ih =>
    refine keeps_get fun s => keeps_ite (fun _ => keeps_skip) fun _ => ?_
    split
    · exact vcStalls_keepsMending p
    · split
      · exact keeps_skip
      · exact keeps_seq (units_keepsMending fun _ => ⟨rfl, rfl⟩) <| keeps_seq (units_keepsMending fun _ => ⟨rfl, rfl⟩) <|
          keeps_seq count_keepsMending <| keeps_seq ih keeps_skip

/-- A message that this device sends does not come to it (R290). -/
theorem Act.sendMsg_keepsMending (vc : Nat) (m : Msg) : (Act.sendMsg vc m).KeepsMending := keeps_get fun _ => keeps_get fun _ => by
  split
  · exact keeps_skip
  · exact count_keepsMending
  · refine keeps_seq ?_ (keeps_seq (units_keepsMending fun _ => ⟨rfl, rfl⟩) (keeps_seq (pump_keepsMending _ _) keeps_skip))
    split
    · exact count_keepsMending
    · exact keeps_skip

theorem Act.flowPump_keepsMending (f n : Nat) : (Act.flowPump f n).KeepsMending := by
  induction n with
  | zero => exact keeps_skip
  | succ n ih =>
    refine keeps_get fun s => ?_
    split
    · exact keeps_ite (fun _ => keeps_skip) fun _ => keeps_seq (units_keepsMending fun _ => ⟨rfl, rfl⟩) <| keeps_seq fld_keepsMending <|
        keeps_seq (keeps_get fun _ => sendMsg_keepsMending _ _) <| keeps_seq ih keeps_skip
    · exact keeps_skip

theorem Act.repairAsk_keepsMending (r : Repair) : (Act.repairAsk r).KeepsMending := keeps_get fun _ => by
  refine keeps_seq (keeps_units fun s => ?_) (keeps_when fun _ =>
    keeps_seq (units_keepsMending fun _ => ⟨rfl, rfl⟩) (flowPump_keepsMending _ _))
  simp only [State.mending, State.mended, List.map_map, Prod.mk.injEq, true_and]
  refine List.map_congr_left fun x _ => ?_
  dsimp only [Function.comp_apply]
  split <;> rfl

/-! ### What it does -/

section
variable {s : State}

/-- A segment under repair joins that repair: nothing happens. -/
theorem poisonSeg_mended {p : Nat × Nat × Nat} (h : p ∈ s.mended) : (Act.poisonSeg p.1 p.2.1 p.2.2).run s = s := by
  simp [Act.poisonSeg, State.repairing_iff.2 h]

/-- A segment that is poisoned joins the poisoned ones and those under repair, unless it is under repair. -/
theorem poisonSeg_mending (p : Nat × Nat × Nat) : ((Act.poisonSeg p.1 p.2.1 p.2.2).run s).mending =
    if p ∈ s.mended then s.mending else (s.stack, sadd s.u.poisonSegs p, s.mended ++ [p]) := by
  split
  · rename_i h
    rw [poisonSeg_mended h]
  · rename_i h
    have hnot : s.repairing p.1 p.2.1 p.2.2 = false := Bool.eq_false_iff.2 fun e => h (State.repairing_iff.1 e)
    simp only [Act.poisonSeg, Act.run_get, hnot, Bool.not_false, Act.when_true, Act.run_all_cons, Act.run_all_nil]
    rw [Act.repairAsk_keepsMending, Act.poisonEvent_keepsMending, Act.verPoison, Act.run_get, Act.fld_keepsMending]
    simp [State.mending, State.mended]

/-- Of segments poisoned one after another each is among the poisoned ones then, or was under repair before; stack memory is left. -/
theorem poisonSegs_reach (l : List (Nat × Nat × Nat)) (s : State) :
    let t := (Act.each l fun p => Act.poisonSeg p.1 p.2.1 p.2.2).run s
    t.stack = s.stack ∧ s.u.poisonSegs ⊆ t.u.poisonSegs ∧ ∀ p ∈ l, p ∈ t.u.poisonSegs ∨ p ∈ s.mended := by
  induction l generalizing s with
  | nil => exact ⟨rfl, List.Subset.refl _, by simp⟩
  | cons p l ih =>
    rw [Act.run_each_cons]
    obtain ⟨hstack, hsub, hreach⟩ := ih ((Act.poisonSeg p.1 p.2.1 p.2.2).run s)
    by_cases h : p ∈ s.mended
    · rw [poisonSeg_mended h] at *
      exact ⟨hstack, hsub, List.forall_mem_cons.2 ⟨.inr h, hreach⟩⟩
    · have hp := poisonSeg_mending (s := s) p
      generalize (Act.poisonSeg p.1 p.2.1 p.2.2).run s = x at hstack hsub hreach hp ⊢
      rw [if_neg h] at hp
      obtain ⟨hx, hsegs, hmended⟩ : x.stack = s.stack ∧ x.u.poisonSegs = sadd s.u.poisonSegs p ∧ x.mended = s.mended ++ [p] := by
        simpa only [State.mending, Prod.mk.injEq] using hp
      rw [hsegs] at hsub
      have hin := hsub (mem_sadd _ p)
      refine ⟨hstack.trans hx, fun q hq => hsub (mem_sadd_of_mem hq), List.forall_mem_cons.2 ⟨.inl hin, fun q hq => ?_⟩⟩
      obtain h' | h' := hreach q hq
      · exact .inl h'
      · rw [hmended, List.mem_append, List.mem_singleton] at h'
        exact h'.elim .inr fun e => .inl (e ▸ hin)

/-- Beside the firmware region the report of a poisoned burst poisons the segments that hold it (R274). -/
theorem poisonReport_run {dpa : Nat} (hup : s.saddleUp = true) (hpoison : dpa / 64 ∈ s.stack.poison)
    (hregion : s.u.mem.region dpa ≠ .firmware) :
    (Act.poisonReport dpa).run s = (Act.each (s.segsHolding dpa) fun p => Act.poisonSeg p.1 p.2.1 p.2.2).run s := by
  simp [Act.poisonReport, hup, hpoison, hregion]

/-- Where every segment under repair is a poisoned one, the statement's clause on poison beside the firmware region holds (R274, R370). -/
theorem poisonReport_reaches (dpa : Nat) (hup : s.saddleUp = true) (hpoison : dpa / 64 ∈ s.stack.poison)
    (hregion : s.u.mem.region dpa ≠ .firmware) (hknown : s.mended ⊆ s.u.poisonSegs) :
    Completes (.poisonReport dpa) s fun t => t.stack = s.stack ∧ ∀ p ∈ s.segsHolding dpa, p ∈ t.u.poisonSegs := by
  obtain ⟨hstack, hsub, hreach⟩ := poisonSegs_reach (s.segsHolding dpa) s
  exact ⟨_, congrArg Host.Outcome.next (poisonReport_run hup hpoison hregion), hstack,
    fun p hp => (hreach p hp).elim id fun h => hsub (hknown h)⟩

/-- Where every segment that holds the burst is under repair, the report changes nothing. -/
theorem poisonReport_mended {dpa : Nat} (hup : s.saddleUp = true) (hpoison : dpa / 64 ∈ s.stack.poison)
    (hregion : s.u.mem.region dpa ≠ .firmware) (hmended : ∀ p ∈ s.segsHolding dpa, p ∈ s.mended) :
    (Act.poisonReport dpa).run s = s := by
  rw [poisonReport_run hup hpoison hregion]
  exact Act.run_each_same fun p hp => poisonSeg_mended (hmended p hp)

end

/-! ### A repair without its segment -/

/-- Version 9 of model 255 is resident: context 1 reads its one segment, of 64 bytes at 0x2000, in stack memory at 0x20_0000_2000, where
its burst is poisoned. The segment stands among the repairs under way, but not among the poisoned segments. -/
def strayRepair : State :=
  let s := (((State.reset.apply (.mem .stack 0x3000000000 (cleanBytes 8 0x3000001001))).apply
    (.mem .stack 0x3000001000 (cleanBytes 8 0x2000000007))).apply (.mem .stack 0x2000002000 [(0#8, true)])).withRegs
      [(.ptRoot, 1, 0x3000000000)]
  { s with u := { s.u with pow := { s.u.pow with boot := .running, memOn := true }
                           vers := [⟨255, 9, 1, [⟨8, 0, 5, [⟨77, [77, 0, 0, 0x2000, 0, 0, 64, 0], 0⟩]⟩]⟩]
                           repairs := [{ model := 255, version := 9, seg := 77, asked := true }] } }

theorem strayRepair_meets : let s := strayRepair
    s.saddleUp = true ∧ 0x2000002000 / 64 ∈ s.stack.poison ∧ s.u.mem.region 0x2000002000 ≠ .firmware ∧
      s.segsHolding 0x2000002000 = [(255, 9, 77)] ∧ s.mended = [(255, 9, 77)] ∧ s.u.poisonSegs = [] := by decide +kernel

/-- Refutes O52: its clause on poison beside the firmware region lets a segment be under repair without being among the poisoned ones. In
`strayRepair` the report joins that repair and changes nothing, so that the segment which holds the burst is not among the poisoned ones.
Where every segment under repair is a poisoned one, the clause holds: `poisonReport_reaches`. -/
theorem not_memoryRowsAct : ¬ Obligations.MemoryRowsAct := by
  unfold Obligations.MemoryRowsAct
  intro h
  obtain ⟨hup, hpoison, hregion, hholds, hmended, hnone⟩ := strayRepair_meets
  obtain ⟨-, hreport, -⟩ := h strayRepair .hostPf
  obtain ⟨t, ht, -, hsegs⟩ := (hreport 0x2000002000 hup hpoison).2 hregion
  obtain rfl := (Host.Outcome.next.inj ht).symm.trans (poisonReport_mended hup hpoison hregion (by simp [hholds, hmended]))
  have hin := hsegs (255, 9, 77) (by simp [hholds])
  rw [hnone] at hin
  exact List.not_mem_nil hin

end Sys2Proof.Machine
end

section
/-! SUPPORT. What a port's sending leaves, and that a message which is routed out of a port leaves by it (R298, R300). -/

-- One proof after another, as in the tests, so that the compile of the whole text keeps within its memory.
set_option Elab.async false

namespace Sys2Proof.Machine

/-! ### One flit of a port (R296, R298) -/

theorem Port.drr_queue {x y : Port} {w : Nat → Nat} {k v : Nat} (h : x.drr w k = some (v, y)) : y.queue = x.queue := by
  induction k generalizing x with
  | zero => cases h
  | succ k ih =>
    simp only [Port.drr] at h
    split at h
    · cases h
      rfl
    · exact (ih h :)

theorem Port.pick_queue {x y : Port} {w : Nat → Nat} {v : Nat} (h : x.pick w = some (v, y)) : y.queue = x.queue := by
  simp only [Port.pick] at h
  split at h
  · cases h
  · split at h
    · cases h
      rfl
    · exact Port.drr_queue h

/-- The state once a flit went out of a port, which is left as the pair says. -/
def State.flitSent (s : State) (p : Nat) (r : Flit × Port) : State :=
  (Act.all [.port p fun _ => r.2, .out (.flit p r.1), .count .portStatus p 7]).run s

theorem State.flitSent_u (s : State) (p : Nat) (r : Flit × Port) :
    (s.flitSent p r).u = { s.u with ports := tset s.u.ports p r.2, outbox := s.u.outbox ++ [.flit p r.1] } :=
  Act.count_keeps_u (g := id) _

/-- A port that may send does nothing, marks the channels that wait for credits, or sends one flit of a message of its queue and goes
on. -/
theorem Act.pump_cases (p n : Nat) (s : State) :
    (Act.pump p (n + 1)).run s = s ∨ (Act.pump p (n + 1)).run s = (Act.vcStalls p).run s ∨
      ∃ (x : Port) (o : OutMsg), x.queue = (s.port p).queue ∧
        (Act.pump p (n + 1)).run s = (Act.pump p n).run (s.flitSent p (x.emit o)) := by
  rw [Act.pump, Act.run_get]
  dsimp only
  split
  · exact .inl rfl
  · split
    · exact .inr (.inl rfl)
    · rename_i hpick
      split
      · exact .inl rfl
      · exact .inr (.inr ⟨_, _, Port.pick_queue hpick, rfl⟩)

/-! ### What sending leaves -/

section
variable {α : Type} {f : State → α} {p : Nat}

theorem Act.stallEnd_keeps (hunits : ∀ (s : State) x, f { s with u := { s.u with stalls := x } } = f s)
    (hcount : ∀ n i k b, (Act.count n i k b).Keeps f) (x : Nat) : (Act.stallEnd x).Keeps f := keeps_get fun _ => by
  split
  · exact keeps_skip
  · exact keeps_seq (fun s => hunits s _) (hcount _ _ _ _)

theorem Act.vcStalls_keeps (hunits : ∀ (s : State) x, f { s with u := { s.u with stalls := x } } = f s)
    (hend : ∀ v, v < 7 → (Act.stallEnd (stallVc p v)).Keeps f) : (Act.vcStalls p).Keeps f :=
  keeps_get fun _ => keeps_each fun v hv => keeps_ite
    (fun _ s => by
      rw [stallBegin, run_units]
      split
      · rfl
      · exact hunits s _)
    fun _ => hend v (List.mem_range.1 hv)

/-- What is told neither by what was sent nor by the ports, nor by the counters of flits and of exhausted channels, sending leaves. -/
theorem Act.pump_keeps
    (hunits : ∀ (s : State) o ports stalls, f { s with u := { s.u with outbox := o, ports := ports, stalls := stalls } } = f s)
    (hsent : (Act.count .portStatus p 7).Keeps f) (hend : ∀ v, v < 7 → (Act.stallEnd (stallVc p v)).Keeps f) (n : Nat) :
    (Act.pump p n).Keeps f := fun s => by
  induction n generalizing s with
  | zero => rfl
  | succ n ih =>
    obtain h | h | ⟨x, o, -, h⟩ := Act.pump_cases p n s <;> rw [h]
    · exact vcStalls_keeps (fun s => hunits s s.u.outbox s.u.ports) hend s
    · rw [ih]
      exact (hsent _).trans (hunits s _ _ s.u.stalls)

end

theorem Act.vcStalls_keepsU {α : Type} {g : Units → α} (h : ∀ (u : Units) x, g { u with stalls := x } = g u) (p : Nat) :
    (Act.vcStalls p).Keeps fun s => g s.u :=
  vcStalls_keeps (fun s => h s.u) fun _ _ => stallEnd_keeps (fun s => h s.u) (fun _ _ _ _ => count_keeps_u) _

theorem Act.pump_keepsStore (p n : Nat) (m : MemSel) : (Act.pump p n).Keeps fun s => s.store m :=
  pump_keeps (fun s _ _ _ => units_keeps_store (g := fun _ => _) m s) (count_keeps_store m) (fun _ _ => stallEnd_keepsStore _ m) n

/-- A message in the col changes no memory on its way. -/
theorem Act.route_keepsStore {came : Option (Nat × Bool)} {vc : Nat} {msg : Msg} {k : Msg → Act} (m : MemSel)
    (hk : ∀ msg, (k msg).Keeps fun s => s.store m) : (Act.route came vc msg k).Keeps fun s => s.store m :=
  keeps_get fun _ => by
    split
    · exact hk _
    · exact count_keeps_store m
    · refine keeps_seq ?_ (keeps_seq (units_keeps_store m) (keeps_seq (pump_keepsStore _ _ m) keeps_skip))
      split
      · exact count_keeps_store m
      · exact keeps_skip

/-! ### A message on its way (R298, R300) -/

/-- A message waits at a port, its last flit being still to go. -/
def Port.Waits (x : Port) (m : Msg) : Prop := ∃ o ∈ x.queue, o.m = m ∧ o.sent < flitCount m

theorem flitCount_pos (m : Msg) : 0 < flitCount m := Nat.div_pos (by omega) (by decide)

/-- The last flit of a message has its last payload. -/
theorem Port.emit_payload (x : Port) {o : OutMsg} (h : o.sent = flitCount o.m - 1) : (x.emit o).1.payload = lastPayload o.m := by
  simp only [Port.emit, mkFlit, lastPayload, dataOf, List.map_take, h, List.take_append, List.length_take, List.take_take,
    List.length_map, List.length_drop]
  congr 2
  omega

/-- Where a port sends a flit, a message that waits there waits on, or the flit is its last. -/
theorem Port.emit_waits {x : Port} {m : Msg} (h : x.Waits m) (o : OutMsg) :
    (x.emit o).2.Waits m ∨ (x.emit o).1.payload = lastPayload m := by
  obtain ⟨w, hw, rfl, hlt⟩ := h
  by_cases hmore : o.sent + 1 < flitCount o.m
  · have hq : (x.emit o).2.queue = { o with sent := o.sent + 1 } :: x.queue.erase o := if_pos hmore
    refine .inl ?_
    by_cases ho : w = o
    · subst ho
      exact ⟨{ w with sent := w.sent + 1 }, hq ▸ List.mem_cons_self .., rfl, hmore⟩
    · exact ⟨w, hq ▸ List.mem_cons_of_mem _ ((List.mem_erase_of_ne ho).2 hw), rfl, hlt⟩
  · have hq : (x.emit o).2.queue = x.queue.erase o := if_neg hmore
    by_cases ho : w = o
    · subst ho
      exact .inr (x.emit_payload (by omega))
    · exact .inl ⟨w, hq ▸ (List.mem_erase_of_ne ho).2 hw, rfl, hlt⟩

theorem Leaves.of_later {s x t : State} {p : Nat} {m : Msg} {l : List Out} (h : Leaves x t p m) (hx : x.u.outbox = s.u.outbox ++ l) :
    Leaves s t p m := by
  obtain h | ⟨l', f, hl, hf, hp⟩ := h
  · exact .inl h
  · exact .inr ⟨l ++ l', f, by rw [hl, hx, List.append_assoc], List.mem_append_right _ hf, hp⟩

theorem Act.pump_sends (p n : Nat) (s : State) : ∃ l, ((Act.pump p n).run s).u.outbox = s.u.outbox ++ l := by
  induction n generalizing s with
  | zero => exact ⟨[], (List.append_nil _).symm⟩
  | succ n ih =>
    obtain h | h | ⟨x, o, -, h⟩ := Act.pump_cases p n s <;> rw [h]
    · exact ⟨[], (List.append_nil _).symm⟩
    · exact ⟨[], (vcStalls_keepsU (g := Units.outbox) (fun _ _ => rfl) p s).trans (List.append_nil _).symm⟩
    · obtain ⟨l, hl⟩ := ih (s.flitSent p (x.emit o))
      exact ⟨_, by rw [hl, State.flitSent_u, List.append_assoc]⟩

/-- A message that waits at a port leaves by it, if its port sends its last flit now, or later. -/
theorem Act.pump_leaves {p : Nat} {m : Msg} (n : Nat) {s : State} (h : (s.port p).Waits m) : Leaves s ((Act.pump p n).run s) p m := by
  induction n generalizing s with
  | zero =>
    obtain ⟨o, ho, hm, -⟩ := h
    exact .inl ⟨o, ho, hm⟩
  | succ n ih =>
    have hwaits {t : State} (ht : t.u.ports = s.u.ports) : Leaves s t p m := by
      obtain ⟨o, ho, hm, -⟩ := h
      exact .inl ⟨o, by rwa [State.port, ht], hm⟩
    obtain hrun | hrun | ⟨x, o, hx, hrun⟩ := Act.pump_cases p n s <;> rw [hrun]
    · exact hwaits rfl
    · exact hwaits (vcStalls_keepsU (g := Units.ports) (fun _ _ => rfl) p s)
    · have hsent := s.flitSent_u p (x.emit o)
      have hout : (s.flitSent p (x.emit o)).u.outbox = s.u.outbox ++ [.flit p (x.emit o).1] := by rw [hsent]
      obtain hw | hlast := Port.emit_waits (x := x) (m := m) (by simpa only [Port.Waits, hx] using h) o
      · exact (ih (by simpa [State.port, hsent] using hw)).of_later hout
      · obtain ⟨l, hl⟩ := Act.pump_sends p n (s.flitSent p (x.emit o))
        exact .inr ⟨_, _, by rw [hl, hout, List.append_assoc], by simp, hlast⟩

/-- A message leaves by the hop that routing gives it. -/
theorem Act.route_leaves {s : State} {m m' : Msg} {came : Option (Nat × Bool)} {vc p : Nat} {rev : Option Nat} {k : Msg → Act}
    (h : s.hop came m = .out p m' rev) : Leaves s ((Act.route came vc m k).run s) p m' := by
  simp only [Act.route, Act.run_get, h, Act.run_all_cons, Act.run_all_nil]
  let o : OutMsg := { m := m', vc := vc, poolB := s.poolB came p, came := came }
  refine (pump_leaves pumpFuel (m := m') ⟨o, ?_, rfl, flitCount_pos m'⟩).of_later (l := []) ?_
  · simp [State.port, Act.port, o]
  · simp only [Act.port, Act.run_units, List.append_nil]
    cases rev with
    | none => rfl
    | some r => exact Act.count_keeps_u (g := Units.outbox) s

/-- The crossing of a port's virtual channel is counted for that port. -/
theorem State.stallPlace_vc (s : State) {p v : Nat} (hp : p < 8) (hv : v < 7) :
    s.stallPlace (stallVc p v) = (.colVcExhaust, p, v, 1600) := by
  have hlow : ¬ stallVc p v < stallVc 0 0 := by simp only [stallVc]; omega
  have hhigh : stallVc p v < stallGate 0 0 := by simp only [stallVc, stallGate]; omega
  have hp' : (stallVc p v - stallVc 0 0) / 8 = p := by simp only [stallVc]; omega
  have hv' : (stallVc p v - stallVc 0 0) % 8 = v := by simp only [stallVc]; omega
  rw [State.stallPlace, if_neg hlow, if_pos hhigh, hp', hv']

/-- The wait of one of a port's channels ends in that port's exhaustion counts (R31). -/
theorem Act.stallVc_touches {p v : Nat} (hp : p < 8) (hv : v < 7) {l : List (EName × Nat)} (hl : (.colVcExhaust, p) ∈ l) :
    (Act.stallEnd (stallVc p v)).Touches l := touches_get fun s => by
  split
  · exact touches_skip
  · rw [s.stallPlace_vc hp hv]
    exact touches_seq (touches_units fun _ => ⟨rfl, rfl⟩) (touches_count hl)

/-- Sending changes no memory, and of the entries the status and the exhaustion counts of its port (R31, R333). -/
theorem Act.pump_touches {p : Nat} (hp : p < 8) {l : List (EName × Nat)} (hstatus : (.portStatus, p) ∈ l)
    (hexhaust : (.colVcExhaust, p) ∈ l) (fuel : Nat) : (Act.pump p fuel).Touches l := fun s =>
  ⟨sameMem_of_stores fun m => pump_keepsStore p fuel m s, fun n i hj hk =>
    pump_keeps (f := fun s => s.rd n i) (fun _ _ _ _ => State.rd_congr rfl rfl _ _)
    ((touches_count hstatus).rd hj hk) (fun _ hv => (stallVc_touches hp hv hexhaust).rd hj hk) fuel s⟩

/-- The counters of an entry that is left are left (R38). -/
theorem SameEntriesBut.cnt {l : List (EName × Nat)} {s t : State} {n : EName} {i : Nat} (h : SameEntriesBut l s t) (hi : i < n.count)
    (hn : (n, i) ∉ l) (k : Nat) : t.cnt n i k = s.cnt n i k := by rw [State.cnt, State.cnt, State.fld, State.fld, h n i hi hn]

end Sys2Proof.Machine
end

section
/-! SUPPORT. Ports beside a stray flow (R296, R299, R328). What `State.flowsHeld` reads of a flow whose number is none of the 8,192 it reads
at the address of another entry, and the statements of O53 and O54 let a state hold such a flow. -/

-- One proof after another, as in the tests, so that the compile of the whole text keeps within its memory.
set_option Elab.async false

namespace Sys2Proof.Machine

/-! ### Flows that wait -/

/-- Which flows wait is told by what the flows hold and by their FLOW_STATE. -/
theorem State.flowsHeld_same {s t : State} (hflows : t.u.flows = s.u.flows)
    (hrd : ∀ x ∈ s.u.flows, t.rd .flowState x.1 = s.rd .flowState x.1) : t.flowsHeld = s.flowsHeld := by
  rw [State.flowsHeld, State.flowsHeld, hflows]
  refine congrArg (List.map Prod.fst) (List.filter_congr fun x hx => ?_)
  simp only [State.flowSt, State.recvNext, State.fld, hrd x hx]

/-- Where no flow waits, none is tried again. -/
theorem Act.deliverHeld_none {s : State} (h : s.flowsHeld = []) : Act.deliverHeld.run s = s := by simp [Act.deliverHeld, h]

/-! ### A flow whose number is no flow's -/

/-- The flow number whose FLOW_STATE would stand at the address of entry `i` of a family (R14, R431). -/
def strayFlow (n : EName) (i : Nat) : Nat := n.key i - EName.flowState.key 0

/-- That flow alone holds messages: 0, which is its next, and 5, both without an effect of their own. -/
def strayHolds (n : EName) (i : Nat) : State :=
  { State.reset with u := { State.reset.u with flows := [(strayFlow n i, { held := [{ type := 7 }, { type := 7, fseq := 5 }] })] } }

/-! ### A port that is identified (R316, R328) -/

/-- What a port's entry tells of its state and of its peer (R333). -/
def State.portHead (s : State) (p : Nat) : Nat × Nat × Nat :=
  (s.fld .portStatus p 0 0 4, s.fld .portStatus p 0 16 16, s.fld .portStatus p 0 32 3)

theorem State.portHead_of_rd {s t : State} {p : Nat} (h : t.rd .portStatus p = s.rd .portStatus p) : t.portHead p = s.portHead p := by
  simp only [State.portHead, State.fld, h]

theorem State.portHead_port (s : State) (p q : Nat) (f : Port → Port) : ((Act.port q f).run s).portHead p = s.portHead p :=
  portHead_of_rd (rd_congr rfl rfl _ _)

theorem Act.count_keepsPortHead {p : Nat} (hp : p < 8) : (Act.count .portStatus p 7).Keeps fun s => s.portHead p := fun s => by
  have h := Settable.of_vol s (n := .portStatus) hp rfl
  simp only [State.portHead, Act.count, Act.countFld, Act.run_get]
  rw [s.fld_fld_apart _ h (by decide) (by decide), s.fld_fld_apart _ h (by decide) (by decide),
    s.fld_fld_apart _ h (by decide) (by decide)]

theorem Act.pump_keepsPortHead {p : Nat} (hp : p < 8) (n : Nat) : (Act.pump p n).Keeps fun s => s.portHead p :=
  pump_keeps (fun _ _ _ _ => State.portHead_of_rd (State.rd_congr rfl rfl _ _)) (count_keepsPortHead hp)
    (fun _ hv s => State.portHead_of_rd ((stallVc_touches hp hv (List.mem_singleton_self _)).rd hp (by simp) s)) n

/-- A port takes its state in its entry; what follows shows it, and changes neither an entry nor a flow (R330, R488, R491). -/
theorem Act.portSt_eq (p st : Nat) : ∃ shown : Act, Act.portSt p st = .seq (.fld .portStatus p 0 0 4 st) shown ∧
    (∀ l, shown.Touches l) ∧ shown.Keeps fun s => s.u.flows := by
  refine ⟨_, rfl, fun l => ?_, ?_⟩
  · exact touches_seq (touches_get fun _ => trace_touches _ _ _ _ _) <| touches_seq (touches_units fun _ => ⟨rfl, rfl⟩) <|
      touches_seq (touches_units fun _ => ⟨rfl, rfl⟩) touches_skip
  · exact keeps_seq (keeps_get fun _ => keeps_units fun _ => by dsimp only; split <;> rfl) <|
      keeps_seq (keeps_units fun _ => rfl) <| keeps_seq (keeps_units fun _ => rfl) keeps_skip

theorem Act.portSt_touches {p st : Nat} {l : List (EName × Nat)} (h : (.portStatus, p) ∈ l) : (Act.portSt p st).Touches l := by
  obtain ⟨shown, heq, htouches, -⟩ := Act.portSt_eq p st
  rw [heq]
  exact touches_seq (touches_fld h) (htouches l)

theorem Act.portSt_keepsFlows (p st : Nat) : (Act.portSt p st).Keeps fun s => s.u.flows := by
  obtain ⟨shown, heq, -, hflows⟩ := Act.portSt_eq p st
  rw [heq]
  exact keeps_seq (fld_keeps_u (g := Units.flows)) hflows

/-- A port takes its state, and its peer stays. -/
theorem State.portHead_portSt (s : State) {p st : Nat} (hp : p < 8) (hst : st < 2 ^ 4) :
    ((Act.portSt p st).run s).portHead p = (st, (s.portHead p).2) := by
  have h := Settable.of_vol s (n := .portStatus) hp rfl
  obtain ⟨shown, heq, htouches, -⟩ := Act.portSt_eq p st
  rw [heq, Act.run_seq, State.portHead_of_rd ((htouches []).rd (n := .portStatus) hp (by simp) _)]
  simp only [State.portHead]
  rw [s.fld_fld st h (by decide), Nat.mod_eq_of_lt hst, s.fld_fld_apart st h (by decide) (by decide),
    s.fld_fld_apart st h (by decide) (by decide)]

theorem Act.epochUp_touches {l : List (EName × Nat)} (h : (.recoveryEpoch, 0) ∈ l) : Act.epochUp.Touches l :=
  touches_get fun _ => touches_fld h

theorem Act.portUp_touches {p : Nat} (hp : p < 8) :
    (Act.portUp p).Touches [(.portStatus, p), (.recoveryEpoch, 0), (.colVcExhaust, p)] :=
  touches_seq (portSt_touches (by simp)) <| touches_seq (touches_units fun _ => ⟨rfl, rfl⟩) <|
    touches_seq (epochUp_touches (by simp)) <| touches_seq (pump_touches hp (by simp) (by simp) _) touches_skip

/-- A port that comes UP takes that state, and its peer stays. -/
theorem State.portHead_portUp (s : State) {p : Nat} (hp : p < 8) : ((Act.portUp p).run s).portHead p = (6, (s.portHead p).2) := by
  let x := (Act.portSt p psUp).run s
  let y := Act.epochUp.run ((Act.units fun u => { u with wasUp := true }).run x)
  have hrd : y.rd .portStatus p = x.rd .portStatus p :=
    ((Act.epochUp_touches (l := [(.recoveryEpoch, 0)]) (by simp)).rd hp (by simp) _).trans (State.rd_congr rfl rfl _ _)
  exact (Act.pump_keepsPortHead hp pumpFuel y).trans ((State.portHead_of_rd hrd).trans (s.portHead_portSt hp (by decide)))

theorem Act.pump_keepsFlows (p n : Nat) : (Act.pump p n).Keeps fun s => s.u.flows :=
  pump_keeps (fun _ _ _ _ => rfl) (count_keeps_u (g := Units.flows))
    (fun _ _ => stallEnd_keeps (fun _ _ => rfl) (fun _ _ _ _ => count_keeps_u (g := Units.flows)) _) n

theorem Act.identIn_keepsFlows (p a k : Nat) : (Act.identIn p a k).Keeps fun s => s.u.flows := by
  refine keeps_get fun _ => keeps_when fun _ => keeps_seq (fld_keeps_u (g := Units.flows)) <|
    keeps_seq (fld_keeps_u (g := Units.flows)) <| keeps_seq (keeps_units fun _ => rfl) <|
    keeps_seq (keeps_when fun _ => keeps_ite (fun _ => ?_) fun _ => ?_) keeps_skip
  · exact keeps_seq (portSt_keepsFlows _ _) <| keeps_seq (keeps_units fun _ => rfl) <|
      keeps_seq (keeps_get fun _ => fld_keeps_u (g := Units.flows)) <| keeps_seq (pump_keepsFlows _ _) keeps_skip
  · exact keeps_seq (portSt_keepsFlows _ _) (keeps_units fun _ => rfl)

/-- The port is UP or QUARANTINED once its peer is known, and its entry names the peer (R328, R333). -/
theorem State.portHead_identIn (s : State) {p a k : Nat} (hp : p < 8) (ha : a < 2 ^ 16) (hk : k < 2 ^ 3) (hst : s.portSt p = 5) :
    ((Act.identIn p a k).run s).portHead p = (if s.peerOk p a k then 6 else 7, a, k) := by
  let x := (Act.fld .portStatus p 0 32 3 k).run ((Act.fld .portStatus p 0 16 16 a).run s)
  let y := (Act.port p fun x => { x with ident := true }).run x
  have hset (s : State) := Settable.of_vol s (n := .portStatus) hp rfl
  have hx : (x.portHead p).2 = (a, k) := by
    simp only [State.portHead, x]
    rw [State.fld_fld_apart _ _ (hset _) (by decide) (by decide), State.fld_fld _ _ (hset _) (by decide),
      State.fld_fld _ _ (hset _) (by decide), Nat.mod_eq_of_lt ha, Nat.mod_eq_of_lt hk]
  have hpeer : (y.portHead p).2 = (a, k) := by rw [x.portHead_port, hx]
  have hrun : (Act.identIn p a k).run s = (if s.peerOk p a k then Act.portUp p
      else .seq (.portSt p psQuarantined) (.port p fun x => { x with cred := [] })).run y := by
    simp [Act.identIn, hst, psIdentify, x, y]
  rw [hrun]
  cases s.peerOk p a k
  · exact (State.portHead_port ..).trans ((y.portHead_portSt hp (by decide)).trans (congrArg (Prod.mk 7) hpeer))
  · exact (y.portHead_portUp hp).trans (congrArg (Prod.mk 6) hpeer)

/-- Where every flow is one of the 8,192 (R305), the statement's clause on an identified port holds (R328). -/
theorem ident_settles (s : State) (p : Fin 8) (a : BitVec 16) (k : Byte) (serial : W64) (hon : s.colOn = true) (hst : s.portSt p = 5)
    (hnone : s.flowsHeld = []) (hflows : ∀ x ∈ s.u.flows, x.1 < 8192) :
    Completes (.ident p a k serial) s fun t => t.portSt p = (if s.peerOk p a.toNat (k.toNat % 8) then 6 else 7) ∧
      t.fld .portStatus p 0 16 16 = a.toNat ∧ t.fld .portStatus p 0 32 3 = k.toNat % 8 ∧ SameMem s t ∧
      SameEntriesBut [(.portStatus, p), (.recoveryEpoch, 0), (.colVcExhaust, p)] s t := by
  let t := (Act.identIn p a.toNat (k.toNat % 8)).run s
  have hhead : t.portHead p = _ := s.portHead_identIn p.isLt a.isLt (Nat.mod_lt _ (by decide)) hst
  have htouch : (Act.identIn p a.toNat (k.toNat % 8)).Touches [(.portStatus, p.val), (.recoveryEpoch, 0), (.colVcExhaust, p.val)] := by
    refine Act.touches_get fun _ => Act.touches_when <| Act.touches_seq (Act.touches_fld (by simp)) <|
      Act.touches_seq (Act.touches_fld (by simp)) <| Act.touches_seq (Act.touches_units fun _ => ⟨rfl, rfl⟩) <|
      Act.touches_seq (Act.touches_when <| Act.touches_ite ?_ ?_) Act.touches_skip
    · exact Act.portUp_touches p.isLt
    · exact Act.touches_seq (Act.portSt_touches (by simp)) (Act.touches_units fun _ => ⟨rfl, rfl⟩)
  have hheld : t.flowsHeld = [] := hnone ▸
    State.flowsHeld_same (Act.identIn_keepsFlows _ _ _ s) fun x hx => htouch.rd (hflows x hx) (by simp) s
  simp only [State.portHead, Prod.mk.injEq] at hhead
  obtain ⟨hstate, haddr, hport⟩ := hhead
  have hrun : exec (.ident p a k serial) s = .next (Act.deliverHeld.run t) := by simp [exec, execIdent, Act.portRow, hon, t]
  rw [Act.deliverHeld_none hheld] at hrun
  exact ⟨t, hrun, hstate, haddr, hport, htouch s⟩

/-- Port 0 is in IDENTIFY, the recovery epoch is 1, and the stray flow's state is read from it: OPENING until the epoch is 2. -/
def strayIdent : State := (strayHolds .recoveryEpoch 0).withRegs [(.portStatus, 0, 5), (.recoveryEpoch, 0, 1)]

theorem strayIdent_meets : strayIdent.colOn = true ∧ strayIdent.portSt 0 = 5 ∧ strayIdent.flowsHeld = [] := by decide +kernel

/-- The epoch that rises as the port comes UP makes the stray flow read OPEN: message 0 is delivered, and the pool's high-water mark rises
to what message 5 takes. -/
theorem strayIdent_delivers : let t := (Act.portRow (.seq (.identIn 0 7 1) .deliverHeld)).run strayIdent
    t.cnt .transportCount 0 5 = 32 ∧ strayIdent.cnt .transportCount 0 5 = 0 := by decide +kernel

/-- Refutes O53: its clause on an identified port lets a state hold a flow whose number is none of the 8,192, and FLOW_STATE of that number
is read at another entry's address. In `strayIdent` that entry is RECOVERY_EPOCH: as the port comes UP the epoch makes the stray flow OPEN,
its message is delivered, and TRANSPORT_COUNT changes. Where every flow is one of the 8,192, the clause holds: `ident_settles`. -/
theorem not_portsComeUpAndGoDown : ¬ Obligations.PortsComeUpAndGoDown := by
  unfold Obligations.PortsComeUpAndGoDown
  intro h
  obtain ⟨hon, hident, hnone⟩ := strayIdent_meets
  obtain ⟨-, -, -, hports⟩ := h strayIdent
  obtain ⟨-, -, -, -, -, -, hcomes, -⟩ := hports hon 0
  obtain ⟨t, ht, -, -, -, -, hentries⟩ := hcomes 7 1 0 hident hnone
  obtain rfl := Host.Outcome.next.inj ht
  obtain ⟨hafter, hbefore⟩ := strayIdent_delivers
  have hsame := hentries.cnt (n := .transportCount) (i := 0) (by decide) (by decide) 5
  exact absurd ((hafter.symm.trans hsame).trans hbefore) (by decide)

/-! ### What events and codewords change (R333, R476) -/

section
variable {α : Type} {f : State → α}

theorem Act.errEvent_keeps (hreg : ∀ n i v, n = .errwinState ∨ n = .evtWidx ∨ n = .hostCount → (Act.reg n i v).Keeps f)
    (hmem : ∀ a bs, (Act.mem .host a bs).Keeps f)
    (hunits : ∀ (s : State) svc host o, f { s with u := { s.u with svc := svc, host := host, outbox := o } } = f s)
    (src detail : Nat) : (Act.errEvent src detail).Keeps f := by
  have hfld {n : EName} {i off lo len v : Nat} (h : n = .errwinState ∨ n = .evtWidx ∨ n = .hostCount) :
      (Act.fld n i off lo len v).Keeps f := keeps_get fun _ => hreg _ _ _ h
  have hmsix (fn v : Nat) : (Act.msix fn v).Keeps f := keeps_get fun _ => keeps_ite (fun _ => keeps_skip) fun _ =>
    keeps_ite (fun _ s => hunits s s.u.svc _ s.u.outbox) fun _ => keeps_ite
      (fun _ => keeps_seq (fun s => hunits s s.u.svc s.u.host _) (keeps_get fun _ => hfld (by simp))) fun _ => keeps_skip
  have hevent (fns : List Nat) (code scope ctx : Nat) : (Act.event fns code scope ctx src detail).Keeps f := keeps_get fun _ =>
    keeps_seq (fun s => hunits s _ s.u.host s.u.outbox) (keeps_each fun _ _ => keeps_get fun _ => keeps_ite (fun _ => keeps_skip) fun _ =>
      keeps_seq (hmem _ _) (keeps_seq (hreg _ _ _ (by simp)) (keeps_seq (hmsix _ _) keeps_skip)))
  exact keeps_get fun _ => keeps_seq (keeps_get fun _ => hfld (by simp)) <| keeps_seq (hfld (by simp)) <|
    keeps_seq (keeps_when fun _ => keeps_seq (hfld (by simp)) (hevent _ _ _ _)) keeps_skip

/-- Counting the codewords of a flit changes what its port has counted, counters, and what events change (R333, R476). -/
theorem Act.countWords_keeps {p : Nat}
    (hreg : ∀ n i v, n = .errwinState ∨ n = .evtWidx ∨ n = .hostCount ∨ (n = .portStatus ∧ i = p) → (Act.reg n i v).Keeps f)
    (hmem : ∀ a bs, (Act.mem .host a bs).Keeps f)
    (hunits : ∀ (s : State) svc host o, f { s with u := { s.u with svc := svc, host := host, outbox := o } } = f s)
    (hport : ∀ l : Port → Tab Nat, (Act.port p fun x => { x with fecAt := l x }).Keeps f) (w : Flit) : (Act.countWords p w).Keeps f := by
  have hcount (k : Nat) : (Act.count .portStatus p k).Keeps f := keeps_get fun _ => keeps_get fun _ => hreg _ _ _ (by simp)
  refine keeps_each fun _ _ => keeps_get fun _ => keeps_when fun _ => keeps_seq (hport _) <|
    keeps_seq (keeps_ite (fun _ => ?_) fun _ => ?_) keeps_skip
  · refine keeps_seq (hcount 2) (errEvent_keeps (fun n i v hn => hreg n i v ?_) hmem hunits _ _)
    obtain h | h | h := hn <;> simp [h]
  · exact keeps_when fun _ => hcount 1

end

/-! ### A damaged flit that was asked for again (R296) -/

/-- Where every flow is one of the 8,192 (R305), the statement's clause on a damaged flit that was asked for already holds (R296). -/
theorem damagedFlit_dropped (s : State) (p : Fin 8) (w : Flit) (hon : s.colOn = true) (hnone : s.flowsHeld = [])
    (hflows : ∀ x ∈ s.u.flows, x.1 < 8192) (hup : s.portUp p = true) (hbad : flitGood w = false) :
    let c := (Act.countWords p w).run s
    (c.port p).gap = true → Completes (.dataFlit p w) s fun t => t.port p = c.port p ∧ t.cnt .portStatus p 3 =
      (c.cnt .portStatus p 3 + if flitDecoded w = true ∧ flitFld w 0 4 = 1 then 1 else 0) % 2 ^ 64 ∧ SameMem c t ∧
      SameEntriesBut [(.portStatus, p)] c t := by
  intro c hgap
  let d := (Act.when (flitDecoded w && flitFld w 0 4 == 1) (.count .portStatus p 3)).run c
  have hlanes : lanesUp (s.portSt p) = true := by
    simp only [State.portUp, beq_iff_eq] at hup
    rw [hup]
    rfl
  have hgap' : (s.port p).gap = true := by
    rw [← hgap]
    exact (Act.countWords_keeps (f := fun s => (s.port p).gap) (fun _ _ _ _ => Act.reg_keeps_u (g := fun u => (tgetD u.ports p {}).gap))
      (fun _ _ => Act.mem_keeps_u (g := fun u => (tgetD u.ports p {}).gap)) (fun _ _ _ _ => rfl)
      (fun _ _ => by simp [Act.port, State.port]) w s).symm
  have hdu : d.u = c.u := by
    cases h : flitDecoded w && flitFld w 0 4 == 1 <;> simp only [d, h]
    · rfl
    · exact Act.count_keeps_u (g := id) c
  have hdt : SameMem c d ∧ SameEntriesBut [(.portStatus, p.val)] c d :=
    Act.touches_when (Act.touches_count (by simp)) c
  have hcu : c.u.flows = s.u.flows := Act.countWords_keeps (f := fun s => s.u.flows) (fun _ _ _ _ => Act.reg_keeps_u (g := Units.flows))
    (fun _ _ => Act.mem_keeps_u (g := Units.flows)) (fun _ _ _ _ => rfl) (fun _ _ => rfl) w s
  have hheld : d.flowsHeld = [] := by
    rw [← hnone]
    refine State.flowsHeld_same (by rw [hdu, hcu]) fun x hx => ?_
    have hx := hflows x hx
    rw [hdt.2 .flowState x.1 hx (by simp)]
    exact Act.countWords_keeps (f := fun s => s.rd .flowState x.1)
      (fun n i v hn => (Act.touches_reg (l := [(n, i)]) (by simp)).rd hx (by obtain rfl | rfl | rfl | ⟨rfl, rfl⟩ := hn <;> simp))
      (fun _ _ _ => State.rd_congr (by simp) (by simp) _ _) (fun _ _ _ _ => State.rd_congr rfl rfl _ _)
      (fun _ _ => State.rd_congr rfl rfl _ _) w s
  have hrun : exec (.dataFlit p w) s = .next (Act.deliverHeld.run d) := by
    simp [exec, execDataFlit, Act.portRow, Act.flitIn, Act.anyFlit, Act.run_when, hon, hlanes, hup, hbad, hgap', c, d]
  rw [Act.deliverHeld_none hheld] at hrun
  refine ⟨d, hrun, by rw [State.port, hdu, State.port], ?_, hdt⟩
  cases h : flitDecoded w && flitFld w 0 4 == 1
  · rw [if_neg (by simpa using h)]
    simp only [d, h]
    exact (Nat.mod_eq_of_lt (bits_lt _ _ 64)).symm
  · rw [if_pos (by simpa using h)]
    simp only [d, h]
    exact State.cnt_count c (.of_vol _ p.isLt rfl) (by decide)

/-- Port 0 is UP and waits for the flit that its RETRY asked for. The window of its uncorrectable codewords is filled to 1, and the stray
flow's state is read from it. -/
def strayWindow : State :=
  let s := (strayHolds .errwinState 40).withRegs [(.portStatus, 0, 6), (.errwinState, 40, 1)]
  { s with u := { s.u with ports := [(0, { gap := true })] } }

/-- A flit that lies in an uncorrectable codeword of lane 0. -/
def lostFlit : Flit :=
  { w0 := 1, payload := List.replicate 240 0, words := [⟨0, 0, (List.range 16).map fun i => (Fin.ofNat 544 i, 1)⟩] }

theorem strayWindow_meets : strayWindow.colOn = true ∧ strayWindow.flowsHeld = [] ∧ strayWindow.portUp 0 = true ∧
    flitGood lostFlit = false ∧ (((Act.countWords 0 lostFlit).run strayWindow).port 0).gap = true := by decide +kernel

/-- The lost codeword fills the window to 2, and the stray flow reads OPEN: its message 0 is delivered. -/
theorem strayWindow_delivers : let t := (Act.portRow (.seq (.flitIn 0 lostFlit (.arrive .kwMsg)) .deliverHeld)).run strayWindow
    t.cnt .transportCount 0 5 = 32 ∧ ((Act.countWords 0 lostFlit).run strayWindow).cnt .transportCount 0 5 = 0 := by decide +kernel

/-- Refutes O54: its clauses let a state hold a flow whose number is none of the 8,192, as those of O53 do. In `strayWindow` FLOW_STATE of
that number is read from an error window: the codeword that a damaged flit lies in fills the window, which makes the stray flow OPEN, its
message is delivered, and TRANSPORT_COUNT changes. Where every flow is one of the 8,192, the clause holds: `damagedFlit_dropped`. -/
theorem not_flitsAndRouting : ¬ Obligations.FlitsAndRouting := by
  unfold Obligations.FlitsAndRouting
  intro h
  obtain ⟨hon, hnone, hup, hbad, hgap⟩ := strayWindow_meets
  obtain ⟨-, hport, -⟩ := h strayWindow hon hnone
  obtain ⟨-, hdamaged⟩ := hport 0 lostFlit hup
  obtain ⟨hasked, -⟩ := hdamaged hbad
  obtain ⟨t, ht, -, -, -, hentries⟩ := hasked hgap
  obtain rfl := Host.Outcome.next.inj ht
  obtain ⟨hafter, hbefore⟩ := strayWindow_delivers
  have hsame := hentries.cnt (n := .transportCount) (i := 0) (by decide) (by decide) 5
  exact absurd ((hafter.symm.trans hsame).trans hbefore) (by decide)

end Sys2Proof.Machine
end

section
/-! SUPPORT. A message that abandons the entry to NAP (R464), and an ACK that tells a fault (R310, R313): the statements of O55 and O56 leave
these out. -/

-- One proof after another, as in the tests, so that the compile of the whole text keeps within its memory.
set_option Elab.async false

namespace Sys2Proof.Machine

/-! ### A message that its flow's peer did not send (R305, R464) -/

/-- Where no entry to NAP is under way, the statement's clause on a foreign message holds (R305). -/
theorem foreignPut_counts (s : State) (m : Msg) (hfor : ForUs s m 0) (hawake : s.u.pow.nap = false)
    (hstays : s.u.pow.napEntering = false) (hother : s.matches_ m.destFlow.toNat m = false) (hopen : s.flowSt m.destFlow.toNat ≠ 0) :
    Completes (.put m) s fun t => t.cnt .transportCount 0 0 = (s.cnt .transportCount 0 0 + 1) % 2 ^ 64 ∧
      t.flow m.destFlow.toNat = s.flow m.destFlow.toNat ∧ SameMem s t ∧ SameEntriesBut [(.transportCount, 0)] s t := by
  obtain ⟨hon, htype, hhere⟩ := hfor
  have hrun : exec (.put m) s = .next ((Act.count .transportCount 0 0).run s) := by
    simp [exec, execPut, Act.msgRow, Act.route, Act.arrive, Act.seqMsg, hon, htype, hhere, hawake, hstays, hother, hopen]
  obtain ⟨hmem, hentries⟩ := Act.touches_count (l := [(.transportCount, 0)]) (k := 0) (by_ := 1) (List.mem_singleton_self _) s
  refine ⟨_, hrun, s.cnt_count (.of_vol _ (by decide) rfl) (by decide), ?_, hmem, hentries⟩
  exact Act.count_keeps_u (g := fun u => tgetD u.flows m.destFlow.toNat {}) s

/-- Flow 0 is OPEN to flow 0 of device 0, and the device is entering NAP. -/
def enteringNap : State :=
  let s := State.reset.withRegs [(.flowState, 0, 2)]
  { s with u := { s.u with pow := { s.u.pow with napEntering := true } } }

/-- A PUT of device 1 on flow 0 of device 0. -/
def foreignPut : Msg := { src := 1 }

theorem foreignPut_meets : enteringNap.colOn = true ∧ enteringNap.hop none foreignPut = .here foreignPut ∧ enteringNap.u.pow.nap = false ∧
    enteringNap.matches_ 0 foreignPut = false ∧ enteringNap.flowSt 0 ≠ 0 := by decide +kernel

/-- It comes for an OPEN flow, so the entry to NAP is abandoned, which counts. -/
theorem foreignPut_abandonsNap : ((Act.msgRow 0 foreignPut).run enteringNap).cnt .stateCount 0 3 = 1 ∧
    enteringNap.cnt .stateCount 0 3 = 0 := by decide +kernel

/-- Refutes O55: its clause on a message that its flow's peer did not send leaves out that a message for an OPEN flow abandons the entry to
NAP (R464). In `enteringNap` it does, and STATE_COUNT counts that, where the statement has only TRANSPORT_COUNT change. Where no entry to
NAP is under way, the clause holds: `foreignPut_counts`. -/
theorem not_sequencedMessagesAreDelivered : ¬ Obligations.SequencedMessagesAreDelivered := by
  unfold Obligations.SequencedMessagesAreDelivered
  intro h
  obtain ⟨hon, hhere, hawake, hother, hopen⟩ := foreignPut_meets
  obtain ⟨hstray, -⟩ := h enteringNap foreignPut
  obtain ⟨t, ht, -, -, -, hentries⟩ := hstray ⟨hon, rfl, hhere⟩ hawake hother hopen
  obtain rfl := Host.Outcome.next.inj ht
  obtain ⟨hafter, hbefore⟩ := foreignPut_abandonsNap
  have hsame := hentries.cnt (n := .stateCount) (i := 0) (by decide) (by decide) 3
  exact absurd ((hafter.symm.trans hsame).trans hbefore) (by decide)

/-! ### An ACK (R310, R313) -/

theorem sendOn_leaves (s : State) (f : Nat) (m : Msg) : SentOn s ((Act.sendOn f m).run s) f m := fun _ _ _ h => Act.route_leaves h

/-- The ACK that a timer sends carries the fault that the flow has to tell; without one it has no data, as the statement says (R310,
R313). -/
theorem ackTimer_tells (s : State) (f : Fin 8192) (hon : s.colOn = true) (hopen : s.flowSt f = 2) (hdue : (s.flow f).ackDue ≠ 0) :
    Completes (.ackTimer f) s fun t => (t.flow f).ackDue = 0 ∧
      SentOn s t f { type := 5, fseq := BitVec.ofNat 32 (s.recvNext f), data := faultData (s.flow f).fault } ∧ SameMem s t := by
  let ack : Msg := { type := 5, fseq := BitVec.ofNat 32 (s.recvNext f), data := faultData (s.flow f).fault }
  let sent := (Act.sendOn f ack).run s
  have hrun : exec (.ackTimer f) s = .next ((Act.flow f fun g => { g with ackDue := 0 }).run sent) := by
    simp [exec, execAckTimer, Act.onOpen, Act.sendAck, Act.run_when, hon, hopen, hdue, sent, ack]
  have hmem (m : MemSel) : sent.store m = s.store m := Act.route_keepsStore m (fun _ => Act.keeps_skip) s
  refine ⟨_, hrun, ?_, sendOn_leaves s f ack, sameMem_of_stores hmem⟩
  simp [Act.flow, State.flow]

/-- Flow 0 is OPEN to device 1, which is reached by port 0; the port is UP and has no credits. A message on the flow met a page that is not
mapped, and its acknowledgement is due. -/
def tellsFault : State :=
  let s := State.reset.withRegs [(.flowCfg, 0, 1 + 2 ^ 32), (.flowState, 0, 2), (.portStatus, 0, 6)]
  { s with u := { s.u with flows := [(0, { fault := some (0, 4, 1, 0), ackDue := 1 })] } }

/-- The ACK of the statement, without data, as it leaves for device 1. -/
def bareAck : Msg := { tellsFault.wire 0 { type := 5, fseq := BitVec.ofNat 32 (tellsFault.recvNext 0) } with route := 0 }

theorem tellsFault_meets : tellsFault.colOn = true ∧ tellsFault.flowSt 0 = 2 ∧ (tellsFault.flow 0).ackDue ≠ 0 ∧
    tellsFault.hop none (tellsFault.wire 0 { type := 5, fseq := BitVec.ofNat 32 (tellsFault.recvNext 0) }) = .out 0 bareAck none := by
  decide +kernel

/-- What waits at port 0 then is the ACK with the fault. -/
theorem tellsFault_sends : let f : Fin 8192 := 0
    let t := (Act.get fun s => .when ((s.flow f).ackDue != 0) (.onOpen f (.sendAck f))).run tellsFault
    (∀ o ∈ (t.port 0).queue, o.m ≠ bareAck) ∧ t.u.outbox = tellsFault.u.outbox := by decide +kernel

/-- Refutes O56: its clause on the ACK timer names an ACK without data. In `tellsFault` the flow has a fault to tell (R313), so the ACK that
leaves carries it, and none without data leaves. What the timer sends in general is `ackTimer_tells`. -/
theorem not_flowsOpenAcknowledgeAndEnd : ¬ Obligations.FlowsOpenAcknowledgeAndEnd := by
  unfold Obligations.FlowsOpenAcknowledgeAndEnd
  intro h
  obtain ⟨hon, hopen, hdue, hhop⟩ := tellsFault_meets
  obtain ⟨-, -, -, -, -, htimers, -⟩ := h tellsFault {} .hostPf
  obtain ⟨-, hack, -⟩ := htimers 0 hon hopen
  obtain ⟨t, ht, -, hsent, -⟩ := hack hdue
  obtain rfl := Host.Outcome.next.inj ht
  obtain ⟨hqueue, hout⟩ := tellsFault_sends
  obtain ⟨o, ho, hm⟩ | ⟨l, f, hl, hf, -⟩ := hsent 0 bareAck none hhop
  · exact hqueue o ho hm
  · have hnil : l = [] := List.self_eq_append_right.1 (hout.symm.trans hl)
    exact List.not_mem_nil (hnil ▸ hf)

end Sys2Proof.Machine
end

section
/-! SUPPORT. A DM_DIGEST where a number that is no context's waits for a slot (R103, R373, R387, R388): as in the statements of O11 to O16,
O18 and O19, the slot of `crowdedState` begins to rotate as the command is dispatched, and the command does not start. The invariant, which
O17 asks for, does not keep such a number out. -/

-- One proof after another, as in the tests, so that the compile of the whole text keeps within its memory.
set_option Elab.async false

namespace Sys2Proof.Machine

/-! ### A DM_DIGEST stands in the crowded state -/

/-- A DM_DIGEST of 16 bytes at 0x100 of its context's addresses, with its key at 0x200 of scratch and its result at 0x300, in a bundle of
its own. -/
def crowdedDigest : Desc :=
  { w0 := 0x89 + 5 * 2 ^ 8 + 2 ^ 18 + 2 ^ 24, w2 := 0x100, w3 := 16, w4 := 0x200 + 0x300 * 2 ^ 32 }

/-- The crowded state in which context 1's addresses lead through a table at 0x30_0000_0000 into host memory at 0x4000_0000, and a key lies
in scratch. -/
def crowdedKey : State :=
  ((((crowdedState crowdedDigest).apply (.mem .stack 0x3000000000 (cleanBytes 8 0x3000001001))).apply
    (.mem .stack 0x3000001000 (cleanBytes 8 0x40000017))).apply (.mem .scratch 0x200 (cleanBytes 16 5))).apply
      (.reg .ptRoot 1 0x3000000000)

/-- Every change keeps the invariant. -/
theorem State.Inv.apply {s : State} (h : s.Inv) (x : Upd) : (s.apply x).Inv := by
  have hstores : s.StoresWf := fun m => by
    cases m
    exacts [h.stack, h.host, h.scratch]
  have hwf := State.apply_storesWf x hstores
  obtain ⟨hrising, hregs⟩ := State.apply_regsOk x ⟨h.rising, h.regs⟩
  exact ⟨hwf .stack, hwf .host, hwf .scratch, hrising, hregs⟩

theorem Store.wf_empty (sel : MemSel) : Store.Wf sel {} := by simp [Store.Wf, Memory.wf]

/-- The stray number stands among the waiting contexts alone: the key of its CTX_STATE is that of COLUMN_OFF_US. -/
theorem crowdedState_inv : (crowdedState crowdedDigest).Inv where
  stack := Store.wf_empty _
  host := Store.wf_empty _
  scratch := Store.wf_empty _
  rising := by decide
  regs := by
    refine List.forall_mem_cons.2 ⟨⟨.ctxAdmin, 1, by decide⟩, List.forall_mem_cons.2 ⟨⟨.ctxState, 1, by decide⟩,
      List.forall_mem_cons.2 ⟨⟨.queueCfg, 5, by decide⟩, List.forall_mem_cons.2 ⟨⟨.queueState, 5, by decide⟩,
        List.forall_mem_cons.2 ⟨⟨.deviceState, 0, by decide⟩, List.forall_mem_singleton.2 ⟨.columnOffUs, 0, by decide⟩⟩⟩⟩⟩⟩

theorem crowdedKey_inv : crowdedKey.Inv := (((crowdedState_inv.apply _).apply _).apply _).apply _

theorem crowdedDigest_comes : Comes crowdedKey 5 0 crowdedDigest := by
  refine ⟨⟨?_, ?_, ?_, ?_, ?_, ?_, ?_, ?_, ?_⟩, ?bytes⟩
  case bytes => unfold State.buffered; decide +kernel
  all_goals decide +kernel

theorem crowdedDigest_lone : Lone crowdedKey 5 0 crowdedDigest := by
  refine ⟨⟨⟨crowdedDigest_comes, ?_, ?_, ?_, ?_⟩, ?_⟩, ?_, ?_, ?_, ?_⟩ <;> decide +kernel

/-- It names no gate. -/
theorem crowdedDigest_supplied : Supplied crowdedKey 5 crowdedDigest 1 where
  wait := by rintro r ⟨⟩
  stream := by rintro r ⟨⟩
  post := by rintro r ⟨⟩

/-- Its bytes lie in host memory and its key is not 0. -/
theorem crowdedDigest_goes : let s := crowdedKey
    let l : List (MemSel × Nat × Nat) := [(.host, 0x40000100, 16)]
    s.tokensOk (s.qCtx 5) l = true ∧ s.qCore 5 < 192 ∧ leNat (dataOf (s.rdScr (s.qCore 5) (dgKey crowdedDigest) 16)) ≠ 0 ∧
      s.span (s.qCtx 5) (dgAddr crowdedDigest) (dgLen crowdedDigest) false = .ok l := by decide +kernel

/-- Dispatch makes DEVICE_STATE read 0, the stray number counts as LC, slot 0 rotates, and the command does not start. -/
theorem crowdedDigest_stands :
    ∀ f ∈ (((Act.desc (isOp 0x89) 5 crowdedDigest).run crowdedKey).stream 5).fly, f.done = false := by decide +kernel

/-- Refutes O17: the statement lets any number wait for a slot of the core. In `crowdedKey`, which meets the invariant, the slot begins to
rotate as DM_DIGEST is dispatched, and the command stands in its engine's queue unstarted, where the statement says that it retires. -/
theorem not_dmDigestWritesTheFoldDigest : ¬ Obligations.DmDigestWritesTheFoldDigest := by
  unfold Obligations.DmDigestWritesTheFoldDigest
  intro h
  obtain ⟨htokens, hcore, hkey, hspan⟩ := crowdedDigest_goes
  obtain ⟨t, ht, -, hretired⟩ := h crowdedKey 5 0 crowdedDigest _ crowdedDigest_lone crowdedDigest_supplied (by decide) htokens crowdedKey_inv
    hcore hkey hspan
  obtain rfl := Host.Outcome.next.inj ht
  exact not_retired crowdedDigest_stands hretired

end Sys2Proof.Machine
end

section
/-! SUPPORT. Molts and repairs whose reads meet poison in host memory (R274, R348, R371, R399, R477, R479): as in the statements on bundles
(O23) and sessions (O60), the read fills the window of link errors, and the event of that is written to function 0's ring. -/

-- One proof after another, as in the tests, so that the compile of the whole text keeps within its memory.
set_option Elab.async false

namespace Sys2Proof.Machine

theorem not_sameMem {s t : State} {m : MemSel} {a n : Nat} (h : t.rdMem m a n ≠ s.rdMem m a n) : ¬ SameMem s t := fun e => h (e m a n)

/-! ### The checks of a plan (R348) -/

/-- The words of the header of a plan of this device alone, which coordinates it: one segment of one shard, whose table lies at `shards`. -/
def soloPlan (shards : Nat) : List Nat := [3 + 2 ^ 22, 5 * 2 ^ 48, 1, 0x2000, shards, 0x3000, 0, 0, 5, 0, 0, 0, 0, 0, 0, 0]

/-- The context, its queue, the window and the event ring of `overrunState`, with the firmware and memory running. The plan lies at 0x8000:
its segment table at 0x2000 has one copy of 64 bytes from 0x4000 to 0x5000, its shard table lies at 0x2400, its peer table at 0x3000. Its
molt is CHECKING; when that started, the header named 0x1000 for the shard table, where host memory is poisoned. -/
def movedTable : State :=
  let s := ((((overrunState.apply (.mem .host 0x40008000 (wordBytes (soloPlan 0x2400)))).apply
    (.mem .host 0x40002000 (wordBytes [77, 0, 0x4000, 0x5000, 0, 0, 64, 0]))).apply
    (.mem .host 0x40002400 (wordBytes [0, 1, 0, 0, 0, 0, 0, 0]))).apply (.mem .host 0x40003000 (cleanBytes 4 0))).withRegs
      [(.moltState, 0, 1)]
  { s with u := { s.u with pow := { s.u.pow with boot := .running, memOn := true }
                           molt := { plan := 0x8000, hdr := soloPlan 0x1000, peers := [0] }, moltCtx := 1 } }

/-- What the checks read of the plan. -/
def soloRead : Molt :=
  { plan := 0x8000, hdr := soloPlan 0x2400, segs := [[77, 0, 0x4000, 0x5000, 0, 0, 64, 0]], shards := [[0, 1, 0, 0, 0, 0, 0, 0]],
    peers := [0] }

/-- The plan is read and passes its checks, its one shard has a segment, and no other device takes part. -/
theorem movedTable_meets : let s := movedTable
    s.saddle = true ∧ s.rd .moltState = 1 ∧ s.readPlan s.u.moltCtx s.u.molt.plan = some soloRead ∧ s.planCheck soloRead = 0 ∧
      (∀ j, j < soloRead.shards.length → soloRead.segsOf j ≠ []) ∧
      (∀ w ∈ s.u.molt.peers, peerAddr w ≠ s.fabric → (s.flow (peerFlow w)).held = []) ∧ s.u.mem.faulty = false := by decide +kernel

/-- The event of the full window has code 4, which its record holds in byte 4 (R479). -/
theorem movedTable_writes : movedTable.rdMem .host 0x50000004 1 = [(0#8, false)] ∧
    (Act.moltChecked.run movedTable).rdMem .host 0x50000004 1 = [(4#8, false)] := by decide +kernel

/-- Refutes O58: its clause on a plan that passes its checks says that memory is left as it is, and asks of memory only that the plan can be
read. In `movedTable` the plan is clean, but the table that the header named when the molt started lies poisoned in host memory: its read
fills the window of link errors, and the event of that is written to function 0's ring. -/
theorem not_moltsRunAndVersionsAreKept : ¬ Obligations.MoltsRunAndVersionsAreKept := by
  unfold Obligations.MoltsRunAndVersionsAreKept
  intro h
  obtain ⟨hsaddle, hchecking, hread, hpass, hsegs, hheld, hsound⟩ := movedTable_meets
  obtain ⟨-, hchecked, -⟩ := h movedTable .hostPf
  obtain ⟨-, hplan⟩ := hchecked hsaddle hchecking
  obtain ⟨t, ht, -, -, -, hmem⟩ := (hplan soloRead hread).2 hpass hsegs hheld hsound
  obtain rfl := Host.Outcome.next.inj ht
  obtain ⟨hbefore, hafter⟩ := movedTable_writes
  exact not_sameMem (by rw [hbefore, hafter]; decide) hmem

/-! ### A replica that is asked for its segment (R371) -/

/-- The one segment of version 9 of model 255: 64 bytes at 0x1000. -/
def poisonedSeg : SegRec := ⟨77, [77, 0, 0, 0x1000, 0, 0, 64, 0], 0⟩
def poisonedShard : ShardRec := ⟨8, 0, 5, [poisonedSeg]⟩
def poisonedVersion : VerRec := ⟨255, 9, 1, [poisonedShard]⟩

/-- The version is resident in the context of `overrunState`, so that the first byte of its segment lies poisoned in host memory. Flow 41 of
that context, of the bulk class, is OPEN to flow 9 of device 7, whose GEN is 1. -/
def poisonedReplica : State :=
  let s := overrunState.withRegs
    [(.flowCfg, 41, 1 + 4 * 2 + 2 ^ 8 + 7 * 2 ^ 32 + 9 * 2 ^ 48), (.flowState, 41, 2 + 2 ^ 24)]
  { s with u := { s.u with vers := [poisonedVersion] } }

/-- Device 7 asks on that flow for the segment. -/
def replicaAsked : Msg :=
  { type := 10, src := 7, srcFlow := 9, destFlow := 41, gen := 1, aux := BitVec.ofNat 64 (8 + 0xFFFF * 2 ^ 8 + 77 * 2 ^ 24),
    data := cleanBytes 2 255 ++ cleanBytes 2 9 }

theorem replicaAsked_inTurn : InTurn poisonedReplica replicaAsked 10 where
  on := by decide +kernel
  type := rfl
  here := by decide +kernel
  isOpen := by decide +kernel
  peer := by decide +kernel
  gen := by decide +kernel
  awake := by decide +kernel
  sound := by decide +kernel
  next := by decide +kernel
  held := by decide +kernel
  applied := by decide +kernel
  movers := by unfold NoDmWork; decide +kernel
  credit := fun h => absurd h (by decide)

/-- It is a request for a repair, and the segment is resident in the flow's context, whose partition has tokens for it. -/
theorem replicaAsked_meets : let s := poisonedReplica
    let m := replicaAsked
    let ls : List (MemSel × Nat × Nat) := [(.host, 0x40001000, 64)]
    bits m.aux.toNat 0 4 = 8 ∧ bits m.aux.toNat 8 16 = 0xFFFF ∧
      s.segRec (leNat (dataOf (m.data.take 2))) (leNat (dataOf ((m.data.drop 2).take 2))) (bits m.aux.toNat 24 32) =
        some (poisonedVersion, poisonedShard, poisonedSeg) ∧
      poisonedVersion.ctx = s.flowCtx m.destFlow.toNat ∧ s.segResident poisonedVersion poisonedSeg = .ok ls ∧ ls ≠ [] ∧
      s.memGoes (s.flowCtx m.destFlow.toNat) ls = true := by decide +kernel

theorem replicaAsked_writes : poisonedReplica.rdMem .host 0x50000004 1 = [(0#8, false)] ∧
    ((Act.moltRow 8 replicaAsked).run poisonedReplica).rdMem .host 0x50000004 1 = [(4#8, false)] := by decide +kernel

/-- Refutes O59: its clause on a repair request says that memory is left as it is, and asks of the segment only that it is resident. In
`poisonedReplica` the read of the poisoned segment has the event of a full window of link errors written to function 0's ring. -/
theorem not_moltMessagesAct : ¬ Obligations.MoltMessagesAct := by
  unfold Obligations.MoltMessagesAct
  intro h
  obtain ⟨hkind, hrepair, hrec, hctx, hresident, hne, hgoes⟩ := replicaAsked_meets
  obtain ⟨-, -, -, -, -, -, -, hserve⟩ := h poisonedReplica replicaAsked
  obtain ⟨-, hstream⟩ := hserve replicaAsked_inTurn hkind hrepair
  obtain ⟨t, ht, -, hmem, -⟩ := hstream _ _ _ _ hrec hctx hresident hne hgoes
  obtain rfl := Host.Outcome.next.inj ht
  obtain ⟨hbefore, hafter⟩ := replicaAsked_writes
  exact not_sameMem (by rw [hbefore, hafter]; decide) hmem

end Sys2Proof.Machine
end
section
/-! SUPPORT. A molt whose flow to the coordinator fails, and one whose coordinator waits in vain (R310, R312, R360, R362): what writing a
report, sending and a molt's end leave of the flows and of the molt. -/

-- One proof after another, as in the tests, so that the compile of the whole text keeps within its memory.
set_option Elab.async false

namespace Sys2Proof.Machine

/-! ### Views that sending and events leave -/

/-- Entries that an access to memory, a message on its way, an event or a change of the phase may change. -/
def sideEntries : List EName := [.errwinState, .evtWidx, .hostCount, .memErrors, .recoveryEpoch, .phase, .phaseChanges, .transportCount,
  .portStatus, .colVcExhaust, .engineQueueExhaust, .coreGateExhaust, .memqExhaust, .moltCount, .versionEntry]

/-- Both units have the same flows, the same molt, and the same work for the engines; entries read alike on both. -/
structure Units.SameWork (u v : Units) : Prop where
  pow : v.pow = u.pow
  flows : v.flows = u.flows
  molt : v.molt = u.molt
  moltCtx : v.moltCtx = u.moltCtx
  engQ : v.core.engQ = u.core.engQ

/-- The view looks at entries, flows, the molt and the engines' work alone, and at no side entry. -/
structure Aside {α : Type} (f : State → α) : Prop where
  reg : ∀ {n : EName} {i v : Nat}, n ∈ sideEntries → (Act.reg n i v).Keeps f
  mem : ∀ {m : MemSel} {a : Nat} {bs : PBytes}, (Act.mem m a bs).Keeps f
  units : ∀ {g : Units → Units}, (∀ u, Units.SameWork u (g u)) → (Act.units g).Keeps f

theorem Aside.rd {n : EName} {i : Nat} (hn : n ∉ sideEntries) (hi : i < n.count) : Aside fun s => s.rd n i where
  reg hk s := (Act.touches_reg (List.mem_singleton_self _)).rd hi (by
    simp only [List.mem_singleton, Prod.mk.injEq]; rintro ⟨rfl, -⟩; exact hn hk) s
  mem s := State.rd_congr (by simp) (by simp) n i
  units h s := s.rd_units _ (h s.u).pow n i

theorem Aside.ofUnits {α : Type} {g : Units → α} (h : ∀ u v, Units.SameWork u v → g v = g u) : Aside fun s => g s.u where
  reg _ := Act.reg_keeps_u
  mem := Act.mem_keeps_u
  units hg s := h _ _ (hg s.u)

theorem Aside.map {α β : Type} {f : State → α} (h : Aside f) (g : α → β) : Aside fun s => g (f s) where
  reg hn s := congrArg g (h.reg hn s)
  mem s := congrArg g (h.mem s)
  units hg s := congrArg g (h.units hg s)

section
variable {α : Type} {f : State → α} (h : Aside f)
include h

theorem Aside.fld {n : EName} {i off lo len v : Nat} (hn : n ∈ sideEntries) : (Act.fld n i off lo len v).Keeps f :=
  Act.keeps_get fun _ => h.reg hn

theorem Aside.countFld {n : EName} {i off lo len v : Nat} (hn : n ∈ sideEntries) : (Act.countFld n i off lo len v).Keeps f :=
  Act.keeps_get fun _ => h.fld hn

theorem Aside.count {n : EName} {i k v : Nat} (hn : n ∈ sideEntries) : (Act.count n i k v).Keeps f := h.countFld hn

theorem Aside.trace (code engine ctx data0 data1 : Nat) : (Act.trace code engine ctx data0 data1).Keeps f :=
  h.units fun u => by dsimp only; split <;> exact ⟨rfl, rfl, rfl, rfl, rfl⟩

theorem Aside.errEvent (src detail : Nat) : (Act.errEvent src detail).Keeps f :=
  Act.errEvent_keeps (fun _ _ _ hn => h.reg (by obtain rfl | rfl | rfl := hn <;> decide)) (fun _ _ => h.mem)
    (fun s svc host o => h.units (g := fun u => { u with svc := svc, host := host, outbox := o }) (fun _ => ⟨rfl, rfl, rfl, rfl, rfl⟩) s) _ _

/-! Reads of bursts, and writes in a context's address space (R269 to R275, R288). -/

theorem Aside.burstBack (g : Nat) : (Act.burstBack g).Keeps f :=
  Act.keeps_get fun _ => Act.keeps_seq (h.units fun _ => ⟨rfl, rfl, rfl, rfl, rfl⟩) h.mem

theorem Aside.raiseSrc (src : Nat) : (Act.raiseSrc src).Keeps f := h.units fun _ => ⟨rfl, rfl, rfl, rfl, rfl⟩

theorem Aside.burstCorrected (patrol : Bool) (g : Nat) (l : List Nat) : (Act.burstCorrected patrol g l).Keeps f :=
  Act.keeps_get fun _ => Act.keeps_seq (h.burstBack g) <| Act.keeps_seq (Act.keeps_when fun _ => h.count (by decide)) <| Act.keeps_seq
    (Act.keeps_when fun _ => Act.keeps_seq (h.raiseSrc _) <| Act.keeps_seq (h.raiseSrc _) <| Act.keeps_seq (h.count (by decide)) <|
      Act.keeps_seq (Act.keeps_when fun _ => h.count (by decide)) <| Act.keeps_seq (h.fld (by decide)) <|
      Act.keeps_seq (h.errEvent _ _) Act.keeps_skip) Act.keeps_skip

theorem Aside.burstLost (g : Nat) : (Act.burstLost g).Keeps f :=
  Act.keeps_get fun _ => Act.keeps_seq (h.burstBack g) <| Act.keeps_seq (h.raiseSrc _) <| Act.keeps_seq (h.raiseSrc _) <|
    Act.keeps_seq (h.count (by decide)) <| Act.keeps_seq (h.fld (by decide)) <| Act.keeps_seq (h.errEvent _ _) <|
    Act.keeps_seq (h.trace _ _ _ _ _) Act.keeps_skip

theorem Aside.burstRead (patrol : Bool) (g : Nat) : (Act.burstRead patrol g).Keeps f := Act.keeps_get fun _ =>
  Act.keeps_ite (fun _ => Act.keeps_skip) fun _ => by
    split
    · exact Act.keeps_skip
    · exact h.burstCorrected _ _ _
    · exact Act.keeps_seq (Act.keeps_when fun _ => h.count (by decide)) (Act.keeps_when fun _ => h.burstCorrected _ _ _)
    · exact h.burstLost g

theorem Aside.noteWalks (ctx dva n : Nat) : (Act.noteWalks ctx dva n).Keeps f := Act.keeps_get fun _ => Act.keeps_when fun _ =>
  Act.keeps_each fun _ _ => Act.keeps_get fun _ => Act.keeps_each fun _ _ => h.burstRead _ _

theorem Aside.wrStack (a : Nat) (bs : PBytes) : (Act.wrStack a bs).Keeps f := Act.keeps_get fun _ =>
  Act.keeps_seq (Act.keeps_get fun _ => Act.keeps_when fun _ => Act.keeps_each fun _ _ =>
    Act.keeps_ite (fun _ => h.units fun _ => ⟨rfl, rfl, rfl, rfl, rfl⟩) fun _ => h.burstRead _ _) <|
  Act.keeps_seq (Act.keeps_ite (fun _ => h.mem) fun _ => Act.keeps_each fun _ _ => h.mem) <|
  Act.keeps_seq (Act.keeps_when fun _ => Act.keeps_each fun _ _ => h.count (by decide)) Act.keeps_skip

theorem Aside.wrSpan (l : List (MemSel × Nat × Nat)) (bs : PBytes) : (Act.wrSpan l bs).Keeps f := by
  induction l generalizing bs with
  | nil => exact Act.keeps_skip
  | cons p r ih =>
    refine Act.keeps_seq ?_ (ih _)
    obtain ⟨m, a, n⟩ := p
    cases m
    · exact h.wrStack _ _
    · exact h.mem
    · exact h.mem

theorem Aside.wrCtx (ctx dva : Nat) (bs : PBytes) : (Act.wrCtx ctx dva bs fun _ => .skip).Keeps f :=
  Act.keeps_get fun _ => Act.keeps_seq (h.noteWalks _ _ _) <| by
    split
    · exact Act.keeps_skip
    · exact Act.keeps_seq (h.wrSpan _ _) <| Act.keeps_seq (Act.keeps_when fun _ => Act.keeps_get fun _ => h.count (by decide)) <|
        Act.keeps_seq Act.keeps_skip Act.keeps_skip

/-! A message that leaves (R31, R298, R300). -/

theorem Aside.stallEnd (x : Nat) : (Act.stallEnd x).Keeps f := Act.keeps_get fun s => by
  split
  · exact Act.keeps_skip
  · refine Act.keeps_seq (h.units fun _ => ⟨rfl, rfl, rfl, rfl, rfl⟩) (h.count ?_)
    simp only [State.stallPlace]
    split_ifs <;> simp [sideEntries]

theorem Aside.pump (p n : Nat) : (Act.pump p n).Keeps f := Act.pump_keeps
  (fun s o ports stalls => h.units (g := fun u => { u with outbox := o, ports := ports, stalls := stalls })
    (fun _ => ⟨rfl, rfl, rfl, rfl, rfl⟩) s)
  (h.count (by decide)) (fun _ _ => h.stallEnd _) n

theorem Aside.sendMsg (vc : Nat) (m : Msg) : (Act.sendMsg vc m).Keeps f := Act.keeps_get fun _ => Act.keeps_get fun _ => by
  split
  · exact Act.keeps_skip
  · exact h.count (by decide)
  · refine Act.keeps_seq ?_ <| Act.keeps_seq (h.units fun _ => ⟨rfl, rfl, rfl, rfl, rfl⟩) <| Act.keeps_seq (h.pump _ _) Act.keeps_skip
    split
    · exact h.count (by decide)
    · exact Act.keeps_skip

theorem Aside.sendOn (g : Nat) (m : Msg) : (Act.sendOn g m).Keeps f := Act.keeps_get fun _ => h.sendMsg _ _

/-! The phase, and FENCEs that retire (R33, R119, R395). -/

theorem Aside.epochUp : Act.epochUp.Keeps f := h.countFld (by decide)

theorem Aside.phase : Act.phase.Keeps f := Act.keeps_get fun _ => Act.keeps_ite (fun _ => Act.keeps_skip) fun _ =>
  Act.keeps_seq (h.reg (by decide)) <| Act.keeps_seq (h.countFld (by decide)) <| Act.keeps_seq (h.trace _ _ _ _ _) <|
  Act.keeps_seq (h.units fun _ => ⟨rfl, rfl, rfl, rfl, rfl⟩) Act.keeps_skip

theorem Aside.fences : Act.fences.Keeps f := Act.keeps_get fun s => by
  induction s.openFences.length with
  | zero => exact Act.keeps_skip
  | succ n ih =>
    refine Act.keeps_get fun _ => ?_
    split
    · exact Act.keeps_seq (Act.keeps_get fun _ => h.units fun _ => ⟨rfl, rfl, rfl, rfl, rfl⟩) ih
    · exact Act.keeps_skip

end

/-! ### What a report's first word says (R365) -/

theorem leNat_append (l r : List Byte) : leNat (l ++ r) = leNat l + 2 ^ (8 * l.length) * leNat r := by
  induction l with
  | nil => simp [leNat]
  | cons b l ih =>
    have hpow : 2 ^ (8 * (b :: l).length) = 256 * 2 ^ (8 * l.length) := by
      rw [List.length_cons, Nat.mul_succ, Nat.pow_add]; omega
    simp only [List.cons_append, leNat, ih, hpow, Nat.mul_add, Nat.mul_assoc, Nat.add_assoc]

/-- The first 64 bits of the words in memory order are the first word's. -/
theorem bits_words {w : Nat} {ws : List Nat} {lo len : Nat} (h : lo + len ≤ 64) :
    bits (leNat ((w :: ws).flatMap (leBytes 8))) lo len = bits w lo len := by
  have hword : leNat ((w :: ws).flatMap (leBytes 8)) % 2 ^ 64 = w % 2 ^ 64 := by
    rw [List.flatMap_cons, leNat_append, leNat_leBytes, leBytes_length]; omega
  rw [← bits_mod h, hword, bits_mod h]

theorem Molt.id_lt (x : Molt) : x.id < 2 ^ 16 := bits_lt _ _ _

/-! ### A molt's end (R342, R344) -/

/-- The molt has ended: its report is shown, and MOLT_STATE is still to change. -/
def Act.moltReported (report : List Nat) : Act :=
  .get fun s => .seq (.wrCtx s.u.moltCtx (wf s.u.molt.hdr 0x30 0 48) (wordBytes report) fun _ => .skip)
    (.reg .moltReport 0 (leNat (report.flatMap (leBytes 8))))

/-- What goes with the molt of `s`, after MOLT_STATE has changed: counts, the hold on its version, the phase and FENCEs. -/
def Act.moltGone (s : State) (st r0 : Nat) : Act :=
  .seq (.get fun x => .trace 5 0 0 (x.u.molt.id + st * 2 ^ 16) r0) (.all [.count .moltCount 0 (if st = 5 then 0 else 1),
    .when (s.rd .moltState == 2) (match s.u.molt.waitSince with
      | some t => .count .moltCount 0 6 (s.now - t)
      | none => .skip),
    .when (s.u.molt.model < 256) (.fld .versionEntry s.u.molt.model 0 49 1 0), .molt fun _ => {}, .phase, .fences])

theorem moltOver_run (s : State) (st : Nat) (report : List Nat) : (Act.moltOver st report).run s =
    (Act.moltGone s st (report.getD 0 0)).run ((Act.reg .moltState 0 st).run ((Act.moltReported report).run s)) := by
  simp only [Act.moltOver, Act.moltGone, Act.moltReported, Act.moltState, Act.run_get, Act.run_seq, Act.run_all_cons] <;> rfl

section
variable {α : Type} {f : State → α}

theorem Aside.moltReported (h : Aside f) (hreport : ∀ v, (Act.reg .moltReport 0 v).Keeps f) (report : List Nat) :
    (Act.moltReported report).Keeps f := Act.keeps_get fun _ => Act.keeps_seq (h.wrCtx _ _ _) (hreport _)

theorem Aside.moltGone (h : Aside f) (hmolt : ∀ g, (Act.molt g).Keeps f) (s : State) (st r0 : Nat) : (Act.moltGone s st r0).Keeps f := by
  have hwait : (Act.when (s.rd .moltState == 2) (match s.u.molt.waitSince with
      | some t => .count .moltCount 0 6 (s.now - t)
      | none => .skip)).Keeps f := Act.keeps_when fun _ => by
    split
    · exact h.count (by decide)
    · exact Act.keeps_skip
  exact Act.keeps_seq (Act.keeps_get fun _ => h.trace _ _ _ _ _) <| Act.keeps_seq (h.count (by decide)) <| Act.keeps_seq hwait <|
    Act.keeps_seq (Act.keeps_when fun _ => h.fld (by decide)) <| Act.keeps_seq (hmolt _) <| Act.keeps_seq h.phase <|
    Act.keeps_seq h.fences Act.keeps_skip

/-- A view that looks neither at the molt nor at its state and report sees nothing of its end. -/
theorem Aside.moltOver (h : Aside f) (hmolt : ∀ g, (Act.molt g).Keeps f) (hreport : ∀ v, (Act.reg .moltReport 0 v).Keeps f)
    (hstate : ∀ v, (Act.reg .moltState 0 v).Keeps f) (st : Nat) (report : List Nat) : (Act.moltOver st report).Keeps f := fun s => by
  rw [moltOver_run, h.moltGone hmolt, hstate, h.moltReported hreport]

end

theorem Act.molt_keepsRd {n : EName} {i : Nat} (g : Molt → Molt) : (Act.molt g).Keeps fun s => s.rd n i :=
  fun s => s.rd_units (fun u => { u with molt := g u.molt }) rfl n i

theorem moltOver_flows (st : Nat) (report : List Nat) : (Act.moltOver st report).Keeps fun s => s.u.flows :=
  (Aside.ofUnits fun _ _ h => h.flows).moltOver (fun _ _ => rfl) (fun _ => Act.reg_keeps_u (g := Units.flows))
    (fun _ => Act.reg_keeps_u (g := Units.flows)) st report

theorem moltOver_engQ (st : Nat) (report : List Nat) : (Act.moltOver st report).Keeps fun s => s.u.core.engQ :=
  (Aside.ofUnits fun _ _ h => h.engQ).moltOver (fun _ _ => rfl) (fun _ => Act.reg_keeps_u (g := fun u => u.core.engQ))
    (fun _ => Act.reg_keeps_u (g := fun u => u.core.engQ)) st report

/-- A molt that is over has taken the state, and its report is shown. -/
theorem moltOver_ends (s : State) (st : Nat) (report : List Nat) : let t := (Act.moltOver st report).run s
    t.rd .moltState = EName.moltState.fit st ∧ t.rd .moltReport = EName.moltReport.fit (leNat (report.flatMap (leBytes 8))) := by
  intro t
  have hgone {n : EName} (hn : n ∉ sideEntries) (hi : 0 < n.count) (x : State) :
      ((Act.moltGone s st (report.getD 0 0)).run x).rd n = x.rd n := (Aside.rd hn hi).moltGone Act.molt_keepsRd _ _ _ x
  simp only [t, moltOver_run]
  rw [hgone (by decide) (by decide), hgone (by decide) (by decide)]
  refine ⟨State.rd_reg _ _ (.of_vol _ (by decide) rfl), (State.rd_reg_other _ _ (by decide) (by decide) (by decide)).trans ?_⟩
  exact State.rd_reg _ _ (.of_vol _ (by decide) rfl)

/-- The molt has ended in a state, with an outcome and a cause in its report. -/
structure MoltEnded (s : State) (st outcome cause : Nat) : Prop where
  state : s.rd .moltState = st
  outcome : s.fld .moltReport 0 0 16 4 = outcome
  cause : s.fld .moltReport 0 0 24 8 = cause

theorem MoltEnded.of_rd {s t : State} {st outcome cause : Nat} (h : MoltEnded s st outcome cause) (hstate : t.rd .moltState = s.rd .moltState)
    (hreport : t.rd .moltReport = s.rd .moltReport) : MoltEnded t st outcome cause :=
  ⟨hstate.trans h.state, (congrArg (bits · _ _) hreport).trans h.outcome, (congrArg (bits · _ _) hreport).trans h.cause⟩

theorem moltOver_reports (s : State) {st w : Nat} {ws : List Nat} (hst : st < 256) :
    MoltEnded ((Act.moltOver st (w :: ws)).run s) st (bits w 16 4) (bits w 24 8) := by
  obtain ⟨hstate, hreport⟩ := moltOver_ends s st (w :: ws)
  have hfield {lo len : Nat} (h : lo + len ≤ 64) : ((Act.moltOver st (w :: ws)).run s).fld .moltReport 0 0 lo len = bits w lo len := by
    rw [State.fld, hreport, EName.fit, bits_mod (by simp [EName.info]; omega), bits_words (by omega), Nat.mul_zero, Nat.zero_add]
  exact ⟨hstate.trans (Nat.mod_eq_of_lt hst), hfield (by decide), hfield (by decide)⟩

/-- Outcome and cause of a report. -/
theorem State.moltWords_says (s : State) {outcome cause : Nat} (ho : outcome < 2 ^ 4) (hc : cause < 2 ^ 8)
    (last shard seg detail expected received : Nat) : ∃ w r, s.moltWords outcome 0 cause last shard seg detail expected received = w :: r ∧
      bits w 16 4 = outcome ∧ bits w 24 8 = cause := by
  have hid := s.u.molt.id_lt
  refine ⟨_, _, rfl, ?_, ?_⟩ <;> simp only [bits, Nat.shiftRight_eq_div_pow] <;> omega

/-! ### A flow that fails (R312, R362) -/

/-- A flow's own end: FAILED with its cause, nothing held, and the epoch risen. -/
def Act.flowEnd (f cause : Nat) : Act := .all [.flowState f 3 cause, .fld .flowState f 0x10 32 9 0, .flow f Flow.dropped, .epochUp]

/-- It comes to a flow that is OPENING or OPEN. -/
def Act.flowGone (f cause : Nat) : Act := .get fun s => .when (s.flowSt f == 1 || s.flowSt f == 2) (.flowEnd f cause)

theorem flowDied_run {s : State} {f : Nat} (cause : Nat) (hopen : s.flowSt f = 1 ∨ s.flowSt f = 2) :
    (Act.flowDied f cause).run s = (Act.wakeFlow f).run ((Act.moltFlow f).run ((Act.flowEnd f cause).run s)) := by
  have : (s.flowSt f == 1 || s.flowSt f == 2) = true := by simpa using hopen
  simp [Act.flowDied, Act.flowFail, Act.flowEnd, this]

theorem NoDmWork.of_engQ {s t : State} (h : NoDmWork s) (ht : t.u.core.engQ = s.u.core.engQ) : NoDmWork t := by
  rwa [NoDmWork, ht]

/-- No data mover looks on where none holds a command. -/
theorem wakeFlow_idle {s : State} (h : NoDmWork s) (f : Nat) : (Act.wakeFlow f).run s = s := by
  rw [Act.wakeFlow, Act.run_get, List.filter_eq_nil_iff.2, Act.run_each_nil]
  intro p hp hwaits
  simp only [Bool.and_eq_true, Bool.or_eq_true, beq_iff_eq] at hwaits
  obtain ⟨hmover, hfront⟩ := hwaits
  rw [h p hp hmover] at hfront
  exact Bool.noConfusion hfront

theorem Act.flow_keepsRd {n : EName} {i j : Nat} (g : Flow → Flow) : (Act.flow j g).Keeps fun s => s.rd n i :=
  fun s => s.rd_units (fun u => { u with flows := tmod u.flows j {} g }) rfl n i

section
variable {α : Type} {f : State → α} {j : Nat}

theorem Aside.flowEnd (h : Aside f) (hflow : ∀ g, (Act.flow j g).Keeps f) (hstate : ∀ v, (Act.reg .flowState j v).Keeps f) (cause : Nat) :
    (Act.flowEnd j cause).Keeps f := by
  have hfld {off lo len v : Nat} : (Act.fld .flowState j off lo len v).Keeps f := Act.keeps_get fun _ => hstate _
  exact Act.keeps_seq (Act.keeps_seq hfld <| Act.keeps_seq hfld <| Act.keeps_seq (Act.keeps_get fun _ => h.trace _ _ _ _ _) Act.keeps_skip) <|
    Act.keeps_seq hfld <| Act.keeps_seq (hflow _) <| Act.keeps_seq h.epochUp Act.keeps_skip

theorem Aside.flowGone (h : Aside f) (hflow : ∀ g, (Act.flow j g).Keeps f) (hstate : ∀ v, (Act.reg .flowState j v).Keeps f) (cause : Nat) :
    (Act.flowGone j cause).Keeps f := Act.keeps_get fun _ => Act.keeps_when fun _ => h.flowEnd hflow hstate cause

end

/-- A failed flow reads FAILED. -/
theorem flowEnd_failed (s : State) {f : Nat} (cause : Nat) (hf : f < 8192) : ((Act.flowEnd f cause).run s).flowSt f = 3 := by
  have hset (x : State) : Settable x .flowState f := .of_vol x hf rfl
  have htail : Aside fun s => s.rd .flowState f := .rd (by decide) hf
  have hst {x y : State} (h : y.rd .flowState f = x.rd .flowState f) : y.flowSt f = x.flowSt f := congrArg (bits · 0 2) h
  simp only [Act.flowEnd, Act.flowState, Act.run_all_cons, Act.run_all_nil, Act.run_get]
  rw [hst (htail.epochUp _), hst (Act.flow_keepsRd _ _), State.flowSt, State.fld_fld_apart _ _ (hset _) (by decide) (by decide)]
  refine (hst (htail.trace _ _ _ _ _ _)).trans ?_
  rw [State.flowSt, State.fld_fld_apart _ _ (hset _) (by decide) (by decide), State.fld_fld _ _ (hset _) (by decide)]
  rfl

theorem Aside.engQ : Aside fun s => s.u.core.engQ := .ofUnits fun _ _ h => h.engQ
theorem Aside.planned : Aside fun s => s.u.molt := .ofUnits fun _ _ h => h.molt

theorem Act.reg_keepsOther {n k : EName} {i j v : Nat} (hj : j < k.count) (h : (k, j) ≠ (n, i)) :
    (Act.reg n i v).Keeps fun s => s.rd k j :=
  (Act.touches_reg (List.mem_singleton_self _)).rd hj (by simpa using h)

/-- Another flow's failure leaves an entry that is not that flow's. -/
theorem flowGone_rd {n : EName} {i j : Nat} (hn : n ∉ sideEntries) (hi : i < n.count) (h : (n, i) ≠ (.flowState, j)) (cause : Nat) :
    (Act.flowGone j cause).Keeps fun s => s.rd n i :=
  (Aside.rd hn hi).flowGone Act.flow_keepsRd (fun _ => Act.reg_keepsOther hi h) cause

theorem flowGone_engQ (j cause : Nat) : (Act.flowGone j cause).Keeps fun s => s.u.core.engQ :=
  Aside.engQ.flowGone (fun _ _ => rfl) (fun _ => Act.reg_keeps_u (g := fun u => u.core.engQ)) cause

theorem flowGone_molt (j cause : Nat) : (Act.flowGone j cause).Keeps fun s => s.u.molt :=
  Aside.planned.flowGone (fun _ _ => rfl) (fun _ => Act.reg_keeps_u (g := Units.molt)) cause

/-- A flow that leads no running molt to its coordinator ends alone. -/
theorem flowDied_alone {s : State} {f : Nat} (cause : Nat) (hwork : NoDmWork s)
    (hmolt : s.moltRuns = false ∨ s.u.molt.flowTo s.u.molt.coord ≠ some f) : (Act.flowDied f cause).run s = (Act.flowGone f cause).run s := by
  by_cases hopen : s.flowSt f = 1 ∨ s.flowSt f = 2
  · have hgone : (Act.flowGone f cause).run s = (Act.flowEnd f cause).run s := by
      have : (s.flowSt f == 1 || s.flowSt f == 2) = true := by simpa using hopen
      simp [Act.flowGone, this]
    have hidle : (Act.moltFlow f).run ((Act.flowGone f cause).run s) = (Act.flowGone f cause).run s := by
      have hruns : ((Act.flowGone f cause).run s).moltRuns = s.moltRuns := by
        have : ((Act.flowGone f cause).run s).rd .moltState = s.rd .moltState :=
          flowGone_rd (j := f) (by decide) (by decide) (by simp) cause s
        rw [State.moltRuns, this, State.moltRuns]
      have hmolt' : ((Act.flowGone f cause).run s).u.molt = s.u.molt := flowGone_molt f cause s
      rw [Act.moltFlow, Act.run_get, Act.run_when, if_neg]
      rw [hruns, hmolt']
      obtain h | h := hmolt <;> simp [h]
    have hwork' : NoDmWork ((Act.flowGone f cause).run s) := hwork.of_engQ (flowGone_engQ f cause s)
    rw [flowDied_run cause hopen, ← hgone, hidle, wakeFlow_idle hwork']
  · have : (s.flowSt f == 1 || s.flowSt f == 2) = false := by simpa using hopen
    simp [Act.flowDied, Act.flowFail, Act.flowGone, this]

/-! ### The flow to the coordinator -/

/-- This device is RUNNING a molt, and the flow to its coordinator may fail. -/
structure FlowToCoord (s : State) (f : Nat) : Prop where
  runs : s.rd .moltState = 2
  led : s.moltCoord = false
  idle : NoDmWork s
  flow : s.u.molt.flowTo s.u.molt.coord = some f
  isOpen : s.flowSt f = 1 ∨ s.flowSt f = 2

/-- The flow has failed, and the molt has ended FAILED with cause FLOW. -/
structure LostToCoord (s : State) (f : Nat) : Prop where
  failed : s.flowSt f = 3
  ended : MoltEnded s 6 1 causeFlow
  idle : NoDmWork s

theorem FlowToCoord.of_views {s t : State} {f : Nat} (h : FlowToCoord s f) (hstate : t.rd .moltState = s.rd .moltState)
    (hmolt : t.u.molt = s.u.molt) (hfabric : t.rd .fabricAddr = s.rd .fabricAddr) (hwork : t.u.core.engQ = s.u.core.engQ)
    (hflow : t.rd .flowState f = s.rd .flowState f) : FlowToCoord t f where
  runs := hstate.trans h.runs
  led := by rw [State.moltCoord, State.fabric, hmolt, hfabric]; exact h.led
  idle := h.idle.of_engQ hwork
  flow := hmolt ▸ h.flow
  isOpen := by rw [State.flowSt, State.fld, hflow]; exact h.isOpen

theorem LostToCoord.of_views {s t : State} {f : Nat} (h : LostToCoord s f) (hstate : t.rd .moltState = s.rd .moltState)
    (hreport : t.rd .moltReport = s.rd .moltReport) (hwork : t.u.core.engQ = s.u.core.engQ)
    (hflow : t.rd .flowState f = s.rd .flowState f) : LostToCoord t f where
  failed := (congrArg (bits · 0 2) hflow).trans h.failed
  ended := h.ended.of_rd hstate hreport
  idle := h.idle.of_engQ hwork

section
variable {s : State} {f j cause : Nat}

/-- Another flow's failure leaves the molt RUNNING. -/
theorem FlowToCoord.flowDied_other (h : FlowToCoord s f) (hf : f < 8192) (hne : j ≠ f) : FlowToCoord ((Act.flowDied j cause).run s) f := by
  have hnot : s.u.molt.flowTo s.u.molt.coord ≠ some j := by rw [h.flow]; simpa using hne.symm
  rw [flowDied_alone cause h.idle (.inr hnot)]
  exact h.of_views (flowGone_rd (by decide) (by decide) (by simp) cause s) (flowGone_molt j cause s)
    (flowGone_rd (by decide) (by decide) (by simp) cause s) (flowGone_engQ j cause s)
    (flowGone_rd (by decide) hf (by simpa using hne.symm) cause s)

/-- FAIL does not go out on the flow that has failed; the molt ends FAILED with cause FLOW (R362). -/
theorem moltFlow_run (hruns : s.rd .moltState = 2) (hled : s.moltCoord = false) (hflow : s.u.molt.flowTo s.u.molt.coord = some f)
    (hfailed : s.flowSt f = 3) : (Act.moltFlow f).run s = (Act.moltOver 6 (s.moltWords 1 0 causeFlow 0 0 0 0 0 0)).run s := by
  have hmolt : s.moltRuns = true := by simp [State.moltRuns, hruns]
  have hsend (seg : Nat) (data : PBytes) : (Act.moltSend s.u.molt.coord 7 0 seg data).run s = s := by
    simp [Act.moltSend, hflow, hfailed]
  simp [Act.moltFlow, Act.moltFail, hmolt, hled, hflow, hruns, hsend]

/-- The failure of the flow itself ends the molt. -/
theorem FlowToCoord.flowDied (h : FlowToCoord s f) (hf : f < 8192) : LostToCoord ((Act.flowDied f cause).run s) f := by
  obtain ⟨x, hx⟩ : ∃ x, x = (Act.flowEnd f cause).run s := ⟨_, rfl⟩
  have hentry {n : EName} (hn : n ∉ sideEntries) (hi : 0 < n.count) (hk : n ≠ .flowState) : x.rd n = s.rd n := by
    rw [hx]
    exact (Aside.rd hn hi).flowEnd Act.flow_keepsRd (fun _ => Act.reg_keepsOther hi (by simp [hk])) cause s
  have hmolt : x.u.molt = s.u.molt := by
    rw [hx]
    exact Aside.planned.flowEnd (fun _ _ => rfl) (fun _ => Act.reg_keeps_u (g := Units.molt)) cause s
  have hengQ : x.u.core.engQ = s.u.core.engQ := by
    rw [hx]
    exact Aside.engQ.flowEnd (fun _ _ => rfl) (fun _ => Act.reg_keeps_u (g := fun u => u.core.engQ)) cause s
  have hled : x.moltCoord = false := by
    rw [State.moltCoord, State.fabric, hmolt, hentry (by decide) (by decide) (by decide)]; exact h.led
  have hfailed : x.flowSt f = 3 := hx ▸ flowEnd_failed s cause hf
  obtain ⟨w, ws, hwords, houtcome, hcause⟩ := x.moltWords_says (outcome := 1) (cause := causeFlow) (by decide) (by decide) 0 0 0 0 0 0
  have hover : (Act.moltFlow f).run x = (Act.moltOver 6 (w :: ws)).run x :=
    hwords ▸ moltFlow_run ((hentry (by decide) (by decide) (by decide)).trans h.runs) hled (hmolt ▸ h.flow) hfailed
  have hidle : NoDmWork ((Act.moltOver 6 (w :: ws)).run x) := h.idle.of_engQ ((moltOver_engQ _ _ x).trans hengQ)
  rw [flowDied_run cause h.isOpen, ← hx, hover, wakeFlow_idle hidle]
  refine ⟨?_, ?_, hidle⟩
  · have : _ = x.rd .flowState f := (Aside.rd (by decide) hf).moltOver Act.molt_keepsRd (fun _ => Act.reg_keepsOther hf (by simp))
      (fun _ => Act.reg_keepsOther hf (by simp)) 6 (w :: ws) x
    exact (congrArg (bits · 0 2) this).trans hfailed
  · have := moltOver_reports x (st := 6) (w := w) (ws := ws) (by decide)
    rwa [houtcome, hcause] at this

/-- After it, no failure of a flow changes what the molt ended in. -/
theorem LostToCoord.flowDied (h : LostToCoord s f) (hf : f < 8192) : LostToCoord ((Act.flowDied j cause).run s) f := by
  have hruns : s.moltRuns = false := by simp [State.moltRuns, h.ended.state]
  rw [flowDied_alone cause h.idle (.inl hruns)]
  by_cases hne : j = f
  · subst hne
    have : (Act.flowGone j cause).run s = s := by simp [Act.flowGone, h.failed]
    rwa [this]
  · exact h.of_views (flowGone_rd (by decide) (by decide) (by simp) cause s) (flowGone_rd (by decide) (by decide) (by simp) cause s)
      (flowGone_engQ j cause s) (flowGone_rd (by decide) hf (by simp [Ne.symm hne]) cause s)

theorem LostToCoord.flowsDied (l : List Nat) (h : LostToCoord s f) (hf : f < 8192) :
    LostToCoord ((Act.each l fun j => .flowDied j cause).run s) f := by
  induction l generalizing s with
  | nil => exact h
  | cons j l ih => exact ih (h.flowDied hf)

/-- Where flows fail one after another, and the one to the coordinator among them, the molt ends. -/
theorem FlowToCoord.flowsDied {l : List Nat} (h : FlowToCoord s f) (hf : f < 8192) (hmem : f ∈ l) :
    LostToCoord ((Act.each l fun j => .flowDied j cause).run s) f := by
  induction l generalizing s with
  | nil => exact absurd hmem List.not_mem_nil
  | cons j l ih =>
    by_cases hne : j = f
    · subst hne
      exact (h.flowDied hf).flowsDied l hf
    · exact ih (h.flowDied_other hf hne) ((List.mem_cons.1 hmem).resolve_left (Ne.symm hne))

end

/-- Flows in force are among the 8,192 (R305). -/
theorem mem_flowsTo_lt {s : State} {src srcFlow f : Nat} (h : f ∈ s.flowsTo src srcFlow) : f < 8192 := by
  simp only [State.flowsTo, State.flowList, List.mem_filter, List.mem_filterMap, Option.ite_none_right_eq_some, Option.some.injEq] at h
  obtain ⟨⟨p, -, hrange, rfl⟩, -⟩ := h
  omega

/-- The peer's FLOW_ABORT ends the molt (R312, R362). -/
theorem flowAbort_endsMolt {s : State} {m : Msg} {f : Nat} (hfor : ForUs s m 14) (hmem : f ∈ s.flowsTo m.src.toNat m.srcFlow.toNat)
    (h : FlowToCoord s f) : Completes (.flowAbort m) s fun t => LostToCoord t f := by
  obtain ⟨hon, htype, hhere⟩ := hfor
  have hf := mem_flowsTo_lt hmem
  let counted := (Act.count .transportCount 0 4).run s
  have hne : s.flowsTo m.src.toNat m.srcFlow.toNat ≠ [] := List.ne_nil_of_mem hmem
  have hrun : exec (.flowAbort m) s =
      .next ((Act.each (s.flowsTo m.src.toNat m.srcFlow.toNat) fun j => .flowDied j (m.aux.toNat % 16)).run counted) := by
    simp [exec, execFlowAbort, Act.msgRow, Act.route, Act.arrive, Act.abortMsg, hon, htype, hhere, hne, counted]
  have hentry {n : EName} {i : Nat} (hn : n ∉ sideEntries) (hi : i < n.count) : counted.rd n i = s.rd n i :=
    (Aside.rd hn hi).count (by decide) s
  have hcounted : FlowToCoord counted f := h.of_views (hentry (by decide) (by decide)) (Aside.planned.count (by decide) s)
    (hentry (by decide) (by decide)) (Aside.engQ.count (by decide) s) (hentry (by decide) hf)
  exact ⟨_, hrun, hcounted.flowsDied hf hmem⟩

/-- So does its failure where a message has gone out eight times without an answer (R310, R362). -/
theorem retransmitTimeout_endsMolt {s : State} (f : Fin 8192) (hon : s.colOn = true) (hopen : s.flowSt f = 2)
    (hsent : ∃ x ∈ (s.flow f).unacked, 8 ≤ x.sends) (h : FlowToCoord s f) :
    Completes (.retransmitTimeout f) s fun t => LostToCoord t f := by
  have hsome : (s.flow f).unacked ≠ [] := let ⟨_, hx, _⟩ := hsent; List.ne_nil_of_mem hx
  have hrun : exec (.retransmitTimeout f) s = .next ((Act.flowDied f 1).run s) := by
    simp [exec, execRetransmitTimeout, Act.onOpen, Act.resend, hon, hopen, hsome, hsent]
  exact ⟨_, hrun, h.flowDied f.isLt⟩

/-! ### ABORT goes out to every peer (R360) -/

/-- An ABORT of a molt is among what a flow has sent or is to send. -/
def Flow.TellsAbort (g : Flow) : Prop := ∃ x ∈ g.unacked ++ g.sendq, x.m.type.toNat = 10 ∧ bits x.m.aux.toNat 0 8 = 6

section
variable {α : Type} {v : State → α} {j : Nat}

theorem Aside.flowPump (h : Aside v) (hflow : ∀ g, (Act.flow j g).Keeps v) (hnext : ∀ k, (Act.fld .flowState j 8 0 32 k).Keeps v)
    (n : Nat) : (Act.flowPump j n).Keeps v := by
  induction n with
  | zero => exact Act.keeps_skip
  | succ n ih =>
    refine Act.keeps_get fun s => ?_
    split
    · exact Act.keeps_ite (fun _ => Act.keeps_skip) fun _ => Act.keeps_seq (hflow _) <| Act.keeps_seq (hnext _) <|
        Act.keeps_seq (h.sendOn _ _) <| Act.keeps_seq ih Act.keeps_skip
    · exact Act.keeps_skip

theorem Aside.moltSend (h : Aside v) (hflow : ∀ j g, (Act.flow j g).Keeps v) (hnext : ∀ j k, (Act.fld .flowState j 8 0 32 k).Keeps v)
    (dev kind attempt seg : Nat) (data : PBytes) : (Act.moltSend dev kind attempt seg data).Keeps v := Act.keeps_get fun s => by
  split
  · exact Act.keeps_skip
  · exact Act.keeps_when fun _ => Act.keeps_seq (hflow _ _) (h.flowPump (hflow _) (hnext _) _)

end

/-- What a message on its way leaves of the flows themselves. -/
theorem Aside.flows : Aside fun s => s.u.flows := .ofUnits fun _ _ h => h.flows

theorem State.flow_flow (s : State) (j f : Nat) (g : Flow → Flow) :
    ((Act.flow j g).run s).flow f = if f = j then g (s.flow f) else s.flow f := by
  split
  · subst f
    exact tgetD_tmod_same _ _ _ _
  · exact tgetD_tmod_other _ _ _ ‹_›

section
variable {s : State} {f j : Nat}

theorem State.flow_of_flows {s t : State} (h : t.u.flows = s.u.flows) (f : Nat) : t.flow f = s.flow f := by rw [State.flow, h, State.flow]

/-- Sending what waits moves messages, and drops none. -/
theorem flowPump_tellsAbort (n : Nat) (h : (s.flow f).TellsAbort) : (((Act.flowPump j n).run s).flow f).TellsAbort := by
  induction n generalizing s with
  | zero => exact h
  | succ n ih =>
    rw [Act.flowPump, Act.run_get]
    split
    case h_2 => exact h
    case h_1 x r hq =>
      dsimp only
      rw [Act.run_ite]
      split
      · exact h
      · simp only [Act.run_all_cons, Act.run_all_nil]
        refine ih ?_
        rw [State.flow_of_flows (Aside.flows.sendOn _ _ _), State.flow_of_flows (Act.fld_keeps_u (g := Units.flows) _), State.flow_flow]
        split
        · subst f
          obtain ⟨y, hy, htells⟩ := h
          rw [hq, List.mem_append, List.mem_cons] at hy
          obtain hy | rfl | hy := hy
          · exact ⟨y, by simp [hy], htells⟩
          · exact ⟨_, List.mem_append_left _ (List.mem_append_right _ (List.mem_singleton_self _)), htells⟩
          · exact ⟨y, by simp [hy], htells⟩
        · exact h

theorem flowSend_tellsAbort (ms : List Msg) (h : (s.flow f).TellsAbort) : (((Act.flowSend j none ms).run s).flow f).TellsAbort := by
  refine flowPump_tellsAbort _ ?_
  rw [State.flow_flow]
  split
  · obtain ⟨x, hx, htells⟩ := h
    exact ⟨x, by rw [← List.append_assoc]; exact List.mem_append_left _ hx, htells⟩
  · exact h

theorem flowSend_abort {m : Msg} (htype : m.type.toNat = 10) (haux : bits m.aux.toNat 0 8 = 6) :
    (((Act.flowSend f none [m]).run s).flow f).TellsAbort := by
  refine flowPump_tellsAbort _ ?_
  rw [State.flow_flow, if_pos rfl]
  exact ⟨{ m := m, owner := none }, by simp, htype, haux⟩

theorem moltSend_tellsAbort {dev kind attempt seg : Nat} {data : PBytes} (h : (s.flow f).TellsAbort) :
    (((Act.moltSend dev kind attempt seg data).run s).flow f).TellsAbort := by
  rw [Act.moltSend, Act.run_get]
  split
  · exact h
  · rw [Act.run_when]
    split
    · exact flowSend_tellsAbort _ h
    · exact h

/-- A flow on which the molt's messages go to a participant (R347, R356). -/
structure MoltFlowTo (s : State) (dev f : Nat) : Prop where
  flow : s.u.molt.flowTo dev = some f
  isOpen : s.flowSt f = 1 ∨ s.flowSt f = 2
  bulk : s.flowClass f = 4
  ctx : s.flowCtx f = s.u.moltCtx

theorem Molt.flowTo_lt {x : Molt} {dev f : Nat} (h : x.flowTo dev = some f) : f < 8192 := by
  obtain ⟨w, -, rfl⟩ := Option.map_eq_some_iff.1 h
  exact bits_lt _ _ _

theorem Aside.flowSt (hf : f < 8192) : Aside fun s => s.flowSt f := (Aside.rd (by decide) hf).map (bits · 0 2)

/-- The number of a flow's next message is no part of a flow's state. -/
theorem Act.sendNext_keepsFlowSt (hf : f < 8192) (k : Nat) : (Act.fld .flowState j 8 0 32 k).Keeps fun s => s.flowSt f := fun s => by
  by_cases hj : f = j
  · subst hj
    exact s.fld_fld_apart (off' := 0) (lo' := 0) (len' := 2) k (.of_vol s hf rfl) (by decide) (by decide)
  · have : ((Act.fld .flowState j 8 0 32 k).run s).rd .flowState f = s.rd .flowState f :=
      (Act.keeps_get fun _ => Act.reg_keepsOther hf (by simpa using hj) : (Act.fld .flowState j 8 0 32 k).Keeps _) s
    exact congrArg (bits · 0 2) this

/-- Sending on any flow leaves to whom the molt's messages go. -/
theorem MoltFlowTo.moltSend {dev : Nat} (h : MoltFlowTo s dev f) (peer kind attempt seg : Nat) (data : PBytes) :
    MoltFlowTo ((Act.moltSend peer kind attempt seg data).run s) dev f := by
  have hf := Molt.flowTo_lt h.flow
  obtain ⟨t, ht⟩ : ∃ t, t = (Act.moltSend peer kind attempt seg data).run s := ⟨_, rfl⟩
  have hunits {β : Type} {g : Units → β} (hg : ∀ u v, Units.SameWork u v → g v = g u)
      (hflows : ∀ u l, g { u with flows := l } = g u) : g t.u = g s.u := ht ▸
    (Aside.ofUnits hg).moltSend (fun _ _ s => hflows s.u _) (fun _ _ => Act.fld_keeps_u) peer kind attempt seg data s
  have hcfg : t.rd .flowCfg f = s.rd .flowCfg f := ht ▸ (Aside.rd (by decide) hf).moltSend (fun _ => Act.flow_keepsRd)
    (fun _ _ => Act.keeps_get fun _ => Act.reg_keepsOther hf (by simp)) peer kind attempt seg data s
  have hstate : t.flowSt f = s.flowSt f := ht ▸ (Aside.flowSt hf).moltSend
    (fun _ g s => congrArg (bits · 0 2) (Act.flow_keepsRd g s)) (fun _ => Act.sendNext_keepsFlowSt hf) peer kind attempt seg data s
  have hmolt : t.u.molt = s.u.molt := hunits (g := Units.molt) (fun _ _ h => h.molt) fun _ _ => rfl
  have hctx : t.u.moltCtx = s.u.moltCtx := hunits (g := Units.moltCtx) (fun _ _ h => h.moltCtx) fun _ _ => rfl
  rw [← ht]
  exact ⟨hmolt ▸ h.flow, hstate ▸ h.isOpen, (congrArg (bits · _ _) hcfg).trans h.bulk,
    (congrArg (bits · _ _) hcfg).trans (h.ctx.trans hctx.symm)⟩

theorem MoltFlowTo.abort {dev : Nat} (h : MoltFlowTo s dev f) (seg : Nat) (data : PBytes) :
    (((Act.moltSend dev 6 0 seg data).run s).flow f).TellsAbort := by
  have hgoes : ((s.flowSt f == 1 || s.flowSt f == 2) && s.flowClass f == 4 && s.flowCtx f == s.u.moltCtx) = true := by
    simpa [h.bulk, h.ctx] using h.isOpen
  rw [Act.moltSend, Act.run_get, h.flow]
  simp only [hgoes, Act.when_true]
  refine flowSend_abort rfl ?_
  simp only [BitVec.toNat_ofNat, bits, Nat.shiftRight_zero]
  omega

theorem abortEach_tellsAbort {dev seg : Nat} {data : PBytes} {l : List Nat} (h : MoltFlowTo s dev f) (hmem : dev ∈ l) :
    (((Act.each l fun a => .moltSend a 6 0 seg data).run s).flow f).TellsAbort := by
  have hrest (l : List Nat) {x : State} (hx : (x.flow f).TellsAbort) :
      (((Act.each l fun a => .moltSend a 6 0 seg data).run x).flow f).TellsAbort := by
    induction l generalizing x with
    | nil => exact hx
    | cons a l ih => exact ih (moltSend_tellsAbort hx)
  induction l generalizing s with
  | nil => exact absurd hmem List.not_mem_nil
  | cons a l ih =>
    obtain rfl | hmem := List.mem_cons.1 hmem
    · exact hrest l (h.abort seg data)
    · exact ih (h.moltSend _ _ _ _ _) hmem

end

/-- The coordinator's deadline ends the molt ABORTED here, and ABORT goes out on every flow of it (R360). -/
theorem moltDeadline_abortsAll {s : State} (hruns : s.rd .moltState = 2) (hleads : s.moltCoord = true) (hsaddle : s.saddle = true)
    (hset : wf s.u.molt.hdr 0x58 0 32 ≠ 0) : Completes .moltDeadline s fun t => MoltEnded t 7 2 causePeer ∧
      ∀ a ∈ s.moltOthers, ∀ f, MoltFlowTo s a f → (t.flow f).TellsAbort := by
  have hmolt : s.moltRuns = true := by simp [State.moltRuns, hruns]
  obtain ⟨w, ws, hwords, -, hcause⟩ := s.moltWords_says (outcome := 2) (cause := causePeer) (by decide) (by decide)
    (((s.u.molt.peers.map peerAddr).find? fun a => !s.u.molt.ready.contains a).getD 0) 0 0 0 0 0
  let told := (Act.each s.moltOthers fun a => .moltSend a 6 0 (wf (w :: ws) 8 32 32) (wordBytes (w :: ws))).run s
  have hrun : exec .moltDeadline s = .next ((Act.moltOver 7 (setBits w 16 4 2 :: ws)).run told) := by
    have hwhen : (s.saddle && s.moltRuns && s.moltCoord && wf s.u.molt.hdr 0x58 0 32 != 0) = true := by
      simp [hsaddle, hmolt, hleads, hset]
    simp only [exec, execMoltDeadline, Act.moltDeadline, Act.outcome_eq, Act.run_get, Act.run_seq, hwhen, Act.when_true, Act.moltAbortAll,
      Act.moltAbort, hwords, withOutcome, told]
  refine ⟨_, hrun, ?_, fun a ha f hf => ?_⟩
  · have := moltOver_reports told (st := 7) (w := setBits w 16 4 2) (ws := ws) (by decide)
    rwa [bits_setBits, bits_setBits_apart (by decide), hcause] at this
  · rw [State.flow_of_flows (moltOver_flows 7 _ told)]
    exact abortEach_tellsAbort hf ha

/-- Settles O57: the flow's failure ends the molt before anything more goes out on it, and no later failure of a flow changes the report;
the coordinator's ABORT stays in each flow's queue, or among what it has sent, until it is acknowledged. -/
theorem flowFailureFailsARunningMolt : Obligations.FlowFailureFailsARunningMolt := by
  unfold Obligations.FlowFailureFailsARunningMolt
  intro s hruns
  refine ⟨fun hled hidle => ⟨fun m f hfor hmem hopen hflow => ?_, fun f hon hopen hsent hflow => ?_⟩, fun hleads hsaddle hset => ?_⟩
  · obtain ⟨t, ht, hfailed, ⟨hstate, houtcome, hcause⟩, -⟩ := flowAbort_endsMolt hfor hmem ⟨hruns, hled, hidle, hflow, hopen⟩
    exact ⟨t, ht, hfailed, hstate, houtcome, hcause⟩
  · obtain ⟨t, ht, hfailed, ⟨hstate, houtcome, hcause⟩, -⟩ :=
      retransmitTimeout_endsMolt f hon hopen hsent ⟨hruns, hled, hidle, hflow, .inr hopen⟩
    exact ⟨t, ht, hfailed, hstate, houtcome, hcause⟩
  · obtain ⟨t, ht, ⟨hstate, houtcome, -⟩, htold⟩ := moltDeadline_abortsAll hruns hleads hsaddle hset
    exact ⟨t, ht, hstate, houtcome, fun a ha f hflow hopen hbulk hctx => htold a ha f ⟨hflow, hopen, hbulk, hctx⟩⟩

end Sys2Proof.Machine
end

section
/-! SUPPORT. Every command runs one action, so what every single change keeps every command keeps: the waiting commands, the canonical
form of memory and of the register file, and with it what the entries of class FIXED read. -/

namespace Sys2Proof.Machine

/-- The meaning of every command is an action. -/
theorem exec_runs (c : Instr) (s : State) : ∃ a : Act, exec c s = .next (a.run s) := by
  cases c <;> exact ⟨_, rfl⟩

theorem State.Inv.run {s : State} (h : s.Inv) (a : Act) : (a.run s).Inv := by
  induction a generalizing s with
  | skip => exact h
  | upd x => exact h.apply x
  | seq a b iha ihb => exact ihb (iha h)
  | get f ih => exact ih s h

theorem State.Inv.exec {s t : State} {c : Instr} (h : s.Inv) (he : exec c s = .next t) : t.Inv := by
  obtain ⟨a, ha⟩ := exec_runs c s
  cases ha.symm.trans he
  exact h.run a

/-- The invariant looks neither at the waiting commands nor at the units. -/
theorem State.Inv.of_same {s t : State} (h : s.Inv) (hmem : ∀ m, t.store m = s.store m) (hregs : t.regs = s.regs) : t.Inv := by
  have hstack : t.stack = s.stack := hmem .stack
  have hhost : t.host = s.host := hmem .host
  have hscratch : t.scratch = s.scratch := hmem .scratch
  exact ⟨hstack ▸ h.stack, hhost ▸ h.host, hscratch ▸ h.scratch, hregs ▸ h.rising, hregs ▸ h.regs⟩

theorem State.idle_same (s : State) : (∀ m, s.idle.store m = s.store m) ∧ s.idle.regs = s.regs := by
  unfold State.idle
  split
  · exact ⟨fun m => by cases m <;> rfl, rfl⟩
  · exact ⟨fun _ => rfl, rfl⟩

/-- Under the invariant no entry of class FIXED is listed. -/
theorem State.Inv.fixed_unlisted {s : State} (h : s.Inv) {n : EName} {i : Nat} (hi : i < n.count) (hn : n.info.pers = .fixed) :
    tget s.regs (n.key i) = none := by
  cases hget : tget s.regs (n.key i) with
  | none => rfl
  | some v =>
    obtain ⟨m, j, hj, hm, hkey, -⟩ := h.regs _ (tget_mem hget)
    obtain ⟨rfl, -⟩ := EName.key_inj hi hj hkey
    exact absurd hn hm

/-- The default of an entry of class FIXED is no matter of the straps. -/
theorem EName.dfltOf_fixed {n : EName} (hn : n.info.pers = .fixed) (i a b : Nat) : n.dfltOf i a = n.dfltOf i b := by
  cases n <;> first | rfl | exact absurd hn (by decide)

theorem State.Inv.rd_fixed {s : State} (h : s.Inv) {n : EName} {i : Nat} (hi : i < n.count) (hn : n.info.pers = .fixed) :
    s.rd n i = n.fit (n.dfltOf i 0) := by
  simp only [State.rd, hn, h.fixed_unlisted hi hn, reduceCtorEq, false_and, if_false, EName.dfltOf_fixed hn i _ 0]

/-- Settles O1. -/
theorem stepRunsTheFrontCommand : Obligations.StepRunsTheFrontCommand := fun _ _ _ => rfl

/-- Settles O2: the free value drawn says where in the cycle the running clock reads. -/
theorem idleStepIsOneReferenceCycle : Obligations.IdleStepIsOneReferenceCycle := by
  intro s hnone
  refine ⟨fun hpower => ⟨if s.u.pow.deep then 0 else Config.freeValue s.u.free % tickNs, ?_, fun hdeep => by simp [hdeep], ?_⟩,
    fun hpower => ?_⟩
  · split
    · decide
    · exact Nat.mod_lt _ (by decide)
  · simp only [step, hnone, State.idle, hpower, if_true, tickNs]
  · simp only [step, hnone, State.idle, hpower, Bool.false_eq_true, if_false]

/-- Settles O3: no change touches the waiting commands. -/
theorem everyCommandAnswersANextState : Obligations.EveryCommandAnswersANextState := fun c s => by
  obtain ⟨a, ha⟩ := exec_runs c s
  exact ⟨_, ha, a.run_pending s⟩

/-- Settles O4: after reset nothing is listed. -/
theorem resetMeetsTheInvariant : Obligations.ResetMeetsTheInvariant :=
  ⟨Store.wf_empty _, Store.wf_empty _, Store.wf_empty _, List.Pairwise.nil, by simp [State.reset]⟩

/-- Settles O5: the single changes keep the invariant, and an idle step changes the clock alone. -/
theorem everyStepKeepsTheInvariant : Obligations.EveryStepKeepsTheInvariant := by
  intro s t h hstep
  unfold step at hstep
  split at hstep
  · cases hstep
    exact h.of_same s.idle_same.1 s.idle_same.2
  · next c rest _ => exact (h.of_same (t := { s with pending := rest }) (fun m => by cases m <;> rfl) rfl).exec hstep

/-- Settles O6: before and after the command the entry is unlisted and reads its default. -/
theorem fixedEntriesNeverChange : Obligations.FixedEntriesNeverChange := fun _ _ _ _ _ h he hn hi =>
  ((h.exec he).rd_fixed hi hn).trans (h.rd_fixed hi hn).symm

/-- Settles O7. -/
theorem resetLeavesDefaults : Obligations.ResetLeavesDefaults := by
  refine ⟨fun n i => ?_, rfl, rfl, rfl, fun m a n => ?_⟩
  · exact ite_self _
  · exact List.eq_replicate_iff.2 ⟨by simp [State.rdMem], fun b hb => by
      obtain ⟨j, -, rfl⟩ := List.mem_map.1 hb
      cases m <;> rfl⟩

end Sys2Proof.Machine
end

section
/-! SUPPORT. The saddle's interrupt controller and the traps of its control cores (R420 to R425). -/

namespace Sys2Proof.Machine

/-- A change of the host interface's own state leaves memory and every entry as they read. -/
theorem Act.touches_host {l : List (EName × Nat)} (f : HostU → HostU) : (Act.host f).Touches l := touches_units fun _ => ⟨rfl, rfl⟩
theorem Act.touches_out {l : List (EName × Nat)} (o : Out) : (Act.out o).Touches l := touches_units fun _ => ⟨rfl, rfl⟩
theorem Act.touches_ctl {l : List (EName × Nat)} (k : Nat) (f : CtlCore → CtlCore) : (Act.ctl k f).Touches l := touches_host _
theorem Act.touches_draw {l : List (EName × Nat)} {f : Nat → Act} (h : ∀ v, (f v).Touches l) : (Act.draw f).Touches l :=
  touches_get fun _ => touches_seq (touches_units fun _ => ⟨rfl, rfl⟩) (h _)

@[simp] theorem State.ctl_ctl (s : State) (k : Nat) (f : CtlCore → CtlCore) : ((Act.ctl k f).run s).ctl k = f (s.ctl k) := by
  simp [Act.ctl, State.ctl]

theorem mem_sdel {α : Type} [BEq α] [LawfulBEq α] {l : List α} {x y : α} : x ∈ sdel l y ↔ x ∈ l ∧ x ≠ y := by
  simp [sdel]

theorem newBits_testBit (a b i : Nat) : (newBits a b).testBit i = (a.testBit i && !b.testBit i) := by
  simp only [newBits, Nat.testBit_xor, Nat.testBit_and]
  cases a.testBit i <;> cases b.testBit i <;> rfl

/-! ### Claims and EOI (R422, R423) -/

theorem Act.claimSrc_touches (k : Nat) (fast : Bool) : (Act.claimSrc k fast).Touches [] :=
  touches_get fun _ => touches_when (touches_seq (touches_out _) (touches_when (touches_ctl _ _)))

/-- What a claim of source `v` leaves of a control core; 256 is none. -/
def CtlCore.claim (c : CtlCore) (fast : Bool) (v : Nat) : CtlCore :=
  if fast then { c with inFast := v, claimed := c.claimed || v != 256 } else { c with inNormal := v, claimed := c.claimed || v != 256 }

/-- A claim answers the class's pending source, which is then in service, where none of the class is. -/
theorem claimSrc_run {s : State} {k : Nat} {fast : Bool} (hrun : s.fwRuns = true)
    (hfree : (if fast then (s.ctl k).inFast else (s.ctl k).inNormal) = 256) :
    ((Act.claimSrc k fast).run s).u.outbox = s.u.outbox ++ [.claim k (s.pendingSrc k fast)] ∧
      ((Act.claimSrc k fast).run s).ctl k = (s.ctl k).claim fast (s.pendingSrc k fast) := by
  simp only [Act.claimSrc, Act.run_get, hrun, Act.when_true, hfree, if_true, Act.run_seq]
  by_cases hnone : s.pendingSrc k fast = 256
  · cases fast
    · simp only [hnone, CtlCore.claim, bne_self_eq_false, Act.when_false, Bool.or_false, Bool.false_eq_true, if_false]
      exact ⟨rfl, by rw [← hfree]; rfl⟩
    · simp only [hnone, CtlCore.claim, bne_self_eq_false, Act.when_false, Bool.or_false, if_true]
      exact ⟨rfl, by rw [← hfree]; rfl⟩
  · simp only [bne_iff_ne.2 hnone, Act.when_true]
    exact ⟨rfl, by cases fast <;> simp [CtlCore.claim, hnone, State.ctl, Act.ctl]⟩

theorem Act.endService_touches (k src : Nat) : (Act.endService k src).Touches [] :=
  touches_get fun _ => touches_when (touches_seq
    (touches_when (touches_draw fun _ => touches_when (touches_host _))) (touches_ctl _ _))

/-- EOI of a source that is not in service does nothing. -/
theorem endService_idle {s : State} {k src : Nat} (hn : (s.ctl k).inNormal ≠ src) (hf : (s.ctl k).inFast ≠ src) :
    (Act.endService k src).run s = s := by
  simp [Act.endService, beq_false_of_ne hn, beq_false_of_ne hf]

/-- The cause of a source may go with its service, and no other cause does. -/
def causeGone (src : Nat) : Act :=
  .get fun s => .when (s.u.host.raised.contains src) (.draw fun v => .when (v % 2 == 1) (.host fun h => { h with raised := sdel h.raised src }))

theorem causeGone_run (s : State) (src : Nat) :
    ((causeGone src).run s).u.host.cores = s.u.host.cores ∧
      (((causeGone src).run s).u.host.raised = s.u.host.raised ∨ ((causeGone src).run s).u.host.raised = sdel s.u.host.raised src) := by
  simp only [causeGone, Act.draw, Act.run_get, Act.run_when]
  split
  · simp only [Act.run_seq, Act.run_when]
    split
    · exact ⟨rfl, .inr rfl⟩
    · exact ⟨rfl, .inl rfl⟩
  · exact ⟨rfl, .inl rfl⟩

/-- EOI ends the service of the source, and touches no other cause. -/
theorem endService_run {s : State} {k src : Nat} (hrun : s.fwRuns = true) (hin : (s.ctl k).inNormal = src ∨ (s.ctl k).inFast = src) :
    ((Act.endService k src).run s).ctl k =
        { s.ctl k with inNormal := if (s.ctl k).inNormal = src then 256 else (s.ctl k).inNormal
                       inFast := if (s.ctl k).inFast = src then 256 else (s.ctl k).inFast } ∧
      (((Act.endService k src).run s).u.host.raised = s.u.host.raised ∨
        ((Act.endService k src).run s).u.host.raised = sdel s.u.host.raised src) := by
  have hserved : ((s.ctl k).inNormal == src || (s.ctl k).inFast == src) = true := by simpa using hin
  obtain ⟨hcores, hraised⟩ := causeGone_run s src
  have hctl : ((causeGone src).run s).ctl k = s.ctl k := by simp only [State.ctl, hcores]
  have hrun' : (Act.endService k src).run s = (Act.ctl k fun c => { c with
      inNormal := if c.inNormal = src then 256 else c.inNormal
      inFast := if c.inFast = src then 256 else c.inFast }).run ((causeGone src).run s) := by
    simp only [Act.endService, Act.run_get, hrun, hserved, Bool.and_self, Act.when_true, Act.run_seq, causeGone]
  rw [hrun', State.ctl_ctl, hctl]
  exact ⟨rfl, hraised⟩

/-- A write that sets SWI bits or a source register is taken while the firmware runs. -/
theorem swiSet_run {s : State} (hrun : s.fwRuns = true) (w : IntcSet) :
    exec (.swiSet w) s = .next ((Act.host fun h => h.intcSet w).run s) := by
  simp only [exec, execSwiSet, Act.outcome_eq, Act.run_get, hrun, Act.when_true]

/-- Settles O34: a claim puts the pending source in service and EOI ends it; all of it is state of the interrupt controller. -/
theorem interruptClaimsAndEnds : Obligations.InterruptClaimsAndEnds := by
  intro s k hrun
  have h256 : ∀ src : Byte, (256 : Nat) ≠ src.toNat := fun src h => by have := src.isLt; omega
  refine ⟨fun hfree => ?_, fun hfree => ?_, fun src hin => ?_, fun src hn hf => ?_, fun v => ?_, fun i v => ?_, fun v => ?_⟩
  · obtain ⟨hout, hctl⟩ := claimSrc_run (fast := false) hrun hfree
    obtain ⟨hmem, hents⟩ := Act.claimSrc_touches k false s
    exact ⟨_, rfl, hout, hctl, hmem, hents⟩
  · obtain ⟨hout, hctl⟩ := claimSrc_run (fast := true) hrun hfree
    obtain ⟨hmem, hents⟩ := Act.claimSrc_touches k true s
    exact ⟨_, rfl, hout, hctl, hmem, hents⟩
  · obtain ⟨hctl, hraised⟩ := endService_run hrun hin
    obtain ⟨hmem, hents⟩ := Act.endService_touches k src.toNat s
    refine ⟨_, rfl, ?_, ?_, ?_, ?_, ?_, ?_, hmem, hents⟩
    · rw [hctl]; dsimp only; split <;> [exact h256 src; assumption]
    · rw [hctl]; dsimp only; split <;> [exact h256 src; assumption]
    · intro x hx
      rcases hraised with h | h <;> rw [h]
      exact mem_sdel.trans (and_iff_left hx)
    · intro hx
      rcases hraised with h | h <;> rw [h]
      · exact hx
      · exact fun hm => hx (mem_sdel.1 hm).1
    · intro hx; rw [hctl]; exact if_neg hx
    · intro hx; rw [hctl]; exact if_neg hx
  · refine ⟨s, ?_, rfl, fun _ _ _ => rfl, fun _ _ _ _ => rfl⟩
    simp only [exec, execEoi, Act.outcome_eq, endService_idle hn hf]
  · exact ⟨_, swiSet_run hrun _, fun i => Nat.testBit_or .., rfl, (Act.touches_host (l := []) _ s).1⟩
  · refine ⟨_, swiSet_run hrun _, rfl, fun j => ?_, (Act.touches_host (l := []) _ s).1⟩
    simp only [State.srcReg, Act.run_host, HostU.intcSet, tgetD, tget_tset]
    split <;> rfl
  · refine ⟨_, rfl, fun i => ?_, ?_⟩
    · simp only [bit, Act.run_get, hrun, Act.when_true, Act.run_host, newBits_testBit]
    · exact (Act.touches_get (l := []) (fun _ => Act.touches_when (Act.touches_host _)) s).1

/-! ### Traps and mret (R424) -/

theorem bit_setBits (v i x : Nat) : bit (setBits v i 1 x) i = x.testBit 0 := by
  simp [bit, setBits_testBit]

theorem bit_setBits_apart {v lo len x i : Nat} (h : i < lo ∨ lo + len ≤ i) : bit (setBits v lo len x) i = bit v i := by
  have : ¬(lo ≤ i ∧ i < lo + len) := by omega
  simp [bit, setBits_testBit, this]

theorem bits_testBit_zero (v i : Nat) : (bits v i 1).testBit 0 = bit v i := by
  simp only [bits_testBit, bit, Nat.add_zero, Nat.zero_lt_one, decide_true, Bool.true_and]

/-- A trap closes MIE and keeps it in MPIE. -/
theorem trapStatus_bits (m p : Nat) : bit (trapStatus m p) 3 = false ∧ bit (trapStatus m p) 7 = bit m 3 := by
  refine ⟨?_, ?_⟩
  · rw [trapStatus, bit_setBits]; rfl
  · rw [trapStatus, bit_setBits_apart (by omega), bit_setBits, bits_testBit_zero]

/-- mret takes MIE from MPIE. -/
theorem mretStatus_bit (m : Nat) : bit (mretStatus m) 3 = bit m 7 := by
  rw [mretStatus, bit_setBits_apart (by omega), bit_setBits_apart (by omega), bit_setBits, bits_testBit_zero]

/-- A row that only changes control core `k`, where its guard holds. -/
theorem completes_ctl {c : Instr} {s : State} {k : Nat} {f : CtlCore → CtlCore} {g : Bool} {P : State → Prop}
    (hc : exec c s = .next ((Act.when g (.ctl k f)).run s)) (hg : g = true)
    (hP : ∀ t, t.ctl k = f (s.ctl k) → SameMem s t → SameEntriesBut [] s t → P t) : Completes c s P := by
  subst hg
  obtain ⟨hmem, hents⟩ := Act.touches_ctl (l := []) k f s
  exact ⟨_, hc, hP _ (s.ctl_ctl k f) hmem hents⟩

/-- Settles O35: each row is one change of its control core. -/
theorem controlCoresTrapAndReturn : Obligations.ControlCoresTrapAndReturn := by
  intro s k hrun
  refine ⟨fun hfree hpend => ?_, fun htakes hpend => ?_, fun htakes => ?_, fun hfast => ?_, fun hmain => ?_⟩
  · refine completes_ctl (k := k) (f := CtlCore.fastTrap) rfl (by simp [hrun, hfree, hpend]) fun t hctl hmem hents => ?_
    rw [hctl]
    exact ⟨rfl, rfl, rfl, rfl, rfl, rfl, rfl, rfl, rfl, rfl, hmem, hents⟩
  · refine completes_ctl (k := k) (f := fun c => c.trap 11) rfl (by simp [htakes, hpend]) fun t hctl hmem _ => ?_
    obtain ⟨hmie, hmpie⟩ := trapStatus_bits (s.ctl k).mstatus (s.ctl k).priv
    rw [hctl]
    exact ⟨rfl, rfl, rfl, rfl, hmie, hmpie, rfl, hmem⟩
  · refine completes_ctl (k := k) (f := fun c => c.trap 7) rfl htakes fun t hctl hmem _ => ?_
    rw [hctl]
    exact ⟨rfl, rfl, rfl, rfl, hmem⟩
  · refine completes_ctl (k := k) (f := CtlCore.ret) rfl hrun fun t hctl hmem _ => ?_
    rw [hctl, CtlCore.ret, if_pos hfast]
    exact ⟨rfl, rfl, rfl, rfl, rfl, rfl, hmem⟩
  · refine completes_ctl (k := k) (f := CtlCore.ret) rfl hrun fun t hctl hmem _ => ?_
    rw [hctl, CtlCore.ret, if_neg (by simp [hmain])]
    exact ⟨rfl, rfl, mretStatus_bit _, rfl, hmem⟩

end Sys2Proof.Machine
end

section
/-! SUPPORT. Mailbox channels: what an operation leaves of its channel, of memory and of the entries (R409 to R417). -/

namespace Sys2Proof.Machine

/-! ### Changes of a channel -/

@[simp] theorem State.mbx_mbxSet (s : State) (c : Nat) (x : Mbx) : ((Act.mbxSet c x).run s).mbx c = x := by
  simp [Act.mbxSet, State.mbx]

theorem Act.mbxSet_touches {l : List (EName × Nat)} (c : Nat) (x : Mbx) : (Act.mbxSet c x).Touches l := touches_host _

theorem State.mbxFn_lt (s : State) (c : Nat) : s.mbxFn c < 32 := bits_lt _ _ 5

/-- The host's counters: those other than the one counted read as before. -/
theorem State.cnt_count_apart (s : State) {n : EName} {i k j b : Nat} (h : Settable s n i) (hj : 8 * j + 8 ≤ n.info.size) (hjk : j ≠ k) :
    ((Act.count n i k b).run s).cnt n i j = s.cnt n i j := s.fld_fld_apart _ h (by omega) (by omega)

/-- What mailboxes work on beside entries: the channels, the answers that wait, and what says whether the firmware runs. -/
def State.mailView (s : State) : Tab Mbx × List (Nat × Nat) × PowU := (s.u.host.mbx, s.u.host.mailDue, s.u.pow)

theorem Act.count_keepsMail (n : EName) (i k b : Nat) : (Act.count n i k b).Keeps State.mailView :=
  count_keeps_u (g := fun u => (u.host.mbx, u.host.mailDue, u.pow))

theorem Act.msix_keepsMail (fn v : Nat) : (Act.msix fn v).Keeps State.mailView :=
  keeps_get fun _ => keeps_ite (fun _ => keeps_skip) fun _ => keeps_ite (fun _ _ => rfl) fun _ =>
    keeps_ite (fun _ => keeps_seq (fun _ => rfl) (count_keepsMail _ _ _ _)) fun _ => keeps_skip

/-- An interrupt counts in counter 7 alone. -/
theorem msix_cnt (s : State) {fn v k : Nat} (hfn : fn < 32) (hk : k < 7) :
    ((Act.msix fn v).run s).cnt .hostCount fn k = s.cnt .hostCount fn k := by
  simp only [Act.msix, Act.run_get, Act.run_ite, Act.run_seq]
  split
  · rfl
  split
  · rfl
  split
  · exact State.cnt_count_apart _ (Settable.of_vol _ hfn rfl) (by show 8 * k + 8 ≤ 64; omega) (by omega)
  · rfl

section
variable (s : State) (c : Nat) (x : Mbx)

theorem mbxTo_view : ((Act.mbxTo c x).run s).mailView = (tset s.u.host.mbx c x, s.u.host.mailDue, s.u.pow) := by
  simp only [Act.mbxTo, Act.run_get, Act.run_seq]
  exact Act.keeps_when (fun _ => Act.msix_keepsMail _ _) _

theorem mbxTo_mbx : ((Act.mbxTo c x).run s).mbx c = x := by
  have h := congrArg Prod.fst (mbxTo_view s c x)
  simp only [State.mbx, show ((Act.mbxTo c x).run s).u.host.mbx = _ from h, tgetD_tset_same]

theorem mbxTo_mailDue : ((Act.mbxTo c x).run s).u.host.mailDue = s.u.host.mailDue := congrArg (fun v => v.2.1) (mbxTo_view s c x)
theorem mbxTo_pow : ((Act.mbxTo c x).run s).u.pow = s.u.pow := congrArg (fun v => v.2.2) (mbxTo_view s c x)

theorem mbxTo_frame : SameMem s ((Act.mbxTo c x).run s) ∧ SameEntriesBut [(.hostCount, s.mbxFn c)] s ((Act.mbxTo c x).run s) :=
  (Act.touches_seq (Act.mbxSet_touches c x) (Act.touches_when (Act.msix_touches _ _))) s

theorem mbxTo_cnt {k : Nat} (hk : k < 7) : ((Act.mbxTo c x).run s).cnt .hostCount (s.mbxFn c) k = s.cnt .hostCount (s.mbxFn c) k := by
  simp only [Act.mbxTo, Act.run_get, Act.run_seq, Act.run_when]
  split
  · exact (msix_cnt _ (s.mbxFn_lt c) hk)
  · rfl

/-- Where no bit that interrupts the host rises, the channel alone changes. -/
theorem mbxTo_quiet (hd : x.doorbell = (s.mbx c).doorbell) (he : x.hostEnable = (s.mbx c).hostEnable) :
    (Act.mbxTo c x).run s = (Act.mbxSet c x).run s := by
  simp [Act.mbxTo, hd, he, newBits]

end

/-- A violation is counted on the channel and for its function. -/
theorem violation_run (s : State) (c : Nat) :
    ((Act.violation c).run s).mbx c = { s.mbx c with violations := min ((s.mbx c).violations + 1) (2 ^ 32 - 1) } ∧
      ((Act.violation c).run s).cnt .hostCount (s.mbxFn c) 2 = (s.cnt .hostCount (s.mbxFn c) 2 + 1) % 2 ^ 64 ∧
      SameMem s ((Act.violation c).run s) ∧ SameEntriesBut [(.hostCount, s.mbxFn c)] s ((Act.violation c).run s) := by
  refine ⟨?_, ?_, (Act.touches_seq (Act.mbxSet_touches c _) (Act.touches_count (by simp))) s⟩
  · exact (congrArg (fun v : Tab Mbx × List (Nat × Nat) × PowU => tgetD v.1 c {}) (Act.count_keepsMail .hostCount (s.mbxFn c) 2 1 _)).trans
      (State.mbx_mbxSet s c _)
  · exact State.cnt_count _ (Settable.of_vol _ (s.mbxFn_lt c) rfl) (by decide)

/-! ### An answer of the firmware that waits for its channel -/

theorem find?_none_of_forall {l : List (Nat × Nat)} {c : Nat} (h : ∀ e ∈ l, e.1 ≠ c) : (l.find? fun e => e.1 == c) = none :=
  List.find?_eq_none.2 fun e he => by simpa using h e he

theorem mailPump_idle {s : State} {c : Nat} (h : ∀ e ∈ s.u.host.mailDue, e.1 ≠ c) : (Act.mailPump c).run s = s := by
  simp only [Act.mailPump, Act.run_get, find?_none_of_forall h, Act.run_skip]

theorem mailPump_busy {s : State} {c : Nat} (h : (s.mbx c).state ≠ 0) : (Act.mailPump c).run s = s := by
  simp only [Act.mailPump, Act.run_get]
  split
  · rfl
  · rw [beq_false_of_ne h, Bool.false_and, Act.when_false, Act.run_skip]

theorem Act.mbxTo_keepsStore (c : Nat) (x : Mbx) (m : MemSel) : (Act.mbxTo c x).Keeps fun s => s.store m :=
  keeps_get fun _ => keeps_seq (units_keeps_store m) (keeps_when fun _ => msix_keepsStore _ _ m)

theorem Act.mailPump_keepsStore (c : Nat) (m : MemSel) : (Act.mailPump c).Keeps fun s => s.store m := by
  refine keeps_get fun s => ?_
  split
  · exact keeps_skip
  · exact keeps_when fun _ => keeps_get fun _ => keeps_seq (units_keeps_store m) (keeps_seq (units_keeps_store m) (mbxTo_keepsStore _ _ m))

theorem setBits_div (v x n : Nat) : setBits v 0 n x / 2 ^ n = v / 2 ^ n :=
  Nat.eq_of_testBit_eq fun j => by simp [Nat.testBit_div_two_pow, setBits_testBit]

/-- An EMPTY channel takes the answer that waits for it, with the sender word stamped. -/
theorem mailPump_answers {s : State} {c : Nat} {e : Nat × Nat} (hdue : (s.u.host.mailDue.find? fun e => e.1 == c) = some e)
    (hempty : (s.mbx c).state = 0) (hrun : s.fwRuns = true) :
    let t := (Act.mailPump c).run s
    (t.mbx c).state = 2 ∧ (t.mbx c).poster = 1 ∧ (t.mbx c).msg / 2 ^ 64 = e.2 ∧ bit (t.mbx c).doorbell 1 = true ∧
      t.u.host.mailDue = s.u.host.mailDue.erase e := by
  simp only [Act.mailPump, Act.draw, Act.run_get, hdue, hempty, hrun, Act.run_seq, beq_self_eq_true, Bool.and_self, Act.when_true, mbxTo_mbx,
    mbxTo_mailDue]
  refine ⟨rfl, rfl, ?_, ?_, rfl⟩
  · exact (setBits_div ..).trans (Nat.mul_div_cancel _ (Nat.two_pow_pos 64))
  · exact (Nat.testBit_or ..).trans (by rw [postBit, Nat.testBit_two_pow_self, Bool.or_true])

/-! ### Operations -/

section
variable {s : State} {side : Side} {c : Nat} {f : State → Mbx → Option Mbx} {x : Mbx} {i : Instr} {P : State → Prop}

theorem mbxOp_takes (hreach : s.mbxReach side c = true) (hf : f s (s.mbx c) = some x) :
    (Act.mbxOp side c f).run s = (Act.mailPump c).run ((Act.mbxTo c x).run s) := by
  simp only [Act.mbxOp, Act.run_get, hreach, Act.when_true, hf, Act.run_seq]

/-- An operation that its channel takes, and after which the firmware has nothing to post. -/
theorem mbxOp_idle (hreach : s.mbxReach side c = true) (hf : f s (s.mbx c) = some x)
    (hidle : (∀ e ∈ s.u.host.mailDue, e.1 ≠ c) ∨ x.state ≠ 0) : (Act.mbxOp side c f).run s = (Act.mbxTo c x).run s := by
  rw [mbxOp_takes hreach hf]
  rcases hidle with h | h
  · exact mailPump_idle (by rwa [mbxTo_mailDue])
  · exact mailPump_busy (by rwa [mbxTo_mbx])

theorem completes_mbxOp (hi : exec i s = .next ((Act.mbxOp side c f).run s)) (hreach : s.mbxReach side c = true)
    (hf : f s (s.mbx c) = some x) (hidle : (∀ e ∈ s.u.host.mailDue, e.1 ≠ c) ∨ x.state ≠ 0)
    (hP : ∀ t, t.mbx c = x → SameMem s t → P t) : Completes i s P :=
  ⟨_, hi, mbxOp_idle hreach hf hidle ▸ hP _ (mbxTo_mbx s c x) (mbxTo_frame s c x).1⟩

/-- The same, where no bit of DOORBELL or HOST_ENABLE changes. -/
theorem completes_mbxOp_quiet (hi : exec i s = .next ((Act.mbxOp side c f).run s)) (hreach : s.mbxReach side c = true)
    (hf : f s (s.mbx c) = some x) (hidle : (∀ e ∈ s.u.host.mailDue, e.1 ≠ c) ∨ x.state ≠ 0)
    (hd : x.doorbell = (s.mbx c).doorbell) (he : x.hostEnable = (s.mbx c).hostEnable)
    (hP : ∀ t, t.mbx c = x → SameMem s t → SameEntriesBut [] s t → P t) : Completes i s P := by
  obtain ⟨hmem, hents⟩ := Act.mbxSet_touches (l := []) c x s
  exact ⟨_, hi, (mbxOp_idle hreach hf hidle).trans (mbxTo_quiet s c x hd he) ▸ hP _ (s.mbx_mbxSet c x) hmem hents⟩

/-- An operation after which the channel is EMPTY, so the answer that waits for it goes in. -/
theorem completes_mbxOp_answered {e : Nat × Nat} (hi : exec i s = .next ((Act.mbxOp side c f).run s)) (hreach : s.mbxReach side c = true)
    (hf : f s (s.mbx c) = some x) (hempty : x.state = 0) (hdue : (s.u.host.mailDue.find? fun e => e.1 == c) = some e)
    (hrun : s.fwRuns = true) :
    Completes i s fun t => (t.mbx c).state = 2 ∧ (t.mbx c).poster = 1 ∧ (t.mbx c).msg / 2 ^ 64 = e.2 ∧
      bit (t.mbx c).doorbell 1 = true ∧ t.u.host.mailDue = s.u.host.mailDue.erase e ∧ SameMem s t := by
  have hrun' : ((Act.mbxTo c x).run s).fwRuns = true := by simpa only [State.fwRuns, mbxTo_pow] using hrun
  obtain ⟨hst, hposter, hmsg, hbell, hlist⟩ :=
    mailPump_answers (s := (Act.mbxTo c x).run s) (by rwa [mbxTo_mailDue]) (by rwa [mbxTo_mbx]) hrun'
  refine ⟨_, hi, ?_⟩
  rw [mbxOp_takes hreach hf]
  exact ⟨hst, hposter, hmsg, hbell, hlist.trans (by rw [mbxTo_mailDue]),
    sameMem_of_stores fun m => (Act.mailPump_keepsStore c m _).trans (Act.mbxTo_keepsStore c x m s)⟩

/-- An operation that its channel does not take is a violation. -/
theorem completes_violation (hi : exec i s = .next ((Act.mbxOp side c f).run s)) (hreach : s.mbxReach side c = true)
    (hf : f s (s.mbx c) = none) :
    Completes i s fun t => t.mbx c = { s.mbx c with violations := min ((s.mbx c).violations + 1) (2 ^ 32 - 1) } ∧
      t.cnt .hostCount (s.mbxFn c) 2 = (s.cnt .hostCount (s.mbxFn c) 2 + 1) % 2 ^ 64 ∧ SameMem s t ∧
      SameEntriesBut [(.hostCount, s.mbxFn c)] s t := by
  refine ⟨_, hi, ?_⟩
  rw [show (Act.mbxOp side c f).run s = (Act.violation c).run s by simp only [Act.mbxOp, Act.run_get, hreach, Act.when_true, hf]]
  exact violation_run s c

end

/-! ### The message and the sender word (R413) -/

/-- Bytes written to MSG read back where they lie beyond the sender word and within the message; the others stay. -/
theorem msgWrite_byte (msg off j : Nat) (data : List Byte) :
    bits (msgWrite msg off data) (8 * j) 8 =
      if off ≤ j ∧ j < off + data.length ∧ 8 ≤ j ∧ j < 256 then (data.getD (j - off) 0#8).toNat else bits msg (8 * j) 8 := by
  induction data generalizing msg off with
  | nil => simp only [msgWrite, List.length_nil]; rw [if_neg (by omega)]
  | cons b bs ih =>
    rw [msgWrite, ih]
    simp only [List.length_cons]
    by_cases hj : j = off
    · subst hj
      rw [if_neg (by omega)]
      by_cases hr : 8 ≤ j ∧ j < 256
      · rw [if_pos hr, bits_setBits, if_pos (by omega), Nat.sub_self]
        exact Nat.mod_eq_of_lt b.isLt
      · rw [if_neg hr, if_neg (by omega)]
    · have hkeep : bits (if 8 ≤ off ∧ off < 256 then setBits msg (8 * off) 8 b.toNat else msg) (8 * j) 8 = bits msg (8 * j) 8 := by
        split
        · exact bits_setBits_apart (by omega)
        · rfl
      rw [hkeep]
      by_cases hin : off + 1 ≤ j ∧ j < off + 1 + bs.length ∧ 8 ≤ j ∧ j < 256
      · rw [if_pos hin, if_pos (by omega), show j - off = (j - (off + 1)) + 1 by omega, List.getD_cons_succ]
      · rw [if_neg hin, if_neg (by omega)]

/-- An emptied channel shows its poster's bit no longer. -/
theorem emptied_bell (x : Mbx) : bit x.emptied.doorbell x.poster = false := by
  show (newBits x.doorbell (2 ^ x.poster)).testBit x.poster = false
  rw [newBits_testBit, Nat.testBit_two_pow_self, Bool.not_true, Bool.and_false]

/-- Settles O32. -/
theorem mailboxOperations : Obligations.MailboxOperations := by
  intro s side ch hreach
  refine ⟨fun hst => ?_, fun hst => ?_, fun hst hholds => ⟨fun hidle => ?_, fun e hdue hrun => ?_, fun off data => ?_, ?_⟩, fun hno => ?_,
    fun hst hposter => ⟨fun hidle => ?_, fun e hdue hrun => ?_⟩, fun hno => ?_, fun hst hholds => ⟨fun hidle => ?_, fun e hdue hrun => ?_⟩,
    fun hno => ?_⟩
  · have hf : ∃ x, mbxClaim side (s.mbx ch) = some x ∧ x.state = 1 ∧ holdsMbx x side = true ∧ x.msg = (s.mbx ch).msg ∧
        x.doorbell = (s.mbx ch).doorbell ∧ x.hostEnable = (s.mbx ch).hostEnable := by
      cases side <;> exact ⟨_, if_neg (not_not.2 hst), rfl, by simp [holdsMbx], rfl, rfl, rfl⟩
    obtain ⟨x, hf, hst', hholds, hmsg, hbell, hen⟩ := hf
    refine completes_mbxOp_quiet rfl hreach hf (.inr (by omega)) hbell hen fun t ht hmem hents => ?_
    rw [ht]
    exact ⟨hst', hholds, hmsg, hbell, hmem, hents⟩
  · exact completes_violation rfl hreach (if_pos hst)
  · exact completes_mbxOp_quiet rfl hreach (if_pos ⟨hst, hholds⟩) (.inl hidle) rfl rfl fun t ht hmem hents => ⟨ht, hmem, hents⟩
  · exact completes_mbxOp_answered rfl hreach (if_pos ⟨hst, hholds⟩) rfl hdue hrun
  · refine completes_mbxOp_quiet rfl hreach (if_pos ⟨hst, hholds⟩) (.inr (by simp [hst])) rfl rfl fun t ht hmem hents => ?_
    rw [ht]
    refine ⟨fun j h1 h2 h3 h4 => ?_, fun j hj => ?_, hst, hmem, hents⟩
    · exact (msgWrite_byte ..).trans (if_pos ⟨h1, h2, h3, h4⟩)
    · exact (msgWrite_byte ..).trans (if_neg (by omega))
  · refine completes_mbxOp rfl hreach (if_pos ⟨hst, hholds⟩) (.inr (by simp [State.mbxPosted])) fun t ht hmem => ?_
    rw [ht]
    exact ⟨rfl, rfl, bits_setBits .., rfl, setBits_div .., rfl, hmem⟩
  · have hno' : ¬((s.mbx ch).state = 1 ∧ holdsMbx (s.mbx ch) side = true) := by
      rintro ⟨hst, hholds⟩
      rcases hno with h | h
      · exact h hst
      · exact absurd (hholds.symm.trans h) (by decide)
    exact ⟨completes_violation rfl hreach (if_neg hno'), completes_violation rfl hreach (if_neg hno'),
      fun _ _ => completes_violation rfl hreach (if_neg hno')⟩
  · refine completes_mbxOp rfl hreach (if_pos ⟨hst, hposter⟩) (.inl hidle) fun t ht hmem => ?_
    rw [ht]
    exact ⟨rfl, emptied_bell _, rfl, hmem⟩
  · exact completes_mbxOp_answered rfl hreach (if_pos ⟨hst, hposter⟩) rfl hdue hrun
  · exact completes_violation rfl hreach (if_neg fun h => hno.elim (· h.1) (h.2 ·))
  · refine completes_mbxOp rfl hreach (if_pos ⟨hst, hholds⟩) (.inl hidle) fun t ht hmem => ?_
    rw [ht]
    exact ⟨rfl, emptied_bell _, rfl, hmem⟩
  · exact completes_mbxOp_answered rfl hreach (if_pos ⟨hst, hholds⟩) rfl hdue hrun
  · refine completes_violation rfl hreach (if_neg fun h => ?_)
    rcases hno with hst | hholds
    · exact hst h.1
    · exact absurd (h.2.symm.trans hholds) (by decide)

/-! ### DOORBELL, the enables and timeouts (R412, R416) -/

theorem bellBits_word (v : BitVec 32) : bellBits v.toNat = newBits v.toNat 3 := by rw [bellBits, Nat.mod_eq_of_lt v.isLt]

/-- A post of the host as its timeout leaves it. -/
def Mbx.returned (x : Mbx) : Mbx := { x with swStatus := 1 + bits x.msg 80 8 * 2 ^ 8, doorbell := x.doorbell ||| 4 }

/-- What a timeout does to a post of the host and to one of the saddle. -/
theorem mbxLate_run {s : State} {c : Nat} (hrun : s.fwRuns = true) (hst : (s.mbx c).state = 2) :
    (Act.mbxLate c).run s = if (s.mbx c).poster = 0 then (Act.count .hostCount (s.mbxFn c) 3).run ((Act.mbxTo c (s.mbx c).returned).run s)
      else (Act.mailPump c).run ((Act.count .hostCount (s.mbxFn c) 4).run ((Act.mbxTo c (s.mbx c).emptied).run s)) := by
  have hgo : (s.fwRuns && (s.mbx c).state == 2) = true := by simp [hrun, hst]
  have hwhen : (Act.mbxLate c).run s = (Act.when (s.fwRuns && (s.mbx c).state == 2) (if (s.mbx c).poster = 0 then
      .seq (.mbxTo c (s.mbx c).returned) (.count .hostCount (s.mbxFn c) 3)
    else .all [.mbxTo c (s.mbx c).emptied, .count .hostCount (s.mbxFn c) 4, .mailPump c])).run s := rfl
  rw [hwhen, hgo, Act.when_true, Act.run_ite]
  rfl

/-- A post that was not taken in time, where no answer waits for the channel: the channel as `x` leaves it, and one counter more. -/
theorem mbxTo_count (s : State) (c : Nat) (x : Mbx) {k : Nat} (hk : k < 7) :
    let t := (Act.count .hostCount (s.mbxFn c) k).run ((Act.mbxTo c x).run s)
    t.mbx c = x ∧ t.u.host.mailDue = s.u.host.mailDue ∧
      t.cnt .hostCount (s.mbxFn c) k = (s.cnt .hostCount (s.mbxFn c) k + 1) % 2 ^ 64 ∧ SameMem s t := by
  intro t
  have hview : t.mailView = _ := (Act.count_keepsMail .hostCount (s.mbxFn c) k 1 _).trans (mbxTo_view s c x)
  refine ⟨?_, congrArg (fun v => v.2.1) hview, ?_,
    sameMem_of_stores fun m => (Act.count_keeps_store m _).trans (Act.mbxTo_keepsStore c x m s)⟩
  · simp only [State.mbx, show t.u.host.mbx = _ from congrArg Prod.fst hview, tgetD_tset_same]
  · exact (State.cnt_count _ (Settable.of_vol _ (s.mbxFn_lt c) rfl) (by show 8 * k + 8 ≤ 64; omega)).trans (by rw [mbxTo_cnt s c x hk])

/-- Settles O33. -/
theorem doorbellRegistersAndTimeouts : Obligations.DoorbellRegistersAndTimeouts := by
  intro s ch hidle
  refine ⟨fun side v hreach => ⟨?_, ?_, ?_, fun k => ?_⟩, fun hrun hst => ⟨fun hhost => ?_, fun hsaddle => ?_⟩, fun fn hreach hst => ?_,
    fun fn hreach hst _ hholder => ?_, fun hrun => ?_⟩
  · refine completes_mbxOp rfl hreach rfl (.inl hidle) fun t ht hmem => ?_
    rw [ht, ← bellBits_word]
    exact ⟨rfl, hmem⟩
  · refine completes_mbxOp rfl hreach rfl (.inl hidle) fun t ht hmem => ?_
    rw [ht, ← bellBits_word]
    exact ⟨rfl, hmem⟩
  · refine completes_mbxOp rfl hreach rfl (.inl hidle) fun t ht hmem => ?_
    rw [ht]
    exact ⟨rfl, rfl, hmem⟩
  · refine completes_mbxOp rfl hreach rfl (.inl hidle) fun t ht hmem => ?_
    rw [ht]
    cases side with
    | host fn => exact ⟨fun _ => rfl, rfl, rfl, hmem⟩
    | core k' =>
      refine ⟨fun j => ?_, rfl, rfl, hmem⟩
      simp only [mbxEnable, Mbx.enable, tgetD, tget_tset]
      split <;> rfl
  · obtain ⟨hmbx, -, hcnt, hmem⟩ := mbxTo_count s ch (s.mbx ch).returned (k := 3) (by decide)
    refine ⟨_, congrArg Host.Outcome.next ((mbxLate_run hrun hst).trans (if_pos hhost)), ?_⟩
    simp only [hmbx]
    exact ⟨hst, rfl, rfl, hcnt, hmem⟩
  · obtain ⟨hmbx, hdue, hcnt, hmem⟩ := mbxTo_count s ch (s.mbx ch).emptied (k := 4) (by decide)
    refine ⟨_, congrArg Host.Outcome.next ((mbxLate_run hrun hst).trans ((if_neg hsaddle).trans (mailPump_idle (by rwa [hdue])))), ?_⟩
    simp only [hmbx]
    exact ⟨rfl, emptied_bell _, hcnt, hmem⟩
  · refine completes_mbxOp rfl hreach (if_neg (not_not.2 hst)) (.inl hidle) fun t ht hmem => ?_
    rw [ht]
    exact ⟨rfl, rfl, hmem⟩
  · refine completes_mbxOp rfl hreach (if_pos ⟨hst, by simp [holdsMbx, hholder]⟩) (.inl hidle) fun t ht hmem => ?_
    rw [ht]
    exact ⟨rfl, hmem⟩
  · refine ⟨s, ?_, rfl, fun _ _ _ => rfl, fun _ _ _ _ => rfl⟩
    simp only [exec, execMbxTimeout, Act.mbxLate, Act.outcome_eq, Act.run_get, hrun, Bool.false_and, Act.when_false, Act.run_skip]

end Sys2Proof.Machine
end

section
/-! SUPPORT. The MCTP endpoint's control answers (R451) and what the SPDM responder says and signs (R511 to R515). -/

namespace Sys2Proof.Machine

/-! ### MCTP control -/

theorem Act.raiseSrc_touches {l : List (EName × Nat)} (src : Nat) : (Act.raiseSrc src).Touches l := touches_host _
theorem Act.mctp_touches {l : List (EName × Nat)} (code : Nat) (data : List Nat) : (Act.mctp code data).Touches l :=
  touches_get fun _ => touches_when (touches_seq (raiseSrc_touches _) (touches_out _))

theorem mctp_outbox {s : State} (hopen : s.pathOpen (.bmc 0) = true) (code : Nat) (data : List Nat) :
    ((Act.mctp code data).run s).u.outbox = s.u.outbox ++ [.mctp code data] := by
  simp only [Act.mctp, Act.run_get, hopen, Act.when_true, Act.run_seq]
  rfl

/-- A control command that is answered without more. -/
theorem completes_mctp {s : State} {i : Instr} {code : Nat} {data : List Nat} (hi : exec i s = .next ((Act.mctp code data).run s))
    (hopen : s.pathOpen (.bmc 0) = true) :
    Completes i s fun t => t.u.outbox = s.u.outbox ++ [.mctp code data] ∧ SameMem s t ∧ SameEntriesBut [] s t :=
  ⟨_, hi, mctp_outbox hopen code data, Act.mctp_touches code data s⟩

/-- A control command whose answer holds a free value. -/
theorem completes_mctp_draw {s : State} {i : Instr} {code : Nat} {data : Nat → List Nat}
    (hi : exec i s = .next ((Act.draw fun v => .mctp code (data v)).run s)) (hopen : s.pathOpen (.bmc 0) = true) :
    Completes i s fun t => ∃ v, t.u.outbox = s.u.outbox ++ [.mctp code (data v)] ∧ SameMem s t ∧ SameEntriesBut [] s t :=
  ⟨_, hi, _, mctp_outbox (s := { s with u := { s.u with free := s.u.free + 1 } }) hopen code _,
    Act.touches_draw (fun _ => Act.mctp_touches _ _) s⟩

/-- Settles O41. -/
theorem mctpControlAnswers : Obligations.MctpControlAnswers := by
  intro s hopen
  refine ⟨fun eid h0 h255 => ?_, completes_mctp rfl hopen, fun k hk => ?_, fun k hk => ?_, completes_mctp rfl hopen,
    completes_mctp_draw rfl hopen⟩
  · let a : Act := .seq (.reg .mctpEid 0 eid.toNat) (.mctp 1 [0, 0, eid.toNat, 0])
    have hrun : exec (.setEndpointId eid) s = .next (a.run s) := by
      simp only [exec, execSetEndpointId, if_neg (not_or.2 ⟨h0, h255⟩), Act.outcome_eq, Act.run_seq, Act.run_get, hopen, Act.when_true, a]
    have hset : Settable s .mctpEid 0 := ⟨by decide, by decide, fun h => absurd h (by decide)⟩
    have hopen' : ((Act.reg .mctpEid 0 eid.toNat).run s).pathOpen (.bmc 0) = true := by
      simpa only [State.pathOpen, Act.run_reg_u] using hopen
    obtain ⟨hmem, hents⟩ := (Act.touches_seq (Act.touches_reg (by simp)) (Act.mctp_touches _ _) : a.Touches [(.mctpEid, 0)]) s
    refine ⟨_, hrun, ?_, (mctp_outbox hopen' _ _).trans (by rw [Act.run_reg_u]), hmem, hents⟩
    have hkeep := (Act.mctp_touches (l := []) 1 [0, 0, eid.toNat, 0]).rd (n := .mctpEid) (i := 0) (by decide) (by simp)
      ((Act.reg .mctpEid 0 eid.toNat).run s)
    exact hkeep.trans ((s.rd_reg _ hset).trans (Nat.mod_eq_of_lt eid.isLt))
  · exact completes_mctp_draw (data := fun v => [0, 1, v])
      (by simp only [exec, execGetMctpVersionSupport, List.contains_iff_mem.2 hk, if_true, Act.outcome_eq]) hopen
  · obtain ⟨t, ht, hout, hmem, -⟩ := completes_mctp (s := s) (i := .getMctpVersionSupport k) (code := 4) (data := [0x80])
      (by rw [show exec (.getMctpVersionSupport k) s = (if [0xFF, 0x00, 0x05, 0x7F].contains k.toNat then _ else _ : Act).outcome s from rfl,
        if_neg (by rwa [List.contains_iff_mem])]; rfl) hopen
    exact ⟨t, ht, hout, hmem⟩

/-! ### SPDM: a request comes in -/

/-- The state as a request on a transport finds it: its source raised and the request counted. -/
def State.spdmIn (s : State) (tp : Transport) : State := (Act.count .spdmCount 0 (tpNo tp)).run ((Act.raiseSrc (109 + tpNo tp)).run s)

theorem spdmIn_touches (tp : Transport) :
    (Act.seq (.raiseSrc (109 + tpNo tp)) (.count .spdmCount 0 (tpNo tp))).Touches [(.spdmCount, 0)] :=
  Act.touches_seq (Act.raiseSrc_touches _) (Act.touches_count (by simp))

theorem State.spdmIn_frame (s : State) (tp : Transport) : SameMem s (s.spdmIn tp) ∧ SameEntriesBut [(.spdmCount, 0)] s (s.spdmIn tp) :=
  spdmIn_touches tp s

theorem State.spdmIn_u (s : State) (tp : Transport) :
    (s.spdmIn tp).u = { s.u with host := { s.u.host with raised := sadd s.u.host.raised (109 + tpNo tp) } } :=
  (Act.count_keeps_u (g := id)) _

theorem State.spdmIn_cnt (s : State) (tp : Transport) : (s.spdmIn tp).cnt .spdmCount 0 2 = s.cnt .spdmCount 0 2 := by
  refine (State.cnt_count_apart _ (Settable.of_vol _ (by decide) rfl) (by decide) ?_).trans rfl
  cases tp <;> decide

theorem SpdmHere.awake {s : State} {tp : Transport} (h : SpdmHere s tp) : s.u.pow.deep = false := by
  have hrun := h.1
  simp only [State.fwRuns, Bool.and_eq_true, Bool.not_eq_true'] at hrun
  exact hrun.2

theorem spdmReq_run {s : State} {tp : Transport} (h : SpdmHere s tp) (a : Act) : (Act.spdmReq tp a).run s = a.run (s.spdmIn tp) := by
  have hdeep := h.awake
  obtain ⟨hrun, hhere⟩ := h
  cases tp <;>
    simp only [Act.spdmReq, Act.run_get, hhere, Bool.and_self, Act.when_true, Act.run_all_cons, Act.run_all_nil, hdeep, Bool.not_false, hrun,
      if_true, State.spdmIn]

/-- A request in its stage of the negotiation. -/
theorem spdmAt_run {s : State} {tp : Transport} {stage : Nat} (h : SpdmHere s tp) (hst : (s.spdm tp).stage = stage) (a : Act) :
    (Act.spdmAt tp stage a).run s = a.run (s.spdmIn tp) := by
  rw [Act.spdmAt, spdmReq_run h, Act.run_get, if_pos (by simpa only [State.spdm, State.spdmIn_u] using hst)]

/-! ### Answers -/

theorem Act.spdm_touches {l : List (EName × Nat)} (tp : Transport) (f : Spdm → Spdm) : (Act.spdm tp f).Touches l :=
  touches_units fun _ => ⟨rfl, rfl⟩

@[simp] theorem State.spdm_spdm (s : State) (tp : Transport) (f : Spdm → Spdm) : ((Act.spdm tp f).run s).spdm tp = f (s.spdm tp) := by
  simp [Act.spdm, State.spdm]

theorem sameMem_trans {s t u : State} (h : SameMem s t) (h' : SameMem t u) : SameMem s u := fun m a n => (h' m a n).trans (h m a n)

/-- An answer about certificates goes out after what the request left of the queue of answers. -/
theorem spdmCert_run (s : State) (tp : Transport) (req : List Byte) (code p1 p2 : Nat) (data : List Byte) :
    ((Act.spdmCert tp req code p1 p2 data).run (s.spdmIn tp)).u.outbox = s.u.outbox ++ [.spdm tp code p1 p2 data] ∧
      SameMem s ((Act.spdmCert tp req code p1 p2 data).run (s.spdmIn tp)) := by
  refine ⟨?_, sameMem_trans (s.spdmIn_frame tp).1 (Act.touches_seq (l := []) (Act.spdm_touches _ _) (Act.touches_out _) _).1⟩
  show (s.spdmIn tp).u.outbox ++ _ = _
  rw [State.spdmIn_u]

/-- An answer with a signature: it counts, the security block's source is raised, and the transcript that `f` keeps goes on. -/
theorem signed_run (s : State) (tp : Transport) (transcript : List Byte) (f : Spdm → Spdm) (code p1 p2 : Nat) (body : List Byte) :
    let t := (Act.signed transcript fun sig => .seq (.spdm tp f) (.out (.spdm tp code p1 p2 (body ++ sig)))).run s
    t.u.outbox = s.u.outbox ++ [.spdm tp code p1 p2 (body ++ leBytes 64 (Config.sm2Sign (Config.sm3 transcript)))] ∧
      t.cnt .spdmCount 0 2 = (s.cnt .spdmCount 0 2 + 1) % 2 ^ 64 ∧ t.spdm tp = f (s.spdm tp) ∧ SameMem s t := by
  intro t
  have hu : ((Act.count .spdmCount 0 2).run s).u = s.u := (Act.count_keeps_u (g := id)) s
  have htouch : (Act.all [.raiseSrc 142, .seq (.spdm tp f)
      (.out (.spdm tp code p1 p2 (body ++ leBytes 64 (Config.sm2Sign (Config.sm3 transcript)))))]).Touches [] :=
    Act.touches_all fun a ha => by
      simp only [List.mem_cons, List.not_mem_nil, or_false] at ha
      rcases ha with rfl | rfl
      · exact Act.raiseSrc_touches _
      · exact Act.touches_seq (Act.spdm_touches _ _) (Act.touches_out _)
  obtain ⟨hmem, hents⟩ := htouch ((Act.count .spdmCount 0 2).run s)
  refine ⟨?_, ?_, ?_, sameMem_trans (sameMem_of_stores fun m => Act.count_keeps_store m s) hmem⟩
  · show ((Act.count .spdmCount 0 2).run s).u.outbox ++ _ = _
    rw [hu]
  · have hcnt : t.cnt .spdmCount 0 2 = ((Act.count .spdmCount 0 2).run s).cnt .spdmCount 0 2 := by
      show bits (t.rd .spdmCount 0) _ _ = bits (State.rd _ .spdmCount 0) _ _
      exact congrArg (bits · _ _) (hents .spdmCount 0 (by decide) (by simp))
    rw [hcnt]
    exact s.cnt_count (Settable.of_vol _ (by decide) rfl) (by decide)
  · have hspdm : ((Act.raiseSrc 142).run ((Act.count .spdmCount 0 2).run s)).spdm tp = s.spdm tp := by
      show tgetD ((Act.count .spdmCount 0 2).run s).u.spdm (tpNo tp) {} = _
      rw [hu, State.spdm]
    exact (State.spdm_spdm _ tp f).trans (congrArg f hspdm)

/-- A request does not change what is measured. -/
theorem measurement_spdmIn (s : State) (tp : Transport) (i : Nat) : (s.spdmIn tp).measurement i = s.measurement i := by
  have hrd : ∀ {n : EName} {j : Nat}, j < n.count → n ≠ .spdmCount → (s.spdmIn tp).rd n j = s.rd n j := fun hj hn =>
    (s.spdmIn_frame tp).2 _ _ hj (by simp [hn])
  have hslots : ((List.range 8).flatMap fun k => leBytes 80 ((s.spdmIn tp).rd .keySlot k)) =
      (List.range 8).flatMap fun k => leBytes 80 (s.rd .keySlot k) :=
    List.flatMap_congr fun k hk => by rw [hrd (List.mem_range.1 hk) (by decide)]
  have hboot : (s.spdmIn tp).bootShown = s.bootShown := by
    simp only [State.bootShown, State.spdmIn_u, hrd (n := .bootStatus) (j := 0) (by decide) (by decide), State.safeMode, State.now, Units.time] <;> rfl
  simp only [State.measurement, State.policyRuns, State.policy, State.svnFloor, State.spdmIn_u, hslots, hboot,
    hrd (n := .policyState) (j := 0) (by decide) (by decide), hrd (n := .policyState) (j := 1) (by decide) (by decide),
    hrd (n := .enrollFreeze) (j := 0) (by decide) (by decide), hrd (n := .debugState) (j := 0) (by decide) (by decide),
    hrd (n := .debugAllow) (j := 0) (by decide) (by decide), hrd (n := .strapRaw) (j := 0) (by decide) (by decide)] <;> rfl

theorem measBlock_spdmIn (s : State) (tp : Transport) (i : Nat) : (s.spdmIn tp).measBlock i = s.measBlock i := by
  simp only [State.measBlock, measurement_spdmIn]

/-- A request that is answered with a signature, over a free value too. -/
theorem completes_signed {s : State} {tp : Transport} {i : Instr} {code p1 p2 : Nat} {body transcript : Nat → List Byte} {f : Spdm → Spdm}
    (hi : exec i s = .next ((Act.draw fun v => .signed (transcript v) fun sig =>
      .seq (.spdm tp f) (.out (.spdm tp code p1 p2 (body v ++ sig)))).run (s.spdmIn tp))) :
    Completes i s fun t => (∃ v, t.u.outbox = s.u.outbox ++
        [.spdm tp code p1 p2 (body v ++ leBytes 64 (Config.sm2Sign (Config.sm3 (transcript v))))]) ∧
      t.cnt .spdmCount 0 2 = (s.cnt .spdmCount 0 2 + 1) % 2 ^ 64 ∧ t.spdm tp = f (s.spdm tp) ∧ SameMem s t := by
  let s' : State := { s.spdmIn tp with u := { (s.spdmIn tp).u with free := (s.spdmIn tp).u.free + 1 } }
  let v := Config.freeValue (s.spdmIn tp).u.free
  obtain ⟨hout, hcnt, hspdm, hmem⟩ := signed_run s' tp (transcript v) f code p1 p2 (body v)
  have hout' : s'.u.outbox = s.u.outbox := by simp only [s', State.spdmIn_u]
  have hspdm' : s'.spdm tp = s.spdm tp := by simp only [s', State.spdm, State.spdmIn_u]
  have hcnt' : s'.cnt .spdmCount 0 2 = s.cnt .spdmCount 0 2 := s.spdmIn_cnt tp
  have hmem' : SameMem s s' :=
    sameMem_trans (s.spdmIn_frame tp).1 (Act.touches_units (l := []) (f := fun u => { u with free := u.free + 1 }) (fun _ => ⟨rfl, rfl⟩) _).1
  exact ⟨_, hi, ⟨v, hout.trans (by rw [hout'])⟩, hcnt.trans (by rw [hcnt']), hspdm.trans (by rw [hspdm']), sameMem_trans hmem' hmem⟩

/-- Settles O43. -/
theorem spdmAttests : Obligations.SpdmAttests := by
  intro s tp hhere hst hflash
  have hflash' : (s.spdmIn tp).u.pow.flashOk = true := by simpa only [State.spdmIn_u] using hflash
  refine ⟨?_, fun off len hoff => ?_, fun nonce => ?_, fun nonce => ?_⟩
  · refine ⟨_, ?_, spdmCert_run s tp (spdmBytes 0x81 0 0 []) 0x01 0 1 chainDigest⟩
    simp only [exec, execGetDigests, Act.outcome_eq, spdmAt_run hhere hst, hflash, if_true]
  · refine ⟨_, ?_, spdmCert_run s tp (spdmBytes 0x82 0 0 (leBytes 2 off.toNat ++ leBytes 2 len.toNat)) 0x02 0 0 _⟩
    simp only [exec, execGetCertificate, Act.outcome_eq, spdmAt_run hhere hst, hflash, Bool.not_true, Bool.false_eq_true, if_false,
      show ¬((0 : Fin 8).val ≠ 0) from fun h => h rfl, Nat.not_le.2 hoff]
  · obtain ⟨t, ht, ⟨v, hout⟩, hcnt, hspdm, hmem⟩ := completes_signed (s := s) (tp := tp) (i := .challenge tp 0 nonce) (code := 0x03) (p1 := 0)
      (p2 := 1) (body := fun v => chainDigest ++ leBytes 32 v ++ leBytes 2 0)
      (transcript := fun v => (s.spdm tp).vca ++ (s.spdm tp).said ++ spdmBytes 0x83 0 0 (leBytes 32 nonce.toNat) ++
        spdmBytes 0x03 0 1 (chainDigest ++ leBytes 32 v ++ leBytes 2 0))
      (f := fun x => { x with said := [] }) (by
        simp only [exec, execChallenge, Act.outcome_eq, spdmAt_run hhere hst, hflash, Bool.not_true, Bool.false_eq_true, if_false,
          show ¬((0 : Fin 8).val ≠ 0) from fun h => h rfl])
    exact ⟨t, ht, ⟨v, hout⟩, hcnt, by rw [hspdm], hmem⟩
  · obtain ⟨t, ht, ⟨v, hout⟩, hcnt, hspdm, hmem⟩ := completes_signed (s := s) (tp := tp) (i := .getMeasurements tp 255 true nonce) (code := 0x60)
      (p1 := 0) (p2 := 0)
      (body := fun v => leBytes 1 8 ++ leBytes 3 ([1, 2, 3, 4, 5, 6, 7, 8].flatMap s.measBlock).length ++
        [1, 2, 3, 4, 5, 6, 7, 8].flatMap s.measBlock ++ leBytes 32 v ++ leBytes 2 0)
      (transcript := fun v => (s.spdm tp).vca ++ ((s.spdm tp).meas ++ spdmBytes 0xE0 1 255 (leBytes 32 nonce.toNat) ++ spdmBytes 0x60 0 0
        (leBytes 1 8 ++ leBytes 3 ([1, 2, 3, 4, 5, 6, 7, 8].flatMap s.measBlock).length ++
          [1, 2, 3, 4, 5, 6, 7, 8].flatMap s.measBlock ++ leBytes 32 v ++ leBytes 2 0)))
      (f := fun x => { x with meas := [] }) (by
        have hblocks : (s.spdmIn tp).measBlock = s.measBlock := funext (measBlock_spdmIn s tp)
        have hspdm : (s.spdmIn tp).spdm tp = s.spdm tp := by simp only [State.spdm, State.spdmIn_u]
        simp only [exec, execGetMeasurements, Act.outcome_eq, spdmAt_run hhere hst, Act.run_get, hflash', hblocks, hspdm]
        rfl)
    exact ⟨t, ht, ⟨v, hout⟩, hcnt, by rw [hspdm], hmem⟩

end Sys2Proof.Machine
end

section
/-! SUPPORT. The PCIe link, ATS and the MSI-X table (R402 to R405, R419, R420). -/

namespace Sys2Proof.Machine

theorem Act.touches_pow {l : List (EName × Nat)} {f : PowU → PowU} (h : ∀ p, (f p).flashOk = p.flashOk ∧ (f p).straps = p.straps) :
    (Act.pow f).Touches l := touches_units fun u => h u.pow

theorem mem_sadd_iff {α : Type} [BEq α] [LawfulBEq α] {l : List α} {x y : α} : x ∈ sadd l y ↔ x ∈ l ∨ x = y := by
  unfold sadd
  split
  · next h =>
    refine ⟨.inl, fun hx => hx.elim id fun e => ?_⟩
    rw [e]; exact List.contains_iff_mem.1 h
  · simp

/-! ### ATS and configuration requests -/

/-- What an invalidation leaves of the host's refusals. -/
def refusals (fn : Nat) (deny : List (BitVec 52 × Bool)) (old : List (Nat × Nat × Bool)) : List (Nat × Nat × Bool) :=
  old.filter (fun d => d.1 != fn) ++ deny.map fun d => (fn, d.1.toNat, d.2)

theorem mem_refusals_own {fn a : Nat} {w : Bool} {deny : List (BitVec 52 × Bool)} {old : List (Nat × Nat × Bool)} :
    (fn, a, w) ∈ refusals fn deny old ↔ ∃ d ∈ deny, d.1.toNat = a ∧ d.2 = w := by
  simp [refusals]

theorem mem_refusals_other {fn : Nat} {x : Nat × Nat × Bool} {deny : List (BitVec 52 × Bool)} {old : List (Nat × Nat × Bool)} (hx : x.1 ≠ fn) :
    x ∈ refusals fn deny old ↔ x ∈ old := by
  have hnot : ¬∃ d ∈ deny, (fn, d.1.toNat, d.2) = x := fun ⟨d, _, hd⟩ => hx (by rw [← hd])
  simp only [refusals, List.mem_append, List.mem_filter, bne_iff_ne, ne_eq, hx, not_false_eq_true, and_true, List.mem_map, hnot, or_false]

/-- A configuration request that is answered with success. -/
theorem config_ok {s : State} {fn : Nat} (hlink : s.u.pow.linkUp = true) (hok : s.configOk fn = true) (w : Option CfgWrite) :
    (Act.config fn w).run s = { s with u := { s.u with outbox := s.u.outbox ++ [.confOk fn]
                                                       host := match w with | some x => s.u.host.configured fn x | none => s.u.host } } := by
  cases w <;> simp only [Act.config, Act.run_get, hlink, hok, Act.when_true, if_true, Act.run_seq, Act.run_out, Act.run_host, Act.run_skip]

theorem config_retry {s : State} {fn : Nat} (hlink : s.u.pow.linkUp = true) (hok : s.configOk fn = false) (w : Option CfgWrite) :
    (Act.config fn w).run s = (Act.out (.retryStatus fn)).run s := by
  cases w <;> simp only [Act.config, Act.run_get, hlink, hok, Act.when_true, Act.when_false, Bool.false_eq_true, if_false, Act.run_seq, Act.run_skip]

/-! ### A link change and the cairn -/

/-- What a cairn is written from stays one while it is written. -/
theorem cairnGo_some {s : State} (h : s.u.svc.cairn.isSome = true) (n : Nat) : ((Act.cairnGo n).run s).u.svc.cairn.isSome = true := by
  simp only [Act.cairnGo, Act.run_get]
  split
  · exact h
  · rfl

theorem cairnSome_some {s : State} (h : s.u.svc.cairn.isSome = true) : (Act.cairnSome.run s).u.svc.cairn.isSome = true := by
  simp only [Act.cairnSome, Act.run_get, Act.run_when]
  split
  · exact cairnGo_some (s := { s with u := { s.u with free := s.u.free + 1 } }) h _
  · exact h

theorem cairnCut_none {s : State} (h : s.u.svc.cairn = none) : Act.cairnCut.run s = s := by
  simp only [Act.cairnCut, Act.run_get, h, Option.any_none, Act.when_false, Act.run_skip]

/-- A link failure leaves a cairn whose mirror has ended, with the bytes that it had before or as it ends now. -/
theorem cairnCut_cut {s : State} {c : Cairn} (h : s.u.svc.cairn = some c) :
    ∃ c' n, (Act.cairnCut.run s).u.svc.cairn = some c' ∧ c'.cut = some n ∧ (c.cut = some n ∨ c.cut = none) := by
  simp only [Act.cairnCut, Act.run_get, h, Option.any_some]
  cases hcut : c.cut with
  | some n => exact ⟨c, n, by simp [h], hcut, .inl rfl⟩
  | none =>
    obtain ⟨c', hc'⟩ := Option.isSome_iff_exists.1 (cairnSome_some (s := s) (by rw [h]; rfl))
    exact ⟨{ c' with cut := some ((Act.cairnSome.run s).mirrored c') }, _, by simp [hc'], rfl, .inr rfl⟩

theorem linkChange_run {s : State} (up : Bool) (hpower : s.u.pow.power = true) (hseen : s.u.pow.perstSeen = true)
    (hdeep : s.u.pow.deep = false) (hperst : s.u.pow.perst = false) :
    (Act.linkChange up).run s = (Act.raiseSrc 104).run ((Act.pow fun p => { p with linkUp := up }).run ((Act.when (!up) .cairnCut).run s)) := by
  simp only [Act.linkChange, Act.run_get, hpower, hseen, hdeep, hperst, Bool.not_false, Bool.and_self, Act.when_true, Act.run_all_cons,
    Act.run_all_nil]

/-! ### The MSI-X table -/

/-- A table entry as a write leaves it. -/
def State.vecWritten (s : State) (fn v : Nat) (x : Vec) : State := { s with u := { s.u with host := { s.u.host with vecs := tset s.u.host.vecs (fn * 2048 + v) x } } }

theorem State.vec_vecWritten (s : State) (fn v : Nat) (x : Vec) : (s.vecWritten fn v x).vec fn v = x := by
  simp [State.vecWritten, State.vec]

/-- A message goes out on a vector that is not masked, and counts. -/
theorem msix_sent {s : State} {fn v : Nat} (hv : v < vecCount fn) (hmask : (s.vec fn v).masked = false) (hlink : s.u.pow.linkUp = true) :
    (Act.msix fn v).run s = (Act.count .hostCount fn 7).run ((Act.out (.msix fn v)).run s) := by
  simp only [Act.msix, Act.run_get, if_neg (Nat.not_le.2 hv), hmask, Bool.false_eq_true, if_false, hlink, if_true, Act.run_seq]

theorem unmask_run {s : State} {fn v : Nat} (hreach : s.hostReach = true) (hv : v < vecCount fn) (mask : Bool)
    (w : Option (W64 × BitVec 32)) :
    (Act.unmask fn v mask w).run s =
      (Act.when (!mask && (s.vec fn v).pending) (.msix fn v)).run (s.vecWritten fn v ((s.vec fn v).written mask w)) := by
  simp only [Act.unmask, Act.run_get, hreach, decide_eq_true hv, Bool.and_self, Act.when_true, Act.run_seq]
  rfl

/-- The message that a write gives is the entry's, and without one the entry keeps its own. -/
theorem written_message (x : Vec) (mask : Bool) (w : Option (W64 × BitVec 32)) :
    (w = none → (x.written mask w).addr = x.addr ∧ (x.written mask w).data = x.data) ∧
      ∀ a d, w = some (a, d) → (x.written mask w).addr = a.toNat ∧ (x.written mask w).data = d.toNat := by
  constructor
  · rintro rfl; exact ⟨rfl, rfl⟩
  · rintro a d rfl; exact ⟨rfl, rfl⟩

theorem cnt_lt (s : State) (n : EName) (i k : Nat) : s.cnt n i k < 2 ^ 64 := bits_lt _ _ 64

/-- What unmasking a vector does: the entry, and the message that was pending. -/
theorem unmask_open {s : State} {fn v : Nat} (hfn : fn < 32) (hreach : s.hostReach = true) (hv : v < vecCount fn)
    (w : Option (W64 × BitVec 32)) :
    let t := (Act.unmask fn v false w).run s
    t.vec fn v = (s.vec fn v).written false w ∧
      t.u.outbox = s.u.outbox ++ (if (s.vec fn v).pending = true then [.msix fn v] else []) ∧
      t.cnt .hostCount fn 7 = (s.cnt .hostCount fn 7 + if (s.vec fn v).pending = true then 1 else 0) % 2 ^ 64 ∧ SameMem s t := by
  intro t
  have hvec := s.vec_vecWritten fn v ((s.vec fn v).written false w)
  have hlink : s.u.pow.linkUp = true := (Bool.and_eq_true_iff.1 hreach).2
  have hrun : t = _ := unmask_run hreach hv false w
  cases hp : (s.vec fn v).pending with
  | false =>
    rw [hp, Bool.and_false, Act.when_false, Act.run_skip] at hrun
    rw [hrun]
    refine ⟨hvec, by simp [State.vecWritten], ?_, fun _ _ _ => rfl⟩
    simp only [Bool.false_eq_true, if_false, Nat.add_zero, Nat.mod_eq_of_lt (cnt_lt ..)]
    rfl
  | true =>
    have hu : ∀ x : State, ((Act.count .hostCount fn 7).run x).u = x.u := Act.count_keeps_u (g := id)
    rw [hp, Bool.not_false, Bool.and_self, Act.when_true, msix_sent (s := s.vecWritten fn v _) hv (by rw [hvec]; rfl) hlink] at hrun
    rw [hrun]
    refine ⟨(congrArg (fun u : Units => tgetD u.host.vecs (fn * 2048 + v) {}) (hu _)).trans hvec, ?_, ?_, ?_⟩
    · rw [hu, if_pos rfl]; rfl
    · rw [if_pos rfl]; exact State.cnt_count _ (Settable.of_vol _ hfn rfl) (by decide)
    · exact sameMem_of_stores fun m => (Act.count_keeps_store m _).trans (by cases m <;> rfl)

/-- Settles O31. -/
theorem linkAndVectorEvents : Obligations.LinkAndVectorEvents := by
  intro s fn
  refine ⟨fun hlink deny => ?_, fun hlink w => ⟨fun hready hflr => ?_, fun hno => ?_⟩, fun up hpower hseen hdeep hperst => ?_,
    fun v w hreach hv => ?_, fun v w hreach hv => ?_⟩
  · refine ⟨{ s with u := { s.u with host := { s.u.host with atsDeny := refusals fn.val deny s.u.host.atsDeny }
                                     outbox := s.u.outbox ++ [.atsDone fn.val] } }, ?_, rfl,
      fun a w => mem_refusals_own, fun x hx => mem_refusals_other hx, reads_same _ (fun m => by cases m <;> rfl) rfl rfl rfl⟩
    simp only [exec, execAtsInvalidation, Act.outcome_eq, Act.run_get, hlink, Act.when_true, Act.run_seq, Act.run_host, Act.run_out, refusals]
  · have hok : s.configOk fn.val = true := by
      rcases hready with h | h <;> simp [State.configOk, h, hflr]
    obtain ⟨hmem, hents⟩ : SameMem s ((Act.config fn.val w).run s) ∧ SameEntriesBut [] s ((Act.config fn.val w).run s) := by
      rw [config_ok hlink hok]
      exact reads_same _ (fun m => by cases m <;> rfl) rfl rfl rfl
    refine ⟨_, rfl, ?_⟩
    simp only [config_ok hlink hok] at hmem hents ⊢
    refine ⟨trivial, hmem, hents, ?_, ?_, ?_, ?_⟩
    · rintro rfl; rfl
    · rintro on rfl
      cases on <;> simp [HostU.configured, mem_sadd_iff, mem_sdel]
    · rintro k rfl
      simp only [HostU.configured, Fin.ext_iff, Fin.val_zero]
      split <;> exact ⟨rfl, rfl⟩
    · rintro on rfl
      cases on <;> simp [HostU.configured, mem_sadd_iff, mem_sdel]
  · have hok : s.configOk fn.val = false := by
      rcases hno with ⟨hready, hboot⟩ | hflr
      · simp [State.configOk, hready, hboot]
      · simp [State.configOk, hflr]
    exact ⟨_, congrArg Host.Outcome.next (config_retry hlink hok w), rfl, rfl, Act.touches_out (l := []) _ s⟩
  · refine ⟨_, congrArg Host.Outcome.next (linkChange_run up hpower hseen hdeep hperst), rfl, mem_sadd_iff.2 (.inr rfl), fun h => ?_,
      fun hdown c hc => ?_⟩
    · have hcut : (Act.when (!up) .cairnCut).run s = s := by
        rcases h with rfl | h
        · rfl
        · rw [Act.run_when, cairnCut_none h, ite_self]
      rw [hcut]
      exact reads_same _ (fun m => by cases m <;> rfl) rfl rfl rfl
    · subst hdown
      exact cairnCut_cut hc
  · obtain ⟨hvec, hout, hcnt, hmem⟩ := unmask_open fn.isLt hreach hv w
    refine ⟨_, rfl, ?_⟩
    simp only [hvec]
    exact ⟨rfl, rfl, written_message .., hout, hcnt, hmem⟩
  · refine ⟨_, congrArg Host.Outcome.next (unmask_run hreach hv true w), ?_⟩
    simp only [Bool.not_true, Bool.false_and, Act.when_false, Act.run_skip, State.vec_vecWritten]
    exact ⟨rfl, by simp [Vec.written], written_message .., rfl, reads_same _ (fun m => by cases m <;> rfl) rfl rfl rfl⟩

end Sys2Proof.Machine
end

section
/-! SUPPORT. An early yield where a number that is no context's waits for the slot (R388). -/

namespace Sys2Proof.Machine

/-- A number that is no context's: the key of its CTX_STATE is that of core 3's slot counters. -/
def strayWaiter : Nat := 0x3D80

/-- Context 1 holds slot 1 of core 3, idle, though a bundle of its queue 5 runs. The stray number waits for the slot, with a saved command,
while the counters of core 3 read 1, as the CTX_STATE of a READY context does. -/
def yieldState : State :=
  { State.reset with
    regs := [(EName.ctxState.key 1, 1), (EName.queueCfg.key 5, 1 + 2 ^ 8 + 3 * 2 ^ 18 + 6 * 2 ^ 32), (EName.slotCount.key 3, 1)]
    u := { pow := { ready := true }
           core := { slots := [(3 * 4 + 1, { holder := some 1 })], slotWait := [(3, [strayWaiter])],
                     streams := [(5, { bundle := 1, bun := 1, bunOn := [1] })],
                     cc := [(3 * 1024 + strayWaiter, { saved := [{ q := 6, idx := 0, d := {}, ctx := strayWaiter, core := 3 }] })] } } }

theorem yieldState_waits : (yieldState.slot 3 1).holder = some 1 ∧ yieldState.idleOn 3 1 = true ∧
    (yieldState.nextHolder 3 1).isSome = true ∧ (yieldState.slot 3 1).sliceOver = false ∧ (yieldState.slot 3 1).deferAt = none ∧
    yieldState.bundleRuns 3 1 = true := by decide +kernel

/-- The yield is counted, the number waits no more, and no deferral begins. -/
theorem yieldState_yields : (((Act.earlyYield 3 1).run yieldState).slot 3 1).deferAt = none := by decide +kernel

/-- Refutes O22: its clause on an early yield lets any number wait for the slot. In `yieldState` the key of a waiting number's CTX_STATE is
that of the counters in which the yield counts, so nobody waits once it is counted and no deferral begins, where the statement says that
one does. -/
theorem not_slotsPassOn : ¬ Obligations.SlotsPassOn := by
  unfold Obligations.SlotsPassOn
  rintro ⟨-, -, h⟩
  obtain ⟨hholder, hidle, hnext, hover, hdefer, hbundle⟩ := yieldState_waits
  obtain ⟨-, hyield, -⟩ := h yieldState 3 1 1 hholder
  obtain ⟨t, ht, hslot, -⟩ := hyield hidle hnext hover
  have ht' : (Act.earlyYield 3 1).outcome yieldState = .next t := ht
  obtain rfl := Host.Outcome.next.inj ht'
  have hsince := congrArg Slot.deferAt hslot
  rw [if_pos ⟨hdefer, hbundle⟩] at hsince
  exact absurd (yieldState_yields.symm.trans hsince) (by simp)

end Sys2Proof.Machine
end

section
/-! SUPPORT. Doorbells (R384, R407): kept, counted, or moving TAIL, with the slot that the queue's context then takes. -/

namespace Sys2Proof.Machine

section
variable {s t : State} {core ctx k q : Nat}

/-! ### A slot goes to a context on a core where nothing stands -/

/-- Nothing stands in a core's engines, and no context has saved commands there. -/
structure QuietCore (s : State) (core : Nat) : Prop where
  engines : ∀ e, e < 7 → s.engQ core e = []
  saved : ∀ c, (s.ctxCore core c).saved = []

theorem QuietCore.of_core (h : QuietCore s core) (hq : t.u.core.engQ = s.u.core.engQ) (hc : t.u.core.cc = s.u.core.cc) :
    QuietCore t core :=
  ⟨fun e he => by rw [State.engQ, hq, ← State.engQ, h.engines e he], fun c => by rw [State.ctxCore, hc, ← State.ctxCore, h.saved c]⟩

theorem reenter_same (h : s.reentering core = []) : (Act.reenter core).run s = s := by
  simp only [Act.reenter, Act.run_get, h, Act.run_each_nil]

theorem engine_same {e : Nat} (h : s.engQ core e = []) (n : Nat) : (Act.engine core e (n + 1)).run s = s := by
  simp only [Act.engine, Act.run_get, h, Act.run_skip]

theorem runEngine_same {e : Nat} (h : s.engQ core e = []) : (Act.runEngine core e).run s = s := by
  rw [Act.runEngine, engineFuel_eq]
  exact engine_same h _

theorem runCore_same (h : ∀ e, e < 7 → s.engQ core e = []) : (Act.runCore core).run s = s :=
  Act.run_each_same fun e he => runEngine_same (h e (List.mem_range.1 he))

theorem QuietCore.reentering (h : QuietCore s core) : s.reentering core = [] := by
  simp [State.reentering, h.saved]

/-- Where nothing stands or is saved, a slot that passes on only counts. -/
theorem giveSlot_quiet (h : QuietCore s core) : (Act.giveSlot core k ctx).run s =
    (Act.count .slotCount core 0).run ((Act.core fun c => c.unwait core ctx).run ((Act.slot core k fun _ => { holder := some ctx }).run s)) := by
  have hquiet : QuietCore ((Act.count .slotCount core 0).run
      ((Act.core fun c => c.unwait core ctx).run ((Act.slot core k fun _ => { holder := some ctx }).run s))) core :=
    (h.of_core (t := (Act.core fun c => c.unwait core ctx).run ((Act.slot core k fun _ => { holder := some ctx }).run s)) rfl rfl).of_core
      (Act.count_keeps_u (g := fun u => u.core.engQ) _) (Act.count_keeps_u (g := fun u => u.core.cc) _)
  simp only [Act.giveSlot, Act.run_all_cons, Act.run_all_nil, reenter_same hquiet.reentering, runCore_same hquiet.engines]

/-! ### A queue's work is submitted -/

theorem Act.waitSlot_touches {l : List (EName × Nat)} (core ctx : Nat) : (Act.waitSlot core ctx).Touches l :=
  touches_get fun _ => touches_when (touches_core _)

theorem Act.waitSlot_keepsCore {α : Type} {f : CoreU → α} (h : ∀ c l w, f { c with slotWait := l, waitSince := w } = f c) (core ctx : Nat) :
    (Act.waitSlot core ctx).Keeps fun s => f s.u.core := keeps_get fun _ => keeps_when fun _ _ => h ..

theorem Act.deferNote_touches {l : List (EName × Nat)} (core k : Nat) : (Act.deferNote core k).Touches l := by
  refine touches_get fun _ => ?_
  split
  · exact touches_skip
  · exact touches_when (touches_core _)

theorem giveSlot_frame (h : QuietCore s core) :
    SameMem s ((Act.giveSlot core k ctx).run s) ∧ SameEntriesBut [(.slotCount, core)] s ((Act.giveSlot core k ctx).run s) := by
  have htouch : (Act.all [.slot core k fun _ => { holder := some ctx }, .core fun c => c.unwait core ctx,
      .count .slotCount core 0]).Touches [(.slotCount, core)] := Act.touches_all fun a ha => by
    simp only [List.mem_cons, List.not_mem_nil, or_false] at ha
    obtain rfl | rfl | rfl := ha
    · exact Act.touches_core _
    · exact Act.touches_core _
    · exact Act.touches_count (by simp)
  rw [giveSlot_quiet h]
  exact htouch s

theorem frame_trans {l : List (EName × Nat)} {u : State} (h : SameMem s t ∧ SameEntriesBut l s t) (h' : SameMem t u ∧ SameEntriesBut l t u) :
    SameMem s u ∧ SameEntriesBut l s u :=
  ⟨sameMem_trans h.1 h'.1, fun n i hi hn => (h'.2 n i hi hn).trans (h.2 n i hi hn)⟩

/-- A context that holds a slot wants none; elsewhere one whose core is quiet waits or takes a slot, which counts. -/
theorem wantSlot_frame (h : (s.slotOf core ctx).isSome = true ∨ QuietCore s core) :
    SameMem s ((Act.wantSlot core ctx).run s) ∧ SameEntriesBut [(.slotCount, core)] s ((Act.wantSlot core ctx).run s) := by
  simp only [Act.wantSlot, Act.run_get]
  split
  · exact Act.touches_skip s
  next hslot =>
    have hquiet : QuietCore ((Act.waitSlot core ctx).run s) core := (h.resolve_left hslot).of_core
      (Act.waitSlot_keepsCore (f := CoreU.engQ) (fun _ _ _ => rfl) core ctx s) (Act.waitSlot_keepsCore (f := CoreU.cc) (fun _ _ _ => rfl) core ctx s)
    refine frame_trans (Act.waitSlot_touches core ctx s) ?_
    split
    · rw [Act.run_seq, Act.run_get]
      split
      · exact giveSlot_frame hquiet
      · exact Act.touches_skip _
    · rw [Act.run_seq]
      exact Act.touches_each (fun _ _ => Act.deferNote_touches _ _) _

theorem sameEntries_mono {l l' : List (EName × Nat)} (hl : l ⊆ l') (h : SameMem s t ∧ SameEntriesBut l s t) :
    SameMem s t ∧ SameEntriesBut l' s t := ⟨h.1, fun n i hi hn => h.2 n i hi fun hm => hn (hl hm)⟩

/-- What follows a TAIL that moved: a slot is wanted, or a column wakes. -/
theorem submitted_frame (h : (s.slotOf (s.qCore q) (s.qCtx q)).isSome = true ∨ QuietCore s (s.qCore q)) :
    let t := (Act.submitted q).run s
    SameMem s t ∧ SameEntriesBut [(.columnState, 0), (.slotCount, s.qCore q)] s t := by
  simp only [Act.submitted, Act.run_get, Act.run_when]
  split
  · rw [Act.run_ite]
    split
    · exact sameEntries_mono (by simp) (wantSlot_frame h)
    · exact Act.touches_seq (Act.touches_when (Act.waitSlot_touches _ _)) (Act.touches_when (Act.touches_fld (by simp))) s
  · exact ⟨fun _ _ _ => rfl, fun _ _ _ _ => rfl⟩

/-! ### A doorbell value (R384) -/

theorem State.settable_queueState (s : State) (hq : q < 65536) : Settable s .queueState q := .of_vol s hq rfl

/-- The state once TAIL has moved. -/
def State.rung (s : State) (q v : Nat) : State := (Act.fld .queueState q 4 0 32 v).run s

theorem State.rung_u (s : State) (q v : Nat) : (s.rung q v).u = s.u := Act.fld_keeps_u (g := id) s

theorem State.rung_frame (s : State) (q v : Nat) : SameMem s (s.rung q v) ∧ SameEntriesBut [(.queueState, q)] s (s.rung q v) :=
  Act.touches_fld (by simp) s

theorem State.rung_cfg (s : State) (hq : q < 65536) (v a b c : Nat) : (s.rung q v).fld .queueCfg q a b c = s.fld .queueCfg q a b c :=
  congrArg (bits · _ _) ((s.rung_frame q v).2 .queueCfg q hq (by simp))

/-- A doorbell of the owning function that is acted on. -/
theorem bell_acts {fn v : Nat} (hvalid : s.qValid q = true) (hfn : s.ctxFn (s.qCtx q) = fn)
    (hfatal : s.u.pow.fatal = false) (hfrozen : s.u.svc.frozen = false) (hctx : s.ctxState (s.qCtx q) = 1) :
    (Act.bell fn q v).run s = (Act.when (s.ringOk q v) .napWake).run ((Act.ring q v).run s) := by
  have hmine : (!s.qValid q || s.ctxFn (s.qCtx q) != fn) = false := by simp [hvalid, hfn]
  have hgo : (!s.u.pow.fatal && !s.u.svc.frozen && s.ctxState (s.qCtx q) == 1) = true := by simp [hfatal, hfrozen, hctx]
  rw [Act.bell, Act.run_get, hmine, hgo, if_neg (by decide), Act.when_true, Act.run_seq]

theorem ring_moves {v : Nat} (hok : s.ringOk q v = true) : (Act.ring q v).run s = (Act.submitted q).run (s.rung q v) := by
  rw [Act.ring, Act.run_get, if_pos hok, Act.run_seq, State.rung]

theorem ring_errs {v : Nat} (hok : s.ringOk q v = false) : (Act.ring q v).run s = (Act.countFld .queueState q 8 0 32).run s := by
  rw [Act.ring, Act.run_get, hok, if_neg (by decide)]

/-- A TAIL within the ring is taken: the slot or the column follows, and the device wakes from NAP. -/
theorem bell_moves {fn v : Nat} (hq : q < 65536) (hv : v < 2 ^ 32) (hvalid : s.qValid q = true) (hfn : s.ctxFn (s.qCtx q) = fn)
    (hfatal : s.u.pow.fatal = false) (hfrozen : s.u.svc.frozen = false) (hctx : s.ctxState (s.qCtx q) = 1) (hok : s.ringOk q v = true)
    (h : (s.slotOf (s.qCore q) (s.qCtx q)).isSome = true ∨ QuietCore s (s.qCore q)) :
    let t := (Act.bell fn q v).run s
    t.qTail q = v ∧ t.qHead q = s.qHead q ∧ SameMem s t ∧ SameEntriesBut
      [(.queueState, q), (.columnState, 0), (.deviceState, 0), (.stateCount, 0), (.slotCount, s.qCore q)] s t := by
  intro t
  have ht : t = Act.napWake.run ((Act.submitted q).run (s.rung q v)) := by
    rw [← ring_moves hok, ← Act.when_true .napWake, ← hok]
    exact bell_acts hvalid hfn hfatal hfrozen hctx
  clear_value t
  have hcore : (s.rung q v).qCore q = s.qCore q := s.rung_cfg hq v ..
  have hqctx : (s.rung q v).qCtx q = s.qCtx q := s.rung_cfg hq v ..
  have hslot : ((s.rung q v).slotOf ((s.rung q v).qCore q) ((s.rung q v).qCtx q)).isSome = true ∨
      QuietCore (s.rung q v) ((s.rung q v).qCore q) := by
    rw [hcore, hqctx, State.slotOf]
    simp only [State.slot, State.rung_u]
    exact h.imp id fun h => h.of_core (by rw [State.rung_u]) (by rw [State.rung_u])
  have hafter : SameMem (s.rung q v) t ∧
      SameEntriesBut [(.columnState, 0), (.deviceState, 0), (.stateCount, 0), (.slotCount, s.qCore q)] (s.rung q v) t := by
    rw [ht, ← hcore]
    exact frame_trans (sameEntries_mono (by simp) (submitted_frame hslot)) (Act.napWake_touches (by simp) (by simp) _)
  have hqueue : t.rd .queueState q = (s.rung q v).rd .queueState q := hafter.2 _ _ hq (by simp)
  refine ⟨?_, ?_, frame_trans (sameEntries_mono (by simp) (s.rung_frame q v)) (sameEntries_mono (by simp) hafter)⟩
  · rw [State.qTail, State.fld, hqueue]
    exact (s.fld_fld v (s.settable_queueState hq) (by decide)).trans (Nat.mod_eq_of_lt hv)
  · rw [State.qHead, State.fld, hqueue]
    exact s.fld_fld_apart v (s.settable_queueState hq) (by decide) (by decide)

/-- A value beyond the ring is counted as an error of the queue. -/
theorem bell_errs {fn v : Nat} (hq : q < 65536) (hvalid : s.qValid q = true) (hfn : s.ctxFn (s.qCtx q) = fn)
    (hfatal : s.u.pow.fatal = false) (hfrozen : s.u.svc.frozen = false) (hctx : s.ctxState (s.qCtx q) = 1) (hok : s.ringOk q v = false) :
    let t := (Act.bell fn q v).run s
    t.fld .queueState q 8 0 32 = (s.fld .queueState q 8 0 32 + 1) % 2 ^ 32 ∧ t.qTail q = s.qTail q ∧ SameMem s t := by
  intro t
  have ht : t = (Act.countFld .queueState q 8 0 32).run s :=
    (bell_acts hvalid hfn hfatal hfrozen hctx).trans (by rw [hok, Act.when_false, Act.run_skip, ring_errs hok])
  clear_value t
  rw [ht]
  exact ⟨s.fld_countFld (s.settable_queueState hq) (by decide), s.fld_fld_apart _ (s.settable_queueState hq) (by decide) (by decide),
    (Act.touches_get (l := [(.queueState, q)]) (fun _ => Act.touches_fld (by simp)) s).1⟩

/-- A doorbell of a function that does not own the queue is counted for the function. -/
theorem bell_foreign {fn v : Nat} (h : s.qValid q = false ∨ s.ctxFn (s.qCtx q) ≠ fn) :
    (Act.bell fn q v).run s = (Act.count .hostCount fn 0).run s := by
  have hno : (!s.qValid q || s.ctxFn (s.qCtx q) != fn) = true := by
    rcases h with h | h <;> simp [h]
  simp only [Act.bell, Act.run_get, hno, if_true]

/-- Nothing happens in FATAL, while a drain freezes the queues, and where the context is not READY. -/
theorem bell_ignored {fn v : Nat} (hvalid : s.qValid q = true) (hfn : s.ctxFn (s.qCtx q) = fn)
    (h : s.u.pow.fatal = true ∨ s.u.svc.frozen = true ∨ s.ctxState (s.qCtx q) ≠ 1) : (Act.bell fn q v).run s = s := by
  have hno : (!s.u.pow.fatal && !s.u.svc.frozen && s.ctxState (s.qCtx q) == 1) = false := by
    rcases h with h | h | h <;> simp [h]
  simp only [Act.bell, Act.run_get, hvalid, hfn, Bool.not_true, bne_self_eq_false, Bool.or_self, Bool.false_eq_true, if_false, hno,
    Act.when_false, Act.run_skip]

end

/-! ### Doorbells that wait (R407, R471) -/

section
variable {s : State} (fn : Fin 32) (q : Fin 65536) (v : BitVec 32)

theorem held_write {l : List Held} : l.any Held.isWrite = true ↔ ∃ off data ep, Held.write off data ep ∈ l := by
  rw [List.any_eq_true]
  constructor
  · rintro ⟨h, hm, hw⟩
    cases h with
    | write off data ep => exact ⟨off, data, ep, hm⟩
    | read off len => cases hw
    | msg m => cases hw
  · rintro ⟨off, data, ep, hm⟩
    exact ⟨_, hm, rfl⟩

theorem doorbell_run (hpower : s.u.pow.power = true) (hlink : s.u.pow.linkUp = true) : exec (.doorbell fn q v) s = .next (
    if s.bellWaits fn then (Act.when (!s.u.pow.fatal) (.host fun h => { h with keptDb := h.keptDb ++ [(fn.val, q.val, v.toNat)] })).run s
    else (Act.bell fn q v.toNat).run s) := by
  simp only [exec, execDoorbell, Act.doorbell, Act.outcome_eq, Act.run_get, hpower, hlink, Bool.and_self, Act.when_true, Act.run_ite]

end

/-- Settles O28. -/
theorem doorbellsMoveTail : Obligations.DoorbellsMoveTail := by
  intro s fn q v hpower hlink
  have hrun := doorbell_run (s := s) fn q v hpower hlink
  refine ⟨fun hwaits => ?_, fun hready hrestart hheld => ?_⟩
  · have hw : s.bellWaits fn = true := by
      rcases hwaits with h | h | ⟨rfl, hwrite⟩
      · simp [State.bellWaits, h]
      · simp [State.bellWaits, h]
      · simp [State.bellWaits, held_write.2 hwrite]
    rw [if_pos hw] at hrun
    refine ⟨fun hfatal => ⟨_, hrun, ?_⟩, fun hfatal => hrun.trans ?_⟩
    · simp only [hfatal, Bool.not_false, Act.when_true]
      exact ⟨rfl, Act.touches_host _ s⟩
    · simp only [hfatal, Bool.not_true, Act.when_false, Act.run_skip]
  · have hw : s.bellWaits fn = false := by
      cases hfn : fn.val == 0 with
      | false => simp [State.bellWaits, hready, hrestart, hfn]
      | true =>
        have hany : s.u.pow.held.any Held.isWrite = false := by
          rw [← Bool.not_eq_true, held_write]
          exact fun ⟨off, data, ep, hm⟩ => hheld (Fin.ext (by simpa using hfn)) off data ep hm
        simp [State.bellWaits, hready, hrestart, hany]
    rw [hw, if_neg (by decide)] at hrun
    refine ⟨fun hforeign => ⟨_, hrun, ?_⟩, fun hvalid hfn hno => hrun.trans (congrArg _ (bell_ignored hvalid hfn hno)),
      fun hvalid hfn hfatal hfrozen hctx => ⟨fun hslot hdist => ⟨_, hrun, ?_⟩, fun hdist => ⟨_, hrun, ?_⟩⟩⟩
    · rw [bell_foreign hforeign]
      exact ⟨s.cnt_count (.of_vol s fn.isLt rfl) (by decide), Act.touches_count (by simp) s⟩
    · exact bell_moves q.isLt v.isLt hvalid hfn hfatal hfrozen hctx (decide_eq_true hdist) (hslot.imp id fun h => ⟨h.1, h.2⟩)
    · exact bell_errs q.isLt hvalid hfn hfatal hfrozen hctx (decide_eq_false (Nat.not_le.2 hdist))

end Sys2Proof.Machine
end

section
/-! SUPPORT. A hot reset that latches straps of safe mode (R443, R469, R501). -/

namespace Sys2Proof.Machine

/-- SCREE_MIB is 512 and in force, memory holds a byte at the start of its second stack, and the strap pins ask for safe mode. -/
def safePins : State :=
  { State.reset with
    regs := [(EName.screeMib.key 0, 512)]
    stack := { bytes := [(7680 * 2 ^ 20, 1#8)] }
    u := { pow := { trained := true, linkUp := true, pins := 3 }, mem := { scree := 512 } } }

theorem safePins_kept : safePins.u.pow.power = true ∧ safePins.u.pow.linkUp = true ∧ safePins.u.svc.cairn = none ∧
    safePins.u.pow.trained = true ∧ safePins.u.pow.deep = false ∧ safePins.u.dict.storeDue = [] ∧ safePins.rd .storeFactory = 0 ∧
    safePins.u.mem.share = safePins.layoutAsked.share ∧ safePins.u.trust.unlock = none := by decide +kernel

/-- In safe mode SCREE_MIB reads its default, so memory moves to another layout. -/
theorem safePins_moves : (Act.hotReset.run safePins).stack ≠ safePins.stack := by decide +kernel

/-- Refutes O48: its clauses on a hot reset and on WARM_RESET say that memory is kept where its layout is the one that the entries ask for,
which they read under the old straps, while the reset latches the pins. The pins of `safePins` ask for safe mode, in which the layout's
STORE entries read their defaults, and the byte moves. -/
theorem not_warmResetsRestoreDefaults : ¬ Obligations.WarmResetsRestoreDefaults := by
  unfold Obligations.WarmResetsRestoreDefaults
  intro h
  obtain ⟨hpower, hlink, hcairn, htrained, hdeep, hdue, hfactory, hshare, hunlock⟩ := safePins_kept
  obtain ⟨hhot, -⟩ := h safePins
  obtain ⟨t, ht, -, hkept⟩ := hhot hpower hlink
  have ht' : Act.hotReset.outcome safePins = .next t := ht
  obtain rfl := Host.Outcome.next.inj ht'
  exact safePins_moves (hkept hcairn htrained hdeep hdue hfactory hshare hunlock)

end Sys2Proof.Machine
end

section
/-! SUPPORT. Fields of volatile entries under changes of others, for actions that show many values at once. -/

namespace Sys2Proof.Machine

section
variable {n k : EName} {i j : Nat}

/-- A field of a volatile entry under a change of a field apart from it. -/
theorem Act.fld_keepsFld_apart {off lo len v off' lo' len' : Nat} (hi : i < n.count) (hn : n.info.pers = .vol)
    (hs : off' * 8 + lo' + len' ≤ 8 * n.info.size)
    (ha : off' * 8 + lo' + len' ≤ off * 8 + lo ∨ off * 8 + lo + len ≤ off' * 8 + lo') :
    (Act.fld n i off lo len v).Keeps fun s => s.fld n i off' lo' len' := fun s => s.fld_fld_apart v (.of_vol s hi hn) hs ha

theorem Act.count_keepsCnt_apart {a b v : Nat} (hi : i < n.count) (hn : n.info.pers = .vol) (hs : 8 * b + 8 ≤ n.info.size) (hab : b ≠ a) :
    (Act.count n i a v).Keeps fun s => s.cnt n i b := fun s => s.cnt_count_apart (.of_vol s hi hn) hs hab

/-- What keeps an entry's value keeps its fields and counters. -/
theorem Act.Keeps.fld {a : Act} (h : a.Keeps fun s => s.rd n i) (off lo len : Nat) : a.Keeps fun s => s.fld n i off lo len :=
  fun s => congrArg (bits · _ _) (h s)

theorem Act.Keeps.cnt {a : Act} (h : a.Keeps fun s => s.rd n i) (c : Nat) : a.Keeps fun s => s.cnt n i c := h.fld (8 * c) 0 64

theorem Act.Touches.keepsRd {l : List (EName × Nat)} {a : Act} (h : a.Touches l) (hi : i < n.count) (hn : (n, i) ∉ l) :
    a.Keeps fun s => s.rd n i := h.rd hi hn

theorem Act.Touches.keepsMem {l : List (EName × Nat)} {a : Act} (h : a.Touches l) (s : State) : SameMem s (a.run s) := (h s).1

end

theorem Act.touches_countFld' {l : List (EName × Nat)} {n : EName} {i off lo len v : Nat} (h : (n, i) ∈ l) :
    (Act.countFld n i off lo len v).Touches l := touches_get fun _ => touches_fld h

/-- What an action keeps of power: all that mentions neither `Act.pow` nor the units as a whole. -/
theorem Act.trace_keepsPow (code engine ctx d0 d1 : Nat) : (Act.trace code engine ctx d0 d1).Keeps fun s => s.u.pow := fun s => by
  simp only [Act.trace, Act.run_units]
  split <;> rfl

end Sys2Proof.Machine
end

section
/-! SUPPORT. FATAL: what its record and its latch are once it has been entered (R482). -/

namespace Sys2Proof.Machine

/-- The view sees nothing of what FATAL does once its flows are disabled: it looks, as `Aside` says, at no side entry and not at memory,
nor at columns, at NAP, at the cairn, and of power at no more than the latches that stay. -/
structure PastFatal {α : Type} (f : State → α) : Prop extends Aside f where
  done : ∀ {n : EName} {i v : Nat}, n ∈ [EName.columnState, .cairnCount, .stateCount, .deviceState] → (Act.reg n i v).Keeps f
  pow : ∀ {g : PowU → PowU}, (∀ p, (g p).fatal = p.fatal ∧ (g p).power = p.power ∧ (g p).straps = p.straps ∧ (g p).flashOk = p.flashOk) →
    (Act.pow g).Keeps f
  lose : ∀ {a b : Nat}, (Act.upd (.lose .scratch a b)).Keeps f

theorem PastFatal.rd {n : EName} {i : Nat} (hside : n ∉ sideEntries) (hn : n ∉ [EName.columnState, .cairnCount, .stateCount, .deviceState])
    (hi : i < n.count) : PastFatal fun s => s.rd n i where
  toAside := .rd hside hi
  done hk s := (Act.touches_reg (List.mem_singleton_self _)).rd hi (by
    simp only [List.mem_singleton, Prod.mk.injEq]; rintro ⟨rfl, -⟩; exact hn hk) s
  pow h s := (Act.touches_pow (l := []) fun p => ⟨(h p).2.2.2, (h p).2.2.1⟩).rd hi (List.not_mem_nil) s
  lose s := State.rd_congr (by rfl) (by rfl) n i

theorem PastFatal.map {α β : Type} {f : State → α} (h : PastFatal f) (g : α → β) : PastFatal fun s => g (f s) where
  toAside := h.toAside.map g
  done hk s := congrArg g (h.done hk s)
  pow hp s := congrArg g (h.pow hp s)
  lose s := congrArg g (h.lose s)

theorem PastFatal.latch : PastFatal fun s => s.u.pow.fatal where
  toAside := .ofUnits fun _ _ h => congrArg PowU.fatal h.pow
  done _ := Act.reg_keeps_u (g := fun u => u.pow.fatal)
  pow h s := (h s.u.pow).1
  lose _ := rfl

theorem PastFatal.power : PastFatal fun s => s.u.pow.power where
  toAside := .ofUnits fun _ _ h => congrArg PowU.power h.pow
  done _ := Act.reg_keeps_u (g := fun u => u.pow.power)
  pow h s := (h s.u.pow).2.1
  lose _ := rfl

theorem PastFatal.flowSt {j : Nat} (hj : j < 8192) : PastFatal fun s => s.flowSt j :=
  (PastFatal.rd (n := .flowState) (i := j) (by decide) (by decide) hj).map (bits · 0 2)

section
variable {α : Type} {f : State → α}

theorem Aside.msix (h : Aside f) (fn v : Nat) : (Act.msix fn v).Keeps f := Act.keeps_get fun _ =>
  Act.keeps_ite (fun _ => Act.keeps_skip) fun _ => Act.keeps_ite (fun _ => h.units fun _ => ⟨rfl, rfl, rfl, rfl, rfl⟩) fun _ =>
    Act.keeps_ite (fun _ => Act.keeps_seq (h.units fun _ => ⟨rfl, rfl, rfl, rfl, rfl⟩) (h.count (by decide))) fun _ => Act.keeps_skip

theorem Aside.svc (h : Aside f) (g : SvcU → SvcU) : (Act.svc g).Keeps f := h.units fun _ => ⟨rfl, rfl, rfl, rfl, rfl⟩

theorem Aside.event (h : Aside f) (fns : List Nat) (code scope ctx source data : Nat) :
    (Act.event fns code scope ctx source data).Keeps f :=
  Act.keeps_get fun _ => Act.keeps_seq (h.svc _) <| Act.keeps_each fun _ _ => Act.keeps_get fun _ =>
    Act.keeps_ite (fun _ => Act.keeps_skip) fun _ => Act.keeps_seq h.mem <| Act.keeps_seq (h.reg (by decide)) <|
      Act.keeps_seq (h.msix _ _) Act.keeps_skip

theorem Aside.vcStalls (h : Aside f) (p : Nat) : (Act.vcStalls p).Keeps f :=
  Act.vcStalls_keeps (fun s x => h.units (g := fun u => { u with stalls := x }) (fun _ => ⟨rfl, rfl, rfl, rfl, rfl⟩) s)
    fun _ _ => h.stallEnd _

/-- A message on its way that would stay here is dropped: what its leaving and its loss change is aside. -/
theorem Aside.route (h : Aside f) (came : Option (Nat × Bool)) (vc : Nat) (m : Msg) : (Act.route came vc m fun _ => .skip).Keeps f :=
  Act.keeps_get fun _ => by
  split
  · exact Act.keeps_skip
  · exact h.count (by decide)
  · refine Act.keeps_seq ?_ <| Act.keeps_seq (h.units fun _ => ⟨rfl, rfl, rfl, rfl, rfl⟩) <| Act.keeps_seq (h.pump _ _) Act.keeps_skip
    split
    · exact h.count (by decide)
    · exact Act.keeps_skip

theorem Aside.portSt (h : Aside f) (p st : Nat) : (Act.portSt p st).Keeps f :=
  Act.keeps_seq (h.fld (by decide)) <| Act.keeps_seq (Act.keeps_get fun _ => h.trace _ _ _ _ _) <| Act.keeps_seq (h.svc _) <|
    Act.keeps_seq (h.raiseSrc _) Act.keeps_skip

theorem Aside.portDown (h : Aside f) (p cause lane : Nat) : (Act.portDown p cause lane).Keeps f :=
  Act.keeps_get fun _ => Act.keeps_seq (h.fld (by decide)) <| Act.keeps_seq (h.fld (by decide)) <| Act.keeps_seq (h.portSt _ _) <|
    Act.keeps_seq (h.count (by decide)) <| Act.keeps_seq h.epochUp <| Act.keeps_seq (h.units fun _ => ⟨rfl, rfl, rfl, rfl, rfl⟩) <|
    Act.keeps_seq (h.vcStalls _) <| Act.keeps_seq (Act.keeps_when fun _ => h.errEvent _ _) <|
    Act.keeps_seq (Act.keeps_each fun _ _ => Act.keeps_ite (fun _ => h.count (by decide)) fun _ => h.route _ _ _) Act.keeps_skip

theorem PastFatal.napWake (h : PastFatal f) : Act.napWake.Keeps f :=
  have hpow {g : PowU → PowU} (hg : ∀ p, (g p).fatal = p.fatal ∧ (g p).power = p.power ∧ (g p).straps = p.straps ∧
    (g p).flashOk = p.flashOk) := h.pow hg
  Act.keeps_get fun _ => Act.keeps_seq
    (Act.keeps_when fun _ => Act.keeps_seq (hpow fun _ => ⟨rfl, rfl, rfl, rfl⟩) (Act.keeps_get fun _ => Act.keeps_get fun _ => h.done (by decide)))
    (Act.keeps_ite (fun _ => hpow fun _ => ⟨rfl, rfl, rfl, rfl⟩) fun _ => Act.keeps_when fun _ => h.done (by decide))

theorem PastFatal.cairnBegin (h : PastFatal f) (cls cause source detail time epoch : Nat) :
    (Act.cairnBegin cls cause source detail time epoch).Keeps f := Act.keeps_get fun _ => by
  have hgo (c : Cairn) : (Act.all [.lifeCount .cairnCount, .napWake, .svc fun v => { v with cairn := some c, cairnRetried := false },
      .cairnOpen c]).Keeps f :=
    Act.keeps_seq (Act.keeps_get fun _ => h.done (by decide)) <| Act.keeps_seq h.napWake <| Act.keeps_seq (h.svc _) <|
      Act.keeps_seq (Act.keeps_get fun _ => Act.keeps_when fun _ => h.wrStack _ _) Act.keeps_skip
  exact Act.keeps_ite (fun _ => Act.keeps_get fun _ => Act.keeps_seq (h.units fun _ => ⟨rfl, rfl, rfl, rfl, rfl⟩) (hgo _)) fun _ => hgo _

theorem PastFatal.columnLost (h : PastFatal f) (col : Nat) : (Act.columnLost col).Keeps f :=
  Act.keeps_seq (Act.keeps_get fun _ => h.done (by decide)) h.lose

/-- What FATAL tells and whom. -/
def Act.fatalReport (s : State) (cause source detail : Nat) : Act :=
  if cause = fatalVerify then .fatalBare
  else if s.fwRuns then .fatalTold cause source detail s.now (s.rd .recoveryEpoch)
  else if s.u.pow.restarting then .svc fun v => { v with fatalWaits := some (cause, source, detail, s.now, s.rd .recoveryEpoch) }
  else .fatalBare

theorem Aside.fatalBare (h : Aside f) : Act.fatalBare.Keeps f :=
  Act.keeps_get fun _ => Act.keeps_each fun _ _ => Act.keeps_when fun _ => h.msix _ _

theorem PastFatal.fatalReport (h : PastFatal f) (s : State) (cause source detail : Nat) : (Act.fatalReport s cause source detail).Keeps f :=
  Act.keeps_ite (fun _ => h.fatalBare) fun _ => Act.keeps_ite
    (fun _ => Act.keeps_seq (h.event _ _ _ _ _ _) (Act.keeps_get fun _ => Act.keeps_when fun _ => h.cairnBegin _ _ _ _ _ _)) fun _ =>
    Act.keeps_ite (fun _ => h.svc _) fun _ => h.fatalBare

/-- What FATAL does after its flows are disabled. -/
def Act.fatalTail (s : State) (cause source detail : Nat) : Act :=
  .all [.when (cause == 3) (.each (List.range 8) fun p => .get fun s =>
      .when (s.portSt p != psDisabled && s.portSt p != psDown) (.portDown p dcReset)),
    .when (cause == fatalStack || cause == fatalDie) (.each (List.range 16) .columnLost), .fatalReport s cause source detail]

theorem PastFatal.fatalTail (h : PastFatal f) (s : State) (cause source detail : Nat) : (Act.fatalTail s cause source detail).Keeps f :=
  Act.keeps_seq (Act.keeps_when fun _ => Act.keeps_each fun _ _ => Act.keeps_get fun _ => Act.keeps_when fun _ => h.portDown _ _ _) <|
    Act.keeps_seq (Act.keeps_when fun _ => Act.keeps_each fun _ _ => h.columnLost _) <| Act.keeps_seq (h.fatalReport _ _ _ _) Act.keeps_skip

/-- FATAL's record, its latch, and what else it changes before its flows. -/
def Act.fatalLatch (s : State) (cause detail : Nat) : Act :=
  .all [.reg .fatalState 0 (cause + s.now % 2 ^ 64 * 2 ^ 64), .pow fun p => { p with fatal := true }, .trace 0x0B 0 0 cause detail,
    .svc fun v => { v with pressPending := v.pressPending || v.drainStep != 0, drainStep := 0 },
    .when (s.rd .serviceState == 1) (.reg .serviceState 0 0)]

theorem fatal_run {s : State} (hpower : s.u.pow.power = true) (hfatal : s.u.pow.fatal = false) (cause source detail : Nat) :
    (Act.fatal cause source detail).run s = (Act.fatalTail s cause source detail).run
      ((Act.each s.flowList .flowDisable).run ((Act.fatalLatch s cause detail).run s)) := by
  rw [Act.fatal, Act.run_get]
  simp only [hpower, hfatal, Bool.not_true, Bool.false_eq_true, if_false, Act.run_all_cons, Act.run_all_nil, Act.fatalLatch, Act.fatalTail,
    Act.fatalReport]

/-! ### The flows -/

theorem Aside.flowDisable (h : Aside f) {j : Nat} (hflow : ∀ g, (Act.flow j g).Keeps f) (hstate : ∀ v, (Act.reg .flowState j v).Keeps f) :
    (Act.flowDisable j).Keeps f :=
  have hfld {off lo len v : Nat} : (Act.fld .flowState j off lo len v).Keeps f := Act.keeps_get fun _ => hstate _
  Act.keeps_get fun _ => Act.keeps_when fun _ => Act.keeps_seq (Act.keeps_seq hfld <| Act.keeps_seq hfld <|
    Act.keeps_seq (Act.keeps_get fun _ => h.trace _ _ _ _ _) Act.keeps_skip) <| Act.keeps_seq hfld <| Act.keeps_seq (hflow _) Act.keeps_skip

theorem flowDisable_ends (s : State) {j : Nat} (hj : j < 8192) : ((Act.flowDisable j).run s).flowSt j = 0 := by
  rw [Act.flowDisable, Act.run_get]
  by_cases hst : s.flowSt j = 0
  · rw [hst]; exact hst
  · have hapart {off lo len v : Nat} (h : 2 ≤ off * 8 + lo) : (Act.fld .flowState j off lo len v).Keeps fun s => s.flowSt j :=
      Act.fld_keepsFld_apart hj rfl (by decide) (.inl (by omega))
    have hrest : (Act.all [.fld .flowState j 0 8 4 0, .get fun s => .trace 4 0 (s.flowCtx j) (j + 0 * 2 ^ 16 + 0 * 2 ^ 24) (s.flowPeer j)]).Keeps
        fun s => s.flowSt j :=
      Act.keeps_seq (hapart (by decide)) (Act.keeps_seq (Act.keeps_get fun _ => (Aside.flowSt hj).trace _ _ _ _ _) Act.keeps_skip)
    have hdrop : (Act.all [.fld .flowState j 0x10 32 9 0, .flow j Flow.dropped]).Keeps fun s => s.flowSt j :=
      Act.keeps_seq (hapart (by decide)) (Act.keeps_seq (fun s => congrArg (bits · 0 2) (Act.flow_keepsRd _ s)) Act.keeps_skip)
    have hset : ((Act.fld .flowState j 0 0 2 0).run s).flowSt j = 0 := State.fld_fld s 0 (.of_vol s hj rfl) (by decide)
    rw [bne_iff_ne.2 hst, Act.when_true, Act.run_all_cons, Act.flowState, Act.run_all_cons]
    exact (hdrop _).trans ((hrest _).trans hset)

theorem flowDisable_apart {j k : Nat} (hk : k < 8192) (hjk : k ≠ j) : (Act.flowDisable j).Keeps fun s => s.flowSt k :=
  (Aside.flowSt hk).flowDisable (fun g s => congrArg (bits · 0 2) (Act.flow_keepsRd g s)) fun v =>
    (((Act.touches_reg (l := [(.flowState, j)]) (by simp)).keepsRd hk (by simp [hjk])).fld 0 0 2)

theorem flowsDisabled {l : List Nat} (hl : ∀ j ∈ l, j < 8192) (s : State) {j : Nat} (hj : j ∈ l) :
    ((Act.each l .flowDisable).run s).flowSt j = 0 := by
  have hkeeps {r : List Nat} (hr : j ∉ r) : (Act.each r .flowDisable).Keeps fun s => s.flowSt j :=
    Act.keeps_each fun k hk => flowDisable_apart (hl j hj) fun h => hr (h ▸ hk)
  induction l generalizing s with
  | nil => simp at hj
  | cons k r ih =>
    rw [Act.run_each_cons]
    by_cases hr : j ∈ r
    · exact ih (fun x hx => hl x (List.mem_cons_of_mem _ hx)) _ hr
    · obtain rfl := (List.mem_cons.1 hj).resolve_right hr
      exact (hkeeps hr _).trans (flowDisable_ends s (hl _ hj))

/-! ### FATAL as a whole -/

theorem mem_flowList_lt {s : State} {j : Nat} (h : j ∈ s.flowList) : j < 8192 := by
  obtain ⟨p, -, hp⟩ := List.mem_filterMap.1 h
  split_ifs at hp with hrange
  obtain rfl := Option.some.inj hp
  omega

/-- A view that FATAL's flows leave. -/
theorem Aside.flowsDisable (h : Aside f) {l : List Nat} (hflow : ∀ j g, (Act.flow j g).Keeps f)
    (hstate : ∀ j v, (Act.reg .flowState j v).Keeps f) : (Act.each l .flowDisable).Keeps f :=
  Act.keeps_each fun j _ => h.flowDisable (hflow j) (hstate j)

theorem fatalLatch_latches (s : State) (cause detail : Nat) : let t := (Act.fatalLatch s cause detail).run s
    t.u.pow.fatal = true ∧ t.u.pow.power = s.u.pow.power ∧ t.rd .fatalState = EName.fatalState.fit (cause + s.now % 2 ^ 64 * 2 ^ 64) ∧
      t.rd .serviceState = if s.rd .serviceState = 1 then 0 else s.rd .serviceState := by
  set s1 := (Act.reg .fatalState 0 (cause + s.now % 2 ^ 64 * 2 ^ 64)).run s with hs1
  set s2 := (Act.pow fun p => { p with fatal := true }).run s1 with hs2
  set s3 := (Act.svc fun v => { v with pressPending := v.pressPending || v.drainStep != 0, drainStep := 0 }).run
    ((Act.trace 0x0B 0 0 cause detail).run s2) with hs3
  have hmid {β : Type} {v : State → β} (h : Aside v) : v s3 = v s2 := (h.svc _ _).trans (h.trace _ _ _ _ _ _)
  have hpow : s3.u.pow = s2.u.pow := hmid (.ofUnits fun _ _ h => h.pow)
  have hfatal : s3.u.pow.fatal = true := congrArg PowU.fatal hpow
  have hpower : s3.u.pow.power = s.u.pow.power := (congrArg PowU.power hpow).trans (Act.reg_keeps_u (g := fun u => u.pow.power) s)
  have hread {n : EName} (hn : n ∉ sideEntries) (h0 : 0 < n.count) : s3.rd n = s1.rd n :=
    (hmid (.rd hn h0)).trans ((Act.touches_pow (l := []) fun _ => ⟨rfl, rfl⟩).keepsRd h0 (by simp) s1)
  have hrec : s3.rd .fatalState = EName.fatalState.fit (cause + s.now % 2 ^ 64 * 2 ^ 64) :=
    (hread (by decide) (by decide)).trans (State.rd_reg _ _ (.of_vol _ (by decide) rfl))
  have hserv : s3.rd .serviceState = s.rd .serviceState :=
    (hread (by decide) (by decide)).trans (State.rd_reg_other _ _ (by decide) (by decide) (by decide))
  have hrun : (Act.fatalLatch s cause detail).run s = (Act.when (s.rd .serviceState == 1) (.reg .serviceState 0 0)).run s3 := rfl
  rw [hrun]
  by_cases hst : s.rd .serviceState = 1
  · rw [hst, if_pos rfl]
    exact ⟨(Act.reg_keeps_u (g := fun u => u.pow.fatal) s3).trans hfatal, (Act.reg_keeps_u (g := fun u => u.pow.power) s3).trans hpower,
      (State.rd_reg_other _ _ (by decide) (by decide) (by decide)).trans hrec, State.rd_reg _ _ (.of_vol _ (by decide) rfl)⟩
  · rw [if_neg hst, beq_eq_false_iff_ne.2 hst]
    exact ⟨hfatal, hpower, hrec, hserv⟩

/-- What FATAL leaves: its record, its latch, no flow, and of the service's state what it found or 0. -/
theorem fatal_enters {s : State} (hpower : s.u.pow.power = true) (hfatal : s.u.pow.fatal = false) (cause source detail : Nat) :
    let t := (Act.fatal cause source detail).run s
    t.u.pow.fatal = true ∧ t.u.pow.power = true ∧ t.rd .fatalState = EName.fatalState.fit (cause + s.now % 2 ^ 64 * 2 ^ 64) ∧
      t.rd .serviceState = (if s.rd .serviceState = 1 then 0 else s.rd .serviceState) ∧ ∀ f ∈ s.flowList, t.flowSt f = 0 := by
  intro t
  obtain ⟨hlatch, hpow, hrec, hserv⟩ := fatalLatch_latches s cause detail
  rw [hpower] at hpow
  have hview {β : Type} {v : State → β} (h : PastFatal v) (hflow : ∀ j g, (Act.flow j g).Keeps v)
      (hstate : ∀ j w, (Act.reg .flowState j w).Keeps v) : v t = v ((Act.fatalLatch s cause detail).run s) := by
    rw [show t = _ from fatal_run hpower hfatal cause source detail, h.fatalTail, h.flowsDisable hflow hstate]
  have hrd {n : EName} (hside : n ∉ sideEntries) (hn : n ∉ [EName.columnState, .cairnCount, .stateCount, .deviceState])
      (h0 : 0 < n.count) (hflow : n ≠ .flowState) : t.rd n = ((Act.fatalLatch s cause detail).run s).rd n :=
    hview (.rd hside hn h0) (fun _ => Act.flow_keepsRd) fun j _ =>
      (Act.touches_reg (l := [(.flowState, j)]) (by simp)).keepsRd h0 (by simp [hflow])
  refine ⟨(hview .latch (fun _ _ _ => rfl) fun _ _ => Act.reg_keeps_u (g := fun u => u.pow.fatal)).trans hlatch,
    (hview .power (fun _ _ _ => rfl) fun _ _ => Act.reg_keeps_u (g := fun u => u.pow.power)).trans hpow,
    (hrd (by decide) (by decide) (by decide) (by decide)).trans hrec, (hrd (by decide) (by decide) (by decide) (by decide)).trans hserv,
    fun f hf => ?_⟩
  rw [show t = _ from fatal_run hpower hfatal cause source detail]
  exact ((PastFatal.flowSt (mem_flowList_lt hf)).fatalTail _ _ _ _ _).trans (flowsDisabled (fun _ => mem_flowList_lt) _ hf)

end

end Sys2Proof.Machine
end

section
/-! SUPPORT. The governor's ticks, clock steps and thermal ceilings (R465 to R467). -/

namespace Sys2Proof.Machine

/-! ### What GOVERNOR_STATE shows -/

theorem Act.govShow_touches : Act.govShow.Touches [(.governorState, 0)] :=
  touches_get fun _ => touches_all fun a ha => by
    simp only [List.mem_cons, List.not_mem_nil, or_false] at ha
    obtain rfl | rfl | rfl | rfl | rfl | rfl := ha <;> exact touches_fld (by simp)

theorem Act.govShow_keepsU {α : Type} (g : Units → α) : Act.govShow.Keeps fun s => g s.u :=
  keeps_get fun _ => keeps_all fun a ha => by
    simp only [List.mem_cons, List.not_mem_nil, or_false] at ha
    obtain rfl | rfl | rfl | rfl | rfl | rfl := ha <;> exact fld_keeps_u

/-- The powers shown stay. -/
theorem Act.govShow_keepsPowers {lo : Nat} (h : lo + 16 ≤ 32) : Act.govShow.Keeps fun s => s.fld .governorState 0 0 lo 16 :=
  keeps_get fun _ => keeps_all fun a ha => by
    simp only [List.mem_cons, List.not_mem_nil, or_false] at ha
    obtain rfl | rfl | rfl | rfl | rfl | rfl := ha <;>
      exact fld_keepsFld_apart (by decide) rfl (by show 0 * 8 + lo + 16 ≤ 8 * 32; omega) (by omega)

/-! ### A tick (R466) -/

/-- The counter of the branch that a tick takes. -/
def GovStep.counter : GovStep → Option Nat
  | .peak => some 2
  | .excursion => some 3
  | .average => some 4
  | .up | .stay => none

def Act.govBranch (g : GovStep) : Act := match g with
  | .peak => .count .govCount 0 2
  | .excursion => .count .govCount 0 3
  | .average => .count .govCount 0 4
  | _ => .skip

theorem govBranch_eq (g : GovStep) : Act.govBranch g = match g.counter with | some k => .count .govCount 0 k | none => .skip := by
  cases g <;> rfl

/-- The new targets come into force, and with them the time since the last step. -/
def Act.govTargets (since : Nat) (new : Nat → Nat) : Act :=
  .pow fun w => { w with sinceStep := since, target := (List.range 16).map fun c => (c, new c) }

/-- What a tick shows of power and of its sensors. -/
def Act.govReads (p a ex : Nat) (slow : Sensors) : Act :=
  .all [.fld .governorState 0 0 0 16 p, .fld .governorState 0 0 16 16 a, .fld .governorState 0 0x10 0 64 ex,
    .reg .inputMv 0 slow.mv.toNat, .reg .inputMa 0 slow.ma.toNat, .reg .coolantIn 0 slow.coolantIn.toNat,
    .reg .coolantOut 0 slow.coolantOut.toNat]

/-- What a tick tells after its branch: the step's flags, the clocks' change, and the time at the floor. -/
def Act.govTold (moved floor : Bool) (x y d0 d1 : Nat) : Act :=
  .all [.when moved (.all [.fld .governorState 0 8 0 1 x, .fld .governorState 0 8 1 1 y, .raiseSrc 143, .trace 7 0 0 d0 d1]),
    .fld .governorState 0 8 6 1 (b2n floor), .when floor (.count .govCount 0 7 10000), .govShow]

/-- What follows the readings of a tick. -/
def Act.govAfter (g : GovStep) (down up : Nat) (moved floor : Bool) (x y d0 d1 : Nat) : Act :=
  .all [.count .govCount 0 0 down, .count .govCount 0 1 up, .govBranch g, .govTold moved floor x y d0 d1]

/-- A tick is its targets, its readings, and what follows them. -/
theorem governor_run {s : State} {p a mv10 : Nat} {slow : Sensors} {g : GovStep} (hon : s.fwRuns = true ∨ s.u.pow.ready = true)
    (hdeep : s.u.pow.deep = false)
    (hg : govStep p a (s.limitMw .peakW 55 mv10) (s.limitMw .sustainW 46 mv10) (s.limitMw .sustainW 46 slow.mv.toNat)
      (if s.limitMw .sustainW 46 mv10 < p * 1000 then s.fld .governorState 0 0x10 0 64 + 10000 else 0)
      (s.u.pow.sinceStep + 10000) = g) :
    ∃ since ex down up moved floor x y d0 d1, (Act.governor p a mv10 slow).run s =
      (Act.govAfter g down up moved floor x y d0 d1).run ((Act.govReads p a ex slow).run
        ((Act.govTargets since fun c => govClock g (s.ceiling c) (s.target c)).run s)) := by
  have hgo : ((s.fwRuns || s.u.pow.ready) && !s.u.pow.deep) = true := by
    rcases hon with h | h <;> simp [h, hdeep]
  rw [Act.governor, Act.run_get]
  simp only [hgo, Act.when_true, hg, Act.govAfter, Act.govReads, Act.govTold, Act.run_all_cons, Act.run_all_nil, Act.govTargets]
  cases g <;> exact ⟨_, _, _, _, _, _, _, _, _, _, rfl⟩

theorem Act.govReads_touches (p a ex : Nat) (slow : Sensors) : (Act.govReads p a ex slow).Touches
    [(.governorState, 0), (.inputMv, 0), (.inputMa, 0), (.coolantIn, 0), (.coolantOut, 0)] := touches_all fun b hb => by
  simp only [List.mem_cons, List.not_mem_nil, or_false] at hb
  obtain rfl | rfl | rfl | rfl | rfl | rfl | rfl := hb
  · exact touches_fld (by simp)
  · exact touches_fld (by simp)
  · exact touches_fld (by simp)
  all_goals exact touches_reg (by simp)

theorem Act.govReads_keepsU {α : Type} (p a ex : Nat) (slow : Sensors) (g : Units → α) : (Act.govReads p a ex slow).Keeps fun s => g s.u :=
  keeps_all fun b hb => by
    simp only [List.mem_cons, List.not_mem_nil, or_false] at hb
    obtain rfl | rfl | rfl | rfl | rfl | rfl | rfl := hb
    · exact fld_keeps_u
    · exact fld_keeps_u
    · exact fld_keeps_u
    all_goals exact reg_keeps_u

theorem Act.govTold_touches (moved floor : Bool) (x y d0 d1 : Nat) :
    (Act.govTold moved floor x y d0 d1).Touches [(.governorState, 0), (.govCount, 0)] := touches_all fun b hb => by
  simp only [List.mem_cons, List.not_mem_nil, or_false] at hb
  obtain rfl | rfl | rfl | rfl := hb
  · refine touches_when (touches_all fun b hb => ?_)
    simp only [List.mem_cons, List.not_mem_nil, or_false] at hb
    obtain rfl | rfl | rfl | rfl := hb
    · exact touches_fld (by simp)
    · exact touches_fld (by simp)
    · exact raiseSrc_touches _
    · exact trace_touches _ _ _ _ _
  · exact touches_fld (by simp)
  · exact touches_when (touches_count (by simp))
  · exact govShow_touches.mono (by simp)

theorem Act.govTold_keeps {α : Type} {f : State → α} {moved floor : Bool} {x y d0 d1 : Nat}
    (hfld : ∀ lo v, lo = 0 ∨ lo = 1 ∨ lo = 6 → (Act.fld .governorState 0 8 lo 1 v).Keeps f) (hraise : (Act.raiseSrc 143).Keeps f)
    (htrace : (Act.trace 7 0 0 d0 d1).Keeps f) (hcount : (Act.count .govCount 0 7 10000).Keeps f) (hshow : Act.govShow.Keeps f) :
    (Act.govTold moved floor x y d0 d1).Keeps f := keeps_all fun b hb => by
  simp only [List.mem_cons, List.not_mem_nil, or_false] at hb
  obtain rfl | rfl | rfl | rfl := hb
  · refine keeps_when fun _ => keeps_all fun b hb => ?_
    simp only [List.mem_cons, List.not_mem_nil, or_false] at hb
    obtain rfl | rfl | rfl | rfl := hb
    · exact hfld 0 _ (.inl rfl)
    · exact hfld 1 _ (.inr (.inl rfl))
    · exact hraise
    · exact htrace
  · exact hfld 6 _ (.inr (.inr rfl))
  · exact keeps_when fun _ => hcount
  · exact hshow

section
variable {g : GovStep} {down up x y d0 d1 : Nat} {moved floor : Bool}

theorem Act.govBranch_keeps {α : Type} {f : State → α} (h : ∀ k, (Act.count .govCount 0 k).Keeps f) : (Act.govBranch g).Keeps f := by
  rw [govBranch_eq]
  cases g.counter with
  | none => exact keeps_skip
  | some k => exact h k

theorem Act.govBranch_touches : (Act.govBranch g).Touches [(.governorState, 0), (.govCount, 0)] := by
  rw [govBranch_eq]
  cases g.counter with
  | none => exact touches_skip
  | some k => exact touches_count (by simp)

theorem Act.govAfter_touches : (Act.govAfter g down up moved floor x y d0 d1).Touches [(.governorState, 0), (.govCount, 0)] :=
  touches_all fun b hb => by
    simp only [List.mem_cons, List.not_mem_nil, or_false] at hb
    obtain rfl | rfl | rfl | rfl := hb
    · exact touches_count (by simp)
    · exact touches_count (by simp)
    · exact govBranch_touches
    · exact govTold_touches _ _ _ _ _ _

theorem Act.govAfter_keeps {α : Type} {f : State → α} (hcount : ∀ k v, (Act.count .govCount 0 k v).Keeps f)
    (htold : (Act.govTold moved floor x y d0 d1).Keeps f) : (Act.govAfter g down up moved floor x y d0 d1).Keeps f :=
  keeps_all fun b hb => by
    simp only [List.mem_cons, List.not_mem_nil, or_false] at hb
    obtain rfl | rfl | rfl | rfl := hb
    · exact hcount _ _
    · exact hcount _ _
    · exact govBranch_keeps fun k => hcount k 1
    · exact htold

theorem Act.govAfter_keepsPow : (Act.govAfter g down up moved floor x y d0 d1).Keeps fun s => s.u.pow :=
  govAfter_keeps (fun _ _ => count_keeps_u (g := Units.pow)) (govTold_keeps (fun _ _ _ => fld_keeps_u (g := Units.pow)) (fun _ => rfl)
    (trace_keepsPow _ _ _ _ _) (count_keeps_u (g := Units.pow)) (govShow_keepsU Units.pow))

theorem Act.govAfter_keepsPowers {lo : Nat} (h : lo + 16 ≤ 32) :
    (Act.govAfter g down up moved floor x y d0 d1).Keeps fun s => s.fld .governorState 0 0 lo 16 :=
  govAfter_keeps (fun _ _ => ((touches_count (l := [(.govCount, 0)]) (by simp)).keepsRd (by decide) (by simp)).fld _ _ _)
    (govTold_keeps (fun _ _ _ => fld_keepsFld_apart (by decide) rfl (by show 0 * 8 + lo + 16 ≤ 8 * 32; omega) (by omega))
      (((raiseSrc_touches (l := []) _).keepsRd (by decide) (by simp)).fld _ _ _)
      (((trace_touches (l := []) _ _ _ _ _).keepsRd (by decide) (by simp)).fld _ _ _)
      (((touches_count (l := [(.govCount, 0)]) (by simp)).keepsRd (by decide) (by simp)).fld _ _ _) (govShow_keepsPowers h))

/-- The branch's counter rises by one. -/
theorem govAfter_counts (s : State) {k : Nat} (hk : g.counter = some k) :
    ((Act.govAfter g down up moved floor x y d0 d1).run s).cnt .govCount 0 k = (s.cnt .govCount 0 k + 1) % 2 ^ 64 := by
  have hrange : 2 ≤ k ∧ k ≤ 4 := by cases g <;> simp_all [GovStep.counter] <;> omega
  have hsize : 8 * k + 8 ≤ EName.govCount.info.size := by show 8 * k + 8 ≤ 64; omega
  have hother {j v : Nat} (hj : k ≠ j) : (Act.count .govCount 0 j v).Keeps fun s => s.cnt .govCount 0 k :=
    Act.count_keepsCnt_apart (by decide) rfl hsize hj
  have htold : (Act.govTold moved floor x y d0 d1).Keeps fun s => s.cnt .govCount 0 k :=
    Act.govTold_keeps (fun _ _ _ => ((Act.touches_fld (l := [(.governorState, 0)]) (by simp)).keepsRd (by decide) (by simp)).cnt k)
      (((Act.raiseSrc_touches (l := []) _).keepsRd (by decide) (by simp)).cnt k)
      (((Act.trace_touches (l := []) _ _ _ _ _).keepsRd (by decide) (by simp)).cnt k) (hother (by omega))
      ((Act.govShow_touches.keepsRd (by decide) (by simp)).cnt k)
  simp only [Act.govAfter, govBranch_eq, hk, Act.run_all_cons, Act.run_all_nil]
  refine (htold _).trans ((State.cnt_count _ (.of_vol _ (by decide) rfl) hsize).trans ?_)
  have h1 := hother (v := up) (j := 1) (by omega) ((Act.count .govCount 0 0 down).run s)
  have h0 := hother (v := down) (j := 0) (by omega) s
  dsimp only at h1 h0
  rw [h1, h0]

end

/-- The readings that a tick leaves. -/
theorem govReads_reads (s : State) (p a ex : Nat) (slow : Sensors) :
    let t := (Act.govReads p a ex slow).run s
    t.fld .governorState 0 0 0 16 = p % 2 ^ 16 ∧ t.fld .governorState 0 0 16 16 = a % 2 ^ 16 ∧ t.rd .inputMv = slow.mv.toNat ∧
      t.rd .inputMa = slow.ma.toNat ∧ t.rd .coolantIn = slow.coolantIn.toNat ∧ t.rd .coolantOut = slow.coolantOut.toNat := by
  have hset (x : State) {n : EName} (h0 : 0 < n.count) (hn : n.info.pers = .vol) (hsize : n.info.size = 4) (v : BitVec 32) :
      ((Act.reg n 0 v.toNat).run x).rd n = v.toNat := by
    rw [x.rd_reg _ (.of_vol x h0 hn), EName.fit, hsize]
    exact Nat.mod_eq_of_lt v.isLt
  have hreg {n k : EName} {v : Nat} (h0 : 0 < k.count) (hnk : k ≠ n) : (Act.reg n 0 v).Keeps fun s => s.rd k :=
    (Act.touches_reg (l := [(n, 0)]) (by simp)).keepsRd h0 (by simp [hnk])
  have hshown {n : EName} {v off lo len : Nat} (hn : n ≠ .governorState) : (Act.reg n 0 v).Keeps fun s => s.fld .governorState 0 off lo len :=
    (hreg (by decide) hn.symm).fld off lo len
  simp only [Act.govReads, Act.run_all_cons, Act.run_all_nil]
  refine ⟨?_, ?_, ?_, ?_, ?_, hset _ (by decide) rfl rfl _⟩
  · refine (hshown (by decide) _).trans <| (hshown (by decide) _).trans <| (hshown (by decide) _).trans <| (hshown (by decide) _).trans ?_
    refine (Act.fld_keepsFld_apart (by decide) rfl (by decide) (by decide) _).trans <|
      (Act.fld_keepsFld_apart (by decide) rfl (by decide) (by decide) _).trans (State.fld_fld _ _ (.of_vol _ (by decide) rfl) (by decide))
  · refine (hshown (by decide) _).trans <| (hshown (by decide) _).trans <| (hshown (by decide) _).trans <| (hshown (by decide) _).trans ?_
    exact (Act.fld_keepsFld_apart (by decide) rfl (by decide) (by decide) _).trans
      (State.fld_fld _ _ (.of_vol _ (by decide) rfl) (by decide))
  · exact (hreg (by decide) (by decide) _).trans <| (hreg (by decide) (by decide) _).trans <| (hreg (by decide) (by decide) _).trans
      (hset _ (by decide) rfl rfl _)
  · exact (hreg (by decide) (by decide) _).trans <| (hreg (by decide) (by decide) _).trans (hset _ (by decide) rfl rfl _)
  · exact (hreg (by decide) (by decide) _).trans (hset _ (by decide) rfl rfl _)

theorem target_of_list {new : Nat → Nat} {c d : Nat} (hc : c < 16) : tgetD ((List.range 16).map fun c => (c, new c)) c d = new c := by
  have h : ∀ l : List Nat, c ∈ l → tget (l.map fun c => (c, new c)) c = some (new c) := by
    intro l hl
    induction l with
    | nil => simp at hl
    | cons x r ih =>
      rw [List.map_cons, tget_cons]
      by_cases hx : x = c
      · simp [hx]
      · simp [hx, ih ((List.mem_cons.1 hl).resolve_left (Ne.symm hx))]
  rw [tgetD, h _ (List.mem_range.2 hc), Option.getD_some]

/-- A tick moves every column's target as its branch says, shows what was read, and counts the branch. -/
theorem governorTick_ticks {s : State} {p a mv10 : Nat} {slow : Sensors} {g : GovStep} (hon : s.fwRuns = true ∨ s.u.pow.ready = true)
    (hdeep : s.u.pow.deep = false)
    (hg : govStep p a (s.limitMw .peakW 55 mv10) (s.limitMw .sustainW 46 mv10) (s.limitMw .sustainW 46 slow.mv.toNat)
      (if s.limitMw .sustainW 46 mv10 < p * 1000 then s.fld .governorState 0 0x10 0 64 + 10000 else 0)
      (s.u.pow.sinceStep + 10000) = g) :
    let t := (Act.governor p a mv10 slow).run s
    (∀ c, c < 16 → t.target c = govClock g (s.ceiling c) (s.target c)) ∧
      t.fld .governorState 0 0 0 16 = p % 2 ^ 16 ∧ t.fld .governorState 0 0 16 16 = a % 2 ^ 16 ∧ t.rd .inputMv = slow.mv.toNat ∧
      t.rd .inputMa = slow.ma.toNat ∧ t.rd .coolantIn = slow.coolantIn.toNat ∧ t.rd .coolantOut = slow.coolantOut.toNat ∧
      (∀ k, g.counter = some k → t.cnt .govCount 0 k = (s.cnt .govCount 0 k + 1) % 2 ^ 64) ∧ SameMem s t := by
  obtain ⟨since, ex, down, up, moved, floor, x, y, d0, d1, hrun⟩ := governor_run hon hdeep hg
  intro t
  have htargets : (Act.govTargets since fun c => govClock g (s.ceiling c) (s.target c)).Touches [] :=
    Act.touches_pow fun _ => ⟨rfl, rfl⟩
  have hreads := Act.govReads_touches p a ex slow
  have hafter := Act.govAfter_touches (g := g) (down := down) (up := up) (moved := moved) (floor := floor) (x := x) (y := y) (d0 := d0)
    (d1 := d1)
  set s1 := (Act.govTargets since fun c => govClock g (s.ceiling c) (s.target c)).run s with hs1
  set s2 := (Act.govReads p a ex slow).run s1 with hs2
  obtain ⟨hp, ha, hmv, hma, hin, hout⟩ := govReads_reads s1 p a ex slow
  have hkeep {n : EName} (h0 : 0 < n.count) (hn : n ≠ .governorState ∧ n ≠ .govCount) : t.rd n = s2.rd n :=
    (congrArg (State.rd · n 0) hrun).trans (hafter.keepsRd h0 (by simp [hn]) s2)
  refine ⟨fun c hc => ?_, ?_, ?_, (hkeep (by decide) (by decide)).trans hmv, (hkeep (by decide) (by decide)).trans hma,
    (hkeep (by decide) (by decide)).trans hin, (hkeep (by decide) (by decide)).trans hout, fun k hk => ?_, ?_⟩
  · have hpow : t.u.pow = s1.u.pow :=
      (congrArg (fun s => s.u.pow) hrun).trans ((Act.govAfter_keepsPow s2).trans (Act.govReads_keepsU p a ex slow Units.pow s1))
    rw [State.target, hpow, hs1, Act.govTargets, Act.run_pow]
    exact target_of_list (new := fun c => govClock g (s.ceiling c) (s.target c)) hc
  · exact (congrArg (State.fld · .governorState 0 0 0 16) hrun).trans ((Act.govAfter_keepsPowers (by decide) s2).trans hp)
  · exact (congrArg (State.fld · .governorState 0 0 16 16) hrun).trans ((Act.govAfter_keepsPowers (by decide) s2).trans ha)
  · have hcnt : s2.cnt .govCount 0 k = s.cnt .govCount 0 k :=
      ((hreads.keepsRd (by decide) (by simp)).cnt k s1).trans ((htargets.keepsRd (by decide) (by simp)).cnt k s)
    exact (congrArg (State.cnt · .govCount 0 k) hrun).trans ((govAfter_counts s2 hk).trans (by rw [hcnt]))
  · rw [show t = _ from hrun]
    exact sameMem_trans (htargets.keepsMem s) (sameMem_trans (hreads.keepsMem s1) (hafter.keepsMem s2))

/-! ### Clock steps, samples and ceilings (R459, R467) -/

/-- A column's new clock is shown, and nothing else of it changes. -/
theorem clockStep_shows {a : Act} (ha : a.Touches [(.governorState, 0)]) (hu : a.Keeps fun s => s.u.pow) (s : State) {col : Nat}
    (hcol : col < 16) (v : Nat) : let t := (Act.seq (.fld .columnState 0 (4 * col) 16 16 v) a).run s
    t.fld .columnState 0 (4 * col) 16 16 = v % 2 ^ 16 ∧ t.colSt col = s.colSt col ∧ SameMem s t ∧
      SameEntriesBut [(.columnState, 0), (.governorState, 0)] s t := by
  have htouch : (Act.seq (.fld .columnState 0 (4 * col) 16 16 v) a).Touches [(.columnState, 0), (.governorState, 0)] :=
    Act.touches_seq (Act.touches_fld (by simp)) (ha.mono (by simp))
  have hkeep {off lo len : Nat} : a.Keeps fun s => s.fld .columnState 0 off lo len := (ha.keepsRd (by decide) (by simp)).fld _ _ _
  refine ⟨(hkeep _).trans (State.fld_fld _ _ (.of_vol _ (by decide) rfl) (by show 4 * col * 8 + 16 + 16 ≤ 8 * 64; omega)), ?_, htouch s⟩
  have hpow : ((Act.seq (.fld .columnState 0 (4 * col) 16 16 v) a).run s).u.pow = s.u.pow :=
    (hu _).trans (Act.fld_keeps_u (g := Units.pow) s)
  have hst : ((Act.seq (.fld .columnState 0 (4 * col) 16 16 v) a).run s).fld .columnState 0 (4 * col) 0 2 =
      s.fld .columnState 0 (4 * col) 0 2 :=
    (hkeep _).trans (Act.fld_keepsFld_apart (by decide) rfl (by show 4 * col * 8 + 0 + 2 ≤ 8 * 64; omega) (.inl (by omega)) s)
  rw [State.colSt, State.colSt, hpow, hst]

theorem clockChange_run {s : State} {col : Nat} (hon : s.colPowered col = true) :
    (Act.clockChange col).run s = (Act.seq (.fld .columnState 0 (4 * col) 16 16 (s.target col)) .govShow).run s := by
  rw [Act.clockChange, Act.run_get, hon, Act.when_true]

/-- What a die sample keeps, before the limit is looked at. -/
def Act.dieSampled (col : Nat) (t : Int) : Act :=
  .seq (.pow fun w => { w with dieTemp := tset w.dieTemp col t })
    (.get fun s => .fld .governorState 0 8 8 8 (ofInt 8 ((s.u.pow.dieTemp.map Prod.snd).foldl max t)))

theorem dieTemp_run {s : State} (hpower : s.u.pow.power = true) (col : Nat) (x : Int) :
    (Act.dieTemp col x).run s = (Act.when (115 ≤ x) (.fatal fatalDie 0 0)).run ((Act.dieSampled col x).run s) := by
  rw [Act.dieTemp, Act.run_get, hpower, Act.when_true, Act.run_all_cons, Act.run_all_cons, Act.run_all_cons, Act.run_all_nil]
  rfl

theorem dieSampled_pow (s : State) (col : Nat) (x : Int) :
    ((Act.dieSampled col x).run s).u.pow = { s.u.pow with dieTemp := tset s.u.pow.dieTemp col x } :=
  Act.fld_keeps_u (g := Units.pow) _

theorem Act.dieSampled_touches (col : Nat) (x : Int) : (Act.dieSampled col x).Touches [(.governorState, 0)] :=
  touches_seq (touches_pow fun _ => ⟨rfl, rfl⟩) (touches_get fun _ => touches_fld (by simp))

theorem dieTemp_ends {s : State} (hpower : s.u.pow.power = true) (hfatal : s.u.pow.fatal = false) (col : Nat) {x : Int} (hx : 115 ≤ x) :
    ((Act.dieTemp col x).run s).u.pow.fatal = true ∧ ((Act.dieTemp col x).run s).fld .fatalState 0 0 0 16 = 7 := by
  have hpow := dieSampled_pow s col x
  obtain ⟨hlatch, -, hrec, -, -⟩ := fatal_enters (s := (Act.dieSampled col x).run s) (by rw [hpow]; exact hpower) (by rw [hpow]; exact hfatal)
    fatalDie 0 0
  rw [dieTemp_run hpower, decide_eq_true hx, Act.when_true]
  refine ⟨hlatch, ?_⟩
  rw [State.fld, hrec, EName.fit, bits_mod (by decide)]
  generalize State.now _ = now
  rw [bits, Nat.shiftRight_eq_div_pow, fatalDie]
  omega

/-! ### Ceilings -/

theorem tget_ceilStep_fall (t : Tab Nat) (k mx : Nat) : tget (ceilStep t k mx true) k = some (max 800 (tgetD t k mx - 50)) :=
  tget_tset_same t k _

theorem tget_ceilStep_rise {t : Tab Nat} {k c : Nat} (mx : Nat) (h : tget t k = some c) :
    tget (ceilStep t k mx false) k = if mx ≤ c + 50 then none else some (c + 50) := by
  have hc : tgetD t k mx = c := by rw [tgetD, h, Option.getD_some]
  rw [ceilStep, hc]
  simp only [Bool.false_eq_true, if_false]
  split_ifs
  · exact tget_tdel_same t k
  · exact tget_tset_same t k _

/-- A ceiling falls: power is as said, the step counts, and memory stays. -/
theorem ceilingFalls {a : Act} (ha : a.Touches [(.governorState, 0)]) (hu : a.Keeps fun s => s.u.pow) (s : State) (g : PowU → PowU) (hg : ∀ p, (g p).flashOk = p.flashOk ∧ (g p).straps = p.straps) {k : Nat} (hk : k < 8) :
    let t := (Act.all [.pow g, .count .govCount 0 k, a]).run s
    t.u.pow = g s.u.pow ∧ t.cnt .govCount 0 k = (s.cnt .govCount 0 k + 1) % 2 ^ 64 ∧ SameMem s t := by
  have hpow : (Act.pow g).Touches [] := Act.touches_pow hg
  have hcount : (Act.count .govCount 0 k).Touches [(.govCount, 0)] := Act.touches_count (by simp)
  refine ⟨?_, ?_, ?_⟩
  · exact (hu _).trans (Act.count_keeps_u (g := Units.pow) _)
  · refine ((ha.keepsRd (by decide) (by simp)).cnt k _).trans
      ((State.cnt_count _ (.of_vol _ (by decide) rfl) (by show 8 * k + 8 ≤ 64; omega)).trans ?_)
    have hbefore : (Act.pow g).Keeps fun s => s.cnt .govCount 0 k := (hpow.keepsRd (by decide) (by simp)).cnt k
    exact congrArg (fun x => (x + 1) % 2 ^ 64) (hbefore s)
  · exact sameMem_trans (hpow.keepsMem s) (sameMem_trans (hcount.keepsMem _) (ha.keepsMem _))

/-- A ceiling rises: power is as said, and memory stays. -/
theorem ceilingRises {a : Act} (ha : a.Touches [(.governorState, 0)]) (hu : a.Keeps fun s => s.u.pow) (s : State) (g : PowU → PowU) (hg : ∀ p, (g p).flashOk = p.flashOk ∧ (g p).straps = p.straps) :
    let t := (Act.seq (.pow g) a).run s
    t.u.pow = g s.u.pow ∧ SameMem s t :=
  have hpow : (Act.pow g).Touches [] := Act.touches_pow hg
  ⟨hu _, sameMem_trans (hpow.keepsMem s) (ha.keepsMem _)⟩

section
variable {s : State} {col : Nat}

theorem columnCeiling_falls (hcol : col < 16) (hot : 105 ≤ tgetD s.u.pow.dieTemp col 0) : let t := (Act.ceilingStep col).run s
    tget t.u.pow.dieCeil col = some (max 800 (tgetD s.u.pow.dieCeil col (s.rd .clockMaxMhz) - 50)) ∧
      t.cnt .govCount 0 6 = (s.cnt .govCount 0 6 + 1) % 2 ^ 64 ∧ SameMem s t := by
  obtain ⟨hpow, hcnt, hmem⟩ := ceilingFalls Act.govShow_touches (Act.govShow_keepsU Units.pow) s (fun w => { w with dieCeil := ceilStep w.dieCeil col (s.rd .clockMaxMhz) true })
    (fun _ => ⟨rfl, rfl⟩) (k := 6) (by decide)
  rw [Act.ceilingStep, Act.run_get]
  simp only [hcol, hot, if_true]
  refine ⟨?_, hcnt, hmem⟩
  rw [hpow]
  exact tget_ceilStep_fall _ _ _

theorem columnCeiling_rises {c : Nat} (hcol : col < 16) (hcool : tgetD s.u.pow.dieTemp col 0 < 102) (hc : tget s.u.pow.dieCeil col = some c) :
    let t := (Act.ceilingStep col).run s
    tget t.u.pow.dieCeil col = (if s.rd .clockMaxMhz ≤ c + 50 then none else some (c + 50)) ∧ SameMem s t := by
  obtain ⟨hpow, hmem⟩ := ceilingRises Act.govShow_touches (Act.govShow_keepsU Units.pow) s (fun w => { w with dieCeil := ceilStep w.dieCeil col (s.rd .clockMaxMhz) false }) 
    fun _ => ⟨rfl, rfl⟩
  have hnot : ¬ 105 ≤ tgetD s.u.pow.dieTemp col 0 := by omega
  rw [Act.ceilingStep, Act.run_get]
  simp only [hcol, hnot, hcool, hc, Option.isSome_some, decide_true, Bool.and_self, Act.when_true, if_true, if_false]
  refine ⟨?_, hmem⟩
  rw [hpow]
  exact tget_ceilStep_rise _ hc

theorem halfCeiling_falls (hcol : 16 ≤ col) (hot : ((List.range 10).any fun i => s.hot (10 * (col - 16) + i)) = true) :
    let t := (Act.ceilingStep col).run s
    tget t.u.pow.halfCeil (col - 16) = some (max 800 (tgetD s.u.pow.halfCeil (col - 16) (s.rd .clockMaxMhz) - 50)) ∧
      t.cnt .govCount 0 5 = (s.cnt .govCount 0 5 + 1) % 2 ^ 64 ∧ SameMem s t := by
  obtain ⟨hpow, hcnt, hmem⟩ := ceilingFalls Act.govShow_touches (Act.govShow_keepsU Units.pow) s (fun w => { w with halfCeil := ceilStep w.halfCeil (col - 16) (s.rd .clockMaxMhz) true })
    (fun _ => ⟨rfl, rfl⟩) (k := 5) (by decide)
  have hnot : ¬ col < 16 := by omega
  rw [Act.ceilingStep, Act.run_get]
  simp only [hnot, hot, if_true, if_false]
  refine ⟨?_, hcnt, hmem⟩
  rw [hpow]
  exact tget_ceilStep_fall _ _ _

theorem halfCeiling_rises {c : Nat} (hcol : 16 ≤ col) (hcool : ((List.range 10).any fun i => s.hot (10 * (col - 16) + i)) = false)
    (hc : tget s.u.pow.halfCeil (col - 16) = some c) : let t := (Act.ceilingStep col).run s
    tget t.u.pow.halfCeil (col - 16) = (if s.rd .clockMaxMhz ≤ c + 50 then none else some (c + 50)) ∧ SameMem s t := by
  obtain ⟨hpow, hmem⟩ := ceilingRises Act.govShow_touches (Act.govShow_keepsU Units.pow) s (fun w => { w with halfCeil := ceilStep w.halfCeil (col - 16) (s.rd .clockMaxMhz) false })
    fun _ => ⟨rfl, rfl⟩
  have hnot : ¬ col < 16 := by omega
  rw [Act.ceilingStep, Act.run_get]
  simp only [hnot, hcool, hc, Option.isSome_some, Act.when_true, if_false, Bool.false_eq_true]
  refine ⟨?_, hmem⟩
  rw [hpow]
  exact tget_ceilStep_rise _ hc

end

end Sys2Proof.Machine
end

section

namespace Sys2Proof.Machine

/-- Settles O45: a tick is its targets, its readings and the count of its branch; steps and samples change what they say. -/
theorem governorSetsClocks : Obligations.GovernorSetsClocks := by
  unfold Obligations.GovernorSetsClocks
  intro s
  refine ⟨fun p a mv10 slow hon hdeep => ⟨_, rfl, ?_⟩, fun col hon => ⟨_, congrArg Host.Outcome.next (clockChange_run hon), ?_⟩,
    fun col x hpower => ⟨fun hx => ⟨_, congrArg Host.Outcome.next (dieTemp_run hpower col x), ?_⟩, fun hx hfatal => ⟨_, rfl, ?_⟩⟩,
    fun col hcol => ⟨fun hot => ⟨_, rfl, ?_⟩, fun c hcool hc => ⟨_, rfl, ?_⟩⟩,
    fun half hhalf => ⟨fun hot => ⟨_, rfl, ?_⟩, fun c hcool hc => ⟨_, rfl, ?_⟩⟩⟩
  · obtain ⟨htarget, hp, ha, hmv, hma, hin, hout, hcount, hmem⟩ := governorTick_ticks (p := p) (a := a) (mv10 := mv10) (slow := slow) hon hdeep rfl
    refine ⟨htarget, hp, ha, hmv, hma, hin, hout, fun h => ?_, fun h => ?_, fun h => ?_, hmem⟩ <;> exact hcount _ (by rw [h]; rfl)
  · exact clockStep_shows Act.govShow_touches (Act.govShow_keepsU Units.pow) s col.isLt _
  · rw [decide_eq_false (by omega), Act.when_false, Act.run_skip]
    refine ⟨?_, Act.dieSampled_touches _ _ s⟩
    rw [dieSampled_pow]
    exact tget_tset_same _ _ _
  · exact dieTemp_ends hpower hfatal _ hx
  · exact columnCeiling_falls hcol hot
  · exact columnCeiling_rises hcol hcool hc
  · exact halfCeiling_falls hhalf hot
  · exact halfCeiling_rises hhalf hcool hc

end Sys2Proof.Machine
end

section
/-! SUPPORT. Columns that lose their clock and their power, and wake (R460, R461). -/

namespace Sys2Proof.Machine

/-! ### A slot passes on: what that leaves of the cores -/

/-- A slot of a core has passed on, or not: memory, entries apart from the core's slot counters, the engines, what contexts keep there,
and power are as before. -/
structure PassedOn (core : Nat) (s t : State) : Prop where
  frame : SameMem s t ∧ SameEntriesBut [(.slotCount, core)] s t
  engQ : t.u.core.engQ = s.u.core.engQ
  cc : t.u.core.cc = s.u.core.cc
  pow : t.u.pow = s.u.pow

section
variable {s t u : State} {core k ctx col : Nat}

theorem PassedOn.refl (s : State) : PassedOn core s s := ⟨⟨fun _ _ _ => rfl, fun _ _ _ _ => rfl⟩, rfl, rfl, rfl⟩

theorem PassedOn.trans (h : PassedOn core s t) (h' : PassedOn core t u) : PassedOn core s u :=
  ⟨frame_trans h.frame h'.frame, h'.engQ.trans h.engQ, h'.cc.trans h.cc, h'.pow.trans h.pow⟩

theorem PassedOn.quiet (h : PassedOn core s t) {c : Nat} (hq : QuietCore s c) : QuietCore t c := hq.of_core h.engQ h.cc

theorem waitSlot_passes (s : State) (core ctx : Nat) : PassedOn core s ((Act.waitSlot core ctx).run s) :=
  ⟨Act.waitSlot_touches _ _ s, Act.waitSlot_keepsCore (f := CoreU.engQ) (fun _ _ _ => rfl) core ctx s,
    Act.waitSlot_keepsCore (f := CoreU.cc) (fun _ _ _ => rfl) core ctx s,
    (Act.keeps_get (f := fun s => s.u.pow) fun _ => Act.keeps_when fun _ _ => rfl) s⟩

theorem giveSlot_passes (h : QuietCore s core) : PassedOn core s ((Act.giveSlot core k ctx).run s) := by
  refine ⟨giveSlot_frame h, ?_, ?_, ?_⟩
  · rw [giveSlot_quiet h]; exact Act.count_keeps_u (g := fun u => u.core.engQ) _
  · rw [giveSlot_quiet h]; exact Act.count_keeps_u (g := fun u => u.core.cc) _
  · rw [giveSlot_quiet h]; exact Act.count_keeps_u (g := fun u => u.pow) _

theorem deferNote_keeps {α : Type} {f : State → α} (h : ∀ g, (Act.slot core k g).Keeps f) : (Act.deferNote core k).Keeps f :=
  Act.keeps_get fun _ => by
  split
  · exact Act.keeps_skip
  · exact Act.keeps_when fun _ => h _

theorem deferNote_passes (s : State) (core k : Nat) : PassedOn core s ((Act.deferNote core k).run s) :=
  ⟨Act.deferNote_touches _ _ s, deferNote_keeps (f := fun s => s.u.core.engQ) (fun _ _ => rfl) s,
    deferNote_keeps (f := fun s => s.u.core.cc) (fun _ _ => rfl) s, deferNote_keeps (f := fun s => s.u.pow) (fun _ _ => rfl) s⟩

/-- Actions each of which passes on, one after another. -/
theorem each_passes {l : List Nat} {f : Nat → Act} (h : ∀ x ∈ l, ∀ s, QuietCore s core → PassedOn core s ((f x).run s))
    (hs : QuietCore s core) : PassedOn core s ((Act.each l f).run s) := by
  induction l generalizing s with
  | nil => exact .refl s
  | cons x l ih =>
    have hx := h x (List.mem_cons_self ..) s hs
    exact hx.trans (ih (fun y hy => h y (List.mem_cons_of_mem _ hy)) (hx.quiet hs))

theorem wantSlot_passes (h : QuietCore s core) : PassedOn core s ((Act.wantSlot core ctx).run s) := by
  simp only [Act.wantSlot, Act.run_get]
  split
  · exact .refl s
  · have hwait := waitSlot_passes s core ctx
    refine hwait.trans ?_
    split
    · rw [Act.run_seq, Act.run_get]
      split
      · exact giveSlot_passes (hwait.quiet h)
      · exact .refl _
    · rw [Act.run_seq]
      exact each_passes (fun k _ s _ => deferNote_passes s core k) (hwait.quiet h)

/-! ### A column's entry -/

theorem coresOfCol_iff {core : Nat} : core ∈ coresOfCol col ↔ col * 12 ≤ core ∧ core < (col + 1) * 12 := by
  simp only [coresOfCol, List.mem_map, List.mem_range]
  constructor
  · rintro ⟨i, hi, rfl⟩; omega
  · intro h; exact ⟨core - col * 12, by omega, by omega⟩

theorem State.colSt_congr (hpow : t.u.pow.power = s.u.pow.power) (hrd : t.rd .columnState = s.rd .columnState) :
    t.colSt col = s.colSt col := by
  rw [State.colSt, State.colSt, hpow, State.fld, State.fld, hrd]

theorem State.colSt_powered (h : s.u.pow.power = true) : s.colSt col = s.fld .columnState 0 (4 * col) 0 2 := if_pos h

theorem power_of_colSt (h : s.colSt col ≠ 2) : s.u.pow.power = true := by
  by_contra hno
  exact h (if_neg hno)

/-- The column's state once it is written. -/
theorem colSt_written (hpower : s.u.pow.power = true) (hcol : col < 16) {st : Nat} (hst : st < 4) :
    ((Act.colSt col st).run s).colSt col = st := by
  have hon : ((Act.colSt col st).run s).u.pow.power = true := (Act.fld_keeps_u (g := fun u => u.pow.power) s).trans hpower
  rw [State.colSt_powered hon]
  exact (State.fld_fld s st (.of_vol s (by decide) rfl) (by show 4 * col * 8 + 0 + 2 ≤ 8 * 64; omega)).trans (Nat.mod_eq_of_lt hst)

theorem Act.dozeIfIdle_touches : Act.dozeIfIdle.Touches [(.deviceState, 0)] :=
  touches_get fun _ => touches_when (touches_reg (by simp))

theorem Act.dozeIfIdle_keepsU {α : Type} {g : Units → α} : Act.dozeIfIdle.Keeps fun s => g s.u :=
  keeps_get fun _ => keeps_when fun _ => reg_keeps_u

/-- An idle column loses its clock. -/
theorem columnGate_gates (hcol : col < 16) (hst : s.colSt col = 0) (hidle : s.colIdle col = true) :
    let t := (Act.columnGate col).run s
    t.colSt col = 1 ∧ SameMem s t ∧ SameEntriesBut [(.columnState, 0), (.deviceState, 0)] s t := by
  have htouch : (Act.seq (.colSt col 1) .dozeIfIdle).Touches [(.columnState, 0), (.deviceState, 0)] :=
    Act.touches_seq (Act.touches_fld (by simp)) (Act.dozeIfIdle_touches.mono (by simp))
  have hrun : (Act.columnGate col).run s = (Act.seq (.colSt col 1) .dozeIfIdle).run s := by
    rw [Act.columnGate, Act.run_get, hst, hidle]; rfl
  rw [hrun]
  refine ⟨?_, htouch s⟩
  rw [Act.run_seq, State.colSt_congr (Act.dozeIfIdle_keepsU (g := fun u => u.pow.power) _)
    (Act.dozeIfIdle_touches.keepsRd (by decide) (by simp) _)]
  exact colSt_written (power_of_colSt (col := col) (by omega)) hcol (by decide)

/-! ### Its slot holders are saved -/

/-- What saving a context leaves: all but the cores' state, stalls and side entries. -/
theorem Aside.saveOut {α : Type} {f : State → α} (h : Aside f) (hcore : ∀ g, (Act.core g).Keeps f) (core k ctx : Nat) :
    (Act.saveOut core k ctx).Keeps f :=
  Act.keeps_get fun _ => Act.keeps_seq (hcore _) <| Act.keeps_seq (Act.keeps_each fun _ _ => hcore _) <| Act.keeps_seq (hcore _) <|
    Act.keeps_seq (Act.keeps_get fun _ => Act.keeps_each fun _ _ => h.stallEnd _) <|
    Act.keeps_seq (Act.keeps_get fun _ => Act.keeps_when fun _ => Act.keeps_get fun _ => Act.keeps_when fun _ => hcore _) Act.keeps_skip

theorem Act.saveOut_keepsStore (core k ctx : Nat) (m : MemSel) : (Act.saveOut core k ctx).Keeps fun s => s.store m :=
  keeps_get fun _ => keeps_seq (units_keeps_store m) <| keeps_seq (keeps_each fun _ _ => units_keeps_store m) <|
    keeps_seq (units_keeps_store m) <| keeps_seq (keeps_get fun _ => keeps_each fun _ _ => stallEnd_keepsStore _ m) <|
    keeps_seq (keeps_get fun _ => keeps_when fun _ => keeps_get fun _ => keeps_when fun _ => units_keeps_store m) keeps_skip

/-- The slot is free, and the others are as before. -/
theorem saveOut_slots (s : State) (core k ctx : Nat) :
    ((Act.saveOut core k ctx).run s).u.core.slots = tmod s.u.core.slots (core * 4 + k) {} fun _ => {} := by
  have hcc {g : CtxCore → CtxCore} : (Act.ctxCore core ctx g).Keeps fun s => s.u.core.slots := fun _ => rfl
  have hengQ {g : Nat → List Cmd → List Cmd} : (Act.each (List.range 7) fun e => .engQ core e (g e)).Keeps fun s => s.u.core.slots :=
    Act.keeps_each fun _ _ _ => rfl
  have hsettle : Act.settleQueues.Keeps fun s => s.u.core.slots := fun s => congrArg CoreU.slots (Act.settleQueues_keepsCore s)
  have hwait : (Act.get fun t => .when (t.needsSlot core ctx) (.waitSlot core ctx)).Keeps fun s => s.u.core.slots :=
    Act.keeps_get fun _ => Act.keeps_when fun _ => Act.waitSlot_keepsCore (fun _ _ _ => rfl) core ctx
  rw [Act.saveOut, Act.run_get]
  simp only [Act.run_all_cons, Act.run_all_nil]
  refine (hwait _).trans ((hsettle _).trans ?_)
  exact congrArg (tmod · (core * 4 + k) {} fun _ => {}) ((hengQ _).trans (hcc s))

/-- A holder of a slot, where it has one. -/
def State.holder (s : State) (core k : Nat) : Option Nat := (s.slot core k).holder

theorem saveOut_holder (s : State) (core k ctx core' k' : Nat) :
    ((Act.saveOut core k ctx).run s).holder core' k' = if core' * 4 + k' = core * 4 + k then none else s.holder core' k' := by
  rw [State.holder, State.slot, saveOut_slots]
  split_ifs with h
  · rw [h, tgetD_tmod_same]
  · rw [tgetD_tmod_other _ _ _ h]; rfl

/-- Slots that are free stay free while holders are saved, and those saved become free. -/
theorem saveOuts_free {l : List (Nat × Nat × Nat)} {s : State} {core k : Nat} (h : s.holder core k = none ∨ ∃ c, (core, k, c) ∈ l) :
    ((Act.each l fun h => .saveOut h.1 h.2.1 h.2.2).run s).holder core k = none := by
  induction l generalizing s with
  | nil => exact h.resolve_right (by simp)
  | cons x l ih =>
    rw [Act.run_each_cons]
    refine ih ?_
    rw [saveOut_holder]
    split_ifs with hx
    · exact .inl rfl
    · refine h.imp_right ?_
      rintro ⟨c, hc⟩
      refine ⟨c, (List.mem_cons.1 hc).resolve_left ?_⟩
      rintro rfl
      exact hx rfl

theorem mem_holders {s : State} {cores : List Nat} {core k c : Nat} (hcore : core ∈ cores) (hk : k < 4) (h : s.holder core k = some c) :
    (core, k, c) ∈ s.holders cores := by
  simp only [State.holders, List.mem_flatMap, List.mem_filterMap, List.mem_range]
  exact ⟨core, hcore, k, hk, by rw [← State.holder, h]; rfl⟩

/-- The holders of the cores are saved. -/
def State.savedOut (s : State) (col : Nat) : State :=
  (Act.each (s.holders (coresOfCol col)) fun h => .saveOut h.1 h.2.1 h.2.2).run s

theorem columnDown_run (s : State) (col : Nat) : (Act.columnDown col).run s = (Act.columnLost col).run (s.savedOut col) := by
  rw [Act.columnDown, Act.run_get, Act.run_all_cons, Act.run_all_cons, Act.run_all_nil, State.savedOut]

theorem savedOut_view {α : Type} {f : State → α} (h : Aside f) (hcore : ∀ g, (Act.core g).Keeps f) (s : State) (col : Nat) :
    f (s.savedOut col) = f s := Act.keeps_each (fun _ _ => h.saveOut hcore _ _ _) s

theorem savedOut_store (s : State) (col : Nat) (m : MemSel) : (s.savedOut col).store m = s.store m :=
  Act.keeps_each (fun _ _ => Act.saveOut_keepsStore _ _ _ m) s

theorem savedOut_free (s : State) {core k : Nat} (hcore : core ∈ coresOfCol col) (hk : k < 4) : (s.savedOut col).holder core k = none :=
  saveOuts_free <| by
    cases h : s.holder core k with
    | none => exact .inl rfl
    | some c => exact .inr ⟨c, mem_holders hcore hk h⟩

/-! ### And its scratch is lost -/

/-- What is lost of scratch reads 0, free of poison (log entry 3). -/
theorem lose_byte {m : Store} {lo hi a : Nat} (hlo : lo ≤ a) (hhi : a < hi) : (m.lose .scratch lo hi).byte a = 0#8 := by
  have hgone : (decide (a < lo) || decide (hi ≤ a)) = false := by
    simp only [Bool.or_eq_false_iff, decide_eq_false_iff_not]; omega
  have hnone : tget (m.lose .scratch lo hi).bytes a = none := by
    refine (tget_filter m.bytes (fun a => decide (a < lo) || decide (hi ≤ a)) a).trans ?_
    rw [hgone]; rfl
  rw [Store.byte, hnone, Option.getD_none]

theorem lose_poison {m : Store} {lo hi a : Nat} (hlo : lo ≤ a) (hhi : a < hi) : (m.lose .scratch lo hi).poison.contains a = false := by
  rw [← Bool.not_eq_true, List.contains_iff_mem, Store.lose, List.mem_filter]
  rintro ⟨-, h⟩
  have hapart : (a + 1) * 1 ≤ lo ∨ hi ≤ a * 1 := by simpa [MemSel.grain] using h
  omega

theorem columnLost_scratch (s : State) {core off : Nat} (hcore : core ∈ coresOfCol col) (hoff : off < 2 ^ 21) :
    ((Act.columnLost col).run s).rdScr core off 1 = [(0#8, false)] := by
  obtain ⟨hlo, hhi⟩ := coresOfCol_iff.1 hcore
  have hstore : ((Act.columnLost col).run s).store .scratch =
      ((Act.fld .columnState 0 (4 * col) 0 32 2).run s).scratch.lose .scratch (col * 12 * 2 ^ 21) ((col + 1) * 12 * 2 ^ 21) := rfl
  simp only [State.rdScr, State.rdMem, hstore, List.range_one, List.map_cons, List.map_nil, Nat.add_zero, MemSel.grain, Nat.div_one]
  rw [lose_byte (by omega) (by omega), lose_poison (by omega) (by omega)]

theorem Act.columnLost_keepsStore {m : MemSel} (hm : m ≠ .scratch) : (Act.columnLost col).Keeps fun s => s.store m := fun s => by
  have hlose (x : State) {a b : Nat} : ((Act.upd (.lose .scratch a b)).run x).store m = x.store m := by
    cases m with
    | scratch => exact absurd rfl hm
    | stack => rfl
    | host => rfl
  exact (hlose _).trans (fld_keeps_store m s)

theorem Act.columnLost_keepsU {α : Type} {g : Units → α} : (Act.columnLost col).Keeps fun s => g s.u := fun s =>
  Act.fld_keeps_u (g := g) s

theorem Act.lose_keepsRd {n : EName} {i a b : Nat} {m : MemSel} : (Act.upd (.lose m a b)).Keeps fun s => s.rd n i := fun s =>
  State.rd_congr (by cases m <;> rfl) (by cases m <;> rfl) n i

theorem Act.columnLost_keepsRd {n : EName} {i : Nat} (hi : i < n.count) (hn : n ≠ .columnState) : (Act.columnLost col).Keeps fun s => s.rd n i :=
  keeps_seq ((touches_fld (l := [(.columnState, 0)]) (by simp)).keepsRd hi (by simp [hn])) lose_keepsRd

theorem columnLost_off (hpower : s.u.pow.power = true) (hcol : col < 16) : ((Act.columnLost col).run s).colSt col = 2 := by
  have hon : ((Act.columnLost col).run s).u.pow.power = true := (Act.columnLost_keepsU (g := fun u => u.pow.power) s).trans hpower
  have hcell : ((Act.fld .columnState 0 (4 * col) 0 32 2).run s).fld .columnState 0 (4 * col) 0 32 = 2 :=
    State.fld_fld s 2 (.of_vol s (by decide) rfl) (by show 4 * col * 8 + 0 + 32 ≤ 8 * 64; omega)
  rw [State.colSt_powered hon]
  have hlow : (2 : Nat) = bits (((Act.fld .columnState 0 (4 * col) 0 32 2).run s).rd .columnState) (8 * (4 * col) + 0) 2 := by
    rw [State.fld, bits] at hcell
    rw [bits, ← Nat.mod_mod_of_dvd _ (by decide : 2 ^ 2 ∣ 2 ^ 32), hcell]
    decide
  exact hlow.symm

/-! ### Power-off -/

/-- What a column's power-off leaves where its holders are saved. -/
theorem columnPowerOff_off (hcol : col < 16) (hon : s.colPowered col = true) (hidle : s.colIdle col = true)
    (hus : s.rd .columnOffUs ≠ 0) (hfree : (s.holders (coresOfCol col)).any s.holdsPower = false)
    (hroom : s.poolHoldsAll (s.holders (coresOfCol col)) = true) : let t := (Act.columnPowerOff col).run s
    t.colSt col = 2 ∧
      (∀ core ∈ coresOfCol col, (∀ k, k < 4 → (t.slot core k).holder = none) ∧ ∀ off, off < 2 ^ 21 → t.rdScr core off 1 = [(0#8, false)]) ∧
      t.cnt .stateCount 0 1 = (s.cnt .stateCount 0 1 + 1) % 2 ^ 64 ∧ t.stack = s.stack ∧ t.host = s.host := by
  have hrun : (Act.columnPowerOff col).run s = Act.dozeIfIdle.run ((Act.count .stateCount 0 1).run ((Act.columnDown col).run s)) := by
    have hgo : (s.colPowered col && s.colIdle col && s.rd .columnOffUs != 0 && !(s.holders (coresOfCol col)).any s.holdsPower) = true := by
      simp [hon, hidle, hus, hfree]
    rw [Act.columnPowerOff, Act.run_get]
    simp only [hgo, hroom, Act.when_true, if_true, Act.run_all_cons, Act.run_all_nil]
  have hpower : s.u.pow.power = true := power_of_colSt (col := col) (by
    rw [State.colPowered, decide_eq_true_eq] at hon; omega)
  have hsaved : (s.savedOut col).u.pow = s.u.pow := savedOut_view (.ofUnits fun _ _ h => h.pow) (fun _ _ => rfl) s col
  have hdown := columnDown_run s col
  set t1 := (Act.columnDown col).run s
  set t2 := Act.dozeIfIdle.run ((Act.count .stateCount 0 1).run t1) with ht2
  have hcount : (Act.count .stateCount 0 1).Touches [(.stateCount, 0)] := Act.touches_count (by simp)
  have hpow2 : t2.u.pow.power = t1.u.pow.power :=
    (Act.dozeIfIdle_keepsU (g := fun u => u.pow.power) _).trans (Act.count_keeps_u (g := fun u => u.pow.power) _)
  have hcore2 : t2.u.core = t1.u.core := (Act.dozeIfIdle_keepsU (g := Units.core) _).trans (Act.count_keeps_u (g := Units.core) _)
  have hstore2 (m : MemSel) : t2.store m = t1.store m :=
    (Act.keeps_get (f := fun s => s.store m) (fun _ => Act.keeps_when fun _ => Act.reg_keeps_store m) _).trans (Act.count_keeps_store m _)
  have hcol2 : t2.rd .columnState = t1.rd .columnState :=
    (Act.dozeIfIdle_touches.keepsRd (by decide) (by simp) _).trans (hcount.keepsRd (by decide) (by simp) _)
  have hother {m : MemSel} (hm : m ≠ .scratch) : t1.store m = s.store m := by
    rw [hdown]; exact (Act.columnLost_keepsStore hm _).trans (savedOut_store s col m)
  rw [hrun]
  refine ⟨?_, fun core hcore => ⟨fun k hk => ?_, fun off hoff => ?_⟩, ?_, (hstore2 .stack).trans (hother (by decide)),
    (hstore2 .host).trans (hother (by decide))⟩
  · rw [State.colSt_congr hpow2 hcol2, hdown]
    exact columnLost_off (by rw [hsaved]; exact hpower) hcol
  · have hslots : t2.u.core.slots = (s.savedOut col).u.core.slots := by
      rw [hcore2, hdown]; exact Act.columnLost_keepsU (g := fun u => u.core.slots) _
    rw [State.slot, hslots]
    exact savedOut_free s hcore hk
  · have hscr : t2.rdScr core off 1 = t1.rdScr core off 1 := by simp only [State.rdScr, State.rdMem, hstore2]
    rw [hscr, hdown]
    exact columnLost_scratch _ hcore hoff
  · have hbefore : t1.rd .stateCount = s.rd .stateCount := by
      rw [hdown]
      exact (Act.columnLost_keepsRd (by decide) (by decide) _).trans (savedOut_view (.rd (by decide) (by decide)) (fun g => (Act.touches_core (l := []) g).keepsRd (by decide) (by simp)) s col)
    refine (((Act.dozeIfIdle_touches.keepsRd (by decide) (by simp)).cnt 1) _).trans ((State.cnt_count t1 (.of_vol _ (by decide) rfl) (by decide)).trans ?_)
    rw [State.cnt, State.fld, hbefore]; rfl

/-! ### No room in the save pool -/

theorem nodup_eraseDups (l : List Nat) : l.eraseDups.Nodup := by
  match l with
  | [] => simp
  | a :: l =>
    rw [List.eraseDups_cons, List.nodup_cons]
    refine ⟨fun h => ?_, nodup_eraseDups _⟩
    rw [List.mem_eraseDups, List.mem_filter] at h
    simp at h
termination_by l.length
decreasing_by exact Nat.lt_succ_of_le (List.length_filter_le _ _)

theorem eachCount_counts {n : EName} {k : Nat} (hn : n.info.pers = .vol) (hs : 8 * k + 8 ≤ n.info.size) {l : List Nat} (hl : l.Nodup)
    (hcount : ∀ c ∈ l, c < n.count) (s : State) {c : Nat} (hc : c ∈ l) :
    ((Act.each l fun c => .count n c k).run s).cnt n c k = (s.cnt n c k + 1) % 2 ^ 64 := by
  have hapart {c' : Nat} (hne : c ≠ c') (hlt : c < n.count) : (Act.count n c' k).Keeps fun s => s.cnt n c k :=
    ((Act.touches_count (l := [(n, c')]) (by simp)).keepsRd hlt (by simp [hne])).cnt k
  induction l generalizing s with
  | nil => simp at hc
  | cons x l ih =>
    obtain ⟨hx, hl⟩ := List.nodup_cons.1 hl
    rw [Act.run_each_cons]
    rcases List.mem_cons.1 hc with rfl | hmem
    · have hrest : (Act.each l fun c => .count n c k).Keeps fun s => s.cnt n c k :=
        Act.keeps_each fun y hy => hapart (by rintro rfl; exact hx hy) (hcount c (by simp))
      exact (hrest _).trans (State.cnt_count s (.of_vol s (hcount c (by simp)) hn) hs)
    · refine (ih hl (fun y hy => hcount y (by simp [hy])) _ hmem).trans ?_
      exact congrArg (fun x => (x + 1) % 2 ^ 64) (hapart (by rintro rfl; exact hx hmem) (hcount c (by simp [hmem])) s)

theorem columnPowerOff_stays (hcol : col < 16) (hon : s.colPowered col = true) (hidle : s.colIdle col = true)
    (hus : s.rd .columnOffUs ≠ 0) (hfree : (s.holders (coresOfCol col)).any s.holdsPower = false)
    (hroom : s.poolHoldsAll (s.holders (coresOfCol col)) = false) : let t := (Act.columnPowerOff col).run s
    t.colSt col = s.colSt col ∧
      (∀ core ∈ coresOfCol col, (∃ k, k < 4 ∧ (s.slot core k).holder.isSome = true) →
        t.cnt .slotCount core 2 = (s.cnt .slotCount core 2 + 1) % 2 ^ 64) ∧ SameMem s t ∧
      SameEntriesBut ((coresOfCol col).map fun core => (.slotCount, core)) s t := by
  set l := ((s.holders (coresOfCol col)).map Prod.fst).eraseDups
  have hrun : (Act.columnPowerOff col).run s = (Act.each l fun core => .count .slotCount core 2).run s := by
    have hgo : (s.colPowered col && s.colIdle col && s.rd .columnOffUs != 0 && !(s.holders (coresOfCol col)).any s.holdsPower) = true := by
      simp [hon, hidle, hus, hfree]
    rw [Act.columnPowerOff, Act.run_get]
    simp only [hgo, hroom, Act.when_true, if_false, Bool.false_eq_true]
    rfl
  have hmem {core : Nat} : core ∈ l ↔ ∃ h ∈ s.holders (coresOfCol col), h.1 = core := by
    rw [List.mem_eraseDups, List.mem_map]
  have hcores {core : Nat} (h : core ∈ l) : core ∈ coresOfCol col := by
    obtain ⟨x, hx, rfl⟩ := hmem.1 h
    simp only [State.holders, List.mem_flatMap, List.mem_filterMap, Option.map_eq_some_iff] at hx
    obtain ⟨c, hc, k, -, h, -, rfl⟩ := hx
    exact hc
  have htouch : (Act.each l fun core => .count .slotCount core 2).Touches ((coresOfCol col).map fun core => (.slotCount, core)) :=
    Act.touches_each fun core h => Act.touches_count (List.mem_map.2 ⟨core, hcores h, rfl⟩)
  have hpow : (Act.each l fun core => .count .slotCount core 2).Keeps fun s => s.u.pow.power :=
    Act.keeps_each fun _ _ => Act.count_keeps_u (g := fun u => u.pow.power)
  rw [hrun]
  refine ⟨State.colSt_congr (hpow s) (htouch.keepsRd (by decide) (by simp) s), fun core hcore hk => ?_, htouch s⟩
  obtain ⟨k, hk, hsome⟩ := hk
  obtain ⟨c, hc⟩ := Option.isSome_iff_exists.1 hsome
  refine eachCount_counts rfl (by decide) (nodup_eraseDups _) (fun x hx => ?_) s (hmem.2 ⟨_, mem_holders hcore hk hc, rfl⟩)
  have := (coresOfCol_iff.1 (hcores hx)).2
  show x < 192
  omega

/-! ### A column wakes -/

/-- What a column's waking does before the contexts that wait for its cores are looked at. -/
def Act.columnOn (col mhz : Nat) : Act :=
  .all [.colSt col 0, .fld .columnState 0 (4 * col) 16 16 mhz, .count .stateCount 0 0, .reg .deviceState 0 0, .govShow]

/-- The contexts that wait for a core take its slots. -/
def Act.wantSlots (core : Nat) : Act :=
  .get fun s => .each ((s.waiting core ++ s.readyCtxs.filter fun c => !(s.waiting core).contains c).filter (s.needsSlot core)) (.wantSlot core)

theorem columnWake_run (hallow : s.colAllowed col = true) (hmem : s.u.pow.memOn = true) (hnap : s.u.pow.nap = false)
    (hfatal : s.u.pow.fatal = false) (hst : s.colSt col = 3 ∨ (s.colSt col = 2 ∧ s.colIdle col = false)) :
    (Act.columnWake col).run s = (Act.each (coresOfCol col) .wantSlots).run ((Act.columnOn col (s.target col)).run s) := by
  have hgo : (s.colAllowed col && s.u.pow.memOn && !s.u.pow.nap && !s.u.pow.fatal &&
      (s.colSt col == 3 || (s.colSt col == 2 && !s.colIdle col))) = true := by
    rcases hst with h | ⟨h, h'⟩ <;> simp [*]
  rw [Act.columnWake, Act.run_get]
  simp only [hgo, Act.when_true, Act.run_all_cons, Act.run_all_nil, Act.columnOn]
  rfl

/-- What the waking of the contexts leaves, where all the cores are quiet. -/
theorem wantSlots_frame {cores : List Nat} (hs : ∀ core ∈ cores, QuietCore s core) : let t := (Act.each cores .wantSlots).run s
    (SameMem s t ∧ SameEntriesBut (cores.map fun core => (.slotCount, core)) s t) ∧ t.u.pow = s.u.pow := by
  induction cores generalizing s with
  | nil => exact ⟨⟨fun _ _ _ => rfl, fun _ _ _ _ => rfl⟩, rfl⟩
  | cons c l ih =>
    have hc : PassedOn c s ((Act.wantSlots c).run s) := each_passes (fun _ _ _ h => wantSlot_passes h) (hs c (by simp))
    obtain ⟨hframe, hpow⟩ := ih (s := (Act.wantSlots c).run s) fun core h => hc.quiet (hs core (by simp [h]))
    refine ⟨frame_trans (sameEntries_mono ?_ hc.frame) (sameEntries_mono ?_ hframe), hpow.trans hc.pow⟩
    · simp
    · exact List.subset_cons_self _ _

theorem Act.columnOn_touches (col mhz : Nat) :
    (Act.columnOn col mhz).Touches [(.columnState, 0), (.stateCount, 0), (.deviceState, 0), (.governorState, 0)] :=
  touches_seq (touches_fld (by simp)) <| touches_seq (touches_fld (by simp)) <| touches_seq (touches_count (by simp)) <|
    touches_seq (touches_reg (by simp)) <| touches_seq (govShow_touches.mono (by simp)) touches_skip

theorem Act.columnOn_keepsU {α : Type} (g : Units → α) (col mhz : Nat) : (Act.columnOn col mhz).Keeps fun s => g s.u :=
  keeps_seq fld_keeps_u <| keeps_seq fld_keeps_u <| keeps_seq count_keeps_u <| keeps_seq reg_keeps_u <|
    keeps_seq (govShow_keepsU g) keeps_skip

/-- The column's entry, its count and the device's state after what comes first. -/
theorem columnOn_shows (hpower : s.u.pow.power = true) (hcol : col < 16) (mhz : Nat) : let t := (Act.columnOn col mhz).run s
    t.colSt col = 0 ∧ t.fld .columnState 0 (4 * col) 16 16 = mhz % 2 ^ 16 ∧ t.cnt .stateCount 0 0 = (s.cnt .stateCount 0 0 + 1) % 2 ^ 64 ∧
      t.rd .deviceState = 0 := by
  have hsize (x : Nat) (h : x ≤ 32) : 4 * col * 8 + x ≤ 8 * EName.columnState.info.size := by
    show 4 * col * 8 + x ≤ 8 * 64
    omega
  set s1 := (Act.colSt col 0).run s
  set s2 := (Act.fld .columnState 0 (4 * col) 16 16 mhz).run s1
  set s3 := (Act.count .stateCount 0 0).run s2
  set s4 := (Act.reg .deviceState 0 0).run s3
  have hrun : (Act.columnOn col mhz).run s = Act.govShow.run s4 := by
    rw [Act.columnOn, Act.run_all_cons, Act.run_all_cons, Act.run_all_cons, Act.run_all_cons, Act.run_all_cons, Act.run_all_nil]
  have hcount : (Act.count .stateCount 0 0).Touches [(.stateCount, 0)] := Act.touches_count (by simp)
  have hreg : (Act.reg .deviceState 0 0).Touches [(.deviceState, 0)] := Act.touches_reg (by simp)
  have hcell {n : Nat} {off : Nat} : (Act.fld .columnState 0 off n 16 mhz).Touches [(.columnState, 0)] := Act.touches_fld (by simp)
  have hset : (Act.colSt col 0).Touches [(.columnState, 0)] := Act.touches_fld (by simp)
  have hrd : s4.rd .columnState = s2.rd .columnState :=
    (hreg.keepsRd (by decide) (by simp) s3).trans (hcount.keepsRd (by decide) (by simp) s2)
  have hpow : s2.u.pow.power = s1.u.pow.power := Act.fld_keeps_u (g := fun u => u.pow.power) s1
  have hpow1 : s1.u.pow.power = true := (Act.fld_keeps_u (g := fun u => u.pow.power) s).trans hpower
  have hshown : (Act.govShow.run s4).rd .columnState = s2.rd .columnState :=
    (Act.govShow_touches.keepsRd (by decide) (by simp) s4).trans hrd
  have hon : (Act.govShow.run s4).u.pow.power = true :=
    (Act.govShow_keepsU (fun u => u.pow.power) s4).trans <| (Act.reg_keeps_u (g := fun u => u.pow.power) s3).trans <|
      (Act.count_keeps_u (g := fun u => u.pow.power) s2).trans (hpow.trans hpow1)
  have hrunning : s2.fld .columnState 0 (4 * col) 0 2 = 0 :=
    (State.fld_fld_apart s1 mhz (.of_vol _ (by decide) rfl) (hsize (0 + 2) (by decide)) (.inl (by omega))).trans
      (State.fld_fld s 0 (.of_vol _ (by decide) rfl) (hsize (0 + 2) (by decide)))
  rw [hrun]
  refine ⟨?_, ?_, ?_, ?_⟩
  · rw [State.colSt_powered hon, State.fld, hshown]
    exact hrunning
  · rw [State.fld, hshown]
    exact State.fld_fld s1 mhz (.of_vol _ (by decide) rfl) (hsize (16 + 16) (by decide))
  · refine ((Act.govShow_touches.keepsRd (by decide) (by simp)).cnt 0 s4).trans <|
      ((hreg.keepsRd (by decide) (by simp)).cnt 0 s3).trans ((State.cnt_count s2 (.of_vol _ (by decide) rfl) (by decide)).trans ?_)
    exact congrArg (fun x => (x + 1) % 2 ^ 64) (((hcell.keepsRd (by decide) (by simp)).cnt 0 s1).trans ((hset.keepsRd (by decide) (by simp)).cnt 0 s))
  · exact (Act.govShow_touches.keepsRd (by decide) (by simp) s4).trans (State.rd_reg s3 0 (.of_vol _ (by decide) rfl))

theorem columnWake_wakes (hpower : s.u.pow.power = true) (hcol : col < 16) (hallow : s.colAllowed col = true)
    (hmem : s.u.pow.memOn = true) (hnap : s.u.pow.nap = false) (hfatal : s.u.pow.fatal = false)
    (hst : s.colSt col = 3 ∨ (s.colSt col = 2 ∧ s.colIdle col = false)) (hquiet : ∀ core ∈ coresOfCol col, QuietCore s core) :
    let t := (Act.columnWake col).run s
    t.colSt col = 0 ∧ t.fld .columnState 0 (4 * col) 16 16 = s.target col % 2 ^ 16 ∧
      t.cnt .stateCount 0 0 = (s.cnt .stateCount 0 0 + 1) % 2 ^ 64 ∧ t.rd .deviceState = 0 ∧ SameMem s t := by
  obtain ⟨hcolst, hclock, hcnt, hdev⟩ := columnOn_shows hpower hcol (s.target col)
  have htouch := Act.columnOn_touches col (s.target col) s
  have hu := fun {α : Type} (g : Units → α) => Act.columnOn_keepsU g col (s.target col) s
  rw [columnWake_run hallow hmem hnap hfatal hst]
  generalize (Act.columnOn col (s.target col)).run s = s1 at *
  obtain ⟨⟨hmem, hrd⟩, hpow⟩ := wantSlots_frame (s := s1) fun core h =>
    (hquiet core h).of_core (hu fun u => u.core.engQ) (hu fun u => u.core.cc)
  have hkeep {n : EName} (h0 : 0 < n.count) (hn : n ≠ .slotCount) := hrd n 0 h0 (by simp [hn.symm])
  refine ⟨(State.colSt_congr (congrArg PowU.power hpow) (hkeep (by decide) (by decide))).trans hcolst, ?_, ?_,
    (hkeep (by decide) (by decide)).trans hdev, sameMem_trans htouch.1 hmem⟩
  · rw [State.fld, hkeep (by decide) (by decide)]; exact hclock
  · rw [State.cnt, State.fld, hkeep (by decide) (by decide)]; exact hcnt

end

/-- Settles O44: what a column's clock, its power-off with and without room, and its waking leave. -/
theorem columnsGateAndPower : Obligations.ColumnsGateAndPower := by
  intro s col
  refine ⟨fun hst hidle => ⟨_, rfl, columnGate_gates col.isLt hst hidle⟩,
    fun hon hidle hus hfree hroom => ⟨_, rfl, columnPowerOff_off col.isLt hon hidle hus hfree hroom⟩,
    fun hon hidle hus hfree hroom => ⟨_, rfl, columnPowerOff_stays col.isLt hon hidle hus hfree hroom⟩,
    fun hpower hallow hmem hnap hfatal hst hquiet => ⟨_, rfl,
      columnWake_wakes hpower col.isLt hallow hmem hnap hfatal hst fun core h => ⟨(hquiet core h).1, (hquiet core h).2⟩⟩⟩

end Sys2Proof.Machine
end

section
/-! SUPPORT. What a reset keeps of entries and memory (R442), and power that comes and goes (R472, R524). -/

namespace Sys2Proof.Machine

/-! ### The entry with a key -/

theorem EName.covers_key (n : EName) {i : Nat} (hi : i < n.count) : n.covers (n.key i / 256) (n.key i % 256) = true := by
  have h := n.key_range i hi
  simp only [EName.covers, Bool.and_eq_true, decide_eq_true_eq]
  omega

/-- An address lies in one family alone. -/
theorem EName.covers_inj {n m : EName} {x y : Nat} (hn : n.covers x y = true) (hm : m.covers x y = true) : n = m := by
  by_contra hne
  have h := apart_of_mem names_apart n.mem_all m.mem_all hne
  simp only [apart, Bool.or_eq_true, decide_eq_true_eq] at h
  simp only [EName.covers, Bool.and_eq_true, decide_eq_true_eq] at hn hm
  omega

theorem EName.numOf_key (n : EName) {i : Nat} (hi : i < n.count) : n.numOf (n.key i / 256) (n.key i % 256) = i := by
  have hsub : 0 < n.nsub := by
    have := n.ranged.2.1
    simp only [EName.nsub]; omega
  have hrange := n.key_range i hi
  have hmod := Nat.mod_lt i hsub
  have hidx : n.key i / 256 - n.info.idxLo = i / n.nsub := by
    have := n.ranged.2.2
    simp only [EName.key] at hrange ⊢
    simp only [EName.nsub] at hmod
    generalize i / n.nsub = a at *
    simp only [EName.nsub] at *
    omega
  have hrest : n.key i % 256 - n.info.subLo = i % n.nsub := by
    have := n.ranged.2.2
    simp only [EName.key] at hrange ⊢
    simp only [EName.nsub] at hmod
    generalize i / n.nsub = a at *
    simp only [EName.nsub] at *
    omega
  rw [EName.numOf, hidx, hrest, Nat.mul_comm]
  exact Nat.div_add_mod i n.nsub

/-- The entry with an entry's key is that entry. -/
theorem findKey_key (n : EName) {i : Nat} (hi : i < n.count) : findKey (n.key i) = some (n, i) := by
  have hsome : (EName.all.find? fun m => m.covers (n.key i / 256) (n.key i % 256)) = some n := by
    cases h : EName.all.find? fun m => m.covers (n.key i / 256) (n.key i % 256) with
    | none => exact absurd (n.covers_key hi) (List.find?_eq_none.1 h n n.mem_all)
    | some m =>
      have hm : m.covers (n.key i / 256) (n.key i % 256) = true := by simpa using List.find?_some h
      rw [EName.covers_inj hm (n.covers_key hi)]
  rw [findKey, findEntry, hsome, Option.map_some, n.numOf_key hi]

/-- What a reset's test leaves of an entry. -/
theorem tget_regKeep (s : State) (stays : EName → Nat → Bool) (n : EName) {i : Nat} (hi : i < n.count) :
    tget ((Act.upd (.regKeep stays)).run s).regs (n.key i) = if stays n i then tget s.regs (n.key i) else none := by
  refine (tget_filter s.regs (keyStays stays) (n.key i)).trans ?_
  rw [keyStays, findKey_key n hi]

/-- An unlisted entry reads its default, whatever its class. -/
theorem State.rd_unlisted (s : State) {n : EName} {i : Nat} (h : tget s.regs (n.key i) = none) :
    s.rd n i = n.fit (n.dfltOf i s.u.pow.straps) := by
  rw [State.rd, h]
  exact ite_self _

/-! ### Memory that is lost reads 0 (log entry 3) -/

theorem Store.lose_all {sel : MemSel} {x : Store} (h : Store.Wf sel x) : x.lose sel 0 sel.size = {} := by
  obtain ⟨-, hbytes, -, hpoison⟩ := h
  have hgrain : 0 < sel.grain := by cases sel <;> decide
  have hb : x.bytes.filter (fun c => c.1 < 0 || sel.size ≤ c.1) = [] := by
    refine List.filter_eq_nil_iff.2 fun c hc => ?_
    have := hbytes c hc
    simp
    omega
  have hp : x.poison.filter (fun g => (g + 1) * sel.grain ≤ 0 || sel.size ≤ g * sel.grain) = [] := by
    refine List.filter_eq_nil_iff.2 fun g hg => ?_
    have := hpoison g hg
    have hpos : 0 < (g + 1) * sel.grain := Nat.mul_pos (Nat.succ_pos g) hgrain
    simp only [Bool.or_eq_true, decide_eq_true_eq]
    omega
  rw [Store.lose, hb, hp]

theorem State.rdMem_empty {s : State} {m : MemSel} (h : s.store m = {}) (a n : Nat) : s.rdMem m a n = List.replicate n (0#8, false) := by
  refine List.eq_replicate_iff.2 ⟨by simp [State.rdMem], fun b hb => ?_⟩
  obtain ⟨j, -, rfl⟩ := List.mem_map.1 hb
  rw [h]; rfl

/-! ### Writes that the flash does not hold yet (R440) -/

theorem storeLost_nothing {s : State} (h : s.u.dict.storeDue = []) : Act.storeLost.run s = s := by
  rw [Act.storeLost, Act.run_get, h, Act.run_each_nil]

/-- They change registers and the free values alone. -/
theorem Act.storeLost_keeps {α : Type} {f : State → α} (hreg : ∀ n i v, (Act.reg n i v).Keeps f) (herase : ∀ n i, (Act.regErase n i).Keeps f)
    (hfree : ∀ (s : State) x, f { s with u := { s.u with free := x } } = f s) : Act.storeLost.Keeps f :=
  keeps_get fun _ => keeps_each fun d _ => keeps_get fun s => keeps_seq (fun s => hfree s _) <| keeps_when fun _ => by
    split
    · split
      · exact hreg _ _ _
      · exact herase _ _
    · exact keeps_skip

/-! ### What a power loss leaves (R442, R524) -/

/-- What is left when power has gone, with `p` of power itself. -/
structure PowerGone (s t : State) (p : PowU) : Prop where
  pow : t.u.pow = p
  stack : t.stack = {}
  scratch : t.scratch = {}
  host : t.host = s.host
  kept : s.u.dict.storeDue = [] → ∀ (n : EName) (i : Nat), i < n.count → n.info.pers = .store → tget t.regs (n.key i) = tget s.regs (n.key i)
  unlisted : ∀ (n : EName) (i : Nat), i < n.count → n.info.pers ≠ .fixed → n.info.pers ≠ .store → tget t.regs (n.key i) = none
  units : t.u.core = {} ∧ t.u.sess = [] ∧ t.u.flows = [] ∧ t.u.molt = {} ∧ t.u.dict = {} ∧ t.u.time = 0

theorem powerGone_leaves {s : State} (h : s.Inv) (f : PowU → PowU) : PowerGone s ((Act.powerGone f).run s) (f s.u.pow) := by
  set s1 := Act.storeLost.run s with hs1
  have hinv : s1.Inv := h.run _
  have hpow : s1.u.pow = s.u.pow := Act.storeLost_keeps (f := fun s => s.u.pow) (fun _ _ _ => Act.reg_keeps_u (g := Units.pow))
    (fun _ _ _ => rfl) (fun _ _ => rfl) s
  have hhost : s1.host = s.host := Act.storeLost_keeps (f := fun s => s.store .host) (fun _ _ _ => Act.reg_keeps_store .host)
    (fun _ _ _ => rfl) (fun _ _ => rfl) s
  have hregs : ((Act.powerGone f).run s).regs = ((Act.upd (.regKeep powerStays)).run s1).regs := rfl
  refine ⟨?_, Store.lose_all hinv.stack, Store.lose_all hinv.scratch, hhost, fun hdue n i hi hn => ?_, fun n i hi hf hs => ?_, ?_⟩
  · exact congrArg f hpow
  · have hsame : s1 = s := storeLost_nothing hdue
    rw [hregs, tget_regKeep _ _ _ hi, hsame, powerStays, hn]; rfl
  · rw [hregs, tget_regKeep _ _ _ hi, powerStays]
    simp [hf, hs]
  · exact ⟨rfl, rfl, rfl, rfl, rfl, rfl⟩

/-- The layout changes no more than the units' memory and reorder pool where memory stays where it is. -/
theorem layoutTake_keeps {α : Type} {f : State → α} (h : ∀ (s : State) m r, f { s with u := { s.u with mem := m, reorderMib := r } } = f s) :
    (Act.layoutTake false).Keeps f := Act.keeps_get fun _ => Act.keeps_seq Act.keeps_skip fun s => h s _ _

theorem newNonce_keepsU {α : Type} {g : Units → α} (h : ∀ (u : Units) x, g { u with free := x } = g u) :
    Act.newNonce.Keeps fun s => g s.u := Act.keeps_get fun _ => Act.keeps_seq (fun s => h s.u _) Act.reg_keeps_u

theorem newNonce_keepsStore (m : MemSel) : Act.newNonce.Keeps fun s => s.store m :=
  Act.keeps_get fun _ => Act.keeps_seq (Act.units_keeps_store m) (Act.reg_keeps_store m)

theorem newNonce_keepsRegs {n : EName} {i : Nat} (hi : i < n.count) (hn : n ≠ .debugNonce) :
    Act.newNonce.Keeps fun s => tget s.regs (n.key i) := Act.keeps_get fun _ => Act.keeps_seq (fun _ => rfl) fun s => by
  rw [Act.run_reg_regs _ _ _ _ (by decide) (by decide), tget_tset_other]
  intro hkey
  exact hn (EName.key_inj hi (by decide) hkey).1

/-- What power-good's rise leaves: what a power loss leaves, in the layout asked for, and a new nonce. -/
theorem powerOn_leaves {s : State} (h : s.Inv) (straps : Nat) (flashOk : Bool) (hoff : s.u.pow.power = false ∨ s.u.pow.latched = false) :
    let t := (Act.powerOn straps flashOk).run s
    let p : PowU := { latched := true, straps := straps, pins := straps, flashOk := flashOk }
    t.u.pow = p ∧ t.stack = {} ∧ t.scratch = {} ∧ t.host = s.host ∧
      (s.u.dict.storeDue = [] → ∀ (n : EName) (i : Nat), i < n.count → n.info.pers = .store → tget t.regs (n.key i) = tget s.regs (n.key i)) ∧
      (∀ (n : EName) (i : Nat), i < n.count → n.info.pers ≠ .fixed → n.info.pers ≠ .store → n ≠ .debugNonce → tget t.regs (n.key i) = none) ∧
      t.u.core = {} ∧ t.u.sess = [] ∧ t.u.flows = [] ∧ t.u.molt = {} ∧ t.u.dict = {} ∧ t.u.time = 0 := by
  intro t p
  have hgone := powerGone_leaves h fun _ => p
  obtain ⟨hcore, hsess, hflows, hmolt, hdict, htime⟩ := hgone.units
  set t0 := (Act.powerGone fun _ => p).run s
  have hrun : t = Act.newNonce.run ((Act.layoutTake false).run t0) := by
    have hgo : (!s.u.pow.power || !s.u.pow.latched) = true := by rcases hoff with h | h <;> simp [h]
    show (Act.powerOn straps flashOk).run s = _
    rw [Act.powerOn, Act.run_get, hgo, Act.when_true, Act.run_all_cons, Act.run_all_cons, Act.run_all_cons, Act.run_all_nil]
  have hu {α : Type} {g : Units → α} (hfree : ∀ (u : Units) x, g { u with free := x } = g u)
      (hmem : ∀ (u : Units) m r, g { u with mem := m, reorderMib := r } = g u) : g t.u = g t0.u := by
    rw [hrun]
    exact (newNonce_keepsU hfree _).trans (layoutTake_keeps (f := fun s => g s.u) (fun s => hmem s.u) t0)
  have hstore (m : MemSel) : t.store m = t0.store m := by
    rw [hrun]
    exact (newNonce_keepsStore m _).trans (layoutTake_keeps (f := fun s => s.store m) (fun _ _ _ => by cases m <;> rfl) t0)
  have hreg {n : EName} {i : Nat} (hi : i < n.count) (hn : n ≠ .debugNonce) : tget t.regs (n.key i) = tget t0.regs (n.key i) := by
    rw [hrun]
    exact (newNonce_keepsRegs hi hn _).trans (layoutTake_keeps (f := fun s => tget s.regs (n.key i)) (fun _ _ _ => rfl) t0)
  refine ⟨(hu (g := Units.pow) (fun _ _ => rfl) fun _ _ _ => rfl).trans hgone.pow, (hstore .stack).trans hgone.stack,
    (hstore .scratch).trans hgone.scratch, (hstore .host).trans hgone.host,
    fun hdue n i hi hn => (hreg hi (by rintro rfl; exact absurd hn (by decide))).trans (hgone.kept hdue n i hi hn),
    fun n i hi hf hs hn => (hreg hi hn).trans (hgone.unlisted n i hi hf hs), (hu (fun _ _ => rfl) fun _ _ _ => rfl).trans hcore,
    (hu (fun _ _ => rfl) fun _ _ _ => rfl).trans hsess, (hu (fun _ _ => rfl) fun _ _ _ => rfl).trans hflows,
    (hu (fun _ _ => rfl) fun _ _ _ => rfl).trans hmolt, (hu (fun _ _ => rfl) fun _ _ _ => rfl).trans hdict,
    (hu (g := Units.time) (fun _ _ => rfl) fun _ _ _ => rfl).trans htime⟩

/-- What no power leaves, as the statement has it. -/
theorem powerFall_falls {s : State} (h : s.Inv) : let t := Act.powerFall.run s
    t.u.pow.power = false ∧ t.u.pow.ready = false ∧ t.u.pow.linkUp = false ∧ t.u.pow.memOn = false ∧
      ((∀ a n, t.rdMem .stack a n = List.replicate n (0#8, false)) ∧ (∀ a n, t.rdMem .scratch a n = List.replicate n (0#8, false)) ∧
        t.host = s.host) ∧
      (∀ (n : EName) (i : Nat), i < n.count → n.info.pers = .fixed → t.rd n i = s.rd n i) ∧
      (s.u.dict.storeDue = [] → ∀ (n : EName) (i : Nat), i < n.count → n.info.pers = .store → tget t.regs (n.key i) = tget s.regs (n.key i)) ∧
      (∀ (n : EName) (i : Nat), i < n.count → n.info.pers ≠ .fixed → n.info.pers ≠ .store → t.rd n i = n.fit (n.dfltOf i s.u.pow.straps)) ∧
      t.u.core = {} ∧ t.u.sess = [] ∧ t.u.flows = [] ∧ t.u.molt = {} ∧ t.u.dict = {} := by
  intro t
  have hgone : PowerGone s t { flashOk := s.u.pow.flashOk, straps := s.u.pow.straps, pins := s.u.pow.pins, power := false } :=
    powerGone_leaves h _
  have hinv : t.Inv := h.run _
  obtain ⟨hcore, hsess, hflows, hmolt, hdict, -⟩ := hgone.units
  have hpow := hgone.pow
  refine ⟨congrArg PowU.power hpow, congrArg PowU.ready hpow, congrArg PowU.linkUp hpow, congrArg PowU.memOn hpow,
    ⟨State.rdMem_empty hgone.stack, State.rdMem_empty hgone.scratch, hgone.host⟩,
    fun n i hi hn => (hinv.rd_fixed hi hn).trans (h.rd_fixed hi hn).symm, hgone.kept, fun n i hi hf hs => ?_, hcore, hsess, hflows, hmolt,
    hdict⟩
  rw [State.rd_unlisted _ (hgone.unlisted n i hi hf hs), congrArg PowU.straps hpow]

/-- Settles O47: what is left of power, memory, entries and the machine is what `PowerGone` says. -/
theorem powerComesAndGoes : Obligations.PowerComesAndGoes := by
  intro s h
  refine ⟨fun latch hoff => ⟨_, rfl, ?_⟩, ⟨_, rfl, powerFall_falls h⟩, ⟨_, rfl, powerFall_falls h⟩⟩
  obtain ⟨hpow, hstack, hscratch, hhost, hkept, hunlisted, hcore, hsess, hflows, hmolt, hdict, htime⟩ :=
    powerOn_leaves h latch.straps.toNat latch.flashOk hoff
  refine ⟨congrArg PowU.power hpow, congrArg PowU.latched hpow, congrArg PowU.straps hpow, congrArg PowU.flashOk hpow,
    congrArg PowU.ready hpow, htime, fun n i hi hf hs hn => ?_,
    fun n i hi hn => ((h.run (Act.powerOn _ _)).rd_fixed hi hn).trans (h.rd_fixed hi hn).symm, hkept, hcore, hsess, hflows, hmolt, hdict,
    State.rdMem_empty hstack, State.rdMem_empty hscratch, hhost⟩
  rw [State.rd_unlisted _ (hunlisted n i hi hf hs hn), congrArg PowU.straps hpow]

end Sys2Proof.Machine
end

section
/-! SUPPORT. NAP and DEEP (R461 to R464). -/

namespace Sys2Proof.Machine

section
variable {s : State} {r : Requester} {n : EName} {i : Nat}

/-! ### What a request leaves of the units -/

@[simp] theorem State.asked_pow : (s.asked r n i).u.pow = s.u.pow := by
  have h := s.asked_server r n i
  simp only [State.server, Prod.mk.injEq] at h
  exact h.2.1

/-- The answer changes the trace and counters alone. -/
theorem Act.answers_keepsU {α : Type} {g : Units → α} (h : ∀ (u : Units) v, g { u with svc := v } = g u) (v st : Nat) :
    (Act.answers n r i v st).Keeps fun s => g s.u :=
  keeps_seq
    (keeps_when fun _ => keeps_units fun s => by
      split
      · rfl
      · exact h _ _) <|
    keeps_seq count_keeps_u <| keeps_seq (keeps_when fun _ => count_keeps_u) <|
      keeps_seq (keeps_when fun _ => count_keeps_u) keeps_skip

/-- A write whose rule does `body` ends with the units that `body` leaves, but for the trace. -/
theorem Accepts.unitsAfter {rule : Rule} {v st : Nat} {α : Type} {g : Units → α} (h : Accepts s r n i v)
    (hown : (s.asked r n i).ownerFn n i = s.ownerFn n i) {body : Act}
    (hrule : ∀ k, (rule r i v k).run (s.asked r n i) = (k st).run (body.run (s.asked r n i)))
    (hg : ∀ (u : Units) v, g { u with svc := v } = g u) :
    g ((Act.entryRow n rule r i v).run s).u = g (body.run (s.asked r n i)).u := by
  rw [h.entryRow_run hown, hrule]
  exact Act.answers_keepsU hg v st _

/-! ### Whether NAP may be entered -/

theorem State.asked_allQueues : (s.asked r n i).allQueues = s.allQueues := by
  have hcount : (Act.count .dictCount 0 4).Keeps State.allQueues := Act.keeps_get fun _ => Act.keeps_get fun _ => fun s => by
    simp only [State.allQueues, Act.run_reg_regs _ _ _ s (show 0 < EName.dictCount.count by decide) (by decide)]
    exact filterMap_tset queueOfKey s.regs _ (by decide)
  exact Act.asks_keeps (f := State.allQueues) r _ (fun _ _ _ => rfl) hcount s

theorem State.asked_moltRuns : (s.asked r n i).moltRuns = s.moltRuns := by
  rw [State.moltRuns, State.moltRuns, s.asked_rd r (by decide) (by decide)]

theorem State.asked_sessionsOpen : (s.asked r n i).sessionsOpen = s.sessionsOpen := by
  rw [State.sessionsOpen, State.sessionsOpen]
  refine congrArg List.length (List.filter_congr fun j hj => ?_)
  rw [s.asked_rd r (m := .sessionState) (List.mem_range.1 hj) (by simp)]

theorem State.asked_repairs : (s.asked r n i).u.repairs = s.u.repairs :=
  Act.asks_keeps (f := fun s => s.u.repairs) r _ (fun _ _ _ => rfl) (Act.count_keeps_u (g := Units.repairs)) s

theorem State.asked_mayNap : (s.asked r n i).mayNap = s.mayNap := by
  simp only [State.mayNap, State.phaseDue, State.learnOpen, State.stream, State.asked_pow, State.asked_allQueues, State.asked_moltRuns,
    State.asked_sessionsOpen, State.asked_repairs, State.asked_groupsOpen, State.asked_core]
  rfl

end

section
variable {s : State} {r : Requester}

/-- A request for NAP or DEEP that nothing forbids begins the entry. -/
theorem stateReq_begins {deep : Bool} {v : Nat} (h : Accepts s r .stateReq 0 v) (hv : v = if deep = true then 3 else 2)
    (hwho : deep = true → reqClass r = 2) (hnap : deep = false → s.u.pow.nap = false) (hmay : s.mayNap = true) :
    let t := (Act.entryRow .stateReq ruleStateReq r 0 v).run s
    t.u.pow.napEntering = true ∧ t.u.pow.deepAsked = deep ∧ EntryOnly [] s t := by
  have hrule (k : Nat → Act) : (ruleStateReq r 0 v k).run (s.asked r .stateReq 0) =
      (k stOk).run ((Act.napBegin deep).run (s.asked r .stateReq 0)) := by
    have hsleep : (stateReqSleep deep k).run (s.asked r .stateReq 0) = (k stOk).run ((Act.napBegin deep).run (s.asked r .stateReq 0)) := by
      have hno : (s.u.pow.nap && !deep) = false := by
        cases deep with
        | true => simp
        | false => simp [hnap rfl]
      rw [stateReqSleep, Act.run_get, State.asked_pow, State.asked_mayNap, hno, hmay]
      rfl
    subst hv
    cases deep with
    | false => exact hsleep
    | true =>
      rw [ruleStateReq, if_neg (by decide), if_neg (by decide), if_pos rfl, if_pos (hwho rfl)]
      exact hsleep
  have ht := h.takes (rule := ruleStateReq) (l := []) rfl (Act.napBegin deep) hrule (Act.touches_pow fun _ => ⟨rfl, rfl⟩)
  exact ⟨h.unitsAfter (g := fun u => u.pow.napEntering) rfl hrule fun _ _ => rfl,
    h.unitsAfter (g := fun u => u.pow.deepAsked) rfl hrule fun _ _ => rfl, ht.only⟩

/-- A wake abandons an entry to NAP: the request is gone, and the abandoned entry counts. -/
def Act.napAbandon : Act := .seq (.pow fun p => { p with napEntering := false, deepAsked := false }) (.count .stateCount 0 3)

def Act.napLeave : Act := .pow fun p => { p with waking := true }

theorem napWake_napping (hnap : s.u.pow.nap = true) (hnot : s.u.pow.napEntering = false) : Act.napWake.run s = Act.napLeave.run s := by
  rw [Act.napWake, Act.run_get, Act.run_seq, hnap, hnot, if_pos rfl]; rfl

theorem napWake_deepening (hnap : s.u.pow.nap = true) (henter : s.u.pow.napEntering = true) :
    Act.napWake.run s = (Act.seq .napAbandon .napLeave).run s := by
  rw [Act.napWake, Act.run_get, hnap, henter, if_pos rfl]; rfl

theorem napWake_entering (hnap : s.u.pow.nap = false) (henter : s.u.pow.napEntering = true) :
    Act.napWake.run s = (Act.seq .napAbandon (.reg .deviceState 0 1)).run s := by
  rw [Act.napWake, Act.run_get, hnap, henter, if_neg (by decide)]; rfl

theorem Act.napLeave_touches {l : List (EName × Nat)} : Act.napLeave.Touches l := touches_pow fun _ => ⟨rfl, rfl⟩

theorem Act.napAbandon_touches {l : List (EName × Nat)} (h : (.stateCount, 0) ∈ l) : Act.napAbandon.Touches l :=
  touches_seq (touches_pow fun _ => ⟨rfl, rfl⟩) (touches_count h)

theorem napAbandon_pow (s : State) : (Act.napAbandon.run s).u.pow = { s.u.pow with napEntering := false, deepAsked := false } :=
  Act.count_keeps_u (g := Units.pow) _

theorem napAbandon_counts (s : State) : (Act.napAbandon.run s).cnt .stateCount 0 3 = (s.cnt .stateCount 0 3 + 1) % 2 ^ 64 :=
  (State.cnt_count _ (.of_vol _ (by decide) rfl) (by decide)).trans rfl

/-- The write of 0 wakes the device from NAP. -/
theorem stateReq_wakes (h : Accepts s r .stateReq 0 0) (hnap : s.u.pow.nap = true) :
    let t := (Act.entryRow .stateReq ruleStateReq r 0 0).run s
    t.u.pow.waking = true ∧ (s.u.pow.napEntering = false → EntryOnly [] s t) ∧
      (s.u.pow.napEntering = true → t.u.pow.napEntering = false ∧ EntryOnly [(.stateCount, 0)] s t) := by
  have hasked : (s.asked r .stateReq 0).u.pow = s.u.pow := State.asked_pow
  have hrule (k : Nat → Act) : (ruleStateReq r 0 0 k).run (s.asked r .stateReq 0) =
      (k stOk).run (Act.napWake.run (s.asked r .stateReq 0)) := by
    rw [ruleStateReq, if_pos rfl, Act.run_seq]
  by_cases henter : s.u.pow.napEntering = true
  · have hdeep := napWake_deepening (s := s.asked r .stateReq 0) (by rw [hasked]; exact hnap) (by rw [hasked]; exact henter)
    have hrule' (k : Nat → Act) := (hrule k).trans (congrArg (k stOk).run hdeep)
    have ht := h.takes (rule := ruleStateReq) (l := [(.stateCount, 0)]) rfl _ hrule'
      (Act.touches_seq (Act.napAbandon_touches (by simp)) Act.napLeave_touches)
    refine ⟨h.unitsAfter (g := fun u => u.pow.waking) rfl hrule' fun _ _ => rfl, fun hno => absurd henter (by simp [hno]), fun _ =>
      ⟨(h.unitsAfter (g := fun u => u.pow.napEntering) rfl hrule' fun _ _ => rfl).trans ?_, ht.only⟩⟩
    exact congrArg PowU.napEntering (napAbandon_pow (s.asked r .stateReq 0))
  · rw [Bool.not_eq_true] at henter
    have hwake := napWake_napping (s := s.asked r .stateReq 0) (by rw [hasked]; exact hnap) (by rw [hasked]; exact henter)
    have hrule' (k : Nat → Act) := (hrule k).trans (congrArg (k stOk).run hwake)
    have ht := h.takes (rule := ruleStateReq) (l := []) rfl _ hrule' Act.napLeave_touches
    exact ⟨h.unitsAfter (g := fun u => u.pow.waking) rfl hrule' fun _ _ => rfl, fun _ => ht.only, fun hyes => absurd henter (by simp [hyes])⟩

/-- A wake event in NAP. -/
theorem napWake_wakes (hnap : s.u.pow.nap = true) : let t := Act.napWake.run s
    t.u.pow.waking = true ∧ t.u.pow.napEntering = false ∧ SameMem s t ∧ (s.u.pow.napEntering = false → SameEntriesBut [] s t) ∧
      (s.u.pow.napEntering = true → t.cnt .stateCount 0 3 = (s.cnt .stateCount 0 3 + 1) % 2 ^ 64 ∧ SameEntriesBut [(.stateCount, 0)] s t) := by
  by_cases henter : s.u.pow.napEntering = true
  · have htouch : (Act.seq .napAbandon .napLeave).Touches [(.stateCount, 0)] :=
      Act.touches_seq (Act.napAbandon_touches (by simp)) Act.napLeave_touches
    have hcnt : Act.napLeave.Keeps fun s => s.cnt .stateCount 0 3 := ((Act.napLeave_touches (l := [])).keepsRd (by decide) (by simp)).cnt 3
    rw [napWake_deepening hnap henter]
    exact ⟨rfl, congrArg PowU.napEntering (napAbandon_pow s), (htouch s).1, fun hno => absurd henter (by simp [hno]),
      fun _ => ⟨(hcnt _).trans (napAbandon_counts s), (htouch s).2⟩⟩
  · rw [Bool.not_eq_true] at henter
    rw [napWake_napping hnap henter]
    exact ⟨rfl, henter, (Act.napLeave_touches (l := []) s).1, fun _ => (Act.napLeave_touches s).2, fun hyes => absurd henter (by simp [hyes])⟩

/-- A wake event while NAP is entered. -/
theorem napWake_abandons (hnap : s.u.pow.nap = false) (henter : s.u.pow.napEntering = true) : let t := Act.napWake.run s
    t.u.pow.napEntering = false ∧ t.rd .deviceState = 1 ∧ t.cnt .stateCount 0 3 = (s.cnt .stateCount 0 3 + 1) % 2 ^ 64 ∧ SameMem s t ∧
      SameEntriesBut [(.deviceState, 0), (.stateCount, 0)] s t := by
  have htouch : (Act.seq .napAbandon (.reg .deviceState 0 1)).Touches [(.deviceState, 0), (.stateCount, 0)] :=
    Act.touches_seq (Act.napAbandon_touches (by simp)) (Act.touches_reg (by simp))
  have hcnt : (Act.reg .deviceState 0 1).Keeps fun s => s.cnt .stateCount 0 3 :=
    ((Act.touches_reg (l := [(.deviceState, 0)]) (by simp)).keepsRd (by decide) (by simp)).cnt 3
  have hpow : (Act.reg .deviceState 0 1).Keeps fun s => s.u.pow.napEntering := Act.reg_keeps_u (g := fun u => u.pow.napEntering)
  rw [napWake_entering hnap henter]
  exact ⟨(hpow _).trans (congrArg PowU.napEntering (napAbandon_pow s)), State.rd_reg _ _ (.of_vol _ (by decide) rfl),
    (hcnt _).trans (napAbandon_counts s), htouch s⟩

/-! ### Out of DEEP, and out of NAP -/

/-- The BMC leads the device out of DEEP. -/
theorem deepLeave_leaves (s : State) : let t := Act.deepLeave.run s
    t.u.pow.deep = false ∧ t.u.pow.boot = .rom ∧ t.rd .resetCause = 4 ∧ t.rd .deviceState = 1 ∧ SameMem s t := by
  set s1 := (Act.regErase .deviceState 0).run ((Act.pow fun p => { p with deep := false, boot := .rom }).run s) with hs1
  set s2 := (Act.reg .resetCause 0 4).run s1 with hs2
  have hrun : Act.deepLeave.run s = Act.newNonce.run s2 := rfl
  have hpow : (Act.newNonce.run s2).u.pow = s1.u.pow :=
    (newNonce_keepsU (g := Units.pow) (fun _ _ => rfl) s2).trans (Act.reg_keeps_u (g := Units.pow) s1)
  have hnonce : Act.newNonce.Touches [(.debugNonce, 0)] := Act.touches_get fun _ => Act.touches_seq (Act.touches_units fun _ => ⟨rfl, rfl⟩)
    (Act.touches_reg (by simp))
  have hdev : s1.rd .deviceState = 1 := by
    refine (State.rd_unlisted s1 (n := .deviceState) (i := 0) ?_).trans ?_
    · exact tget_tdel_same _ _
    · rfl
  have hstore (m : MemSel) : (Act.newNonce.run s2).store m = s.store m :=
    (newNonce_keepsStore m s2).trans ((Act.reg_keeps_store m s1).trans (by cases m <;> rfl))
  rw [hrun]
  refine ⟨congrArg PowU.deep hpow, congrArg PowU.boot hpow, ?_, ?_, sameMem_of_stores hstore⟩
  · exact (hnonce.keepsRd (by decide) (by simp) s2).trans (State.rd_reg s1 4 ⟨by decide, by decide, fun hstore => absurd hstore (by decide)⟩)
  · exact (hnonce.keepsRd (by decide) (by simp) s2).trans ((State.rd_reg_other s1 4 (by decide) (by decide) (by decide)).trans hdev)

/-- Memory is usable again: the device is in DOZE, and the time of the nap counts. -/
def Act.dozes (ns : Nat) : Act :=
  .all [.pow fun p => { p with nap := false, waking := false, memOn := true, held := [] }, .reg .deviceState 0 1, .count .stateCount 0 4 ns]

theorem memoryWake_run (hnap : s.u.pow.nap = true) (hwaking : s.u.pow.waking = true) (hperst : s.u.pow.perst = false)
    (hdeep : s.u.pow.deep = false) (hheld : s.u.pow.held = []) :
    Act.memoryWake.run s = Act.keptBells.run ((Act.dozes (s.now - s.u.pow.napSince)).run s) := by
  have hgo : (s.u.pow.nap && s.u.pow.waking && !s.u.pow.perst && !s.u.pow.deep) = true := by simp [*]
  rw [Act.memoryWake, Act.run_get, hgo, Act.when_true, hheld]
  simp only [Act.run_all_cons, Act.run_all_nil, Act.run_each_nil, Act.dozes]

theorem keptBells_none (h : s.u.host.keptDb = []) : Act.keptBells.run s = s := by
  have hsame : (Act.host fun x => { x with keptDb := x.keptDb.filter fun b => s.bellWaits b.1 }).run s = s := by
    have hkept : s.u.host.keptDb.filter (fun b => s.bellWaits b.1) = s.u.host.keptDb := by rw [h]; rfl
    rw [Act.host, Act.run_units, hkept]
  rw [Act.keptBells, Act.run_get, h, Act.run_seq, hsame]
  rfl

theorem dozes_dozes (s : State) (ns : Nat) : let t := (Act.dozes ns).run s
    t.u = { s.u with pow := { s.u.pow with nap := false, waking := false, memOn := true, held := [] } } ∧ t.rd .deviceState = 1 ∧
      t.cnt .stateCount 0 4 = (s.cnt .stateCount 0 4 + ns) % 2 ^ 64 ∧ SameMem s t ∧
      SameEntriesBut [(.deviceState, 0), (.stateCount, 0)] s t := by
  have hpow : (Act.pow fun p => { p with nap := false, waking := false, memOn := true, held := [] }).Touches [] :=
    Act.touches_pow fun _ => ⟨rfl, rfl⟩
  have hreg : (Act.reg .deviceState 0 1).Touches [(.deviceState, 0)] := Act.touches_reg (by simp)
  have hcount : (Act.count .stateCount 0 4 ns).Touches [(.stateCount, 0)] := Act.touches_count (by simp)
  have htouch : (Act.dozes ns).Touches [(.deviceState, 0), (.stateCount, 0)] :=
    Act.touches_seq (hpow.mono (by simp)) <| Act.touches_seq (hreg.mono (by simp)) <| Act.touches_seq (hcount.mono (by simp)) Act.touches_skip
  refine ⟨?_, ?_, ?_, htouch s⟩
  · exact (Act.count_keeps_u (g := id) _).trans (Act.reg_keeps_u (g := id) _)
  · exact (hcount.keepsRd (by decide) (by simp) _).trans (State.rd_reg _ _ (.of_vol _ (by decide) rfl))
  · refine (State.cnt_count _ (.of_vol _ (by decide) rfl) (by decide)).trans ?_
    exact congrArg (fun x => (x + ns) % 2 ^ 64) (((hreg.keepsRd (by decide) (by simp)).cnt 4 _).trans
      ((hpow.keepsRd (by decide) (by simp)).cnt 4 s))

/-- Memory is usable again and nothing was held: the device is in DOZE. -/
theorem memoryWake_wakes (hnap : s.u.pow.nap = true) (hwaking : s.u.pow.waking = true) (hperst : s.u.pow.perst = false)
    (hdeep : s.u.pow.deep = false) (hheld : s.u.pow.held = []) (hkept : s.u.host.keptDb = []) : let t := Act.memoryWake.run s
    t.u.pow.nap = false ∧ t.u.pow.waking = false ∧ t.u.pow.memOn = true ∧ t.rd .deviceState = 1 ∧
      t.cnt .stateCount 0 4 = (s.cnt .stateCount 0 4 + (s.now - s.u.pow.napSince)) % 2 ^ 64 ∧ SameMem s t ∧
      SameEntriesBut [(.deviceState, 0), (.stateCount, 0)] s t := by
  obtain ⟨hu, hdev, hcnt, hframe⟩ := dozes_dozes s (s.now - s.u.pow.napSince)
  rw [memoryWake_run hnap hwaking hperst hdeep hheld, keptBells_none (by rw [hu]; exact hkept)]
  exact ⟨by rw [hu], by rw [hu], by rw [hu], hdev, hcnt, hframe⟩

/-! ### Into NAP -/

theorem columnDown_view {α : Type} {f : State → α} (h : Aside f) (hcore : ∀ g, (Act.core g).Keeps f) {col : Nat}
    (hlost : (Act.columnLost col).Keeps f) : (Act.columnDown col).Keeps f := fun s => by
  rw [columnDown_run]
  exact (hlost _).trans (savedOut_view h hcore s col)

/-- A column that is down is off, and the others are as they were. -/
theorem columnDown_colSt (hpower : s.u.pow.power = true) {c col : Nat} (hc : c < 16) :
    ((Act.columnDown col).run s).colSt c = if c = col then 2 else s.colSt c := by
  have hpow : (s.savedOut col).u.pow = s.u.pow := savedOut_view (.ofUnits fun _ _ h => h.pow) (fun _ _ => rfl) s col
  have hrd : (s.savedOut col).rd .columnState = s.rd .columnState :=
    savedOut_view (.rd (by decide) (by decide)) (fun g => (Act.touches_core (l := []) g).keepsRd (by decide) (by simp)) s col
  have hon : (s.savedOut col).u.pow.power = true := (congrArg PowU.power hpow).trans hpower
  rw [columnDown_run]
  split_ifs with heq
  · rw [heq]; exact columnLost_off hon (heq ▸ hc)
  · rw [← State.colSt_congr (congrArg PowU.power hpow) hrd,
      State.colSt_powered ((Act.columnLost_keepsU (g := fun u => u.pow.power) _).trans hon), State.colSt_powered hon]
    refine (congrArg (bits · _ _) (Act.lose_keepsRd _)).trans
      (State.fld_fld_apart (s.savedOut col) 2 (.of_vol _ (by decide) rfl) (by show 4 * c * 8 + 0 + 2 ≤ 8 * 64; omega) (by omega))

/-- The columns are down one after another: each of them is off. -/
theorem columnsDown_colSt (hpower : s.u.pow.power = true) {l : List Nat} {c : Nat} (hc : c < 16) (h : c ∈ l ∨ s.colSt c = 2) :
    ((Act.each l .columnDown).run s).colSt c = 2 := by
  induction l generalizing s with
  | nil => exact h.resolve_left (by simp)
  | cons x l ih =>
    have hon : ((Act.columnDown x).run s).u.pow.power = true :=
      (columnDown_view (.ofUnits fun _ _ h => congrArg PowU.power h.pow) (fun _ _ => rfl)
        (Act.columnLost_keepsU (g := fun u => u.pow.power)) s).trans hpower
    rw [Act.run_each_cons]
    refine ih hon ?_
    rw [columnDown_colSt hpower hc]
    by_cases hx : c = x
    · exact .inr (if_pos hx)
    · rw [if_neg hx]
      exact h.imp_left fun h => (List.mem_cons.1 h).resolve_left hx

/-- NAP is entered: what it shows, after the columns. -/
def Act.naps (now : Nat) : Act :=
  .all [.pow fun p => { p with napEntering := false, nap := true, memOn := false, napSince := now }, .reg .deviceState 0 2,
    .count .stateCount 0 2]

/-- The device has entered NAP, and perhaps goes on to DEEP. -/
def State.napped (s : State) : State := (Act.naps s.now).run ((Act.each (List.range 16) .columnDown).run s)

theorem napEntered_run (henter : s.u.pow.napEntering = true) (hmay : s.mayNap = true)
    (hroom : s.poolHoldsAll (s.holders (List.range 192)) = true) :
    Act.napEntered.run s = (Act.when s.u.pow.deepAsked .deepEnter).run s.napped := by
  have hgo : (s.u.pow.napEntering && s.poolHoldsAll (s.holders (List.range 192)) && s.mayNap) = true := by simp [*]
  rw [Act.napEntered, Act.run_get, hgo, Act.when_true, State.napped, Act.naps]
  simp only [Act.run_all_cons, Act.run_all_nil]

theorem Act.naps_touches (now : Nat) : (Act.naps now).Touches [(.deviceState, 0), (.stateCount, 0)] :=
  touches_seq (touches_pow fun _ => ⟨rfl, rfl⟩) <| touches_seq (touches_reg (by simp)) <| touches_seq (touches_count (by simp)) touches_skip

theorem Act.naps_keepsStore (now : Nat) (m : MemSel) : (Act.naps now).Keeps fun s => s.store m :=
  keeps_seq (units_keeps_store m) <| keeps_seq (reg_keeps_store m) <| keeps_seq (count_keeps_store m) keeps_skip

theorem naps_shows (s : State) (now : Nat) : let t := (Act.naps now).run s
    t.u.pow = { s.u.pow with napEntering := false, nap := true, memOn := false, napSince := now } ∧ t.rd .deviceState = 2 ∧
      t.cnt .stateCount 0 2 = (s.cnt .stateCount 0 2 + 1) % 2 ^ 64 := by
  have hpow : (Act.pow fun p => { p with napEntering := false, nap := true, memOn := false, napSince := now }).Touches [] :=
    Act.touches_pow fun _ => ⟨rfl, rfl⟩
  have hreg : (Act.reg .deviceState 0 2).Touches [(.deviceState, 0)] := Act.touches_reg (by simp)
  have hcount : (Act.count .stateCount 0 2).Touches [(.stateCount, 0)] := Act.touches_count (by simp)
  refine ⟨(Act.count_keeps_u (g := Units.pow) _).trans (Act.reg_keeps_u (g := Units.pow) _), ?_, ?_⟩
  · exact (hcount.keepsRd (by decide) (by simp) _).trans (State.rd_reg _ _ (.of_vol _ (by decide) rfl))
  · refine (State.cnt_count _ (.of_vol _ (by decide) rfl) (by decide)).trans (congrArg (fun x => (x + 1) % 2 ^ 64) ?_)
    exact ((hreg.keepsRd (by decide) (by simp)).cnt 2 _).trans ((hpow.keepsRd (by decide) (by simp)).cnt 2 s)

theorem napped_naps (s : State) : let t := s.napped
    t.u.pow.nap = true ∧ t.u.pow.memOn = false ∧ t.rd .deviceState = 2 ∧ (∀ c, c < 16 → t.colSt c = 2) ∧
      t.cnt .stateCount 0 2 = (s.cnt .stateCount 0 2 + 1) % 2 ^ 64 ∧ t.u.pow.napSince = s.now ∧ t.stack = s.stack ∧ t.host = s.host := by
  have hpows (c : Nat) : (Act.columnDown c).Keeps fun s => s.u.pow := columnDown_view (.ofUnits fun _ _ h => h.pow) (fun _ _ => rfl)
    (Act.columnLost_keepsU (g := Units.pow))
  have hcounts (c : Nat) : (Act.columnDown c).Keeps fun s => s.rd .stateCount := columnDown_view (.rd (by decide) (by decide))
    (fun g => (Act.touches_core (l := []) g).keepsRd (by decide) (by simp)) (Act.columnLost_keepsRd (by decide) (by decide))
  have hstores {m : MemSel} (hm : m ≠ .scratch) (c : Nat) : (Act.columnDown c).Keeps fun s => s.store m := fun x => by
    rw [columnDown_run]
    exact (Act.columnLost_keepsStore hm _).trans (savedOut_store x c m)
  have hpow1 := Act.keeps_each (fun c (_ : c ∈ List.range 16) => hpows c) s
  have hcount1 := Act.keeps_each (fun c (_ : c ∈ List.range 16) => hcounts c) s
  have hstack1 := Act.keeps_each (fun c (_ : c ∈ List.range 16) => hstores (m := .stack) (by decide) c) s
  have hhost1 := Act.keeps_each (fun c (_ : c ∈ List.range 16) => hstores (m := .host) (by decide) c) s
  have hoff (hpower : s.u.pow.power = true) (c : Nat) (hc : c < 16) := columnsDown_colSt hpower hc (.inl (List.mem_range.2 hc))
  rw [State.napped]
  generalize (Act.each (List.range 16) .columnDown).run s = s1 at *
  obtain ⟨hpow, hdev, hcnt⟩ := naps_shows s1 s.now
  have hstore (m : MemSel) := Act.naps_keepsStore s.now m s1
  have hcol := (Act.naps_touches s.now).keepsRd (n := .columnState) (i := 0) (by decide) (by simp) s1
  refine ⟨congrArg PowU.nap hpow, congrArg PowU.memOn hpow, hdev, fun c hc => ?_, hcnt.trans ?_, congrArg PowU.napSince hpow,
    (hstore .stack).trans hstack1, (hstore .host).trans hhost1⟩
  · have hpower1 : ((Act.naps s.now).run s1).u.pow.power = s1.u.pow.power := (congrArg PowU.power hpow).trans rfl
    have hpower0 : s1.u.pow.power = s.u.pow.power := congrArg PowU.power hpow1
    by_cases hpower : s.u.pow.power = true
    · exact (State.colSt_congr hpower1 hcol).trans (hoff hpower c hc)
    · exact if_neg fun hon => hpower ((hpower1.trans hpower0).symm.trans hon)
  · exact congrArg (fun x => (bits x _ _ + 1) % 2 ^ 64) hcount1

/-! ### Into DEEP -/

/-- What DEEP does before entries and units are dropped. -/
def Act.deepTold : Act :=
  .seq (.get fun s => .each (s.flowList.filter fun f => s.flowSt f == 2) fun f => .sendAbort f 2) <|
    .seq (.each (List.range 8) fun p => .get fun s => .when (s.portSt p != psDisabled && s.portSt p != psDown) (.portDown p dcReset)) .storeLost

/-- Power as it is in DEEP. -/
def PowU.deepened (p : PowU) : PowU :=
  { power := p.power, latched := p.latched, perstSeen := p.perstSeen, straps := p.straps, pins := p.pins, flashOk := p.flashOk, deep := true }

/-- Stack memory and scratch as a whole are lost. -/
def Act.memoryLost : Act := .seq (.upd (.lose .stack 0 stackSize)) (.upd (.lose .scratch 0 scratchSize))

/-- What DEEP does after entries and units are dropped. -/
def Act.deepFalls : Act := .seq (.pow PowU.deepened) <| .seq (.each (List.range 16) .columnLost) <| .seq .memoryLost (.reg .deviceState 0 3)

theorem deepEnter_run (s : State) : Act.deepEnter.run s =
    Act.deepFalls.run ((Act.units (Units.cleared false)).run ((Act.upd (.regKeep deepStays)).run (Act.deepTold.run s))) := by
  simp only [Act.deepEnter, Act.deepFalls, Act.deepTold, Act.memoryLost, Act.run_all_cons, Act.run_all_nil, Act.run_seq]
  rfl

theorem memoryLost_loses (h : s.Inv) : (Act.memoryLost.run s).stack = {} ∧ (Act.memoryLost.run s).scratch = {} :=
  ⟨Store.lose_all h.stack, Store.lose_all h.scratch⟩

theorem Act.memoryLost_keepsRd {n : EName} {i : Nat} : Act.memoryLost.Keeps fun s => s.rd n i := keeps_seq lose_keepsRd lose_keepsRd

theorem Act.memoryLost_keepsU {α : Type} {g : Units → α} : Act.memoryLost.Keeps fun s => g s.u := fun _ => rfl

theorem deepFalls_falls (h : s.Inv) : let t := Act.deepFalls.run s
    t.u.pow.deep = true ∧ t.rd .deviceState = 3 ∧ (∀ a n, t.rdMem .stack a n = List.replicate n (0#8, false)) ∧
      (∀ a n, t.rdMem .scratch a n = List.replicate n (0#8, false)) ∧ ∀ c, c < 1024 → t.rd .ctxState c = s.rd .ctxState c := by
  have hrun : Act.deepFalls.run s = (Act.reg .deviceState 0 3).run (Act.memoryLost.run
      ((Act.each (List.range 16) .columnLost).run ((Act.pow PowU.deepened).run s))) := by
    rw [Act.deepFalls, Act.run_seq, Act.run_seq, Act.run_seq]
  have hpow : (Act.pow PowU.deepened).Touches [] := Act.touches_pow fun _ => ⟨rfl, rfl⟩
  have hdeep : ((Act.pow PowU.deepened).run s).u.pow.deep = true := rfl
  have hinv := (h.run (Act.pow PowU.deepened)).run (Act.each (List.range 16) .columnLost)
  have hcols {c : Nat} (hc : c < 1024) := Act.keeps_each (f := fun s => s.rd .ctxState c)
    (fun col (_ : col ∈ List.range 16) => Act.columnLost_keepsRd (col := col) hc (by decide)) ((Act.pow PowU.deepened).run s)
  have hcolsU := Act.keeps_each (f := fun s => s.u.pow.deep)
    (fun col (_ : col ∈ List.range 16) => Act.columnLost_keepsU (col := col) (g := fun u => u.pow.deep)) ((Act.pow PowU.deepened).run s)
  generalize (Act.each (List.range 16) .columnLost).run ((Act.pow PowU.deepened).run s) = s2 at *
  obtain ⟨hstack, hscratch⟩ := memoryLost_loses hinv
  have hctx {c : Nat} := Act.memoryLost_keepsRd (n := .ctxState) (i := c) s2
  have hlostU := Act.memoryLost_keepsU (g := fun u => u.pow.deep) s2
  generalize Act.memoryLost.run s2 = s3 at *
  rw [hrun]
  refine ⟨(Act.reg_keeps_u (g := fun u => u.pow.deep) s3).trans (hlostU.trans (hcolsU.trans hdeep)),
    State.rd_reg s3 3 (.of_vol _ (by decide) rfl), State.rdMem_empty ((Act.reg_keeps_store .stack s3).trans hstack),
    State.rdMem_empty ((Act.reg_keeps_store .scratch s3).trans hscratch), fun c hc => ?_⟩
  exact (State.rd_reg_other s3 3 (by decide) hc (by simp)).trans (hctx.trans ((hcols hc).trans (hpow.keepsRd hc (by simp) s)))

theorem deepEnter_enters {s : State} (h : s.Inv) : let t := Act.deepEnter.run s
    t.u.pow.deep = true ∧ t.rd .deviceState = 3 ∧ (∀ a n, t.rdMem .stack a n = List.replicate n (0#8, false)) ∧
      (∀ a n, t.rdMem .scratch a n = List.replicate n (0#8, false)) ∧ ∀ c, c < 1024 → t.ctxState c = 0 := by
  rw [deepEnter_run]
  have hinv := h.run Act.deepTold
  generalize Act.deepTold.run s = s1 at *
  obtain ⟨hdeep, hdev, hstack, hscratch, hctx⟩ := deepFalls_falls ((hinv.run (.upd (.regKeep deepStays))).run (Act.units (Units.cleared false)))
  refine ⟨hdeep, hdev, hstack, hscratch, fun c hc => (hctx c hc).trans ?_⟩
  refine (State.rd_unlisted _ (n := .ctxState) (i := c) ?_).trans rfl
  exact (tget_regKeep s1 deepStays .ctxState hc).trans (if_neg Bool.false_ne_true)

end

/-- Settles O46: each clause is what one of NAP's and DEEP's moves leaves. -/
theorem napAndDeep : Obligations.NapAndDeep := by
  intro s
  refine ⟨fun r h hnap hmay => ⟨_, rfl, stateReq_begins h rfl (fun h => absurd h (by decide)) (fun _ => hnap) hmay⟩,
    fun r h hwho hmay => ⟨_, rfl, stateReq_begins h rfl (fun _ => hwho) (fun h => absurd h (by decide)) hmay⟩,
    fun r hdeep h hnap => ⟨_, ?_, stateReq_wakes h hnap⟩, fun r hdeep hwho => ⟨_, ?_, deepLeave_leaves s⟩,
    fun henter hmay hroom => ⟨fun hasked => ⟨_, congrArg Host.Outcome.next (napEntered_run henter hmay hroom), ?_⟩,
      fun hasked h => ⟨_, congrArg Host.Outcome.next (napEntered_run henter hmay hroom), ?_⟩⟩,
    fun e => ⟨fun hnap => ⟨_, rfl, napWake_wakes hnap⟩, fun hnap henter => ⟨_, rfl, napWake_abandons hnap henter⟩⟩,
    fun hnap hwaking hperst hdeep hheld hkept => ⟨_, rfl, memoryWake_wakes hnap hwaking hperst hdeep hheld hkept⟩⟩
  · show Host.Outcome.next _ = _
    rw [Act.run_get, hdeep]
    rfl
  · show Host.Outcome.next _ = _
    rw [Act.run_get, hdeep, hwho]
    rfl
  · rw [hasked, Act.when_false, Act.run_skip]
    exact napped_naps s
  · rw [hasked, Act.when_true]
    exact deepEnter_enters ((h.run _).run _)

end Sys2Proof.Machine
end

section
/-! SUPPORT. A request that a check of R446 turns away: it counts, and no entry changes. -/

namespace Sys2Proof.Machine

theorem findEntry_lt {x y : Nat} {n : EName} {i : Nat} (h : findEntry x y = some (n, i)) : i < n.count := by
  rw [findEntry, Option.map_eq_some_iff] at h
  obtain ⟨m, hm, heq⟩ := h
  obtain ⟨rfl, rfl⟩ := Prod.mk.inj heq
  have hcov : m.covers x y = true := by simpa using List.find?_some hm
  simp only [EName.covers, Bool.and_eq_true, decide_eq_true_eq] at hcov
  have hrow : x - m.info.idxLo < m.info.idxHi + 1 - m.info.idxLo := by omega
  have hsub : y - m.info.subLo < m.nsub := by simp only [EName.nsub]; omega
  calc (x - m.info.idxLo) * m.nsub + (y - m.info.subLo)
      < (x - m.info.idxLo) * m.nsub + m.nsub := Nat.add_lt_add_left hsub _
    _ = (x - m.info.idxLo + 1) * m.nsub := (Nat.succ_mul _ _).symm
    _ ≤ m.count := Nat.mul_le_mul_right _ hrow

/-- The entry at an address has the address's key. -/
theorem findEntry_key {x y : Nat} {n : EName} {i : Nat} (h : findEntry x y = some (n, i)) : n.key i = x * 256 + y := by
  rw [findEntry, Option.map_eq_some_iff] at h
  obtain ⟨m, hm, heq⟩ := h
  obtain ⟨rfl, rfl⟩ := Prod.mk.inj heq
  have hcov : m.covers x y = true := by simpa using List.find?_some hm
  simp only [EName.covers, Bool.and_eq_true, decide_eq_true_eq] at hcov
  have hsub : y - m.info.subLo < m.nsub := by simp only [EName.nsub]; omega
  have hdiv : m.numOf x y / m.nsub = x - m.info.idxLo := by
    rw [EName.numOf, Nat.mul_comm, Nat.mul_add_div (by omega), Nat.div_eq_of_lt hsub, Nat.add_zero]
  have hmod : m.numOf x y % m.nsub = y - m.info.subLo := by
    rw [EName.numOf, Nat.mul_comm, Nat.mul_add_mod, Nat.mod_eq_of_lt hsub]
  rw [EName.key, hdiv, hmod]
  omega

section
variable {s : State} {r : Requester} {n m : EName} {i j : Nat}

/-- The owner of an entry, if it has one, is who it was before the request. -/
theorem State.asked_ownerFn (hj : j < m.count) : (s.asked r n i).ownerFn m j = s.ownerFn m j := by
  have hsess : (s.asked r n i).u.sess = s.u.sess :=
    Act.asks_keeps (f := fun s => s.u.sess) r _ (fun _ _ _ => rfl) (Act.count_keeps_u (g := Units.sess)) s
  have hrd {k : EName} (hk : j < k.count) (hne : k ≠ .dictCount) : (s.asked r n i).rd k j = s.rd k j :=
    s.asked_rd r hk (by simp [hne])
  have hfld {k : EName} (hk : j < k.count) (hne : k ≠ .dictCount) (off lo len : Nat) : (s.asked r n i).fld k j off lo len = s.fld k j off lo len :=
    s.asked_fld r hk (by simp [hne])
  have hctx : (s.asked r n i).ctxFn = s.ctxFn := funext fun c => State.asked_ctxFn s r n i c
  have htid (h : j < EName.tidOwner.count) : (s.asked r n i).tidOwner j = s.tidOwner j := by
    rw [State.tidOwner, State.tidOwner, hfld h (by decide), hfld h (by decide)]
  have howner (h : j < EName.versionEntry.count) (off lo len : Nat) := hfld h (by decide) off lo len
  unfold State.ownerFn
  split
  all_goals simp only [hctx, hsess, State.ctxField]
  case h_16 => rw [htid hj]
  case h_17 => rw [htid (hj.trans_eq (by decide))]
  case h_18 => rw [hfld hj (by decide)]
  case h_19 => rw [hfld (k := .queueCfg) (hj.trans_eq (by decide)) (by decide)]
  case h_20 | h_21 | h_22 | h_23 => rw [hfld hj (by decide)]
  case h_24 => rw [hfld (k := .flowCfg) (hj.trans_eq (by decide)) (by decide)]
  case h_25 => rw [howner hj, howner hj, howner hj]
  case h_26 | h_27 | h_28 => rw [howner (hj.trans_eq (by decide)), howner (hj.trans_eq (by decide)), howner (hj.trans_eq (by decide))]
  case h_29 | h_31 | h_32 => rw [hrd (k := .sessionState) (hj.trans_eq (by decide)) (by decide)]
  case h_30 => rw [hrd (k := .sessionState) hj (by decide)]

/-- The checks of R446 look at nothing that a request itself changes. -/
theorem State.asked_wrGuard (hj : j < m.count) : (s.asked r n i).wrGuard r m j = s.wrGuard r m j := by
  have hserver := s.asked_server r n i
  simp only [State.server, Prod.mk.injEq] at hserver
  obtain ⟨-, -, -, hholder, -⟩ := hserver
  have hpeer : (s.asked r n i).rd .peerDict = s.rd .peerDict := s.asked_rd r (by decide) (by decide)
  have howns : (s.asked r n i).owns r m j = s.owns r m j := by simp only [State.owns, State.asked_ownerFn hj]
  have hwrite : (s.asked r n i).mayWrite r m j = s.mayWrite r m j := by simp only [State.mayWrite, howns, hpeer]
  have hright : (s.asked r n i).hasRight r m j = s.hasRight r m j := by
    simp only [State.hasRight, State.mayRead, hwrite, howns, hpeer]
  have hholds : (s.asked r n i).holds r = s.holds r := by rw [State.holds, State.holds, hholder]
  rw [State.wrGuard, State.wrGuard, hwrite, hright, hholds]

theorem State.asked_applyGuard (v : Nat) : (s.asked r n i).applyGuard m v = s.applyGuard m v := by
  have hserver := s.asked_server r n i
  simp only [State.server, Prod.mk.injEq] at hserver
  obtain ⟨-, hpow, htime, -, htimes⟩ := hserver
  rw [State.applyGuard, State.applyGuard, State.noFlash, State.noFlash, State.storeRecent, State.storeRecent, State.now, State.now, hpow,
    htime, htimes]

theorem State.asked_served : (s.asked r n i).served r = s.served r := by simp only [State.served, State.fwRuns, State.asked_pow]

end

/-! ### The count of a request -/

theorem Act.countReq_touches (st : Nat) : (Act.countReq st).Touches [(.dictCount, 0)] :=
  touches_seq (touches_count (by simp)) <| touches_seq (touches_when (touches_count (by simp))) <|
    touches_seq (touches_when (touches_count (by simp))) touches_skip

theorem countReq_counts (s : State) (st : Nat) : ((Act.countReq st).run s).cnt .dictCount 0 0 = (s.cnt .dictCount 0 0 + 1) % 2 ^ 64 := by
  have hapart {k : Nat} (hk : 0 ≠ k) : (Act.count .dictCount 0 k).Keeps fun s => s.cnt .dictCount 0 0 :=
    Act.count_keepsCnt_apart (by decide) rfl (by decide) hk
  have hrest : (Act.all [.when (2 ≤ st) (.count .dictCount 0 1), .when (st == 1) (.count .dictCount 0 2)]).Keeps
      fun s => s.cnt .dictCount 0 0 :=
    Act.keeps_seq (Act.keeps_when fun _ => hapart (by decide)) <| Act.keeps_seq (Act.keeps_when fun _ => hapart (by decide)) Act.keeps_skip
  rw [Act.countReq, Act.run_all_cons]
  exact (hrest _).trans (State.cnt_count s (.of_vol s (by decide) rfl) (by decide))

/-- A staging that the request discards leaves the count of requests. -/
theorem asked_requests (s : State) (r : Requester) (key : Nat) : ((Act.asks r key).run s).cnt .dictCount 0 0 = s.cnt .dictCount 0 0 :=
  Act.asks_keeps r key (fun _ _ _ => rfl) (Act.count_keepsCnt_apart (by decide) rfl (by decide) (by decide)) s

/-- A request that only counts changes no entry but DICT_COUNT. -/
theorem asked_counts (s : State) (r : Requester) (key st : Nat) : let t := (Act.countReq st).run ((Act.asks r key).run s)
    EntryOnly [] s t ∧ t.cnt .dictCount 0 0 = (s.cnt .dictCount 0 0 + 1) % 2 ^ 64 := by
  refine ⟨frame_trans (Act.asks_touches r key s) (Act.countReq_touches st _), ?_⟩
  rw [countReq_counts, asked_requests]

/-- Settles O27: the checks pass or fail after the request has come in as they do before it. -/
theorem refusedWritesChangeNothing : Obligations.RefusedWritesChangeNothing := by
  intro s r index sub data n i hserved haccess hfind hrefused
  have hi := findEntry_lt hfind
  have hkey : n.key i = index.toNat * 256 + sub.toNat := by
    exact findEntry_key hfind
  have hcount : ∃ st, (Act.entryWrite r index.toNat sub.toNat data).run s =
      (Act.countReq st).run ((Act.asks r (index.toNat * 256 + sub.toNat)).run s) := by
    rw [Act.entryWrite, Act.run_seq, ← hkey, ← State.asked, Act.run_get]
    have hno : ¬ (0xF000 ≤ index.toNat ∧ reqClass r ≠ 4) := fun h => h.2 (haccess h.1)
    simp only [State.asked_served, hserved, Bool.not_true, Bool.false_eq_true, if_false, hno, hfind, State.asked_wrGuard hi]
    by_cases hguard : s.wrGuard r n i = stOk
    · by_cases hlen : data.length = n.info.size
      · have happly : s.applyGuard n (leNat data) ≠ stOk := by
          rcases hrefused with h | h | h
          · exact absurd hguard h
          · exact absurd hlen h
          · exact h
        refine ⟨s.applyGuard n (leNat data), ?_⟩
        rw [if_neg (not_not.2 hguard), if_neg (not_not.2 hlen), Act.applyWrite, Act.run_get, State.asked_applyGuard, if_neg happly]
      · exact ⟨stLength, by rw [if_neg (not_not.2 hguard), if_pos hlen]⟩
    · exact ⟨s.wrGuard r n i, by rw [if_pos hguard]⟩
  obtain ⟨st, hst⟩ := hcount
  exact ⟨_, congrArg Host.Outcome.next hst, asked_counts s r _ st⟩

end Sys2Proof.Machine
end

section
/-! SUPPORT. The entries of contexts and queues take what is written (R377 to R384, R393, R397). -/

namespace Sys2Proof.Machine

section
variable {s : State} {r : Requester}

/-! ### PT_ROOT, PT_INVALIDATE and CTX_ADMIN -/

/-- What PT_ROOT's rule does with a value it takes. -/
def Act.rootTaken (s : State) (ctx v : Nat) : Act := .seq (.store .ptRoot ctx v) (.when (s.ctxState ctx == 0) (.reg .ctxState ctx 1))

theorem State.asked_rootOk {n : EName} {i v : Nat} : (s.asked r n i).rootOk v = s.rootOk v := by
  have hmem : (s.asked r n i).u.mem = s.u.mem :=
    Act.asks_keeps (f := fun s => s.u.mem) r _ (fun _ _ _ => rfl) (Act.count_keeps_u (g := Units.mem)) s
  rw [State.rootOk, State.rootOk, hmem]

theorem State.asked_ctxState {n : EName} {i c : Nat} (hc : c < 1024) : (s.asked r n i).ctxState c = s.ctxState c :=
  s.asked_rd r (m := .ctxState) hc (by simp)

theorem ptRoot_takes (ctx : Fin 1024) (v : W64) (h : Accepts s r .ptRoot ctx v.toNat) (hgate : s.ctxGate ctx = stOk)
    (hok : s.rootOk v.toNat = true) (hidle : s.unretired ctx = false) :
    let t := (Act.entryRow .ptRoot rulePtRoot r ctx v.toNat).run s
    t.rd .ptRoot ctx = v.toNat ∧ t.ctxState ctx = (if s.ctxState ctx = 0 then 1 else s.ctxState ctx) ∧
      EntryOnly [(.ptRoot, ctx), (.ctxState, ctx)] s t := by
  have ht := h.takes (rule := rulePtRoot) (l := [(.ptRoot, ctx.val), (.ctxState, ctx.val)]) (by simp [State.ownerFn]) (.rootTaken s ctx v.toNat)
    (fun k => by
      rw [rulePtRoot, ownRule_asked ctx.isLt hgate, Act.run_get, State.asked_rootOk, State.asked_unretired, hok, hidle,
        State.asked_ctxState ctx.isLt]
      rfl)
    (Act.touches_seq (Act.touches_store (by simp)) (Act.touches_when (Act.touches_reg (by simp))))
  have hroot : (Act.when (s.ctxState ctx == 0) (.reg .ctxState ctx 1)).Keeps fun s => s.rd .ptRoot ctx :=
    Act.keeps_when fun _ => (Act.touches_reg (l := [(.ctxState, ctx.val)]) (by simp)).keepsRd ctx.isLt (by simp)
  have hset (x : State) : ((Act.store .ptRoot ctx v.toNat).run x).rd .ptRoot ctx = v.toNat :=
    State.rd_store 64 (.of_vol x ctx.isLt rfl) rfl v.isLt
  have hstate (x : State) : ((Act.store .ptRoot ctx v.toNat).run x).rd .ctxState ctx = x.rd .ctxState ctx :=
    (Act.touches_store (l := [(.ptRoot, ctx.val)]) (by simp)).keepsRd ctx.isLt (by simp) x
  refine ⟨?_, ?_, ht.only⟩
  · rw [ht.rd ctx.isLt (by simp)]
    exact (hroot _).trans (hset _)
  · rw [State.ctxState, ht.rd ctx.isLt (by simp), Act.rootTaken, Act.run_seq]
    by_cases hfree : s.ctxState ctx = 0
    · rw [if_pos hfree, hfree]
      exact State.rd_reg _ _ (.of_vol _ ctx.isLt rfl)
    · rw [if_neg hfree, beq_eq_false_iff_ne.2 hfree, Act.when_false, Act.run_skip, hstate]
      exact State.asked_ctxState ctx.isLt

theorem ptInvalidate_takes (ctx : Fin 1024) (h : Accepts s r .ptInvalidate ctx 1) (hgate : s.ctxGate ctx = stOk) :
    EntryOnly [] s ((Act.entryRow .ptInvalidate rulePtInvalidate r ctx 1).run s) :=
  (h.takes (rule := rulePtInvalidate) (l := []) (by simp [State.ownerFn]) .skip
    (fun k => by rw [rulePtInvalidate, ownRule_asked ctx.isLt hgate, if_pos rfl]; rfl) Act.touches_skip).only

theorem ctxAdmin_takes (ctx : Fin 1024) (v : BitVec 32) (h : Accepts s r .ctxAdmin ctx v.toNat) (hgate : s.ctxGate ctx = stOk)
    (hmay : s.ctxState ctx = 0 ∨ bits v.toNat 0 6 = s.fld .ctxAdmin ctx 0 0 6) :
    let t := (Act.entryRow .ctxAdmin ruleCtxAdmin r ctx v.toNat).run s
    t.rd .ctxAdmin ctx = v.toNat &&& 0xF3F ∧ EntryOnly [(.ctxAdmin, ctx)] s t := by
  have hno : ¬ (s.ctxState ctx ≠ 0 ∧ bits v.toNat 0 6 ≠ s.fld .ctxAdmin ctx 0 0 6) := fun h => hmay.elim h.1 h.2
  have ht := h.takes (rule := ruleCtxAdmin) (l := [(.ctxAdmin, ctx.val)]) (by simp [State.ownerFn])
    (.store .ctxAdmin ctx (v.toNat &&& 0xF3F))
    (fun k => by
      rw [ruleCtxAdmin, ownRule_asked ctx.isLt hgate, Act.run_get, State.asked_ctxState ctx.isLt,
        s.asked_fld r (m := .ctxAdmin) ctx.isLt (by simp), if_neg hno, Act.run_seq])
    (Act.touches_store (by simp))
  refine ⟨?_, ht.only⟩
  rw [ht.rd ctx.isLt (by simp)]
  exact State.rd_store 32 ⟨ctx.isLt, by decide, fun hstore => absurd hstore (by decide)⟩ rfl (Nat.lt_of_le_of_lt Nat.and_le_left v.isLt)

/-! ### TID_OWNER -/

theorem bits_of_bit {v i : Nat} (h : bit v i = true) : bits v i 1 = 1 := by
  rw [bit, Nat.testBit_eq_decide_div_mod_eq, decide_eq_true_eq] at h
  rw [bits, Nat.shiftRight_eq_div_pow, Nat.pow_one, h]

/-- A field of what a mask leaves. -/
theorem bits_and (x m lo len : Nat) : bits (x &&& m) lo len = bits x lo len &&& bits m lo len := by
  rw [bits, bits, bits, Nat.shiftRight_and_distrib, Nat.and_mod_two_pow]

/-- A mask of ones over a field leaves it. -/
theorem bits_and_ones {x m lo len : Nat} (h : bits m lo len = 2 ^ len - 1) : bits (x &&& m) lo len = bits x lo len := by
  rw [bits_and, h, Nat.and_two_pow_sub_one_eq_mod]
  exact Nat.mod_eq_of_lt (bits_lt _ _ _)

theorem State.asked_tidOwner {n : EName} {i tid : Nat} (h : tid < 16384) : (s.asked r n i).tidOwner tid = s.tidOwner tid := by
  rw [State.tidOwner, State.tidOwner, s.asked_fld r (m := .tidOwner) h (by simp), s.asked_fld r (m := .tidOwner) h (by simp)]

/-- What TID_OWNER's rule does with a value that it takes. -/
def Act.tidTaken (tid v : Nat) : Act := .seq (.store .tidOwner tid v) (.monClear tid)

theorem tidTaken_reads (x : State) {tid v : Nat} (htid : tid < 16384) (hv : v < 2 ^ 16) : let t := (Act.tidTaken tid v).run x
    t.tidOwner tid = (if bits v 15 1 = 1 then some (bits v 0 10) else none) ∧ tget t.u.core.mon tid = none := by
  have hrd : ((Act.tidTaken tid v).run x).rd .tidOwner tid = v :=
    ((Act.touches_core (l := []) fun c => { c with mon := tdel c.mon tid }).keepsRd htid (by simp) _).trans
      (State.rd_store 16 (.of_vol x htid rfl) rfl hv)
  refine ⟨?_, tget_tdel_same _ _⟩
  rw [State.tidOwner, State.fld, State.fld, hrd]

/-- A write of TID_OWNER that its rule takes as the value `w`. -/
theorem tidOwner_takes (tid : Fin 16384) {v w : Nat} (h : Accepts s r .tidOwner tid v) (hw : w < 2 ^ 16)
    (hrule : ∀ k, (ruleTidOwner r tid v k).run (s.asked r .tidOwner tid) = (k stOk).run ((Act.tidTaken tid w).run (s.asked r .tidOwner tid))) :
    let t := (Act.entryRow .tidOwner ruleTidOwner r tid v).run s
    t.tidOwner tid = (if bits w 15 1 = 1 then some (bits w 0 10) else none) ∧ tget t.u.core.mon tid = none ∧
      EntryOnly [(.tidOwner, tid)] s t := by
  have ht := h.takes (rule := ruleTidOwner) (l := [(.tidOwner, tid.val)]) (State.asked_ownerFn tid.isLt) (.tidTaken tid w) hrule
    (Act.touches_seq (Act.touches_store (by simp)) (Act.touches_core _))
  obtain ⟨howner, hmon⟩ := tidTaken_reads (s.asked r .tidOwner tid) tid.isLt hw
  refine ⟨?_, (congrArg (fun c => tget c.mon tid.val) ht.core).trans hmon, ht.only⟩
  rw [← howner, State.tidOwner, State.tidOwner, State.fld, State.fld, State.fld, State.fld, ht.rd tid.isLt (by simp)]

/-- A tensor ID is granted to a READY context. -/
theorem tidOwner_grants (tid : Fin 16384) (v : BitVec 16) (h : Accepts s r .tidOwner tid v.toNat) (hbit : bit v.toNat 15 = true)
    (hwho : reqRules r = true) (hown : s.tidOwner tid = none ∨ s.tidOwner tid = some (bits v.toNat 0 10))
    (hready : s.ctxState (bits v.toNat 0 10) = 1) :
    let t := (Act.entryRow .tidOwner ruleTidOwner r tid v.toNat).run s
    t.tidOwner tid = some (bits v.toNat 0 10) ∧ tget t.u.core.mon tid = none ∧ EntryOnly [(.tidOwner, tid)] s t := by
  have hw : v.toNat &&& 0x83FF < 2 ^ 16 := Nat.lt_of_le_of_lt Nat.and_le_left v.isLt
  have hctx : bits v.toNat 0 10 < 1024 := bits_lt _ _ _
  have hgate : s.ctxGate (bits v.toNat 0 10) = stOk := by
    rw [State.ctxGate, hready]; rfl
  obtain ⟨howner, hmon, honly⟩ := tidOwner_takes (s := s) (r := r) tid h hw fun k => by
    rcases hown with hown | hown <;>
      simp only [ruleTidOwner, Act.run_get, State.asked_tidOwner tid.isLt, State.asked_ctxState hctx, State.asked_ctxGate s r hctx, hown, hgate,
        hbit, hwho, hready, ne_eq, not_true_eq_false, if_false, if_true, Bool.not_true, Bool.false_eq_true, Option.isSome_none,
        Option.isSome_some, Bool.false_and, Bool.true_and, bne_self_eq_false, Bool.or_false, Act.run_all_cons, Act.run_all_nil] <;> rfl
  have h15 : bits (v.toNat &&& 0x83FF) 15 1 = 1 := by
    rw [bits_and_ones (by decide)]
    exact bits_of_bit hbit
  rw [h15, if_pos rfl, bits_and_ones (by decide)] at howner
  exact ⟨howner, hmon, honly⟩

/-- A tensor ID is released. -/
theorem tidOwner_releases (tid : Fin 16384) (v : BitVec 16) (h : Accepts s r .tidOwner tid v.toNat) (hbit : bit v.toNat 15 = false)
    (hidle : ∀ c, s.tidOwner tid = some c → s.ctxGate c = stOk ∧ s.unretired c = false) :
    let t := (Act.entryRow .tidOwner ruleTidOwner r tid v.toNat).run s
    t.tidOwner tid = none ∧ tget t.u.core.mon tid = none ∧ EntryOnly [(.tidOwner, tid)] s t := by
  have hw : v.toNat &&& 0x3FF < 2 ^ 16 := Nat.lt_of_le_of_lt Nat.and_le_left v.isLt
  obtain ⟨howner, hmon, honly⟩ := tidOwner_takes (s := s) (r := r) tid h hw fun k => by
    cases hown : s.tidOwner tid with
    | none =>
      simp only [ruleTidOwner, Act.run_get, State.asked_tidOwner tid.isLt, hown, hbit, ne_eq, not_true_eq_false, if_false,
        Bool.false_eq_true, Act.run_all_cons, Act.run_all_nil]
      rfl
    | some c =>
      obtain ⟨hgate, hun⟩ := hidle c hown
      have hc : c < 1024 := by
        rw [State.tidOwner] at hown
        split_ifs at hown
        rw [← Option.some.inj hown]
        exact bits_lt _ _ _
      simp only [ruleTidOwner, Act.run_get, State.asked_tidOwner tid.isLt, State.asked_ctxGate s r hc, State.asked_unretired, hown, hgate, hun,
        hbit, ne_eq, not_true_eq_false, if_false, Bool.false_eq_true, Act.run_all_cons, Act.run_all_nil]
      rfl
  have h15 : bits (v.toNat &&& 0x3FF) 15 1 = 0 := by
    rw [bits_and, show bits 0x3FF 15 1 = 0 by decide, Nat.and_zero]
  rw [h15, if_neg (by decide)] at howner
  exact ⟨howner, hmon, honly⟩

/-! ### QUEUE_CFG -/

/-- The cores as a queue's configuration leaves them: its stream starts, but a job goes on, and nothing of it is fetched. -/
def CoreU.requeued (q : Nat) (c : CoreU) : CoreU := { c with
  streams := tmod c.streams q {} fun t => { jobOpen := t.jobOpen, jobLearn := t.jobLearn }
  cc := c.cc.map fun p => (p.1, { p.2 with fetch := p.2.fetch.filter fun x => x.q != q }) }

/-- What QUEUE_CFG's rule does with a value that it takes. -/
def Act.queueTaken (q v : Nat) : Act :=
  .seq (.store .queueCfg q v) <| .seq (.when (bit v 0) (.fld .queueState q 0 0 64 0)) <|
    .core (CoreU.requeued q)

theorem State.asked_queuesOf {n : EName} {i ctx : Nat} : (s.asked r n i).queuesOf ctx = s.queuesOf ctx :=
  Act.asks_keeps (f := fun s => s.queuesOf ctx) r _ (fun _ _ _ => rfl)
    (Act.keeps_get fun _ => Act.keeps_get fun _ => Act.reg_keepsQueuesOf ctx (by decide)) s

theorem mem_queuesOf_lt {ctx q : Nat} (h : q ∈ s.queuesOf ctx) : q < 65536 := by
  rw [State.queuesOf_eq, List.mem_filter, List.mem_filterMap] at h
  obtain ⟨⟨p, -, hp⟩, -⟩ := h
  exact (key_of_queueOfKey hp).1

theorem State.asked_queueCfg {n : EName} {i q off lo len : Nat} (hq : q < 65536) :
    (s.asked r n i).fld .queueCfg q off lo len = s.fld .queueCfg q off lo len := s.asked_fld r hq (by simp)

theorem State.asked_queuesOn {n : EName} {i core ctx : Nat} : (s.asked r n i).queuesOn core ctx = s.queuesOn core ctx := by
  rw [State.queuesOn, State.queuesOn, State.asked_queuesOf]
  refine List.filter_congr fun q hq => ?_
  have hlt := mem_queuesOf_lt hq
  simp only [State.qValid, State.qKind, State.qCore, State.asked_queueCfg hlt]

theorem State.asked_queueOk {n : EName} {i q v : Nat} : (s.asked r n i).queueOk q v = s.queueOk q v := by
  have hctx : bits v 8 10 < 1024 := bits_lt _ _ _
  simp only [State.queueOk, State.asked_ctxState hctx, State.asked_queuesOn]

theorem Act.store_keepsU {α : Type} {g : Units → α} {n : EName} {i v : Nat} (h : ∀ (u : Units) d, g { u with dict := d } = g u) :
    (Act.store n i v).Keeps fun s => g s.u :=
  keeps_get fun _ => keeps_seq (keeps_when fun _ s => h s.u _) reg_keeps_u

theorem queueTaken_reads (x : State) {q v : Nat} (hq : q < 65536) (hv : v < 2 ^ 256) : let t := (Act.queueTaken q v).run x
    t.rd .queueCfg q = v ∧ t.stream q = { jobOpen := (x.stream q).jobOpen, jobLearn := (x.stream q).jobLearn } ∧
      (bit v 0 = true → t.qHead q = 0 ∧ t.qTail q = 0) := by
  have hlast {n : EName} (hn : q < n.count) (y : State) : ((Act.core (CoreU.requeued q)).run y).rd n q = y.rd n q :=
    (Act.touches_core (l := []) _).keepsRd hn (by simp) y
  have hidx : (Act.when (bit v 0) (.fld .queueState q 0 0 64 0)).Keeps fun s => s.rd .queueCfg q :=
    Act.keeps_when fun _ => (Act.touches_fld (l := [(.queueState, q)]) (by simp)).keepsRd hq (by simp)
  have hcore : ((Act.when (bit v 0) (.fld .queueState q 0 0 64 0)).run ((Act.store .queueCfg q v).run x)).u.core = x.u.core :=
    (Act.keeps_when (f := fun s => s.u.core) (fun _ => Act.fld_keeps_u (g := Units.core)) _).trans
      (Act.store_keepsU (g := Units.core) (fun _ _ => rfl) x)
  refine ⟨?_, ?_, fun hbit => ?_⟩
  · exact (hlast (n := .queueCfg) hq _).trans ((hidx _).trans (State.rd_store 256 (.of_vol x hq rfl) rfl hv))
  · rw [Act.queueTaken, Act.run_seq, Act.run_seq, State.stream, State.stream]
    refine (congrArg (fun c => tgetD (CoreU.requeued q c).streams q {}) hcore).trans ?_
    rw [CoreU.requeued, tgetD_tmod_same]
  · have hzero : ((Act.queueTaken q v).run x).fld .queueState q 0 0 64 = 0 := by
      rw [Act.queueTaken, Act.run_seq, Act.run_seq, hbit, Act.when_true, State.fld, hlast (n := .queueState) hq]
      exact State.fld_fld _ 0 (.of_vol _ hq rfl) (by decide)
    rw [State.fld, bits, Nat.shiftRight_eq_div_pow] at hzero
    rw [State.qHead, State.qTail, State.fld, State.fld, bits, bits, Nat.shiftRight_eq_div_pow, Nat.shiftRight_eq_div_pow]
    generalize ((Act.queueTaken q v).run x).rd .queueState q = w at *
    omega

theorem queueCfg_takes (q : Fin 65536) (v : BitVec 256) (h : Accepts s r .queueCfg q v.toNat) (hgate : s.ctxGate (s.qCtx q) = stOk)
    (hmay : s.mayWriteCtx r (bits v.toNat 8 10) = true) (hzero : queueZero v.toNat = true)
    (hvec : bits v.toNat 48 11 < vecCount (s.ctxFn (bits v.toNat 8 10))) (hidle : s.qValid q = true → s.qTail q = s.qHead q)
    (hcore : s.coreAllowed (bits v.toNat 18 8) = true) (hok : bit v.toNat 0 = true → s.queueOk q v.toNat = true) :
    let t := (Act.entryRow .queueCfg ruleQueueCfg r q v.toNat).run s
    t.rd .queueCfg q = v.toNat ∧ t.stream q = { jobOpen := (s.stream q).jobOpen, jobLearn := (s.stream q).jobLearn } ∧
      (bit v.toNat 0 = true → t.qHead q = 0 ∧ t.qTail q = 0) ∧ EntryOnly [(.queueCfg, q), (.queueState, q)] s t := by
  have hctx : s.qCtx q < 1024 := s.qCtx_lt q
  have hqctx : (s.asked r .queueCfg q).qCtx q = s.qCtx q := State.asked_queueCfg q.isLt
  have ht := h.takes (rule := ruleQueueCfg) (l := [(.queueCfg, q.val), (.queueState, q.val)]) (State.asked_ownerFn q.isLt)
    (.queueTaken q v.toNat)
    (fun k => by
      have hno : (!queueZero v.toNat || decide (vecCount (s.ctxFn (bits v.toNat 8 10)) ≤ bits v.toNat 48 11) ||
          (s.qValid q && s.qTail q != s.qHead q) || !s.coreAllowed (bits v.toNat 18 8)) = false := by
        have hring : (s.qValid q && s.qTail q != s.qHead q) = false := by
          cases hvalid : s.qValid q with
          | false => rfl
          | true => simp [hidle hvalid]
        simp [hzero, hring, hcore, hvec]
      have hbad : (bit v.toNat 0 && !s.queueOk q v.toNat) = false := by
        cases hbit : bit v.toNat 0 with
        | false => rfl
        | true => simp [hok hbit]
      rw [ruleQueueCfg, ctxRule_run (by rw [hqctx, State.asked_ctxGate s r hctx, hgate]), Act.run_get]
      simp only [State.asked_mayWriteCtx, State.asked_ctxFn, State.qValid, State.qTail, State.qHead, State.asked_queueCfg q.isLt,
        s.asked_fld r (m := .queueState) q.isLt (by simp), State.coreAllowed, State.bench, State.asked_pow, State.asked_queueOk] at hno hbad ⊢
      simp only [hmay, hno, hbad, Bool.not_true, Bool.false_eq_true, if_false, Act.run_all_cons, Act.run_all_nil]
      rfl)
    (Act.touches_seq (Act.touches_store (by simp)) <| Act.touches_seq (Act.touches_when (Act.touches_fld (by simp))) (Act.touches_core _))
  obtain ⟨hcfg, hstream, hidx⟩ := queueTaken_reads (s.asked r .queueCfg q) q.isLt v.isLt
  have hqueue : ((Act.entryRow .queueCfg ruleQueueCfg r q v.toNat).run s).rd .queueState q =
      ((Act.queueTaken q v.toNat).run (s.asked r .queueCfg q)).rd .queueState q := ht.rd q.isLt (by simp)
  refine ⟨(ht.rd q.isLt (by simp)).trans hcfg, ?_, fun hbit => ?_, ht.only⟩
  · rw [State.stream, ht.core]
    refine hstream.trans ?_
    rw [State.stream, State.stream, State.asked_core]
  · obtain ⟨hhead, htail⟩ := hidx hbit
    rw [State.qHead, State.qTail, State.fld, State.fld, hqueue]
    exact ⟨hhead, htail⟩

/-! ### CTX_RESET of a READY context -/

/-- The cores as a teardown leaves them: it stands in TEAR, and its context's commands are gone. -/
def CoreU.torn (ctx : Nat) (t : Tear) (c : CoreU) : CoreU := { c with
  tear := tset c.tear ctx t
  engQ := c.engQ.map fun p => (p.1, p.2.filter fun m => m.ctx != ctx)
  cc := c.cc.map fun p => (p.1, if p.1 % 1024 = ctx then { p.2 with saved := [] } else p.2) }

theorem tearStart_core (s : State) (ctx : Nat) (t : Tear) :
    ∃ c epoch time, ((Act.tearStart ctx t).run s).u.core = CoreU.torn ctx { t with epoch := epoch, time := time } c := by
  have htrace : (Act.traceTeardown ctx).Keeps fun s => s.u.core :=
    Act.keeps_get fun _ => Act.keeps_units fun s => by dsimp only; split <;> rfl
  have hunits : (Act.get fun s => .units fun u => { u with
      colls := u.colls.filter fun c => c.ctx != ctx
      flows := u.flows.map fun p => (p.1, if s.fld .flowCfg p.1 0 8 10 = ctx then { p.2 with sendq := [], awaits := [] } else p.2) }).Keeps
      fun s => s.u.core := fun _ => rfl
  rw [Act.tearStart]
  simp only [Act.run_all_cons, Act.run_all_nil]
  exact ⟨_, _, _, (htrace _).trans ((hunits _).trans ((Act.settleQueues_keepsCore _).trans rfl))⟩

theorem torn_gone {c : CoreU} {ctx k : Nat} {t : Tear} {m : Cmd} (hm : m ∈ tgetD (c.torn ctx t).engQ k []) : m.ctx ≠ ctx := by
  have hq : tget (c.torn ctx t).engQ k = (tget c.engQ k).map fun l => l.filter fun m => m.ctx != ctx :=
    tget_map (fun (_ : Nat) (l : List Cmd) => l.filter fun m : Cmd => m.ctx != ctx) c.engQ k
  rw [tgetD, hq] at hm
  cases h : tget c.engQ k with
  | none => rw [h] at hm; simp at hm
  | some l =>
    rw [h, Option.map_some, Option.getD_some, List.mem_filter] at hm
    simpa using hm.2

theorem stallCounters_frame {t : State} {l : List (EName × Nat)} (h : SameMem s t ∧ SameEntriesBut (l ++ stallCounters) s t) :
    SameMem s t ∧ SameEntriesBut (l ++ (List.range 32).map fun i => (.engineQueueExhaust, i)) s t := by
  refine ⟨h.1, fun n i hi hn => h.2 n i hi fun hm => hn ?_⟩
  rcases List.mem_append.1 hm with hm | hm
  · exact List.mem_append_left _ hm
  · refine List.mem_append_right _ ?_
    obtain ⟨j, -, heq⟩ := List.mem_map.1 hm
    obtain ⟨rfl, rfl⟩ := Prod.mk.inj heq
    exact List.mem_map.2 ⟨j, List.mem_range.2 hi, rfl⟩

theorem ctxReset_tears (ctx : Fin 1024) (h : Accepts s r .ctxReset ctx 1) (hready : s.ctxState ctx = 1) :
    let t := (Act.entryRow .ctxReset ruleCtxReset r ctx 1).run s
    t.ctxState ctx = 2 ∧ t.rd .recoveryEpoch = (s.rd .recoveryEpoch + 1) % 2 ^ 32 ∧
      ((tget t.u.core.tear ctx).map Tear.reset) = some true ∧ (∀ core e, ∀ m ∈ t.engQ core e, m.ctx ≠ ctx) ∧
      EntryOnly ((.ctxState, ctx.val) :: (.recoveryEpoch, 0) :: (List.range 32).map fun i => (.engineQueueExhaust, i)) s t := by
  have hstate : (s.asked r .ctxReset ctx).ctxState ctx = 1 := (State.asked_ctxState ctx.isLt).trans hready
  have ht := h.takes (rule := ruleCtxReset) (l := (.ctxState, ctx.val) :: (.recoveryEpoch, 0) :: stallCounters) (State.asked_ownerFn ctx.isLt)
    (.tearStart ctx { reset := true })
    (fun k => by
      rw [ruleCtxReset, Act.run_get, hstate, if_neg (by decide), if_neg (by decide), Act.run_seq, Act.ctxReset, Act.run_get, hstate]
      rfl)
    ((Act.tearStart_touches _ _).mono (by intro p hp; simp only [List.mem_cons] at hp ⊢; tauto))
  have htears := (s.asked r .ctxReset ctx).tearStart_run ctx.isLt { reset := true }
  obtain ⟨c, epoch, time, hcore⟩ := tearStart_core (s.asked r .ctxReset ctx) ctx { reset := true }
  have hcore' := ht.core.trans hcore
  refine ⟨(ht.rd ctx.isLt (by simp)).trans htears.teardown, ?_, ?_, fun core e m hm => ?_,
    stallCounters_frame (l := [(.dictCount, 0), (.ctxState, ctx.val), (.recoveryEpoch, 0)]) ht.only⟩
  · rw [ht.rd (by decide) (by decide), htears.epoch, s.asked_rd r (m := .recoveryEpoch) (by decide) (by decide)]
  · rw [hcore', CoreU.torn, tget_tset_same]
    rfl
  · rw [State.engQ, hcore'] at hm
    exact torn_gone hm

/-! ### CTX_RESET of a context that is FREE or FAULTED -/

/-- The action leaves memory as it is, and the key unlisted where it is unlisted. -/
def Act.Unlists (k : Nat) (a : Act) : Prop :=
  ∀ s : State, (∀ m, (a.run s).store m = s.store m) ∧ (tget s.regs k = none → tget (a.run s).regs k = none)

section
variable {k : Nat} {a b : Act}

theorem Act.unlists_skip : Act.skip.Unlists k := fun _ => ⟨fun _ => rfl, fun h => h⟩
theorem Act.unlists_seq (ha : a.Unlists k) (hb : b.Unlists k) : (Act.seq a b).Unlists k := fun s =>
  ⟨fun m => ((hb (a.run s)).1 m).trans ((ha s).1 m), fun h => (hb (a.run s)).2 ((ha s).2 h)⟩
theorem Act.unlists_get {f : State → Act} (h : ∀ s, (f s).Unlists k) : (Act.get f).Unlists k := fun s => h s s
theorem Act.unlists_when {c : Bool} (h : a.Unlists k) : (Act.when c a).Unlists k := by
  cases c
  · exact unlists_skip
  · exact h
theorem Act.unlists_each {α : Type} {l : List α} {f : α → Act} (h : ∀ x ∈ l, (f x).Unlists k) : (Act.each l f).Unlists k := by
  induction l with
  | nil => exact unlists_skip
  | cons x l ih => exact unlists_seq (h x (by simp)) (ih fun y hy => h y (by simp [hy]))
theorem Act.unlists_units (f : Units → Units) : (Act.units f).Unlists k := fun s => ⟨fun m => units_keeps_store m s, fun h => h⟩

theorem Act.unlists_erase (n : EName) (i : Nat) : (Act.regErase n i).Unlists k := fun s => ⟨fun m => by cases m <;> rfl, fun h => by
  show tget (tdel s.regs (n.key i)) k = none
  by_cases hk : k = n.key i
  · rw [hk]; exact tget_tdel_same _ _
  · rw [tget_tdel_other _ hk, h]⟩

theorem Act.unlists_reg {n m : EName} {i j v : Nat} (hj : j < m.count) (hnm : n ≠ m) : (Act.reg n i v).Unlists (m.key j) := fun s =>
  ⟨fun x => reg_keeps_store x s, fun h => by
    by_cases hi : i < n.count ∧ n.info.pers ≠ .fixed
    · rw [Act.run_reg_regs _ _ _ _ hi.1 hi.2, tget_tset_other _ _ (fun he => hnm (EName.key_inj hj hi.1 he).1.symm), h]
    · have hsame : (Act.reg n i v).run s = s := if_neg hi
      rw [hsame, h]⟩

theorem Act.unlists_fld {n m : EName} {i j off lo len v : Nat} (hj : j < m.count) (hnm : n ≠ m) :
    (Act.fld n i off lo len v).Unlists (m.key j) := unlists_get fun _ => unlists_reg hj hnm

theorem Act.unlists_trace (code engine ctx d0 d1 : Nat) : (Act.trace code engine ctx d0 d1).Unlists k := unlists_units _

/-- One of several actions takes the key off the list, and none puts it on. -/
theorem each_unlists {α : Type} {l : List α} {f : α → Act} {x : α} (hx : x ∈ l) (h : ∀ y ∈ l, (f y).Unlists k)
    (hf : ∀ s : State, tget ((f x).run s).regs k = none) (s : State) : tget ((Act.each l f).run s).regs k = none := by
  induction l generalizing s with
  | nil => simp at hx
  | cons y l ih =>
    rw [Act.run_each_cons]
    rcases List.mem_cons.1 hx with rfl | hmem
    · exact (Act.unlists_each (fun z hz => h z (by simp [hz])) _).2 (hf s)
    · exact ih hmem (fun z hz => h z (by simp [hz])) _

/-- An entry whose return to its default comes first is off the list. -/
theorem erased_unlisted {n : EName} {i : Nat} (h : b.Unlists (n.key i)) (s : State) :
    tget ((Act.seq (.regErase n i) b).run s).regs (n.key i) = none :=
  (h ((Act.regErase n i).run s)).2 (tget_tdel_same _ _)

theorem regErase_unlisted (n : EName) (i : Nat) (s : State) : tget ((Act.regErase n i).run s).regs (n.key i) = none := tget_tdel_same _ _

end

/-- The entries from which the reset of a context only takes values. -/
def dropEntries : List EName := [.flowState, .versionEntry, .moltCount]

/-- What the reset of a context takes of its queues. -/
def Act.queueDrop (q : Nat) : Act :=
  .all [.regErase .queueCfg q, .regErase .queueState q, .core fun c => { c with streams := tdel c.streams q }]

/-- Entries of a context by its number. -/
def ctxOwn : List EName := [.ringBase, .ringSize, .writeIndex, .readIndex, .droppedRecords, .recordEnable, .pepperSeed, .pepperReady,
  .ptRoot, .ctxState, .jobCount, .faultInfo]

/-- What the reset of a context takes besides tensor IDs, queues and the context's own entries. -/
def Act.ctxRest (s : State) (ctx : Nat) : Act :=
  .all [.flowDropOf ctx, .groupDropOf ctx,
    .each ((List.range 64).filter fun i => s.fld .lbrStream i 0 8 10 == ctx) fun i => .all [.regErase .lbrStream i,
      .units fun u => { u with lbr := tdel u.lbr i }],
    .splitDropOf ctx, .verRemoveOwner ctx,
    .each (s.u.sess.filter fun p => p.2.ctx == ctx) fun p => .all [.regErase .sessionDesc p.1, .regErase .sessionState p.1,
      .regErase .stepRead p.1, .regErase .sessionCount p.1, .units fun u => { u with sess := tdel u.sess p.1 }],
    .core fun c => { c with cc := c.cc.filter fun p => p.1 % 1024 != ctx, dropMark := sdel c.dropMark ctx }]

theorem ctxEntriesReset_run (s : State) (ctx : Nat) : (Act.ctxEntriesReset ctx).run s =
    (Act.each ctxOwn fun n => .regErase n ctx).run ((Act.ctxRest s ctx).run ((Act.each (s.queuesOf ctx) .queueDrop).run
      ((Act.each (s.tidsOf ctx) .tidRelease).run s))) := by
  rw [Act.ctxEntriesReset, Act.run_get]
  simp only [Act.run_all_cons, Act.run_all_nil, Act.ctxRest]
  rfl

theorem Act.queueDrop_unlists {k : Nat} (q : Nat) : (Act.queueDrop q).Unlists k :=
  unlists_seq (unlists_erase _ _) <| unlists_seq (unlists_erase _ _) <| unlists_seq (unlists_units _) unlists_skip

theorem Act.ctxOwn_unlists {k : Nat} (ctx : Nat) : (Act.each ctxOwn fun n => .regErase n ctx).Unlists k :=
  unlists_each fun _ _ => unlists_erase _ _

theorem Act.tids_unlists {k : Nat} (l : List Nat) : (Act.each l .tidRelease).Unlists k :=
  unlists_each fun _ _ => unlists_seq (unlists_erase _ _) (unlists_units _)

section
variable {m : EName} {j : Nat} (hj : j < m.count) (hm : m ∉ dropEntries)
include hj hm

theorem Act.flowDisable_unlists (f : Nat) : (Act.flowDisable f).Unlists (m.key j) :=
  have hne : EName.flowState ≠ m := fun h => hm (h ▸ by decide)
  unlists_get fun _ => unlists_when <| unlists_seq
    (unlists_seq (unlists_fld hj hne) <| unlists_seq (unlists_fld hj hne) <| unlists_seq (unlists_get fun _ => unlists_trace _ _ _ _ _) unlists_skip) <|
    unlists_seq (unlists_fld hj hne) <| unlists_seq (unlists_units _) unlists_skip

theorem Act.versGone_unlists (model : Nat) (gone : Nat → Bool) : (Act.versGone model gone).Unlists (m.key j) :=
  have hne : EName.moltCount ≠ m := fun h => hm (h ▸ by decide)
  unlists_get fun _ => unlists_seq (unlists_units _) <| unlists_when <| unlists_get fun _ => unlists_when <|
    unlists_seq (unlists_get fun _ => unlists_fld hj hne) (unlists_when (unlists_units _))

theorem Act.verRemoveOwner_unlists (ctx : Nat) : (Act.verRemoveOwner ctx).Unlists (m.key j) :=
  have hne : EName.versionEntry ≠ m := fun h => hm (h ▸ by decide)
  unlists_get fun s => unlists_each fun model _ => by
    split
    · exact unlists_seq (versGone_unlists hj hm _ _) <| unlists_seq (unlists_erase _ _) <| unlists_seq (unlists_erase _ _) <|
        unlists_seq (unlists_erase _ _) unlists_skip
    · split
      · refine unlists_when (unlists_get fun s => ?_)
        split
        · exact unlists_skip
        · exact unlists_seq (versGone_unlists hj hm _ _) <| unlists_seq (unlists_fld hj hne) <| unlists_seq (unlists_fld hj hne) <|
            unlists_seq (unlists_get fun _ => unlists_fld hj hne) unlists_skip
      · exact unlists_skip

theorem Act.ctxRest_unlists (s : State) (ctx : Nat) : (Act.ctxRest s ctx).Unlists (m.key j) :=
  unlists_seq (unlists_get fun _ => unlists_each fun f _ => unlists_seq (flowDisable_unlists hj hm f) <|
    unlists_seq (unlists_erase _ _) <| unlists_seq (unlists_erase _ _) unlists_skip) <|
  unlists_seq (unlists_get fun _ => unlists_each fun _ _ => unlists_erase _ _) <|
  unlists_seq (unlists_each fun _ _ => unlists_seq (unlists_erase _ _) <| unlists_seq (unlists_units _) unlists_skip) <|
  unlists_seq (unlists_get fun _ => unlists_each fun _ _ => unlists_erase _ _) <|
  unlists_seq (verRemoveOwner_unlists hj hm ctx) <|
  unlists_seq (unlists_each fun _ _ => unlists_seq (unlists_erase _ _) <| unlists_seq (unlists_erase _ _) <|
    unlists_seq (unlists_erase _ _) <| unlists_seq (unlists_erase _ _) <| unlists_seq (unlists_units _) unlists_skip) <|
  unlists_seq (unlists_units _) unlists_skip

end

/-- What a context's reset leaves of the registers and of memory. -/
theorem ctxEntriesReset_drops (s : State) {ctx : Nat} : let t := (Act.ctxEntriesReset ctx).run s
    (∀ m, t.store m = s.store m) ∧ (∀ n ∈ ctxOwn, tget t.regs (n.key ctx) = none) ∧
      (∀ q ∈ s.queuesOf ctx, q < 65536 → tget t.regs (EName.queueCfg.key q) = none) ∧
      (∀ tid ∈ s.tidsOf ctx, tid < 16384 → tget t.regs (EName.tidOwner.key tid) = none) ∧
      ∀ (m : EName) (j : Nat), j < m.count → m ∉ dropEntries → tget s.regs (m.key j) = none → tget t.regs (m.key j) = none := by
  have htids {k : Nat} := Act.tids_unlists (k := k) (s.tidsOf ctx)
  have hqueues {k : Nat} : (Act.each (s.queuesOf ctx) .queueDrop).Unlists k := Act.unlists_each fun q _ => Act.queueDrop_unlists q
  have hrest {m : EName} {j : Nat} (hj : j < m.count) (hm : m ∉ dropEntries) := Act.ctxRest_unlists hj hm s ctx
  have hown {k : Nat} := Act.ctxOwn_unlists (k := k) ctx
  intro t
  have hrun : t = _ := ctxEntriesReset_run s ctx
  rw [hrun]
  refine ⟨fun m => ?_, fun n hn => ?_, fun q hmem hlt => ?_, fun tid hmem hlt => ?_, fun m j hj hm h => ?_⟩
  · exact ((hown (k := 0) _).1 m).trans <| ((hrest (m := .ctxState) (j := 0) (by decide) (by decide) _).1 m).trans <|
      ((hqueues (k := 0) _).1 m).trans ((htids (k := 0) s).1 m)
  · exact each_unlists (k := n.key ctx) (f := fun n => .regErase n ctx) hn (fun m _ => Act.unlists_erase m ctx)
      (fun x => regErase_unlisted n ctx x) _
  · have hq : ∀ x : State, tget ((Act.queueDrop q).run x).regs (EName.queueCfg.key q) = none :=
      erased_unlisted (Act.unlists_seq (Act.unlists_erase _ _) <| Act.unlists_seq (Act.unlists_units _) Act.unlists_skip)
    have hall := each_unlists hmem (fun q _ => Act.queueDrop_unlists q) hq
    exact (hown _).2 ((hrest (m := .queueCfg) hlt (by decide) _).2 (hall _))
  · have htid (y : Nat) : (Act.tidRelease y).Unlists (EName.tidOwner.key tid) := Act.unlists_seq (Act.unlists_erase _ _) (Act.unlists_units _)
    have hone : ∀ x : State, tget ((Act.tidRelease tid).run x).regs (EName.tidOwner.key tid) = none :=
      erased_unlisted (Act.unlists_units _)
    have hall := each_unlists hmem (fun y _ => htid y) hone s
    exact (hown _).2 ((hrest (m := .tidOwner) hlt (by decide) _).2 ((hqueues _).2 hall))
  · exact (hown _).2 ((hrest hj hm _).2 ((hqueues _).2 ((htids s).2 h)))

theorem mem_queuesOf {ctx q : Nat} (hq : q < 65536) (hctx : s.qCtx q = ctx) (hlisted : tget s.regs (EName.queueCfg.key q) ≠ none) :
    q ∈ s.queuesOf ctx := by
  obtain ⟨v, hv⟩ := Option.ne_none_iff_exists'.1 hlisted
  rw [State.queuesOf_eq, List.mem_filter, List.mem_filterMap]
  refine ⟨⟨_, tget_mem hv, ?_⟩, beq_iff_eq.2 hctx⟩
  have hkey := EName.queueCfg_key q
  rw [queueOfKey, if_pos (by omega), hkey, Nat.add_sub_cancel_left]

theorem EName.tidOwner_key (tid : Nat) : EName.tidOwner.key tid = EName.tidOwner.key 0 + tid := by
  show (0x5100 + tid / 256) * 256 + 0 + tid % 256 = 0x5100 * 256 + tid
  omega

theorem mem_tidsOf {ctx tid : Nat} (htid : tid < 16384) (hown : s.tidOwner tid = some ctx) (hlisted : tget s.regs (EName.tidOwner.key tid) ≠ none) :
    tid ∈ s.tidsOf ctx := by
  obtain ⟨v, hv⟩ := Option.ne_none_iff_exists'.1 hlisted
  rw [State.tidsOf, List.mem_filter, List.mem_filterMap]
  have hkey := EName.tidOwner_key tid
  refine ⟨⟨_, tget_mem hv, ?_⟩, beq_iff_eq.2 hown⟩
  rw [if_pos (by omega), hkey, Nat.add_sub_cancel_left]

/-- What the reset of a context that is FREE or FAULTED does. -/
def Act.ctxFreed (ctx : Nat) : Act := .all [.traceTeardown ctx, .ctxEntriesReset ctx, .phase]

theorem ctxFreed_frees (x : State) {ctx : Nat} (hctx : ctx < 1024) : let t := (Act.ctxFreed ctx).run x
    SameMem x t ∧ t.ctxState ctx = 0 ∧ t.rd .ptRoot ctx = 0 ∧ (∀ q, q < 65536 → x.qCtx q = ctx → t.rd .queueCfg q = 0) ∧
      ∀ tid, tid < 16384 → x.tidOwner tid = some ctx → t.rd .tidOwner tid = 0 := by
  set y := (Act.traceTeardown ctx).run x with hy
  have htrace : (Act.traceTeardown ctx).Touches [] := Act.touches_get fun _ => Act.trace_touches _ _ _ _ _
  obtain ⟨hmem, hown, hqueues, htids, hkeep⟩ := ctxEntriesReset_drops y (ctx := ctx)
  set z := (Act.ctxEntriesReset ctx).run y with hz
  have hrun : (Act.ctxFreed ctx).run x = Act.phase.run z := by
    rw [Act.ctxFreed, Act.run_all_cons, Act.run_all_cons, Act.run_all_cons, Act.run_all_nil]
  have hzero {n : EName} {i : Nat} (hi : i < n.count) (hn : n ≠ .phase ∧ n ≠ .phaseChanges) (hd : n.fit (n.dfltOf i z.u.pow.straps) = 0)
      (h : tget z.regs (n.key i) = none) : (Act.phase.run z).rd n i = 0 :=
    (Act.phase_touches.keepsRd hi (by simp [hn]) z).trans ((State.rd_unlisted z h).trans hd)
  have hrd {n : EName} {i : Nat} (hi : i < n.count) : y.rd n i = x.rd n i := htrace.keepsRd hi (by simp) x
  clear_value z y
  rw [hrun]
  refine ⟨?_, hzero hctx (by decide) rfl (hown .ctxState (by decide)), hzero hctx (by decide) rfl (hown .ptRoot (by decide)),
    fun q hq hc => hzero hq (by decide) rfl ?_, fun tid htid ho => hzero htid (by decide) rfl ?_⟩
  · rw [hy] at hmem
    exact sameMem_trans (htrace.keepsMem x) (sameMem_trans (sameMem_of_stores hmem) (Act.phase_touches.keepsMem z))
  · by_cases hl : tget y.regs (EName.queueCfg.key q) = none
    · exact hkeep .queueCfg q hq (by decide) hl
    · refine hqueues q (mem_queuesOf hq ?_ hl) hq
      rw [State.qCtx, State.fld, hrd hq]
      exact hc
  · by_cases hl : tget y.regs (EName.tidOwner.key tid) = none
    · exact hkeep .tidOwner tid htid (by decide) hl
    · refine htids tid (mem_tidsOf htid ?_ hl) htid
      rw [State.tidOwner, State.fld, State.fld, hrd htid]
      exact ho

theorem ctxReset_frees (ctx : Fin 1024) (h : Accepts s r .ctxReset ctx 1) (hfree : s.ctxState ctx = 0 ∨ s.ctxState ctx = 3) :
    let t := (Act.entryRow .ctxReset ruleCtxReset r ctx 1).run s
    t.ctxState ctx = 0 ∧ t.rd .ptRoot ctx = 0 ∧ (∀ q, q < 65536 → s.qCtx q = ctx → t.rd .queueCfg q = 0) ∧
      (∀ tid, tid < 16384 → s.tidOwner tid = some ctx.val → t.tidOwner tid = none) ∧ SameMem s t := by
  have hstate : (s.asked r .ctxReset ctx).ctxState ctx = s.ctxState ctx := State.asked_ctxState ctx.isLt
  have hrule : (ruleCtxReset r ctx 1 (Act.answers .ctxReset r ctx 1)).run (s.asked r .ctxReset ctx) =
      (Act.answers .ctxReset r ctx 1 stOk).run ((Act.ctxFreed ctx).run (s.asked r .ctxReset ctx)) := by
    have hnot : ¬ s.ctxState ctx = 2 := by omega
    rw [ruleCtxReset, Act.run_get, hstate, if_neg hnot, if_neg (by decide), Act.run_seq, Act.ctxReset, Act.run_get, hstate]
    rcases hfree with h | h <;> rw [h] <;> rfl
  have hrun := (h.entryRow_run (rule := ruleCtxReset) (State.asked_ownerFn ctx.isLt)).trans hrule
  have hanswer := Act.answers_touches .ctxReset r ctx 1 stOk ((Act.ctxFreed ctx).run (s.asked r .ctxReset ctx))
  have hasked := Act.asks_touches r (EName.ctxReset.key ctx) s
  obtain ⟨hmem, hfreed, hroot, hqueues, htids⟩ := ctxFreed_frees (s.asked r .ctxReset ctx) ctx.isLt
  rw [hrun]
  generalize (Act.ctxFreed ctx).run (s.asked r .ctxReset ctx) = y at *
  have hrd {n : EName} {i : Nat} (hi : i < n.count) (hn : n ≠ .dictCount) := hanswer.2 n i hi (by simp [hn])
  refine ⟨(hrd ctx.isLt (by decide)).trans hfreed, (hrd ctx.isLt (by decide)).trans hroot, fun q hq hc => ?_, fun tid htid ho => ?_,
    sameMem_trans hasked.1 (sameMem_trans hmem hanswer.1)⟩
  · exact (hrd hq (by decide)).trans (hqueues q hq ((State.asked_queueCfg hq).trans hc))
  · have hzero := (hrd (n := .tidOwner) htid (by decide)).trans (htids tid htid ((State.asked_tidOwner htid).trans ho))
    rw [State.tidOwner, State.fld, hzero]
    rfl

end

/-- Settles O26: each row takes its value by the rule of its entry, once the request's checks have passed (`Accepts.takes`). -/
theorem contextEntriesTakeWrites : Obligations.ContextEntriesTakeWrites := by
  intro s r
  refine ⟨fun ctx v h hgate hok hidle => ⟨_, rfl, ptRoot_takes ctx v h hgate hok hidle⟩, fun ctx h hready => ⟨_, rfl, ctxReset_tears ctx h hready⟩,
    fun ctx h hfree => ⟨_, rfl, ctxReset_frees ctx h hfree⟩, fun ctx h hgate => ⟨_, rfl, ptInvalidate_takes ctx h hgate⟩,
    fun tid v h hbit hwho hown hready => ⟨_, rfl, tidOwner_grants tid v h hbit hwho hown hready⟩,
    fun tid v h hbit hidle => ⟨_, rfl, tidOwner_releases tid v h hbit hidle⟩, fun ctx v h hgate hmay => ⟨_, rfl, ctxAdmin_takes ctx v h hgate hmay⟩,
    fun q v h hgate hmay hzero hvec hidle hcore hok => ⟨_, rfl, queueCfg_takes q v h hgate hmay hzero hvec hidle hcore hok⟩⟩

end Sys2Proof.Machine
end

section
/-! SUPPORT. Firmware updates, the rollback floor, key slots, enrolment and debug unlocking (R500 to R510, R516 to R518). -/

namespace Sys2Proof.Machine

section
variable {s : State} {r : Requester} {n : EName} {i v st : Nat} {rule : Rule} {body : Act} {l : List (EName × Nat)}

/-! ### A write that its rule answers -/

/-- A write whose rule does `body` and answers `st` ends in what `body` leaves; `body` is looked at where the rule finds the machine. -/
theorem Accepts.answered (h : Accepts s r n i v) (hown : (s.asked r n i).ownerFn n i = s.ownerFn n i)
    (hrule : ∀ k, (rule r i v k).run (s.asked r n i) = (k st).run (body.run (s.asked r n i)))
    (hbody : SameMem (s.asked r n i) (body.run (s.asked r n i)) ∧
      SameEntriesBut ((.dictCount, 0) :: l) (s.asked r n i) (body.run (s.asked r n i))) :
    Takes s ((Act.entryRow n rule r i v).run s) l (body.run (s.asked r n i)) := by
  have hasked := Act.asks_touches r (n.key i) s
  have hend := Act.answers_touches n r i v st (body.run (s.asked r n i))
  rw [h.entryRow_run hown, hrule]
  exact ⟨Act.answers_keepsCore .., fun hj hn => hend.2 _ _ hj (by simpa using hn),
    frame_trans (sameEntries_mono (by simp) hasked) (frame_trans hbody (sameEntries_mono (by simp) hend))⟩

/-- What neither depends on the dictionary's own state nor on the registers a request leaves. -/
theorem State.asked_units {α : Type} {g : Units → α} (h : ∀ (u : Units) d, g { u with dict := d } = g u) :
    g (s.asked r n i).u = g s.u :=
  Act.asks_keeps (f := fun s => g s.u) r _ (fun s ids lease => h s.u { s.u.dict with ids := ids, leaseAt := lease }) Act.count_keeps_u s

theorem State.asked_store (m : MemSel) : (s.asked r n i).store m = s.store m :=
  Act.asks_keeps (f := fun s => s.store m) r _ (fun s _ _ => by cases m <;> rfl) (Act.count_keeps_store m) s

/-! ### Images -/

theorem State.asked_trust : (s.asked r n i).u.trust = s.u.trust := State.asked_units (g := Units.trust) fun _ _ => rfl

theorem State.asked_imgReason (img : List Byte) (type : Nat) : (s.asked r n i).imgReason img type = s.imgReason img type := by
  have hkey : (s.asked r n i).imgKey img = s.imgKey img := by
    rw [State.imgKey, State.imgKey]
    by_cases hslot : imgSlot img < 8
    · simp only [State.slotHas, s.asked_rd r (m := .keySlot) hslot (by simp)]
      rfl
    · simp only [hslot, false_and, if_false]
  simp only [State.imgReason, hkey, State.svnFloor, State.asked_trust]
  rfl

theorem State.asked_rdStack (hf : s.u.mem.faulty = false) (a len : Nat) : (s.asked r n i).rdStack a len = s.rdStack a len := by
  have hmem : (s.asked r n i).u.mem = s.u.mem := State.asked_units (g := Units.mem) fun _ _ => rfl
  have hstack : (s.asked r n i).stack = s.stack := State.asked_store .stack
  have hf' : (s.asked r n i).u.mem.faulty = false := by rw [hmem, hf]
  simp only [State.rdStack, State.rdMem, State.badChannel, State.asked_store, State.asked_pow, hmem, hstack, readByte_sound hf,
    readByte_sound hf']

theorem State.asked_imgAt (hf : s.u.mem.faulty = false) (dpa : Nat) :
    (s.asked r n i).imgLen dpa = s.imgLen dpa ∧ (s.asked r n i).imgAt dpa = s.imgAt dpa := by
  have hlen : (s.asked r n i).imgLen dpa = s.imgLen dpa := by rw [State.imgLen, State.imgLen, State.asked_rdStack hf]
  refine ⟨hlen, ?_⟩
  simp only [State.imgAt, hlen, State.asked_rdStack hf]

theorem State.asked_imgHeld (hf : s.u.mem.faulty = false) (dpa : Nat) : (s.asked r n i).imgHeld dpa = s.imgHeld dpa := by
  have hmem : (s.asked r n i).u.mem = s.u.mem := State.asked_units (g := Units.mem) fun _ _ => rfl
  have hfld (lo len : Nat) : (s.asked r n i).fld .lbCtrl 0 0 lo len = s.fld .lbCtrl 0 0 lo len := s.asked_fld r (by decide) (by decide)
  simp only [State.imgHeld, State.loopback, State.lbHolds, State.lbReaches, State.crossingFull, State.granules, hfld, hmem,
    (State.asked_imgAt hf dpa).1]

end

theorem leBytes_leNat (l : List Byte) : leBytes l.length (leNat l) = l := by
  induction l with
  | nil => rfl
  | cons b l ih =>
    have hb : b.toNat < 2 ^ 8 := b.isLt
    have hhead : BitVec.ofNat 8 (b.toNat + 256 * leNat l) = b := BitVec.eq_of_toNat_eq (by rw [BitVec.toNat_ofNat]; omega)
    have htail : (b.toNat + 256 * leNat l) >>> 8 = leNat l := by rw [Nat.shiftRight_eq_div_pow]; omega
    rw [List.length_cons, leNat, leBytes, hhead, htail, ih]

/-! ### Parts of an image (R501) -/

section
variable {s : State} {r : Requester}

/-- The firmware's staging of a pushed image. -/
def Act.stagedImg (img : List Byte) : Act := .units fun u => { u with trust := { u.trust with staging := img } }

/-- What the part that completes an image does where firmware runs. -/
def Act.partTaken (s : State) (img : List Byte) : Act :=
  .seq (.stagedImg img) (.when (imgWhole img && s.u.pow.boot == .running) (.updateStart img (s.imgReason img 1)))

theorem Act.updateStart_touches {l : List (EName × Nat)} {img : List Byte} {reason : Nat} (h : (.fwUpdateState, 0) ∈ l) :
    (Act.updateStart img reason).Touches l :=
  touches_seq (raiseSrc_touches _) (touches_ite (touches_seq (touches_reg h) (touches_units fun _ => ⟨rfl, rfl⟩)) (touches_reg h))

theorem Act.updateStart_keepsStaging {img : List Byte} {reason : Nat} : (Act.updateStart img reason).Keeps fun s => s.u.trust.staging :=
  keeps_seq (keeps_units fun _ => rfl) (keeps_ite (fun _ => keeps_seq (reg_keeps_u (g := fun u => u.trust.staging)) (keeps_units fun _ => rfl))
    fun _ => reg_keeps_u (g := fun u => u.trust.staging))

theorem execFwChunk_row {data : List Byte} (hlen : data.length = 16384) (hrom : s.romServes r = false) :
    execFwChunk r data s = (Act.entryRow .fwChunk ruleFwChunk r 0 (leNat data)).outcome s := by
  simp only [execFwChunk, Act.outcome, Act.run_get, hlen, hrom, ne_eq, not_true_eq_false, if_false, Bool.false_eq_true]

/-- A part out of order is refused, and nothing stays staged. -/
theorem fwChunk_restarts {data : List Byte} (hlen : data.length = 16384) (hdue : s.u.trust.due = none)
    (h : Accepts s r .fwChunk 0 (leNat data)) (hhead : partHead data ≠ (s.u.trust.staging.isEmpty || imgWhole s.u.trust.staging)) :
    let t := (Act.entryRow .fwChunk ruleFwChunk r 0 (leNat data)).run s
    t.u.trust.staging = [] ∧ EntryOnly [] s t := by
  have hrule (k : Nat → Act) : (ruleFwChunk r 0 (leNat data) k).run (s.asked r .fwChunk 0) =
      (k stRefused).run ((Act.stagedImg []).run (s.asked r .fwChunk 0)) := by
    have hbytes : leBytes 16384 (leNat data) = data := hlen ▸ leBytes_leNat data
    rw [ruleFwChunk, Act.run_get, State.asked_trust, hbytes, hdue, if_neg (by simp), if_pos (by simpa using hhead)]
    rfl
  have ht := h.answered (rule := ruleFwChunk) (l := []) rfl hrule
    (Act.touches_units (l := [(.dictCount, 0)]) (fun _ => ⟨rfl, rfl⟩) (s.asked r .fwChunk 0))
  exact ⟨h.unitsAfter (g := fun u => u.trust.staging) rfl hrule fun _ _ => rfl, ht.only⟩

/-- A part in order is staged, and the bytes past the image are dropped. -/
theorem fwChunk_stages {data img : List Byte} (hlen : data.length = 16384) (hdue : s.u.trust.due = none)
    (h : Accepts s r .fwChunk 0 (leNat data)) (hhead : partHead data = (s.u.trust.staging.isEmpty || imgWhole s.u.trust.staging))
    (himg : (if partHead data then data else s.u.trust.staging ++ data) = img) :
    let t := (Act.entryRow .fwChunk ruleFwChunk r 0 (leNat data)).run s
    t.u.trust.staging = img.take (256 + imgBytes img) ∧ SameMem s t := by
  have hrule (k : Nat → Act) : (ruleFwChunk r 0 (leNat data) k).run (s.asked r .fwChunk 0) =
      (k stOk).run ((Act.partTaken (s.asked r .fwChunk 0) (img.take (256 + imgBytes img))).run (s.asked r .fwChunk 0)) := by
    have hbytes : leBytes 16384 (leNat data) = data := hlen ▸ leBytes_leNat data
    rw [ruleFwChunk, Act.run_get, State.asked_trust, hbytes, hdue, if_neg (by simp), ← hhead, if_neg (by simp), himg]
    rfl
  have ht := h.takes (rule := ruleFwChunk) (l := [(.fwUpdateState, 0)]) rfl (.partTaken (s.asked r .fwChunk 0) _) hrule
    (Act.touches_seq (Act.touches_units fun _ => ⟨rfl, rfl⟩) (Act.touches_when (Act.updateStart_touches (by simp))))
  refine ⟨?_, ht.only.1⟩
  rw [h.unitsAfter (g := fun u => u.trust.staging) rfl hrule fun _ _ => rfl]
  exact Act.keeps_when (fun _ => Act.updateStart_keepsStaging) _

/-! ### FW_UPDATE and the end of its flash write (R506, R507) -/

/-- The image at an address is read, the address kept, and the update begun or refused. -/
def Act.imgUpdated (v : Nat) (img : List Byte) (reason : Nat) : Act :=
  .all [.noteImg v, .store .fwUpdate 0 v, .updateStart img reason]

/-- Reading an image counts memory errors at most, where memory takes none. -/
theorem Act.noteImg_countsErrors (dpa : Nat) : (Act.noteImg dpa).CountsErrors := fun s hf => by
  rw [Act.noteImg, Act.run_get]
  cases decide (dpa + s.imgLen dpa ≤ stackSize) with
  | false => exact countsErrors_skip s hf
  | true => exact noteRead_countsErrors dpa (s.imgLen dpa) s hf

theorem Act.CountsErrors.leaves {a : Act} (h : a.CountsErrors) (hf : s.u.mem.faulty = false) :
    SameMem s (a.run s) ∧ SameEntriesBut ((List.range 20).map fun i => (.memErrors, i)) s (a.run s) := by
  obtain ⟨honly, hstore⟩ := h s hf
  refine ⟨sameMem_of_stores hstore, fun n i hi hn => honly.entries n i (fun e => ?_) hi⟩
  subst e
  exact hn (List.mem_map_of_mem (List.mem_range.2 hi))

theorem Act.updateStart_keepsRd {img : List Byte} {reason : Nat} {m : EName} {j : Nat} (hj : j < m.count) (hm : m ≠ .fwUpdateState) :
    (Act.updateStart img reason).Keeps fun s => s.rd m j :=
  (updateStart_touches (l := [(.fwUpdateState, 0)]) (by simp)).keepsRd hj (by simp [hm])

theorem updateStart_begins (s : State) (img : List Byte) :
    ((Act.updateStart img 0).run s).rd .fwUpdateState = 1 ∧ ((Act.updateStart img 0).run s).u.trust.due = some img :=
  ⟨State.rd_reg _ 1 (.of_vol _ (by decide) rfl), rfl⟩

/-- A reason of R506 is at most 5. -/
theorem State.imgReason_le (s : State) (img : List Byte) (type : Nat) : s.imgReason img type ≤ 5 := by
  unfold State.imgReason
  split
  · omega
  · split
    · omega
    · split
      · omega
      · split
        · omega
        · split <;> omega

theorem updateStart_refuses (s : State) (img : List Byte) {reason : Nat} (h : reason ≠ 0) (hle : reason ≤ 5) :
    ((Act.updateStart img reason).run s).rd .fwUpdateState = 3 + reason * 2 ^ 4 ∧ ((Act.updateStart img reason).run s).u.trust = s.u.trust := by
  rw [Act.updateStart, if_neg h]
  refine ⟨(State.rd_reg _ _ (.of_vol _ (by decide) rfl)).trans (Nat.mod_eq_of_lt ?_), Act.reg_keeps_u (g := Units.trust) _⟩
  show 3 + reason * 2 ^ 4 < 2 ^ 8
  omega

theorem fwUpdate_updates (v : W64) (h : Accepts s r .fwUpdate 0 v.toNat) (hdue : s.u.trust.due = none) (hheld : s.imgHeld v.toNat = false)
    (hf : s.u.mem.faulty = false) :
    let t := (Act.entryRow .fwUpdate ruleFwUpdate r 0 v.toNat).run s
    EntryOnly ((.fwUpdate, 0) :: (.fwUpdateState, 0) :: (List.range 20).map fun i => (.memErrors, i)) s t ∧ t.rd .fwUpdate = v.toNat ∧
      (s.imgReason (s.imgAt v.toNat) 1 = 0 → t.rd .fwUpdateState = 1 ∧ t.u.trust.due = some (s.imgAt v.toNat)) ∧
      (s.imgReason (s.imgAt v.toNat) 1 ≠ 0 → t.rd .fwUpdateState = 3 + s.imgReason (s.imgAt v.toNat) 1 * 2 ^ 4 ∧ t.u.trust.due = none) := by
  have hrule (k : Nat → Act) : (ruleFwUpdate r 0 v.toNat k).run (s.asked r .fwUpdate 0) =
      (k stOk).run ((Act.imgUpdated v.toNat (s.imgAt v.toNat) (s.imgReason (s.imgAt v.toNat) 1)).run (s.asked r .fwUpdate 0)) := by
    rw [ruleFwUpdate, Act.run_get, State.asked_trust, State.asked_imgHeld hf, (State.asked_imgAt hf _).2, State.asked_imgReason, hdue, hheld,
      if_neg (by simp), Act.imgUpdated]
    simp only [Act.run_all_cons, Act.run_all_nil]
  have hle := s.imgReason_le (s.imgAt v.toNat) 1
  generalize s.imgReason (s.imgAt v.toNat) 1 = reason at hrule hle ⊢
  generalize s.imgAt v.toNat = img at hrule ⊢
  have hf' : (s.asked r .fwUpdate 0).u.mem.faulty = false := by rw [State.asked_units (g := Units.mem) fun _ _ => rfl, hf]
  have hnote := (Act.noteImg_countsErrors v.toNat).leaves hf'
  have hunits : ((Act.noteImg v.toNat).run (s.asked r .fwUpdate 0)).u.trust.due = none := by
    rw [((Act.noteImg_countsErrors v.toNat) _ hf').1.units, State.asked_trust, hdue]
  have hrest : (Act.seq (.store .fwUpdate 0 v.toNat) (.updateStart img reason)).Touches
      ((.dictCount, 0) :: (.fwUpdate, 0) :: (.fwUpdateState, 0) :: (List.range 20).map fun i => (.memErrors, i)) :=
    Act.touches_seq (Act.touches_store (by simp)) (Act.updateStart_touches (by simp))
  have hbody : (Act.imgUpdated v.toNat img reason).run (s.asked r .fwUpdate 0) =
      (Act.updateStart img reason).run ((Act.store .fwUpdate 0 v.toNat).run ((Act.noteImg v.toNat).run (s.asked r .fwUpdate 0))) := rfl
  have ht := h.answered (rule := ruleFwUpdate) (l := (.fwUpdate, 0) :: (.fwUpdateState, 0) :: (List.range 20).map fun i => (.memErrors, i)) rfl
    hrule (hbody ▸ frame_trans (sameEntries_mono (fun _ hx => List.mem_cons_of_mem _ (List.mem_cons_of_mem _ (List.mem_cons_of_mem _ hx))) hnote)
      (hrest _))
  have hdue' := h.unitsAfter (g := fun u => u.trust.due) rfl hrule fun _ _ => rfl
  rw [hbody] at ht hdue'
  generalize (Act.noteImg v.toNat).run (s.asked r .fwUpdate 0) = x at ht hdue' hunits
  refine ⟨ht.only, ?_, fun h0 => ?_, fun hne => ?_⟩
  · rw [ht.rd (by decide) (by simp)]
    exact (Act.updateStart_keepsRd (by decide) (by simp) _).trans (State.rd_store 64 (.of_vol _ (by decide) rfl) rfl v.isLt)
  · subst h0
    rw [ht.rd (by decide) (by simp), hdue']
    exact updateStart_begins _ img
  · obtain ⟨hstate, hkept⟩ := updateStart_refuses ((Act.store .fwUpdate 0 v.toNat).run x) img hne hle
    rw [ht.rd (by decide) (by simp), hdue', hkept]
    exact ⟨hstate, (Act.store_keepsU (g := fun u => u.trust.due) (fun _ _ => rfl) x).trans hunits⟩

/-- What the end of an update's flash write leaves of the trust unit. -/
def TrustU.updated (u : TrustU) (ok : Bool) (img : List Byte) : TrustU :=
  { u with
    due := none
    copies := if ok then tset u.copies (1 - u.active) img else u.copies
    active := if ok then 1 - u.active else u.active }

/-- The flash write of an update ends. -/
theorem updateDone_ends {img : List Byte} (hdue : s.u.trust.due = some img) (ok : Bool) :
    let t := (Act.updateDone ok).run s
    t.u.trust = s.u.trust.updated ok img ∧ t.rd .fwUpdateState = (if ok then 2 else 83) ∧ 142 ∈ t.u.host.raised ∧ SameMem s t := by
  have hrun : (Act.updateDone ok).run s = (Act.seq (.units fun u => { u with trust := u.trust.updated ok img })
      (.seq (.reg .fwUpdateState 0 (if ok then 2 else 83)) (.raiseSrc 142))).run s := by
    rw [Act.updateDone, Act.run_get, hdue]
    rfl
  have htouch : (Act.seq (.units fun u => { u with trust := u.trust.updated ok img })
      (.seq (.reg .fwUpdateState 0 (if ok then 2 else 83)) (.raiseSrc 142))).Touches [(.fwUpdateState, 0)] :=
    Act.touches_seq (Act.touches_units fun _ => ⟨rfl, rfl⟩) (Act.touches_seq (Act.touches_reg (by simp)) (Act.raiseSrc_touches _))
  have hfit : EName.fwUpdateState.fit (if ok then 2 else 83) = if ok then 2 else 83 := by cases ok <;> rfl
  have hstate (x : State) : ((Act.seq (.reg .fwUpdateState 0 (if ok then 2 else 83)) (.raiseSrc 142)).run x).rd .fwUpdateState =
      if ok then 2 else 83 :=
    ((Act.raiseSrc_touches (l := []) 142).keepsRd (by decide) (by simp) _).trans ((State.rd_reg _ _ (.of_vol _ (by decide) rfl)).trans hfit)
  rw [hrun]
  exact ⟨Act.reg_keeps_u (g := Units.trust) _, hstate _, mem_sadd .., (htouch s).1⟩

/-! ### FW_SVN_COMMIT, keys, enrolment and debug (R507 to R510, R516 to R518) -/

def Act.svnCommitted (v : Nat) : Act :=
  .seq (.store .fwSvnCommit 0 v) (.units fun u => { u with trust := { u.trust with svn := max u.trust.svn (imgSvn u.trust.run) } })

theorem fwSvnCommit_commits (h : Accepts s r .fwSvnCommit 0 1) (hboot : s.fld .bootStatus 0 0 6 1 = 0) (hcopy : s.fld .bootStatus 0 0 4 2 < 2) :
    let t := (Act.entryRow .fwSvnCommit ruleFwSvnCommit r 0 1).run s
    t.u.trust.svn = max s.u.trust.svn (imgSvn s.u.trust.run) ∧ EntryOnly [(.fwSvnCommit, 0)] s t := by
  have hfld (lo len : Nat) : (s.asked r .fwSvnCommit 0).fld .bootStatus 0 0 lo len = s.fld .bootStatus 0 0 lo len :=
    s.asked_fld r (by decide) (by decide)
  have hrule (k : Nat → Act) : (ruleFwSvnCommit r 0 1 k).run (s.asked r .fwSvnCommit 0) =
      (k stOk).run ((Act.svnCommitted 1).run (s.asked r .fwSvnCommit 0)) := by
    rw [ruleFwSvnCommit, Act.run_get, hfld, hfld, hboot, if_neg (by omega), Act.svnCommitted]
    simp only [Act.run_all_cons, Act.run_all_nil, Act.run_seq]
  have ht := h.takes (rule := ruleFwSvnCommit) (l := [(.fwSvnCommit, 0)]) rfl (.svnCommitted 1) hrule
    (Act.touches_seq (Act.touches_store (by simp)) (Act.touches_units fun _ => ⟨rfl, rfl⟩))
  refine ⟨?_, ht.only⟩
  rw [h.unitsAfter (g := fun u => u.trust.svn) rfl hrule fun _ _ => rfl, ← s.asked_trust (r := r) (n := .fwSvnCommit) (i := 0)]
  exact congrArg (fun t : TrustU => max t.svn (imgSvn t.run)) (Act.store_keepsU (g := Units.trust) (fun _ _ => rfl) (s.asked r .fwSvnCommit 0))

/-- A key slot is written, and the modules that it no longer covers are disabled. -/
def Act.slotKeyed (s : State) (slot v : Nat) : Act :=
  .seq (.store .keySlot slot (v &&& keySlotMask))
    (.when (!(bit v 0 && bit v 1)) (.each [0, 1] fun m => .when (s.policyRuns m && (s.policy m).slot == slot) (.reg .policyState m 2)))

theorem keySlot_takes (slot : Fin 8) (v : BitVec 640) (h : Accepts s r .keySlot slot v.toNat) (hsafe : s.safeMode = false)
    (hfree : s.rd .enrollFreeze ≠ 1) (hpoint : bit v.toNat 0 = true → Config.sm2Point (bits v.toNat 128 512) = true) :
    let t := (Act.entryRow .keySlot ruleKeySlot r slot v.toNat).run s
    t.rd .keySlot slot = v.toNat &&& keySlotMask ∧
      (∀ m, m < 2 → s.policyRuns m = true → (s.policy m).slot = slot → (bit v.toNat 0 && bit v.toNat 1) = false → t.rd .policyState m = 2) ∧
      EntryOnly [(.keySlot, slot), (.policyState, 0), (.policyState, 1)] s t := by
  have hruns {m : Nat} (hm : m < 2) : (s.asked r .keySlot slot).policyRuns m = s.policyRuns m := by
    rw [State.policyRuns, s.asked_rd r (m := .policyState) (hm.trans_eq (by decide)) (by simp), State.policyRuns]
  have hsafe' : (s.asked r .keySlot slot).safeMode = false := by rw [State.safeMode, State.asked_pow, ← State.safeMode, hsafe]
  have hpolicy (m : Nat) : (s.asked r .keySlot slot).policy m = s.policy m := by
    rw [State.policy, State.asked_units (g := Units.host) fun _ _ => rfl, State.policy]
  have hno : ¬ (s.rd .enrollFreeze = 1 ∨ (bit v.toNat 0 = true ∧ Config.sm2Point (bits v.toNat 128 512) = false)) := by
    rintro (hone | ⟨hbit, hbad⟩)
    · exact hfree hone
    · rw [hpoint hbit] at hbad; cases hbad
  have hrule (k : Nat → Act) : (ruleKeySlot r slot v.toNat k).run (s.asked r .keySlot slot) =
      (k stOk).run ((Act.slotKeyed (s.asked r .keySlot slot) slot v.toNat).run (s.asked r .keySlot slot)) := by
    rw [ruleKeySlot, Act.run_get, s.asked_rd r (by decide) (by simp), if_neg hno, Act.slotKeyed]
    simp only [Act.run_all_cons, Act.run_all_nil, Act.run_seq]
  have ht := h.takes (rule := ruleKeySlot) (l := [(.keySlot, slot.val), (.policyState, 0), (.policyState, 1)]) rfl
    (.slotKeyed (s.asked r .keySlot slot) slot v.toNat)
    hrule (Act.touches_seq (Act.touches_store (by simp)) (Act.touches_when (Act.touches_each fun m hm =>
      Act.touches_when (Act.touches_reg (by simp at hm ⊢; omega)))))
  have hoff (m : Nat) (c : Bool) : (Act.when c (.reg .policyState m 2)).Touches [(.policyState, m)] :=
    Act.touches_when (Act.touches_reg (by simp))
  have hset (x : State) {m : Nat} (hm : m < 2) : ((Act.reg .policyState m 2).run x).rd .policyState m = 2 :=
    State.rd_reg x 2 (.of_vol _ (hm.trans_eq (by decide)) rfl)
  refine ⟨?_, fun m hm hrun hslot hlost => ?_, ht.only⟩
  · have hkept : (Act.when (!(bit v.toNat 0 && bit v.toNat 1)) (.each [0, 1] fun m => .when
        ((s.asked r .keySlot slot).policyRuns m && ((s.asked r .keySlot slot).policy m).slot == slot.val) (.reg .policyState m 2))).Keeps fun s => s.rd .keySlot slot :=
      Act.keeps_when fun _ => Act.keeps_each fun m _ => (hoff m _).keepsRd slot.isLt (by simp)
    rw [ht.rd slot.isLt (by simp)]
    exact (hkept _).trans (State.rd_store 640 ⟨slot.isLt, by decide, fun _ => ⟨(h.asked rfl).flash rfl, hsafe'⟩⟩ rfl
      (Nat.and_le_left.trans_lt v.isLt))
  · have hon : ((s.asked r .keySlot slot).policyRuns m && ((s.asked r .keySlot slot).policy m).slot == slot.val) = true := by
      rw [hruns hm, hpolicy, hrun, hslot]; simp
    rw [ht.rd (hm.trans_eq (by decide)) (by simp), Act.slotKeyed, Act.run_seq, hlost, Bool.not_false, Act.when_true, Act.run_each_cons,
      Act.run_each_cons, Act.run_each_nil]
    obtain rfl | rfl : m = 0 ∨ m = 1 := by omega
    · exact ((hoff 1 _).keepsRd (by decide) (by simp) _).trans (by rw [hon, Act.when_true]; exact hset _ hm)
    · rw [hon, Act.when_true, hset _ hm]

theorem enrollFreeze_freezes (h : Accepts s r .enrollFreeze 0 1) :
    let t := (Act.entryRow .enrollFreeze ruleEnrollFreeze r 0 1).run s
    t.rd .enrollFreeze = 1 ∧ EntryOnly [(.enrollFreeze, 0)] s t := by
  have ht := h.takes (rule := ruleEnrollFreeze) (l := [(.enrollFreeze, 0)]) rfl (.store .enrollFreeze 0 1)
    (fun k => ruleIf_run (by rfl)) (Act.touches_store (by simp))
  refine ⟨?_, ht.only⟩
  rw [ht.rd (by decide) (by simp)]
  exact State.rd_store 8 ⟨by decide, by decide, fun hstore => absurd hstore (by decide)⟩ rfl (by decide)

def Act.unlocked (scope : Nat) : Act :=
  .seq (.raiseSrc 142) (.units fun u => { u with trust := { u.trust with unlock := some scope } })

/-- What a debug token's signature is over (R517). -/
def State.tokenSaid (s : State) (token : Nat) : List Byte :=
  leBytes 8 (s.rd .serial) ++ leBytes 16 (bits token 0 128) ++ leBytes 4 (bits token 128 32)

theorem debugUnlock_unlocks {token : Nat} (h : Accepts s r .debugUnlock 0 token) (hallow : s.rd .debugAllow = 1)
    (hnonce : bits token 0 128 = s.rd .debugNonce) (hscope : bits token 128 32 < 4) (hzero : bits token 160 96 = 0) :
    let t := (Act.entryRow .debugUnlock ruleDebugUnlock r 0 token).run s
    EntryOnly [] s t ∧ t.u.trust.unlock = if Config.sm2Verify Config.rootPub (Config.sm3 (s.tokenSaid token)) (bits token 256 512) = true
      then some (bits token 128 32) else s.u.trust.unlock := by
  have hserial : (s.asked r .debugUnlock 0).rd .serial = s.rd .serial := s.asked_rd r (by decide) (by simp)
  have hrun (k : Nat → Act) : (ruleDebugUnlock r 0 token k).run (s.asked r .debugUnlock 0) =
      if Config.sm2Verify Config.rootPub (Config.sm3 (s.tokenSaid token)) (bits token 256 512) = true then
        (k stOk).run ((Act.unlocked (bits token 128 32)).run (s.asked r .debugUnlock 0))
      else (k stRefused).run ((Act.raiseSrc 142).run (s.asked r .debugUnlock 0)) := by
    rw [ruleDebugUnlock, Act.run_get, s.asked_rd r (m := .debugAllow) (by decide) (by simp), s.asked_rd r (m := .debugNonce) (by decide) (by simp),
      hserial, hallow, ← hnonce]
    by_cases hgood : Config.sm2Verify Config.rootPub (Config.sm3 (s.tokenSaid token)) (bits token 256 512) = true
    · rw [if_pos ⟨rfl, rfl, hscope, hzero, hgood⟩, if_pos hgood, Act.unlocked]
      simp only [Act.run_all_cons, Act.run_all_nil, Act.run_seq]
    · rw [if_neg fun ⟨_, _, _, _, h⟩ => hgood h, if_neg hgood, Act.run_seq]
  by_cases hgood : Config.sm2Verify Config.rootPub (Config.sm3 (s.tokenSaid token)) (bits token 256 512) = true
  · have hrule := fun k => (hrun k).trans (if_pos hgood)
    rw [if_pos hgood]
    exact ⟨(h.takes (l := []) rfl (.unlocked _) hrule (Act.touches_seq (Act.raiseSrc_touches _) (Act.touches_units fun _ => ⟨rfl, rfl⟩))).only,
      h.unitsAfter (g := fun u => u.trust.unlock) rfl hrule fun _ _ => rfl⟩
  · have hrule := fun k => (hrun k).trans (if_neg hgood)
    rw [if_neg hgood]
    refine ⟨(h.answered (l := []) rfl hrule (Act.raiseSrc_touches (l := [(.dictCount, 0)]) 142 (s.asked r .debugUnlock 0))).only, ?_⟩
    rw [h.unitsAfter (g := fun u => u.trust.unlock) rfl hrule fun _ _ => rfl]
    exact congrArg TrustU.unlock s.asked_trust

theorem debugRelock_relocks (h : Accepts s r .debugRelock 0 1) :
    let t := (Act.entryRow .debugRelock ruleDebugRelock r 0 1).run s
    t.rd .debugState = 0 ∧ EntryOnly [(.debugState, 0)] s t := by
  have ht := h.takes (rule := ruleDebugRelock) (l := [(.debugState, 0)]) rfl (.reg .debugState 0 0)
    (fun k => by rw [ruleDebugRelock, if_pos rfl]; rfl) (Act.touches_reg (by simp))
  refine ⟨?_, ht.only⟩
  rw [ht.rd (by decide) (by simp)]
  exact State.rd_reg _ 0 ⟨by decide, by decide, fun hstore => absurd hstore (by decide)⟩

end

/-- Settles O50: each write is what its rule does in the state the request leaves, and a part or an image is looked at where the rule finds it. -/
theorem trustEntriesTakeWrites : Obligations.TrustEntriesTakeWrites := by
  unfold Obligations.TrustEntriesTakeWrites
  intro s r
  refine ⟨fun data hlen hrom hdue h => ?_, fun v h hdue hheld hf => ⟨_, rfl, fwUpdate_updates v h hdue hheld hf⟩, fun img hdue => ⟨?_, ?_⟩,
    fun h hboot hcopy => ⟨_, rfl, fwSvnCommit_commits h hboot hcopy⟩,
    fun slot v h hsafe hfree hpoint => ⟨_, rfl, keySlot_takes slot v h hsafe hfree hpoint⟩, fun h => ⟨_, rfl, enrollFreeze_freezes h⟩,
    fun token h hallow hnonce hscope hzero => ⟨_, rfl, debugUnlock_unlocks h hallow hnonce hscope hzero⟩, fun h => ⟨_, rfl, debugRelock_relocks h⟩⟩
  · refine ⟨fun hhead => ⟨_, execFwChunk_row hlen hrom, fwChunk_restarts hlen hdue h hhead⟩, fun hfresh hhead => ⟨_, execFwChunk_row hlen hrom, ?_⟩,
      fun hfresh hhead => ⟨_, execFwChunk_row hlen hrom, ?_⟩⟩
    · exact fwChunk_stages hlen hdue h (hhead.trans hfresh.symm) (if_pos hhead)
    · exact fwChunk_stages hlen hdue h (hhead.trans hfresh.symm) (if_neg (by simp [hhead]))
  · obtain ⟨htrust, hstate, hraised, hmem⟩ := updateDone_ends hdue true
    refine ⟨_, rfl, ?_, ?_, hstate, ?_, hraised, hmem⟩
    · rw [htrust]; exact tget_tset_same ..
    · rw [htrust]; rfl
    · rw [htrust]; rfl
  · obtain ⟨htrust, hstate, -, hmem⟩ := updateDone_ends hdue false
    refine ⟨_, rfl, ?_, ?_, hstate, ?_, hmem⟩ <;> rw [htrust] <;> rfl

end Sys2Proof.Machine
end

section
/-! SUPPORT. Kwehus requests that the server answers (R444 to R452). -/

namespace Sys2Proof.Machine

/-! ### What a request leaves before the server works on it -/

/-- Another lease time, and other sources raised. -/
def Act.hear (lease : Nat) (raised : List Nat) : Act :=
  .units fun u => { u with dict := { u.dict with leaseAt := lease }, host := { u.host with raised := raised } }

def State.heard (s : State) (lease : Nat) (raised : List Nat) : State :=
  (Act.hear lease raised).run s

theorem Act.hear_touches {l : List (EName × Nat)} (lease : Nat) (raised : List Nat) :
    (Act.hear lease raised).Touches l := touches_units fun _ => ⟨rfl, rfl⟩

section
variable {s : State} {r : Requester} {p : Pdu}

theorem renew_hears (s : State) (r : Requester) : ∃ lease, (Act.renew r).run s = s.heard lease s.u.host.raised := by
  rw [Act.renew, Act.run_get]
  cases s.holds r with
  | true => exact ⟨_, rfl⟩
  | false => exact ⟨s.u.dict.leaseAt, rfl⟩

/-- A request that discards no staging changes the lease at most. -/
theorem asks_hears {key : Nat} (h : (s.did r).stKey = none ∨ (s.did r).stKey = some key) :
    ∃ lease, (Act.asks r key).run s = s.heard lease s.u.host.raised := by
  obtain ⟨lease, hrenew⟩ := renew_hears s r
  refine ⟨lease, ?_⟩
  have hkey : ((s.did r).stKey.isSome && (s.did r).stKey != some key) = false := by rcases h with h | h <;> simp [h]
  rw [Act.asks, Act.run_seq, hrenew, Act.run_get]
  exact congrArg (fun b => (Act.when b (.stageDrop r)).run _) hkey

/-- The operation of a well-formed PDU. -/
def Act.kwOp (op : Nat) (r : Requester) (p : Pdu) : Act :=
  if op = opRead then .kwRead r p else if op = opWrite then .kwWrite r p else if op = opInfo then .kwInfo r p else .kwNext r p

theorem kwRequest_run (hpath : s.pathOpen r = true) (hruns : s.fwRuns = true) (hgood : pduGood p = true)
    (hpeer : reqClass r = 3 → s.rd .peerDict ≠ 0) :
    (Act.kwRequest r p).run s = (Act.seq (.asks r (pduKey p)) (.seq (.when (reqClass r == 2) (.raiseSrc 109)) (.kwOp (pduOp p) r p))).run s := by
  have hno : ¬ (reqClass r = 3 ∧ s.rd .peerDict = 0) := fun h => hpeer h.1 h.2
  rw [Act.kwRequest, Act.run_get, hpath, Act.when_true, hruns, Bool.not_true, if_neg (by simp), hgood, Bool.not_true, if_neg (by simp), if_neg hno]
  rfl

/-- A request that the server serves: its operation runs, the lease and the source of the management path aside. -/
theorem Serves.kwRow_run {op : Nat} (h : Serves s r p op) :
    ∃ lease raised, (Act.kwRow op r p).run s = (Act.kwOp op r p).run (s.heard lease raised) := by
  obtain ⟨lease, hasks⟩ := asks_hears h.staging
  have hop : (pduOp p == op || !opKnown (pduOp p)) = true := by simp [h.asks]
  refine ⟨lease, if reqClass r = 2 then sadd s.u.host.raised 109 else s.u.host.raised, ?_⟩
  rw [Act.kwRow, hop, Act.when_true, Act.kwArrive, Act.run_get, h.direct, kwRequest_run h.path h.runs h.good h.peers, h.asks, Act.run_seq, hasks,
    Act.run_seq]
  by_cases hbmc : reqClass r = 2
  · rw [if_pos hbmc, hbmc]; rfl
  · rw [if_neg hbmc, beq_eq_false_iff_ne.2 hbmc, Act.when_false, Act.run_skip]

/-! ### The answer goes back -/

/-- The response has the request's OP and TAG. -/
theorem mailSig_resp (p : Pdu) (st : Nat) (data : List Byte) (key : Nat) : mailSig (pduResp p st data key) = mailSig p := by
  have hop : pduOp p < 2 ^ 7 := bits_lt _ _ _
  have htag : pduTag p < 2 ^ 8 := bits_lt _ _ _
  have hword : 1 + pduOp p * 2 ^ 8 + 2 ^ 15 + pduTag p * 2 ^ 16 + st * 2 ^ 24 + key / 256 * 2 ^ 32 + key % 256 * 2 ^ 48 + b2n (pduFinal p) * 2 ^ 56 =
      1 + pduOp p * 2 ^ 8 + 2 ^ 15 + pduTag p * 2 ^ 16 + (st + key / 256 * 2 ^ 8 + key % 256 * 2 ^ 24 + b2n (pduFinal p) * 2 ^ 32) * 2 ^ 24 := by
    ring
  have hw : (pduResp p st data key).w0.toNat =
      (1 + pduOp p * 2 ^ 8 + 2 ^ 15 + pduTag p * 2 ^ 16 + (st + key / 256 * 2 ^ 8 + key % 256 * 2 ^ 24 + b2n (pduFinal p) * 2 ^ 32) * 2 ^ 24) % 2 ^ 64 := by
    rw [← hword]
    exact BitVec.toNat_ofNat ..
  have hop' : bits (pduResp p st data key).w0.toNat 8 7 = pduOp p := by
    rw [hw, bits_mod (by decide), bits, Nat.shiftRight_eq_div_pow]
    omega
  have htag' : bits (pduResp p st data key).w0.toNat 16 8 = pduTag p := by
    rw [hw, bits_mod (by decide), bits, Nat.shiftRight_eq_div_pow]
    omega
  rw [mailSig, hop', htag']
  rfl

/-- No request of the requester's with this OP and TAG came by a channel: no channel answers. -/
theorem mailAnswer_none (h : ∀ e ∈ s.u.host.mail, ¬ (some e.1 = reqFn r ∧ e.2.1 = mailSig p)) : (Act.mailAnswer r p).run s = s := by
  have hnone : (s.u.host.mail.find? fun e => some e.1 == reqFn r && e.2.1 == mailSig p) = none :=
    List.find?_eq_none.2 fun e he => by simpa using h e he
  rw [Act.mailAnswer, Act.run_get, hnone]
  rfl

theorem answerOut_answers {x : State} {q : Pdu} (hno : ∀ e ∈ x.u.host.mail, ¬ (some e.1 = reqFn r ∧ e.2.1 = mailSig q))
    {P : State → Prop} (hP : P x) (hout : ∀ y o, P y → P ((Act.out o).run y)) :
    Answers x ((Act.answerOut (.answer r q)).run x) r q P := by
  have hmail : (Act.mailAnswer r q).run ((Act.out (.answer r q)).run x) = (Act.out (.answer r q)).run x := mailAnswer_none hno
  cases r with
  | peer a => exact ⟨x, hP, rfl⟩
  | bmc e => exact ⟨List.append_assoc .., hout _ _ (hout _ _ hP)⟩
  | hostPf | hostVf | firmware =>
    rw [Act.answerOut, Act.run_seq, hmail]
    · exact ⟨rfl, hout _ _ hP⟩
    · rintro a ⟨⟩
    · rintro a ⟨⟩

theorem countReq_u (s : State) (st : Nat) : ((Act.countReq st).run s).u = s.u :=
  Act.keeps_seq (f := fun s => s.u) (Act.count_keeps_u (g := id)) (Act.keeps_seq (Act.keeps_when fun _ => Act.count_keeps_u (g := id))
    (Act.keeps_seq (Act.keeps_when fun _ => Act.count_keeps_u (g := id)) Act.keeps_skip)) s

/-- An answer goes back on its requester's path, from what the count of the request leaves. -/
theorem answer_answers {x : State} {st key : Nat} {data : List Byte} (hno : ∀ e ∈ x.u.host.mail, ¬ (some e.1 = reqFn r ∧ e.2.1 = mailSig p))
    (hdeep : x.u.pow.deep = false) {P : State → Prop} (hP : P ((Act.countReq st).run x)) (hout : ∀ y o, P y → P ((Act.out o).run y)) :
    Answers x ((Act.answer r p st data key).run x) r (pduResp p st data key) P := by
  have hu := countReq_u x st
  have hmail : ∀ e ∈ ((Act.countReq st).run x).u.host.mail, ¬ (some e.1 = reqFn r ∧ e.2.1 = mailSig (pduResp p st data key)) := by
    rw [hu, mailSig_resp]; exact hno
  have hans := answerOut_answers hmail hP hout
  rw [Act.answer, Act.run_seq, Act.run_get, hdeep, Bool.not_false, Act.when_true]
  cases r with
  | peer a => exact hans
  | bmc e => exact ⟨hans.1.trans (by rw [hu]), hans.2⟩
  | hostPf => exact ⟨hans.1.trans (by rw [hu]), hans.2⟩
  | hostVf fn => exact ⟨hans.1.trans (by rw [hu]), hans.2⟩
  | firmware k => exact ⟨hans.1.trans (by rw [hu]), hans.2⟩

theorem fwRuns_deep (h : s.fwRuns = true) : s.u.pow.deep = false := by
  simp only [State.fwRuns, Bool.and_eq_true, Bool.not_eq_true'] at h
  exact h.2

/-- An operation that does `body` and answers, from a state that has heard the request. -/
theorem Serves.answers {op st key : Nat} {data : List Byte} (h : Serves s r p op) {i : Instr} (hexec : exec i s = (Act.kwRow op r p).outcome s)
    {body : Act} (hop : ∀ lease raised, (Act.kwOp op r p).run (s.heard lease raised) = (Act.answer r p st data key).run (body.run (s.heard lease raised)))
    (hu : ∀ x : State, (body.run x).u.pow = x.u.pow ∧ (body.run x).u.host = x.u.host ∧ (body.run x).u.outbox = x.u.outbox) {P : State → Prop}
    (hP : ∀ lease raised, P ((Act.countReq st).run (body.run (s.heard lease raised))))
    (hout : ∀ y o, P y → P ((Act.out o).run y)) :
    Completes i s fun t => Answers s t r (pduResp p st data key) P := by
  obtain ⟨lease, raised, hrun⟩ := h.kwRow_run
  refine ⟨_, hexec, ?_⟩
  have hx := hop lease raised
  have hPx := hP lease raised
  obtain ⟨hpow, hhost, hsent⟩ := hu (s.heard lease raised)
  have hans := answer_answers (r := r) (p := p) (key := key) (data := data) (by rw [hhost]; exact h.noMail)
    (by rw [hpow]; exact fwRuns_deep h.runs) hPx hout
  rw [hrun, hx]
  cases r with
  | peer a => exact hans
  | bmc e => exact ⟨hans.1.trans (by rw [hsent]; rfl), hans.2⟩
  | hostPf => exact ⟨hans.1.trans (by rw [hsent]; rfl), hans.2⟩
  | hostVf fn => exact ⟨hans.1.trans (by rw [hsent]; rfl), hans.2⟩
  | firmware k => exact ⟨hans.1.trans (by rw [hsent]; rfl), hans.2⟩

theorem entryOnly_out {l : List (EName × Nat)} {y : State} (o : Out) (h : EntryOnly l s y) : EntryOnly l s ((Act.out o).run y) :=
  frame_trans h (Act.touches_out o y)

/-- A request that is only heard and counted. -/
theorem heard_counts (st lease : Nat) (raised : List Nat) :
    EntryOnly [] s ((Act.countReq st).run (s.heard lease raised)) :=
  frame_trans (Act.hear_touches lease raised s) (Act.countReq_touches st _)

/-- An operation that answers only. -/
theorem Serves.tells {op st key : Nat} {data : List Byte} (h : Serves s r p op) {i : Instr} (hexec : exec i s = (Act.kwRow op r p).outcome s)
    (hop : ∀ lease raised, (Act.kwOp op r p).run (s.heard lease raised) = (Act.answer r p st data key).run (s.heard lease raised)) :
    Completes i s fun t => Answers s t r (pduResp p st data key) (EntryOnly [] s) :=
  h.answers hexec (body := .skip) hop (fun _ => ⟨rfl, rfl, rfl⟩) (fun _ _ => heard_counts ..) fun _ o => entryOnly_out o

/-! ### READ, INFO and NEXT (R444 to R447) -/

section
variable {n : EName} {i : Nat}

theorem readAt_found (k : EName → Nat → Nat × List Byte) (hvendor : 0xF00000 ≤ pduKey p → reqClass r = 4)
    (hfind : findKey (pduKey p) = some (n, i)) :
    s.readAt r (pduKey p) k = if s.rdGuard r n i ≠ stOk then (s.rdGuard r n i, []) else k n i := by
  have hno : ¬ (0xF00000 ≤ pduKey p ∧ reqClass r ≠ 4) := fun h => h.2 (hvendor h.1)
  rw [State.readAt, if_neg hno, hfind]

/-- A READ that takes no snapshot. -/
theorem Serves.reads {st : Nat} {data : List Byte} (h : Serves s r p opRead) (hfind : findKey (pduKey p) = some (n, i))
    (hread : s.readAt r (pduKey p) (s.readPdu r p) = (st, data)) (hsnap : (st == stOk && n.whole && pduOff p == 0) = false) :
    Completes (.read r p) s fun t => Answers s t r (pduResp p st data (pduKey p)) (EntryOnly [] s) :=
  h.tells rfl fun lease raised => by
    have hx : (s.heard lease raised).readAt r (pduKey p)
        ((s.heard lease raised).readPdu r p) = (st, data) := hread
    rw [Act.kwOp, if_pos rfl, Act.kwRead, Act.run_get, hx, hfind]
    simp only [hsnap, Act.when_false, Act.run_seq, Act.run_skip]

theorem EName.size_pos (n : EName) : 0 < n.info.size := by cases n <;> decide

theorem did_did (s : State) (r : Requester) (f : DictId → DictId) : ((Act.did r f).run s).did r = f (s.did r) := by
  have hnone : ((s.u.dict.ids.filter fun p => !(p.1 == r)).find? fun p => p.1 == r) = none :=
    List.find?_eq_none.2 fun e he => by simpa using (List.mem_filter.1 he).2
  show ((((s.u.dict.ids.filter fun p => !(p.1 == r)) ++ [(r, f (s.did r))]).find? fun p => p.1 == r).map Prod.snd).getD {} = _
  simp [List.find?_append, hnone]

theorem Act.did_touches {l : List (EName × Nat)} (r : Requester) (f : DictId → DictId) : (Act.did r f).Touches l :=
  touches_get fun _ => touches_dict _

/-- What an identity has does not depend on the counts of requests. -/
theorem countReq_did (s : State) (r : Requester) (st : Nat) : ((Act.countReq st).run s).did r = s.did r := by
  rw [State.did, countReq_u, State.did]

/-- A read of a STR or BLOB from its beginning takes its snapshot. -/
theorem Serves.readsWhole (h : Serves s r p opRead) (hfind : findKey (pduKey p) = some (n, i)) (hguard : s.rdGuard r n i = stOk)
    (hwhole : n.whole = true) (hoff : pduOff p = 0) :
    Completes (.read r p) s fun t => Answers s t r (pduResp p stOk ((s.valueBytes n i).take (pduLen p)) (pduKey p)) fun u =>
      EntryOnly [] s u ∧ tget (u.did r).snaps (pduKey p) = some (s.now, s.valueBytes n i) := by
  have hread : s.readAt r (pduKey p) (s.readPdu r p) = (stOk, (s.valueBytes n i).take (pduLen p)) := by
    have hsize : ¬ n.info.size ≤ pduOff p := by have := n.size_pos; omega
    rw [readAt_found _ h.vendor hfind, hguard, if_neg (not_not.2 rfl), State.readPdu, hwhole, Bool.not_true, if_neg (by decide), if_neg hsize,
      if_pos hoff]
  refine h.answers rfl (body := .did r fun d => { d with snaps := tset d.snaps (pduKey p) (s.now, s.valueBytes n i) }) (fun lease raised => ?_)
    (fun _ => ⟨rfl, rfl, rfl⟩) (fun lease raised => ⟨?_, ?_⟩) fun y o hy => ⟨entryOnly_out o hy.1, hy.2⟩
  · have hx : (s.heard lease raised).readAt r (pduKey p) ((s.heard lease raised).readPdu r p) = (stOk, (s.valueBytes n i).take (pduLen p)) := hread
    rw [Act.kwOp, if_pos rfl, Act.kwRead, Act.run_get, hx, hfind]
    simp only [hwhole, hoff, beq_self_eq_true, Bool.and_self, Act.when_true, Act.run_seq]
    rfl
  · exact frame_trans (Act.hear_touches lease raised s) (frame_trans (Act.did_touches r _ _) (Act.countReq_touches stOk _))
  · rw [countReq_did, did_did]
    exact tget_tset_same ..

theorem State.nextFor_congr {x : State} {ok : EName → Bool} (h : ∀ n i, x.reaches r n i = s.reaches r n i) (fuel a : Nat) :
    x.nextFor r ok fuel a = s.nextFor r ok fuel a := by
  induction fuel generalizing a with
  | zero => rfl
  | succ fuel ih => simp only [State.nextFor, h, ih]

/-- NEXT names the next address that the requester reaches. -/
theorem Serves.nexts {a : Nat} (h : Serves s r p opNext) (hnext : s.nextFor r (fun _ => true) addrFuel (pduKey p) = some a) :
    Completes (.next r p) s fun t => Answers s t r (pduResp p stOk [] a) (EntryOnly [] s) :=
  h.tells rfl fun lease raised => by
    have hreach : ∀ n i, (s.heard lease raised).reaches r n i = s.reaches r n i := fun _ _ => rfl
    have hx := State.nextFor_congr (ok := fun _ => true) hreach addrFuel (pduKey p)
    rw [Act.kwOp, if_neg (by decide), if_neg (by decide), if_neg (by decide), Act.kwNext, Act.run_get, hx, hnext]

theorem Serves.infos (h : Serves s r p opInfo) (hfind : findKey (pduKey p) = some (n, i)) (hright : s.hasRight r n i = true) :
    Completes (.info r p) s fun t => Answers s t r (pduResp p stOk n.infoBytes (pduKey p)) (EntryOnly [] s) :=
  h.tells rfl fun lease raised => by
    have hno : ¬ (0xF00000 ≤ pduKey p ∧ reqClass r ≠ 4) := fun h' => h'.2 (h.vendor h'.1)
    have hinfo : s.infoOf r (pduKey p) = (stOk, n.infoBytes) := by rw [State.infoOf, if_neg hno, hfind]; exact if_pos hright
    have hx : (s.heard lease raised).infoOf r (pduKey p) = (stOk, n.infoBytes) := hinfo
    rw [Act.kwOp, if_neg (by decide), if_neg (by decide), if_pos rfl, Act.kwInfo, Act.run_get, hx]

/-- Peers are turned away while PEER_DICT is 0. -/
theorem peers_refused (hpeer : reqClass r = 3) (hoff : s.rd .peerDict = 0) (hpath : s.pathOpen r = true) (hruns : s.fwRuns = true)
    (hgood : pduGood p = true) (hop : pduOp p = opRead) :
    Completes (.read r p) s fun t => Answers s t r (pduResp p stAccess [] (pduKey p)) (EntryOnly [] s) := by
  obtain ⟨a, rfl⟩ : ∃ a, r = .peer a := by
    cases r with
    | peer a => exact ⟨a, rfl⟩
    | hostPf | hostVf | bmc | firmware => cases hpeer
  have hrow : (Act.kwRow opRead (.peer a) p).run s = (Act.answer (.peer a) p stAccess).run ((Act.asks (.peer a) (pduKey p)).run s) := by
    have hkw : (pduOp p == opRead || !opKnown (pduOp p)) = true := by simp [hop]
    rw [Act.kwRow, hkw, Act.when_true, Act.kwArrive, Act.run_get]
    show (Act.kwRequest (.peer a) p).run s = _
    rw [Act.kwRequest, Act.run_get, hpath, Act.when_true, hruns, Bool.not_true, if_neg (by simp), hgood, Bool.not_true, if_neg (by simp),
      if_pos ⟨hpeer, hoff⟩]
    rfl
  have hdeep : ((Act.asks (.peer a) (pduKey p)).run s).u.pow.deep = false :=
    (Act.asks_keeps (f := fun s => s.u.pow.deep) _ _ (fun _ _ _ => rfl) (Act.count_keeps_u (g := fun u => u.pow.deep)) s).trans (fwRuns_deep hruns)
  refine ⟨_, rfl, ?_⟩
  show Answers s ((Act.kwRow opRead (.peer a) p).run s) _ _ _
  rw [hrow]
  exact answer_answers (r := .peer a) (p := p) (x := (Act.asks (.peer a) (pduKey p)).run s) (fun _ _ he => nomatch he.1) hdeep
    (frame_trans (Act.asks_touches _ _ s) (Act.countReq_touches stAccess _)) fun _ o => entryOnly_out o

end

/-! ### The mailbox path (R415, R450) -/

section
variable {n : EName} {i ch : Nat}

/-- The answer `msg` stands posted by the firmware in the channel. -/
structure Posted (s t : State) (ch msg : Nat) : Prop where
  state : (t.mbx ch).state = 2
  poster : (t.mbx ch).poster = 1
  msg : (t.mbx ch).msg / 2 ^ 64 = msg
  rings : bit (t.mbx ch).doorbell 1 = true
  memory : SameMem s t

/-- A response is posted in a channel that is EMPTY and for which no answer waits. -/
theorem mailPut_posts {msg : Nat} (hdue : ∀ e ∈ s.u.host.mailDue, e.1 ≠ ch) (hempty : (s.mbx ch).state = 0) (hruns : s.fwRuns = true) :
    Posted s ((Act.mailPut ch msg).run s) ch msg := by
  let x : State := (Act.host fun h => { h with mailDue := h.mailDue ++ [(ch, msg)] }).run s
  have hfind : (x.u.host.mailDue.find? fun e => e.1 == ch) = some (ch, msg) := by
    show ((s.u.host.mailDue ++ [(ch, msg)]).find? fun e => e.1 == ch) = some (ch, msg)
    rw [List.find?_append, find?_none_of_forall hdue]
    simp
  obtain ⟨hstate, hposter, hmsg, hrings, -⟩ := mailPump_answers (s := x) hfind hempty hruns
  exact ⟨hstate, hposter, hmsg, hrings, sameMem_of_stores fun m => Act.mailPump_keepsStore ch m x⟩

/-- The firmware takes the request from its channel, which becomes EMPTY. -/
def Act.mailTaken (ch : Nat) (x : Mbx) (mail : List (Nat × Nat × Nat × Nat)) : Act :=
  .host fun h => { h with mbx := tset h.mbx ch x, mail := mail }

/-- A channel that becomes EMPTY raises no bit of DOORBELL. -/
theorem mbxTo_emptied (s : State) (ch : Nat) :
    (Act.mbxTo ch (s.mbx ch).emptied).run s = (Act.mailTaken ch (s.mbx ch).emptied s.u.host.mail).run s := by
  have hno : newBits ((s.mbx ch).emptied.doorbell &&& (s.mbx ch).emptied.hostEnable) ((s.mbx ch).doorbell &&& (s.mbx ch).hostEnable) = 0 := by
    refine Nat.eq_of_testBit_eq fun j => ?_
    simp only [newBits, Mbx.emptied, Nat.testBit_xor, Nat.testBit_and, Nat.zero_testBit]
    cases (s.mbx ch).doorbell.testBit j <;> cases (s.mbx ch).hostEnable.testBit j <;> simp
  rw [Act.mbxTo, Act.run_get, Act.run_seq, hno]
  rfl

/-- The channel holds a request of the function that the requester is. -/
theorem mailOf_some (h : s.mailOf r p = some ch) : reqFn r = some (s.mbxFn ch) := by
  unfold State.mailOf at h
  split at h
  · cases h
  · next fn hfn =>
    have hch := List.find?_some h
    simp only [Bool.and_eq_true, beq_iff_eq] at hch
    rw [hfn, hch.1.1.1.1.2]

theorem kwArrive_mail (hmail : s.mailOf r p = some ch) (hpath : s.pathOpen r = true) (hruns : s.fwRuns = true) (hnone : s.u.host.mail = [])
    (hop : pduOp p = opRead) :
    (Act.kwRow opRead r p).run s = if mailHdrGood (mailHdr (s.mbx ch)) = true then
        (Act.kwRequest r p).run ((Act.mailTaken ch (s.mbx ch).emptied [(s.mbxFn ch, mailSig p, ch, bits (mailHdr (s.mbx ch)) 16 8)]).run s)
      else (Act.mailPut ch (mailResp (bits (mailHdr (s.mbx ch)) 0 8) (bits (mailHdr (s.mbx ch)) 16 8) 3 [])).run
        ((Act.mailTaken ch (s.mbx ch).emptied []).run s) := by
  have hkw : (pduOp p == opRead || !opKnown (pduOp p)) = true := by simp [hop]
  rw [Act.kwRow, hkw, Act.when_true, Act.kwArrive, Act.run_get, hmail]
  show (Act.when (s.pathOpen r && s.fwRuns) _).run s = _
  rw [hpath, hruns, Bool.and_self, Act.when_true, Act.run_seq, mbxTo_emptied, hnone]
  split
  · rw [Act.run_seq]
    refine congrArg (Act.run _) ?_
    show (Act.mailTaken ch (s.mbx ch).emptied ([] ++ _)).run s = _
    rfl
  · rfl

/-- The state in which a request that a channel held is worked on. -/
theorem mailTaken_leaves (s : State) (ch : Nat) (mail : List (Nat × Nat × Nat × Nat)) :
    let x := (Act.mailTaken ch (s.mbx ch).emptied mail).run s
    (x.mbx ch).state = 0 ∧ x.u.host.mailDue = s.u.host.mailDue ∧ x.fwRuns = s.fwRuns ∧ x.u.host.mail = mail ∧ ∀ m, x.store m = s.store m := by
  refine ⟨?_, rfl, rfl, rfl, fun m => Act.units_keeps_store m s⟩
  show (tgetD (tset s.u.host.mbx ch (s.mbx ch).emptied) ch {}).state = 0
  rw [tgetD_tset_same]
  rfl

/-- A request with a bad mailbox header is answered MALFORMED on its channel. -/
theorem mail_malformed (hmail : s.mailOf r p = some ch) (hpath : s.pathOpen r = true) (hruns : s.fwRuns = true) (hnone : s.u.host.mail = [])
    (hdue : ∀ e ∈ s.u.host.mailDue, e.1 ≠ ch) (hop : pduOp p = opRead) (hbad : mailHdrGood (mailHdr (s.mbx ch)) = false) :
    Posted s ((Act.kwRow opRead r p).run s) ch (mailResp (bits (mailHdr (s.mbx ch)) 0 8) (bits (mailHdr (s.mbx ch)) 16 8) 3 []) := by
  obtain ⟨hempty, hsame, hrun, -, hstore⟩ := mailTaken_leaves s ch []
  rw [kwArrive_mail hmail hpath hruns hnone hop, if_neg (by simp [hbad])]
  have hput := mailPut_posts (msg := mailResp (bits (mailHdr (s.mbx ch)) 0 8) (bits (mailHdr (s.mbx ch)) 16 8) 3 []) (by rw [hsame]; exact hdue) hempty
    (hrun.trans hruns)
  exact { hput with memory := sameMem_trans (sameMem_of_stores hstore) hput.memory }

/-- The answer to the one request that a channel held goes into that channel. -/
theorem answer_posts {x : State} {st fn tag key : Nat} {data : List Byte} (hfn : reqFn r = some fn) (hmail : x.u.host.mail = [(fn, mailSig p, ch, tag)])
    (hdue : ∀ e ∈ x.u.host.mailDue, e.1 ≠ ch) (hempty : (x.mbx ch).state = 0) (hruns : x.fwRuns = true) :
    Posted x ((Act.answer r p st data key).run x) ch (mailResp 1 tag 0 (pduBytes (pduResp p st data key))) := by
  let y : State := (Act.out (.answer r (pduResp p st data key))).run ((Act.countReq st).run x)
  have hu : y.u.host = x.u.host := by
    show ((Act.countReq st).run x).u.host = _
    rw [countReq_u]
  have hpow : y.u.pow = x.u.pow := by
    show ((Act.countReq st).run x).u.pow = _
    rw [countReq_u]
  have hrun : (Act.answer r p st data key).run x = (Act.mailAnswer r (pduResp p st data key)).run y := by
    rw [Act.answer, Act.run_seq, Act.run_get, fwRuns_deep hruns, Bool.not_false, Act.when_true]
    cases r with
    | hostPf => rfl
    | hostVf => rfl
    | bmc | peer | firmware => cases hfn
  have hfind : (y.u.host.mail.find? fun e => some e.1 == reqFn r && e.2.1 == mailSig (pduResp p st data key)) = some (fn, mailSig p, ch, tag) := by
    rw [hu, hmail, mailSig_resp, hfn]
    simp
  have hposted := mailPut_posts (s := (Act.host fun h => { h with mail := h.mail.erase (fn, mailSig p, ch, tag) }).run y) (ch := ch)
    (msg := mailResp 1 tag 0 (pduBytes (pduResp p st data key))) (by show ∀ e ∈ y.u.host.mailDue, _; rw [hu]; exact hdue)
    (by show (tgetD y.u.host.mbx ch {}).state = 0; rw [hu]; exact hempty) (by rw [← hruns]; show y.fwRuns = _; rw [State.fwRuns, hpow, State.fwRuns])
  rw [hrun, Act.mailAnswer, Act.run_get, hfind]
  exact { hposted with memory := sameMem_trans (Act.countReq_touches st x).1 hposted.memory }

/-- No entry lies where the vendor's addresses begin (R431). -/
theorem findKey_below {key : Nat} (h : findKey key = some (n, i)) : key < 0xF00000 := by
  rw [findKey, findEntry, Option.map_eq_some_iff] at h
  obtain ⟨m, hm, -⟩ := h
  have hcov : m.covers (key / 256) (key % 256) = true := by simpa using List.find?_some hm
  simp only [EName.covers, Bool.and_eq_true, decide_eq_true_eq] at hcov
  have hhi : m.info.idxHi < 0xF000 := by cases m <;> decide
  omega

/-- A READ that a channel holds is answered there. -/
theorem mail_reads (hmail : s.mailOf r p = some ch) (hpath : s.pathOpen r = true) (hruns : s.fwRuns = true) (hnone : s.u.host.mail = [])
    (hdue : ∀ e ∈ s.u.host.mailDue, e.1 ≠ ch) (hop : pduOp p = opRead) (hhdr : mailHdrGood (mailHdr (s.mbx ch)) = true) (hgood : pduGood p = true)
    (hfind : findKey (pduKey p) = some (n, i)) (hguard : s.rdGuard r n i = stOk) (hscalar : n.whole = false) (hoff : pduOff p = 0)
    (hlen : n.info.size ≤ pduLen p) (hstage : (s.did r).stKey = none) :
    Posted s ((Act.kwRow opRead r p).run s) ch
      (mailResp 1 (bits (mailHdr (s.mbx ch)) 16 8) 0 (pduBytes (pduResp p stOk (s.valueBytes n i) (pduKey p)))) := by
  have hfn := mailOf_some hmail
  have hhost : reqClass r ≠ 2 ∧ reqClass r ≠ 3 := by
    cases r with
    | hostPf | hostVf => simp [reqClass]
    | bmc | peer | firmware => cases hfn
  have hread : s.readAt r (pduKey p) (s.readPdu r p) = (stOk, s.valueBytes n i) := by
    rw [readAt_found _ (fun h => absurd (findKey_below hfind) (Nat.not_lt.2 h)) hfind, hguard, if_neg (not_not.2 rfl), State.readPdu, hscalar,
      Bool.not_false, if_pos rfl, if_neg (by omega)]
  rw [kwArrive_mail hmail hpath hruns hnone hop, if_pos hhdr]
  obtain ⟨hempty, hsame, hrun, hkept, hstore⟩ := mailTaken_leaves s ch [(s.mbxFn ch, mailSig p, ch, bits (mailHdr (s.mbx ch)) 16 8)]
  have hsee (lease : Nat) (raised : List Nat) :
      let x := ((Act.mailTaken ch (s.mbx ch).emptied [(s.mbxFn ch, mailSig p, ch, bits (mailHdr (s.mbx ch)) 16 8)]).run s).heard lease raised
      x.readAt r (pduKey p) (x.readPdu r p) = (stOk, s.valueBytes n i) := hread
  have hstage' : (((Act.mailTaken ch (s.mbx ch).emptied [(s.mbxFn ch, mailSig p, ch, bits (mailHdr (s.mbx ch)) 16 8)]).run s).did r).stKey = none :=
    hstage
  have hpath' : ((Act.mailTaken ch (s.mbx ch).emptied [(s.mbxFn ch, mailSig p, ch, bits (mailHdr (s.mbx ch)) 16 8)]).run s).pathOpen r = true :=
    hpath
  generalize (Act.mailTaken ch (s.mbx ch).emptied [(s.mbxFn ch, mailSig p, ch, bits (mailHdr (s.mbx ch)) 16 8)]).run s = x at *
  obtain ⟨lease, hasks⟩ := asks_hears (r := r) (key := pduKey p) (Or.inl hstage')
  have hkw : (Act.kwRequest r p).run x = (Act.answer r p stOk (s.valueBytes n i)).run (x.heard lease x.u.host.raised) := by
    have hx := hsee lease x.u.host.raised
    rw [kwRequest_run hpath' (hrun.trans hruns) hgood fun h => absurd h hhost.2, Act.run_seq, hasks, Act.run_seq, beq_eq_false_iff_ne.2 hhost.1,
      Act.when_false, Act.run_skip, hop, Act.kwOp, if_pos rfl, Act.kwRead, Act.run_get, hx, hfind]
    simp only [hscalar, Bool.and_false, Bool.false_and, Act.when_false, Act.run_seq, Act.run_skip]
  rw [hkw]
  have hposted := answer_posts (x := x.heard lease x.u.host.raised) (r := r) (p := p) (st := stOk) (key := pduKey p) (data := s.valueBytes n i) hfn hkept
    (by rw [← hsame] at hdue; exact hdue) hempty (hrun.trans hruns)
  exact { hposted with memory := sameMem_trans (sameMem_of_stores hstore) (sameMem_trans (Act.hear_touches (l := []) lease _ x).1 hposted.memory) }

end

end

/-- Settles O37: what the server works on differs from the state before the request in the lease and in a source raised, and an answer leaves
on the path on which the request came. -/
theorem readsAreAnswered : Obligations.ReadsAreAnswered := by
  unfold Obligations.ReadsAreAnswered
  intro s r p n i
  refine ⟨fun h hfind hguard => ⟨fun hscalar hoff hlen => h.reads hfind ?_ (by simp [hscalar]), fun hwhole hoff => h.readsWhole hfind hguard hwhole hoff,
      fun at_ bs hwhole hoff hlt hsnap hnow => h.reads hfind ?_ (by simp [hoff.ne'])⟩,
    fun h hfind hguard => h.reads hfind ?_ ?_, fun hpeer hoff hpath hruns hgood hop => peers_refused hpeer hoff hpath hruns hgood hop,
    fun h hfind hright => h.infos hfind hright, fun ch hmail hpath hruns hdue hnone => ⟨?_, ?_⟩, fun a h hnext => h.nexts hnext⟩
  · rw [readAt_found _ h.vendor hfind, hguard, if_neg (not_not.2 rfl), State.readPdu, hscalar, Bool.not_false, if_pos rfl, if_neg (by omega)]
  · rw [readAt_found _ h.vendor hfind, hguard, if_neg (not_not.2 rfl), State.readPdu, hwhole, Bool.not_true, if_neg (by decide), if_neg (by omega),
      if_neg (by omega), hsnap]
    exact if_pos hnow
  · rw [readAt_found _ h.vendor hfind, if_pos hguard]
  · rw [beq_eq_false_iff_ne.2 hguard]; rfl
  · intro hhdr hgood hop hfind hguard hscalar hoff hlen hstage
    obtain ⟨hstate, hposter, hmsg, hrings, hmem⟩ :=
      mail_reads hmail hpath hruns hnone hdue hop hhdr hgood hfind hguard hscalar hoff hlen hstage
    exact ⟨_, rfl, hstate, hposter, hmsg, hrings, hmem⟩
  · intro hbad hop
    obtain ⟨hstate, hposter, hmsg, hrings, hmem⟩ := mail_malformed hmail hpath hruns hnone hdue hop hbad
    exact ⟨_, rfl, hstate, hposter, hmsg, hrings, hmem⟩

end Sys2Proof.Machine
end

section
/-! SUPPORT. WRITE requests that the server applies, or answers from what it kept (R440, R446 to R448). -/

namespace Sys2Proof.Machine

theorem leNat_lt (l : List Byte) : leNat l < 2 ^ (8 * l.length) := by
  induction l with
  | nil => exact Nat.one_pos
  | cons b l ih =>
    have hb : b.toNat < 2 ^ 8 := b.isLt
    have hpow : 2 ^ (8 * (b :: l).length) = 256 * 2 ^ (8 * l.length) := by rw [List.length_cons, Nat.mul_add, pow_add]; ring
    rw [leNat, hpow]
    omega

/-- An entry that can be written is not FIXED (R439). -/
theorem EName.written_notFixed {n : EName} (h : n.writable = true) : n.info.pers ≠ .fixed := by
  revert h
  cases n <;> decide

section
variable {s : State} {r : Requester} {p : Pdu} {n : EName} {i : Nat}

theorem wrGuard_writable (h : s.wrGuard r n i = stOk) : n.writable = true := by
  cases hw : n.writable with
  | true => rfl
  | false =>
    rw [State.wrGuard, hw] at h
    cases hr : s.hasRight r n i with
    | true => rw [if_neg (by simp [hr]), if_pos (by rfl)] at h; cases h
    | false => rw [if_pos (by simp [hr])] at h; cases h

theorem applyGuard_flash {v : Nat} (h : s.applyGuard n v = stOk) (hp : n.info.pers = .store) : s.noFlash = false := by
  cases hno : s.noFlash with
  | false => rfl
  | true => rw [State.applyGuard, if_pos (by rw [hp, hno]; rfl)] at h; cases h

theorem Act.trace_keepsU {α : Type} {g : Units → α} (h : ∀ (u : Units) v, g { u with svc := v } = g u) (code engine ctx data0 data1 : Nat) :
    (Act.trace code engine ctx data0 data1).Keeps fun s => g s.u := keeps_units fun s => by
  split
  · rfl
  · exact h _ _

/-- A written value is stored and traced. -/
def Act.stored (n : EName) (r : Requester) (i v : Nat) : Act :=
  .seq (.store n i v) (.trace 9 0 0 (n.key i / 256 + n.key i % 256 * 2 ^ 16 + reqClass r * 2 ^ 24) (v % 2 ^ 64))

theorem Act.stored_touches (n : EName) (r : Requester) (i v : Nat) : (Act.stored n r i v).Touches [(n, i)] :=
  touches_seq (touches_store (by simp)) (trace_touches _ _ _ _ _)

/-- The entry reads the value that it was given, cut to its size. -/
theorem stored_rd {x : State} (h : Settable x n i) (v : Nat) : ((Act.stored n r i v).run x).rd n i = n.fit v := by
  have hstore : ((Act.store n i v).run x).rd n i = n.fit v := by
    rw [Act.store, Act.run_get, Act.run_seq]
    exact State.rd_reg _ v ⟨h.count, h.fixed, fun hp => by rw [hp]; exact h.store hp⟩
  exact ((Act.trace_touches (l := []) _ _ _ _ _).keepsRd h.count (by simp) _).trans hstore

theorem Act.stored_keepsU {α : Type} {g : Units → α} (hdict : ∀ (u : Units) d, g { u with dict := d } = g u)
    (hsvc : ∀ (u : Units) v, g { u with svc := v } = g u) (v : Nat) : (Act.stored n r i v).Keeps fun s => g s.u :=
  keeps_seq (store_keepsU hdict) (trace_keepsU hsvc _ _ _ _ _)

/-- The status of a WRITE is kept for the same request (R448). -/
def Act.keepStatus (r : Requester) (p : Pdu) (st : Nat) : Act :=
  .get fun s => .did r fun d =>
    let l := s.kept r ++ [(pduTag p, pduKey p, pduOff p, st, s.now)]
    { d with kept := l.drop (l.length - 16) }

theorem Act.keepStatus_touches {l : List (EName × Nat)} (p : Pdu) (st : Nat) : (Act.keepStatus r p st).Touches l :=
  touches_get fun _ => did_touches r _

/-- A WRITE of a scalar is at its entry, and finds nothing kept. -/
structure Applies (s : State) (r : Requester) (p : Pdu) (n : EName) (i : Nat) : Prop where
  serves : Serves s r p opWrite
  fresh : s.keptFor r p = none
  entry : findKey (pduKey p) = some (n, i)
  guard : s.wrGuard r n i = stOk
  rule : n.rule = ruleAny n
  scalar : n.whole = false
  offset : pduOff p = 0
  length : pduLen p = n.info.size
  final : pduFinal p = true
  passes : s.applyGuard n (leNat p.data) = stOk

theorem Applies.kwWrite_run (h : Applies s r p n i) (lease : Nat) (raised : List Nat) :
    (Act.kwOp opWrite r p).run (s.heard lease raised) = (Act.seq (.stored n r i (leNat p.data)) (.writeDone r p (n.info.pers == .store) true stOk)).run
      (s.heard lease raised) := by
  have hno : ¬ (0xF00000 ≤ pduKey p ∧ reqClass r ≠ 4) := fun h' => h'.2 (h.serves.vendor h'.1)
  have hat : s.writeAt r (pduKey p) = .inr (n, i) := by rw [State.writeAt, if_neg hno, h.entry]; exact if_neg (not_not.2 h.guard)
  have hat' : (s.heard lease raised).writeAt r (pduKey p) = .inr (n, i) := hat
  have hkept : (s.heard lease raised).keptFor r p = none := h.fresh
  have hpass : (s.heard lease raised).applyGuard n (leNat p.data) = stOk := h.passes
  have hsize : ¬ (pduOff p ≠ 0 ∨ pduLen p ≠ n.info.size) := fun h' => h'.elim (· h.offset) (· h.length)
  rw [Act.kwOp, if_neg (by decide), if_pos rfl, Act.kwWrite, Act.run_get, hkept]
  simp only [hat']
  rw [Act.kwWritePart, h.scalar, Bool.not_false, if_pos rfl, if_neg hsize, h.final, Bool.not_true, if_neg (by decide), Act.applyWrite,
    Act.run_get, if_pos hpass, h.rule, ruleAny, ruleIf_run rfl]
  rfl

/-- The value written is in the entry, and no other entry changes. -/
theorem Applies.leaves (h : Applies s r p n i) (hstore : n.info.pers = .store → s.safeMode = false) (lease : Nat) (raised : List Nat) {a : Act}
    (ha : a.Touches [(.dictCount, 0)]) :
    let t := a.run ((Act.stored n r i (leNat p.data)).run (s.heard lease raised))
    t.rd n i = leNat p.data ∧ EntryOnly [(n, i)] s t := by
  have hi := findEntry_lt h.entry
  have hw := wrGuard_writable h.guard
  have hn : n ≠ .dictCount := fun e => absurd hw (by rw [e]; decide)
  have hlen : p.data.length = n.info.size := by
    have hgood := h.serves.good
    simp only [pduGood, Bool.and_eq_true, Bool.or_eq_true, bne_iff_ne, beq_iff_eq] at hgood
    rw [← h.length]
    exact hgood.2.resolve_left (not_not.2 h.serves.asks)
  have hset : Settable (s.heard lease raised) n i :=
    ⟨hi, EName.written_notFixed hw, fun hp => ⟨applyGuard_flash h.passes hp, hstore hp⟩⟩
  have hrd : ((Act.stored n r i (leNat p.data)).run (s.heard lease raised)).rd n i = leNat p.data :=
    (stored_rd hset _).trans (Nat.mod_eq_of_lt (hlen ▸ leNat_lt p.data))
  refine ⟨(ha.keepsRd hi (by simp [hn]) _).trans hrd, ?_⟩
  exact frame_trans (Act.hear_touches lease raised s) (frame_trans (sameEntries_mono (by simp) (Act.stored_touches n r i _ _)) (sameEntries_mono (by simp) (ha _)))

/-- A WRITE of an entry that flash does not hold is answered at once. -/
theorem Applies.answered (h : Applies s r p n i) (hp : n.info.pers ≠ .store) :
    Completes (.write r p) s fun t => Answers s t r (pduResp p stOk [] (pduKey p)) fun u => u.rd n i = leNat p.data ∧ EntryOnly [(n, i)] s u := by
  refine h.serves.answers rfl (body := .seq (.stored n r i (leNat p.data)) (.keepStatus r p stOk)) (fun lease raised => ?_) (fun x => ?_)
    (fun lease raised => ?_) fun y o hy => ⟨(Act.touches_out (l := []) o).keepsRd (findEntry_lt h.entry) (by simp) y |>.trans hy.1, entryOnly_out o hy.2⟩
  · rw [h.kwWrite_run, Act.run_seq, Act.writeDone, Act.run_get, Act.run_seq, beq_eq_false_iff_ne.2 hp, Bool.false_and, if_neg (by decide)]
    rfl
  · have hkeeps := (Act.stored_keepsU (n := n) (r := r) (i := i) (g := fun u => (u.pow, u.host, u.outbox)) (fun _ _ => rfl) (fun _ _ => rfl)
      (leNat p.data)) x
    simp only [Prod.mk.injEq] at hkeeps
    exact hkeeps
  · have hleaves := h.leaves (fun h => absurd h hp) lease raised (a := .seq (.keepStatus r p stOk) (.countReq stOk))
      (Act.touches_seq (Act.keepStatus_touches _ _) (Act.countReq_touches _))
    simpa only [Act.run_seq] using hleaves

theorem Act.dueLast_touches {l : List (EName × Nat)} (f : StoreDue → StoreDue) : (Act.dueLast f).Touches l := touches_dict _

theorem dueLast_append {l : List StoreDue} {x : StoreDue} (hs : s.u.dict.storeDue = l ++ [x]) (f : StoreDue → StoreDue) :
    ((Act.dueLast f).run s).u.dict.storeDue = l ++ [f x] := by
  show (match s.u.dict.storeDue.reverse with
    | [] => []
    | x :: rest => (f x :: rest).reverse) = _
  rw [hs, List.reverse_append]
  simp

/-- The flash has a write of a STORE entry to hold, which nobody waits for yet (R440). -/
theorem store_due {x : State} (hp : n.info.pers = .store) (v : Nat) :
    ((Act.store n i v).run x).u.dict.storeDue = x.u.dict.storeDue ++ [{ key := n.key i, old := tget x.regs (n.key i) }] := by
  rw [Act.store, Act.run_get, Act.run_seq, hp]
  exact Act.reg_keeps_u (g := fun u => u.dict.storeDue) _

/-- The answer to the last STORE write waits for flash. -/
def Act.answerLater (r : Requester) (p : Pdu) : Act :=
  .dueLast fun x => { x with answers := x.answers ++ [.answer r (pduResp p stOk [] (pduKey p))] }

/-- A WRITE of a STORE entry is in force, and its answer waits for flash. -/
theorem Applies.waits (h : Applies s r p n i) (hp : n.info.pers = .store) (hsafe : s.safeMode = false) :
    Completes (.write r p) s fun t => t.rd n i = leNat p.data ∧ EntryOnly [(n, i)] s t ∧ t.u.outbox = s.u.outbox ∧
      ∃ x, t.u.dict.storeDue = s.u.dict.storeDue ++ [x] ∧ x.answers = [.answer r (pduResp p stOk [] (pduKey p))] := by
  obtain ⟨lease, raised, hrun⟩ := h.serves.kwRow_run
  obtain ⟨hrd, honly⟩ := h.leaves (fun _ => hsafe) lease raised (a := .seq (.keepStatus r p stOk) (.seq (.countReq stOk) (.answerLater r p)))
    (Act.touches_seq (Act.keepStatus_touches _ _) (Act.touches_seq (Act.countReq_touches _) (Act.dueLast_touches _)))
  have hdue := store_due (x := s.heard lease raised) (i := i) hp (leNat p.data)
  have hu := Act.trace_keepsU (g := fun u => u.dict.storeDue) (fun _ _ => rfl) 9 0 0
    (n.key i / 256 + n.key i % 256 * 2 ^ 16 + reqClass r * 2 ^ 24) (leNat p.data % 2 ^ 64) ((Act.store n i (leNat p.data)).run (s.heard lease raised))
  have hstored : ((Act.stored n r i (leNat p.data)).run (s.heard lease raised)).u.dict.storeDue =
      s.u.dict.storeDue ++ [{ key := n.key i, old := tget s.regs (n.key i) }] := hu.trans hdue
  have hsent : ((Act.stored n r i (leNat p.data)).run (s.heard lease raised)).u.outbox = s.u.outbox :=
    Act.stored_keepsU (g := fun u => u.outbox) (fun _ _ => rfl) (fun _ _ => rfl) _ _
  have hrow : (Act.kwRow opWrite r p).run s = (Act.answerLater r p).run ((Act.countReq stOk).run ((Act.keepStatus r p stOk).run
      ((Act.stored n r i (leNat p.data)).run (s.heard lease raised)))) := by
    rw [hrun, h.kwWrite_run, Act.run_seq, Act.writeDone, Act.run_get, Act.run_seq, hp, if_pos (by rfl)]
    rfl
  refine ⟨_, congrArg Host.Outcome.next hrow, ?_⟩
  simp only [Act.run_seq] at hrd honly
  generalize (Act.stored n r i (leNat p.data)).run (s.heard lease raised) = x at *
  refine ⟨hrd, honly, ?_, _, dueLast_append (l := s.u.dict.storeDue) (x := { key := n.key i, old := tget s.regs (n.key i) }) ?_ _, rfl⟩
  · show ((Act.countReq stOk).run _).u.outbox = _
    rw [countReq_u]
    exact hsent
  · rw [countReq_u]
    exact hstored

/-- The same WRITE again is answered from what was kept. -/
theorem again_answered {st : Nat} (h : Serves s r p opWrite) (hkept : s.keptFor r p = some st) (hdue : ∀ x ∈ s.u.dict.storeDue, x.answers = []) :
    Completes (.write r p) s fun t => Answers s t r (pduResp p st [] (pduKey p)) fun u =>
      EntryOnly [] s u ∧ u.cnt .dictCount 0 3 = (s.cnt .dictCount 0 3 + 1) % 2 ^ 64 := by
  have hany : (s.u.dict.storeDue.any fun x => x.answers.contains (Out.answer r (pduResp p stOk [] (pduKey p)))) = false :=
    List.any_eq_false.2 fun x hx => by simp [hdue x hx]
  refine h.answers rfl (body := .count .dictCount 0 3) (fun lease raised => ?_) (fun x => ?_) (fun lease raised => ⟨?_, ?_⟩)
    fun y o hy => ⟨entryOnly_out o hy.1, ?_⟩
  · have hkept' : (s.heard lease raised).keptFor r p = some st := hkept
    have hany' : ((s.heard lease raised).u.dict.storeDue.any fun x => x.answers.contains (Out.answer r (pduResp p stOk [] (pduKey p)))) = false := hany
    rw [Act.kwOp, if_neg (by decide), if_pos rfl, Act.kwWrite, Act.run_get, hkept']
    simp only [hany', Bool.false_eq_true, if_false, Act.run_seq]
  · have hu := Act.count_keeps_u (n := .dictCount) (i := 0) (k := 3) (v := 1) (g := fun u => (u.pow, u.host, u.outbox)) x
    simp only [Prod.mk.injEq] at hu
    exact hu
  · exact frame_trans (Act.hear_touches lease raised s) (frame_trans (Act.touches_count (by simp) _) (Act.countReq_touches st _))
  · have hapart {k : Nat} (hk : 3 ≠ k) : (Act.count .dictCount 0 k).Keeps fun s => s.cnt .dictCount 0 3 :=
      Act.count_keepsCnt_apart (by decide) rfl (by decide) hk
    have hcount : (Act.countReq st).Keeps fun s => s.cnt .dictCount 0 3 :=
      Act.keeps_seq (hapart (by decide)) <| Act.keeps_seq (Act.keeps_when fun _ => hapart (by decide)) <|
        Act.keeps_seq (Act.keeps_when fun _ => hapart (by decide)) Act.keeps_skip
    exact (hcount _).trans (State.cnt_count _ (.of_vol _ (by decide) rfl) (by decide))
  · exact hy.2

end

/-- Settles O38: the rule of the entry stores the value; the answer goes out at once, or waits for flash. -/
theorem writesAreApplied : Obligations.WritesAreApplied := by
  unfold Obligations.WritesAreApplied
  intro s r p n i h
  refine ⟨fun hfresh hentry hguard hrule hscalar hoff hlen hfinal hpass => ?_, fun st hkept hdue => again_answered h hkept hdue⟩
  have happlies : Applies s r p n i := ⟨h, hfresh, hentry, hguard, hrule, hscalar, hoff, hlen, hfinal, hpass⟩
  exact ⟨happlies.answered, happlies.waits⟩

end Sys2Proof.Machine
end

section
/-! SUPPORT. The CONFIG lock, stagings, plain writes, flash commits and resent requests (R437 to R441, R447, R452). -/

namespace Sys2Proof.Machine

section
variable {s : State} {r : Requester}

/-! ### The CONFIG lock (R437, R438) -/

theorem cfgLock_free (hfree : s.u.dict.holder = none ∨ s.u.dict.holder = some r) :
    ((s.asked r .cfgLock 0).u.dict.holder.isSome && !(s.asked r .cfgLock 0).holds r) = false := by
  have hserver := s.asked_server r .cfgLock 0
  simp only [State.server, Prod.mk.injEq] at hserver
  obtain ⟨-, -, -, hholder, -⟩ := hserver
  rw [State.holds, hholder]
  rcases hfree with h | h <;> simp [h]

theorem cfgLock_taken (h : Accepts s r .cfgLock 0 1) (hfree : s.u.dict.holder = none ∨ s.u.dict.holder = some r) :
    let t := (Act.entryRow .cfgLock ruleCfgLock r 0 1).run s
    t.u.dict.holder = some r ∧ t.u.dict.leaseAt = s.now ∧ EntryOnly [] s t := by
  have hserver := s.asked_server r .cfgLock 0
  simp only [State.server, Prod.mk.injEq] at hserver
  obtain ⟨-, -, htime, -, -⟩ := hserver
  have hrule (k : Nat → Act) : (ruleCfgLock r 0 1 k).run (s.asked r .cfgLock 0) =
      (k stOk).run ((Act.dict fun d => { d with holder := some r, leaseAt := s.now }).run (s.asked r .cfgLock 0)) := by
    have hnow : (s.asked r .cfgLock 0).now = s.now := htime
    rw [ruleCfgLock, Act.run_get, if_neg (by decide), cfgLock_free hfree, if_neg (by decide), if_pos rfl, hnow]
    rfl
  exact ⟨h.unitsAfter (g := fun u => u.dict.holder) rfl hrule fun _ _ => rfl, h.unitsAfter (g := fun u => u.dict.leaseAt) rfl hrule fun _ _ => rfl,
    (h.takes (rule := ruleCfgLock) (l := []) rfl _ hrule (Act.touches_dict _)).only⟩

theorem cfgLock_released (h : Accepts s r .cfgLock 0 0) (hfree : s.u.dict.holder = none ∨ s.u.dict.holder = some r) :
    let t := (Act.entryRow .cfgLock ruleCfgLock r 0 0).run s
    t.u.dict.holder = none ∧ EntryOnly [] s t := by
  have hrule (k : Nat → Act) : (ruleCfgLock r 0 0 k).run (s.asked r .cfgLock 0) =
      (k stOk).run ((Act.dict fun d => { d with holder := none }).run (s.asked r .cfgLock 0)) := by
    rw [ruleCfgLock, Act.run_get, if_neg (by decide), cfgLock_free hfree, if_neg (by decide), if_neg (by decide)]
    rfl
  exact ⟨h.unitsAfter (g := fun u => u.dict.holder) rfl hrule fun _ _ => rfl,
    (h.takes (rule := ruleCfgLock) (l := []) rfl _ hrule (Act.touches_dict _)).only⟩

/-- A counter that fills its entry. -/
theorem State.rd_countWhole {x : State} {n : EName} {i : Nat} (w : Nat) (h : Settable x n i) (hw : 8 * n.info.size = w) :
    ((Act.countFld n i 0 0 w).run x).rd n i = (x.rd n i + 1) % 2 ^ w := by
  have hbits (v : Nat) : bits v 0 w = v % 2 ^ w := by rw [bits, Nat.shiftRight_zero]
  have hfld : ((Act.countFld n i 0 0 w).run x).rd n i = setBits (x.rd n i) 0 w (x.fld n i 0 0 w + 1) % 2 ^ w :=
    (State.rd_reg _ _ h).trans (by rw [EName.fit, hw])
  rw [hfld, ← hbits, bits_setBits]
  show (bits (x.rd n i) 0 w + 1) % 2 ^ w = _
  rw [hbits, Nat.mod_add_mod]

theorem leaseLapse_lapses (h : s.u.dict.holder.isSome = true) : Completes .cfgLeaseLapse s fun t => t.u.dict.holder = none ∧
    t.rd .cfgLapses = (s.rd .cfgLapses + 1) % 2 ^ 32 ∧ SameMem s t ∧ SameEntriesBut [(.cfgLapses, 0)] s t := by
  have hrun : exec .cfgLeaseLapse s = .next ((Act.countFld .cfgLapses 0 0 0 32).run ((Act.dict fun d => { d with holder := none }).run s)) := by
    show (Act.get fun s => Act.when s.u.dict.holder.isSome _).outcome s = _
    rw [Act.outcome, Act.run_get, h]
    rfl
  refine ⟨_, hrun, Act.fld_keeps_u (g := fun u => u.dict.holder) _, ?_,
    (Act.touches_seq (l := [(.cfgLapses, 0)]) (Act.touches_dict _) (Act.touches_countFld (by simp)) s)⟩
  exact State.rd_countWhole 32 (.of_vol _ (by decide) rfl) rfl

/-! ### Stagings and plain entries (R446, R447) -/

theorem stagingLapse_lapses (h : (s.did r).stKey.isSome = true) : Completes (.stagingLapse r) s fun t => (t.did r).stKey = none ∧
    (t.did r).stData = [] ∧ t.cnt .dictCount 0 4 = (s.cnt .dictCount 0 4 + 1) % 2 ^ 64 ∧ EntryOnly [] s t := by
  have hrun : exec (.stagingLapse r) s = .next ((Act.count .dictCount 0 4).run ((Act.did r fun d => { d with stKey := none, stData := [] }).run s)) := by
    show (Act.stageDrop r).outcome s = _
    rw [Act.outcome, Act.stageDrop, Act.run_get, h]
    rfl
  have hdid (x : State) : ((Act.count .dictCount 0 4).run x).did r = x.did r := by
    have hu : ((Act.count .dictCount 0 4).run x).u = x.u := Act.count_keeps_u (g := id) x
    rw [State.did, hu, State.did]
  refine ⟨_, hrun, ?_, ?_, ?_, (Act.touches_seq (l := [(.dictCount, 0)]) (Act.did_touches r _) (Act.touches_count (by simp)) s)⟩
  · rw [hdid, did_did]
  · rw [hdid, did_did]
  · exact State.cnt_count _ (.of_vol _ (by decide) rfl) (by decide)

theorem storeFactory_takes {v : Byte} (h : Accepts s r .storeFactory 0 v.toNat) (hv : v.toNat ≤ 1) :
    let t := (Act.entryRow .storeFactory ruleStoreFactory r 0 v.toNat).run s
    t.rd .storeFactory = v.toNat ∧ EntryOnly [(.storeFactory, 0)] s t := by
  have ht := h.takes (rule := ruleStoreFactory) (l := [(.storeFactory, 0)]) rfl (.store .storeFactory 0 v.toNat)
    (fun k => ruleIf_run (by simpa using hv)) (Act.touches_store (by simp))
  refine ⟨?_, ht.only⟩
  rw [ht.rd (by decide) (by simp)]
  exact State.rd_store 8 (.of_vol _ (by decide) rfl) rfl v.isLt

section
variable {n : EName} {i : Nat}

/-- A whole write whose checks pass is the row of its entry. -/
theorem entryWrite_run {index sub : Nat} {data : List Byte} (hfind : findEntry index sub = some (n, i)) (hindex : index < 0xF000)
    (h : Accepts s r n i (leNat data)) (hlen : data.length = n.info.size) :
    (Act.entryWrite r index sub data).run s = (Act.entryRow n n.rule r i (leNat data)).run s := by
  obtain ⟨hserved, hguard, -⟩ := h.asked (State.asked_ownerFn (findEntry_lt hfind))
  have hno : ¬ (0xF000 ≤ index ∧ reqClass r ≠ 4) := fun h => absurd hindex (Nat.not_lt.2 h.1)
  rw [Act.entryWrite, Act.entryRow, Act.run_seq, Act.run_seq, ← findEntry_key hfind, ← State.asked, Act.run_get, Act.entry, Act.run_get]
  simp only [hserved, Bool.not_true, Bool.false_eq_true, if_false, hno, hfind, hguard, ne_eq, not_true_eq_false, hlen]

theorem entryWrite_takes {index : BitVec 16} {sub : Byte} {data : List Byte} (hfind : findEntry index.toNat sub.toNat = some (n, i))
    (hindex : index.toNat < 0xF000) (h : Accepts s r n i (leNat data)) (hlen : data.length = n.info.size) (hrule : n.rule = ruleAny n)
    (hsafe : n.info.pers = .store → s.safeMode = false) :
    Completes (.entryWrite r index sub data) s fun t => t.rd n i = leNat data ∧ EntryOnly [(n, i)] s t := by
  have hi := findEntry_lt hfind
  have hw := wrGuard_writable h.2.1
  have hn : n ≠ .dictCount := fun e => absurd hw (by rw [e]; decide)
  have hown := State.asked_ownerFn (s := s) (r := r) (n := n) (i := i) hi
  have ht := h.takes (rule := n.rule) (l := [(n, i)]) hown (.store n i (leNat data)) (fun k => by rw [hrule]; exact ruleIf_run rfl)
    (Act.touches_store (by simp))
  refine ⟨_, congrArg Host.Outcome.next (entryWrite_run hfind hindex h hlen), ?_, ht.only⟩
  have hset : Settable (s.asked r n i) n i :=
    ⟨hi, EName.written_notFixed hw, fun hp => ⟨(h.asked hown).flash hp, by rw [State.safeMode, State.asked_pow, ← State.safeMode]; exact hsafe hp⟩⟩
  rw [ht.rd hi (by simp [hn])]
  exact State.rd_store (8 * n.info.size) hset rfl (hlen ▸ leNat_lt data)

end

/-! ### Flash commits (R440) -/

/-- Things are sent. -/
def Act.outs (l : List Out) : Act := .units fun u => { u with outbox := u.outbox ++ l }

theorem answerOut_sends {o : Out} (hmail : s.u.host.mail = []) (hpeer : ∀ a p, o ≠ .answer (.peer a) p) :
    (Act.answerOut o).run s = (Act.outs o.sent).run s := by
  have hdirect (r : Requester) (p : Pdu) : (Act.seq (.out (.answer r p)) (.mailAnswer r p)).run s = (Act.outs [.answer r p]).run s :=
    mailAnswer_none (s := (Act.out (.answer r p)).run s) fun e he => by
      rw [show ((Act.out (.answer r p)).run s).u.host.mail = [] from hmail] at he
      cases he
  cases o with
  | answer r p =>
    cases r with
    | hostPf | hostVf | firmware => exact hdirect _ p
    | bmc e => rw [Act.answerOut, Act.run_seq, Act.outs, Act.out, Act.out, Out.sent, Act.run_units, Act.run_units, Act.run_units]; simp
    | peer a => exact absurd rfl (hpeer a p)
  | flit | highPower | msix | read | unsupported | mctp | spdm | claim | atsDone | mctpBody | retryStatus | confOk => rfl

theorem answersOut_send {l : List Out} (hmail : s.u.host.mail = []) (hpeer : ∀ o ∈ l, ∀ a p, o ≠ .answer (.peer a) p) :
    (Act.each l Act.answerOut).run s = (Act.outs (l.flatMap Out.sent)).run s := by
  induction l generalizing s with
  | nil => simp [Act.outs]
  | cons o l ih =>
    rw [Act.run_each_cons, answerOut_sends hmail (hpeer o (by simp)), ih (s := (Act.outs o.sent).run s) hmail fun o ho => hpeer o (by simp [ho])]
    simp [Act.outs, List.append_assoc]

/-- The oldest STORE write is in flash, and its port's operation has ended. -/
def Act.flashTold (x : StoreDue) (rest : List StoreDue) : Act := .dict fun d => { d with
  storeDue := rest
  ports := match x.port with
    | some fn => tmod d.ports fn {} fun q => { q with pending := false }
    | none => d.ports }

theorem flashHolds_commits {x : StoreDue} {rest : List StoreDue} (hdue : s.u.dict.storeDue = x :: rest) (hmail : s.u.host.mail = [])
    (hflash : s.noFlash = false) (hsafe : s.safeMode = false) (hpeer : ∀ o ∈ x.answers, ∀ a p, o ≠ .answer (.peer a) p) :
    Completes .storeWriteCommitted s fun t => t.u.dict.storeDue = rest ∧ t.u.outbox = s.u.outbox ++ x.answers.flatMap Out.sent ∧
      t.rd .storeWrites = (s.rd .storeWrites + 1) % 2 ^ 64 ∧ SameMem s t ∧ SameEntriesBut [(.storeWrites, 0)] s t := by
  have hu (y : State) : ((Act.lifeCount .storeWrites).run y).u = y.u := Act.reg_keeps_u (g := id) y
  have hrun : Act.flashHolds.run s = (Act.outs (x.answers.flatMap Out.sent)).run ((Act.lifeCount .storeWrites).run ((Act.flashTold x rest).run s)) := by
    rw [Act.flashHolds, Act.run_get, hdue]
    exact answersOut_send (by rw [hu]; exact hmail) hpeer
  have hlife : s.rd .storeWrites = s.lifeCnt .storeWrites := by
    rw [State.rd, if_neg (by simp [hflash, hsafe]), State.lifeCnt, tgetD]
    cases tget s.regs (EName.storeWrites.key 0) <;> rfl
  refine ⟨_, congrArg Host.Outcome.next hrun, ?_, ?_, ?_, ?_⟩
  · show ((Act.lifeCount .storeWrites).run _).u.dict.storeDue = _
    rw [hu]; rfl
  · show ((Act.lifeCount .storeWrites).run _).u.outbox ++ _ = _
    rw [hu]; rfl
  · rw [hlife]
    exact State.rd_reg _ _ ⟨by decide, by decide, fun _ => ⟨hflash, hsafe⟩⟩
  · exact Act.touches_seq (l := [(.storeWrites, 0)]) (Act.touches_dict _) (Act.touches_seq (Act.touches_get fun _ => Act.touches_reg (by simp))
      (Act.touches_units fun _ => ⟨rfl, rfl⟩)) s

/-! ### Requests that are sent again (R452) -/

/-- A message that this device sends leaves the requests that its firmware keeps. -/
theorem Act.sendMsg_keepsDict (vc : Nat) (m : Msg) : (Act.sendMsg vc m).Keeps fun s => s.u.dict := keeps_get fun _ => keeps_get fun _ => by
  split
  · exact keeps_skip
  · exact count_keeps_u
  · refine keeps_seq ?_ <| keeps_seq (fun _ => rfl) <| keeps_seq
      (pump_keeps (fun _ _ _ _ => rfl) count_keeps_u (fun _ _ => stallEnd_keeps (fun _ _ => rfl) (fun _ _ _ _ => count_keeps_u) _) _) keeps_skip
    split
    · exact count_keeps_u
    · exact keeps_skip

/-- An unanswered request counts one more resend. -/
def Act.resent (tag : Nat) : Act := .dict fun d => { d with sent := d.sent.map fun x => if x.1 = tag then (x.1, x.2.1 + 1, x.2.2) else x }

theorem resendReq_sends {tag : Byte} {e : Nat × Nat × Msg} (hfind : s.u.dict.sent.find? (fun e => e.1 == tag.toNat) = some e) (hruns : s.fwRuns = true)
    (hleft : e.2.1 < 8) : Completes (.kwehusResend tag) s fun t => t.u.dict.sent =
        s.u.dict.sent.map (fun x => if x.1 = tag.toNat then (x.1, x.2.1 + 1, x.2.2) else x) ∧
      (∃ u, t = (Act.sendMsg 0 e.2.2).run u ∧ SameMem s u ∧ SameEntriesBut [] s u ∧ u.u.ports = s.u.ports) ∧ SameMem s t := by
  have hrun : (Act.resendReq tag.toNat).run s = (Act.sendMsg 0 e.2.2).run ((Act.resent tag.toNat).run s) := by
    rw [Act.resendReq, Act.run_get, hfind]
    show (Act.when (s.fwRuns && decide (e.2.1 < 8)) _).run s = _
    rw [hruns, decide_eq_true hleft, Bool.and_self, Act.when_true]
    rfl
  have hresent := Act.touches_dict (l := []) (fun d : DictU => { d with sent := d.sent.map fun x =>
    if x.1 = tag.toNat then (x.1, x.2.1 + 1, x.2.2) else x }) s
  refine ⟨_, congrArg Host.Outcome.next hrun, congrArg DictU.sent (Act.sendMsg_keepsDict 0 e.2.2 _), ⟨_, rfl, hresent.1, hresent.2, rfl⟩, ?_⟩
  exact sameMem_trans hresent.1 (sameMem_of_stores fun m => Act.keeps_get (fun _ => Act.route_keepsStore m fun _ => Act.keeps_skip) _)

end

/-- Settles O40: each write is what its rule does in the state the request leaves, and each event its own few changes. -/
theorem lockStagingAndStore : Obligations.LockStagingAndStore := by
  unfold Obligations.LockStagingAndStore
  intro s r
  exact ⟨fun h hfree => ⟨_, rfl, cfgLock_taken h hfree⟩, fun h hfree => ⟨_, rfl, cfgLock_released h hfree⟩, leaseLapse_lapses, stagingLapse_lapses,
    fun v h hv => ⟨_, rfl, storeFactory_takes h hv⟩,
    fun _ _ _ _ _ hfind hindex h hlen hrule hsafe => entryWrite_takes hfind hindex h hlen hrule hsafe,
    fun _ _ hdue hmail hflash hsafe hpeer => flashHolds_commits hdue hmail hflash hsafe hpeer,
    fun _ _ hfind hruns hleft => resendReq_sends hfind hruns hleft⟩

end Sys2Proof.Machine
end

section
/-! SUPPORT. The window and the access port (R405, R407, R454, R455). -/

namespace Sys2Proof.Machine

/-! ### The port of a function -/

section
variable {s : State} {fn : Nat}

theorem aport_aport (s : State) (fn : Nat) (f : APort → APort) : ((Act.aport fn f).run s).aport fn = f (s.aport fn) := by
  show tgetD (tset s.u.dict.ports fn (f (tgetD s.u.dict.ports fn {}))) fn {} = _
  rw [tgetD_tset_same]
  rfl

theorem Act.aport_touches {l : List (EName × Nat)} (f : APort → APort) : (Act.aport fn f).Touches l := touches_dict _

theorem asks_keepsPort (r : Requester) (key : Nat) : (Act.asks r key).Keeps fun s => s.aport fn :=
  Act.asks_keeps r key (fun _ _ _ => rfl) (Act.count_keeps_u (g := fun u => tgetD u.dict.ports fn {}))

theorem countReq_port (s : State) (st : Nat) : ((Act.countReq st).run s).aport fn = s.aport fn := by
  rw [State.aport, countReq_u, State.aport]

/-- An access that ends well only counts. -/
theorem winDone_ok (fn key : Nat) (s : State) : (Act.winDone fn key stOk).run s = (Act.countReq stOk).run s := rfl

/-- An operation of the port ends well: its status says so, and it waits for flash where a STORE entry took a value. -/
theorem portDone_port (key : Nat) (store : Bool) : ((Act.portDone fn key store stOk).run s).aport fn = { s.aport fn with status := stOk, pending := store } := by
  have hdue (x : State) (f : StoreDue → StoreDue) (c : Bool) : ((Act.when c (.dueLast f)).run x).aport fn = x.aport fn :=
    Act.keeps_when (f := fun s => s.aport fn) (fun _ _ => rfl) x
  rw [Act.portDone, Act.run_all_cons, Act.run_all_cons, Act.run_all_cons, Act.run_all_nil, winDone_ok, countReq_port, hdue, aport_aport]
  cases store <;> rfl

theorem Act.portDone_touches (key : Nat) (store : Bool) : (Act.portDone fn key store stOk).Touches [(.dictCount, 0)] :=
  touches_seq (aport_touches _) (touches_seq (touches_when (dueLast_touches _)) (touches_seq (countReq_touches stOk) touches_skip))

end

section
variable {s : State} {fn : Fin 32} {n : EName} {i : Nat}

theorem EName.size_le (n : EName) : n.info.size ≤ 16384 := by cases n <;> decide

theorem State.valueBytes_length : (s.valueBytes n i).length = n.info.size := leBytes_length _ _

theorem EName.infoBytes_length (n : EName) : n.infoBytes.length = 16 := by simp [EName.infoBytes, leBytes_length]

/-- The size that the 16 bytes of INFO say. -/
theorem EName.infoBytes_size (n : EName) : leNat ((n.infoBytes.drop 4).take 2) = n.info.size := by
  have hbytes : (n.infoBytes.drop 4).take 2 = leBytes 2 n.info.size := by
    simp [EName.infoBytes, leBytes]
  have hsize := n.size_le
  rw [hbytes, leNat_leBytes, Nat.mod_eq_of_lt (by omega)]

theorem bufSet_take {buf bs : List Byte} (h : bs.length ≤ 16384) : (bufSet buf 0 bs).take bs.length = bs := by
  rw [bufSet, List.take_zero, List.nil_append, List.take_take, Nat.min_eq_left h, List.take_append_of_le_length (Nat.le_refl _), List.take_length]

/-! ### Operations of the port (R455) -/

/-- A port's operation whose entry the function reaches does `body` after the request has come in, and ends well. -/
theorem port_ends {op key : Nat} {body : Act} {store : Bool} {l : List (EName × Nat)}
    (hrun : (Act.portRun fn op).run s = (Act.portDone fn.val key store stOk).run (body.run ((Act.asks (hostReq fn) key).run s)))
    (hbody : body.Touches ((.dictCount, 0) :: l)) :
    let t := (Act.portRun fn op).run s
    t.aport fn = { (body.run ((Act.asks (hostReq fn) key).run s)).aport fn with status := stOk, pending := store } ∧ EntryOnly l s t := by
  rw [hrun]
  exact ⟨portDone_port key store, frame_trans (sameEntries_mono (by simp) (Act.asks_touches _ key s))
    (frame_trans (hbody _) (sameEntries_mono (by simp) (Act.portDone_touches key store _)))⟩

/-- The port is open, idle and served. -/
structure PortServes (s : State) (fn : Fin 32) : Prop where
  opens : s.winOpen fn = true
  idle : (s.aport fn).pending = false
  served : s.served (hostReq fn) = true
  rom : s.romServes (hostReq fn) = false

/-- The address that the port names. -/
def State.portKey (s : State) (fn : Fin 32) : Nat := (s.aport fn).index * 256 + (s.aport fn).sub

/-- What is read goes into the buffer. -/
def Act.portFill (fn : Fin 32) (bs : List Byte) (size : Nat) : Act := .aport fn.val fun q => { q with buf := bufSet q.buf 0 bs, size := size }

theorem PortServes.reads_run (h : PortServes s fn) {bs : List Byte}
    (hread : s.readAt (hostReq fn) (s.portKey fn) (fun n i => (stOk, s.valueBytes n i)) = (stOk, bs)) :
    (Act.portRun fn opRead).run s = (Act.portDone fn.val (s.portKey fn) false stOk).run
      ((Act.portFill fn bs bs.length).run ((Act.asks (hostReq fn) (s.portKey fn)).run s)) := by
  rw [State.portKey] at hread ⊢
  rw [Act.portRun, Act.run_get, h.opens, Act.when_true, Act.portOp, Act.run_get]
  simp only [h.idle, State.romTakes, h.rom, h.served, hread, Bool.false_and, Bool.not_true, Bool.false_eq_true, if_false, if_true, Act.run_seq,
    beq_self_eq_true, Act.when_true]
  rfl

theorem PortServes.infos_run (h : PortServes s fn) {bs : List Byte} (hinfo : s.infoOf (hostReq fn) (s.portKey fn) = (stOk, bs)) :
    (Act.portRun fn opInfo).run s = (Act.portDone fn.val (s.portKey fn) false stOk).run
      ((Act.portFill fn bs (leNat ((bs.drop 4).take 2))).run ((Act.asks (hostReq fn) (s.portKey fn)).run s)) := by
  rw [State.portKey] at hinfo ⊢
  have hread : opInfo ≠ opRead := by decide
  have hwrite : opInfo ≠ opWrite := by decide
  rw [Act.portRun, Act.run_get, h.opens, Act.when_true, Act.portOp, Act.run_get]
  simp only [h.idle, State.romTakes, h.rom, h.served, hread, hwrite, hinfo, Bool.false_and, Bool.not_true, Bool.false_eq_true, if_false, if_true,
    Act.run_seq, beq_self_eq_true, Act.when_true]
  rfl

theorem PortServes.nexts_run (h : PortServes s fn) {a : Nat} (hnext : s.nextFor (hostReq fn) (fun _ => true) addrFuel (s.portKey fn) = some a) :
    (Act.portRun fn opNext).run s = (Act.portDone fn.val (s.portKey fn) false stOk).run
      ((Act.aport fn.val fun q => { q with index := a / 256, sub := a % 256 }).run ((Act.asks (hostReq fn) (s.portKey fn)).run s)) := by
  rw [State.portKey] at hnext ⊢
  have hread : opNext ≠ opRead := by decide
  have hwrite : opNext ≠ opWrite := by decide
  have hinfo : opNext ≠ opInfo := by decide
  rw [Act.portRun, Act.run_get, h.opens, Act.when_true, Act.portOp, Act.run_get]
  simp only [h.idle, State.romTakes, h.rom, h.served, hread, hwrite, hinfo, hnext, Bool.false_and, Bool.not_true, Bool.false_eq_true, if_false,
    Act.run_seq]

theorem PortServes.writes_run (h : PortServes s fn) (hwrite : s.writeAt (hostReq fn) (s.portKey fn) = .inr (n, i)) (hkey : n.key i = s.portKey fn)
    (hpass : s.applyGuard n (leNat ((s.aport fn).buf.take n.info.size)) = stOk) (hrule : n.rule = ruleAny n) :
    (Act.portRun fn opWrite).run s = (Act.portDone fn.val (s.portKey fn) (n.info.pers == .store) stOk).run
      ((Act.stored n (hostReq fn) i (leNat ((s.aport fn).buf.take n.info.size))).run ((Act.asks (hostReq fn) (s.portKey fn)).run s)) := by
  have hpass' : ((Act.asks (hostReq fn) (s.portKey fn)).run s).applyGuard n (leNat ((s.aport fn).buf.take n.info.size)) = stOk := by
    rw [← hkey, ← State.asked, State.asked_applyGuard, hpass]
  rw [State.portKey] at hwrite hpass' ⊢
  have hread : opWrite ≠ opRead := by decide
  rw [Act.portRun, Act.run_get, h.opens, Act.when_true, Act.portOp, Act.run_get]
  simp only [h.idle, State.romTakes, h.rom, h.served, hread, hwrite, Bool.false_and, Bool.not_true, Bool.false_eq_true, if_false, if_true,
    Act.run_seq]
  generalize (Act.asks (hostReq fn) ((s.aport fn).index * 256 + (s.aport fn).sub)).run s = x at hpass' ⊢
  generalize leNat ((s.aport fn).buf.take n.info.size) = v at hpass' ⊢
  rw [Act.applyWrite, Act.run_get, if_pos hpass', hrule, ruleAny, ruleIf_run rfl, Act.stored]
  simp only [beq_self_eq_true, Act.when_true, Act.run_seq]

/-- A read puts the value into the buffer. -/
theorem PortServes.reads (h : PortServes s fn) (hfind : findKey (s.portKey fn) = some (n, i)) (hguard : s.rdGuard (hostReq fn) n i = stOk) :
    let t := (Act.portRun fn opRead).run s
    (t.aport fn).status = stOk ∧ (t.aport fn).size = n.info.size ∧ (t.aport fn).buf.take n.info.size = s.valueBytes n i ∧ EntryOnly [] s t := by
  have hno : ¬ (0xF00000 ≤ s.portKey fn ∧ reqClass (hostReq fn) ≠ 4) := fun h => absurd (findKey_below hfind) (Nat.not_lt.2 h.1)
  have hread : s.readAt (hostReq fn) (s.portKey fn) (fun n i => (stOk, s.valueBytes n i)) = (stOk, s.valueBytes n i) := by
    rw [State.readAt, if_neg hno, hfind]
    exact if_neg (not_not.2 hguard)
  obtain ⟨hport, honly⟩ := port_ends (l := []) (h.reads_run hread) (Act.aport_touches _)
  refine ⟨congrArg APort.status hport, (congrArg APort.size hport).trans ?_, ?_, honly⟩
  · rw [Act.portFill, aport_aport]
    exact State.valueBytes_length
  · rw [congrArg APort.buf hport, Act.portFill, aport_aport, ← State.valueBytes_length (s := s) (n := n) (i := i)]
    exact bufSet_take (State.valueBytes_length.trans_le n.size_le)

/-- A description goes into the buffer, and the size that it names into the port. -/
theorem PortServes.infos (h : PortServes s fn) (hfind : findKey (s.portKey fn) = some (n, i)) (hright : s.hasRight (hostReq fn) n i = true) :
    let t := (Act.portRun fn opInfo).run s
    (t.aport fn).status = stOk ∧ (t.aport fn).size = n.info.size ∧ (t.aport fn).buf.take 16 = n.infoBytes ∧ EntryOnly [] s t := by
  have hno : ¬ (0xF00000 ≤ s.portKey fn ∧ reqClass (hostReq fn) ≠ 4) := fun h => absurd (findKey_below hfind) (Nat.not_lt.2 h.1)
  have hinfo : s.infoOf (hostReq fn) (s.portKey fn) = (stOk, n.infoBytes) := by
    rw [State.infoOf, if_neg hno, hfind]
    exact if_pos hright
  obtain ⟨hport, honly⟩ := port_ends (l := []) (h.infos_run hinfo) (Act.aport_touches _)
  refine ⟨congrArg APort.status hport, (congrArg APort.size hport).trans ?_, ?_, honly⟩
  · rw [Act.portFill, aport_aport]
    exact n.infoBytes_size
  · rw [congrArg APort.buf hport, Act.portFill, aport_aport, ← n.infoBytes_length]
    exact bufSet_take (by rw [n.infoBytes_length]; decide)

/-- The port names the next address that the function reaches. -/
theorem PortServes.nexts (h : PortServes s fn) {a : Nat} (hnext : s.nextFor (hostReq fn) (fun _ => true) addrFuel (s.portKey fn) = some a) :
    let t := (Act.portRun fn opNext).run s
    (t.aport fn).index = a / 256 ∧ (t.aport fn).sub = a % 256 ∧ (t.aport fn).status = stOk ∧ EntryOnly [] s t := by
  obtain ⟨hport, honly⟩ := port_ends (l := []) (h.nexts_run hnext) (Act.aport_touches _)
  rw [aport_aport] at hport
  exact ⟨congrArg APort.index hport, congrArg APort.sub hport, congrArg APort.status hport, honly⟩

/-- The buffer's value is written into the entry. -/
theorem PortServes.writes (h : PortServes s fn) (hfind : findKey (s.portKey fn) = some (n, i)) (hguard : s.wrGuard (hostReq fn) n i = stOk)
    (hrule : n.rule = ruleAny n) (hpass : s.applyGuard n (leNat ((s.aport fn).buf.take n.info.size)) = stOk)
    (hsafe : n.info.pers = .store → s.safeMode = false) :
    let t := (Act.portRun fn opWrite).run s
    t.rd n i = n.fit (leNat ((s.aport fn).buf.take n.info.size)) ∧ (t.aport fn).status = stOk ∧
      (t.aport fn).pending = (n.info.pers == .store) ∧ EntryOnly [(n, i)] s t := by
  have hno : ¬ (0xF00000 ≤ s.portKey fn ∧ reqClass (hostReq fn) ≠ 4) := fun h => absurd (findKey_below hfind) (Nat.not_lt.2 h.1)
  have hwrite : s.writeAt (hostReq fn) (s.portKey fn) = .inr (n, i) := by
    rw [State.writeAt, if_neg hno, hfind]
    exact if_neg (not_not.2 hguard)
  have hi := findEntry_lt hfind
  have hkey : n.key i = s.portKey fn := (findEntry_key hfind).trans (Nat.div_add_mod' _ _)
  have hw := wrGuard_writable hguard
  have hn : n ≠ .dictCount := fun e => absurd hw (by rw [e]; decide)
  have hrun := h.writes_run hwrite hkey hpass hrule
  obtain ⟨hport, honly⟩ := port_ends (l := [(n, i)]) hrun (fun x => sameEntries_mono (by simp) (Act.stored_touches n _ i _ x))
  refine ⟨?_, congrArg APort.status hport, congrArg APort.pending hport, honly⟩
  have hset : Settable ((Act.asks (hostReq fn) (s.portKey fn)).run s) n i := by
    rw [← hkey, ← State.asked]
    refine ⟨hi, EName.written_notFixed hw, fun hp => ⟨?_, ?_⟩⟩
    · rw [State.noFlash, State.asked_pow, ← State.noFlash]; exact applyGuard_flash hpass hp
    · rw [State.safeMode, State.asked_pow, ← State.safeMode]; exact hsafe hp
  rw [hrun]
  exact ((Act.portDone_touches _ _).keepsRd hi (by simp [hn]) _).trans (stored_rd hset _)

/-! ### Direct slots and registers (R405, R407, R454) -/

/-- The key of the entry whose slot lies at an offset. -/
def slotKey (off : Nat) : Nat := off / 128 * 256 + off % 128 / 8

/-- A slot's write of a scalar in whole. -/
theorem slotWrite_run {x : State} {off : Nat} {data : List Byte} {r : Requester} (hr : r = hostReq fn) (hserved : x.served r = true)
    (hwrite : x.writeAt r (slotKey off) = .inr (n, i)) (hkey : n.key i = slotKey off) (hscalar : n.whole = false) (hoff : off % 8 = 0)
    (hlen : n.info.size ≤ data.length) (hzero : ((data.drop n.info.size).all (· == 0)) = true)
    (hpass : x.applyGuard n (leNat (data.take n.info.size)) = stOk) (hrule : n.rule = ruleAny n) :
    (Act.slotWrite fn off data).run x = (Act.countReq stOk).run ((Act.stored n r i (leNat (data.take n.info.size))).run
      ((Act.asks r (slotKey off)).run x)) := by
  subst hr
  have hpass' : ((Act.asks (hostReq fn) (slotKey off)).run x).applyGuard n (leNat (data.take n.info.size)) = stOk := by
    rw [← hkey, ← State.asked, State.asked_applyGuard, hpass]
  have hrest : ((data.drop n.info.size).any (· != 0)) = false :=
    List.any_eq_false.2 fun b hb => by simpa using List.all_eq_true.1 hzero b hb
  have hbad : (n.whole || off % 8 != 0 || decide (data.length < n.info.size) || (data.drop n.info.size).any (· != 0)) = false := by
    rw [hscalar, hoff, hrest, decide_eq_false (Nat.not_lt.2 hlen)]
    rfl
  rw [slotKey] at hwrite hpass' ⊢
  rw [Act.slotWrite, Act.run_get]
  simp only [hserved, hwrite, hbad, Bool.not_true, Bool.false_eq_true, if_false, Act.run_seq]
  generalize (Act.asks (hostReq fn) (off / 128 * 256 + off % 128 / 8)).run x = y at hpass' ⊢
  generalize leNat (data.take n.info.size) = v at hpass' ⊢
  rw [Act.applyWrite, Act.run_get, if_pos hpass', hrule, ruleAny, ruleIf_run rfl, Act.stored]
  simp only [beq_self_eq_true, Act.when_true, Act.run_seq, winDone_ok]

theorem slot_writes {off : BitVec 23} {data : List Byte} (hopen : s.winOpen fn = true) (hslot : slotBase ≤ off.toNat)
    (hserved : s.served (hostReq fn) = true) (hfind : findKey (slotKey off.toNat) = some (n, i)) (hscalar : n.whole = false)
    (hguard : s.wrGuard (hostReq fn) n i = stOk) (hoff : off.toNat % 8 = 0) (hlen : n.info.size ≤ data.length)
    (hzero : ((data.drop n.info.size).all (· == 0)) = true) (hpass : s.applyGuard n (leNat (data.take n.info.size)) = stOk)
    (hrule : n.rule = ruleAny n) (hsafe : n.info.pers = .store → s.safeMode = false) :
    Completes (.windowSlotWrite fn off data) s fun t => t.rd n i = leNat (data.take n.info.size) ∧ EntryOnly [(n, i)] s t := by
  have hno : ¬ (0xF00000 ≤ slotKey off.toNat ∧ reqClass (hostReq fn) ≠ 4) := fun h => absurd (findKey_below hfind) (Nat.not_lt.2 h.1)
  have hwrite : s.writeAt (hostReq fn) (slotKey off.toNat) = .inr (n, i) := by
    rw [State.writeAt, if_neg hno, hfind]
    exact if_neg (not_not.2 hguard)
  have hi := findEntry_lt hfind
  have hkey : n.key i = slotKey off.toNat := (findEntry_key hfind).trans (Nat.div_add_mod' _ _)
  have hw := wrGuard_writable hguard
  have hn : n ≠ .dictCount := fun e => absurd hw (by rw [e]; decide)
  obtain ⟨lease, hrenew⟩ := renew_hears s (hostReq fn)
  have hrun : exec (.windowSlotWrite fn off data) s = .next ((Act.countReq stOk).run ((Act.stored n (hostReq fn) i
      (leNat (data.take n.info.size))).run ((s.heard lease s.u.host.raised).asked (hostReq fn) n i))) := by
    have hslotWrite := slotWrite_run (x := s.heard lease s.u.host.raised) rfl hserved hwrite hkey hscalar hoff hlen hzero hpass hrule
    show (Act.get fun s => Act.when (s.winOpen fn) _).outcome s = _
    rw [Act.outcome, Act.run_get, hopen, Act.when_true, Act.run_seq, hrenew, if_neg (Nat.not_lt.2 hslot), hslotWrite, State.asked, hkey]
  refine ⟨_, hrun, ?_, ?_⟩
  · have hset : Settable ((s.heard lease s.u.host.raised).asked (hostReq fn) n i) n i := by
      refine ⟨hi, EName.written_notFixed hw, fun hp => ⟨?_, ?_⟩⟩
      · rw [State.noFlash, State.asked_pow, ← State.noFlash]; exact applyGuard_flash hpass hp
      · rw [State.safeMode, State.asked_pow, ← State.safeMode]; exact hsafe hp
    have hsize : (data.take n.info.size).length = n.info.size := List.length_take_of_le hlen
    exact ((Act.countReq_touches stOk).keepsRd hi (by simp [hn]) _).trans ((stored_rd hset _).trans (Nat.mod_eq_of_lt
      ((leNat_lt (data.take n.info.size)).trans_eq (by rw [hsize]))))
  · exact frame_trans (Act.hear_touches lease _ s) (frame_trans (sameEntries_mono (by simp) (Act.asks_touches _ _ _))
      (frame_trans (sameEntries_mono (by simp) (Act.stored_touches n _ i _ _)) (sameEntries_mono (by simp) (Act.countReq_touches stOk _))))

theorem slot_reads {off : BitVec 23} (hopen : s.winOpen fn = true) (hslot : slotBase ≤ off.toNat) (hserved : s.served (hostReq fn) = true)
    (hfind : findKey (slotKey off.toNat) = some (n, i)) (hscalar : n.whole = false) (hguard : s.rdGuard (hostReq fn) n i = stOk) :
    Completes (.windowSlotRead fn (.window off)) s fun t => t.u.outbox = s.u.outbox ++ [.read
      (((s.valueBytes n i ++ List.replicate (8 - n.info.size) 0#8).drop (off.toNat % 8)).map fun b => (b, false))] ∧ EntryOnly [] s t := by
  have hno : ¬ (0xF00000 ≤ slotKey off.toNat ∧ reqClass (hostReq fn) ≠ 4) := fun h => absurd (findKey_below hfind) (Nat.not_lt.2 h.1)
  have hread : s.slotRead (hostReq fn) (slotKey off.toNat) = (stOk, s.valueBytes n i) := by
    rw [State.slotRead, State.readAt, if_neg hno, hfind]
    exact (if_neg (not_not.2 hguard)).trans (if_neg (by simp [hscalar]))
  have hrun : (Act.winRead fn off.toNat).run s = (Act.out (.read (((s.valueBytes n i ++ List.replicate (8 - n.info.size) 0#8).drop
      (off.toNat % 8)).map fun b => (b, false)))).run ((Act.countReq stOk).run ((Act.asks (hostReq fn) (slotKey off.toNat)).run
        ((Act.renew (hostReq fn)).run s))) := by
    rw [slotKey] at hread ⊢
    rw [Act.winRead, Act.run_get, hopen, Act.when_true, Act.run_seq, if_neg (Nat.not_lt.2 hslot)]
    simp only [hserved, if_true, hread, State.valueBytes_length, Act.run_all_cons, Act.run_all_nil, winDone_ok]
    rfl
  have hsent : ((Act.asks (hostReq fn) (slotKey off.toNat)).run ((Act.renew (hostReq fn)).run s)).u.outbox = s.u.outbox := by
    obtain ⟨lease, hrenew⟩ := renew_hears s (hostReq fn)
    rw [hrenew]
    exact Act.asks_keeps (f := fun s => s.u.outbox) _ _ (fun _ _ _ => rfl) (Act.count_keeps_u (g := Units.outbox)) _
  refine ⟨_, congrArg Host.Outcome.next hrun, ?_, ?_⟩
  · show ((Act.countReq stOk).run _).u.outbox ++ _ = _
    rw [countReq_u, hsent]
  · exact frame_trans ((Act.touches_get fun _ => Act.touches_when (Act.touches_dict _) : (Act.renew (hostReq fn)).Touches _) s)
      (frame_trans (Act.asks_touches _ _ _) (frame_trans (Act.countReq_touches stOk _) (Act.touches_out _ _)))

/-- Three bytes written to the first register name an entry. -/
theorem register_names {a b c : Byte} (hopen : s.winOpen fn = true) (hidle : (s.aport fn).pending = false) :
    Completes (.windowSlotWrite fn 0 [a, b, c]) s fun t =>
      (t.aport fn).index = a.toNat + b.toNat * 256 ∧ (t.aport fn).sub = c.toNat ∧ EntryOnly [] s t := by
  obtain ⟨lease, hrenew⟩ := renew_hears s (hostReq fn)
  have hidle' : ((s.heard lease s.u.host.raised).aport fn).pending = false := hidle
  have hwrite : (Act.portWrite fn 0 [a, b, c]).run (s.heard lease s.u.host.raised) =
      (Act.aport fn.val fun q => { q with index := a.toNat + b.toNat * 256, sub := c.toNat }).run (s.heard lease s.u.host.raised) := by
    rw [Act.portWrite, Act.run_get]
    simp only [hidle']
    rfl
  have hrun : exec (.windowSlotWrite fn 0 [a, b, c]) s =
      .next ((Act.aport fn.val fun q => { q with index := a.toNat + b.toNat * 256, sub := c.toNat }).run (s.heard lease s.u.host.raised)) := by
    show (Act.get fun s => Act.when (s.winOpen fn) _).outcome s = _
    rw [Act.outcome, Act.run_get, hopen, Act.when_true, Act.run_seq, hrenew, if_pos (by decide)]
    exact congrArg Host.Outcome.next hwrite
  refine ⟨_, hrun, ?_, ?_, frame_trans (Act.hear_touches lease _ s) (Act.aport_touches _ _)⟩
  · rw [aport_aport]
  · rw [aport_aport]

theorem barRead_reads (byte : Nat → Nat) (off len : Nat) (hpower : s.u.pow.power = true) (hlink : s.u.pow.linkUp = true)
    (hperst : s.u.pow.perst = false) :
    (Act.barRead byte off len).run s = (Act.out (.read ((List.range len).map fun i => (BitVec.ofNat 8 (byte (off + i)), false)))).run s := by
  rw [Act.barRead, Act.run_get, hpower, hlink, hperst]
  rfl

end

/-- Settles O39: a slot and the port are an entry's own read or write after the request has come in, and the other registers are read alone. -/
theorem windowReachesEntries : Obligations.WindowReachesEntries := by
  unfold Obligations.WindowReachesEntries
  intro s fn
  refine ⟨fun hpower hlink hperst => ⟨fun off len => ?_, fun off len => ?_⟩, fun hopen => ⟨fun off data n i hslot hserved hfind _ hscalar =>
      ⟨fun hguard hoff hlen hzero hpass hrule hsafe => slot_writes hopen hslot hserved hfind hscalar hguard hoff hlen hzero hpass hrule hsafe,
        fun hguard => slot_reads hopen hslot hserved hfind hscalar hguard⟩,
    fun a b c hidle => register_names hopen hidle, fun hidle hserved hrom _ => ?_⟩⟩
  · exact ⟨_, congrArg Host.Outcome.next (barRead_reads _ off.toNat len hpower hlink hperst), rfl, Act.touches_out _ s⟩
  · exact ⟨_, congrArg Host.Outcome.next (barRead_reads _ off.toNat len hpower hlink hperst), rfl, Act.touches_out _ s⟩
  · have hport : PortServes s fn := ⟨hopen, hidle, hserved, hrom⟩
    exact ⟨fun n i hfind => ⟨fun hguard => ⟨_, rfl, hport.reads hfind hguard⟩,
        fun hguard hrule hpass hsafe => ⟨_, rfl, hport.writes hfind hguard hrule hpass hsafe⟩, fun hright => ⟨_, rfl, hport.infos hfind hright⟩⟩,
      fun a hnext => ⟨_, rfl, hport.nexts hnext⟩⟩

end Sys2Proof.Machine
end

section
/-! SUPPORT. Policy modules: loading, their calls, notices, ecalls and overruns (R426 to R430). -/

namespace Sys2Proof.Machine

section
variable {s : State}

/-! ### What a module's state and its calls are -/

theorem policy_policy (s : State) (k : Nat) (f : Policy → Policy) : ((Act.policy k f).run s).policy k = f (s.policy k) := by
  show tgetD (tset s.u.host.policies k (f (tgetD s.u.host.policies k {}))) k {} = _
  rw [tgetD_tset_same]
  rfl

theorem ses_ses (s : State) (i : Nat) (f : Sess → Sess) : ((Act.ses i f).run s).ses i = f (s.ses i) := by
  show tgetD (tset s.u.sess i (f (tgetD s.u.sess i {}))) i {} = _
  rw [tgetD_tset_same]
  rfl

theorem slot_slot (s : State) (core k : Nat) (f : Slot → Slot) : ((Act.slot core k f).run s).slot core k = f (s.slot core k) := by
  show tgetD (tset s.u.core.slots (core * 4 + k) (f (tgetD s.u.core.slots (core * 4 + k) {}))) (core * 4 + k) {} = _
  rw [tgetD_tset_same]
  rfl

theorem Act.policy_touches {l : List (EName × Nat)} (k : Nat) (f : Policy → Policy) : (Act.policy k f).Touches l := touches_host _
theorem Act.ses_touches {l : List (EName × Nat)} (i : Nat) (f : Sess → Sess) : (Act.ses i f).Touches l := touches_units fun _ => ⟨rfl, rfl⟩
theorem Act.slot_touches {l : List (EName × Nat)} (core k : Nat) (f : Slot → Slot) : (Act.slot core k f).Touches l := touches_core _

theorem Act.moduleCall_touches {l : List (EName × Nat)} (k : Nat) (input : List Byte) (args : List Nat) : (Act.moduleCall k input args).Touches l :=
  touches_draw fun _ => policy_touches k _

theorem moduleCall_policy (s : State) (k : Nat) (input : List Byte) (args : List Nat) :
    (((Act.moduleCall k input args).run s).policy k).input = input ∧ (((Act.moduleCall k input args).run s).policy k).args = args := by
  have hpolicy := policy_policy ((Act.units fun u => { u with free := u.free + 1 }).run s) k fun p =>
    { p with data := Config.freeValue s.u.free, input := input, args := args }
  exact ⟨congrArg Policy.input hpolicy, congrArg Policy.args hpolicy⟩

/-! ### Loading (R426, R430) -/

/-- What a load does with an image that verifies, or that does not. -/
def Act.loaded (v k : Nat) (p : Policy) (st : Nat) : Act :=
  .all [.noteImg v, .raiseSrc 142, .callsForget k, .policy k fun _ => p, .reg .policyState k st]

theorem Act.callsForget_touches {l : List (EName × Nat)} (k : Nat) : (Act.callsForget k).Touches l :=
  touches_ite (touches_units fun _ => ⟨rfl, rfl⟩) (touches_core _)

theorem policyLoad_loads {r : Requester} {v : W64} {k : Nat} (hk : k < 2) (h : Accepts s r .policyLoad k v.toNat) (hheld : s.imgHeld v.toNat = false)
    (hf : s.u.mem.faulty = false) :
    let t := (Act.entryRow .policyLoad rulePolicyLoad r k v.toNat).run s
    t.rd .policyState k = (if s.imgReason (s.imgAt v.toNat) (k + 2) = 0 ∧ s.safeMode = false then 1 else 3) ∧
      EntryOnly ((.policyState, k) :: (List.range 20).map fun i => (.memErrors, i)) s t := by
  have hk' : k < EName.policyState.count := hk.trans_eq (by decide)
  have hsafe : (s.asked r .policyLoad k).safeMode = s.safeMode := by rw [State.safeMode, State.asked_pow, State.safeMode]
  obtain ⟨p, hrule⟩ : ∃ p, ∀ j : Nat → Act, (rulePolicyLoad r k v.toNat j).run (s.asked r .policyLoad k) =
      (j stOk).run ((Act.loaded v.toNat k p (if s.imgReason (s.imgAt v.toNat) (k + 2) = 0 ∧ s.safeMode = false then 1 else 3)).run
        (s.asked r .policyLoad k)) := by
    by_cases hgood : s.imgReason (s.imgAt v.toNat) (k + 2) = 0 ∧ s.safeMode = false
    · refine ⟨policyOf (s.imgAt v.toNat), fun j => ?_⟩
      rw [rulePolicyLoad, Act.run_get, State.asked_imgHeld hf, hheld, if_neg (by decide), (State.asked_imgAt hf _).2, State.asked_imgReason, hsafe,
        if_pos hgood, if_pos hgood, Act.loaded]
      simp only [Act.run_all_cons, Act.run_all_nil]
    · refine ⟨{}, fun j => ?_⟩
      rw [rulePolicyLoad, Act.run_get, State.asked_imgHeld hf, hheld, if_neg (by decide), (State.asked_imgAt hf _).2, State.asked_imgReason, hsafe,
        if_neg hgood, if_neg hgood, Act.loaded]
      simp only [Act.run_all_cons, Act.run_all_nil]
  have hst : EName.policyState.fit (if s.imgReason (s.imgAt v.toNat) (k + 2) = 0 ∧ s.safeMode = false then 1 else 3) =
      if s.imgReason (s.imgAt v.toNat) (k + 2) = 0 ∧ s.safeMode = false then 1 else 3 := by split <;> rfl
  generalize (if s.imgReason (s.imgAt v.toNat) (k + 2) = 0 ∧ s.safeMode = false then 1 else 3) = st at hrule hst ⊢
  have hf' : (s.asked r .policyLoad k).u.mem.faulty = false := by rw [State.asked_units (g := Units.mem) fun _ _ => rfl, hf]
  have hnote := (Act.noteImg_countsErrors v.toNat).leaves hf'
  have hbody : (Act.loaded v.toNat k p st).run (s.asked r .policyLoad k) = (Act.all [.raiseSrc 142, .callsForget k, .policy k fun _ => p,
      .reg .policyState k st]).run ((Act.noteImg v.toNat).run (s.asked r .policyLoad k)) := rfl
  have hrest : (Act.all [.raiseSrc 142, .callsForget k, .policy k fun _ => p, .reg .policyState k st]).Touches
      ((.dictCount, 0) :: (.policyState, k) :: (List.range 20).map fun i => (.memErrors, i)) :=
    Act.touches_seq (Act.raiseSrc_touches _) (Act.touches_seq (Act.callsForget_touches k) (Act.touches_seq (Act.policy_touches k _)
      (Act.touches_seq (Act.touches_reg (by simp)) Act.touches_skip)))
  have ht := h.answered (rule := rulePolicyLoad) (l := (.policyState, k) :: (List.range 20).map fun i => (.memErrors, i)) rfl hrule
    (hbody ▸ frame_trans (sameEntries_mono (fun _ hx => List.mem_cons_of_mem _ (List.mem_cons_of_mem _ hx)) hnote) (hrest _))
  refine ⟨?_, ht.only⟩
  rw [ht.rd hk' (by simp), hbody]
  exact (State.rd_reg _ st (.of_vol _ hk' rfl)).trans hst

/-! ### Calls that decide (R428, R429) -/

theorem policyCount_counts (s : State) {k : Nat} (hk : k < 6) :
    ((Act.count .policyCount 0 k).run s).cnt .policyCount 0 k = (s.cnt .policyCount 0 k + 1) % 2 ^ 64 :=
  State.cnt_count s (.of_vol s (by decide) rfl) (by show 8 * k + 8 ≤ 48; omega)

/-- After a call of module `k` the input is as given, and of the arguments `P` holds. -/
def Act.Calls (k : Nat) (input : List Byte) (P : List Nat → Prop) (c : Act) : Prop :=
  c.Touches [] ∧ ∀ y : State, ((c.run y).policy k).input = input ∧ P ((c.run y).policy k).args

theorem Act.moduleCall_calls {k : Nat} {input : List Byte} {P : List Nat → Prop} {args : List Nat} (h : P args) :
    (Act.moduleCall k input args).Calls k input P :=
  ⟨moduleCall_touches k input args, fun y => by
    obtain ⟨hinput, hargs⟩ := moduleCall_policy y k input args
    exact ⟨hinput, by rw [hargs]; exact h⟩⟩

theorem Act.draw_calls {k : Nat} {input : List Byte} {P : List Nat → Prop} {f : Nat → Act} (h : ∀ v, (f v).Calls k input P) :
    (Act.draw f).Calls k input P := ⟨touches_draw fun v => (h v).1, fun _ => (h _).2 _⟩

/-- A call that is counted, and then something done that leaves the module. -/
theorem call_leaves {k j : Nat} {input : List Byte} {P : List Nat → Prop} {c last : Act} (hj : j < 6) (hc : c.Calls k input P) (hlast : last.Touches [])
    (hpolicy : last.Keeps fun s => s.policy k) :
    let t := last.run (c.run ((Act.count .policyCount 0 j).run s))
    (t.policy k).input = input ∧ P (t.policy k).args ∧ t.cnt .policyCount 0 j = (s.cnt .policyCount 0 j + 1) % 2 ^ 64 ∧ SameMem s t ∧
      SameEntriesBut [(.policyCount, 0)] s t := by
  have hkept := hpolicy (c.run ((Act.count .policyCount 0 j).run s))
  obtain ⟨hinput, hargs⟩ := hc.2 ((Act.count .policyCount 0 j).run s)
  have hrest := Act.touches_seq hc.1 hlast
  refine ⟨(congrArg Policy.input hkept).trans hinput, (congrArg Policy.args hkept).symm ▸ hargs, ?_,
    frame_trans (Act.touches_count (by simp) s) (sameEntries_mono (by simp) (hrest _))⟩
  exact ((hrest.keepsRd (by decide) (by simp)).cnt j _).trans (policyCount_counts s hj)

theorem admission_decides {i : Nat} {order : List Nat} {skip : Bool} (hruns : s.fwRuns = true) (hpolicy : s.policyRuns 0 = true)
    (hlive : s.sesLive i = true) (hok : orderOk (min 4096 ((s.ses i).cands (!s.isLC (s.ses i).ctx)).length) order = true) :
    let t := (Act.admissionCall i order skip).run s
    (t.ses i).policy = some (order, skip) ∧ (t.policy 0).input = (s.candArray i).flatten ∧
      (∃ a o, (t.policy 0).args = [a, (s.candArray i).length, o, s.takeable i]) ∧
      t.cnt .policyCount 0 0 = (s.cnt .policyCount 0 0 + 1) % 2 ^ 64 ∧ SameMem s t ∧ SameEntriesBut [(.policyCount, 0)] s t := by
  have hcall : Act.Calls 0 (s.candArray i).flatten (fun l => ∃ a o, l = [a, (s.candArray i).length, o, s.takeable i]) (.draw fun at_ => .draw fun out =>
      .moduleCall 0 (s.candArray i).flatten [at_ % 2 ^ 64, (s.candArray i).length, out % 2 ^ 64, s.takeable i]) :=
    Act.draw_calls fun at_ => Act.draw_calls fun out => Act.moduleCall_calls ⟨_, _, rfl⟩
  have hleaves := call_leaves (s := s) (j := 0) (by decide) hcall (last := .ses i fun x => { x with policy := some (order, skip) })
    (Act.ses_touches _ _) fun _ => rfl
  rw [Act.admissionCall, Act.run_get, hruns, hpolicy, hlive, Bool.and_self, Bool.and_self, Act.when_true, Act.run_all_cons, Act.run_all_cons,
    Act.run_all_cons, Act.run_all_nil, if_pos hok]
  exact ⟨by rw [ses_ses], hleaves⟩

theorem scheduling_decides {core k : Nat} {choice : Int} (hruns : s.fwRuns = true) (hpolicy : s.policyRuns 1 = true) (hk : k ≠ 0)
    (hchoice : choice = -1 ∨ (0 ≤ choice ∧ choice.toNat < (s.waiters core k).length)) :
    let t := (Act.schedulingCall core k choice).run s
    (t.slot core k).pick = (if choice = -1 then none else (s.waiters core k)[choice.toNat]?) ∧ (t.policy 1).input = (s.waitArray core k).flatten ∧
      (∃ a, (t.policy 1).args = [a, (s.waitArray core k).length, core, ((s.slot core k).holder).getD 0xFFFF]) ∧
      t.cnt .policyCount 0 2 = (s.cnt .policyCount 0 2 + 1) % 2 ^ 64 ∧ SameMem s t ∧ SameEntriesBut [(.policyCount, 0)] s t := by
  have hcall : Act.Calls 1 (s.waitArray core k).flatten (fun l => ∃ a, l = [a, (s.waitArray core k).length, core, ((s.slot core k).holder).getD 0xFFFF])
      (.draw fun at_ => .moduleCall 1 (s.waitArray core k).flatten
        [at_ % 2 ^ 64, (s.waitArray core k).length, core, ((s.slot core k).holder).getD 0xFFFF]) :=
    Act.draw_calls fun at_ => Act.moduleCall_calls ⟨_, rfl⟩
  have hleaves (pick : Option Nat) := call_leaves (s := s) (j := 2) (by decide) hcall (last := .slot core k fun sl => { sl with pick := pick })
    (Act.slot_touches core k _) fun _ => rfl
  rw [Act.schedulingCall, Act.run_get, hruns, hpolicy, bne_iff_ne.2 hk, Bool.and_self, Bool.and_self, Act.when_true, Act.run_all_cons,
    Act.run_all_cons, Act.run_all_cons, Act.run_all_nil]
  by_cases hnone : choice = -1
  · rw [if_pos hnone, if_pos hnone]
    exact ⟨by rw [slot_slot], hleaves none⟩
  · rw [if_neg hnone, if_neg hnone, if_pos (hchoice.resolve_left hnone)]
    exact ⟨by rw [slot_slot], hleaves _⟩

/-! ### Overruns and faults (R427) -/

/-- What ends a call beside the count of its overrun. -/
def Act.callEnds (module_ : Nat) : Act :=
  .all [.errEvent (58 + module_) 0, .policy module_ fun p => { p with call := false },
    .get fun s => .when (s.policyRuns module_ && s.fld .errwinState (58 + module_) 0 8 1 == 1) (.reg .policyState module_ 2)]

theorem Act.overrun_run (module_ counter : Nat) (s : State) :
    (Act.overrun module_ counter).run s = (Act.callEnds module_).run ((Act.count .policyCount 0 counter).run s) := by
  rw [Act.overrun, Act.callEnds, Act.run_all_cons]

theorem Act.callEnds_keeps {α : Type} {f : State → α} {module_ : Nat} (herr : (Act.errEvent (58 + module_) 0).Keeps f)
    (hpolicy : ∀ g, (Act.policy module_ g).Keeps f) (hreg : (Act.reg .policyState module_ 2).Keeps f) : (Act.callEnds module_).Keeps f :=
  keeps_seq herr (keeps_seq (hpolicy _) (keeps_seq (keeps_get fun _ => keeps_when fun _ => hreg) keeps_skip))

/-- The overrun counts, and no call goes on. -/
theorem overrun_ends {module_ counter : Nat} (hc : counter < 6) :
    let t := (Act.overrun module_ counter).run s
    t.cnt .policyCount 0 counter = (s.cnt .policyCount 0 counter + 1) % 2 ^ 64 ∧ (t.policy module_).call = false := by
  have hside : Aside fun s => s.rd .policyCount 0 := .rd (by decide) (by decide)
  have hcount : (Act.callEnds module_).Keeps fun s => s.rd .policyCount 0 := Act.callEnds_keeps (hside.errEvent _ _)
    (fun g => (Act.policy_touches (l := []) module_ g).keepsRd (by decide) (by simp))
    ((Act.touches_reg (l := [(.policyState, module_)]) (by simp)).keepsRd (by decide) (by simp))
  rw [Act.overrun_run]
  refine ⟨(hcount.cnt counter _).trans (policyCount_counts s hc), ?_⟩
  have hlast : (Act.get fun s => Act.when (s.policyRuns module_ && s.fld .errwinState (58 + module_) 0 8 1 == 1) (.reg .policyState module_ 2)).Keeps
      fun s => s.policy module_ :=
    Act.keeps_get fun _ => Act.keeps_when fun _ => Act.reg_keeps_u (g := fun u => tgetD u.host.policies module_ {})
  rw [Act.callEnds, Act.run_all_cons, Act.run_all_cons, Act.run_all_cons, Act.run_all_nil]
  exact (congrArg Policy.call (hlast _)).trans (congrArg Policy.call (policy_policy _ module_ _))

/-- What neither lies in an entry nor in what events change, an overrun leaves. -/
theorem Act.overrun_keepsU {α : Type} {g : Units → α} (h : ∀ (u : Units) svc host o, g { u with svc := svc, host := host, outbox := o } = g u)
    (module_ counter : Nat) : (Act.overrun module_ counter).Keeps fun s => g s.u :=
  keeps_seq count_keeps_u (callEnds_keeps (errEvent_keeps (fun _ _ _ _ => reg_keeps_u) (fun _ _ => mem_keeps_u) (fun s => h s.u) _ _)
    (fun _ s => h s.u s.u.svc _ s.u.outbox) reg_keeps_u)

/-- A module that faults is disabled. -/
theorem moduleFault_disables {k counter : Nat} (hk : k < 2) (hruns : s.policyRuns k = true) :
    ((Act.moduleFault k counter).run s).rd .policyState k = 2 := by
  have hk' : k < EName.policyState.count := hk.trans_eq (by decide)
  have hset (x : State) : ((Act.reg .policyState k 2).run x).rd .policyState k = 2 := State.rd_reg x 2 (.of_vol x hk' rfl)
  have hside : Aside fun s => s.rd .policyState k := .rd (by decide) hk'
  have hstill : (Act.seq (.count .policyCount 0 counter) (.seq (.errEvent (58 + k) 0) (.policy k fun p => { p with call := false }))).Keeps
      fun s => s.rd .policyState k :=
    Act.keeps_seq ((Act.touches_count (l := [(.policyCount, 0)]) (by simp)).keepsRd hk' (by simp))
      (Act.keeps_seq (hside.errEvent _ _) ((Act.policy_touches (l := []) k _).keepsRd hk' (by simp)))
  have hone : s.rd .policyState k = 1 := by simpa [State.policyRuns] using hruns
  have hrun : (Act.moduleFault k counter).run s = (Act.get fun s => .when (s.policyRuns k) (.reg .policyState k 2)).run
      ((Act.get fun s => .when (s.policyRuns k && s.fld .errwinState (58 + k) 0 8 1 == 1) (.reg .policyState k 2)).run
        ((Act.seq (.count .policyCount 0 counter) (.seq (.errEvent (58 + k) 0) (.policy k fun p => { p with call := false }))).run s)) := by
    rw [Act.moduleFault, Act.run_seq, Act.overrun, Act.run_all_cons, Act.run_all_cons, Act.run_all_cons, Act.run_all_cons, Act.run_all_nil, Act.run_seq,
      Act.run_seq]
  have hx := hstill s
  rw [hrun]
  generalize (Act.seq (.count .policyCount 0 counter) (.seq (.errEvent (58 + k) 0) (.policy k fun p => { p with call := false }))).run s = x at hx ⊢
  have hxruns : x.policyRuns k = true := by rw [State.policyRuns, show x.rd .policyState k = 1 from hx.trans hone]; rfl
  have hlasting : (Act.get fun s => Act.when (s.policyRuns k && s.fld .errwinState (58 + k) 0 8 1 == 1) (.reg .policyState k 2)).run x =
      if x.fld .errwinState (58 + k) 0 8 1 = 1 then (Act.reg .policyState k 2).run x else x := by
    rw [Act.run_get, hxruns, Bool.true_and, Act.run_when]
    simp only [beq_iff_eq]
  rw [hlasting]
  by_cases hlast : x.fld .errwinState (58 + k) 0 8 1 = 1
  · have hno : ((Act.reg .policyState k 2).run x).policyRuns k = false := by rw [State.policyRuns, hset]; rfl
    rw [if_pos hlast, Act.run_get, hno, Act.when_false, Act.run_skip]
    exact hset x
  · rw [if_neg hlast, Act.run_get, hxruns, Act.when_true]
    exact hset x

/-- An order that is no order of the candidates is an overrun. -/
theorem admission_overruns {i : Nat} {order : List Nat} {skip : Bool} (hruns : s.fwRuns = true) (hpolicy : s.policyRuns 0 = true)
    (hlive : s.sesLive i = true) (hbad : orderOk (min 4096 ((s.ses i).cands (!s.isLC (s.ses i).ctx)).length) order = false) :
    let t := (Act.admissionCall i order skip).run s
    (t.ses i).policy = none ∧ t.cnt .policyCount 0 1 = (s.cnt .policyCount 0 1 + 1) % 2 ^ 64 := by
  let x := (Act.ses i fun x => { x with policy := none }).run ((Act.draw fun at_ => .draw fun out => .moduleCall 0 (s.candArray i).flatten
    [at_ % 2 ^ 64, (s.candArray i).length, out % 2 ^ 64, s.takeable i]).run ((Act.count .policyCount 0 0).run s))
  have hrun : (Act.admissionCall i order skip).run s = (Act.overrun 0 1).run x := by
    rw [Act.admissionCall, Act.run_get, hruns, hpolicy, hlive, Bool.and_self, Bool.and_self, Act.when_true, Act.run_all_cons, Act.run_all_cons,
      Act.run_all_cons, Act.run_all_nil, if_neg (by simp [hbad])]
    rfl
  have hcnt : x.cnt .policyCount 0 1 = s.cnt .policyCount 0 1 := by
    have hrest : (Act.seq (.draw fun at_ => .draw fun out => .moduleCall 0 (s.candArray i).flatten
        [at_ % 2 ^ 64, (s.candArray i).length, out % 2 ^ 64, s.takeable i]) (.ses i fun x => { x with policy := none })).Touches [] :=
      Act.touches_seq (Act.touches_draw fun _ => Act.touches_draw fun _ => Act.moduleCall_touches _ _ _) (Act.ses_touches i _)
    exact ((hrest.keepsRd (n := .policyCount) (i := 0) (by decide) (by simp)).cnt 1 _).trans
      (Act.count_keepsCnt_apart (by decide) rfl (by decide) (by decide) s)
  have hses : (x.ses i).policy = none := by rw [ses_ses]
  rw [hrun]
  clear_value x
  refine ⟨?_, ?_⟩
  · rw [show ((Act.overrun 0 1).run x).ses i = x.ses i from Act.overrun_keepsU (g := fun u => tgetD u.sess i {}) (fun _ _ _ _ => rfl) 0 1 x, hses]
  · rw [(overrun_ends (by decide)).1, hcnt]

/-- A call that takes too long: the base policy decides. -/
theorem callLate_ends {call : PolicyCall} (hruns : s.fwRuns = true) (hpolicy : s.policyRuns (callOf call).1 = true) :
    let t := (Act.callLate call).run s
    t.cnt .policyCount 0 (callOf call).2 = (s.cnt .policyCount 0 (callOf call).2 + 1) % 2 ^ 64 ∧ (t.policy (callOf call).1).call = false ∧
      (∀ i, call = .admission i → (t.ses i).policy = none) ∧ (∀ core k, call = .scheduling core k → (t.slot core k).pick = none) := by
  have hses (x : State) (i m c : Nat) : ((Act.overrun m c).run x).ses i = x.ses i :=
    Act.overrun_keepsU (g := fun u => tgetD u.sess i {}) (fun _ _ _ _ => rfl) m c x
  have hslot (x : State) (core k m c : Nat) : ((Act.overrun m c).run x).slot core k = x.slot core k :=
    Act.overrun_keepsU (g := fun u => tgetD u.core.slots (core * 4 + k) {}) (fun _ _ _ _ => rfl) m c x
  have hwhen (a : Act) : (Act.when (s.fwRuns && s.policyRuns (callOf call).1) a).run s = a.run s := by
    rw [hruns, hpolicy, Bool.and_self, Act.when_true]
  cases call with
  | admission i =>
    have hrun : (Act.callLate (.admission i)).run s = (Act.overrun 0 1).run ((Act.ses i fun x => { x with policy := none }).run s) := hwhen _
    obtain ⟨hcnt, hcall⟩ := overrun_ends (s := (Act.ses i fun x => { x with policy := none }).run s) (module_ := 0) (counter := 1) (by decide)
    have hnone := hses ((Act.ses i fun x => { x with policy := none }).run s) i 0 1
    rw [ses_ses] at hnone
    rw [hrun]
    refine ⟨hcnt, hcall, fun j hj => ?_, fun _ _ h => nomatch h⟩
    cases hj
    exact congrArg Sess.policy hnone
  | scheduling core k =>
    have hrun : (Act.callLate (.scheduling core k)).run s = (Act.overrun 1 3).run ((Act.slot core k fun sl => { sl with pick := none }).run s) := hwhen _
    obtain ⟨hcnt, hcall⟩ := overrun_ends (s := (Act.slot core k fun sl => { sl with pick := none }).run s) (module_ := 1) (counter := 3) (by decide)
    have hnone := hslot ((Act.slot core k fun sl => { sl with pick := none }).run s) core k 1 3
    rw [slot_slot] at hnone
    rw [hrun]
    refine ⟨hcnt, hcall, fun _ h => (nomatch h), fun _ _ h => ?_⟩
    cases h
    exact congrArg Slot.pick hnone
  | notice kind =>
    have hrun : (Act.callLate (.notice kind)).run s = (Act.overrun (kindNo kind) 5).run s := hwhen _
    obtain ⟨hcnt, hcall⟩ := overrun_ends (s := s) (module_ := kindNo kind) (counter := 5) (by decide)
    rw [hrun]
    exact ⟨hcnt, hcall, fun _ h => (nomatch h), fun _ _ h => nomatch h⟩

/-! ### Notices and ecalls (R415, R426) -/

theorem notice_run {k ch : Nat} (hruns : s.fwRuns = true) (hpolicy : s.policyRuns k = true) (hch : s.policyChannel ch = true)
    (hstate : (s.mbx ch).state = 2) (hposter : (s.mbx ch).poster = 0) :
    (Act.noticeCall k ch).run s = (if mailBroken (mailHdr (s.mbx ch)) then
      Act.mailPut ch (mailResp (bits (mailHdr (s.mbx ch)) 0 8) (bits (mailHdr (s.mbx ch)) 16 8) 3 [])
      else .all [.count .policyCount 0 4, .draw fun at_ => .moduleCall k (mailPayload (s.mbx ch)) [at_ % 2 ^ 64, (mailPayload (s.mbx ch)).length],
        .policy k fun p => { p with call := true }]).run ((Act.mailTaken ch (s.mbx ch).emptied s.u.host.mail).run s) := by
  simp only [Act.noticeCall, Act.run_get, hruns, hpolicy, hch, hstate, hposter, beq_self_eq_true, Bool.and_self, Act.when_true, Act.run_seq,
    mbxTo_emptied]

/-- The module is called with the notice's payload. -/
theorem notice_calls {k ch : Nat} (hruns : s.fwRuns = true) (hpolicy : s.policyRuns k = true) (hch : s.policyChannel ch = true)
    (hstate : (s.mbx ch).state = 2) (hposter : (s.mbx ch).poster = 0) (hgood : mailBroken (mailHdr (s.mbx ch)) = false) :
    let t := (Act.noticeCall k ch).run s
    (t.mbx ch).state = 0 ∧ (t.policy k).call = true ∧ (t.policy k).input = mailPayload (s.mbx ch) ∧
      (∃ a, (t.policy k).args = [a, (mailPayload (s.mbx ch)).length]) ∧ t.cnt .policyCount 0 4 = (s.cnt .policyCount 0 4 + 1) % 2 ^ 64 ∧ SameMem s t := by
  have htaken := Act.touches_host (l := []) (fun h => { h with mbx := tset h.mbx ch (s.mbx ch).emptied, mail := s.u.host.mail }) s
  obtain ⟨hempty, -⟩ := mailTaken_leaves s ch s.u.host.mail
  have hcall : Act.Calls k (mailPayload (s.mbx ch)) (fun l => ∃ a, l = [a, (mailPayload (s.mbx ch)).length])
      (.draw fun at_ => .moduleCall k (mailPayload (s.mbx ch)) [at_ % 2 ^ 64, (mailPayload (s.mbx ch)).length]) :=
    Act.draw_calls fun at_ => Act.moduleCall_calls ⟨_, rfl⟩
  rw [notice_run hruns hpolicy hch hstate hposter, hgood, if_neg (by decide), Act.run_all_cons, Act.run_all_cons, Act.run_all_cons, Act.run_all_nil]
  have hcnt : ((Act.mailTaken ch (s.mbx ch).emptied s.u.host.mail).run s).cnt .policyCount 0 4 = s.cnt .policyCount 0 4 :=
    (((Act.touches_host (l := []) _).keepsRd (n := .policyCount) (i := 0) (by decide) (by simp)).cnt 4) s
  have hmem := htaken.1
  change SameMem s ((Act.mailTaken ch (s.mbx ch).emptied s.u.host.mail).run s) at hmem
  generalize (Act.mailTaken ch (s.mbx ch).emptied s.u.host.mail).run s = x at *
  obtain ⟨hinput, hargs, -⟩ := call_leaves (s := x) (j := 4) (by decide) hcall (last := .skip) Act.touches_skip fun _ => rfl
  have hcounted := (((hcall.1.keepsRd (n := .policyCount) (i := 0) (by decide) (by simp)).cnt 4) _).trans (policyCount_counts x (k := 4) (by decide))
  have hsame : SameMem x ((Act.draw fun at_ => .moduleCall k (mailPayload (s.mbx ch)) [at_ % 2 ^ 64, (mailPayload (s.mbx ch)).length]).run
      ((Act.count .policyCount 0 4).run x)) :=
    sameMem_trans (Act.touches_count (l := [(.policyCount, 0)]) (by simp) x).1 (hcall.1 _).1
  have hmbx : (((Act.count .policyCount 0 4).run x).mbx ch).state = (x.mbx ch).state :=
    Act.count_keeps_u (g := fun u => (tgetD u.host.mbx ch {}).state) x
  refine ⟨hmbx.trans hempty, by rw [policy_policy], ?_, ?_, ?_, ?_⟩
  · rw [policy_policy]; exact hinput
  · rw [policy_policy]; exact hargs
  · exact hcounted.trans (by rw [hcnt])
  · exact sameMem_trans hmem (sameMem_trans hsame (Act.policy_touches (l := []) k _ _).1)

/-- Channels and their messages leave the modules. -/
theorem Act.mbxTo_keepsPolicy (c : Nat) (x : Mbx) (k : Nat) : (Act.mbxTo c x).Keeps fun s => s.policy k :=
  keeps_get fun _ => keeps_seq (fun _ => rfl) (keeps_when fun _ => keeps_get fun _ => keeps_ite (fun _ => keeps_skip) fun _ =>
    keeps_ite (fun _ _ => rfl) fun _ => keeps_ite
      (fun _ => keeps_seq (fun _ => rfl) (count_keeps_u (g := fun u => tgetD u.host.policies k {}))) fun _ => keeps_skip)

theorem Act.mailPut_keepsPolicy (c msg k : Nat) : (Act.mailPut c msg).Keeps fun s => s.policy k :=
  keeps_seq (fun _ => rfl) (keeps_get fun s => by
    split
    · exact keeps_skip
    · exact keeps_when fun _ => keeps_get fun _ => keeps_seq (fun _ => rfl) (keeps_seq (fun _ => rfl) (mbxTo_keepsPolicy _ _ k)))

/-- A notice whose header breaks the table is answered, and goes to no module. -/
theorem notice_malformed {k ch : Nat} (hruns : s.fwRuns = true) (hpolicy : s.policyRuns k = true) (hch : s.policyChannel ch = true)
    (hstate : (s.mbx ch).state = 2) (hposter : (s.mbx ch).poster = 0) (hbad : mailBroken (mailHdr (s.mbx ch)) = true)
    (hdue : ∀ e ∈ s.u.host.mailDue, e.1 ≠ ch) :
    Posted s ((Act.noticeCall k ch).run s) ch (mailResp (bits (mailHdr (s.mbx ch)) 0 8) (bits (mailHdr (s.mbx ch)) 16 8) 3 []) ∧
      ((Act.noticeCall k ch).run s).policy k = s.policy k := by
  obtain ⟨hempty, hsame, hrun, -, hstore⟩ := mailTaken_leaves s ch s.u.host.mail
  rw [notice_run hruns hpolicy hch hstate hposter, if_pos hbad]
  have hput := mailPut_posts (msg := mailResp (bits (mailHdr (s.mbx ch)) 0 8) (bits (mailHdr (s.mbx ch)) 16 8) 3 []) (by rw [hsame]; exact hdue) hempty
    (hrun.trans hruns)
  exact ⟨{ hput with memory := sameMem_trans (sameMem_of_stores hstore) hput.memory }, Act.mailPut_keepsPolicy ch _ k _⟩

/-- A byte of a list's value. -/
theorem bits_leNat (l : List Byte) {j : Nat} (hj : j < l.length) : bits (leNat l) (8 * j) 8 = (l.getD j 0#8).toNat := by
  induction l generalizing j with
  | nil => cases hj
  | cons b l ih =>
    have hb : b.toNat < 2 ^ 8 := b.isLt
    cases j with
    | zero => rw [leNat, bits, Nat.mul_zero, Nat.shiftRight_zero, List.getD_cons_zero]; omega
    | succ j =>
      have hshift : (b.toNat + 256 * leNat l) >>> (8 * (j + 1)) = leNat l >>> (8 * j) := by
        rw [Nat.mul_succ, Nat.add_comm (8 * j), Nat.shiftRight_add, Nat.shiftRight_eq_div_pow _ 8]
        congr 1
        omega
      rw [leNat, bits, hshift, ← bits, ih (Nat.lt_of_succ_lt_succ hj), List.getD_cons_succ]

/-- The data of a module's notice follow the two headers. -/
theorem noticeMsg_bytes {data : List Byte} (hlen : data.length ≤ 240) {j : Nat} (hj : j < data.length) :
    bits (noticeMsg data) (8 * (16 + j)) 8 = (data.getD j 0#8).toNat := by
  have hshift : noticeMsg data >>> (8 * (16 + j)) = leNat data >>> (8 * j) := by
    rw [noticeMsg, Nat.mul_add, Nat.shiftRight_add, Nat.shiftRight_eq_div_pow _ (8 * 16)]
    congr 1
    omega
  rw [bits, hshift, ← bits, bits_leNat data hj]

/-- A module's notice is posted by its core. -/
theorem ecall_posts {k ch : Nat} {a7 : Nat} {data : List Byte} (hruns : s.fwRuns = true) (hpolicy : s.policyRuns k = true)
    (hch : s.policyChannel ch = true) (ha : a7 = 1) (hlen : data.length ≤ 240) (hstate : (s.mbx ch).state = 0) :
    let t := (Act.moduleEcall k a7 ch data).run s
    (t.mbx ch).state = 2 ∧ (t.mbx ch).poster = 1 ∧ (t.mbx ch).core = 6 + k ∧
      (∀ j, j < data.length → bits (t.mbx ch).msg (8 * (16 + j)) 8 = (data.getD j 0#8).toNat) ∧ SameMem s t := by
  have hrun : (Act.moduleEcall k a7 ch data).run s = (Act.mbxTo ch (s.mbxPosted (.core (if k = 0 then 6 else 7)) ch true
      { s.mbx ch with holder := 1, core := 6 + k, msg := noticeMsg data })).run s := by
    simp only [Act.moduleEcall, Act.run_get, hruns, hpolicy, hch, hstate, ha, hlen, and_self, if_true, beq_self_eq_true, Bool.and_self, Act.when_true]
  rw [hrun]
  refine ⟨?_, ?_, ?_, fun j hj => ?_, (mbxTo_frame s ch _).1⟩
  · rw [mbxTo_mbx]; rfl
  · rw [mbxTo_mbx]; rfl
  · rw [mbxTo_mbx]; rfl
  · rw [mbxTo_mbx]
    exact (bits_setBits_apart (Or.inr (by omega))).trans (noticeMsg_bytes hlen hj)

theorem ecall_returns {k ch : Nat} {data : List Byte} (hruns : s.fwRuns = true) (hpolicy : s.policyRuns k = true) :
    let t := (Act.moduleEcall k 2 ch data).run s
    (t.policy k).call = false ∧ SameMem s t ∧ SameEntriesBut [] s t := by
  have hrun : (Act.moduleEcall k 2 ch data).run s = (Act.policy k fun p => { p with call := false }).run s := by
    rw [Act.moduleEcall, Act.run_get, hruns, hpolicy, Bool.and_self, Act.when_true, if_neg (fun h => absurd h.1 (by decide)), if_pos rfl]
  rw [hrun]
  exact ⟨by rw [policy_policy], Act.policy_touches k _ s⟩

theorem ecall_faults {k a7 ch : Nat} {data : List Byte} (hk : k < 2) (hruns : s.fwRuns = true) (hpolicy : s.policyRuns k = true)
    (hbad : a7 ≠ 1 ∨ 240 < data.length) (hend : a7 ≠ 2) : ((Act.moduleEcall k a7 ch data).run s).rd .policyState k = 2 := by
  rw [Act.moduleEcall, Act.run_get, hruns, hpolicy, Bool.and_self, Act.when_true, if_neg (by omega), if_neg hend]
  exact moduleFault_disables hk hpolicy

end

theorem kindNo_lt (kind : PolicyKind) : kindNo kind < 2 := by cases kind <;> decide

/-- Settles O36: each call is counted, hands the module its input and arguments, and then settles what it decides. -/
theorem policyModulesDecide : Obligations.PolicyModulesDecide := by
  unfold Obligations.PolicyModulesDecide
  intro s
  refine ⟨fun r kind v h hheld hf => ⟨_, rfl, policyLoad_loads (kindNo_lt kind) h hheld hf⟩,
    fun i order skip hruns hpolicy hlive hok => ⟨_, rfl, admission_decides hruns hpolicy hlive hok⟩,
    fun core slot choice hruns hpolicy hslot hchoice => ⟨_, rfl, scheduling_decides hruns hpolicy hslot hchoice⟩,
    fun kind ch hruns hpolicy hch => ⟨fun hstate hposter => ⟨fun hgood => ⟨_, rfl, notice_calls hruns hpolicy hch hstate hposter hgood⟩,
      fun hbad hdue => ?_⟩, fun data hlen hstate => ⟨_, rfl, ecall_posts hruns hpolicy hch rfl hlen hstate⟩⟩,
    fun kind a7 ch data hruns hpolicy => ⟨fun ha => ⟨_, rfl, ?_⟩, fun hbad hend => ⟨_, rfl, ecall_faults (kindNo_lt kind) hruns hpolicy ?_ ?_⟩⟩,
    fun i order skip hruns hpolicy hlive hbad => ⟨_, rfl, admission_overruns hruns hpolicy hlive hbad⟩,
    fun call m c hcall hruns hpolicy => ?_⟩
  · obtain ⟨⟨hstate', hposter', hmsg, -, hmem⟩, hkept⟩ := notice_malformed hruns hpolicy hch hstate hposter hbad hdue
    exact ⟨_, rfl, hstate', hposter', hmsg, hkept, hmem⟩
  · subst ha
    exact ecall_returns hruns hpolicy
  · exact hbad.imp_left fun h he => h (BitVec.eq_of_toNat_eq he)
  · exact fun he => hend (BitVec.eq_of_toNat_eq he)
  · have hcall' : (m, c) = callOf call := hcall.trans (by cases call <;> rfl)
    obtain ⟨hm, hc⟩ := Prod.mk.inj hcall'
    subst hm hc
    exact ⟨_, rfl, callLate_ends hruns hpolicy⟩

end Sys2Proof.Machine
end

section
/-! SUPPORT. Function-level resets (R393, R403, R417). -/

namespace Sys2Proof.Machine

/-! ### What the reset of a context leaves of other contexts, of the host interface and of memory -/

/-- The state of a context, the host interface, the teardowns, and memory. -/
def State.restView (s : State) (c : Nat) : Nat × HostU × Tab Tear × (MemSel → Nat → Nat → PBytes) :=
  (s.rd .ctxState c, s.u.host, s.u.core.tear, s.rdMem)

theorem State.restView_congr {s t : State} {c : Nat} (hrd : t.rd .ctxState c = s.rd .ctxState c) (hhost : t.u.host = s.u.host)
    (htear : t.u.core.tear = s.u.core.tear) (hmem : SameMem s t) : t.restView c = s.restView c := by
  rw [State.restView, State.restView, hrd, hhost, htear, show t.rdMem = s.rdMem from funext fun m => funext fun a => funext fun n => hmem m a n]

/-- The same but for the teardowns. -/
def State.flrView (s : State) (c : Nat) : Nat × HostU × (MemSel → Nat → Nat → PBytes) := (s.rd .ctxState c, s.u.host, s.rdMem)

theorem State.flrView_congr {s t : State} {c : Nat} (hrd : t.rd .ctxState c = s.rd .ctxState c) (hhost : t.u.host = s.u.host)
    (hmem : SameMem s t) : t.flrView c = s.flrView c := by
  rw [State.flrView, State.flrView, hrd, hhost, show t.rdMem = s.rdMem from funext fun m => funext fun a => funext fun n => hmem m a n]

section
variable {c : Nat}

abbrev Act.KeepsRest (c : Nat) (a : Act) : Prop := a.Keeps fun s => s.restView c
abbrev Act.KeepsFlr (c : Nat) (a : Act) : Prop := a.Keeps fun s => s.flrView c

theorem Act.KeepsRest.flr {a : Act} (h : a.KeepsRest c) : a.KeepsFlr c := fun s => congrArg (fun v => (v.1, v.2.1, v.2.2.2)) (h s)

theorem Act.units_keepsRest {g : Units → Units} (h : ∀ u, (g u).pow = u.pow ∧ (g u).host = u.host ∧ (g u).core.tear = u.core.tear) : (Act.units g).KeepsRest c := fun s =>
  State.restView_congr (s.rd_units _ (h s.u).1 .ctxState c) (h s.u).2.1 (h s.u).2.2 (sameMem_of_stores fun m => units_keeps_store m s)

theorem Act.reg_keepsRest {n : EName} {i v : Nat} (hc : c < 1024) (h : (n, i) ≠ (.ctxState, c)) : (Act.reg n i v).KeepsRest c := fun s =>
  State.restView_congr ((touches_reg (l := [(n, i)]) (by simp)).keepsRd hc (by simpa using Ne.symm h) s) (reg_keeps_u (g := Units.host) s) (reg_keeps_u (g := fun u => u.core.tear) s)
    (sameMem_of_stores fun m => reg_keeps_store m s)

theorem Act.fld_keepsRest {n : EName} {i off lo len v : Nat} (hc : c < 1024) (h : (n, i) ≠ (.ctxState, c)) : (Act.fld n i off lo len v).KeepsRest c :=
  keeps_get fun _ => reg_keepsRest hc h

theorem Act.trace_keepsRest (code engine ctx d0 d1 : Nat) : (Act.trace code engine ctx d0 d1).KeepsRest c :=
  units_keepsRest fun u => by split <;> exact ⟨rfl, rfl, rfl⟩

theorem Act.erase_keepsRest {n : EName} {i : Nat} (h : n.key i ≠ EName.ctxState.key c) : (Act.regErase n i).KeepsRest c := fun s => by
  refine State.restView_congr ?_ rfl rfl (sameMem_of_stores fun m => by cases m <;> rfl)
  have hget : tget ((Act.regErase n i).run s).regs (EName.ctxState.key c) = tget s.regs (EName.ctxState.key c) := tget_tdel_other _ (Ne.symm h)
  rw [State.rd, State.rd, if_neg (by simp [show EName.ctxState.info.pers = .vol from rfl]), if_neg (by simp [show EName.ctxState.info.pers = .vol from rfl]), hget]
  rfl

/-- Another entry than the context's state returns to its default. -/
theorem Act.eraseOther_keepsRest {n : EName} {i : Nat} (hc : c < 1024) (hi : i < n.count) (h : (n, i) ≠ (.ctxState, c)) : (Act.regErase n i).KeepsRest c :=
  erase_keepsRest fun hk => h (by obtain ⟨rfl, rfl, rfl⟩ := EName.key_inj hi hc hk; rfl)

/-- So does any entry of a session, whatever its number: sessions' entries lie above the contexts'. -/
theorem Act.eraseSession_keepsRest {n : EName} {i : Nat} (hc : c < 1024) (hn : n ∈ [EName.sessionDesc, .sessionState, .stepRead, .sessionCount]) :
    (Act.regErase n i).KeepsRest c := erase_keepsRest fun hk => by
  have hlow : EName.ctxState.key c < 0x5800 * 256 := by
    show (0x5400 + c / 1) * 256 + 3 + c % 1 < _
    omega
  have hhigh : 0x6200 * 256 ≤ n.key i := by
    have hidx : n.info.idxLo = 0x6200 := by
      simp only [List.mem_cons, List.not_mem_nil, or_false] at hn
      obtain rfl | rfl | rfl | rfl := hn <;> rfl
    rw [EName.key, hidx]
    generalize i / n.nsub = d
    generalize i % n.nsub = e
    omega
  omega

theorem Act.flowDisable_keepsRest (hc : c < 1024) (f : Nat) : (Act.flowDisable f).KeepsRest c :=
  keeps_get fun _ => keeps_when fun _ => keeps_seq
    (keeps_seq (fld_keepsRest hc (by simp)) <| keeps_seq (fld_keepsRest hc (by simp)) <| keeps_seq (keeps_get fun _ => trace_keepsRest _ _ _ _ _) keeps_skip) <|
    keeps_seq (fld_keepsRest hc (by simp)) <| keeps_seq (units_keepsRest fun _ => ⟨rfl, rfl, rfl⟩) keeps_skip

theorem Act.versGone_keepsRest (hc : c < 1024) (model : Nat) (gone : Nat → Bool) : (Act.versGone model gone).KeepsRest c :=
  keeps_get fun _ => keeps_seq (units_keepsRest fun _ => ⟨rfl, rfl, rfl⟩) <| keeps_when fun _ => keeps_get fun _ => keeps_when fun _ =>
    keeps_seq (keeps_get fun _ => fld_keepsRest hc (by simp)) (keeps_when fun _ => units_keepsRest fun _ => ⟨rfl, rfl, rfl⟩)

theorem Act.verRemoveOwner_keepsRest (hc : c < 1024) (ctx : Nat) : (Act.verRemoveOwner ctx).KeepsRest c :=
  keeps_get fun s => keeps_each fun model hmodel => by
    have hm : model < 256 := List.mem_range.1 (List.mem_filter.1 hmodel).1
    split
    · exact keeps_seq (versGone_keepsRest hc _ _) <| keeps_seq (eraseOther_keepsRest hc (n := .versionEntry) hm (by simp)) <|
        keeps_seq (eraseOther_keepsRest hc (n := .versionShare) hm (by simp)) <|
        keeps_seq (eraseOther_keepsRest hc (n := .repairSrc) hm (by simp)) keeps_skip
    · split
      · refine keeps_when fun _ => keeps_get fun s => ?_
        split
        · exact keeps_skip
        · exact keeps_seq (versGone_keepsRest hc _ _) <| keeps_seq (fld_keepsRest hc (by simp)) <| keeps_seq (fld_keepsRest hc (by simp)) <|
            keeps_seq (keeps_get fun _ => fld_keepsRest hc (by simp)) keeps_skip
      · exact keeps_skip

/-- A context that is reset at once leaves the others. -/
theorem Act.ctxRest_keepsRest (hc : c < 1024) (s : State) (ctx : Nat) : (Act.ctxRest s ctx).KeepsRest c :=
  keeps_seq (keeps_get fun s => keeps_each fun f hf => by
    have hlt := mem_flowList_lt (List.mem_filter.1 hf).1
    exact keeps_seq (flowDisable_keepsRest hc f) <| keeps_seq (eraseOther_keepsRest hc (n := .flowCfg) hlt (by simp)) <|
      keeps_seq (eraseOther_keepsRest hc (n := .flowState) hlt (by simp)) keeps_skip) <|
  keeps_seq (keeps_get fun _ => keeps_each fun g hg => eraseOther_keepsRest hc (n := .collGroup) (List.mem_range.1 (List.mem_filter.1 hg).1) (by simp)) <|
  keeps_seq (keeps_each fun i hi => keeps_seq (eraseOther_keepsRest hc (n := .lbrStream) (List.mem_range.1 (List.mem_filter.1 hi).1) (by simp)) <|
    keeps_seq (units_keepsRest fun _ => ⟨rfl, rfl, rfl⟩) keeps_skip) <|
  keeps_seq (keeps_get fun _ => keeps_each fun g hg => eraseOther_keepsRest hc (n := .splitGrad) (List.mem_range.1 (List.mem_filter.1 hg).1) (by simp)) <|
  keeps_seq (verRemoveOwner_keepsRest hc ctx) <|
  keeps_seq (keeps_each fun _ _ => keeps_seq (eraseSession_keepsRest hc (by simp)) <| keeps_seq (eraseSession_keepsRest hc (by simp)) <|
    keeps_seq (eraseSession_keepsRest hc (by simp)) <| keeps_seq (eraseSession_keepsRest hc (by simp)) <|
    keeps_seq (units_keepsRest fun _ => ⟨rfl, rfl, rfl⟩) keeps_skip) <|
  keeps_seq (units_keepsRest fun _ => ⟨rfl, rfl, rfl⟩) keeps_skip

theorem mem_tidsOf_lt {s : State} {ctx tid : Nat} (h : tid ∈ s.tidsOf ctx) : tid < 16384 := by
  rw [State.tidsOf, List.mem_filter, List.mem_filterMap] at h
  obtain ⟨⟨p, -, hp⟩, -⟩ := h
  generalize EName.tidOwner.key 0 = base at hp
  split at hp
  · next hkey =>
    obtain rfl := Option.some.inj hp
    omega
  · cases hp

theorem Act.ctxEntriesReset_keepsRest {ctx : Nat} (hc : c < 1024) (hctx : ctx < 1024) (hne : c ≠ ctx) : (Act.ctxEntriesReset ctx).KeepsRest c := fun s => by
  have hown : (Act.each ctxOwn fun n => .regErase n ctx).KeepsRest c := keeps_each fun n hn => by
    have hcount : n.count = 1024 := (by decide : ∀ n ∈ ctxOwn, n.count = 1024) n hn
    exact eraseOther_keepsRest hc (by omega) (by simp [hne.symm])
  have hqueues : (Act.each (s.queuesOf ctx) .queueDrop).KeepsRest c := keeps_each fun q hq => by
    have hlt := mem_queuesOf_lt hq
    exact keeps_seq (eraseOther_keepsRest hc (n := .queueCfg) hlt (by simp)) <| keeps_seq (eraseOther_keepsRest hc (n := .queueState) hlt (by simp)) <|
      keeps_seq (units_keepsRest fun _ => ⟨rfl, rfl, rfl⟩) keeps_skip
  have htids : (Act.each (s.tidsOf ctx) .tidRelease).KeepsRest c := keeps_each fun tid htid =>
    keeps_seq (eraseOther_keepsRest hc (n := .tidOwner) (mem_tidsOf_lt htid) (by simp)) (units_keepsRest fun _ => ⟨rfl, rfl, rfl⟩)
  rw [ctxEntriesReset_run]
  exact (hown _).trans ((ctxRest_keepsRest hc s ctx _).trans ((hqueues _).trans (htids s)))

theorem Act.phase_keepsRest (hc : c < 1024) : Act.phase.KeepsRest c := keeps_get fun _ => keeps_ite (fun _ => keeps_skip) fun _ =>
  keeps_seq (reg_keepsRest hc (by simp)) <| keeps_seq (keeps_get fun _ => fld_keepsRest hc (by simp)) <| keeps_seq (trace_keepsRest _ _ _ _ _) <|
    keeps_seq (units_keepsRest fun _ => ⟨rfl, rfl, rfl⟩) keeps_skip

theorem Act.tearStart_keepsHost (ctx : Nat) (t : Tear) : (Act.tearStart ctx t).Keeps fun s => s.u.host :=
  keeps_seq (keeps_get fun _ => fld_keeps_u) <| keeps_seq reg_keeps_u <| keeps_seq (keeps_get fun _ => keeps_each fun _ _ _ => rfl) <|
    keeps_seq (fun _ => rfl) <| keeps_seq (keeps_get fun _ => keeps_each fun _ _ => stallEnd_keeps (fun _ _ => rfl) (fun _ _ _ _ => count_keeps_u) _) <|
    keeps_seq (fun _ => rfl) <| keeps_seq (keeps_get fun _ => keeps_units fun s => by dsimp only; split <;> rfl) keeps_skip

theorem Act.tearStart_keepsFlr {ctx : Nat} (hc : c < 1024) (hne : c ≠ ctx) (t : Tear) : (Act.tearStart ctx t).KeepsFlr c := fun s => by
  have htouch := tearStart_touches ctx t
  refine State.flrView_congr (htouch.keepsRd hc ?_ s) (tearStart_keepsHost ctx t s) (htouch s).1
  simp only [List.mem_cons, Prod.mk.injEq, not_or]
  exact ⟨by simp, by simp [hne], fun h => by simp [stallCounters] at h⟩

theorem Act.ctxFreed_keepsRest {ctx : Nat} (hc : c < 1024) (hctx : ctx < 1024) (hne : c ≠ ctx) : (Act.ctxFreed ctx).KeepsRest c :=
  keeps_seq (keeps_get fun _ => trace_keepsRest _ _ _ _ _) <| keeps_seq (ctxEntriesReset_keepsRest hc hctx hne) <| keeps_seq (phase_keepsRest hc) keeps_skip

/-- A teardown that is followed by a reset. -/
def Act.resetAfter (ctx : Nat) : Act := .core fun c => { c with tear := tmod c.tear ctx {} fun t => { t with after := !t.reset } }

theorem Act.resetAfter_keepsFlr (hc : c < 1024) (ctx : Nat) : (Act.resetAfter ctx).KeepsFlr c := fun s =>
  have htouch : (Act.resetAfter ctx).Touches [] := touches_core _
  State.flrView_congr (htouch.keepsRd hc (by simp) s) rfl (htouch.keepsMem s)

theorem ctxReset_run (s : State) (ctx : Nat) : (Act.ctxReset ctx).run s =
    (if s.ctxState ctx = 1 then Act.tearStart ctx { reset := true } else if s.ctxState ctx = 2 then .resetAfter ctx else .ctxFreed ctx).run s := by
  rw [Act.ctxReset, Act.run_get]
  split
  · next h => rw [h]; rfl
  · next h => rw [h]; rfl
  · next h1 h2 => rw [if_neg h1, if_neg h2]; rfl

theorem Act.ctxReset_keepsFlr {ctx : Nat} (hc : c < 1024) (hctx : ctx < 1024) (hne : c ≠ ctx) : (Act.ctxReset ctx).KeepsFlr c := fun s => by
  rw [ctxReset_run]
  split
  · exact tearStart_keepsFlr hc hne _ s
  · split
    · exact resetAfter_keepsFlr hc ctx s
    · exact (ctxFreed_keepsRest hc hctx hne).flr s

/-- What becomes of a context that is reset. -/
def resetState (st : Nat) : Nat := if st = 1 ∨ st = 2 then 2 else 0

theorem ctxReset_state (s : State) {ctx : Nat} (hctx : ctx < 1024) : ((Act.ctxReset ctx).run s).ctxState ctx = resetState (s.ctxState ctx) := by
  rw [ctxReset_run, resetState]
  split
  · next h => rw [if_pos (Or.inl h)]; exact (s.tearStart_run hctx { reset := true }).teardown
  · next h1 =>
    split
    · next h => rw [if_pos (Or.inr h)]; exact h
    · next h2 =>
      obtain ⟨-, hfree, -⟩ := ctxFreed_frees s hctx
      rw [if_neg (not_or.2 ⟨h1, h2⟩)]
      exact hfree

end

/-! ### Each context of a list -/

/-- What the actions of a list do for one member of it, where those of the others leave it. -/
theorem each_at {α β : Type} {f : β → Act} {g : State → α} {h : α → α} {l : List β} {x : β} (hnodup : l.Nodup) (hx : x ∈ l)
    (hkeep : ∀ y ∈ l, y ≠ x → (f y).Keeps g) (hstep : ∀ s, g ((f x).run s) = h (g s)) (s : State) : g ((Act.each l f).run s) = h (g s) := by
  induction l generalizing s with
  | nil => cases hx
  | cons y l ih =>
    obtain ⟨hy, hl⟩ := List.nodup_cons.1 hnodup
    rw [Act.run_each_cons]
    rcases List.mem_cons.1 hx with rfl | hmem
    · have hrest : (Act.each l f).Keeps g := Act.keeps_each fun z hz => hkeep z (by simp [hz]) fun e => hy (e ▸ hz)
      rw [hrest, hstep]
    · rw [ih hl hmem (fun z hz => hkeep z (by simp [hz])), hkeep y (by simp) fun e => hy (e ▸ hmem)]

/-! ### The reset's own parts -/

/-- What the reset of a context leaves of the host interface and of memory. -/
theorem Act.ctxReset_keepsHost {ctx : Nat} (hctx : ctx < 1024) : (Act.ctxReset ctx).Keeps fun s => (s.u.host, s.rdMem) := fun s => by
  by_cases h : ctx = 0
  · exact congrArg Prod.snd (ctxReset_keepsFlr (c := 1) (by decide) hctx (by omega) s)
  · exact congrArg Prod.snd (ctxReset_keepsFlr (c := 0) (by decide) hctx (by omega) s)

/-- A channel that a function's reset has emptied. -/
def Mbx.cleared (x : Mbx) : Mbx := { seq := x.seq, coreEnable := x.coreEnable, msg := x.msg }

theorem mbxFlr_mbx (s : State) (ch : Nat) : ((Act.mbxFlr ch).run s).mbx ch = (s.mbx ch).cleared :=
  (State.mbx_mbxSet s ch (s.mbx ch).cleared :)

theorem Act.mbxFlr_keepsOthers {ch ch' : Nat} (h : ch ≠ ch') : (Act.mbxFlr ch).Keeps fun s => s.mbx ch' := fun s =>
  (tgetD_tset_other s.u.host.mbx (s.mbx ch).cleared {} h.symm :)

/-- What the reset of a channel leaves of the host interface: functions in reset, with ATS or as bus masters, and the vectors. -/
def HostU.flrPart (h : HostU) : List Nat × List Nat × List Nat × List (Nat × Vec) := (h.flr, h.ats, h.masters, h.vecs)

theorem Act.mbxFlr_keepsPart (ch : Nat) : (Act.mbxFlr ch).Keeps fun s => s.u.host.flrPart := keeps_get fun _ => keeps_seq (fun _ => rfl) fun _ => rfl

theorem Act.mbxFlr_touches (ch : Nat) : (Act.mbxFlr ch).Touches [] := touches_get fun _ => touches_seq (mbxSet_touches ch _) (touches_host _)

/-- What a function's reset does at once: it is in reset, its ATS, bus mastering and vectors are gone. -/
def Act.flrBegin (fn : Nat) : Act := .host fun h => { h with
  flr := sadd h.flr fn, ats := sdel h.ats fn, masters := sdel h.masters fn, vecs := h.vecs.filter fun p => p.1 / 2048 != fn }

/-- The dictionary after a function's reset: its port, its answers, and its hold of the CONFIG lock are gone (R438, R455). -/
def DictU.flr (fn : Nat) (d : DictU) : DictU := { d with
  ports := tdel d.ports fn
  ids := d.ids.filter fun p => reqFn p.1 != some fn
  holder := match d.holder with
    | some r => if reqFn r = some fn then none else some r
    | none => none }

/-- The reset of the entries of function 0 alone. -/
def Act.flrMbxCfg (fn : Nat) : Act := .when (fn == 0) (.each (List.range 64) fun c => .regErase .mbxCfg c)

/-- The reset of a function's event entries. -/
def eventEntries : List EName := [.eventVec, .evtRing, .evtWidx]
def Act.flrEvents (fn : Nat) : Act := .each eventEntries fun n => .regErase n fn

/-- The end of a function's reset: its entries, its port and its hold of the lock. -/
def Act.flrEntries (fn : Nat) : Act := .seq (.flrMbxCfg fn) (.seq (.dict (DictU.flr fn)) (.flrEvents fn))

/-- The contexts and the mailbox channels that a function's reset reaches. -/
def State.flrCtxs (s : State) (fn : Nat) : List Nat := (List.range 1024).filter fun c => fn == 0 || s.ctxFn c == fn
def State.flrChans (s : State) (fn : Nat) : List Nat := (List.range 64).filter fun c => s.mbxFn c == fn

theorem flr_run (s : State) (fn : Nat) (h : s.u.pow.linkUp = true) : (Act.flr fn).run s =
    (Act.flrEntries fn).run ((Act.each (s.flrChans fn) .mbxFlr).run ((Act.each (s.flrCtxs fn) .ctxReset).run ((Act.flrBegin fn).run s))) := by
  rw [Act.flr, Act.run_get, h, Act.run_when, if_pos rfl]
  simp only [Act.run_all_cons, Act.run_all_nil, Act.flrEntries, Act.flrEvents, eventEntries, Act.run_each_cons, Act.run_each_nil, Act.run_seq]
  rfl

theorem eventEntries_count {n : EName} (h : n ∈ eventEntries) : n.count = 32 := (by decide : ∀ n ∈ eventEntries, n.count = 32) n h

theorem Act.flrEntries_keepsFlr {c : Nat} (hc : c < 1024) {fn : Nat} (hfn : fn < 32) : (Act.flrEntries fn).KeepsFlr c :=
  KeepsRest.flr <| keeps_seq (keeps_when fun _ => keeps_each fun _ hi => eraseOther_keepsRest hc (n := .mbxCfg) (List.mem_range.1 hi) (by simp)) <|
  keeps_seq (units_keepsRest fun _ => ⟨rfl, rfl, rfl⟩) <|
  keeps_each fun n hn => eraseOther_keepsRest hc (hfn.trans_eq (eventEntries_count hn).symm) fun e => by
    obtain ⟨rfl, -⟩ := Prod.mk.inj e
    revert hn
    decide

/-- The event entries of a reset function read 0. -/
theorem flrEntries_rd (s : State) (fn : Nat) {n : EName} (hn : n ∈ eventEntries) : ((Act.flrEntries fn).run s).rd n fn = 0 := by
  refine (State.rd_unlisted _ ?_).trans ?_
  · exact each_unlists hn (fun y _ => Act.unlists_erase y fn) (fun x => regErase_unlisted n fn x) _
  · simp only [eventEntries, List.mem_cons, List.not_mem_nil, or_false] at hn
    obtain rfl | rfl | rfl := hn <;> rfl

/-- A function that was reset holds no lock. -/
theorem flrEntries_holder (s : State) (fn : Nat) {r : Requester} (h : ((Act.flrEntries fn).run s).u.dict.holder = some r) : reqFn r ≠ some fn := by
  have hbefore : (Act.flrMbxCfg fn).Keeps fun s => s.u.dict := Act.keeps_when fun _ => Act.keeps_each fun _ _ _ => rfl
  have hafter : (Act.flrEvents fn).Keeps fun s => s.u.dict := Act.keeps_each fun _ _ _ => rfl
  have hdict : ((Act.flrEntries fn).run s).u.dict = DictU.flr fn s.u.dict := by
    rw [Act.flrEntries, Act.run_seq, Act.run_seq]
    exact (hafter _).trans (congrArg (DictU.flr fn) (hbefore s))
  rw [hdict, DictU.flr] at h
  split at h
  · split at h
    · cases h
    · next hr => exact Option.some.inj h ▸ hr
  · cases h

/-! ### The whole reset -/

/-- What a function-level reset leaves of the function. -/
structure FlrDone (s t : State) (fn : Nat) : Prop where
  host : t.u.host.flrPart = ((Act.flrBegin fn).run s).u.host.flrPart
  ctx : ∀ c, c ∈ s.flrCtxs fn → t.ctxState c = resetState (s.ctxState c)
  chan : ∀ ch, ch ∈ s.flrChans fn → (t.mbx ch) = (s.mbx ch).cleared
  holder : ∀ r, t.u.dict.holder = some r → reqFn r ≠ some fn
  events : ∀ n ∈ eventEntries, t.rd n fn = 0
  mem : SameMem s t

theorem flr_done (s : State) {fn : Nat} (hfn : fn < 32) (h : s.u.pow.linkUp = true) : FlrDone s ((Act.flr fn).run s) fn := by
  rw [flr_run s fn h]
  have hctxs : ∀ c ∈ s.flrCtxs fn, c < 1024 := fun c hc => List.mem_range.1 (List.mem_filter.1 hc).1
  have hcnodup : (s.flrCtxs fn).Nodup := List.nodup_range.filter _
  have hmnodup : (s.flrChans fn).Nodup := List.nodup_range.filter _
  have hbegin : SameMem s ((Act.flrBegin fn).run s) := (Act.touches_host (l := []) _ s).1
  have hstate (c : Nat) : ((Act.flrBegin fn).run s).ctxState c = s.ctxState c :=
    (s.rd_units (fun u => { u with host := _ }) rfl .ctxState c :)
  have hmbx (ch : Nat) : ((Act.flrBegin fn).run s).mbx ch = s.mbx ch := rfl
  generalize hs0 : (Act.flrBegin fn).run s = s0 at hbegin hstate hmbx ⊢
  have hhost1 := Act.keeps_each (l := s.flrCtxs fn) (fun c hc => Act.ctxReset_keepsHost (hctxs c hc)) s0
  have hctx1 (c : Nat) (hc : c ∈ s.flrCtxs fn) := each_at (f := Act.ctxReset) (g := fun s => s.ctxState c) (h := resetState) (l := s.flrCtxs fn)
    hcnodup hc (fun y hy hne x => congrArg Prod.fst (Act.ctxReset_keepsFlr (hctxs c hc) (hctxs y hy) hne.symm x))
    (fun x => ctxReset_state x (hctxs c hc)) s0
  generalize (Act.each (s.flrCtxs fn) .ctxReset).run s0 = s1 at hhost1 hctx1 ⊢
  obtain ⟨hhost, hmem⟩ := Prod.mk.inj hhost1
  have htouch2 := Act.touches_each (l := []) (bs := s.flrChans fn) (fun ch _ => Act.mbxFlr_touches ch) s1
  have hpart2 := Act.keeps_each (l := s.flrChans fn) (fun ch _ => Act.mbxFlr_keepsPart ch) s1
  have hchan2 (ch : Nat) (hch : ch ∈ s.flrChans fn) := each_at (f := Act.mbxFlr) (g := fun s => s.mbx ch) (h := Mbx.cleared) (l := s.flrChans fn)
    hmnodup hch (fun y _ hne => Act.mbxFlr_keepsOthers hne) (fun x => mbxFlr_mbx x ch) s1
  generalize (Act.each (s.flrChans fn) .mbxFlr).run s1 = s2 at htouch2 hpart2 hchan2 ⊢
  have hview (c : Nat) (hc : c < 1024) := Act.flrEntries_keepsFlr hc hfn s2
  have hhost3 : ((Act.flrEntries fn).run s2).u.host = s2.u.host := congrArg (·.2.1) (hview 0 (by decide))
  have hmem3 : ((Act.flrEntries fn).run s2).rdMem = s2.rdMem := congrArg (·.2.2) (hview 0 (by decide))
  refine ⟨?_, fun c hc => ?_, fun ch hch => ?_, fun r hr => flrEntries_holder s2 fn hr, fun n hn => flrEntries_rd s2 fn hn, ?_⟩
  · rw [hhost3, hs0, ← hhost]
    exact hpart2
  · have hkept : s2.rd .ctxState c = s1.rd .ctxState c :=
      htouch2.2 .ctxState c (hctxs c hc) (by simp)
    calc _ = s2.ctxState c := congrArg Prod.fst (hview c (hctxs c hc))
      _ = s1.ctxState c := hkept
      _ = _ := by rw [hctx1 c hc, hstate]
  · calc State.mbx _ ch = s2.mbx ch := by rw [State.mbx, State.mbx, hhost3]
      _ = (s1.mbx ch).cleared := hchan2 ch hch
      _ = _ := by rw [State.mbx, hhost, ← hmbx ch, State.mbx]
  · intro m a n
    rw [hmem3, htouch2.1, hmem, hbegin]

/-- The acknowledgement of a function's reset. -/
theorem flrComplete_done (s : State) (fn : Fin 32) : Completes (.flrComplete fn) s fun t => fn.val ∉ t.u.host.flr ∧
    (∀ k, t.asserted k (72 + fn.val) = false) ∧ SameMem s t ∧ SameEntriesBut [] s t := by
  have hgone : fn.val ∉ sdel s.u.host.flr fn.val := fun h => (mem_sdel.1 h).2 rfl
  refine ⟨_, rfl, hgone, fun k => ?_, (Act.touches_host (l := []) _ s)⟩
  have h1 : ¬72 + fn.val < 64 := by omega
  have h2 : ¬72 + fn.val < 72 := by omega
  have h3 : 72 + fn.val < 104 := by omega
  have h4 : (sdel s.u.host.flr fn.val).contains (72 + fn.val - 72) = false := by simpa using hgone
  rw [State.asserted, if_neg h1, if_neg h2, if_pos h3]
  exact (congrArg (_ && ·) h4).trans (Bool.and_false _)

/-- Settles O29. Each context's reset leaves the other contexts, the host interface and memory as they were (`Act.ctxReset_keepsFlr`), each
channel's reset the other channels, so `each_at` gives what becomes of one of them, and the entries that follow touch neither. -/
theorem functionLevelResetResets : Obligations.FunctionLevelResetResets := by
  unfold Obligations.FunctionLevelResetResets
  intro s fn
  refine ⟨fun hlink => ?_, flrComplete_done s fn⟩
  have hdone := flr_done s fn.isLt hlink
  refine ⟨(Act.flr fn).run s, rfl, ?_⟩
  generalize (Act.flr fn).run s = t at hdone
  obtain ⟨hhost, hctx, hchan, hholder, hevents, hmem⟩ := hdone
  simp only [HostU.flrPart, Prod.mk.injEq] at hhost
  obtain ⟨hflr, hats, hmasters, hvecs⟩ := hhost
  have hin : fn.val ∈ t.u.host.flr := hflr ▸ mem_sadd _ _
  refine ⟨hin, ?_, ?_, ?_, fun c hc hfn => ?_, fun ch hch hfn => ?_, fun v hv => ?_, hholder, hevents _ (by simp [eventEntries]),
    hevents _ (by simp [eventEntries]), hevents _ (by simp [eventEntries]), hmem⟩
  · rw [hats]
    exact fun h => (mem_sdel.1 h).2 rfl
  · rw [hmasters]
    exact fun h => (mem_sdel.1 h).2 rfl
  · have h1 : ¬72 + fn.val < 64 := by omega
    have h2 : ¬72 + fn.val < 72 := by omega
    have h3 : 72 + fn.val < 104 := by omega
    rw [State.asserted, if_neg h1, if_neg h2, if_pos h3, beq_self_eq_true, Bool.true_and, Nat.add_sub_cancel_left]
    simpa using hin
  · exact hctx c (List.mem_filter.2 ⟨List.mem_range.2 hc, by simpa using hfn⟩)
  · rw [hchan ch (List.mem_filter.2 ⟨List.mem_range.2 hch, by simpa using hfn⟩)]
    exact ⟨rfl, rfl, rfl, rfl⟩
  · have hnone : tget t.u.host.vecs (fn.val * 2048 + v) = none := by
      rw [hvecs]
      refine (tget_filter _ (fun j => j / 2048 != fn.val) _).trans (if_neg ?_)
      simp
      omega
    rw [State.vec, tgetD, hnone]
    rfl

end Sys2Proof.Machine
end

section
/-! SUPPORT. A write through BAR4 past the end of stack memory (R263, R265, R408). -/

namespace Sys2Proof.Machine

/-- A layout that no write of the size entries gives (R265): a core's spill region of 2,000 MiB, so that the cores' shares end past stack
memory. -/
def wideLayout : MemU := { scree := 0, gbank := 0, spill := 2000 }

/-- BAR4 begins where stack memory ends, under the wide layout. -/
def wideState : State := { Probe.bar stackSize with u := { (Probe.bar stackSize).u with mem := wideLayout } }

theorem wideLayout_notOk : layoutOk wideLayout = false := by decide +kernel

theorem wideState_inv : wideState.Inv :=
  (resetMeetsTheInvariant.apply (.reg .apertureBase 0 stackSize)).of_same (fun m => by cases m <;> rfl) rfl

/-- The write is let through, and the region past stack memory counts as a core's spill region. -/
theorem wideState_free : wideState.hostReach = true ∧ wideState.u.mem.faulty = false ∧ wideState.u.pow.failedCh = [] ∧
    (wideState.u.pow.nap = false ∧ wideState.u.pow.napEntering = false ∧ wideState.apHolds (.write 0 [1#8] false) = false ∧
      wideState.u.pow.memOn = true) ∧
    wideState.rd .apertureBase = stackSize ∧ wideState.u.mem.region stackSize = .spill 149 ∧ 1 ≤ 2 ^ (30 + wideState.u.host.bar4) := by
  decide +kernel

/-- Stack memory has no byte there, so nothing is stored. -/
theorem wideState_drops : ((Act.aperture (.write 0 [1#8] false)).run wideState).stack.byte stackSize = 0#8 := by decide +kernel

/-- Refutes O30: its clause on writes takes any layout of stack memory. In `wideState` the cores' shares end past stack memory, so the byte
at its end lies in a writable region and yet is not stored, where the statement says that it reads what was written. -/
theorem not_apertureReachesMemory : ¬ Obligations.ApertureReachesMemory := by
  unfold Obligations.ApertureReachesMemory
  intro h
  obtain ⟨hreach, hfaulty, hchannels, hfree, hbase, hregion, hsize⟩ := wideState_free
  obtain ⟨-, hwrite⟩ := h wideState 0#36 hreach hfaulty
  obtain ⟨hdone, -⟩ := hwrite [1#8] false
  obtain ⟨t, ht, -, -, hbytes, -⟩ := hdone (by simpa using hsize) hfree wideState_inv hchannels
  have ht' : (Act.aperture (.write 0 [1#8] false)).outcome wideState = .next t := ht
  obtain rfl := Host.Outcome.next.inj ht'
  have hbyte := hbytes stackSize
  have hin : wideState.rd .apertureBase + (0#36).toNat ≤ stackSize ∧
      stackSize < wideState.rd .apertureBase + (0#36).toNat + [1#8].length ∧ apWritable (wideState.u.mem.region stackSize) = true := by
    rw [hbase, hregion]
    decide
  rw [if_pos hin, hbase, wideState_drops] at hbyte
  exact absurd hbyte (by decide)

end Sys2Proof.Machine
end

section
/-! SUPPORT. The end of a teardown (R392, R393). -/

namespace Sys2Proof.Machine

/-! ### One action of several brings a fact about -/

/-- A fact that the action of one member brings about, and that the others leave, where all of them leave what it rests on. -/
theorem each_reaches {β : Type} {I P : State → Prop} {f : β → Act} {l : List β} {x : β} (hx : x ∈ l)
    (hI : ∀ y ∈ l, ∀ s, I s → I ((f y).run s)) (hP : ∀ y ∈ l, ∀ s, I s → P s → P ((f y).run s)) (hstep : ∀ s, I s → P ((f x).run s))
    {s : State} (h : I s) : P ((Act.each l f).run s) := by
  have hstays : ∀ l' : List β, (∀ y ∈ l', y ∈ l) → ∀ s, I s → P s → P ((Act.each l' f).run s) := fun l' => by
    induction l' with
    | nil => exact fun _ _ _ hp => hp
    | cons y l' ih =>
      intro hl s hi hp
      rw [Act.run_each_cons]
      exact ih (fun z hz => hl z (by simp [hz])) _ (hI y (hl y (by simp)) s hi) (hP y (hl y (by simp)) s hi hp)
  have hcomes : ∀ l' : List β, (∀ y ∈ l', y ∈ l) → x ∈ l' → ∀ s, I s → P ((Act.each l' f).run s) := fun l' => by
    induction l' with
    | nil => exact fun _ hx' => absurd hx' (by simp)
    | cons y l' ih =>
      intro hl hx' s hi
      rw [Act.run_each_cons]
      rcases List.mem_cons.1 hx' with rfl | hmem
      · exact hstays l' (fun z hz => hl z (by simp [hz])) _ (hI x hx s hi) (hstep s hi)
      · exact ih (fun z hz => hl z (by simp [hz])) hmem _ (hI y (hl y (by simp)) s hi)
  exact hcomes l (fun _ h => h) hx s h

/-! ### What a context's slots, groups, screes, flows and versions take with them -/

/-- What an entry reads, the queues' streams, and the teardowns. -/
def State.tornView (s : State) (m : EName) (j : Nat) : Nat × Tab Stream × Tab Tear := (s.rd m j, s.u.core.streams, s.u.core.tear)

/-- The entries that the end of a teardown writes besides those of queues, sessions and the context. -/
def partEntries : List EName := [.screeState, .lbrStream, .flowState, .versionEntry, .versionShare, .repairSrc, .moltCount]

section
variable {m : EName} {j : Nat} {a : Act}

/-- The action leaves the view, and the sessions. -/
def Act.KeepsTorn (m : EName) (j : Nat) (a : Act) : Prop := a.Keeps fun s => (s.tornView m j, s.u.sess)

theorem Act.KeepsTorn.view (h : a.KeepsTorn m j) : a.Keeps fun s => s.tornView m j := fun s => congrArg Prod.fst (h s)
theorem Act.KeepsTorn.sess (h : a.KeepsTorn m j) : a.Keeps fun s => s.u.sess := fun s => congrArg Prod.snd (h s)

theorem Act.keepsTorn_units {g : Units → Units} (h : ∀ u, (g u).pow = u.pow ∧ (g u).core.streams = u.core.streams ∧
    (g u).core.tear = u.core.tear ∧ (g u).sess = u.sess) : (Act.units g).KeepsTorn m j := fun s => by
  obtain ⟨hpow, hstreams, htear, hsess⟩ := h s.u
  exact Prod.ext (Prod.ext (s.rd_units _ hpow m j) (Prod.ext hstreams htear)) hsess

section
variable (hj : j < m.count)
include hj

theorem Act.keepsTorn_reg {n : EName} {i v : Nat} (hn : n ≠ m) : (Act.reg n i v).KeepsTorn m j := fun s =>
  Prod.ext (Prod.ext (reg_keepsOther hj (by simp [hn.symm]) s) (reg_keeps_u (g := fun u => (u.core.streams, u.core.tear)) s))
    (reg_keeps_u (g := fun u => u.sess) s)

theorem Act.keepsTorn_fld {n : EName} {i off lo len v : Nat} (hn : n ≠ m) : (Act.fld n i off lo len v).KeepsTorn m j :=
  keeps_get fun _ => keepsTorn_reg hj hn

theorem Act.keepsTorn_erase {n : EName} {i : Nat} (hi : i < n.count) (hn : n ≠ m) : (Act.regErase n i).KeepsTorn m j := fun s => by
  have hkey : m.key j ≠ n.key i := fun he => hn (EName.key_inj hj hi he).1.symm
  have hget : tget ((Act.regErase n i).run s).regs (m.key j) = tget s.regs (m.key j) := tget_tdel_other _ hkey
  have hrd : ((Act.regErase n i).run s).rd m j = s.rd m j := by
    rw [State.rd, State.rd, hget]
    rfl
  exact Prod.ext (Prod.ext hrd rfl) rfl

section
variable (hm : m ∉ partEntries)
include hm

omit hj in
theorem notPart {n : EName} (hn : n ∈ partEntries) : n ≠ m := fun h => hm (h ▸ hn)

theorem Act.versGone_keepsTorn (model : Nat) (gone : Nat → Bool) : (Act.versGone model gone).KeepsTorn m j :=
  keeps_get fun _ => keeps_seq (keepsTorn_units fun _ => ⟨rfl, rfl, rfl, rfl⟩) <| keeps_when fun _ => keeps_get fun _ => keeps_when fun _ =>
    keeps_seq (keeps_get fun _ => keepsTorn_fld hj (notPart hm (by decide))) (keeps_when fun _ => keepsTorn_units fun _ => ⟨rfl, rfl, rfl, rfl⟩)

theorem Act.verOldGone_keepsTorn (model v : Nat) : (Act.all [.verDrop model v, .fld .versionEntry model 0 32 17 0,
    .fld .versionEntry model 0x10 0 48 0, .verPoison model]).KeepsTorn m j :=
  have hne : EName.versionEntry ≠ m := notPart hm (by decide)
  keeps_seq (versGone_keepsTorn hj hm _ _) <| keeps_seq (keepsTorn_fld hj hne) <| keeps_seq (keepsTorn_fld hj hne) <|
    keeps_seq (keeps_get fun _ => keepsTorn_fld hj hne) keeps_skip

theorem Act.verRemoveOwner_keepsTorn (ctx : Nat) : (Act.verRemoveOwner ctx).KeepsTorn m j :=
  keeps_get fun s => keeps_each fun model hmodel => by
    have hlt : model < 256 := List.mem_range.1 (List.mem_filter.1 hmodel).1
    split
    · exact keeps_seq (versGone_keepsTorn hj hm _ _) <|
        keeps_seq (keepsTorn_erase hj (n := .versionEntry) hlt (notPart hm (by decide))) <|
        keeps_seq (keepsTorn_erase hj (n := .versionShare) hlt (notPart hm (by decide))) <|
        keeps_seq (keepsTorn_erase hj (n := .repairSrc) hlt (notPart hm (by decide))) keeps_skip
    · split
      · refine keeps_when fun _ => keeps_get fun s => ?_
        split
        · exact keeps_skip
        · exact verOldGone_keepsTorn hj hm _ _
      · exact keeps_skip

theorem Act.verSweep_keepsTorn (model : Nat) : (Act.verSweep model).KeepsTorn m j := keeps_get fun s => by
  split
  · exact keeps_skip
  · refine keeps_when fun _ => keeps_get fun s => ?_
    split
    · exact keeps_skip
    · exact verOldGone_keepsTorn hj hm _ _

theorem Act.screeDropOf_keepsTorn (ctx : Nat) : (Act.screeDropOf ctx).KeepsTorn m j := keeps_get fun _ => keeps_each fun p _ =>
  have hne : EName.screeState ≠ m := notPart hm (by decide)
  keeps_seq (keepsTorn_units fun _ => ⟨rfl, rfl, rfl, rfl⟩) <| keeps_get fun _ =>
    keeps_seq (keepsTorn_fld hj hne) <| keeps_seq (keepsTorn_fld hj hne) <| keeps_seq (keepsTorn_fld hj hne) <|
    keeps_seq (keepsTorn_fld hj hne) <| keeps_seq (keepsTorn_fld hj hne) <| keeps_seq (keepsTorn_fld hj hne) keeps_skip

theorem Act.flowDisable_keepsTorn (f : Nat) : (Act.flowDisable f).KeepsTorn m j :=
  have hne : EName.flowState ≠ m := notPart hm (by decide)
  keeps_get fun _ => keeps_when fun _ => keeps_seq
    (keeps_seq (keepsTorn_fld hj hne) <| keeps_seq (keepsTorn_fld hj hne) <|
      keeps_seq (keeps_get fun _ => keepsTorn_units fun _ => by split <;> exact ⟨rfl, rfl, rfl, rfl⟩) keeps_skip) <|
    keeps_seq (keepsTorn_fld hj hne) <| keeps_seq (keepsTorn_units fun _ => ⟨rfl, rfl, rfl, rfl⟩) keeps_skip

theorem Act.lbrDropOf_keepsTorn (ctx : Nat) : (Act.lbrDropOf ctx).KeepsTorn m j := keeps_get fun _ => keeps_each fun _ _ =>
  keeps_seq (keepsTorn_fld hj (notPart hm (by decide))) (keepsTorn_units fun _ => ⟨rfl, rfl, rfl, rfl⟩)

end
end
end

/-! ### Sessions (R339, R392) -/

/-- The record of an aborted session keeps its context and its description alone, and its pages return. -/
def Units.aborted (ctx : Nat) (p : Nat × Sess) (u : Units) : Units := { u with
  sess := tset u.sess p.1 { ctx := ctx, d := p.2.d }
  tarnPend := u.tarnPend ++ (p.2.seqs.filter fun q => !q.pages.flatten.isEmpty).map fun q => (q.handle.getD 0, ctx, q.pages.flatten) }

/-- A session ends aborted. -/
def Act.sesAborted (s : State) (ctx : Nat) (p : Nat × Sess) : Act :=
  .all [.when (s.sesLive p.1 || s.rd .sessionState p.1 == 3) (.reg .sessionState p.1 4), .units (.aborted ctx p), .verSweep p.2.model]

/-- The sessions of a context that its teardown aborts. -/
def State.sesAborting (s : State) (ctx : Nat) : List (Nat × Sess) :=
  s.u.sess.filter fun p => p.2.ctx == ctx && (s.sesLive p.1 || s.rd .sessionState p.1 == 3 || p.2.opening)

theorem sesAbort_run (s : State) (ctx : Nat) : (Act.sesAbort ctx).run s = (Act.each (s.sesAborting ctx) (.sesAborted s ctx)).run s := rfl

/-- What follows a session's abort leaves the entries that the abort does not name. -/
theorem Act.sesGone_keepsView {m : EName} {j : Nat} (hj : j < m.count) (hm : m ∉ partEntries) (ctx : Nat) (p : Nat × Sess) :
    (Act.all [.units (.aborted ctx p), .verSweep p.2.model]).Keeps fun s => s.tornView m j :=
  keeps_seq (fun s => Prod.ext (s.rd_units (.aborted ctx p) rfl m j) rfl) <| keeps_seq (verSweep_keepsTorn hj hm p.2.model).view keeps_skip

theorem Act.reg_keepsView {m n : EName} {i j v : Nat} (hj : j < m.count) (h : (m, j) ≠ (n, i)) :
    (Act.reg n i v).Keeps fun s => s.tornView m j := fun s =>
  Prod.ext (reg_keepsOther hj h s) (reg_keeps_u (g := fun u => (u.core.streams, u.core.tear)) s)

theorem Act.sesAborted_keepsView {m : EName} {j : Nat} (hj : j < m.count) (hm : m ∉ partEntries) {p : Nat × Sess}
    (h : (m, j) ≠ (.sessionState, p.1)) (s : State) (ctx : Nat) : (Act.sesAborted s ctx p).Keeps fun s => s.tornView m j :=
  keeps_seq (keeps_when fun _ => reg_keepsView hj h) (sesGone_keepsView hj hm ctx p)

theorem Act.sesAbort_keepsView {m : EName} {j : Nat} (hj : j < m.count) (hm : m ∉ partEntries) (hs : m ≠ .sessionState) (ctx : Nat) :
    (Act.sesAbort ctx).Keeps fun s => s.tornView m j := fun s => by
  rw [sesAbort_run]
  exact keeps_each (fun p _ => sesAborted_keepsView hj hm (by simp [hs]) s ctx) s

/-- A session of the context that runs or is DRAINED reads ABORTED. -/
theorem sesAbort_aborts (s : State) {ctx i : Nat} (hi : i < 256) (hlisted : (tget s.u.sess i).isSome = true) (hctx : (s.ses i).ctx = ctx)
    (hstate : s.sesLive i = true ∨ s.rd .sessionState i = 3) : ((Act.sesAbort ctx).run s).rd .sessionState i = 4 := by
  obtain ⟨x, hx⟩ := Option.isSome_iff_exists.1 hlisted
  have hses : s.ses i = x := by rw [State.ses, tgetD, hx]; rfl
  have hcond : (s.sesLive i || s.rd .sessionState i == 3) = true := by simpa using hstate
  have hmem : (i, x) ∈ s.sesAborting ctx := List.mem_filter.2 ⟨tget_mem hx, by simp [← hses, hctx, hcond]⟩
  have hone {p : Nat × Sess} (hp : p.1 = i) (y : State) : ((Act.sesAborted s ctx p).run y).rd .sessionState i = 4 := by
    have hrest := Act.sesGone_keepsView (m := .sessionState) (j := i) hi (by decide) ctx p ((Act.reg .sessionState i 4).run y)
    have hreg : ((Act.reg .sessionState i 4).run y).rd .sessionState i = 4 := y.rd_reg 4 ⟨hi, by decide, fun h => nomatch h⟩
    rw [Act.sesAborted, Act.run_all_cons, hp, hcond, Act.run_when, if_pos rfl]
    exact (congrArg Prod.fst hrest).trans hreg
  rw [sesAbort_run]
  refine each_reaches (I := fun _ => True) (P := fun y => y.rd .sessionState i = 4) hmem (fun _ _ _ _ => trivial) (fun p _ y _ hy => ?_)
    (fun y _ => hone rfl y) trivial
  by_cases hp : p.1 = i
  · exact hone hp y
  · exact (congrArg Prod.fst (Act.sesAborted_keepsView (m := .sessionState) hi (by decide) (by simpa using Ne.symm hp) s ctx y)).trans hy

/-! ### Queues (R392, R394) -/

theorem Act.keepsView_of {m : EName} {j : Nat} {a : Act} (hrd : a.Keeps fun s => s.rd m j) (hcore : a.KeepsCore) :
    a.Keeps fun s => s.tornView m j := fun s => Prod.ext (hrd s) (congrArg (fun c => (c.streams, c.tear)) (hcore s))

theorem Aside.noteRead {α : Type} {f : State → α} (h : Aside f) (m : MemSel) (a n : Nat) : (Act.noteRead m a n).Keeps f := by
  cases m
  · exact Act.keeps_get fun _ => Act.keeps_each fun _ _ => h.burstRead _ _
  · exact Act.keeps_skip
  · exact Act.keeps_skip

theorem Aside.rdCtx {α : Type} {f : State → α} (h : Aside f) (ctx dva n : Nat) : (Act.rdCtx ctx dva n fun _ => .skip).Keeps f :=
  Act.keeps_get fun _ => Act.keeps_seq (h.noteWalks _ _ _) <| by
    split
    · exact Act.keeps_skip
    · refine Act.keeps_seq (Act.keeps_each fun p _ => ?_) Act.keeps_skip
      split
      · exact Act.keeps_get fun _ => Act.keeps_when fun _ => Act.keeps_seq (h.count (by decide)) (h.errEvent _ _)
      · exact h.noteRead _ _ _

theorem Act.noteRead_keepsCore (m : MemSel) (a n : Nat) : (Act.noteRead m a n).KeepsCore := by
  cases m
  · exact keeps_get fun _ => keeps_each fun _ _ => burstRead_keepsCore _ _
  · exact keeps_skip
  · exact keeps_skip

theorem Act.rdCtx_keepsCore (ctx dva n : Nat) : (Act.rdCtx ctx dva n fun _ => .skip).KeepsCore :=
  keeps_get fun _ => keeps_seq (noteWalks_keepsCore _ _ _) <| by
    split
    · exact keeps_skip
    · refine keeps_seq (keeps_each fun p _ => ?_) keeps_skip
      split
      · exact keeps_get fun _ => keeps_when fun _ => keeps_seq count_keepsCore (errEvent_keepsCore _ _)
      · exact noteRead_keepsCore _ _ _

/-- The records of a queue's commands, before HEAD moves. -/
def Act.tearRecords (s : State) (ctx : Nat) (t : Tear) (had : List Fetched) (q : Nat) : Act :=
  .all [.each ((s.stream q).fly.takeWhile Fly.done) fun f => match jobCounter f with | some k => .count .jobCount ctx k | none => .skip,
    .when (s.qKind q == 0 && s.tells) (.each (List.range (dist32 (s.qHead q) (s.qTail q))) fun i => .get fun s =>
      let idx := idx32 (s.qHead q + i)
      .seq (.when (s.descHad had q idx).isNone (.noteReads ctx [(s.descAddr q idx, 64)])) <|
      .wrCtx ctx (s.qCq q + idx % s.qSize q * 32) (s.tearRecord t had q idx) fun _ => .skip)]

/-- What a queue's context is told once HEAD has moved. -/
def Act.tearTold (s : State) (ctx : Nat) (t : Tear) (q : Nat) : Act :=
  .all [.when (s.qValid q && s.tells) (.wrCtx ctx (s.qHeadAddr q) (cleanBytes 4 (s.qTail q)) fun _ => .skip),
    .when (dist32 (s.qHead q) (s.qTail q) != 0 && s.qKind q == 0 && s.tells) (.msix (s.ctxFn ctx) (s.qVec q)),
    .when ((s.stream q).jobOpen && !t.reset) (.count .jobCount ctx 2)]

theorem Act.run_seven (a b c d e f g : Act) (s : State) :
    (Act.all [a, b, c, d, e, f, g]).run s = g.run ((Act.all [d, e, f]).run (c.run ((Act.all [a, b]).run s))) := rfl

theorem tearQueue_run (s : State) (ctx : Nat) (t : Tear) (had : List Fetched) (q : Nat) : (Act.tearQueue ctx t had q).run s =
    (Act.stream q fun _ => { next := s.qTail q }).run ((Act.tearTold s ctx t q).run ((Act.fld .queueState q 0 0 32 (s.qTail q)).run
      ((Act.tearRecords s ctx t had q).run s))) := by
  rw [Act.tearQueue, Act.run_get, Act.tearRecords, Act.tearTold]
  exact Act.run_seven _ _ _ _ _ _ _ s

section
variable {m : EName} {j : Nat} (hj : j < m.count) (hside : m ∉ sideEntries) (hjob : m ≠ .jobCount)
include hj hside hjob

omit hside in
theorem Act.countJob_keepsView (ctx k : Nat) : (Act.count .jobCount ctx k).Keeps fun s => s.tornView m j :=
  keeps_get fun _ => keeps_get fun _ => reg_keepsView hj (by simp [hjob])

omit hjob in
theorem Act.wrCtx_keepsView (ctx dva : Nat) (bs : PBytes) : (Act.wrCtx ctx dva bs fun _ => .skip).Keeps fun s => s.tornView m j :=
  keepsView_of ((Aside.rd hside hj).wrCtx ctx dva bs) (wrCtx_keepsCore (f := id) fun _ => keeps_skip)

theorem Act.tearRecords_keepsView (s : State) (ctx : Nat) (t : Tear) (had : List Fetched) (q : Nat) :
    (Act.tearRecords s ctx t had q).Keeps fun s => s.tornView m j :=
  keeps_seq (keeps_each fun f _ => by
    split
    · exact countJob_keepsView hj hjob ctx _
    · exact keeps_skip) <|
  keeps_seq (keeps_when fun _ => keeps_each fun _ _ => keeps_get fun _ =>
    keeps_seq (keeps_when fun _ => keeps_each fun _ _ => keepsView_of ((Aside.rd hside hj).rdCtx _ _ _) (rdCtx_keepsCore _ _ _))
      (wrCtx_keepsView hj hside _ _ _)) keeps_skip

theorem Act.tearTold_keepsView (s : State) (ctx : Nat) (t : Tear) (q : Nat) : (Act.tearTold s ctx t q).Keeps fun s => s.tornView m j :=
  keeps_seq (keeps_when fun _ => wrCtx_keepsView hj hside _ _ _) <|
  keeps_seq (keeps_when fun _ => keepsView_of ((Aside.rd hside hj).msix _ _) (msix_keepsCore _ _)) <|
  keeps_seq (keeps_when fun _ => countJob_keepsView hj hjob ctx 2) keeps_skip

end

section
variable (ctx : Nat) (x : Tear) (had : List Fetched)

/-- A queue's end leaves the entries that it does not name, and the teardowns. -/
theorem tearQueue_leaves (s : State) (q : Nat) {m : EName} {j : Nat} (hj : j < m.count) (hside : m ∉ sideEntries) (hjob : m ≠ .jobCount)
    (h : (m, j) ≠ (.queueState, q)) : let t := (Act.tearQueue ctx x had q).run s
    t.rd m j = s.rd m j ∧ t.u.core.tear = s.u.core.tear ∧ ∀ p, p ≠ q → t.stream p = s.stream p := by
  intro t
  have hview : (((Act.tearTold s ctx x q).run ((Act.fld .queueState q 0 0 32 (s.qTail q)).run ((Act.tearRecords s ctx x had q).run s))).tornView
      m j) = s.tornView m j :=
    (Act.tearTold_keepsView hj hside hjob s ctx x q _).trans <|
      (Act.keeps_get (fun _ => Act.reg_keepsView hj h) _).trans (Act.tearRecords_keepsView hj hside hjob s ctx x had q s)
  obtain ⟨hrd, hcore⟩ := Prod.mk.inj hview
  obtain ⟨hstreams, htear⟩ := Prod.mk.inj hcore
  have ht : t = _ := tearQueue_run s ctx x had q
  generalize (Act.tearTold s ctx x q).run _ = y at *
  rw [ht]
  refine ⟨((Act.touches_core (l := []) _).keepsRd hj (by simp) y).trans hrd, htear, fun p hp => ?_⟩
  rw [State.stream, State.stream, ← hstreams]
  exact (tgetD_tmod_other y.u.core.streams {} (fun _ => { next := s.qTail q }) hp :)

/-- HEAD of a queue that ends reads TAIL, and its stream is idle. -/
theorem tearQueue_ends (s : State) {q : Nat} (hq : q < 65536) : let t := (Act.tearQueue ctx x had q).run s
    t.qTail q = s.qTail q ∧ t.qHead q = s.qTail q ∧ t.stream q = { next := s.qTail q } := by
  intro t
  have hrecords := congrArg Prod.fst (Act.tearRecords_keepsView (m := .queueState) (j := q) hq (by decide) (by decide) s ctx x had q s)
  have ht : t = _ := tearQueue_run s ctx x had q
  set y := (Act.tearRecords s ctx x had q).run s
  have hset : Settable y .queueState q := ⟨hq, by decide, fun h => nomatch h⟩
  have htold := congrArg Prod.fst (Act.tearTold_keepsView (m := .queueState) (j := q) hq (by decide) (by decide) s ctx x q
    ((Act.fld .queueState q 0 0 32 (s.qTail q)).run y))
  set z := (Act.tearTold s ctx x q).run ((Act.fld .queueState q 0 0 32 (s.qTail q)).run y)
  have hkept : t.rd .queueState q = z.rd .queueState q := by
    rw [ht]
    exact (Act.touches_core (l := []) _).keepsRd hq (by simp) z
  have hlt : s.qTail q < 2 ^ 32 := bits_lt _ _ _
  refine ⟨?_, ?_, ?_⟩
  · calc t.qTail q = ((Act.fld .queueState q 0 0 32 (s.qTail q)).run y).qTail q := by
          rw [State.qTail, State.qTail, State.fld, State.fld, hkept]
          exact congrArg (bits · _ _) htold
      _ = y.qTail q := y.fld_fld_apart _ hset (by decide) (by decide)
      _ = s.qTail q := congrArg (bits · _ _) hrecords
  · calc t.qHead q = ((Act.fld .queueState q 0 0 32 (s.qTail q)).run y).qHead q := by
          rw [State.qHead, State.qHead, State.fld, State.fld, hkept]
          exact congrArg (bits · _ _) htold
      _ = s.qTail q % 2 ^ 32 := y.fld_fld _ hset (by decide)
      _ = s.qTail q := Nat.mod_eq_of_lt hlt
  · rw [ht]
    exact (tgetD_tmod_same z.u.core.streams q {} (fun _ => { next := s.qTail q }) :)

/-- Every queue of a list ends so. -/
theorem tearQueues_end (s : State) {qs : List Nat} (hqs : ∀ q ∈ qs, q < 65536) {q : Nat} (hq : q ∈ qs) :
    let t := (Act.each qs (.tearQueue ctx x had)).run s
    t.qHead q = s.qTail q ∧ t.stream q = { next := s.qTail q } := by
  have hother {p : Nat} (hp : p ≠ q) (y : State) := tearQueue_leaves ctx x had y p (m := .queueState) (j := q) (hqs q hq) (by decide)
    (by decide) (by simpa using Ne.symm hp)
  refine each_reaches (I := fun y => y.qTail q = s.qTail q) (P := fun y => y.qHead q = s.qTail q ∧ y.stream q = { next := s.qTail q }) hq
    (fun p _ y hy => ?_) (fun p _ y hy hdone => ?_) (fun y hy => ?_) rfl
  · by_cases hp : p = q
    · subst hp
      exact (tearQueue_ends ctx x had y (hqs p hq)).1.trans hy
    · exact (congrArg (bits · _ _) (hother hp y).1).trans hy
  · by_cases hp : p = q
    · subst hp
      exact hy ▸ (tearQueue_ends ctx x had y (hqs p hq)).2
    · obtain ⟨hrd, -, hstream⟩ := hother hp y
      exact ⟨(congrArg (bits · _ _) hrd).trans hdone.1, (hstream q (Ne.symm hp)).trans hdone.2⟩
  · exact hy ▸ (tearQueue_ends ctx x had y (hqs q hq)).2

theorem tearQueues_leave (s : State) (qs : List Nat) {m : EName} {j : Nat} (hj : j < m.count) (hside : m ∉ sideEntries) (hjob : m ≠ .jobCount)
    (hstate : m ≠ .queueState) : let t := (Act.each qs (.tearQueue ctx x had)).run s
    t.rd m j = s.rd m j ∧ t.u.core.tear = s.u.core.tear := by
  have hkeeps := Act.keeps_each (l := qs) (f := fun s : State => (s.rd m j, s.u.core.tear)) (g := Act.tearQueue ctx x had) fun q _ y => by
    obtain ⟨hrd, htear, -⟩ := tearQueue_leaves ctx x had y q hj hside hjob (by simp [hstate])
    exact Prod.ext hrd htear
  exact Prod.mk.inj (hkeeps s)

end

/-! ### The teardown's end -/

/-- A context that is torn down waits for no slot. -/
def CoreU.unwaits (ctx : Nat) (c : CoreU) : CoreU := { c with
  slotWait := c.slotWait.map fun p => (p.1, sdel p.2 ctx)
  waitSince := c.waitSince.filter fun p => p.1 % 1024 != ctx }

/-- Nor does it have saved state, and its teardown is over. -/
def CoreU.tornDown (ctx : Nat) (c : CoreU) : CoreU := { c with cc := c.cc.filter fun p => p.1 % 1024 != ctx, tear := tdel c.tear ctx }

/-- What the end of a teardown does up to the context's sessions, where the context is on no core. -/
def Act.tornParts (s : State) (ctx : Nat) : Act :=
  .all [.moltCtxEnd ctx, .core (.unwaits ctx), .core (.tornDown ctx), .screeDropOf ctx, .each (s.flowsOfCtx ctx) .flowDisable]

/-- What a context is in the end. -/
def Act.tornEnds (ctx : Nat) (t : Tear) : Act :=
  if t.reset then .ctxEntriesReset ctx
  else .all [.reg .ctxState ctx 3,
    .get fun s => .event ([s.ctxFn ctx, 0].eraseDups) 1 2 ctx 0 (s.fld .faultInfo ctx 0 0 64),
    .when t.after (.seq (.traceTeardown ctx) (.ctxEntriesReset ctx))]

/-- The descriptors that a context's slots had fetched. -/
def State.hadOf (s : State) (ctx : Nat) : List Fetched := (s.u.core.cc.filter fun p => p.1 % 1024 == ctx).flatMap fun p => p.2.fetch

theorem Act.run_torn (a b c d e f g h i j k : Act) (s : State) : (Act.all [a, b, .all [], c, d, e, f, g, h, i, j, k, .all []]).run s =
    k.run (j.run (i.run ((Act.all [g, h]).run (f.run ((Act.all [a, b, c, d, e]).run s))))) := rfl

theorem tearEnd_run {s : State} {ctx : Nat} {x : Tear} (hstate : s.ctxState ctx = 2) (htear : tget s.u.core.tear ctx = some x)
    (hcores : s.coresOf ctx = []) (hgoes : s.loopback = false) : (Act.tearEnd ctx).run s =
      Act.phase.run ((Act.tornEnds ctx x).run ((Act.each (s.queuesOf ctx) (.tearQueue ctx x (s.hadOf ctx))).run
        ((Act.all [.tarnJoin, .lbrDropOf ctx]).run ((Act.sesAbort ctx).run ((Act.tornParts s ctx).run s))))) := by
  have hcond : (s.ctxState ctx == 2 && s.ownGoes) = true := by rw [hstate, State.ownGoes, hgoes]; rfl
  rw [Act.tearEnd, Act.run_get, htear]
  dsimp only
  rw [hcond, Act.run_when, if_pos rfl, hcores]
  exact Act.run_torn _ _ _ _ _ _ _ _ _ _ _ s

section
variable {m : EName} {j : Nat} (hj : j < m.count) (hm : m ∉ partEntries)
include hj hm

theorem Act.moltCtxEnd_keepsTorn {s : State} {ctx : Nat} (h : s.moltOf ctx = false) :
    (((Act.moltCtxEnd ctx).run s).tornView m j, ((Act.moltCtxEnd ctx).run s).u.sess) = (s.tornView m j, s.u.sess) := by
  rw [Act.moltCtxEnd, Act.run_get, h]
  exact verRemoveOwner_keepsTorn hj hm ctx s

theorem tornParts_leaves {s : State} {ctx : Nat} (h : s.moltOf ctx = false) : let t := (Act.tornParts s ctx).run s
    t.rd m j = s.rd m j ∧ t.u.core.streams = s.u.core.streams ∧ tget t.u.core.tear ctx = none ∧ t.u.sess = s.u.sess := by
  intro t
  have hmolt := Act.moltCtxEnd_keepsTorn hj hm h
  generalize hy : (Act.moltCtxEnd ctx).run s = y at hmolt
  have hrest : (Act.all [.screeDropOf ctx, .each (s.flowsOfCtx ctx) .flowDisable]).KeepsTorn m j :=
    Act.keeps_seq (Act.screeDropOf_keepsTorn hj hm ctx) <| Act.keeps_seq (Act.keeps_each fun f _ => Act.flowDisable_keepsTorn hj hm f) Act.keeps_skip
  have hlast := hrest ((Act.core (.tornDown ctx)).run ((Act.core (.unwaits ctx)).run y))
  have ht : t = (Act.all [.screeDropOf ctx, .each (s.flowsOfCtx ctx) .flowDisable]).run
      ((Act.core (.tornDown ctx)).run ((Act.core (.unwaits ctx)).run y)) := by rw [← hy]; rfl
  rw [← ht] at hlast
  simp only [State.tornView, Prod.mk.injEq] at hlast hmolt
  obtain ⟨⟨hrd, hstreams, htear⟩, hsess⟩ := hlast
  obtain ⟨⟨hrd', hstreams', -⟩, hsess'⟩ := hmolt
  have hcore : ((Act.core (.tornDown ctx)).run ((Act.core (.unwaits ctx)).run y)).rd m j = y.rd m j :=
    (Act.touches_seq (l := []) (Act.touches_core (CoreU.unwaits ctx)) (Act.touches_core (CoreU.tornDown ctx))).keepsRd hj (by simp) y
  refine ⟨hrd.trans (hcore.trans hrd'), hstreams.trans hstreams', ?_, hsess.trans hsess'⟩
  rw [htear]
  exact tget_tdel_same y.u.core.tear ctx

theorem Act.tornRest_keepsView (ctx : Nat) : (Act.all [.tarnJoin, .lbrDropOf ctx]).Keeps fun s => s.tornView m j :=
  keeps_seq (KeepsTorn.view (keeps_get fun _ => keepsTorn_units fun _ => ⟨rfl, rfl, rfl, rfl⟩)) <|
    keeps_seq (lbrDropOf_keepsTorn hj hm ctx).view keeps_skip

end

theorem Act.phase_keepsView {m : EName} {j : Nat} (hj : j < m.count) (hside : m ∉ sideEntries) : Act.phase.Keeps fun s => s.tornView m j :=
  fun s => Prod.ext ((Aside.rd hside hj).phase s) <| (keeps_get (f := fun s : State => (s.u.core.streams, s.u.core.tear)) fun _ =>
    keeps_ite (fun _ => keeps_skip) fun _ => keeps_seq (reg_keeps_u (g := fun u => (u.core.streams, u.core.tear))) <|
      keeps_seq (keeps_get fun _ => fld_keeps_u (g := fun u => (u.core.streams, u.core.tear))) <|
      keeps_seq (fun y => congrArg (fun c => (c.streams, c.tear)) (trace_keepsCore _ _ _ _ _ y)) <| keeps_seq (fun _ => rfl) keeps_skip) s

theorem Act.event_keepsView {m : EName} {j : Nat} (hj : j < m.count) (hside : m ∉ sideEntries) (fns : List Nat) (code scope ctx source data : Nat) :
    (Act.event fns code scope ctx source data).Keeps fun s => s.tornView m j :=
  keepsView_of ((Aside.rd hside hj).event fns code scope ctx source data) <| keeps_get fun _ =>
    keeps_seq (keeps_units fun _ => rfl) (keeps_each fun _ _ => eventTo_keepsCore _ _ _ _ _ _)

/-- A teardown whose context is on no core, executes no molt and waits for no loop-back. -/
structure Tears (s : State) (ctx : Nat) (x : Tear) : Prop where
  lt : ctx < 1024
  state : s.ctxState ctx = 2
  tear : tget s.u.core.tear ctx = some x
  cores : s.coresOf ctx = []
  molt : s.moltOf ctx = false
  goes : s.loopback = false

/-- What is left before the queues end. -/
def State.untilQueues (s : State) (ctx : Nat) : State :=
  (Act.all [.tarnJoin, .lbrDropOf ctx]).run ((Act.sesAbort ctx).run ((Act.tornParts s ctx).run s))

section
variable {s : State} {ctx : Nat} {x : Tear} (h : Tears s ctx x)
include h

/-- Before the queues end their entries and streams are as they were, and the teardown is over. -/
theorem untilQueues_leaves {m : EName} {j : Nat} (hj : j < m.count) (hm : m ∉ partEntries) (hs : m ≠ .sessionState) :
    (s.untilQueues ctx).rd m j = s.rd m j ∧ (s.untilQueues ctx).u.core.streams = s.u.core.streams ∧
      tget (s.untilQueues ctx).u.core.tear ctx = none := by
  obtain ⟨hrd, hstreams, htear, -⟩ := tornParts_leaves hj hm h.molt
  have hview := (Act.tornRest_keepsView hj hm ctx _).trans (Act.sesAbort_keepsView hj hm hs ctx ((Act.tornParts s ctx).run s))
  obtain ⟨hrd', hcore⟩ := Prod.mk.inj hview
  obtain ⟨hstreams', htear'⟩ := Prod.mk.inj hcore
  exact ⟨hrd'.trans hrd, hstreams'.trans hstreams, (congrArg (tget · ctx) htear').trans htear⟩

/-- The context's sessions are ABORTED before the queues end. -/
theorem untilQueues_aborts {i : Nat} (hi : i < 256) (hlisted : (tget s.u.sess i).isSome = true) (hctx : (s.ses i).ctx = ctx)
    (hstate : s.sesLive i = true ∨ s.rd .sessionState i = 3) : (s.untilQueues ctx).rd .sessionState i = 4 := by
  obtain ⟨hrd, -, -, hsess⟩ := tornParts_leaves (m := .sessionState) (j := i) hi (by decide) h.molt
  have hview := Act.tornRest_keepsView (m := .sessionState) (j := i) hi (by decide) ctx
    ((Act.sesAbort ctx).run ((Act.tornParts s ctx).run s))
  refine (congrArg Prod.fst hview).trans (sesAbort_aborts _ hi (by rw [hsess]; exact hlisted) (by rw [State.ses, hsess]; exact hctx) ?_)
  rw [State.sesLive, hrd]
  exact hstate

theorem tearEnd_run' : (Act.tearEnd ctx).run s = Act.phase.run ((Act.tornEnds ctx x).run
    ((Act.each (s.queuesOf ctx) (.tearQueue ctx x (s.hadOf ctx))).run (s.untilQueues ctx))) :=
  tearEnd_run h.state h.tear h.cores h.goes

/-- A context that is not reset is FAULTED; its teardown, its queues and its sessions are as the theorem's parts say. -/
theorem tearEnd_faults (hreset : x.reset = false) (hafter : x.after = false) : let t := (Act.tearEnd ctx).run s
    t.ctxState ctx = 3 ∧ tget t.u.core.tear ctx = none ∧
      (∀ q, q < 65536 → s.qCtx q = ctx → s.qValid q = true → t.qHead q = s.qTail q ∧ t.stream q = { next := s.qTail q }) ∧
      ∀ i, i < 256 → (tget s.u.sess i).isSome = true → (s.ses i).ctx = ctx → (s.sesLive i = true ∨ s.rd .sessionState i = 3) →
        t.rd .sessionState i = 4 := by
  intro t
  have ht : t = _ := tearEnd_run' h
  obtain ⟨hroot, -, htear⟩ := untilQueues_leaves h (m := .ptRoot) (j := ctx) h.lt (by decide) (by decide)
  have hqueue {q : Nat} (hq : q < 65536) := untilQueues_leaves h (m := .queueState) (j := q) hq (by decide) (by decide)
  have hses {i : Nat} (hi : i < 256) := untilQueues_aborts h hi
  generalize s.untilQueues ctx = y at *
  have hleave {m : EName} {j : Nat} := tearQueues_leave ctx x (s.hadOf ctx) y (s.queuesOf ctx) (m := m) (j := j)
  have hend {q : Nat} := tearQueues_end ctx x (s.hadOf ctx) y (qs := s.queuesOf ctx) (fun q hq => mem_queuesOf_lt hq) (q := q)
  generalize (Act.each (s.queuesOf ctx) (.tearQueue ctx x (s.hadOf ctx))).run y = z at *
  have hends : Act.tornEnds ctx x = .all [.reg .ctxState ctx 3,
      .get fun s => .event ([s.ctxFn ctx, 0].eraseDups) 1 2 ctx 0 (s.fld .faultInfo ctx 0 0 64), .when false
        (.seq (.traceTeardown ctx) (.ctxEntriesReset ctx))] := by
    rw [Act.tornEnds, hreset, hafter]
    rfl
  rw [hends] at ht
  have htold {m : EName} {j : Nat} (hj : j < m.count) (hside : m ∉ sideEntries) : t.tornView m j = ((Act.reg .ctxState ctx 3).run z).tornView m j := by
    have hevent : (Act.all [.get fun s => .event ([s.ctxFn ctx, 0].eraseDups) 1 2 ctx 0 (s.fld .faultInfo ctx 0 0 64), .when false
        (.seq (.traceTeardown ctx) (.ctxEntriesReset ctx))]).Keeps fun s => s.tornView m j :=
      Act.keeps_seq (Act.keeps_get fun _ => Act.event_keepsView hj hside _ _ _ _ _ _) <|
        Act.keeps_seq (Act.keeps_when fun h => nomatch h) Act.keeps_skip
    rw [ht]
    exact (Act.phase_keepsView hj hside _).trans (hevent _)
  have hset : Settable z .ctxState ctx := ⟨h.lt, by decide, fun h => nomatch h⟩
  have hreg {m : EName} {j : Nat} (hj : j < m.count) (hm : m ≠ .ctxState) := Act.reg_keepsView (n := .ctxState) (i := ctx) (v := 3) hj
    (by simp [hm]) z
  refine ⟨?_, ?_, fun q hq hctx hvalid => ?_, fun i hi hlisted hctx hstate => ?_⟩
  · exact (congrArg Prod.fst (htold (m := .ctxState) h.lt (by decide))).trans (z.rd_reg 3 hset)
  · have hview := (htold (m := .ptRoot) h.lt (by decide)).trans (hreg (m := .ptRoot) (j := ctx) h.lt (by decide))
    rw [show t.u.core.tear = z.u.core.tear from congrArg (·.2.2) hview, (hleave (m := .ptRoot) h.lt (by decide) (by decide) (by decide)).2]
    exact htear
  · have hlisted : tget s.regs (EName.queueCfg.key q) ≠ none := fun hnone => by
      have hzero : s.rd .queueCfg q = 0 := s.rd_unlisted hnone
      rw [State.qValid, State.fld, hzero] at hvalid
      exact absurd hvalid (by decide)
    obtain ⟨hhead, hstream⟩ := hend (mem_queuesOf hq hctx hlisted)
    have hview := (htold (m := .queueState) hq (by decide)).trans (hreg (m := .queueState) (j := q) hq (by decide))
    have htail : y.qTail q = s.qTail q := congrArg (bits · _ _) (hqueue hq).1
    refine ⟨(congrArg (bits · _ _) (congrArg Prod.fst hview)).trans (hhead.trans htail), ?_⟩
    rw [State.stream, show t.u.core.streams = z.u.core.streams from congrArg (·.2.1) hview, ← htail]
    exact hstream
  · have hview := (htold (m := .sessionState) hi (by decide)).trans (hreg (m := .sessionState) (j := i) hi (by decide))
    exact (congrArg Prod.fst hview).trans ((hleave (m := .sessionState) hi (by decide) (by decide) (by decide)).1.trans (hses hi hlisted hctx hstate))

/-- A context that is reset is FREE, and its queues are unconfigured. -/
theorem tearEnd_frees (hreset : x.reset = true) : let t := (Act.tearEnd ctx).run s
    t.ctxState ctx = 0 ∧ t.rd .ptRoot ctx = 0 ∧ tget t.u.core.tear ctx = none ∧ ∀ q, q < 65536 → s.qCtx q = ctx → t.rd .queueCfg q = 0 := by
  intro t
  have ht : t = _ := tearEnd_run' h
  obtain ⟨-, -, htear⟩ := untilQueues_leaves h (m := .ptRoot) (j := ctx) h.lt (by decide) (by decide)
  have hqueue {q : Nat} (hq : q < 65536) := (untilQueues_leaves h (m := .queueCfg) (j := q) hq (by decide) (by decide)).1
  generalize s.untilQueues ctx = y at *
  have hleave {m : EName} {j : Nat} := tearQueues_leave ctx x (s.hadOf ctx) y (s.queuesOf ctx) (m := m) (j := j)
  generalize (Act.each (s.queuesOf ctx) (.tearQueue ctx x (s.hadOf ctx))).run y = z at *
  rw [Act.tornEnds, hreset, if_pos rfl] at ht
  obtain ⟨c, hc, hne⟩ : ∃ c, c < 1024 ∧ c ≠ ctx := by
    by_cases hzero : ctx = 0
    · exact ⟨1, by decide, by omega⟩
    · exact ⟨0, by decide, by omega⟩
  have hkept := (Act.phase_keepsRest hc ((Act.ctxEntriesReset ctx).run z)).trans (Act.ctxEntriesReset_keepsRest hc h.lt hne z)
  obtain ⟨-, hown, hqueues, -, hstay⟩ := ctxEntriesReset_drops z (ctx := ctx)
  generalize (Act.ctxEntriesReset ctx).run z = w at *
  have hzero {n : EName} {i : Nat} (hi : i < n.count) (hside : n ∉ sideEntries) (hd : n.fit (n.dfltOf i w.u.pow.straps) = 0)
      (hnone : tget w.regs (n.key i) = none) : t.rd n i = 0 := by
    rw [ht]
    exact ((Aside.rd hside hi).phase w).trans ((State.rd_unlisted w hnone).trans hd)
  refine ⟨hzero h.lt (by decide) rfl (hown .ctxState (by decide)), hzero h.lt (by decide) rfl (hown .ptRoot (by decide)), ?_,
    fun q hq hctx => hzero hq (by decide) rfl ?_⟩
  · rw [ht, show (Act.phase.run w).u.core.tear = z.u.core.tear from congrArg (·.2.2.1) hkept,
      (hleave (m := .ptRoot) h.lt (by decide) (by decide) (by decide)).2]
    exact htear
  · by_cases hnone : tget z.regs (EName.queueCfg.key q) = none
    · exact hstay .queueCfg q hq (by decide) hnone
    · have hsame : z.rd .queueCfg q = s.rd .queueCfg q := (hleave (m := .queueCfg) hq (by decide) (by decide) (by decide)).1.trans (hqueue hq)
      exact hqueues q (mem_queuesOf hq ((congrArg (bits · _ _) hsame).trans hctx) hnone) hq

end

/-- Settles O24: what goes before the queues leaves them as they are (`untilQueues_leaves`), each queue then ends (`tearQueues_end`), and
nothing that follows touches what it left. -/
theorem teardownEndsFaultedOrFree : Obligations.TeardownEndsFaultedOrFree := by
  unfold Obligations.TeardownEndsFaultedOrFree
  intro s ctx x hstate htear hcores hmolt hgoes
  have h : Tears s ctx x := ⟨ctx.isLt, hstate, htear, hcores, hmolt, hgoes⟩
  exact ⟨fun hreset hafter => ⟨_, rfl, tearEnd_faults h hreset hafter⟩, fun hreset => ⟨_, rfl, tearEnd_frees h hreset⟩⟩

end Sys2Proof.Machine
end

section
/-! SUPPORT. Error windows, event rings, FATAL, touches and lights (R476, R479, R482, R491, R495). -/

namespace Sys2Proof.Machine

section
variable {s : State} {r : Requester}

/-! ### Error windows (R476) -/

theorem errwin_settable (s : State) {src : Nat} (h : src < 256) : Settable s .errwinState src := ⟨h, by decide, fun h => nomatch h⟩

theorem errwinDrain_drains (src : Byte) (hpower : s.u.pow.power = true) (hlevel : 0 < s.fld .errwinState src.toNat 0 0 8) :
    let t := (Act.leak src.toNat).run s
    t.fld .errwinState src.toNat 0 0 8 = s.fld .errwinState src.toNat 0 0 8 - 1 ∧ SameMem s t ∧
      SameEntriesBut [(.errwinState, src.toNat)] s t := by
  have hrun : (Act.leak src.toNat).run s =
      (Act.fld .errwinState src.toNat 0 0 8 (s.fld .errwinState src.toNat 0 0 8 - 1)).run s := by
    rw [Act.leak, Act.run_get, hpower, Bool.true_and, decide_eq_true hlevel, Act.run_when, if_pos rfl]
  have hlt : s.fld .errwinState src.toNat 0 0 8 < 2 ^ 8 := bits_lt _ _ _
  rw [hrun]
  refine ⟨?_, Act.touches_fld (by simp) s⟩
  rw [s.fld_fld _ (errwin_settable s src.isLt) (by decide), Nat.mod_eq_of_lt (by omega)]

theorem Act.winClear_touches {l : List (EName × Nat)} {src : Nat} (h : (.errwinState, src) ∈ l) : (Act.winClear src).Touches l := touches_fld h

theorem winClear_clears (s : State) {src : Nat} (h : src < 256) : ((Act.winClear src).run s).fld .errwinState src 0 0 9 = 0 :=
  s.fld_fld 0 (errwin_settable s h) (by decide)

theorem errwinClear_one {v : BitVec 16} (h : Accepts s r .errwinClear 0 v.toNat) (hv : v.toNat < 256) :
    let t := (Act.entryRow .errwinClear ruleErrwinClear r 0 v.toNat).run s
    t.fld .errwinState v.toNat 0 0 9 = 0 ∧ EntryOnly [(.errwinState, v.toNat)] s t := by
  have ht := h.takes (rule := ruleErrwinClear) (l := [(.errwinState, v.toNat)]) (by simp [State.ownerFn]) (.winClear v.toNat)
    (fun k => by rw [ruleErrwinClear, if_neg (by omega), if_pos hv, Act.run_seq]) (Act.winClear_touches (by simp))
  refine ⟨?_, ht.only⟩
  rw [State.fld, ht.rd hv (by simp)]
  exact winClear_clears _ hv

theorem errwinClear_all {v : BitVec 16} (h : Accepts s r .errwinClear 0 v.toNat) (hv : v = 0xFFFF) :
    let t := (Act.entryRow .errwinClear ruleErrwinClear r 0 v.toNat).run s
    (∀ src, src < 256 → t.fld .errwinState src 0 0 9 = 0) ∧ SameMem s t := by
  have htouch : (Act.each (List.range 256) .winClear).Touches ((.dictCount, 0) :: (List.range 256).map fun src => (.errwinState, src)) :=
    Act.touches_each fun src hsrc => Act.winClear_touches (by simpa using hsrc)
  have ht := h.takes (rule := ruleErrwinClear) (by simp [State.ownerFn]) (.each (List.range 256) .winClear)
    (fun k => by rw [ruleErrwinClear, if_pos (by rw [hv]; rfl), Act.run_seq]) htouch
  refine ⟨fun src hsrc => ?_, ht.only.1⟩
  rw [State.fld, ht.rd hsrc (by simp)]
  refine each_reaches (I := fun _ => True) (P := fun y => y.fld .errwinState src 0 0 9 = 0) (List.mem_range.2 hsrc) (fun _ _ _ _ => trivial)
    (fun y _ z _ hz => ?_) (fun z _ => winClear_clears z hsrc) trivial
  by_cases hy : y = src
  · subst hy
    exact winClear_clears z hsrc
  · exact (congrArg (bits · _ _) ((Act.winClear_touches (l := [(.errwinState, y)]) (by simp)).keepsRd hsrc (by simpa using Ne.symm hy) z)).trans hz

/-! ### Event rings (R479) -/

theorem evtRing_registers (fn : Fin 32) (v : BitVec 128) (h : Accepts s r .evtRing fn v.toNat)
    (hok : bits v.toNat 0 64 = 0 ∨ (bits v.toNat 0 12 = 0 ∧ 6 ≤ bits v.toNat 64 8 ∧ bits v.toNat 64 8 ≤ 16)) :
    let t := (Act.entryRow .evtRing ruleEvtRing r fn v.toNat).run s
    t.rd .evtRing fn = v.toNat % 2 ^ 72 ∧ t.rd .evtWidx fn = 0 ∧ EntryOnly [(.evtRing, fn.val), (.evtWidx, fn.val)] s t := by
  have ht := h.takes (rule := ruleEvtRing) (l := [(.evtRing, fn.val), (.evtWidx, fn.val)]) (by simp [State.ownerFn])
    (.seq (.store .evtRing fn (v.toNat % 2 ^ 72)) (.reg .evtWidx fn 0))
    (fun k => by rw [ruleEvtRing, if_pos hok, Act.run_all_cons, Act.run_all_cons, Act.run_all_cons, Act.run_all_nil, Act.run_seq])
    (Act.touches_seq (Act.touches_store (by simp)) (Act.touches_reg (by simp)))
  set x := s.asked r .evtRing fn
  refine ⟨?_, ?_, ht.only⟩
  · rw [ht.rd fn.isLt (by simp), Act.run_seq]
    exact (Act.reg_keepsOther fn.isLt (by simp) _).trans (State.rd_store 128 (.of_vol x fn.isLt rfl) rfl (by omega))
  · rw [ht.rd fn.isLt (by simp), Act.run_seq]
    exact State.rd_reg _ 0 (.of_vol _ fn.isLt rfl)

/-! ### FATAL (R482) -/

theorem fatalCause_run {c : Nat} (s : State) (detail : Nat) (hpower : s.u.pow.power = true) (hperst : s.u.pow.perst = false) (hdeep : s.u.pow.deep = false)
    (h1 : 1 ≤ c) (h8 : c ≤ 8) : (Act.fatalCause c detail).run s = (Act.fatal c 0 detail).run s := by
  rw [Act.fatalCause, Act.run_get, hpower, hperst, hdeep, decide_eq_true h1, decide_eq_true h8]
  rfl

theorem fatalCause_enters (c detail : Nat) (hpower : s.u.pow.power = true) (hfatal : s.u.pow.fatal = false) (h8 : c ≤ 8) :
    let t := (Act.fatal c 0 detail).run s
    t.u.pow.fatal = true ∧ t.fld .fatalState 0 0 0 16 = c ∧ t.fld .fatalState 0 8 0 64 = s.now % 2 ^ 64 ∧
      (s.rd .serviceState < 2 → t.statusLight = .steady .amber) ∧ ∀ f ∈ s.flowList, t.flowSt f = 0 := by
  obtain ⟨hlatch, hpow, hrec, hserv, hflows⟩ := fatal_enters hpower hfatal c 0 detail
  have hnow : s.now % 2 ^ 64 < 2 ^ 64 := Nat.mod_lt _ (by decide)
  have hfit : EName.fatalState.fit (c + s.now % 2 ^ 64 * 2 ^ 64) = c + s.now % 2 ^ 64 * 2 ^ 64 := by
    rw [EName.fit, show 8 * EName.fatalState.info.size = 128 from rfl]
    omega
  rw [hfit] at hrec
  generalize (Act.fatal c 0 detail).run s = t at *
  refine ⟨hlatch, ?_, ?_, fun h => ?_, hflows⟩
  · rw [State.fld, hrec, bits, Nat.shiftRight_eq_div_pow]
    omega
  · rw [State.fld, hrec, bits, Nat.shiftRight_eq_div_pow]
    omega
  · have hzero : t.rd .serviceState = 0 := by
      rw [hserv]
      split <;> omega
    rw [State.statusLight, hzero, hpow, hlatch]
    rfl

theorem fatalAgain_counts (c detail : Nat) (hpower : s.u.pow.power = true) (hfatal : s.u.pow.fatal = true) : let t := (Act.fatal c 0 detail).run s
    t.fld .fatalState 0 2 0 16 = min (s.fld .fatalState 0 2 0 16 + 1) (2 ^ 16 - 1) ∧ SameMem s t ∧ SameEntriesBut [(.fatalState, 0)] s t := by
  have hrun : (Act.fatal c 0 detail).run s = (Act.seq (.trace 0x0B 0 0 c detail) (.satFld .fatalState 0 2 0 16)).run s := by
    rw [Act.fatal, Act.run_get, hpower, hfatal]
    rfl
  have htouch : (Act.seq (.trace 0x0B 0 0 c detail) (.satFld .fatalState 0 2 0 16)).Touches [(.fatalState, 0)] :=
    Act.touches_seq (Act.trace_touches _ _ _ _ _) (Act.touches_get fun _ => Act.touches_fld (by simp))
  rw [hrun]
  refine ⟨?_, htouch s⟩
  have hrd : ((Act.trace 0x0B 0 0 c detail).run s).rd .fatalState = s.rd .fatalState :=
    (Act.trace_touches (l := []) _ _ _ _ _).keepsRd (by decide) (by simp) s
  generalize hy : (Act.trace 0x0B 0 0 c detail).run s = y at hrd
  have hfld : y.fld .fatalState 0 2 0 16 = s.fld .fatalState 0 2 0 16 := congrArg (bits · _ _) hrd
  rw [Act.run_seq, hy, Act.satFld, Act.run_get, y.fld_fld _ (.of_vol y (by decide) rfl) (by decide), hfld]
  exact Nat.mod_eq_of_lt (by omega)

/-! ### Touches and lights (R491, R495) -/

theorem touch_lights (hpower : s.u.pow.power = true) : let t := Act.touch.run s
    (∀ p, p < 8 → tget t.u.svc.portLight p = some 1) ∧
      t.fld .serviceCount 0 16 0 32 = (s.fld .serviceCount 0 16 0 32 + 1) % 2 ^ 32 ∧ SameMem s t ∧ SameEntriesBut [(.serviceCount, 0)] s t := by
  have hlights : ∀ p, p < 8 → tget ((List.range 8).map fun p => (p, 1)) p = some 1 := by decide
  have hrun : Act.touch.run s = (Act.all [.trace 0x0A 0 0 2 (s.rd .serviceState), .raiseSrc 111,
      .svc fun v => { v with portLight := (List.range 8).map fun p => (p, 1) }]).run ((Act.countFld .serviceCount 0 16 0 32).run s) := by
    rw [Act.touch, Act.run_get, hpower, Act.run_when, if_pos rfl, Act.run_all_cons]
  have hrest : (Act.all [.trace 0x0A 0 0 2 (s.rd .serviceState), .raiseSrc 111,
      .svc fun v => { v with portLight := (List.range 8).map fun p => (p, 1) }]).Touches [] :=
    Act.touches_seq (Act.trace_touches _ _ _ _ _) <| Act.touches_seq (Act.raiseSrc_touches _) <|
      Act.touches_seq (Act.touches_units fun _ => ⟨rfl, rfl⟩) Act.touches_skip
  rw [hrun]
  refine ⟨fun p hp => hlights p hp, ?_, frame_trans (Act.touches_get (fun _ => Act.touches_fld (by simp)) s) (sameEntries_mono (by simp) (hrest _))⟩
  exact (congrArg (bits · _ _) (hrest.keepsRd (n := .serviceCount) (i := 0) (by decide) (by simp) _)).trans
    (s.fld_fld _ ⟨by decide, by decide, fun h => nomatch h⟩ (by decide))

end

end Sys2Proof.Machine
end

section
/-! SUPPORT. What ports that go down, events and messages on their way leave of the service state, of stack memory and of the other ports
(R297, R476, R492). -/

namespace Sys2Proof.Machine

/-! ### Views that ports, events and messages leave -/

/-- The service state without what events, the trace and the ports' lights write. -/
def SvcU.plain (v : SvcU) : SvcU := { v with log := [], trace := [], logged := 0, portLight := [] }

theorem SvcU.plain_trace (v : SvcU) (l : List (List Nat)) : { v with trace := l }.plain = v.plain := rfl

theorem SvcU.plain_log (v : SvcU) (l : List (List Nat)) (n : Nat) : { v with log := l, logged := n }.plain = v.plain := rfl

/-- Both units have the same work and the same plain service state. -/
structure Units.SameCourse (u v : Units) : Prop where
  work : Units.SameWork u v
  svc : v.svc.plain = u.svc.plain

/-- The view looks at no entry that events, messages and ports count in, but may look at the state of a port; of memory and the units it
sees nothing that these change. -/
structure Beside {α : Type} (f : State → α) : Prop where
  reg : ∀ {n : EName} {i v : Nat}, n ∈ sideEntries → n ≠ .portStatus → (Act.reg n i v).Keeps f
  port : ∀ {i off lo len v : Nat}, 4 ≤ 8 * off + lo → (Act.fld .portStatus i off lo len v).Keeps f
  host : ∀ {a : Nat} {bs : PBytes}, (Act.mem .host a bs).Keeps f
  units : ∀ {g : Units → Units}, (∀ u, Units.SameCourse u (g u)) → (Act.units g).Keeps f

theorem Aside.beside {α : Type} {f : State → α} (h : Aside f) : Beside f where
  reg hn _ := h.reg hn
  port _ := h.fld (by decide)
  host := h.mem
  units hg := h.units fun u => (hg u).work

theorem Beside.plain : Beside fun s => s.u.svc.plain where
  reg _ _ := Act.reg_keeps_u (g := fun u => u.svc.plain)
  port _ := Act.fld_keeps_u (g := fun u => u.svc.plain)
  host := Act.mem_keeps_u (g := fun u => u.svc.plain)
  units hg s := (hg s.u).svc

theorem Beside.stack : Beside fun s => s.stack where
  reg _ _ := Act.reg_keeps_store .stack
  port _ := Act.fld_keeps_store .stack
  host {a bs} s := Act.run_mem_other .host .stack a bs s (by decide)
  units _ := Act.units_keeps_store .stack

theorem Beside.portSt {q : Nat} (hq : q < 8) : Beside fun s => s.portSt q where
  reg _ hn s := congrArg (bits · 0 4) (Act.reg_keepsOther (k := .portStatus) (j := q) hq (by simp [Ne.symm hn]) s)
  port {i off lo len v} h s := by
    by_cases hi : i = q
    · subst hi
      exact s.fld_fld_apart v (.of_vol s hq rfl) (by decide) (.inl (by omega))
    · exact congrArg (bits · 0 4) (Act.keeps_get (f := fun s => s.rd .portStatus q) (fun _ =>
        Act.reg_keepsOther (k := .portStatus) (j := q) hq (by simpa using Ne.symm hi)) s)
  host s := congrArg (bits · 0 4) (State.rd_congr (by simp) (by simp) .portStatus q)
  units h s := congrArg (bits · 0 4) (s.rd_units _ (h s.u).work.pow .portStatus q)

theorem Beside.map {α β : Type} {f : State → α} (h : Beside f) (g : α → β) : Beside fun s => g (f s) where
  reg hn hp s := congrArg g (h.reg hn hp s)
  port ho s := congrArg g (h.port ho s)
  host s := congrArg g (h.host s)
  units hg s := congrArg g (h.units hg s)

section
variable {α : Type} {f : State → α} (h : Beside f)
include h

theorem Beside.fld {n : EName} {i off lo len v : Nat} (hn : n ∈ sideEntries) (hp : n ≠ .portStatus) : (Act.fld n i off lo len v).Keeps f :=
  Act.keeps_get fun _ => h.reg hn hp

theorem Beside.count {n : EName} {i k v : Nat} (hn : n ∈ sideEntries) (hp : n ≠ .portStatus) : (Act.count n i k v).Keeps f :=
  Act.keeps_get fun _ => h.fld hn hp

theorem Beside.countPort {i k v : Nat} (hk : 0 < k) : (Act.count .portStatus i k v).Keeps f := Act.keeps_get fun _ => h.port (by omega)

theorem Beside.side {g : Units → Units} (hg : ∀ u, Units.SameWork u (g u) ∧ (g u).svc.plain = u.svc.plain) : (Act.units g).Keeps f :=
  h.units fun u => ⟨(hg u).1, (hg u).2⟩

theorem Beside.svc {g : SvcU → SvcU} (hg : ∀ v, (g v).plain = v.plain) : (Act.svc g).Keeps f :=
  h.side fun u => ⟨⟨rfl, rfl, rfl, rfl, rfl⟩, hg u.svc⟩

theorem Beside.hostU (g : HostU → HostU) : (Act.host g).Keeps f := h.side fun _ => ⟨⟨rfl, rfl, rfl, rfl, rfl⟩, rfl⟩

theorem Beside.out (o : Out) : (Act.out o).Keeps f := h.side fun _ => ⟨⟨rfl, rfl, rfl, rfl, rfl⟩, rfl⟩

theorem Beside.trace (code engine ctx data0 data1 : Nat) : (Act.trace code engine ctx data0 data1).Keeps f :=
  h.side fun u => by
    dsimp only
    split
    · exact ⟨⟨rfl, rfl, rfl, rfl, rfl⟩, rfl⟩
    · exact ⟨⟨rfl, rfl, rfl, rfl, rfl⟩, SvcU.plain_trace _ _⟩

theorem Beside.raiseSrc (src : Nat) : (Act.raiseSrc src).Keeps f := h.hostU _

theorem Beside.msix (fn v : Nat) : (Act.msix fn v).Keeps f := Act.keeps_get fun _ => Act.keeps_ite (fun _ => Act.keeps_skip) fun _ =>
  Act.keeps_ite (fun _ => h.hostU _) fun _ => Act.keeps_ite
    (fun _ => Act.keeps_seq (h.out _) (h.count (by decide) (by decide))) fun _ => Act.keeps_skip

theorem Beside.event (fns : List Nat) (code scope ctx source data : Nat) : (Act.event fns code scope ctx source data).Keeps f :=
  Act.keeps_get fun _ => Act.keeps_seq (h.svc fun _ => SvcU.plain_log _ _ _) <| Act.keeps_each fun _ _ => Act.keeps_get fun _ =>
    Act.keeps_ite (fun _ => Act.keeps_skip) fun _ => Act.keeps_seq h.host <| Act.keeps_seq (h.reg (by decide) (by decide)) <|
      Act.keeps_seq (h.msix _ _) Act.keeps_skip

theorem Beside.errEvent (src detail : Nat) : (Act.errEvent src detail).Keeps f := Act.keeps_get fun _ =>
  Act.keeps_seq (Act.keeps_get fun _ => h.fld (by decide) (by decide)) <| Act.keeps_seq (h.fld (by decide) (by decide)) <|
    Act.keeps_seq (Act.keeps_when fun _ => Act.keeps_seq (h.fld (by decide) (by decide)) (h.event _ _ _ _ _ _)) Act.keeps_skip

/-! Messages on their way (R31, R298, R300). -/

theorem Beside.stallEnd (x : Nat) : (Act.stallEnd x).Keeps f := Act.keeps_get fun s => by
  split
  · exact Act.keeps_skip
  · refine Act.keeps_seq (h.side fun _ => ⟨⟨rfl, rfl, rfl, rfl, rfl⟩, rfl⟩) (h.count ?_ ?_) <;>
    · simp only [State.stallPlace]
      split_ifs <;> simp [sideEntries]

theorem Beside.vcStalls (p : Nat) : (Act.vcStalls p).Keeps f :=
  Act.vcStalls_keeps (fun s x => h.side (g := fun u => { u with stalls := x }) (fun _ => ⟨⟨rfl, rfl, rfl, rfl, rfl⟩, rfl⟩) s)
    fun _ _ => h.stallEnd _

theorem Beside.pump (p n : Nat) : (Act.pump p n).Keeps f := Act.pump_keeps
  (fun s o ports stalls => h.side (g := fun u => { u with outbox := o, ports := ports, stalls := stalls })
    (fun _ => ⟨⟨rfl, rfl, rfl, rfl, rfl⟩, rfl⟩) s)
  (h.countPort (by decide)) (fun _ _ => h.stallEnd _) n

theorem Beside.route (came : Option (Nat × Bool)) (vc : Nat) (m : Msg) : (Act.route came vc m fun _ => .skip).Keeps f :=
  Act.keeps_get fun _ => by
  split
  · exact Act.keeps_skip
  · exact h.count (by decide) (by decide)
  · refine Act.keeps_seq ?_ <| Act.keeps_seq (h.side fun _ => ⟨⟨rfl, rfl, rfl, rfl, rfl⟩, rfl⟩) <| Act.keeps_seq (h.pump _ _) Act.keeps_skip
    split
    · exact h.countPort (by decide)
    · exact Act.keeps_skip

theorem Beside.abortFlows (cause : Nat) : (Act.abortFlows cause).Keeps f := Act.keeps_get fun _ => Act.keeps_each fun _ _ =>
  Act.keeps_seq (Act.keeps_get fun _ => Act.keeps_get fun _ => h.route _ _ _) (h.count (by decide) (by decide))

/-! Ports that go down (R297). -/

/-- A port's state shows. -/
theorem Beside.portShown (p st : Nat) : (Act.all [.get fun s => .trace 3 0 0 (p + st * 2 ^ 8 + s.fld .portStatus p 0 4 4 * 2 ^ 16) (s.rd .recoveryEpoch),
    .svc fun v => { v with portLight := tset v.portLight p 1 }, .raiseSrc (112 + p)]).Keeps f :=
  Act.keeps_seq (Act.keeps_get fun _ => h.trace _ _ _ _ _) <| Act.keeps_seq (h.svc fun _ => rfl) <|
    Act.keeps_seq (h.raiseSrc _) Act.keeps_skip

/-- A port that takes a state leaves what the entry's state field does not show. -/
theorem Beside.portTakes {p st : Nat} (hst : (Act.fld .portStatus p 0 0 4 st).Keeps f) : (Act.portSt p st).Keeps f :=
  Act.keeps_seq hst (h.portShown p st)

theorem Beside.portDown {p : Nat} (hst : ∀ st, (Act.fld .portStatus p 0 0 4 st).Keeps f) (cause lane : Nat) : (Act.portDown p cause lane).Keeps f :=
  Act.keeps_get fun _ => Act.keeps_seq (h.port (by decide)) <| Act.keeps_seq (h.port (by decide)) <| Act.keeps_seq (h.portTakes (hst _)) <|
    Act.keeps_seq (h.countPort (by decide)) <| Act.keeps_seq (Act.keeps_get fun _ => h.fld (by decide) (by decide)) <|
    Act.keeps_seq (h.side fun _ => ⟨⟨rfl, rfl, rfl, rfl, rfl⟩, rfl⟩) <|
    Act.keeps_seq (h.vcStalls _) <| Act.keeps_seq (Act.keeps_when fun _ => h.errEvent _ _) <|
    Act.keeps_seq (Act.keeps_each fun _ _ => Act.keeps_ite (fun _ => h.count (by decide) (by decide)) fun _ => h.route _ _ _) Act.keeps_skip

/-! Stack memory that is read and written (R268 to R274). -/

section
variable (hstack : ∀ a bs, (Act.mem .stack a bs).Keeps f)
include hstack

theorem Beside.burstBack (g : Nat) : (Act.burstBack g).Keeps f :=
  Act.keeps_get fun _ => Act.keeps_seq (h.side fun _ => ⟨⟨rfl, rfl, rfl, rfl, rfl⟩, rfl⟩) (hstack _ _)

theorem Beside.burstCorrected (patrol : Bool) (g : Nat) (l : List Nat) : (Act.burstCorrected patrol g l).Keeps f :=
  have hcount {i k : Nat} : (Act.count .memErrors i k).Keeps f := h.count (by decide) (by decide)
  Act.keeps_get fun _ => Act.keeps_seq (h.burstBack hstack g) <| Act.keeps_seq (Act.keeps_when fun _ => hcount) <| Act.keeps_seq
    (Act.keeps_when fun _ => Act.keeps_seq (h.raiseSrc _) <| Act.keeps_seq (h.raiseSrc _) <| Act.keeps_seq hcount <|
      Act.keeps_seq (Act.keeps_when fun _ => hcount) <| Act.keeps_seq (h.fld (by decide) (by decide)) <|
      Act.keeps_seq (h.errEvent _ _) Act.keeps_skip) Act.keeps_skip

theorem Beside.burstLost (g : Nat) : (Act.burstLost g).Keeps f :=
  Act.keeps_get fun _ => Act.keeps_seq (h.burstBack hstack g) <| Act.keeps_seq (h.raiseSrc _) <| Act.keeps_seq (h.raiseSrc _) <|
    Act.keeps_seq (h.count (by decide) (by decide)) <| Act.keeps_seq (h.fld (by decide) (by decide)) <| Act.keeps_seq (h.errEvent _ _) <|
    Act.keeps_seq (h.trace _ _ _ _ _) Act.keeps_skip

theorem Beside.burstRead (patrol : Bool) (g : Nat) : (Act.burstRead patrol g).Keeps f := Act.keeps_get fun _ =>
  Act.keeps_ite (fun _ => Act.keeps_skip) fun _ => by
    split
    · exact Act.keeps_skip
    · exact h.burstCorrected hstack _ _ _
    · exact Act.keeps_seq (Act.keeps_when fun _ => h.count (by decide) (by decide)) (Act.keeps_when fun _ => h.burstCorrected hstack _ _ _)
    · exact h.burstLost hstack g

theorem Beside.wrStack (a : Nat) (bs : PBytes) : (Act.wrStack a bs).Keeps f := Act.keeps_get fun _ =>
  Act.keeps_seq (Act.keeps_get fun _ => Act.keeps_when fun _ => Act.keeps_each fun _ _ =>
    Act.keeps_ite (fun _ => h.side fun _ => ⟨⟨rfl, rfl, rfl, rfl, rfl⟩, rfl⟩) fun _ => h.burstRead hstack _ _) <|
  Act.keeps_seq (Act.keeps_ite (fun _ => hstack _ _) fun _ => Act.keeps_each fun _ _ => hstack _ _) <|
  Act.keeps_seq (Act.keeps_when fun _ => Act.keeps_each fun _ _ => h.count (by decide) (by decide)) Act.keeps_skip

end
end

end Sys2Proof.Machine
end

section
/-! SUPPORT. The service drain (R492, R493). -/

namespace Sys2Proof.Machine

/-- A fact that the actions of a list leave stays. -/
theorem each_stays {β : Type} {P : State → Prop} {f : β → Act} {l : List β} (h : ∀ y ∈ l, ∀ s, P s → P ((f y).run s)) {s : State} (hs : P s) :
    P ((Act.each l f).run s) := by
  induction l generalizing s with
  | nil => exact hs
  | cons y l ih =>
    rw [Act.run_each_cons]
    exact ih (fun z hz => h z (by simp [hz])) (h y (by simp) s hs)

theorem State.plain_drainStep {s t : State} (h : t.u.svc.plain = s.u.svc.plain) : t.u.svc.drainStep = s.u.svc.drainStep :=
  (congrArg SvcU.drainStep h :)

section
variable {s : State}

/-! ### Flows are told -/

theorem Act.abortFlows_keepsMem (cause : Nat) : ∀ s, SameMem s ((Act.abortFlows cause).run s) := fun s =>
  sameMem_of_stores fun m => keeps_get (f := fun s => s.store m) (fun _ => keeps_each fun _ _ =>
    keeps_seq (keeps_get fun _ => keeps_get fun _ => route_keepsStore m fun _ => keeps_skip) (count_keeps_store m)) s

theorem drainDone_tells (hfw : s.fwRuns = true) (hover : s.drainOver = true) : let t := Act.drainDone.run s
    t.u.svc.drainStep = 5 ∧ SameMem s t := by
  have hrun : Act.drainDone.run s = (Act.svc fun v => { v with drainStep := 5 }).run ((Act.abortFlows 4).run s) := by
    rw [Act.drainDone, Act.run_get, hfw, hover]
    rfl
  rw [hrun]
  exact ⟨rfl, Act.abortFlows_keepsMem 4 s⟩

/-! ### The time of a drain is over -/

theorem Act.tearStart_keepsPlain (ctx : Nat) (x : Tear) : (Act.tearStart ctx x).Keeps fun s => s.u.svc.plain :=
  keeps_seq (keeps_get fun _ => fld_keeps_u (g := fun u => u.svc.plain)) <| keeps_seq (reg_keeps_u (g := fun u => u.svc.plain)) <|
    keeps_seq (keeps_get fun _ => keeps_each fun _ _ _ => rfl) <| keeps_seq (fun _ => rfl) <|
    keeps_seq (keeps_get fun _ => keeps_each fun _ _ => stallEnd_keeps (fun _ _ => rfl) (fun _ _ _ _ => count_keeps_u (g := fun u => u.svc.plain)) _) <|
    keeps_seq (fun _ => rfl) <| keeps_seq (keeps_get fun _ => Beside.plain.trace _ _ _ _ _) keeps_skip

theorem Act.tearStart_keepsState {c d : Nat} (hc : c < 1024) (hne : c ≠ d) (x : Tear) : (Act.tearStart d x).Keeps fun s => s.ctxState c :=
  (tearStart_touches d x).keepsRd hc (by
    simp only [List.mem_cons, Prod.mk.injEq, not_or]
    exact ⟨by simp, by simp [hne], fun h => by simp [stallCounters] at h⟩)

/-- READY contexts that are reset are torn down, whatever their order. -/
theorem each_ctxReset {l : List Nat} (hl : ∀ c ∈ l, c < 1024) (hnodup : l.Nodup) (hready : ∀ c ∈ l, s.ctxState c = 1) :
    (Act.each l .ctxReset).run s = (Act.each l fun c => .tearStart c { reset := true }).run s := by
  induction l generalizing s with
  | nil => rfl
  | cons c l ih =>
    obtain ⟨hc, hl'⟩ := List.nodup_cons.1 hnodup
    rw [Act.run_each_cons, Act.run_each_cons, ctxReset_run, if_pos (hready c (by simp))]
    refine ih (fun d hd => hl d (by simp [hd])) hl' fun d hd => ?_
    have hkept := Act.tearStart_keepsState (hl d (by simp [hd])) (fun e : d = c => hc (e ▸ hd)) { reset := true } s
    exact hkept.trans (hready d (by simp [hd]))

theorem mem_readyCtxs {c : Nat} : c ∈ s.readyCtxs ↔ c < 1024 ∧ s.ctxState c = 1 := by
  rw [State.readyCtxs, List.mem_filter, List.mem_range, beq_iff_eq]

/-- What the drain's end counts. -/
def Act.drainLateCounted : Act := .seq (.svc fun v => { v with drainStep := 4 }) (.countFld .serviceCount 0 8 0 32)

theorem Act.drainLateCounted_touches : Act.drainLateCounted.Touches [(.serviceCount, 0)] :=
  touches_seq (touches_units fun _ => ⟨rfl, rfl⟩) (touches_get fun _ => touches_fld (by simp))

theorem drainLateCounted_counts (s : State) : let t := Act.drainLateCounted.run s
    t.u.svc.drainStep = 4 ∧ t.fld .serviceCount 0 8 0 32 = (s.fld .serviceCount 0 8 0 32 + 1) % 2 ^ 32 := by
  intro t
  have hstep : ((Act.svc fun v => { v with drainStep := 4 }).run s).u.svc.drainStep = 4 := rfl
  have hrd : ((Act.svc fun v => { v with drainStep := 4 }).run s).rd .serviceCount = s.rd .serviceCount :=
    (Act.touches_units (l := []) fun _ => ⟨rfl, rfl⟩).keepsRd (by decide) (by simp) s
  have ht : t = (Act.countFld .serviceCount 0 8 0 32).run ((Act.svc fun v => { v with drainStep := 4 }).run s) := rfl
  generalize (Act.svc fun v => { v with drainStep := 4 }).run s = y at *
  have hfld : y.fld .serviceCount 0 8 0 32 = s.fld .serviceCount 0 8 0 32 := congrArg (bits · _ _) hrd
  rw [ht, Act.countFld, Act.run_get]
  refine ⟨(Act.fld_keeps_u (g := fun u => u.svc.drainStep) y).trans hstep, ?_⟩
  rw [y.fld_fld _ ⟨by decide, by decide, fun h => absurd h (by decide)⟩ (by decide), hfld]

theorem drainLate_run (hfw : s.fwRuns = true) (hstep : s.u.svc.drainStep = 3) :
    Act.drainLate.run s = (Act.each (s.readyCtxs.filter s.ctxBusy) .ctxReset).run (Act.drainLateCounted.run s) := by
  rw [Act.drainLate, Act.run_get, hfw, hstep, Act.run_when, if_pos (by decide), Act.run_all_cons, Act.run_all_cons, Act.run_all_cons,
    Act.run_all_nil, Act.drainLateCounted, Act.run_seq]

theorem drainLate_tears (hfw : s.fwRuns = true) (hstep : s.u.svc.drainStep = 3) : let t := Act.drainLate.run s
    t.u.svc.drainStep = 4 ∧ t.fld .serviceCount 0 8 0 32 = (s.fld .serviceCount 0 8 0 32 + 1) % 2 ^ 32 ∧
      ∀ c ∈ s.readyCtxs, s.ctxBusy c = true → t.ctxState c = 2 := by
  have hlt : ∀ c ∈ s.readyCtxs.filter s.ctxBusy, c < 1024 := fun c hc => (mem_readyCtxs.1 (List.mem_filter.1 hc).1).1
  have hready : ∀ c ∈ s.readyCtxs.filter s.ctxBusy, s.ctxState c = 1 := fun c hc => (mem_readyCtxs.1 (List.mem_filter.1 hc).1).2
  have hnodup : (s.readyCtxs.filter s.ctxBusy).Nodup := (List.nodup_range.filter _).filter _
  have hmem {c : Nat} (hc : c ∈ s.readyCtxs) (hbusy : s.ctxBusy c = true) : c ∈ s.readyCtxs.filter s.ctxBusy := List.mem_filter.2 ⟨hc, hbusy⟩
  have hrun := drainLate_run hfw hstep
  obtain ⟨hcounted, hcount⟩ := drainLateCounted_counts s
  have hstate {c : Nat} (hc : c < 1024) : (Act.drainLateCounted.run s).ctxState c = s.ctxState c :=
    Act.drainLateCounted_touches.keepsRd (n := .ctxState) hc (by simp) s
  generalize Act.drainLateCounted.run s = y at *
  generalize s.readyCtxs.filter s.ctxBusy = l at *
  rw [hrun, each_ctxReset hlt hnodup fun c hc => (hstate (hlt c hc)).trans (hready c hc)]
  refine ⟨?_, ?_, fun c hc hbusy => ?_⟩
  · exact (State.plain_drainStep (Act.keeps_each (l := l) (fun c _ => Act.tearStart_keepsPlain c { reset := true }) y)).trans hcounted
  · have hkept := Act.keeps_each (l := l) (f := fun s => s.rd .serviceCount) (g := fun c => .tearStart c { reset := true })
      (fun c _ => (Act.tearStart_touches c { reset := true }).keepsRd (by decide) (by simp [stallCounters])) y
    exact (congrArg (bits · _ _) hkept).trans hcount
  · exact each_at (f := fun c => .tearStart c { reset := true }) (g := fun s => s.ctxState c) (h := fun _ => 2) hnodup (hmem hc hbusy)
      (fun d _ hne => Act.tearStart_keepsState (hlt c (hmem hc hbusy)) hne.symm { reset := true })
      (fun z => (z.tearStart_run (hlt c (hmem hc hbusy)) { reset := true }).teardown) y

/-! ### The ports are held DISABLED -/

theorem Beside.portDisable {α : Type} {f : State → α} (h : Beside f) {p : Nat} (hst : ∀ st, (Act.fld .portStatus p 0 0 4 st).Keeps f) :
    (Act.portDisable p).Keeps f := Act.keeps_get fun _ => Act.keeps_when fun _ =>
  Act.keeps_seq (Act.keeps_when fun _ => h.portDown hst _ _) (h.portTakes (hst _))

/-- The state field of another port. -/
theorem Act.fldPort_keepsOther {p q st : Nat} (hq : q < 8) (h : p ≠ q) : (Act.fld .portStatus p 0 0 4 st).Keeps fun s => s.portSt q := fun s =>
  congrArg (bits · 0 4) (keeps_get (f := fun s => s.rd .portStatus q) (fun _ => reg_keepsOther (k := .portStatus) (j := q) hq
    (by simpa using Ne.symm h)) s)

theorem portSt_takes (s : State) {p st : Nat} (hp : p < 8) (hst : st < 2 ^ 4) : ((Act.portSt p st).run s).portSt p = st := by
  have hhead := s.portHead_portSt hp hst
  rw [State.portHead, Prod.mk.injEq] at hhead
  rw [State.portSt]
  exact hhead.1

theorem portDisable_disables (s : State) {p : Nat} (hp : p < 8) : ((Act.portDisable p).run s).portSt p = 0 := by
  rw [Act.portDisable, Act.run_get, Act.run_when]
  by_cases h : s.portSt p = psDisabled
  · rw [h]
    exact h
  · rw [if_pos (by simpa using h), Act.run_seq]
    exact portSt_takes _ hp (by decide)

/-- Every port is DISABLED. -/
def State.portsOff (s : State) : Prop := ∀ p, p < 8 → s.portSt p = 0

theorem portsDisable_off (s : State) : ((Act.each (List.range 8) .portDisable).run s).portsOff := fun p hp => by
  refine each_reaches (I := fun _ => True) (P := fun y => y.portSt p = 0) (List.mem_range.2 hp) (fun _ _ _ _ => trivial) (fun q _ y _ hy => ?_)
    (fun y _ => portDisable_disables y hp) trivial
  by_cases hq : q = p
  · subst hq
    exact portDisable_disables y hp
  · exact ((Beside.portSt hp).portDisable (fun _ => Act.fldPort_keepsOther hp hq) y).trans hy

/-- What the end of a drain does to the ports. -/
def Act.drainPortsHeld : Act := .seq (.svc fun v => { v with drainStep := 6 }) (.each (List.range 8) .portDisable)

theorem drainPorts_run (hfw : s.fwRuns = true) (hstep : s.u.svc.drainStep = 5) : Act.drainPorts.run s =
    (if s.rd .serviceCairn = 1 then Act.cairnBegin 1 0 0 0 s.u.svc.asked.1 s.u.svc.asked.2 else .serviceReady).run (Act.drainPortsHeld.run s) := by
  rw [Act.drainPorts, Act.run_get, hfw, hstep, Act.run_when, if_pos (by decide), Act.run_all_cons, Act.run_all_cons, Act.run_all_cons,
    Act.run_all_nil, Act.drainPortsHeld, Act.run_seq]

theorem drainPortsHeld_off (s : State) : (Act.drainPortsHeld.run s).portsOff ∧ (Act.drainPortsHeld.run s).u.svc.drainStep = 6 := by
  have hstep : ((Act.svc fun v => { v with drainStep := 6 }).run s).u.svc.drainStep = 6 := rfl
  rw [Act.drainPortsHeld, Act.run_seq]
  generalize (Act.svc fun v => { v with drainStep := 6 }).run s = y at hstep
  have hkept := Act.keeps_each (l := List.range 8) (fun p _ => Beside.plain.portDisable (p := p) fun _ => Act.fld_keeps_u (g := fun u => u.svc.plain)) y
  exact ⟨portsDisable_off y, (State.plain_drainStep hkept).trans hstep⟩

/-! ### Service is reached -/

theorem Act.columnsLost_keepsPorts {p : Nat} (hp : p < 8) (l : List Nat) : (Act.each l .columnLost).Keeps fun s => s.portSt p :=
  keeps_each fun _ _ s => congrArg (bits · 0 4) (columnLost_keepsRd (n := .portStatus) hp (by decide) s)

/-- Memory is off, and nothing of the drain is left to do. -/
def Act.serviceOff : Act := .seq (.pow fun p => { p with memOn := false }) (.svc fun v => { v with drainStep := 7, pressPending := false })

/-- Service is told. -/
def Act.serviceTold : Act := .seq (.countFld .serviceCount 0 4 0 32) (.event allFns 0x08 0 0 0 0)

/-- Ports that a path to service finds in use go off. -/
def Act.portsLeave : Act := .each (List.range 8) fun p => .get fun s => .when (s.portSt p != psDisabled && s.portSt p != psDown) (.portDown p dcReset)

theorem Act.run_pairs (a b c d e f g : Act) (s : State) :
    (Act.all [a, b, c, d, e, f, g]).run s = (Act.seq f g).run (e.run ((Act.seq c d).run (b.run (a.run s)))) := rfl

theorem serviceReady_run (s : State) : Act.serviceReady.run s = Act.serviceTold.run ((Act.reg .serviceState 0 2).run (Act.serviceOff.run
    ((Act.each (List.range 16) .columnLost).run (Act.portsLeave.run s)))) := by
  rw [Act.serviceReady, Act.serviceOff, Act.serviceTold, Act.portsLeave]
  exact Act.run_pairs _ _ _ _ _ _ _ s

theorem Beside.serviceTold {α : Type} {f : State → α} (h : Beside f) (hcount : ∀ v, (Act.reg .serviceCount 0 v).Keeps f) : Act.serviceTold.Keeps f :=
  Act.keeps_seq (Act.keeps_get fun _ => Act.keeps_get fun _ => hcount _) (h.event _ _ _ _ _ _)

theorem portsLeave_off (hoff : s.portsOff) : (Act.portsLeave.run s).portsOff := by
  refine each_stays (P := State.portsOff) (fun p hp y hy => ?_) hoff
  rw [Act.run_get, hy p (List.mem_range.1 hp)]
  exact hy

theorem serviceOff_leaves (s : State) : let t := Act.serviceOff.run s
    t.u.svc.drainStep = 7 ∧ t.u.pow.memOn = false ∧ ∀ p, p < 8 → t.portSt p = s.portSt p := by
  have htouch : Act.serviceOff.Touches [] := Act.touches_seq (Act.touches_pow fun _ => ⟨rfl, rfl⟩) (Act.touches_units fun _ => ⟨rfl, rfl⟩)
  exact ⟨rfl, rfl, fun p hp => congrArg (bits · 0 4) (htouch.keepsRd (n := .portStatus) (i := p) hp (by simp) s)⟩

theorem Act.regService_keepsPort {n : EName} {v p : Nat} (hn : n ≠ .portStatus) (hp : p < 8) : (Act.reg n 0 v).Keeps fun s => s.portSt p := fun s =>
  congrArg (bits · 0 4) (reg_keepsOther (k := .portStatus) (j := p) hp (by simp [hn.symm]) s)

theorem serviceReady_off (hoff : s.portsOff) : let t := Act.serviceReady.run s
    t.u.svc.drainStep = 7 ∧ t.rd .serviceState = 2 ∧ t.u.pow.memOn = false ∧ t.portsOff := by
  rw [serviceReady_run]
  have hports := portsLeave_off hoff
  generalize Act.portsLeave.run s = y at hports
  have hlost (p : Nat) (hp : p < 8) := Act.columnsLost_keepsPorts hp (List.range 16) y
  generalize (Act.each (List.range 16) .columnLost).run y = z at hlost
  obtain ⟨hstep, hmem, hkept⟩ := serviceOff_leaves z
  generalize Act.serviceOff.run z = w at *
  have htold {α : Type} {f : State → α} (h : Beside f) (hcount : ∀ v, (Act.reg .serviceCount 0 v).Keeps f) :=
    h.serviceTold hcount ((Act.reg .serviceState 0 2).run w)
  refine ⟨?_, ?_, ?_, fun p hp => ?_⟩
  · exact (State.plain_drainStep ((htold Beside.plain fun _ => Act.reg_keeps_u (g := fun u => u.svc.plain)).trans
      (Act.reg_keeps_u (g := fun u => u.svc.plain) w))).trans hstep
  · exact (htold (Aside.rd (n := .serviceState) (i := 0) (by decide) (by decide)).beside fun _ => Act.reg_keepsOther (by decide) (by decide)).trans
      (w.rd_reg 2 (.of_vol w (by decide) rfl))
  · exact ((htold (Aside.ofUnits (g := fun u => u.pow.memOn) fun _ _ h => congrArg PowU.memOn h.pow).beside fun _ =>
      Act.reg_keeps_u (g := fun u => u.pow.memOn)).trans (Act.reg_keeps_u (g := fun u => u.pow.memOn) w)).trans hmem
  · exact ((htold (Beside.portSt hp) fun _ => Act.regService_keepsPort (by decide) hp).trans (Act.regService_keepsPort (by decide) hp w)).trans
      ((hkept p hp).trans ((hlost p hp).trans (hports p hp)))

end

end Sys2Proof.Machine
end

section
/-! SUPPORT. Cairns that a drain begins, the service button, SERVICE_CANCEL and the ejector latch (R483, R492 to R494). -/

namespace Sys2Proof.Machine

section
variable {s : State}

/-! ### A cairn begins (R483) -/

theorem Act.reg_keepsLife {n m : EName} {i v : Nat} (hm : 0 < m.count) (hn : n ≠ m) : (Act.reg n i v).Keeps fun s => s.lifeCnt m := fun s => by
  by_cases hi : i < n.count ∧ n.info.pers ≠ .fixed
  · have hkey : m.key 0 ≠ n.key i := fun he => hn (EName.key_inj hm hi.1 he).1.symm
    simp only [State.lifeCnt]
    rw [run_reg_regs _ _ _ _ hi.1 hi.2]
    exact tgetD_tset_other _ _ _ hkey
  · have hsame : (Act.reg n i v).run s = s := if_neg hi
    rw [hsame]

theorem Aside.life {m : EName} (hm : 0 < m.count) (hside : m ∉ sideEntries) : Aside fun s => s.lifeCnt m where
  reg hn := Act.reg_keepsLife hm fun h => hside (h ▸ hn)
  mem := Act.mem_keeps_regs (g := fun r => tgetD r (m.key 0) 0)
  units _ := Act.units_keeps_regs (k := fun r => tgetD r (m.key 0) 0)

theorem cairnCount_rises (s : State) : ((Act.lifeCount .cairnCount).run s).lifeCnt .cairnCount = (s.lifeCnt .cairnCount + 1) % 2 ^ 64 := by
  rw [Act.lifeCount, Act.run_get, State.lifeCnt, Act.run_reg_regs _ _ _ _ (by decide) (by decide), tgetD_tset_same]
  rfl

/-- What a wake from NAP leaves. -/
theorem Act.napWake_keeps {α : Type} {f : State → α} (hpow : ∀ g : PowU → PowU, (∀ p, (g p).flashOk = p.flashOk ∧ (g p).straps = p.straps) → (Act.pow g).Keeps f)
    (hreg : ∀ n v, n = .stateCount ∨ n = .deviceState → (Act.reg n 0 v).Keeps f) : Act.napWake.Keeps f := keeps_get fun _ => keeps_seq
  (keeps_when fun _ => keeps_seq (hpow _ fun _ => ⟨rfl, rfl⟩) (keeps_get fun _ => keeps_get fun _ => hreg _ _ (.inl rfl)))
  (keeps_ite (fun _ => hpow _ fun _ => ⟨rfl, rfl⟩) fun _ => keeps_when fun _ => hreg _ _ (.inr rfl))

/-- A cairn's opening. -/
def Act.cairnOpened (c : Cairn) : Act := .seq .napWake (.seq (.svc fun v => { v with cairn := some c, cairnRetried := false }) (.cairnOpen c))

theorem Act.run_opened (a b c d : Act) (s : State) : (Act.all [a, b, c, d]).run s = (Act.seq b (.seq c d)).run (a.run s) := rfl

theorem cairnBegin_run {cls : Nat} (hcls : cls ≠ 0) (cause source detail time epoch : Nat) (s : State) :
    ∃ c, (Act.cairnBegin cls cause source detail time epoch).run s = (Act.cairnOpened c).run ((Act.lifeCount .cairnCount).run s) := by
  rw [Act.cairnBegin, Act.run_get]
  dsimp only
  rw [if_neg (by tauto)]
  exact ⟨_, Act.run_opened _ _ _ _ s⟩

theorem Act.mem_keepsPlain (m : MemSel) (a : Nat) (bs : PBytes) : (Act.mem m a bs).Keeps fun s => s.u.svc.plain :=
  mem_keeps_u (g := fun u => u.svc.plain)

theorem Act.cairnOpen_keeps {α : Type} {f : State → α} (h : Beside f) (hstack : ∀ a bs, (Act.mem .stack a bs).Keeps f) (c : Cairn) :
    (Act.cairnOpen c).Keeps f := keeps_get fun _ => keeps_when fun _ => h.wrStack hstack _ _

theorem Beside.cairnOpened {α : Type} {f : State → α} (h : Beside f) (hstack : ∀ a bs, (Act.mem .stack a bs).Keeps f)
    (hpow : ∀ g : PowU → PowU, (∀ p, (g p).flashOk = p.flashOk ∧ (g p).straps = p.straps) → (Act.pow g).Keeps f) (hreg : ∀ n v, n = .stateCount ∨ n = .deviceState → (Act.reg n 0 v).Keeps f)
    (hsvc : ∀ c, (Act.svc fun v => { v with cairn := some c, cairnRetried := false }).Keeps f) (c : Cairn) : (Act.cairnOpened c).Keeps f :=
  Act.keeps_seq (Act.napWake_keeps hpow hreg) (Act.keeps_seq (hsvc c) (Act.cairnOpen_keeps h hstack c))

theorem cairnOpened_some (s : State) (c : Cairn) : ((Act.cairnOpened c).run s).u.svc.cairn = some c := by
  have hkept := Act.cairnOpen_keeps Beside.plain (fun _ _ => Act.mem_keepsPlain _ _ _) c
    ((Act.svc fun v => { v with cairn := some c, cairnRetried := false }).run (Act.napWake.run s))
  rw [Act.cairnOpened, Act.run_seq, Act.run_seq]
  exact (congrArg SvcU.cairn hkept :)

theorem drainPorts_cairn {time epoch : Nat} (hoff : s.portsOff) : let t := (Act.cairnBegin 1 0 0 0 time epoch).run s
    t.u.svc.drainStep = s.u.svc.drainStep ∧ t.u.svc.cairn.isSome = true ∧
      t.lifeCnt .cairnCount = (s.lifeCnt .cairnCount + 1) % 2 ^ 64 ∧ t.portsOff := by
  obtain ⟨c, hrun⟩ := cairnBegin_run (cls := 1) (by decide) 0 0 0 time epoch s
  have hlife := cairnCount_rises s
  have hstep : ((Act.lifeCount .cairnCount).run s).u.svc.drainStep = s.u.svc.drainStep :=
    Act.keeps_get (f := fun s => s.u.svc.drainStep) (fun _ => Act.reg_keeps_u (g := fun u => u.svc.drainStep)) s
  have hport (p : Nat) (hp : p < 8) : ((Act.lifeCount .cairnCount).run s).portSt p = s.portSt p :=
    Act.keeps_get (f := fun s => s.portSt p) (fun _ => Act.regService_keepsPort (by decide) hp) s
  rw [hrun]
  generalize (Act.lifeCount .cairnCount).run s = y at *
  refine ⟨?_, ?_, ?_, fun p hp => ?_⟩
  · exact ((Beside.plain.map SvcU.drainStep).cairnOpened (fun _ _ s => congrArg SvcU.drainStep (Act.mem_keepsPlain _ _ _ s)) (fun _ _ _ => rfl)
      (fun n v _ => Act.reg_keeps_u (g := fun u => u.svc.plain.drainStep)) (fun _ _ => rfl) c y).trans hstep
  · rw [cairnOpened_some]
    rfl
  · exact ((Aside.life (m := .cairnCount) (by decide) (by decide)).beside.cairnOpened (fun _ _ => Aside.mem (.life (by decide) (by decide)))
      (fun _ _ _ => rfl) (fun n v hn => Act.reg_keepsLife (by decide) (by rcases hn with rfl | rfl <;> decide)) (fun _ _ => rfl) c y).trans hlife
  · exact ((Beside.portSt hp).cairnOpened (fun a bs y => congrArg (bits · 0 4) (State.rd_congr (by simp) (by simp) .portStatus p))
      (fun g hg y => congrArg (bits · 0 4) ((Act.touches_pow (l := []) hg).keepsRd (n := .portStatus) (i := p) hp (by simp) y)) (fun n v hn => Act.regService_keepsPort (by rcases hn with rfl | rfl <;> decide) hp)
      (fun c y => congrArg (bits · 0 4) ((Act.touches_units (l := []) fun _ => ⟨rfl, rfl⟩).keepsRd (n := .portStatus) (i := p) hp (by simp) y)) c y).trans ((hport p hp).trans (hoff p hp))

theorem drainPorts_holds (hfw : s.fwRuns = true) (hstep : s.u.svc.drainStep = 5) : let t := Act.drainPorts.run s
    (s.rd .serviceCairn ≠ 1 → t.u.svc.drainStep = 7 ∧ t.rd .serviceState = 2 ∧ t.u.pow.memOn = false ∧ ∀ p, p < 8 → t.portSt p = 0) ∧
      (s.rd .serviceCairn = 1 → t.u.svc.drainStep = 6 ∧ t.u.svc.cairn.isSome = true ∧
        t.lifeCnt .cairnCount = (s.lifeCnt .cairnCount + 1) % 2 ^ 64 ∧ ∀ p, p < 8 → t.portSt p = 0) := by
  have hrun := drainPorts_run hfw hstep
  obtain ⟨hoff, hsix⟩ := drainPortsHeld_off s
  have hlife : (Act.drainPortsHeld.run s).lifeCnt .cairnCount = s.lifeCnt .cairnCount :=
    have hview : Beside fun s => s.lifeCnt .cairnCount := (Aside.life (m := .cairnCount) (by decide) (by decide)).beside
    Act.keeps_seq (f := fun s => s.lifeCnt .cairnCount) (fun _ => rfl)
      (Act.keeps_each fun p _ => hview.portDisable fun _ => Act.keeps_get fun _ => Act.reg_keepsLife (by decide) (by decide)) s
  rw [hrun]
  generalize Act.drainPortsHeld.run s = y at *
  refine ⟨fun hno => ?_, fun hyes => ?_⟩
  · rw [if_neg hno]
    exact serviceReady_off hoff
  · rw [if_pos hyes]
    obtain ⟨hkept, hsome, hcount, hports⟩ := drainPorts_cairn (time := s.u.svc.asked.1) (epoch := s.u.svc.asked.2) hoff
    exact ⟨hkept.trans hsix, hsome, hcount.trans (by rw [hlife]), hports⟩

/-! ### SERVICE_CANCEL (R493) -/

theorem Act.answers_keepsPlain (n : EName) (r : Requester) (i v st : Nat) : (Act.answers n r i v st).Keeps fun s => s.u.svc.plain :=
  have hcount {k : Nat} : (Act.count .dictCount 0 k).Keeps fun s => s.u.svc.plain := count_keeps_u (g := fun u => u.svc.plain)
  keeps_seq (keeps_when fun _ => Beside.plain.trace _ _ _ _ _) <| keeps_seq hcount <| keeps_seq (keeps_when fun _ => hcount) <|
    keeps_seq (keeps_when fun _ => hcount) keeps_skip

theorem Act.answers_keepsStack (n : EName) (r : Requester) (i v st : Nat) : (Act.answers n r i v st).Keeps fun s => s.stack :=
  have hcount {k : Nat} : (Act.count .dictCount 0 k).Keeps fun s => s.stack := count_keeps_store .stack
  keeps_seq (keeps_when fun _ => Beside.stack.trace _ _ _ _ _) <| keeps_seq hcount <| keeps_seq (keeps_when fun _ => hcount) <|
    keeps_seq (keeps_when fun _ => hcount) keeps_skip

/-- SERVICE_STATE takes a value, which is told. -/
structure StateTold (s t : State) (v : Nat) : Prop where
  state : t.rd .serviceState = v
  plain : t.u.svc.plain = s.u.svc.plain
  pow : t.u.pow = s.u.pow
  stack : t.stack = s.stack
  rd : ∀ {n : EName} {i : Nat}, i < n.count → n ∉ sideEntries → n ≠ .serviceState → t.rd n i = s.rd n i

theorem stateTold (y : State) {v : Nat} (hv : v < 256) (code : Nat) :
    StateTold y ((Act.event allFns code 0 0 0 0).run ((Act.reg .serviceState 0 v).run y)) v := by
  have htold {α : Type} {f : State → α} (h : Beside f) := h.event allFns code 0 0 0 0 ((Act.reg .serviceState 0 v).run y)
  refine ⟨?_, ?_, ?_, ?_, fun {n i} hi hn hne => ?_⟩
  · exact (htold (Aside.rd (n := .serviceState) (i := 0) (by decide) (by decide)).beside).trans
      ((y.rd_reg v (.of_vol y (by decide) rfl)).trans (Nat.mod_eq_of_lt hv))
  · exact (htold Beside.plain).trans (Act.reg_keeps_u (g := fun u => u.svc.plain) y)
  · exact (htold (Aside.ofUnits (g := fun u => u.pow) fun _ _ h => h.pow).beside).trans (Act.reg_keeps_u (g := fun u => u.pow) y)
  · exact (htold Beside.stack).trans (Act.reg_keeps_store .stack y)
  · exact (htold (Aside.rd hn hi).beside).trans (Act.reg_keepsOther hi (by simp [hne]) y)

/-- The drain is given up. -/
def Act.drainCancelled (s : State) : Act := .seq (.svc fun w => { w with frozen := false, drainStep := 0 }) (.trace 0x0A 0 0 3 (s.rd .serviceState))

def Act.drainCancels (s : State) : Act := .seq (.drainCancelled s) (.seq (.reg .serviceState 0 0) (.event allFns 0x09 0 0 0 0))

theorem Act.run_cancels (a b c d e : Act) (s : State) : (Act.all [a, b, c, d, e]).run s = e.run ((Act.seq (.seq a b) (.seq c d)).run s) := by
  simp only [Act.run_all_cons, Act.run_all_nil, Act.run_seq]

theorem serviceCancel_cancels {r : Requester} (h : Accepts s r .serviceCancel 0 1) (hstep : s.u.svc.drainStep = 3 ∨ s.u.svc.drainStep = 4) :
    let t := (Act.entryRow .serviceCancel ruleServiceCancel r 0 1).run s
    t.u.svc.drainStep = 0 ∧ t.u.svc.frozen = false ∧ t.rd .serviceState = 0 ∧ t.stack = s.stack := by
  have hasked : (s.asked r .serviceCancel 0).u.svc = s.u.svc := State.asked_units (g := fun u => u.svc) fun _ _ => rfl
  have hstack : (s.asked r .serviceCancel 0).stack = s.stack := State.asked_store .stack
  have hrun : (Act.entryRow .serviceCancel ruleServiceCancel r 0 1).run s = (Act.answers .serviceCancel r 0 1 stOk).run
      ((Act.drainCancels (s.asked r .serviceCancel 0)).run (s.asked r .serviceCancel 0)) := by
    rw [h.entryRow_run (by simp [State.ownerFn]), ruleServiceCancel, Act.run_get, hasked, if_pos ⟨rfl, hstep⟩, Act.drainCancels,
      Act.drainCancelled]
    exact Act.run_cancels _ _ _ _ _ _
  rw [hrun]
  generalize s.asked r .serviceCancel 0 = x at *
  have hplain : ((Act.drainCancelled x).run x).u.svc.plain = ((Act.svc fun w => { w with frozen := false, drainStep := 0 }).run x).u.svc.plain :=
    Beside.plain.trace _ _ _ _ _ _
  have hkept : ((Act.drainCancelled x).run x).stack = x.stack := Act.keeps_seq (f := fun s => s.stack) (fun _ => rfl) (Beside.stack.trace _ _ _ _ _) x
  have hfrozen : ((Act.drainCancelled x).run x).u.svc.drainStep = 0 ∧ ((Act.drainCancelled x).run x).u.svc.frozen = false :=
    ⟨(congrArg SvcU.drainStep hplain :), (congrArg SvcU.frozen hplain :)⟩
  rw [Act.drainCancels, Act.run_seq, Act.run_seq]
  generalize (Act.drainCancelled x).run x = y at *
  have htold := stateTold y (v := 0) (by decide) 0x09
  generalize (Act.event allFns 0x09 0 0 0 0).run ((Act.reg .serviceState 0 0).run y) = w at *
  have hend : ((Act.answers .serviceCancel r 0 1 stOk).run w).u.svc.plain = y.u.svc.plain :=
    (Act.answers_keepsPlain .serviceCancel r 0 1 stOk w).trans htold.plain
  refine ⟨((congrArg SvcU.drainStep hend :)).trans hfrozen.1, ((congrArg SvcU.frozen hend :)).trans hfrozen.2, ?_, ?_⟩
  · exact ((Act.answers_touches .serviceCancel r 0 1 stOk w).2 .serviceState 0 (by decide) (by decide)).trans htold.state
  · exact (Act.answers_keepsStack .serviceCancel r 0 1 stOk w).trans (htold.stack.trans (hkept.trans hstack))

/-! ### The service button (R492) -/

/-- A drain begins. -/
def Act.drainFrozen (s : State) : Act := .svc fun v => { v with frozen := true, drainStep := 3, asked := (s.now, s.rd .recoveryEpoch) }

theorem drainStart_run (s : State) : Act.drainStart.run s = Act.closeSessions.run
    ((Act.drainFrozen s).run ((Act.event allFns 0x07 0 0 0 0).run ((Act.reg .serviceState 0 1).run s))) := by
  rw [Act.drainStart, Act.run_get, Act.run_all_cons, Act.run_all_cons, Act.run_all_cons, Act.run_all_cons, Act.run_all_nil, Act.drainFrozen]

theorem closeSessions_none (h : ∀ i, i < 256 → s.rd .sessionState i ≠ 1 ∧ s.rd .sessionState i ≠ 2) : Act.closeSessions.run s = s := by
  have hnone : ((List.range 256).filter fun i => [1, 2].contains (s.rd .sessionState i)) = [] := by
    rw [List.filter_eq_nil_iff]
    intro i hi
    obtain ⟨h1, h2⟩ := h i (List.mem_range.1 hi)
    simp [h1, h2]
  rw [Act.closeSessions, Act.run_get, hnone, Act.run_each_nil]

/-- A drain that finds no session to close. -/
theorem drainStart_starts (h : ∀ i, i < 256 → s.rd .sessionState i ≠ 1 ∧ s.rd .sessionState i ≠ 2) : let t := Act.drainStart.run s
    t.rd .serviceState = 1 ∧ t.u.svc.drainStep = 3 ∧ t.u.svc.frozen = true ∧ t.u.pow = s.u.pow ∧ t.stack = s.stack ∧
      t.rd .serviceCount = s.rd .serviceCount := by
  rw [drainStart_run]
  have htold := stateTold s (v := 1) (by decide) 0x07
  generalize (Act.event allFns 0x07 0 0 0 0).run ((Act.reg .serviceState 0 1).run s) = y at *
  have htouch : (Act.drainFrozen s).Touches [] := Act.touches_units fun _ => ⟨rfl, rfl⟩
  have hrd {n : EName} {i : Nat} (hi : i < n.count) : ((Act.drainFrozen s).run y).rd n i = y.rd n i := htouch.keepsRd hi (by simp) y
  have hsvc : ((Act.drainFrozen s).run y).u.svc.drainStep = 3 ∧ ((Act.drainFrozen s).run y).u.svc.frozen = true ∧
      ((Act.drainFrozen s).run y).u.pow = y.u.pow ∧ ((Act.drainFrozen s).run y).stack = y.stack := ⟨rfl, rfl, rfl, rfl⟩
  generalize (Act.drainFrozen s).run y = z at *
  obtain ⟨hstep, hfrozen, hpow, hstack⟩ := hsvc
  rw [closeSessions_none fun i hi => by
    rw [hrd (n := .sessionState) hi, htold.rd (n := .sessionState) hi (by decide) (by decide)]
    exact h i hi]
  exact ⟨(hrd (n := .serviceState) (by decide)).trans htold.state, hstep, hfrozen, hpow.trans htold.pow, hstack.trans htold.stack,
    (hrd (n := .serviceCount) (by decide)).trans (htold.rd (by decide) (by decide) (by decide))⟩

/-- A press is counted, traced and raises its source. -/
def Act.pressNoted (s : State) : Act := .all [.countFld .serviceCount 0 0 0 32, .trace 0x0A 0 0 0 (s.rd .serviceState), .raiseSrc 111]

theorem pressNoted_notes (s : State) : let t := (Act.pressNoted s).run s
    t.fld .serviceCount 0 0 0 32 = (s.fld .serviceCount 0 0 0 32 + 1) % 2 ^ 32 ∧ t.u.svc.plain = s.u.svc.plain ∧ t.u.pow = s.u.pow ∧
      t.stack = s.stack ∧ ∀ {n : EName} {i : Nat}, i < n.count → n ≠ .serviceCount → t.rd n i = s.rd n i := by
  have hrest {α : Type} {f : State → α} (h : Beside f) : (Act.all [.trace 0x0A 0 0 0 (s.rd .serviceState), .raiseSrc 111]).Keeps f :=
    Act.keeps_seq (h.trace _ _ _ _ _) <| Act.keeps_seq (h.raiseSrc _) Act.keeps_skip
  have htouch : (Act.all [.trace 0x0A 0 0 0 (s.rd .serviceState), .raiseSrc 111]).Touches [] :=
    Act.touches_seq (Act.trace_touches _ _ _ _ _) <| Act.touches_seq (Act.raiseSrc_touches _) Act.touches_skip
  have hcount := s.fld_fld (n := .serviceCount) (i := 0) (off := 0) (lo := 0) (len := 32) (s.fld .serviceCount 0 0 0 32 + 1)
    ⟨by decide, by decide, fun h => absurd h (by decide)⟩ (by decide)
  have hplain : ((Act.countFld .serviceCount 0 0 0 32).run s).u.svc.plain = s.u.svc.plain :=
    Act.keeps_get (f := fun s => s.u.svc.plain) (fun _ => Act.fld_keeps_u (g := fun u => u.svc.plain)) s
  have hpow : ((Act.countFld .serviceCount 0 0 0 32).run s).u.pow = s.u.pow :=
    Act.keeps_get (f := fun s => s.u.pow) (fun _ => Act.fld_keeps_u (g := fun u => u.pow)) s
  have hstack : ((Act.countFld .serviceCount 0 0 0 32).run s).stack = s.stack :=
    Act.keeps_get (f := fun s => s.stack) (fun _ => Act.fld_keeps_store .stack) s
  have hrd {n : EName} {i : Nat} (hi : i < n.count) (hn : n ≠ .serviceCount) : ((Act.countFld .serviceCount 0 0 0 32).run s).rd n i = s.rd n i :=
    Act.keeps_get (f := fun s => s.rd n i) (fun _ => Act.keeps_get fun _ => Act.reg_keepsOther hi (by simp [hn])) s
  have hfld : ((Act.countFld .serviceCount 0 0 0 32).run s).fld .serviceCount 0 0 0 32 = (s.fld .serviceCount 0 0 0 32 + 1) % 2 ^ 32 := by
    rw [Act.countFld, Act.run_get]
    exact hcount
  rw [Act.pressNoted, Act.run_all_cons]
  generalize (Act.countFld .serviceCount 0 0 0 32).run s = y at *
  exact ⟨(congrArg (bits · _ _) (htouch.keepsRd (n := .serviceCount) (i := 0) (by decide) (by simp) y)).trans hfld,
    (hrest Beside.plain y).trans hplain, (hrest (Aside.ofUnits (g := fun u => u.pow) fun _ _ h => h.pow).beside y).trans hpow,
    (hrest Beside.stack y).trans hstack, fun hi hn => (htouch.keepsRd hi (by simp) y).trans (hrd hi hn)⟩

theorem press_run (hpower : s.u.pow.power = true) (hfw : s.fwRuns = true) (hrestart : s.u.pow.restarting = false) :
    Act.press.run s = Act.pressed.run ((Act.pressNoted s).run s) := by
  rw [Act.press, Act.run_get, hpower, hfw, hrestart, Act.run_when, if_pos rfl, Act.run_all_cons, Act.run_all_cons, Act.run_all_cons,
    Act.run_all_cons, Act.run_all_nil, if_neg (by decide), Act.run_when, if_pos rfl, Act.pressNoted, Act.run_all_cons, Act.run_all_cons,
    Act.run_all_cons, Act.run_all_nil]

theorem pressed_run (hen : s.rd .serviceEn = 1) (hst : s.rd .serviceState = 0) (hstep : s.u.svc.drainStep = 0) (hfatal : s.u.pow.fatal = false)
    (hready : s.u.pow.ready = true) : Act.pressed.run s = Act.drainStart.run s := by
  rw [Act.pressed, Act.run_get, hen, hst, hstep, hfatal, hready]
  rfl

theorem press_drains (hpower : s.u.pow.power = true) (hfw : s.fwRuns = true) (hrestart : s.u.pow.restarting = false) (hen : s.rd .serviceEn = 1)
    (hready : s.u.pow.ready = true) (hst : s.rd .serviceState = 0) (hstep : s.u.svc.drainStep = 0) (hfatal : s.u.pow.fatal = false)
    (hses : ∀ i, i < 256 → s.rd .sessionState i ≠ 1 ∧ s.rd .sessionState i ≠ 2) : let t := Act.press.run s
    t.rd .serviceState = 1 ∧ t.statusLight = .blink .blue 20 ∧ t.u.svc.drainStep = 3 ∧ t.u.svc.frozen = true ∧
      t.fld .serviceCount 0 0 0 32 = (s.fld .serviceCount 0 0 0 32 + 1) % 2 ^ 32 ∧ t.stack = s.stack := by
  rw [press_run hpower hfw hrestart]
  obtain ⟨hcount, hplain, hpow, hstack, hrd⟩ := pressNoted_notes s
  generalize (Act.pressNoted s).run s = y at *
  rw [pressed_run ((hrd (n := .serviceEn) (by decide) (by decide)).trans hen) ((hrd (n := .serviceState) (by decide) (by decide)).trans hst)
    ((State.plain_drainStep hplain).trans hstep) (by rw [hpow, hfatal]) (by rw [hpow, hready])]
  obtain ⟨hone, hthree, hfrozen, hpow', hstack', hkept⟩ := drainStart_starts (s := y) fun i hi => by
    rw [hrd (n := .sessionState) hi (by decide)]
    exact hses i hi
  generalize Act.drainStart.run y = t at *
  refine ⟨hone, ?_, hthree, hfrozen, (congrArg (bits · _ _) hkept).trans hcount, hstack'.trans hstack⟩
  rw [State.statusLight, hone, hpow', hpow, hpower]
  rfl

end

end Sys2Proof.Machine
end

section
/-! SUPPORT. Cairns that are written, and what stops them; the ejector latch (R482 to R486, R494). -/

namespace Sys2Proof.Machine

/-! ### Clean bytes that fill whole bursts (R273) -/

/-- A clean write marks no grain, and the grains it covers whole carry no mark after it. -/
theorem poisonAfter_clean {grain a : Nat} {bs : PBytes} (hgrain : 0 < grain) (hclean : anyPoison bs = false) {x : Nat} (k g : Nat) (p : List Nat)
    (h : x ∉ p ∨ (g ≤ x ∧ x < g + k ∧ a ≤ x * grain ∧ (x + 1) * grain ≤ a + bs.length)) : x ∉ poisonAfter grain a bs k g p := by
  induction k generalizing g p with
  | zero =>
    rcases h with h | ⟨h1, h2, -⟩
    · exact h
    · omega
  | succ k ih =>
    have hpart (n m : Nat) : (((bs.drop n).take m).any Prod.snd) = false := by
      rw [List.any_eq_false]
      exact fun y hy => List.any_eq_false.1 hclean y (List.mem_of_mem_drop (List.mem_of_mem_take hy))
    rw [poisonAfter]
    rw [hpart, if_neg (by decide)]
    refine ih _ _ ?_
    rcases h with h | ⟨h1, h2, h3, h4⟩
    · left
      split
      · exact fun hx => h (List.mem_filter.1 hx).1
      · exact h
    · rcases Nat.eq_or_lt_of_le h1 with rfl | hlt
      · left
        have hwhole : min (a + bs.length) ((g + 1) * grain) - max a (g * grain) = grain := by
          rw [Nat.min_eq_right h4, Nat.max_eq_right h3, Nat.succ_mul]
          omega
        rw [if_pos hwhole]
        exact fun hx => by simpa using (List.mem_filter.1 hx).2
      · exact .inr ⟨hlt, by omega, h3, h4⟩

/-- Clean bytes that fill whole bursts of stack memory read as they were written. -/
theorem rdMem_written {s : State} {x : Store} {a : Nat} {bs : PBytes} (hwf : Store.Wf .stack x) (hs : s.stack = x.write .stack a bs)
    (hclean : anyPoison bs = false) (ha : 64 ∣ a) (hlen : 64 ∣ bs.length) (hend : a + bs.length ≤ stackSize) :
    s.rdMem .stack a bs.length = bs := by
  have htake : bs.take (MemSel.stack.size - a) = bs := List.take_of_length_le (by
    show bs.length ≤ stackSize - a
    omega)
  refine List.ext_getElem (by simp [State.rdMem]) fun i hi hi' => ?_
  have hbyte := Store.byte_write x .stack a bs (a + i) hwf
  rw [if_pos ⟨by omega, by omega, Nat.lt_of_lt_of_le (by omega) hend⟩] at hbyte
  have hmark : (s.stack.poison.contains ((a + i) / 64)) = false := by
    rw [hs]
    by_cases hempty : bs = []
    · simp [hempty] at hi'
    · have hpos : 0 < bs.length := List.length_pos_iff.2 hempty
      obtain ⟨c, rfl⟩ := ha
      obtain ⟨n, hn⟩ := hlen
      have hnot := poisonAfter_clean (grain := 64) (a := 64 * c) (bs := bs) (x := (64 * c + i) / 64) (by decide) hclean
        ((64 * c + bs.length - 1) / 64 + 1 - 64 * c / 64) (64 * c / 64) x.poison (.inr ⟨by omega, by omega, by omega, by omega⟩)
      have hpoison : (x.write .stack (64 * c) bs).poison =
          poisonAfter 64 (64 * c) bs ((64 * c + bs.length - 1) / 64 + 1 - 64 * c / 64) (64 * c / 64) x.poison := by
        rw [Store.write]
        dsimp only
        rw [htake, if_neg (by simpa using hempty)]
        rfl
      rw [hpoison]
      simpa using hnot
  have hdata : (dataOf bs).getD i 0#8 = bs[i].1 := by simp [dataOf, List.getD_eq_getElem?_getD, hi']
  have hflag : bs[i].2 = false := by simpa using List.any_eq_false.1 hclean bs[i] (List.getElem_mem hi')
  rw [hs] at hmark
  simp only [State.rdMem, List.getElem_map, List.getElem_range, State.store, hs, hbyte, MemSel.grain, hmark]
  rw [show a + i - a = i by omega, hdata]
  exact Prod.ext rfl hflag.symm

/-! ### Sections of a cairn (R484, R485) -/

section
variable {s : State}

/-- A section and its entry in the cairn's directory are written. -/
def Act.cairnPut (s : State) (c : Cairn) (p : (Nat × Nat × List Byte) × Nat) : Act :=
  .seq (.when (s.cairnTaken c) (.seq (.wrStack (cairnSlot c.slot + p.1.2.1) (p.1.2.2.map fun b => (b, false)))
      (.wrStack (cairnSlot c.slot + 0x100 + 16 * p.2) ((dirEntry p.1).map fun b => (b, false)))))
    (.when (s.mirrors c && s.mirrorFits p.1) (.seq (.mem .host (s.fld .cairnHost 0 0 0 64 + p.1.2.1) (p.1.2.2.map fun b => (b, false)))
      (.mem .host (s.fld .cairnHost 0 0 0 64 + 0x100 + 16 * p.2) ((dirEntry p.1).map fun b => (b, false)))))

/-- The sections of a cairn that are written. -/
def Act.cairnPuts (s : State) (c : Cairn) (n : Nat) : Act := .seq (.when c.done.isEmpty (.cairnOpen c))
  (.each (((placeSections 0x1000 (s.cairnFirst c n)).zipIdx).drop c.done.length) (.cairnPut s c))

theorem cairnGo_run {c : Cairn} (h : s.u.svc.cairn = some c) (n : Nat) : (Act.cairnGo n).run s =
    (Act.svc fun v => { v with cairn := some { c with done := s.cairnFirst c n } }).run ((Act.cairnPuts s c n).run s) := by
  rw [Act.cairnGo, Act.run_get, h]
  dsimp only
  rw [Act.run_all_cons, Act.run_all_cons, Act.run_all_cons, Act.run_all_nil, Act.cairnPuts, Act.run_seq]
  rfl

section
variable {α : Type} {f : State → α} (h : Beside f) (hstack : ∀ a bs, (Act.mem .stack a bs).Keeps f)
include h hstack

theorem Beside.cairnPuts (s : State) (c : Cairn) (n : Nat) : (Act.cairnPuts s c n).Keeps f :=
  Act.keeps_seq (Act.keeps_when fun _ => Act.cairnOpen_keeps h hstack c) <| Act.keeps_each fun _ _ =>
    Act.keeps_seq (Act.keeps_when fun _ => Act.keeps_seq (h.wrStack hstack _ _) (h.wrStack hstack _ _))
      (Act.keeps_when fun _ => Act.keeps_seq h.host h.host)

theorem Beside.cairnGo (hsvc : ∀ c, (Act.svc fun v => { v with cairn := some c }).Keeps f) (n : Nat) : (Act.cairnGo n).Keeps f := fun s => by
  cases hc : s.u.svc.cairn with
  | none => rw [Act.cairnGo, Act.run_get, hc]; rfl
  | some c =>
    rw [cairnGo_run hc]
    exact (hsvc _ _).trans (h.cairnPuts hstack s c n s)

theorem Beside.cairnSome (hsvc : ∀ c, (Act.svc fun v => { v with cairn := some c }).Keeps f) : Act.cairnSome.Keeps f :=
  Act.keeps_get fun _ => Act.keeps_when fun _ => Act.keeps_get fun _ =>
    Act.keeps_seq (h.side fun _ => ⟨⟨rfl, rfl, rfl, rfl, rfl⟩, rfl⟩) (h.cairnGo hstack hsvc _)

end

theorem cairnGo_cairn {c : Cairn} (h : s.u.svc.cairn = some c) (n : Nat) :
    ((Act.cairnGo n).run s).u.svc.cairn = some { c with done := s.cairnFirst c n } := by
  rw [cairnGo_run h]
  rfl

/-! ### A cairn is complete (R486) -/

theorem wrStack_written {a : Nat} {bs : PBytes} (hinv : s.Inv) (hch : s.u.pow.failedCh = []) (hclean : anyPoison bs = false) (ha : 64 ∣ a)
    (hlen : 64 ∣ bs.length) (hend : a + bs.length ≤ stackSize) : ((Act.wrStack a bs).run s).rdMem .stack a bs.length = bs := by
  have hrun : (Act.wrStack a bs).run s = (Act.mem .stack a bs).run ((Act.settleErrs a bs.length).run s) := by
    rw [Act.wrStack, Act.run_get]
    simp only [hch, List.isEmpty_nil, if_true, hclean, Act.when_false, Act.run_all_cons, Act.run_all_nil, Act.run_skip]
  rw [hrun]
  exact rdMem_written (x := ((Act.settleErrs a bs.length).run s).stack) (hinv.run _).stack rfl hclean ha hlen hend

theorem wordBytes_length (ws : List Nat) : (wordBytes ws).length = 8 * ws.length := by
  rw [wordBytes, List.length_flatMap]
  simp [cleanBytes_length, Nat.mul_comm]

theorem cairnHeader_length (s : State) (c : Cairn) (st mirror len sections digest : Nat) :
    (wordBytes (s.cairnHeader c st mirror len sections digest)).length = 256 := by
  rw [wordBytes_length]
  rfl

/-- What the header of a cairn is told by, but for how far it has come. -/
theorem State.cairnHeader_congr {s t : State} {c d : Cairn} (hlife : t.lifeCnt .cairnCount = s.lifeCnt .cairnCount)
    (hfw : t.rd .fwVersion = s.rd .fwVersion) (hserial : t.rd .serial = s.rd .serial) (hd : ∃ done, d = { c with done := done })
    (st mirror len sections digest : Nat) : t.cairnHeader d st mirror len sections digest = s.cairnHeader c st mirror len sections digest := by
  obtain ⟨done, rfl⟩ := hd
  rw [State.cairnHeader, State.cairnHeader, hlife, hfw, hserial]

/-- No cairn is being written. -/
def Act.cairnGone : Act := .svc fun v => { v with cairn := none }

theorem cairnGone_leaves (w : State) : (Act.cairnGone.run w).u.svc.cairn = none ∧ (Act.cairnGone.run w).stack = w.stack ∧
    (Act.cairnGone.run w).rd .cairnLatest = w.rd .cairnLatest :=
  ⟨rfl, rfl, (Aside.rd (n := .cairnLatest) (i := 0) (by decide) (by decide)).svc _ w⟩

/-- A cairn's header is written, and its end is told. -/
def Act.cairnFinish (x : State) (c : Cairn) (header : PBytes) (copied : Bool) (data : Nat) : Act :=
  .all [.when (x.cairnTaken c) (.seq (.wrStack (cairnSlot c.slot) header) (.reg .cairnLatest 0 (c.slot + 2))),
    .when copied (.mem .host (x.fld .cairnHost 0 0 0 64) header), .cairnGone, .event [0] 0x06 0 0 0 data,
    .when (c.cls == 1 || x.u.svc.pressPending) .serviceReady]

theorem Act.run_finish (a b c d e g : Act) (s : State) :
    (Act.all [.when true (.seq a b), c, d, e, .when (false || false) g]).run s = e.run (d.run (c.run (b.run (a.run s)))) := by
  rw [Bool.or_false, Act.when_true, Act.when_false, Act.run_all_cons, Act.run_all_cons, Act.run_all_cons, Act.run_all_cons, Act.run_all_cons,
    Act.run_all_nil, Act.run_skip, Act.run_seq]

theorem cairnDone_run {c d : Cairn} (h : s.u.svc.cairn = some c) (hruns : s.cairnRuns = true)
    (hd : ((Act.cairnGo 6).run s).u.svc.cairn = some d) : let x := (Act.cairnGo 6).run s
    ∃ mirror len sections digest copied data, Act.cairnDone.run s = (Act.cairnFinish x d
      (wordBytes (x.cairnHeader d (if x.cairnTaken d then 1 else 3) mirror len sections digest)) copied data).run x := by
  intro x
  have hrun : Act.cairnDone.run s = (Act.get fun s => match s.u.svc.cairn with
      | none => .skip
      | some c =>
        .cairnFinish s c (wordBytes (s.cairnHeader c (if s.cairnTaken c then 1 else 3) (s.mirrored c) (endOf (placeSections 0x1000 c.done))
          (placeSections 0x1000 c.done).length (Config.sm3 (cairnBody (placeSections 0x1000 c.done))))) (s.mirrors c && s.mirrored c != 0)
          (c.slot + 2 * b2n (s.mirrors c && s.mirrored c != 0) + endOf (placeSections 0x1000 c.done) * 2 ^ 32)).run x := by
    rw [Act.cairnDone, Act.run_get, h]
    dsimp only
    rw [hruns, Act.run_when, if_pos rfl, Act.run_seq]
    rfl
  rw [hrun, Act.run_get, hd]
  exact ⟨_, _, _, _, _, _, rfl⟩

/-- A cairn that the stacks take, and that neither a drain nor a press waits for, is complete. -/
theorem cairnDone_completes {c : Cairn} (h : s.u.svc.cairn = some c) (hfw : s.fwRuns = true) (hnap : s.u.pow.nap = false) (hmem : s.u.pow.memOn = true)
    (hloop : s.loopback = false) (hrefused : c.refused = false) (hcls : c.cls ≠ 1) (hpress : s.u.svc.pressPending = false)
    (hch : s.u.pow.failedCh = []) (hinv : s.Inv) (hslot : c.slot < 2) : let t := Act.cairnDone.run s
    t.u.svc.cairn = none ∧ t.rd .cairnLatest = c.slot + 2 ∧ ∃ mirror len sections digest,
      t.rdMem .stack (cairnSlot c.slot) 256 = wordBytes (s.cairnHeader c 1 mirror len sections digest) := by
  have hruns : s.cairnRuns = true := by rw [State.cairnRuns, hfw, hnap, State.ownGoes, hloop]; rfl
  have hkeep {α : Type} {f : State → α} (hf : Aside f) : f ((Act.cairnGo 6).run s) = f s :=
    hf.beside.cairnGo (fun _ _ => hf.mem) (fun _ => hf.svc _) 6 s
  have hpow : ((Act.cairnGo 6).run s).u.pow = s.u.pow := hkeep (.ofUnits (g := fun u => u.pow) fun _ _ h => h.pow)
  have hloop' : ((Act.cairnGo 6).run s).loopback = s.loopback :=
    hkeep ((Aside.rd (n := .lbCtrl) (i := 0) (by decide) (by decide)).map fun v => bits v 31 1 == 1)
  have hlife : ((Act.cairnGo 6).run s).lifeCnt .cairnCount = s.lifeCnt .cairnCount := hkeep (.life (by decide) (by decide))
  have hversion : ((Act.cairnGo 6).run s).rd .fwVersion = s.rd .fwVersion := hkeep (.rd (by decide) (by decide))
  have hserial : ((Act.cairnGo 6).run s).rd .serial = s.rd .serial := hkeep (.rd (by decide) (by decide))
  have hpress' : ((Act.cairnGo 6).run s).u.svc.pressPending = s.u.svc.pressPending :=
    (Beside.plain.map SvcU.pressPending).cairnGo (fun _ _ y => congrArg SvcU.pressPending (Act.mem_keepsPlain _ _ _ y)) (fun _ _ => rfl) 6 s
  have hcairn := cairnGo_cairn h 6
  obtain ⟨mirror, len, sections, digest, copied, data, hrun⟩ := cairnDone_run h hruns hcairn
  have hinv' := hinv.run (Act.cairnGo 6)
  generalize hd : ({ c with done := s.cairnFirst c 6 } : Cairn) = d at hcairn hrun
  have hslot' : d.slot = c.slot := by rw [← hd]
  have hcls' : (d.cls == 1) = false := by
    rw [← hd]
    simpa using hcls
  generalize (Act.cairnGo 6).run s = x at *
  have htaken : x.cairnTaken d = true := by
    rw [State.cairnTaken, State.ownGoes, hpow, hmem, hloop', hloop, ← hd, hrefused]
    rfl
  rw [htaken, if_pos rfl, State.cairnHeader_congr hlife hversion hserial ⟨_, hd.symm⟩] at hrun
  have hlen := cairnHeader_length s c 1 mirror len sections digest
  have hwritten := wrStack_written (s := x) (a := cairnSlot c.slot) (bs := wordBytes (s.cairnHeader c 1 mirror len sections digest)) hinv'
    (by rw [hpow, hch]) (anyPoison_wordBytes _) (by rw [cairnSlot, cairnBase]; omega) (by rw [hlen]; decide)
    (by rw [hlen, cairnSlot, cairnBase, stackSize]; omega)
  rw [hlen] at hwritten
  rw [hrun]
  generalize hheader : wordBytes (s.cairnHeader c 1 mirror len sections digest) = header at *
  rw [Act.cairnFinish, htaken, hslot', hcls', hpress', hpress, Act.run_finish]
  generalize (Act.wrStack (cairnSlot c.slot) header).run x = y at *
  have hlatest : ((Act.reg .cairnLatest 0 (c.slot + 2)).run y).rd .cairnLatest = c.slot + 2 :=
    (y.rd_reg _ ⟨by decide, by decide, fun h => absurd h (by decide)⟩).trans (Nat.mod_eq_of_lt (by
      show c.slot + 2 < 2 ^ 8
      omega))
  have hreg : ((Act.reg .cairnLatest 0 (c.slot + 2)).run y).stack = y.stack := Act.reg_keeps_store .stack y
  generalize (Act.reg .cairnLatest 0 (c.slot + 2)).run y = z at *
  have hcopy {α : Type} {f : State → α} (hf : Beside f) : f ((Act.when copied (.mem .host (x.fld .cairnHost 0 0 0 64) header)).run z) = f z :=
    Act.keeps_when (fun _ => hf.host) z
  have hstack := hcopy Beside.stack
  have hrd := hcopy (Aside.rd (n := .cairnLatest) (i := 0) (by decide) (by decide)).beside
  generalize (Act.when copied (.mem .host (x.fld .cairnHost 0 0 0 64) header)).run z = w at *
  obtain ⟨hgone, hrest, hrest'⟩ := cairnGone_leaves w
  generalize Act.cairnGone.run w = v at *
  have hplain : ((Act.event [0] 0x06 0 0 0 data).run v).u.svc.plain = v.u.svc.plain := Beside.plain.event [0] 0x06 0 0 0 data v
  have hend : ((Act.event [0] 0x06 0 0 0 data).run v).stack = v.stack := Beside.stack.event [0] 0x06 0 0 0 data v
  have hend' : ((Act.event [0] 0x06 0 0 0 data).run v).rd .cairnLatest = v.rd .cairnLatest :=
    (Aside.rd (n := .cairnLatest) (i := 0) (by decide) (by decide)).event [0] 0x06 0 0 0 data v
  generalize (Act.event [0] 0x06 0 0 0 data).run v = t at *
  refine ⟨(congrArg SvcU.cairn hplain :).trans hgone, hend'.trans (hrest'.trans (hrd.trans hlatest)), mirror, len, sections, digest, ?_⟩
  rw [hheader, ← hwritten, State.rdMem, State.rdMem, State.store, State.store, hend, hrest, hstack, hreg]

/-! ### A cairn that takes too long (R471, R482) -/

/-- What the watchdog counts before a cairn stops. -/
def Act.watchdogCounted : Act := .seq (.svc fun v => { v with cairnRetried := true }) (.seq (.countFld .resetCount 0 12 0 32) (.errEvent 57 0))

theorem Beside.watchdogCounted {α : Type} {f : State → α} (h : Beside f) (hsvc : (Act.svc fun v => { v with cairnRetried := true }).Keeps f)
    (hcount : ∀ v, (Act.reg .resetCount 0 v).Keeps f) : Act.watchdogCounted.Keeps f :=
  Act.keeps_seq hsvc (Act.keeps_seq (Act.keeps_get fun _ => Act.keeps_get fun _ => hcount _) (h.errEvent _ _))

/-- What the watchdog's restart does after its counts, where no molt runs. -/
def Act.watchdogStops : Act := .seq .cairnSome (.pow fun p => { p with restarting := true })

theorem cairnLate_run (hfatal : s.u.pow.fatal = true) (hsome : s.u.svc.cairn.isSome = true) (hretried : s.u.svc.cairnRetried = false)
    (hfw : s.fwRuns = true) (hmolt : s.moltRuns = false) : Act.cairnLate.run s = Act.watchdogStops.run (Act.watchdogCounted.run s) := by
  have hquiet : (Act.watchdogCounted.run s).moltRuns = false := by
    have hrd : (Act.watchdogCounted.run s).rd .moltState = s.rd .moltState :=
      (Aside.rd (n := .moltState) (i := 0) (by decide) (by decide)).beside.watchdogCounted
        ((Aside.rd (n := .moltState) (i := 0) (by decide) (by decide)).svc _) (fun _ => Act.reg_keepsOther (by decide) (by decide)) s
    rw [State.moltRuns, hrd]
    exact hmolt
  have hfw' : ((Act.svc fun v => { v with cairnRetried := true }).run s).fwRuns = true := hfw
  rw [Act.cairnLate, Act.run_get, hfatal, hsome, hretried, Act.run_when, if_pos (by decide), Act.run_seq, Act.watchdogRestart, Act.run_get, hfw',
    Act.run_when, if_pos rfl, Act.run_all_cons, Act.run_all_cons, Act.run_all_cons, Act.run_all_cons, Act.run_all_cons, Act.run_all_nil,
    Act.watchdogStops, Act.run_seq]
  rw [Act.watchdogCounted, Act.run_seq, Act.run_seq] at hquiet ⊢
  rw [Act.moltFail, Act.run_get, hquiet, Act.when_false, Act.run_skip]

theorem cairnLate_restarts (hfatal : s.u.pow.fatal = true) (hsome : s.u.svc.cairn.isSome = true) (hretried : s.u.svc.cairnRetried = false)
    (hfw : s.fwRuns = true) (hmolt : s.moltRuns = false) : let t := Act.cairnLate.run s
    t.u.svc.cairnRetried = true ∧ t.u.pow.restarting = true ∧ (s.cairnRuns = false → t.stack = s.stack) := by
  rw [cairnLate_run hfatal hsome hretried hfw hmolt]
  have hretry : (Act.watchdogCounted.run s).u.svc.cairnRetried = true := by
    have hset : ((Act.svc fun v => { v with cairnRetried := true }).run s).u.svc.cairnRetried = true := rfl
    rw [Act.watchdogCounted, Act.run_seq]
    generalize (Act.svc fun v => { v with cairnRetried := true }).run s = y at *
    have hplain := Act.keeps_seq (Act.keeps_get (f := fun s => s.u.svc.plain) fun _ => Act.fld_keeps_u (g := fun u => u.svc.plain))
      (Beside.plain.errEvent 57 0) (a := .countFld .resetCount 0 12 0 32) y
    exact (congrArg SvcU.cairnRetried hplain :).trans hset
  have hstack : (Act.watchdogCounted.run s).stack = s.stack :=
    Beside.stack.watchdogCounted (fun _ => rfl) (fun _ => Act.reg_keeps_store .stack) s
  have hruns : (Act.watchdogCounted.run s).cairnRuns = s.cairnRuns := by
    have hpow : (Act.watchdogCounted.run s).u.pow = s.u.pow := (Aside.ofUnits (g := fun u => u.pow) fun _ _ h => h.pow).beside.watchdogCounted
      (fun _ => rfl) (fun _ => Act.reg_keeps_u (g := fun u => u.pow)) s
    have hrd : (Act.watchdogCounted.run s).rd .lbCtrl = s.rd .lbCtrl :=
      (Aside.rd (n := .lbCtrl) (i := 0) (by decide) (by decide)).beside.watchdogCounted
        ((Aside.rd (n := .lbCtrl) (i := 0) (by decide) (by decide)).svc _) (fun _ => Act.reg_keepsOther (by decide) (by decide)) s
    rw [State.cairnRuns, State.cairnRuns, State.fwRuns, State.fwRuns, State.ownGoes, State.ownGoes, State.loopback, State.loopback, State.fld, State.fld,
      hpow, hrd]
  generalize Act.watchdogCounted.run s = y at *
  refine ⟨?_, rfl, fun hno => ?_⟩
  · have hkept : (Act.cairnSome.run y).u.svc.cairnRetried = y.u.svc.cairnRetried :=
      (Beside.plain.map SvcU.cairnRetried).cairnSome (fun _ _ z => congrArg SvcU.cairnRetried (Act.mem_keepsPlain _ _ _ z)) (fun _ _ => rfl) y
    exact hkept.trans hretry
  · have hskip : Act.cairnSome.run y = y := by
      rw [Act.cairnSome, Act.run_get, hruns, hno, Bool.and_false, Act.when_false, Act.run_skip]
    rw [Act.watchdogStops, Act.run_seq, hskip]
    exact hstack

/-! ### The ejector latch (R494) -/

theorem Beside.portsLeave {α : Type} {f : State → α} (h : Beside f) (hst : ∀ p st, (Act.fld .portStatus p 0 0 4 st).Keeps f) : Act.portsLeave.Keeps f :=
  Act.keeps_each fun p _ => Act.keeps_get fun _ => Act.keeps_when fun _ => h.portDown (hst p) _ _

/-- What follows once a port that goes down shows its state. -/
def Act.portGone (s : State) (p cause : Nat) : Act :=
  .all [.count .portStatus p 5, .epochUp, .port p fun _ => {}, .vcStalls p,
    .when (cause != dcDisabled && cause != dcReset) (.errEvent (48 + p) p),
    .each ((s.port p).queue.filter fun o => o.sent == 0) fun o => if p < 6 ∧ bit o.m.route.toNat (p / 2) = true then .count .transportCount 0 1
      else .route o.came o.vc o.m fun _ => .skip]

theorem portDown_run (s : State) (p cause lane : Nat) : (Act.portDown p cause lane).run s = (Act.portGone s p cause).run
    ((Act.portSt p psDown).run ((Act.fld .portStatus p 0 8 3 lane).run ((Act.fld .portStatus p 0 4 4 cause).run s))) := by
  rw [Act.portDown, Act.run_get]
  dsimp only
  rw [Act.run_all_cons, Act.run_all_cons, Act.run_all_cons, Act.portGone]

theorem Beside.portGone {α : Type} {f : State → α} (h : Beside f) (s : State) (p cause : Nat) : (Act.portGone s p cause).Keeps f :=
  Act.keeps_seq (h.countPort (by decide)) <| Act.keeps_seq (Act.keeps_get fun _ => h.fld (by decide) (by decide)) <|
    Act.keeps_seq (h.side fun _ => ⟨⟨rfl, rfl, rfl, rfl, rfl⟩, rfl⟩) <|
    Act.keeps_seq (h.vcStalls _) <| Act.keeps_seq (Act.keeps_when fun _ => h.errEvent _ _) <|
    Act.keeps_seq (Act.keeps_each fun _ _ => Act.keeps_ite (fun _ => h.count (by decide) (by decide)) fun _ => h.route _ _ _) Act.keeps_skip

theorem portDown_down (s : State) {p : Nat} (hp : p < 8) (cause lane : Nat) : ((Act.portDown p cause lane).run s).portSt p = 8 := by
  rw [portDown_run]
  exact ((Beside.portSt hp).portGone s p cause _).trans (portSt_takes _ hp (by decide))

/-- A port that is in use goes off. -/
def Act.portLeaves (p : Nat) : Act := .get fun s => .when (s.portSt p != psDisabled && s.portSt p != psDown) (.portDown p dcReset)

theorem portLeaves_down (s : State) {p : Nat} (hp : p < 8) : ((Act.portLeaves p).run s).portSt p = 0 ∨ ((Act.portLeaves p).run s).portSt p = 8 := by
  rw [Act.portLeaves, Act.run_get, Act.run_when]
  split
  · exact .inr (portDown_down s hp _ _)
  · next h => simpa [psDisabled, psDown, or_iff_not_imp_left] using h

theorem Act.portLeaves_keepsOther {p q : Nat} (hp : p < 8) (hq : q ≠ p) : (Act.portLeaves q).Keeps fun s => s.portSt p :=
  keeps_get fun _ => keeps_when fun _ => (Beside.portSt hp).portDown (fun _ => fldPort_keepsOther hp hq) dcReset 0

theorem portsLeave_down (s : State) {p : Nat} (hp : p < 8) : (Act.portsLeave.run s).portSt p = 0 ∨ (Act.portsLeave.run s).portSt p = 8 := by
  have heach : Act.portsLeave = .each (List.range 8) .portLeaves := rfl
  rw [heach]
  refine each_reaches (I := fun _ => True) (P := fun y => y.portSt p = 0 ∨ y.portSt p = 8) (List.mem_range.2 hp) (fun _ _ _ _ => trivial)
    (fun q _ y _ hy => ?_) (fun y _ => portLeaves_down y hp) trivial
  by_cases hq : q = p
  · subst hq
    exact portLeaves_down y hp
  · have hkept : ((Act.portLeaves q).run y).portSt p = y.portSt p := Act.portLeaves_keepsOther hp hq y
    rw [hkept]
    exact hy

/-- A latch that opens is traced and raises its source. -/
def Act.latchNoted (s : State) : Act := .seq (.trace 0x0A 0 0 1 (s.rd .serviceState)) (.raiseSrc 111)

/-- A removal by surprise, up to the cairn. -/
def Act.latchCut : Act := .seq (.countFld .serviceCount 0 12 0 32) (.seq (.abortFlows 3) .portsLeave)

/-- The cairn is given up. -/
def Act.cairnDropped : Act := .svc fun v => { v with cairn := none, fatalWaits := none }

/-- A removal admits nothing more and drops what a press began. -/
def Act.latchFrozen : Act := .svc fun v => { v with frozen := true, drainStep := 0, pressPending := false, pressWaits := false }

/-- What any removal ends with. -/
def Act.latchEnds : Act := .seq .latchFrozen (.reg .serviceState 0 3)

theorem Act.run_latch (a b c d e f g h i : Act) (cond : Bool) (s : State) :
    (Act.all [a, b, .when cond (.all [c, d, e, f, g]), h, i]).run s =
      (Act.seq h i).run ((Act.when cond (.seq (.seq c (.seq d e)) (.seq f g))).run ((Act.seq a b).run s)) := by
  cases cond <;> simp only [Act.run_all_cons, Act.run_all_nil, Act.run_seq, Act.when_true, Act.when_false, Act.run_skip]

theorem latch_run (hpower : s.u.pow.power = true) : Act.latch.run s = Act.latchEnds.run
    ((Act.when (s.rd .serviceState < 2) (.seq .latchCut (.seq .cairnSome .cairnDropped))).run ((Act.latchNoted s).run s)) := by
  rw [Act.latch, Act.run_get]
  dsimp only
  rw [hpower, Act.when_true, Act.latchEnds, Act.latchFrozen, Act.latchCut, Act.latchNoted, Act.cairnDropped, Act.portsLeave]
  exact Act.run_latch _ _ _ _ _ _ _ _ _ _ s

theorem Beside.latchCut {α : Type} {f : State → α} (h : Beside f) (hst : ∀ p st, (Act.fld .portStatus p 0 0 4 st).Keeps f)
    (hcount : ∀ v, (Act.reg .serviceCount 0 v).Keeps f) : Act.latchCut.Keeps f :=
  Act.keeps_seq (Act.keeps_get fun _ => Act.keeps_get fun _ => hcount _) (Act.keeps_seq (h.abortFlows 3) (h.portsLeave hst))

theorem Beside.latchNoted {α : Type} {f : State → α} (h : Beside f) (s : State) : (Act.latchNoted s).Keeps f :=
  Act.keeps_seq (h.trace _ _ _ _ _) (h.raiseSrc _)

theorem latchNoted_rd (s : State) {n : EName} {i : Nat} (hi : i < n.count) : ((Act.latchNoted s).run s).rd n i = s.rd n i :=
  (Act.touches_seq (l := []) (Act.trace_touches _ _ _ _ _) (Act.raiseSrc_touches _)).keepsRd hi (by simp) s

/-- What a removal by surprise cuts off. -/
theorem latchCut_cuts (s : State) : let t := Act.latchCut.run s
    t.fld .serviceCount 0 12 0 32 = (s.fld .serviceCount 0 12 0 32 + 1) % 2 ^ 32 ∧ (∀ p, p < 8 → t.portSt p = 0 ∨ t.portSt p = 8) ∧
      t.stack = s.stack ∧ t.u.svc.plain = s.u.svc.plain ∧ t.u.pow = s.u.pow := by
  refine ⟨?_, fun p hp => ?_, Beside.stack.latchCut (fun _ _ => Act.fld_keeps_store .stack) (fun _ => Act.reg_keeps_store .stack) s,
    Beside.plain.latchCut (fun _ _ => Act.fld_keeps_u (g := fun u => u.svc.plain)) (fun _ => Act.reg_keeps_u (g := fun u => u.svc.plain)) s,
    (Aside.ofUnits (g := fun u => u.pow) fun _ _ h => h.pow).beside.latchCut (fun _ _ => Act.fld_keeps_u (g := fun u => u.pow))
      (fun _ => Act.reg_keeps_u (g := fun u => u.pow)) s⟩
  · have hcount := s.fld_fld (n := .serviceCount) (i := 0) (off := 12) (lo := 0) (len := 32) (s.fld .serviceCount 0 12 0 32 + 1)
      ⟨by decide, by decide, fun h => absurd h (by decide)⟩ (by decide)
    have hview := Aside.rd (n := .serviceCount) (i := 0) (by decide) (by decide)
    have hrest : (Act.seq (.abortFlows 3) .portsLeave).Keeps fun s => s.rd .serviceCount :=
      Act.keeps_seq (hview.beside.abortFlows 3) (hview.beside.portsLeave fun _ _ => hview.fld (by decide))
    have hcounted : ((Act.countFld .serviceCount 0 12 0 32).run s).fld .serviceCount 0 12 0 32 = (s.fld .serviceCount 0 12 0 32 + 1) % 2 ^ 32 := by
      rw [Act.countFld, Act.run_get]
      exact hcount
    rw [Act.latchCut, Act.run_seq]
    generalize (Act.countFld .serviceCount 0 12 0 32).run s = y at *
    have hkept : ((Act.seq (.abortFlows 3) .portsLeave).run y).rd .serviceCount = y.rd .serviceCount := hrest y
    rw [← hcounted, State.fld, State.fld, hkept]
  · rw [Act.latchCut, Act.run_seq, Act.run_seq]
    exact portsLeave_down _ hp

theorem cairnDropped_leaves (s : State) : (Act.cairnDropped.run s).u.svc.cairn = none ∧ (Act.cairnDropped.run s).stack = s.stack ∧
    (Act.cairnDropped.run s).u.pow = s.u.pow ∧ ∀ {n : EName} {i : Nat}, i < n.count → (Act.cairnDropped.run s).rd n i = s.rd n i :=
  ⟨rfl, rfl, rfl, fun hi => (Act.touches_units (l := []) fun _ => ⟨rfl, rfl⟩).keepsRd hi (by simp) s⟩

theorem latchFrozen_freezes (s : State) : (Act.latchFrozen.run s).u.svc.frozen = true ∧ (Act.latchFrozen.run s).stack = s.stack ∧
    (Act.latchFrozen.run s).u.pow = s.u.pow ∧ (Act.latchFrozen.run s).u.svc.cairn = s.u.svc.cairn ∧
    ∀ {n : EName} {i : Nat}, i < n.count → (Act.latchFrozen.run s).rd n i = s.rd n i :=
  ⟨rfl, rfl, rfl, rfl, fun hi => (Act.touches_units (l := []) fun _ => ⟨rfl, rfl⟩).keepsRd hi (by simp) s⟩

theorem latchEnds_ends (s : State) : let t := Act.latchEnds.run s
    t.u.svc.frozen = true ∧ t.rd .serviceState = 3 ∧ t.stack = s.stack ∧ t.u.pow = s.u.pow ∧ t.u.svc.cairn = s.u.svc.cairn ∧
      ∀ {n : EName} {i : Nat}, i < n.count → n ≠ .serviceState → t.rd n i = s.rd n i := by
  obtain ⟨hfrozen, hstack, hpow, hcairn, hrd⟩ := latchFrozen_freezes s
  rw [Act.latchEnds, Act.run_seq]
  generalize Act.latchFrozen.run s = y at *
  exact ⟨(Act.reg_keeps_u (g := fun u => u.svc.frozen) y).trans hfrozen, y.rd_reg 3 (.of_vol y (by decide) rfl),
    (Act.reg_keeps_store .stack y).trans hstack, (Act.reg_keeps_u (g := fun u => u.pow) y).trans hpow,
    (Act.reg_keeps_u (g := fun u => u.svc.cairn) y).trans hcairn,
    fun hi hn => (Act.reg_keepsOther hi (by simp [hn]) y).trans (hrd hi)⟩

/-- What a removal by surprise does besides what any removal does. -/
theorem latchSurprise_cuts (s : State) : let t := (Act.seq .latchCut (.seq .cairnSome .cairnDropped)).run s
    t.u.pow = s.u.pow ∧ (s.u.svc.cairn = none → t.stack = s.stack) ∧ t.u.svc.cairn = none ∧
      t.fld .serviceCount 0 12 0 32 = (s.fld .serviceCount 0 12 0 32 + 1) % 2 ^ 32 ∧ ∀ p, p < 8 → t.portSt p = 0 ∨ t.portSt p = 8 := by
  rw [Act.run_seq, Act.run_seq]
  obtain ⟨hcount, hports, hstack, hplain, hpow⟩ := latchCut_cuts s
  generalize Act.latchCut.run s = y at *
  have hsome {α : Type} {f : State → α} (hf : Beside f) (hmem : ∀ a bs, (Act.mem .stack a bs).Keeps f)
      (hsvc : ∀ c, (Act.svc fun v => { v with cairn := some c }).Keeps f) : f (Act.cairnSome.run y) = f y := hf.cairnSome hmem hsvc y
  have hpow' : (Act.cairnSome.run y).u.pow = y.u.pow :=
    hsome (Aside.ofUnits (g := fun u => u.pow) fun _ _ h => h.pow).beside (fun _ _ => Act.mem_keeps_u (g := fun u => u.pow)) fun _ _ => rfl
  have hcount' : (Act.cairnSome.run y).rd .serviceCount = y.rd .serviceCount :=
    have hview := Aside.rd (n := .serviceCount) (i := 0) (by decide) (by decide)
    hsome hview.beside (fun _ _ => hview.mem) fun _ => hview.svc _
  have hports' (p : Nat) (hp : p < 8) : (Act.cairnSome.run y).portSt p = y.portSt p :=
    hsome (Beside.portSt hp) (fun _ _ z => congrArg (bits · 0 4) (State.rd_congr (by simp) (by simp) .portStatus p))
      fun _ z => congrArg (bits · 0 4) ((Act.touches_units (l := []) fun _ => ⟨rfl, rfl⟩).keepsRd (n := .portStatus) (i := p) hp (by simp) z)
  have hnone (h : s.u.svc.cairn = none) : Act.cairnSome.run y = y := by
    have hy : y.u.svc.cairn = none := (congrArg SvcU.cairn hplain :).trans h
    rw [Act.cairnSome, Act.run_get, hy, Option.isSome_none, Bool.false_and, Act.when_false, Act.run_skip]
  obtain ⟨hgone, hkept, hpow'', hrd⟩ := cairnDropped_leaves (Act.cairnSome.run y)
  refine ⟨hpow''.trans (hpow'.trans hpow), fun h => hkept.trans (by rw [hnone h, hstack]), hgone, ?_, fun p hp => ?_⟩
  · exact (congrArg (bits · _ _) ((hrd (n := .serviceCount) (by decide)).trans hcount')).trans hcount
  · have hsame : (Act.cairnDropped.run (Act.cairnSome.run y)).portSt p = y.portSt p :=
      (congrArg (bits · _ _) (hrd (n := .portStatus) (i := p) hp)).trans (hports' p hp)
    rw [hsame]
    exact hports p hp

theorem latch_opens (hpower : s.u.pow.power = true) : let t := Act.latch.run s
    t.u.svc.frozen = true ∧ t.rd .serviceState = 3 ∧ t.statusLight = .blink .amber 40 ∧ (s.u.svc.cairn = none → t.stack = s.stack) ∧
      (s.rd .serviceState < 2 → t.u.svc.cairn = none) ∧
      (s.rd .serviceState < 2 → t.fld .serviceCount 0 12 0 32 = (s.fld .serviceCount 0 12 0 32 + 1) % 2 ^ 32 ∧
        ∀ p, p < 8 → t.portSt p = 0 ∨ t.portSt p = 8) := by
  rw [latch_run hpower]
  have hplain : ((Act.latchNoted s).run s).u.svc.plain = s.u.svc.plain := Beside.plain.latchNoted s s
  have hstack : ((Act.latchNoted s).run s).stack = s.stack := Beside.stack.latchNoted s s
  have hpow : ((Act.latchNoted s).run s).u.pow = s.u.pow := (Aside.ofUnits (g := fun u => u.pow) fun _ _ h => h.pow).beside.latchNoted s s
  have hcount : ((Act.latchNoted s).run s).fld .serviceCount 0 12 0 32 = s.fld .serviceCount 0 12 0 32 :=
    congrArg (bits · _ _) (latchNoted_rd s (n := .serviceCount) (i := 0) (by decide))
  generalize (Act.latchNoted s).run s = y at *
  have hcairn : y.u.svc.cairn = s.u.svc.cairn := (congrArg SvcU.cairn hplain :)
  have hlight {t : State} (hst : t.rd .serviceState = 3) (hp : t.u.pow.power = true) : t.statusLight = .blink .amber 40 := by
    rw [State.statusLight, hst, hp]
    rfl
  by_cases hst : s.rd .serviceState < 2
  · rw [decide_eq_true hst, Act.when_true]
    obtain ⟨hpow', hkept, hgone, hcounted, hports⟩ := latchSurprise_cuts y
    generalize (Act.seq .latchCut (.seq .cairnSome .cairnDropped)).run y = z at *
    obtain ⟨hfrozen, hthree, hstay, hpow'', hcairn', hrd⟩ := latchEnds_ends z
    refine ⟨hfrozen, hthree, hlight hthree (by rw [hpow'', hpow', hpow, hpower]), fun h => hstay.trans ((hkept (hcairn.trans h)).trans hstack),
      fun _ => hcairn'.trans hgone, fun _ => ⟨?_, fun p hp => ?_⟩⟩
    · exact (congrArg (bits · _ _) (hrd (n := .serviceCount) (i := 0) (by decide) (by decide))).trans (hcounted.trans (by rw [hcount]))
    · have hsame : (Act.latchEnds.run z).portSt p = z.portSt p := congrArg (bits · _ _) (hrd (n := .portStatus) (i := p) hp (by decide))
      rw [hsame]
      exact hports p hp
  · rw [decide_eq_false hst, Act.when_false, Act.run_skip]
    obtain ⟨hfrozen, hthree, hstay, hpow', hcairn', hrd⟩ := latchEnds_ends y
    exact ⟨hfrozen, hthree, hlight hthree (by rw [hpow', hpow, hpower]), fun _ => hstay.trans hstack, fun h => absurd h hst, fun h => absurd h hst⟩

/-- The time of a port's light is over. -/
def Act.lightOut (p : Nat) : Act := .svc fun v => { v with portLight := tdel v.portLight p }

theorem lightOut_ends (s : State) (p : Nat) : tget ((Act.lightOut p).run s).u.svc.portLight p = none ∧ SameMem s ((Act.lightOut p).run s) ∧
    SameEntriesBut [] s ((Act.lightOut p).run s) :=
  ⟨tget_tdel_same _ _, Act.touches_units (fun _ => ⟨rfl, rfl⟩) s⟩

end

/-- Settles O51: each row by the lemma on the action that it runs. -/
theorem faultsCairnsAndService : Obligations.FaultsCairnsAndService := by
  unfold Obligations.FaultsCairnsAndService
  intro s r
  refine ⟨fun src hpower hlevel => ⟨_, rfl, errwinDrain_drains src hpower hlevel⟩,
    fun v h => ⟨fun hv => ⟨_, rfl, errwinClear_one h hv⟩, fun hv => ⟨_, rfl, errwinClear_all h hv⟩⟩,
    fun fn v h hok => ⟨_, rfl, evtRing_registers fn v h hok⟩, fun c detail hpower hperst hdeep h1 h8 => ⟨fun hfatal => ?_, fun hfatal => ?_⟩,
    fun c h hfw hnap hmem hloop hrefused hcls hpress hch hinv hslot =>
      ⟨_, rfl, cairnDone_completes h hfw hnap hmem hloop hrefused hcls hpress hch hinv hslot⟩,
    fun hfatal hsome hretried hfw hmolt => ⟨_, rfl, cairnLate_restarts hfatal hsome hretried hfw hmolt⟩,
    fun hpower hfw hrestart hen hready hst hstep hfatal hses => ⟨_, rfl, press_drains hpower hfw hrestart hen hready hst hstep hfatal hses⟩,
    fun hfw hover => ⟨_, rfl, drainDone_tells hfw hover⟩, fun hfw hstep => ⟨_, rfl, drainLate_tears hfw hstep⟩,
    fun hfw hstep => ⟨fun hno => ⟨_, rfl, (drainPorts_holds hfw hstep).1 hno⟩, fun hyes => ⟨_, rfl, (drainPorts_holds hfw hstep).2 hyes⟩⟩,
    fun h hstep => ⟨_, rfl, serviceCancel_cancels h hstep⟩, fun hpower => ⟨_, rfl, latch_opens hpower⟩,
    fun hpower => ⟨_, rfl, touch_lights hpower⟩, fun p => ⟨_, rfl, lightOut_ends s p⟩⟩
  · exact ⟨_, rfl, fatalCause_run s detail.toNat hpower hperst hdeep h1 h8 ▸ fatalCause_enters _ _ hpower hfatal h8⟩
  · exact ⟨_, rfl, fatalCause_run s detail.toNat hpower hperst hdeep h1 h8 ▸ fatalAgain_counts _ _ hpower hfatal⟩

end Sys2Proof.Machine
end

section
/-! SUPPORT. What leaves power as it is: the pieces of every command, the boundaries of sessions and the granting of slots. A slot that is
granted lets commands run, so what a doorbell keeps hangs on all of them. `Act.LeavesPower` goes down an action to its single changes; the
lemmas follow the model's actions in their order, one each, and a `match` is split where an action has one. -/

namespace Sys2Proof.Machine

/-- No change that the action makes is one of power, clocks and resets. -/
def Act.LeavesPower : Act → Prop
  | .skip => True
  | .upd x => ∀ s : State, (s.apply x).u.pow = s.u.pow
  | .seq a b => a.LeavesPower ∧ b.LeavesPower
  | .get f => ∀ s, (f s).LeavesPower

theorem Act.LeavesPower.keeps {a : Act} (h : a.LeavesPower) : a.Keeps fun s => s.u.pow := by
  induction a with
  | skip => exact Act.keeps_skip
  | upd x => exact Act.keeps_upd h
  | seq a b iha ihb => exact Act.keeps_seq (iha h.1) (ihb h.2)
  | get f ih => exact Act.keeps_get fun s => ih s (h s)

namespace Act.LeavesPower

@[simp] theorem skip : Act.skip.LeavesPower := trivial
@[simp] theorem seq {a b : Act} : (Act.seq a b).LeavesPower ↔ a.LeavesPower ∧ b.LeavesPower := .rfl
@[simp] theorem get {g : State → Act} : (Act.get g).LeavesPower ↔ ∀ s, (g s).LeavesPower := .rfl
@[simp] theorem all_nil : (Act.all []).LeavesPower := trivial
@[simp] theorem all_cons {a : Act} {l : List Act} : (Act.all (a :: l)).LeavesPower ↔ a.LeavesPower ∧ (Act.all l).LeavesPower := .rfl
@[simp] theorem each {α : Type} {l : List α} {g : α → Act} : (Act.each l g).LeavesPower ↔ ∀ x ∈ l, (g x).LeavesPower := by
  induction l with
  | nil => simp [Act.each]
  | cons x l ih => simpa [Act.each] using fun _ => ih
@[simp] theorem when {c : Bool} {a : Act} : (Act.when c a).LeavesPower ↔ (c = true → a.LeavesPower) := by cases c <;> simp [Act.when]
@[simp] theorem ite {c : Prop} [Decidable c] {a b : Act} : (if c then a else b).LeavesPower ↔ (c → a.LeavesPower) ∧ (¬c → b.LeavesPower) := by
  split <;> simp [*]
@[simp] theorem units {g : Units → Units} : (Act.units g).LeavesPower ↔ ∀ s : State, (g s.u).pow = s.u.pow := .rfl
@[simp] theorem reg (n : EName) (i v : Nat) : (Act.reg n i v).LeavesPower := Act.reg_keeps_u (g := Units.pow)
@[simp] theorem mem (m : MemSel) (a : Nat) (bs : PBytes) : (Act.mem m a bs).LeavesPower := Act.mem_keeps_u (g := Units.pow)

end Act.LeavesPower

/-- How a family of commands runs leaves power as it is. -/
structure OpRun.LeavesPower (r : OpRun) : Prop where
  piece : ∀ m k, (∀ x, (k x).LeavesPower) → (r.piece m k).LeavesPower
  finish : ∀ m, (r.finish m).LeavesPower
  aborted : ∀ m, (r.aborted m).LeavesPower

namespace Act.LeavesPower

/-- Steps that each hand on to what follows. -/
theorem foldr_leavesPower {α β : Type} {l : List α} {g : α → (β → Act) → β → Act} {k : β → Act} (hk : ∀ b, (k b).LeavesPower)
    (hg : ∀ x kk, (∀ b, (kk b).LeavesPower) → ∀ b, (g x kk b).LeavesPower) (b : β) : (l.foldr g k b).LeavesPower := by
  induction l generalizing b with
  | nil => exact hk b
  | cons x l ih => exact hg x _ ih b

/-! ### Entries and units -/

@[simp] theorem fld (n : EName) (i off lo len v : Nat) : (Act.fld n i off lo len v).LeavesPower := by simp [Act.fld]
@[simp] theorem countFld (n : EName) (i off lo len : Nat) (by_ : Nat) : (Act.countFld n i off lo len by_).LeavesPower := by
  simp [Act.countFld]
@[simp] theorem satFld (n : EName) (i off lo len : Nat) (by_ : Nat) : (Act.satFld n i off lo len by_).LeavesPower := by
  simp [Act.satFld]
@[simp] theorem count (n : EName) (i k : Nat) (by_ : Nat) : (Act.count n i k by_).LeavesPower := by simp [Act.count]
@[simp] theorem core (f : CoreU → CoreU) : (Act.core f).LeavesPower := by simp [Act.core]
@[simp] theorem host (f : HostU → HostU) : (Act.host f).LeavesPower := by simp [Act.host]
@[simp] theorem svc (f : SvcU → SvcU) : (Act.svc f).LeavesPower := by simp [Act.svc]
@[simp] theorem out (o : Out) : (Act.out o).LeavesPower := by simp [Act.out]
@[simp] theorem draw (k : Nat → Act) (hk : ∀ x, (k x).LeavesPower) : (Act.draw k).LeavesPower := by simp [Act.draw, hk]

@[simp] theorem trace (code engine ctx d0 d1 : Nat) : (Act.trace code engine ctx d0 d1).LeavesPower := by
  rw [Act.trace, units]
  intro s
  split <;> rfl

/-! ### Events -/

@[simp] theorem raiseSrc (src : Nat) : (Act.raiseSrc src).LeavesPower := by simp [Act.raiseSrc]
@[simp] theorem msix (fn v : Nat) : (Act.msix fn v).LeavesPower := by simp [Act.msix]
@[simp] theorem eventTo (fn code scope ctx source data : Nat) : (Act.eventTo fn code scope ctx source data).LeavesPower := by
  simp [Act.eventTo]
@[simp] theorem event (fns : List Nat) (code scope ctx source data : Nat) : (Act.event fns code scope ctx source data).LeavesPower := by
  simp [Act.event]
@[simp] theorem errEvent (src detail : Nat) : (Act.errEvent src detail).LeavesPower := by simp [Act.errEvent]

/-! ### Memory -/

@[simp] theorem burstHealed (g : Nat) : (Act.burstHealed g).LeavesPower := by simp [Act.burstHealed]
@[simp] theorem burstBack (g : Nat) : (Act.burstBack g).LeavesPower := by simp [Act.burstBack]
@[simp] theorem burstCorrected (patrol : Bool) (g : Nat) (syms : List Nat) : (Act.burstCorrected patrol g syms).LeavesPower := by
  simp [Act.burstCorrected]
@[simp] theorem burstLost (g : Nat) : (Act.burstLost g).LeavesPower := by simp [Act.burstLost]

@[simp] theorem burstRead (patrol : Bool) (g : Nat) : (Act.burstRead patrol g).LeavesPower := by
  rw [Act.burstRead, get]
  intro s
  split
  · exact .skip
  · split <;> simp

@[simp] theorem noteRead (m : MemSel) (a n : Nat) : (Act.noteRead m a n).LeavesPower := by cases m <;> simp [Act.noteRead]
@[simp] theorem settleErrs (a n : Nat) : (Act.settleErrs a n).LeavesPower := by simp [Act.settleErrs]
@[simp] theorem wrStack (a : Nat) (bs : PBytes) : (Act.wrStack a bs).LeavesPower := by simp [Act.wrStack]
@[simp] theorem wrAny (m : MemSel) (a : Nat) (bs : PBytes) : (Act.wrAny m a bs).LeavesPower := by cases m <;> simp [Act.wrAny]

@[simp] theorem wrSpan (l : List (MemSel × Nat × Nat)) (bs : PBytes) : (Act.wrSpan l bs).LeavesPower := by
  induction l generalizing bs with
  | nil => exact .skip
  | cons p l ih => simp [Act.wrSpan, ih]

@[simp] theorem noteSpan (ctx : Nat) (l : List (MemSel × Nat × Nat)) : (Act.noteSpan ctx l).LeavesPower := by
  rw [Act.noteSpan, each]
  intro p _
  split <;> simp

@[simp] theorem noteWalks (ctx dva n : Nat) : (Act.noteWalks ctx dva n).LeavesPower := by simp [Act.noteWalks]
@[simp] theorem noteOut (ctx : Nat) (l : List (MemSel × Nat × Nat)) (bs : PBytes) : (Act.noteOut ctx l bs).LeavesPower := by
  simp [Act.noteOut]
@[simp] theorem noteFlt (ctx : Nat) (e : Flt) : (Act.noteFlt ctx e).LeavesPower := by cases e <;> simp [Act.noteFlt]

@[simp] theorem rdCtx (ctx dva n : Nat) (k : Except Flt PBytes → Act) (hk : ∀ x, (k x).LeavesPower) : (Act.rdCtx ctx dva n k).LeavesPower := by
  rw [Act.rdCtx, get]
  intro s
  split <;> simp [hk]

@[simp] theorem wrCtx (ctx dva : Nat) (bs : PBytes) (k : Option Flt → Act) (hk : ∀ x, (k x).LeavesPower) : (Act.wrCtx ctx dva bs k).LeavesPower := by
  rw [Act.wrCtx, get]
  intro s
  split <;> simp [hk]

@[simp] theorem charge (ctx : Nat) (l : List (MemSel × Nat × Nat)) (cost : Nat) : (Act.charge ctx l cost).LeavesPower := by
  simp [Act.charge]

@[simp] theorem chargeAt (ctx dva n : Nat) (wr : Bool) : (Act.chargeAt ctx dva n wr).LeavesPower := by
  rw [Act.chargeAt, get]
  intro s
  split <;> simp

/-! ### Contexts, stalls and teardowns -/

@[simp] theorem epochUp : Act.epochUp.LeavesPower := by simp [Act.epochUp]
@[simp] theorem phase : Act.phase.LeavesPower := by simp [Act.phase]
@[simp] theorem needUnit (row core : Nat) : (Act.needUnit row core).LeavesPower := by simp [Act.needUnit]

@[simp] theorem stallBegin (x : Nat) : (Act.stallBegin x).LeavesPower := by
  rw [Act.stallBegin, units]
  intro s
  split <;> rfl

@[simp] theorem stallEnd (x : Nat) : (Act.stallEnd x).LeavesPower := by
  rw [Act.stallEnd, get]
  intro s
  split <;> simp

@[simp] theorem settleQueues : Act.settleQueues.LeavesPower := by simp [Act.settleQueues]
@[simp] theorem enterCrossing (east : Bool) (n : Nat) : (Act.enterCrossing east n).LeavesPower := by simp [Act.enterCrossing]
@[simp] theorem memHeld (l : List (MemSel × Nat × Nat)) : (Act.memHeld l).LeavesPower := by simp [Act.memHeld]
@[simp] theorem memWait (ctx who ser : Nat) (l : List (MemSel × Nat × Nat)) : (Act.memWait ctx who ser l).LeavesPower := by
  simp [Act.memWait]
@[simp] theorem traceTeardown (ctx : Nat) : (Act.traceTeardown ctx).LeavesPower := by simp [Act.traceTeardown]
@[simp] theorem tearStart (ctx : Nat) (t : Tear) : (Act.tearStart ctx t).LeavesPower := by simp [Act.tearStart]
@[simp] theorem faultInfo (ctx q qseq status reason : Nat) : (Act.faultInfo ctx q qseq status reason).LeavesPower := by
  simp [Act.faultInfo]
@[simp] theorem ownFault (ctx kind : Nat) (e : Flt) : (Act.ownFault ctx kind e).LeavesPower := by simp [Act.ownFault]

@[simp] theorem wrOwn (ctx kind dva : Nat) (bs : PBytes) : (Act.wrOwn ctx kind dva bs).LeavesPower := by
  rw [Act.wrOwn]
  intro s
  refine ⟨by simp, ?_⟩
  split <;> simp

@[simp] theorem teleRecord (ctx source tag tid : Nat) : (Act.teleRecord ctx source tag tid).LeavesPower := by simp [Act.teleRecord]
@[simp] theorem telemetry (ctx source tag : Nat) : (Act.telemetry ctx source tag).LeavesPower := by simp [Act.telemetry]

/-! ### Cores and streams -/

@[simp] theorem ctxCore (core ctx : Nat) (f : CtxCore → CtxCore) : (Act.ctxCore core ctx f).LeavesPower := by simp [Act.ctxCore]
@[simp] theorem lanes (l : Lanes) : (Act.lanes l).LeavesPower := by simp [Act.lanes]
@[simp] theorem gate (core ctx g : Nat) (f : Gate → Gate) : (Act.gate core ctx g f).LeavesPower := by simp [Act.gate]
@[simp] theorem flag (core ctx n v : Nat) : (Act.flag core ctx n v).LeavesPower := by simp [Act.flag]
@[simp] theorem stream (q : Nat) (f : Stream → Stream) : (Act.stream q f).LeavesPower := by simp [Act.stream]

@[simp] theorem cmdFault (q idx : Nat) (d : Desc) (status reason res res2 : Nat) (unread : Bool) :
    (Act.cmdFault q idx d status reason res res2 unread).LeavesPower := by
  simp [Act.cmdFault]

@[simp] theorem fltFault (q idx : Nat) (d : Desc) (e : Flt) (br : Nat) (unread : Bool) : (Act.fltFault q idx d e br unread).LeavesPower := by
  cases e <;> simp [Act.fltFault]

@[simp] theorem flySet (q idx status reason res res2 : Nat) (poison : Bool) : (Act.flySet q idx status reason res res2 poison).LeavesPower := by
  simp [Act.flySet]

@[simp] theorem fencesUp (n : Nat) : (Act.fencesUp n).LeavesPower := by
  induction n with
  | zero => exact .skip
  | succ n ih =>
    rw [Act.fencesUp, get]
    intro s
    split <;> simp [ih]

@[simp] theorem fences : Act.fences.LeavesPower := by simp [Act.fences]
@[simp] theorem flyDone (q idx status reason res res2 : Nat) (poison : Bool) : (Act.flyDone q idx status reason res res2 poison).LeavesPower := by
  simp [Act.flyDone]
@[simp] theorem monitor (tid : Nat) (d : MonDelta) : (Act.monitor tid d).LeavesPower := by simp [Act.monitor]
@[simp] theorem engQ (core eng : Nat) (f : List Cmd → List Cmd) : (Act.engQ core eng f).LeavesPower := by simp [Act.engQ]

@[simp] theorem needMem (m : Cmd) (l : List (MemSel × Nat × Nat)) (k : PieceRes → Act) (a : Act) (hk : ∀ x, (k x).LeavesPower) (ha : a.LeavesPower) :
    (Act.needMem m l k a).LeavesPower := by
  simp [Act.needMem, hk, ha]

@[simp] theorem slot (core k : Nat) (f : Slot → Slot) : (Act.slot core k f).LeavesPower := by simp [Act.slot]
@[simp] theorem waitSlot (core ctx : Nat) : (Act.waitSlot core ctx).LeavesPower := by simp [Act.waitSlot]
@[simp] theorem wrScr (core off : Nat) (bs : PBytes) : (Act.wrScr core off bs).LeavesPower := by simp [Act.wrScr]
@[simp] theorem teGroup (m : Cmd) (g : Group) : (Act.teGroup m g).LeavesPower := by simp [Act.teGroup]

@[simp] theorem veWrite (core : Nat) (d : Desc) (rows : List (List (Nat × Bool))) (k : MonDelta → Bool → Act) (hk : ∀ x y, (k x y).LeavesPower) :
    (Act.veWrite core d rows k).LeavesPower := by
  simp [Act.veWrite, hk]

@[simp] theorem ses (i : Nat) (f : Sess → Sess) : (Act.ses i f).LeavesPower := by simp [Act.ses]
@[simp] theorem tarnJoin : Act.tarnJoin.LeavesPower := by simp [Act.tarnJoin]
@[simp] theorem append (m : Cmd) : (Act.append m).LeavesPower := by simp [Act.append]

@[simp] theorem dqAdd (m : Cmd) (x : BwdRow) (bad : Bool) (ds : FVec) (kcols : List FVec) (k : MonDelta → Act) (hk : ∀ x, (k x).LeavesPower) :
    (Act.dqAdd m x bad ds kcols k).LeavesPower := by
  simp [Act.dqAdd, hk]

@[simp] theorem bwdUnit (m : Cmd) (r : SeqRec) (h j : Nat) (b : KvBlock) (vrows kcols : List FVec) (l : List (Nat × Nat)) (acc : BwdAcc) (p : Bool)
    (mon : MonDelta) (k : BwdAcc → Bool → MonDelta → Act) (hk : ∀ acc p mon, (k acc p mon).LeavesPower) :
    (Act.bwdUnit m r h j b vrows kcols l acc p mon k).LeavesPower := by
  induction l generalizing acc p mon with
  | nil => exact hk _ _ _
  | cons u l ih =>
    rw [Act.bwdUnit, get]
    intro s
    refine foldr_leavesPower (fun mon => ih _ _ mon) (fun x kk hkk mon => ?_) _
    exact .dqAdd _ _ _ _ _ _ fun _ => hkk _

@[simp] theorem bwdBlock (m : Cmd) (r : SeqRec) (h j : Nat) (mon : MonDelta) (poison : Bool) (k : MonDelta → Bool → Act)
    (hk : ∀ x y, (k x y).LeavesPower) : (Act.bwdBlock m r h j mon poison k).LeavesPower := by
  simp [Act.bwdBlock, hk]

@[simp] theorem bwdBlocks (m : Cmd) (l : List (SeqRec × Nat × Nat)) (mon : MonDelta) (p : Bool) (k : MonDelta → Bool → Act)
    (h : ∀ mon p, (k mon p).LeavesPower) : (Act.bwdBlocks m l mon p k).LeavesPower := by
  induction l generalizing mon p with
  | nil => exact h _ _
  | cons w l ih => exact .bwdBlock _ _ _ _ _ _ _ fun _ _ => ih _ _

@[simp] theorem bankCount (a k : Nat) : (Act.bankCount a k).LeavesPower := by simp [Act.bankCount]

/-! ### Ports and flows -/

@[simp] theorem port (p : Nat) (f : Port → Port) : (Act.port p f).LeavesPower := by simp [Act.port]
@[simp] theorem vcStalls (p : Nat) : (Act.vcStalls p).LeavesPower := by simp [Act.vcStalls]

@[simp] theorem pump (p n : Nat) : (Act.pump p n).LeavesPower := by
  induction n with
  | zero => exact .skip
  | succ n ih =>
    rw [Act.pump, get]
    intro s
    dsimp only
    split
    · exact .skip
    · split
      · exact .vcStalls p
      · split <;> simp [ih]

@[simp] theorem route (came : Option (Nat × Bool)) (vc : Nat) (m : Msg) (k : Msg → Act) (hk : ∀ m, (k m).LeavesPower) :
    (Act.route came vc m k).LeavesPower := by
  rw [Act.route, get]
  intro s
  split
  · exact hk _
  · simp
  · simp only [all_cons, port, pump, all_nil, and_true]
    split <;> simp

@[simp] theorem sendMsg (vc : Nat) (m : Msg) : (Act.sendMsg vc m).LeavesPower := by simp [Act.sendMsg]
@[simp] theorem flow (f : Nat) (g : Flow → Flow) : (Act.flow f g).LeavesPower := by simp [Act.flow]
@[simp] theorem flowState (f st cause : Nat) : (Act.flowState f st cause).LeavesPower := by simp [Act.flowState]
@[simp] theorem sendOn (f : Nat) (m : Msg) : (Act.sendOn f m).LeavesPower := by simp [Act.sendOn]

@[simp] theorem flowPump (f n : Nat) : (Act.flowPump f n).LeavesPower := by
  induction n with
  | zero => exact .skip
  | succ n ih =>
    rw [Act.flowPump, get]
    intro s
    split <;> simp [ih]

@[simp] theorem flowSend (f : Nat) (owner : Option (Nat × Nat)) (ms : List Msg) : (Act.flowSend f owner ms).LeavesPower := by
  simp [Act.flowSend]
@[simp] theorem sendAck (f : Nat) : (Act.sendAck f).LeavesPower := by simp [Act.sendAck]

/-! ### Messages that are delivered -/

@[simp] theorem memWaits (f ctx : Nat) (l : List (MemSel × Nat × Nat)) (k : Applied → Act) (hk : ∀ x, (k x).LeavesPower) :
    (Act.memWaits f ctx l k).LeavesPower := by
  simp [Act.memWaits, hk]

@[simp] theorem reach (f addr n : Nat) (wr : Bool) (k : Applied → Act) (a : List (MemSel × Nat × Nat) → Act) (hk : ∀ x, (k x).LeavesPower)
    (ha : ∀ x, (a x).LeavesPower) :
    (Act.reach f addr n wr k a).LeavesPower := by
  rw [Act.reach, get]
  intro s
  dsimp only
  split <;> simp [hk, ha]

@[simp] theorem applyPut (f : Nat) (m : Msg) (k : Applied → Act) (hk : ∀ x, (k x).LeavesPower) : (Act.applyPut f m k).LeavesPower := by
  simp [Act.applyPut, hk]
@[simp] theorem applyGet (f : Nat) (m : Msg) (k : Applied → Act) (hk : ∀ x, (k x).LeavesPower) : (Act.applyGet f m k).LeavesPower := by
  simp [Act.applyGet, hk]
@[simp] theorem applyAtomic (f : Nat) (m : Msg) (k : Applied → Act) (hk : ∀ x, (k x).LeavesPower) : (Act.applyAtomic f m k).LeavesPower := by
  simp [Act.applyAtomic, hk]

@[simp] theorem awaitFault (a : Await) (e : Flt) : (Act.awaitFault a e).LeavesPower := by
  rw [Act.awaitFault, get]
  intro s
  split <;> simp

@[simp] theorem awaitWrite (a : Await) (off : Nat) (bs : PBytes) (k : Act) (hk : k.LeavesPower) : (Act.awaitWrite a off bs k).LeavesPower := by
  simp only [Act.awaitWrite, ite, seq, wrScr, chargeAt, true_and]
  exact ⟨fun _ => hk, fun _ => .wrCtx _ _ _ _ fun r => by cases r <;> simp [hk]⟩

@[simp] theorem cmdPoison (q idx : Nat) : (Act.cmdPoison q idx).LeavesPower := by simp [Act.cmdPoison]

@[simp] theorem applyResp (f : Nat) (atomic : Bool) (m : Msg) (k : Applied → Act) (hk : ∀ x, (k x).LeavesPower) :
    (Act.applyResp f atomic m k).LeavesPower := by
  rw [Act.applyResp, get]
  intro s
  dsimp only
  split <;> simp [hk]

@[simp] theorem notice (f : Nat) (k : Bool → Act) (hk : ∀ b, (k b).LeavesPower) : (Act.notice f k).LeavesPower := by
  rw [Act.notice, get]
  intro s
  have hmark (a : Nat → Act) (ha : ∀ x, (a x).LeavesPower) (o : Option Nat) : (match o with | some x => a x | none => .skip).LeavesPower := by
    cases o <;> simp [ha]
  dsimp only
  split
  · exact ⟨hmark _ (by simp) _, hk _⟩
  · exact ⟨hmark _ (by simp) _, by simp, hk _, trivial⟩

@[simp] theorem heldShow (f : Nat) : (Act.heldShow f).LeavesPower := by simp [Act.heldShow]
@[simp] theorem delivered (f : Nat) (m : Msg) (fault : Option (Nat × Nat × Nat)) : (Act.delivered f m fault).LeavesPower := by
  simp [Act.delivered]

@[simp] theorem deliver (ext : Nat → Msg → (Applied → Act) → Act) (f n : Nat) (w : List (Nat × Nat)) (k : List (Nat × Nat) → Act)
    (hext : ∀ f m k, (∀ x, (k x).LeavesPower) → (ext f m k).LeavesPower) (hk : ∀ w, (k w).LeavesPower) :
    (Act.deliver ext f n w k).LeavesPower := by
  induction n generalizing w with
  | zero => exact hk w
  | succ n ih =>
    rw [Act.deliver, get]
    intro s
    lift_lets
    intro g
    split
    · exact hk w
    · next m _ =>
      lift_lets
      intro go post next
      have hgo (w : List (Nat × Nat)) : (go w).LeavesPower := ⟨by simp, ih w⟩
      have hpost (w : List (Nat × Nat)) : (post w).LeavesPower := by
        dsimp only [post]
        split
        · exact .notice _ _ fun b => by cases b <;> simp [hgo, hk]
        · exact hgo w
      have hnext (x : Applied) : (next x).LeavesPower := by
        cases x with
        | done l => exact hpost _
        | notYet => exact hk w
        | fault st r a => exact ⟨by simp, ih w⟩
      split
      · exact hk w
      · split
        · exact hpost w
        · split
          all_goals simp [hnext, hext]

/-! ### Collectives and late-bound reductions -/

@[simp] theorem coll (q idx : Nat) (f : Coll → Coll) : (Act.coll q idx f).LeavesPower := by simp [Act.coll]
@[simp] theorem collEnd (q idx : Nat) : (Act.collEnd q idx).LeavesPower := by simp [Act.collEnd]
@[simp] theorem collSend (c : Coll) (m : Nat) (bs : PBytes) : (Act.collSend c m bs).LeavesPower := by simp [Act.collSend]

@[simp] theorem collRead (c : Coll) (dva n : Nat) (k : PBytes → Act) (hk : ∀ bs, (k bs).LeavesPower) : (Act.collRead c dva n k).LeavesPower := by
  simp only [Act.collRead, get, when, seq, chargeAt, true_and]
  exact fun s _ => .rdCtx _ _ _ _ fun r => by cases r <;> simp [hk]

@[simp] theorem collStore (c : Coll) (dva : Nat) (bs : PBytes) (k : Act) (hk : k.LeavesPower) : (Act.collStore c dva bs k).LeavesPower := by
  simp only [Act.collStore, get, when, seq, chargeAt, true_and]
  exact fun s _ => .wrCtx _ _ _ _ fun r => by cases r <;> simp [hk]

@[simp] theorem collInput (c : Coll) (j : Nat) (k : PBytes → Act) (hk : ∀ x, (k x).LeavesPower) : (Act.collInput c j k).LeavesPower := by
  simp [Act.collInput, hk]

@[simp] theorem collWrite (c : Coll) (j : Nat) (bs : PBytes) (mon : MonDelta) (k : Act) (hk : k.LeavesPower) :
    (Act.collWrite c j bs mon k).LeavesPower := by
  simp [Act.collWrite, hk]

@[simp] theorem collStage (c : Coll) (m : Nat) (bs : PBytes) (k : Act) (hk : k.LeavesPower) : (Act.collStage c m bs k).LeavesPower := by
  simp [Act.collStage, hk]
@[simp] theorem collReduced (c : Coll) (vs : List (Nat × Bool)) : (Act.collReduced c vs).LeavesPower := by simp [Act.collReduced]
@[simp] theorem ringStep (c : Coll) (again : Act) (hagain : again.LeavesPower) : (Act.ringStep c again).LeavesPower := by
  simp [Act.ringStep, hagain]
@[simp] theorem takeContrib (c : Coll) (m need : Nat) : (Act.takeContrib c m need).LeavesPower := by simp [Act.takeContrib]

theorem directDue_leavesPower {s : State} {c : Coll} {a : Act} (h : s.directDue c = some a) : a.LeavesPower := by
  rw [State.directDue] at h
  dsimp only at h
  split at h
  · cases h
    simp
  · split at h
    · cases h
      simp
    · split at h <;> cases h
      simp

@[simp] theorem collTry (q idx n : Nat) : (Act.collTry q idx n).LeavesPower := by
  induction n with
  | zero => exact .skip
  | succ n ih =>
    rw [Act.collTry, get]
    intro s
    split
    · exact .skip
    · next c _ =>
      simp only [ite]
      refine ⟨fun _ => .skip, fun _ => ⟨fun _ => ?_, fun _ => .ringStep c _ ih⟩⟩
      split
      · next a ha => exact ⟨directDue_leavesPower ha, ih⟩
      · exact .skip

@[simp] theorem lbr (st : Nat) (f : Lbr → Lbr) : (Act.lbr st f).LeavesPower := by simp [Act.lbr]
@[simp] theorem lateCount (st p : Nat) (dropped : Bool) : (Act.lateCount st p dropped).LeavesPower := by simp [Act.lateCount]

@[simp] theorem foldRead (st n : Nat) (k : List (Nat × Bool) → Act) (hk : ∀ l, (k l).LeavesPower) : (Act.foldRead st n k).LeavesPower := by
  simp only [Act.foldRead, get, seq, chargeAt, true_and]
  exact fun s => .rdCtx _ _ _ _ fun r => by cases r <;> simp [hk]

@[simp] theorem foldWrite (st : Nat) (vs : List (Nat × Bool)) : (Act.foldWrite st vs).LeavesPower := by simp [Act.foldWrite]
@[simp] theorem foldClear (st : Nat) : (Act.foldClear st).LeavesPower := by simp [Act.foldClear]
@[simp] theorem lateSweep (st k : Nat) : (Act.lateSweep st k).LeavesPower := by simp [Act.lateSweep]
@[simp] theorem collAbort (m : Cmd) : (Act.collAbort m).LeavesPower := by simp [Act.collAbort]

@[simp] theorem lbrClose (st : Nat) (quorum : Bool) : (Act.lbrClose st quorum).LeavesPower := by
  rw [Act.lbrClose, get]
  intro s
  dsimp only
  split <;> simp

@[simp] theorem lbrArrived (st p : Nat) (bs : PBytes) : (Act.lbrArrived st p bs).LeavesPower := by
  rw [Act.lbrArrived, get]
  intro s
  dsimp only
  split <;> simp

@[simp] theorem lbrFold (st p : Nat) (bs : PBytes) : (Act.lbrFold st p bs).LeavesPower := by simp [Act.lbrFold]
@[simp] theorem applyLbr (f : Nat) (m : Msg) (k : Applied → Act) (hk : ∀ x, (k x).LeavesPower) : (Act.applyLbr f m k).LeavesPower := by
  simp [Act.applyLbr, hk]

@[simp] theorem collStart (q idx : Nat) : (Act.collStart q idx).LeavesPower := by
  refine ⟨by simp, fun s => ?_⟩
  dsimp only
  split <;> simp

@[simp] theorem applyColl (f : Nat) (m : Msg) (k : Applied → Act) (hk : ∀ x, (k x).LeavesPower) : (Act.applyColl f m k).LeavesPower := by
  simp only [Act.applyColl, get, ite]
  refine fun s => ⟨fun _ => hk _, fun _ => ⟨fun _ => hk _, fun _ => ⟨fun _ => hk _, fun _ => ?_⟩⟩⟩
  split <;> simp [hk]

/-! ### Versions and molts -/

@[simp] theorem scrubOver : Act.scrubOver.LeavesPower := by simp [Act.scrubOver]
@[simp] theorem versGone (model : Nat) (gone : Nat → Bool) : (Act.versGone model gone).LeavesPower := by simp [Act.versGone]
@[simp] theorem verDrop (model version : Nat) : (Act.verDrop model version).LeavesPower := by simp [Act.verDrop]
@[simp] theorem verPoison (model : Nat) : (Act.verPoison model).LeavesPower := by simp [Act.verPoison]

@[simp] theorem verDropOld (model : Nat) : (Act.verDropOld model).LeavesPower := by
  rw [Act.verDropOld, get]
  intro s
  split <;> simp

@[simp] theorem verDropCurrent (model : Nat) : (Act.verDropCurrent model).LeavesPower := by
  rw [Act.verDropCurrent, get]
  intro s
  split <;> simp

@[simp] theorem verSweep (model : Nat) : (Act.verSweep model).LeavesPower := by
  rw [Act.verSweep, get]
  intro s
  split <;> simp

@[simp] theorem molt (f : Molt → Molt) : (Act.molt f).LeavesPower := by simp [Act.molt]
@[simp] theorem segIn (i : Nat) (f : SegIn → SegIn) : (Act.segIn i f).LeavesPower := by simp [Act.segIn]
@[simp] theorem moltState (st r0 : Nat) : (Act.moltState st r0).LeavesPower := by simp [Act.moltState]

@[simp] theorem moltSend (dev kind attempt seg : Nat) (data : PBytes) : (Act.moltSend dev kind attempt seg data).LeavesPower := by
  rw [Act.moltSend, get]
  intro s
  split <;> simp

@[simp] theorem moltOver (st : Nat) (report : List Nat) : (Act.moltOver st report).LeavesPower := by
  rw [Act.moltOver, get]
  intro s
  refine ⟨by simp, by simp, by simp, by simp, ?_, by simp, by simp, by simp, by simp, trivial⟩
  rw [when]
  intro _
  split <;> simp

@[simp] theorem moltFail (attempts cause last shard seg detail expected received : Nat) :
    (Act.moltFail attempts cause last shard seg detail expected received).LeavesPower := by
  simp [Act.moltFail]

@[simp] theorem moltAbort (report : List Nat) : (Act.moltAbort report).LeavesPower := by simp [Act.moltAbort]
@[simp] theorem moltAbortAll (report : List Nat) : (Act.moltAbortAll report).LeavesPower := by simp [Act.moltAbortAll]
@[simp] theorem moltMayWait : Act.moltMayWait.LeavesPower := by simp [Act.moltMayWait]
@[simp] theorem refetch (i attempt : Nat) : (Act.refetch i attempt).LeavesPower := by simp [Act.refetch]

@[simp] theorem retryCount (attempts cause last shard seg expected received : Nat) :
    (Act.retryCount attempts cause last shard seg expected received).LeavesPower := by
  simp [Act.retryCount]

@[simp] theorem segRetry (i cause expected received : Nat) : (Act.segRetry i cause expected received).LeavesPower := by
  simp [Act.segRetry]
@[simp] theorem shardCheck (j : Nat) : (Act.shardCheck j).LeavesPower := by simp [Act.shardCheck]
@[simp] theorem segOk (i digest : Nat) : (Act.segOk i digest).LeavesPower := by simp [Act.segOk]

@[simp] theorem segPlace (ctx : Nat) (e : List Nat) (off : Nat) (bs : PBytes) (k : Option Flt → Act) (hk : ∀ x, (k x).LeavesPower) :
    (Act.segPlace ctx e off bs k).LeavesPower := by
  rw [Act.segPlace, get]
  intro s
  dsimp only
  split <;> simp [hk]

@[simp] theorem destFault (i : Nat) : (Act.destFault i).LeavesPower := by simp [Act.destFault]

@[simp] theorem segData (i attempt off : Nat) (bs : PBytes) : (Act.segData i attempt off bs).LeavesPower := by
  simp only [Act.segData, get, when, seq, segIn, true_and]
  exact fun s _ _ => .segPlace _ _ _ _ _ fun r => by cases r <;> simp

@[simp] theorem segEnd (i attempt digest : Nat) : (Act.segEnd i attempt digest).LeavesPower := by simp [Act.segEnd]

@[simp] theorem verCommit : Act.verCommit.LeavesPower := by
  refine fun s => ⟨?_, by simp⟩
  rw [when]
  refine fun _ => ⟨by simp, fun s => ?_, by simp⟩
  dsimp only
  split <;> simp

@[simp] theorem moltCommit (outcome : Nat) : (Act.moltCommit outcome).LeavesPower := by simp [Act.moltCommit]
@[simp] theorem moltReady (dev : Nat) : (Act.moltReady dev).LeavesPower := by simp [Act.moltReady]
@[simp] theorem repairServe (f seg : Nat) (ls : List (MemSel × Nat × Nat)) (key : Nat) : (Act.repairServe f seg ls key).LeavesPower := by
  simp [Act.repairServe]
@[simp] theorem repairData (f seg : Nat) (bs : PBytes) (whole : Bool) : (Act.repairData f seg bs whole).LeavesPower := by
  simp [Act.repairData]
@[simp] theorem moltRefetch (i attempt : Nat) : (Act.moltRefetch i attempt).LeavesPower := by simp [Act.moltRefetch]

@[simp] theorem moltMsg (src kind attempt seg : Nat) (m : Msg) : (Act.moltMsg src kind attempt seg m).LeavesPower := by
  rw [Act.moltMsg, get]
  intro s
  have hon (a : Nat → Act) (ha : ∀ i, (a i).LeavesPower) (o : Option Nat) : (match o with | some i => a i | none => .skip).LeavesPower := by
    cases o <;> simp [ha]
  dsimp only
  split
  · exact hon _ (by simp) _
  · exact hon _ (by simp) _
  · simp
  · exact hon _ (by simp) _
  all_goals simp

@[simp] theorem applyRepair (f kind seg : Nat) (m : Msg) (k : Applied → Act) (hk : ∀ x, (k x).LeavesPower) :
    (Act.applyRepair f kind seg m k).LeavesPower := by
  rw [Act.applyRepair]
  split <;> simp [hk]

@[simp] theorem applyMolt (f : Nat) (m : Msg) (k : Applied → Act) (hk : ∀ x, (k x).LeavesPower) : (Act.applyMolt f m k).LeavesPower := by
  simp [Act.applyMolt, hk]

@[simp] theorem applyExt_leavesPower (f : Nat) (m : Msg) (k : Applied → Act) (hk : ∀ x, (k x).LeavesPower) : (applyExt f m k).LeavesPower := by
  rw [applyExt]
  split <;> simp [hk]

/-! ### What a flow holds -/

@[simp] theorem deliverFlow (f : Nat) (k : List (Nat × Nat) → Act) (hk : ∀ w, (k w).LeavesPower) : (Act.deliverFlow f k).LeavesPower :=
  .deliver _ _ _ _ _ applyExt_leavesPower hk

@[simp] theorem deliverGroup (g : Nat) : (Act.deliverGroup g).LeavesPower := by simp [Act.deliverGroup]
@[simp] theorem await (m : Cmd) (a : Await) : (Act.await m a).LeavesPower := by simp [Act.await]
@[simp] theorem sourceFault (e : List Nat) (attempt : Nat) : (Act.sourceFault e attempt).LeavesPower := by simp [Act.sourceFault]
@[simp] theorem msDone (m : Cmd) : (Act.msDone m).LeavesPower := by simp [Act.msDone]

@[simp] theorem msFinish (m : Cmd) : (Act.msFinish m).LeavesPower := by
  rw [Act.msFinish, get]
  intro s
  split <;> simp

@[simp] theorem upBlock (m : Cmd) (h : Hyper) (hp : Bool) (b : Nat) (rs : List Nat) (k : UpCount → Bool → Act)
    (hk : ∀ c p, (k c p).LeavesPower) : (Act.upBlock m h hp b rs k).LeavesPower := by
  rw [Act.upBlock, get]
  refine fun s => ⟨?_, hk _ _⟩
  rw [State.upBlockOut]
  split <;> simp [Act.wrBlock, Act.wrScale]

@[simp] theorem upBlocks (m : Cmd) (h : Hyper) (hp : Bool) (n b : Nat) (l : Lanes) (c : UpCount) (p : Bool) (k : Lanes → UpCount → Bool → Act)
    (hk : ∀ l c p, (k l c p).LeavesPower) : (Act.upBlocks m h hp n b l c p k).LeavesPower := by
  induction n generalizing b l c p with
  | zero => exact hk _ _ _
  | succ n ih =>
    rw [Act.upBlocks, get]
    intro s
    exact .upBlock _ _ _ _ _ _ fun _ _ => ih _ _ _ _

end Act.LeavesPower

/-! ### The pieces of the commands -/

@[simp] theorem teBeginPiece_leavesPower (m : Cmd) (k : PieceRes → Act) (hk : ∀ x, (k x).LeavesPower) : (teBeginPiece m k).LeavesPower := by
  simp [teBeginPiece, hk]

theorem teBeginRun_leavesPower : teBeginRun.LeavesPower :=
  ⟨fun m k h => by simp [teBeginRun, h], fun m => by simp [teBeginRun], fun m => by simp [teBeginRun]⟩

@[simp] theorem teAccPiece_leavesPower (m : Cmd) (k : PieceRes → Act) (hk : ∀ x, (k x).LeavesPower) : (teAccPiece m k).LeavesPower := by
  simp [teAccPiece, hk]
@[simp] theorem teAccFinish_leavesPower (m : Cmd) : (teAccFinish m).LeavesPower := by simp [teAccFinish]

theorem teAccRun_leavesPower : teAccRun.LeavesPower :=
  ⟨fun m k h => by simp [teAccRun, h], fun m => by simp [teAccRun], fun m => by simp [teAccRun]⟩

@[simp] theorem teEndPiece_leavesPower (m : Cmd) (k : PieceRes → Act) (hk : ∀ x, (k x).LeavesPower) : (teEndPiece m k).LeavesPower := by
  simp [teEndPiece, hk]

theorem teEndRun_leavesPower : teEndRun.LeavesPower :=
  ⟨fun m k h => by simp [teEndRun, h], fun m => by simp [teEndRun], fun m => by simp [teEndRun]⟩

@[simp] theorem veMapPiece_leavesPower (m : Cmd) (k : PieceRes → Act) (hk : ∀ x, (k x).LeavesPower) : (veMapPiece m k).LeavesPower := by
  simp [veMapPiece, hk]

theorem veMapRun_leavesPower : veMapRun.LeavesPower :=
  ⟨fun m k h => by simp [veMapRun, h], fun m => by simp [veMapRun], fun m => by simp [veMapRun]⟩

@[simp] theorem veReducePiece_leavesPower (m : Cmd) (k : PieceRes → Act) (hk : ∀ x, (k x).LeavesPower) : (veReducePiece m k).LeavesPower := by
  simp [veReducePiece, hk]

theorem veReduceRun_leavesPower : veReduceRun.LeavesPower :=
  ⟨fun m k h => by simp [veReduceRun, h], fun m => by simp [veReduceRun], fun m => by simp [veReduceRun]⟩

@[simp] theorem veFlagPiece_leavesPower (m : Cmd) (k : PieceRes → Act) (hk : ∀ x, (k x).LeavesPower) : (veFlagPiece m k).LeavesPower := by
  simp [veFlagPiece, hk]

theorem veFlagRun_leavesPower : veFlagRun.LeavesPower :=
  ⟨fun m k h => by simp [veFlagRun, h], fun m => by simp [veFlagRun], fun m => by simp [veFlagRun]⟩

@[simp] theorem veSamplePiece_leavesPower (m : Cmd) (k : PieceRes → Act) (hk : ∀ x, (k x).LeavesPower) : (veSamplePiece m k).LeavesPower := by
  simp [veSamplePiece, hk]

theorem veSampleRun_leavesPower : veSampleRun.LeavesPower :=
  ⟨fun m k h => by simp [veSampleRun, h], fun m => by simp [veSampleRun], fun m => by simp [veSampleRun]⟩

@[simp] theorem vePepperSavePiece_leavesPower (m : Cmd) (k : PieceRes → Act) (hk : ∀ x, (k x).LeavesPower) : (vePepperSavePiece m k).LeavesPower := by
  simp [vePepperSavePiece, hk]
@[simp] theorem vePepperLoadPiece_leavesPower (m : Cmd) (k : PieceRes → Act) (hk : ∀ x, (k x).LeavesPower) : (vePepperLoadPiece m k).LeavesPower := by
  simp [vePepperLoadPiece, hk]

theorem vePepperSaveRun_leavesPower : vePepperSaveRun.LeavesPower :=
  ⟨fun m k h => by simp [vePepperSaveRun, h], fun m => by simp [vePepperSaveRun], fun m => by simp [vePepperSaveRun]⟩

theorem vePepperLoadRun_leavesPower : vePepperLoadRun.LeavesPower :=
  ⟨fun m k h => by simp [vePepperLoadRun, h], fun m => by simp [vePepperLoadRun], fun m => by simp [vePepperLoadRun]⟩

@[simp] theorem dmCopyPiece_leavesPower (m : Cmd) (k : PieceRes → Act) (hk : ∀ x, (k x).LeavesPower) : (dmCopyPiece m k).LeavesPower := by
  rw [dmCopyPiece, Act.LeavesPower.get]
  intro s
  dsimp only
  split
  · simp [hk]
  · split <;> simp [hk]

theorem dmCopyRun_leavesPower : dmCopyRun.LeavesPower :=
  ⟨fun m k h => by simp [dmCopyRun, h], fun m => by simp [dmCopyRun], fun m => by simp [dmCopyRun]⟩

@[simp] theorem attnClose_leavesPower (m : Cmd) : (attnClose m).LeavesPower := by simp [attnClose]

theorem attnStart_leavesPower (run : Cmd → (PieceRes → Act) → Act) (m : Cmd) (k : PieceRes → Act)
    (hrun : ∀ m k, (∀ x, (k x).LeavesPower) → (run m k).LeavesPower) (hk : ∀ x, (k x).LeavesPower) : (attnStart run m k).LeavesPower := by
  rw [attnStart, Act.LeavesPower.get]
  intro s
  split <;> simp [hrun, hk]

@[simp] theorem attnFwdPiece_leavesPower (m : Cmd) (k : PieceRes → Act) (hk : ∀ x, (k x).LeavesPower) : (attnFwdPiece m k).LeavesPower := by
  simp [attnFwdPiece, hk]
@[simp] theorem attnBwdPiece_leavesPower (m : Cmd) (k : PieceRes → Act) (hk : ∀ x, (k x).LeavesPower) : (attnBwdPiece m k).LeavesPower := by
  simp [attnBwdPiece, hk]

theorem attnFwdRun_leavesPower : attnFwdRun.LeavesPower where
  piece m k h := attnStart_leavesPower attnFwdPiece m k attnFwdPiece_leavesPower h
  finish := attnClose_leavesPower
  aborted _ := .skip

theorem attnBwdRun_leavesPower : attnBwdRun.LeavesPower where
  piece m k h := attnStart_leavesPower attnBwdPiece m k attnBwdPiece_leavesPower h
  finish := attnClose_leavesPower
  aborted _ := .skip

@[simp] theorem screePiece_leavesPower (m : Cmd) (k : PieceRes → Act) (hk : ∀ x, (k x).LeavesPower) : (screePiece m k).LeavesPower := by
  simp [screePiece, hk]

theorem screeRun_leavesPower : screeRun.LeavesPower :=
  ⟨fun m k h => by simp [screeRun, h], fun m => by simp [screeRun], fun m => by simp [screeRun]⟩

@[simp] theorem awAccPiece_leavesPower (m : Cmd) (k : PieceRes → Act) (hk : ∀ x, (k x).LeavesPower) : (awAccPiece m k).LeavesPower := by
  rw [awAccPiece, Act.LeavesPower.get]
  intro s
  dsimp only
  split
  · simp [hk]
  · split <;> simp [hk]

@[simp] theorem awDrainPiece_leavesPower (m : Cmd) (k : PieceRes → Act) (hk : ∀ x, (k x).LeavesPower) : (awDrainPiece m k).LeavesPower := by
  rw [awDrainPiece, Act.LeavesPower.get]
  intro s
  dsimp only
  split
  · simp [hk]
  · split <;> simp [hk]

@[simp] theorem awPiece_leavesPower (m : Cmd) (k : PieceRes → Act) (hk : ∀ x, (k x).LeavesPower) : (awPiece m k).LeavesPower := by simp [awPiece, hk]

theorem awRun_leavesPower : awRun.LeavesPower :=
  ⟨fun m k h => by simp [awRun, dmCopyRun, h], fun m => by simp [awRun, dmCopyRun], fun m => by simp [awRun, dmCopyRun]⟩

@[simp] theorem tgPiece_leavesPower (m : Cmd) (k : PieceRes → Act) (hk : ∀ x, (k x).LeavesPower) : (tgPiece m k).LeavesPower := by simp [tgPiece, hk]

theorem tgRun_leavesPower : tgRun.LeavesPower :=
  ⟨fun m k h => by simp [tgRun, h], fun m => by simp [tgRun], fun m => by simp [tgRun]⟩

@[simp] theorem putPiece_leavesPower (m : Cmd) (k : PieceRes → Act) (hk : ∀ x, (k x).LeavesPower) : (putPiece m k).LeavesPower := by
  rw [putPiece, Act.LeavesPower.get]
  intro s
  split <;> simp [hk]

theorem putRun_leavesPower : putRun.LeavesPower :=
  ⟨fun m k h => by simp [putRun, h], fun m => by simp [putRun], fun m => by simp [putRun]⟩

@[simp] theorem getPiece_leavesPower (m : Cmd) (k : PieceRes → Act) (hk : ∀ x, (k x).LeavesPower) : (getPiece m k).LeavesPower := by
  simp [getPiece, hk]

theorem getRun_leavesPower : getRun.LeavesPower :=
  ⟨fun m k h => by simp [getRun, h], fun m => by simp [getRun], fun m => by simp [getRun]⟩

@[simp] theorem aaPiece_leavesPower (m : Cmd) (k : PieceRes → Act) (hk : ∀ x, (k x).LeavesPower) : (aaPiece m k).LeavesPower := by simp [aaPiece, hk]

theorem aaRun_leavesPower : aaRun.LeavesPower :=
  ⟨fun m k h => by simp [aaRun, h], fun m => by simp [aaRun], fun m => by simp [aaRun]⟩

@[simp] theorem coPiece_leavesPower (m : Cmd) (k : PieceRes → Act) (hk : ∀ x, (k x).LeavesPower) : (coPiece m k).LeavesPower := by simp [coPiece, hk]

theorem coRun_leavesPower : coRun.LeavesPower :=
  ⟨fun m k h => by simp [coRun, h], fun m => by simp [coRun], fun m => by simp [coRun]⟩

@[simp] theorem dpSend_leavesPower (m : Cmd) (k : PieceRes → Act) (hk : ∀ x, (k x).LeavesPower) : (dpSend m k).LeavesPower := by
  rw [dpSend, Act.LeavesPower.get]
  intro s
  dsimp only
  split
  · exact hk _
  · split
    · exact hk _
    · split <;> simp [hk]

@[simp] theorem dpReturn_leavesPower (m : Cmd) (k : PieceRes → Act) (hk : ∀ x, (k x).LeavesPower) : (dpReturn m k).LeavesPower := by
  rw [dpReturn, Act.LeavesPower.get]
  intro s
  dsimp only
  split <;> simp [hk]

theorem dpRun_leavesPower : dpRun.LeavesPower :=
  ⟨fun m k h => by simp [dpRun, h], fun m => by simp [dpRun], fun m => by simp [dpRun]⟩

@[simp] theorem msPiece_leavesPower (m : Cmd) (k : PieceRes → Act) (hk : ∀ x, (k x).LeavesPower) : (msPiece m k).LeavesPower := by
  rw [msPiece, Act.LeavesPower.get]
  intro s
  dsimp only
  split
  · simp [hk]
  · split <;> simp [hk]

theorem msRun_leavesPower : msRun.LeavesPower :=
  ⟨fun m k h => by simp [msRun, h], fun m => by simp [msRun], fun m => by simp [msRun]⟩

@[simp] theorem dgPiece_leavesPower (m : Cmd) (k : PieceRes → Act) (hk : ∀ x, (k x).LeavesPower) : (dgPiece m k).LeavesPower := by
  simp only [dgPiece, Act.LeavesPower.get, Act.LeavesPower.ite]
  refine fun s => ⟨fun _ => hk _, fun _ => ?_⟩
  split <;> simp [hk]

theorem dgRun_leavesPower : dgRun.LeavesPower :=
  ⟨fun m k h => by simp [dgRun, h], fun m => by simp [dgRun], fun m => by simp [dgRun]⟩

@[simp] theorem upPiece_leavesPower (m : Cmd) (k : PieceRes → Act) (hk : ∀ x, (k x).LeavesPower) : (upPiece m k).LeavesPower := by simp [upPiece, hk]

theorem upRun_leavesPower : upRun.LeavesPower :=
  ⟨fun m k h => by simp [upRun, h], fun m => by simp [upRun], fun m => by simp [upRun]⟩

theorem runOf_leavesPower (d : Desc) : (runOf d).LeavesPower := by
  rw [runOf]
  split
  · exact teBeginRun_leavesPower
  · exact teAccRun_leavesPower
  · exact teEndRun_leavesPower
  · exact veMapRun_leavesPower
  · exact veReduceRun_leavesPower
  · exact veSampleRun_leavesPower
  · exact veFlagRun_leavesPower
  · exact vePepperSaveRun_leavesPower
  · exact vePepperLoadRun_leavesPower
  · exact tgRun_leavesPower
  · exact upRun_leavesPower
  · exact screeRun_leavesPower
  · exact screeRun_leavesPower
  · exact attnFwdRun_leavesPower
  · exact attnFwdRun_leavesPower
  · exact attnBwdRun_leavesPower
  · exact coRun_leavesPower
  · exact dpRun_leavesPower
  · exact msRun_leavesPower
  · exact dgRun_leavesPower
  · exact putRun_leavesPower
  · exact getRun_leavesPower
  · exact aaRun_leavesPower
  · split
    · exact awRun_leavesPower
    · exact dmCopyRun_leavesPower

namespace Act.LeavesPower

/-! ### Engines -/

@[simp] theorem front (m : Cmd) : (Act.front m).LeavesPower := by simp [Act.front]
@[simp] theorem bundleStart (m : Cmd) : (Act.bundleStart m).LeavesPower := by simp [Act.bundleStart]

@[simp] theorem reenterOf (core ctx n : Nat) : (Act.reenterOf core ctx n).LeavesPower := by
  induction n with
  | zero => exact .skip
  | succ n ih =>
    rw [Act.reenterOf, get]
    intro s
    split <;> simp [ih]

@[simp] theorem reenter (core : Nat) : (Act.reenter core).LeavesPower := by simp [Act.reenter]
@[simp] theorem leave (m : Cmd) : (Act.leave m).LeavesPower := by simp [Act.leave]
@[simp] theorem credit (m : Cmd) (role : Option (Nat × Nat)) : (Act.credit m role).LeavesPower := by cases role <;> simp [Act.credit]

@[simp] theorem retire (m : Cmd) : (Act.retire m).LeavesPower := by
  simp only [Act.retire, get, all_cons, (runOf_leavesPower m.d).finish, leave, credit, flyDone, all_nil, true_and,
    and_true]
  intro s
  split <;> simp

@[simp] theorem abortCmd (m : Cmd) : (Act.abortCmd m).LeavesPower := by simp [Act.abortCmd, (runOf_leavesPower m.d).aborted]
@[simp] theorem claim (m : Cmd) (role : Option (Nat × Nat)) : (Act.claim m role).LeavesPower := by cases role <;> simp [Act.claim]

@[simp] theorem takePost (m : Cmd) : (Act.takePost m).LeavesPower := by
  rw [Act.takePost]
  split <;> simp

@[simp] theorem streamBack (m : Cmd) : (Act.streamBack m).LeavesPower := by simp [Act.streamBack]

@[simp] theorem pieceEnd (m : Cmd) : (Act.pieceEnd m).LeavesPower := by
  rw [Act.pieceEnd]
  split <;> simp

@[simp] theorem engine (core eng n : Nat) : (Act.engine core eng n).LeavesPower := by
  induction n generalizing core eng with
  | zero => exact .skip
  | succ n ih =>
    rw [Act.engine, get]
    intro s
    split
    · exact .skip
    · next m r _ =>
      lift_lets
      intro rerun
      have hrerun : rerun.LeavesPower := by simp [rerun, ih]
      split
      · exact .skip
      · split
        · split <;> simp [ih]
        · split
          · exact .skip
          · exact ⟨by simp, hrerun⟩
          · simp
          · exact ⟨by simp, by simp, by simp, hrerun, trivial⟩
          · next c _ =>
            split
            · split <;> simp [ih]
            · split
              · split <;> simp [ih]
              · refine ⟨by simp, by simp, (runOf_leavesPower _).piece _ _ fun x => ?_, trivial⟩
                cases x <;> simp [ih]

@[simp] theorem runEngine (core eng : Nat) : (Act.runEngine core eng).LeavesPower := by simp [Act.runEngine]
@[simp] theorem runCore (core : Nat) : (Act.runCore core).LeavesPower := by simp [Act.runCore]
@[simp] theorem giveSlot (core k ctx : Nat) : (Act.giveSlot core k ctx).LeavesPower := by simp [Act.giveSlot]

@[simp] theorem deferNote (core k : Nat) : (Act.deferNote core k).LeavesPower := by
  rw [Act.deferNote, get]
  intro s
  split <;> simp

@[simp] theorem wantSlot (core ctx : Nat) : (Act.wantSlot core ctx).LeavesPower := by
  rw [Act.wantSlot, get]
  intro s
  split
  · exact .skip
  · refine ⟨by simp, ?_⟩
    split
    · rw [get]
      intro s
      split <;> simp
    · simp

@[simp] theorem submitted (q : Nat) : (Act.submitted q).LeavesPower := by simp [Act.submitted]

/-! ### Sessions -/

@[simp] theorem flushRecs (i : Nat) : (Act.flushRecs i).LeavesPower := by simp [Act.flushRecs]

@[simp] theorem storeEnt (x : Sess) (version : Nat) (e : Ent) : (Act.storeEnt x version e).LeavesPower := by
  rw [Act.storeEnt]
  split <;> simp

@[simp] theorem storeAdmit (x : Sess) (q : Sq) : (Act.storeAdmit x q).LeavesPower := by
  rw [Act.storeAdmit]
  split <;> simp

@[simp] theorem tokenBuf (x : Sess) (e : Ent) : (Act.tokenBuf x e).LeavesPower := by simp [Act.tokenBuf]
@[simp] theorem applyBoundary (i : Nat) (b : Bnd) : (Act.applyBoundary i b).LeavesPower := by simp [Act.applyBoundary]
@[simp] theorem boundaryNow (i : Nat) : (Act.boundaryNow i).LeavesPower := by simp [Act.boundaryNow]
@[simp] theorem policyAgain (k : Nat) : (Act.policyAgain k).LeavesPower := by simp [Act.policyAgain]
@[simp] theorem closeSessions : Act.closeSessions.LeavesPower := by simp [Act.closeSessions]

end Act.LeavesPower

end Sys2Proof.Machine
end

section
/-! SUPPORT. The first second and restarts: training, boot, READY, the restart of the saddle (R471 to R473, R501 to R504). -/

namespace Sys2Proof.Machine

section
variable {s : State}

/-! ### Memory trains (R281, R472) -/

theorem trained_trains (failed : List Nat) (hpower : s.u.pow.power = true) (hperst : s.u.pow.perst = false) (hdeep : s.u.pow.deep = false)
    (hnap : s.u.pow.nap = false) (hmem : s.u.pow.memOn = false) : let t := (Act.trained failed).run s
    t.u.pow.memOn = true ∧ t.u.pow.trained = true ∧ (∀ c, c ∈ t.u.pow.failedCh ↔ c ∈ failed) ∧ t.stack = s.stack := by
  have hrun : (Act.trained failed).run s = (Act.each failed.eraseDups fun c => .errEvent (60 + c / 1536) c).run
      ((Act.pow fun p => { p with memOn := true, trained := true, failedCh := failed.eraseDups }).run s) := by
    rw [Act.trained, Act.run_get]
    dsimp only
    rw [hpower, hperst, hdeep, hnap, hmem]
    rfl
  have hpow := (Act.LeavesPower.each (l := failed.eraseDups).2 fun c _ => Act.LeavesPower.errEvent (60 + c / 1536) c).keeps
    ((Act.pow fun p => { p with memOn := true, trained := true, failedCh := failed.eraseDups }).run s)
  have hstack := (Act.keeps_each (l := failed.eraseDups) fun c _ => Beside.stack.errEvent (60 + c / 1536) c)
    ((Act.pow fun p => { p with memOn := true, trained := true, failedCh := failed.eraseDups }).run s)
  rw [hrun]
  generalize (Act.each failed.eraseDups fun c => .errEvent (60 + c / 1536) c).run _ = t at *
  exact ⟨congrArg PowU.memOn hpow, congrArg PowU.trained hpow, fun c => by
    have hch : t.u.pow.failedCh = failed.eraseDups := congrArg PowU.failedCh hpow
    rw [hch, List.mem_eraseDups], hstack⟩

/-! ### READY (R471, R472) -/

theorem deviceReady_readies (hfw : s.fwRuns = true) (hseen : s.u.pow.perstSeen = true) (hmem : s.u.pow.memOn = true)
    (hready : s.u.pow.ready = false) (hfatal : s.u.pow.fatal = false) (hkept : s.u.host.keptDb = []) : let t := Act.deviceReady.run s
    t.u.pow.ready = true ∧ SameMem s t ∧ SameEntriesBut [] s t := by
  have hrun : Act.deviceReady.run s = (Act.pow fun p => { p with ready := true }).run s := by
    rw [Act.deviceReady, Act.run_get, hfw, hseen, hmem, hready, hfatal]
    exact keptBells_none (s := (Act.pow fun p => { p with ready := true }).run s) hkept
  rw [hrun]
  exact ⟨rfl, Act.touches_pow (fun _ => ⟨rfl, rfl⟩) s⟩

/-! ### The firmware that verified starts (R472, R501) -/

/-- The view looks at no port, no event and no trace; what a port's start changes is aside. -/
theorem Act.portStart_keepsTrust (p : Nat) : (Act.portStart p).Keeps fun s => s.u.trust :=
  have htrace (code engine ctx d0 d1 : Nat) : (Act.trace code engine ctx d0 d1).Keeps fun s => s.u.trust := fun s => by
    simp only [Act.trace, Act.run_units]
    split <;> rfl
  Act.keeps_get fun _ => Act.keeps_when fun _ => Act.keeps_seq (fun _ => rfl) <|
    Act.keeps_seq (Act.fld_keeps_u (g := fun u => u.trust)) <| Act.keeps_seq (Act.keeps_get fun _ => htrace _ _ _ _ _) <|
    Act.keeps_seq (fun _ => rfl) <| Act.keeps_seq (fun _ => rfl) Act.keeps_skip

theorem Aside.portStart {α : Type} {f : State → α} (h : Aside f) (p : Nat) : (Act.portStart p).Keeps f :=
  Act.keeps_get fun _ => Act.keeps_when fun _ => Act.keeps_seq (h.units fun _ => ⟨rfl, rfl, rfl, rfl, rfl⟩) (h.portSt _ _)

theorem Act.portStart_touches (p : Nat) : (Act.portStart p).Touches [(.portStatus, p)] :=
  Act.touches_get fun _ => Act.touches_when <| Act.touches_seq (Act.touches_units fun _ => ⟨rfl, rfl⟩) (Act.portSt_touches (by simp))

/-- Enabled ports begin their sequence. -/
def Act.portsStart : Act :=
  .each (List.range 8) fun p => .get fun s => .when (s.portEnabled p && (s.portSt p == psDisabled || s.portSt p == psDown)) (.portStart p)

theorem portsStart_starts (s : State) : let t := Act.portsStart.run s
    t.u.pow = s.u.pow ∧ t.u.trust = s.u.trust ∧ t.rd .bootStatus = s.rd .bootStatus ∧ SameMem s t := by
  have hkeep {α : Type} {f : State → α} (h : ∀ p, (Act.portStart p).Keeps f) : f (Act.portsStart.run s) = f s :=
    Act.keeps_each (fun p _ => Act.keeps_get fun _ => Act.keeps_when fun _ => h p) s
  exact ⟨hkeep (Aside.ofUnits (g := fun u => u.pow) fun _ _ h => h.pow).portStart, hkeep Act.portStart_keepsTrust,
    hkeep (Aside.rd (n := .bootStatus) (i := 0) (by decide) (by decide)).portStart,
    fun m a n => hkeep (f := fun s => s.rdMem m a n) fun p y => (Act.portStart_touches p y).1 m a n⟩

theorem Act.run_fwStart (a b c d e : Act) (s : State) : (Act.all [a, b, c, d, e]).run s = e.run (d.run (c.run (b.run (a.run s)))) := by
  simp only [Act.run_all_cons, Act.run_all_nil]

theorem fwStart_starts (s : State) (img : List Byte) (status : Nat) : let t := (Act.fwStart img status).run s
    t.u.pow.boot = .running ∧ t.u.trust.run = img ∧ t.u.trust.active = s.u.trust.active ∧ t.rd .bootStatus = status % 2 ^ 32 ∧ SameMem s t := by
  have hrun : (Act.fwStart img status).run s = Act.portsStart.run ((Act.pow fun p => { p with boot := .running }).run
      ((Act.units fun u => { u with trust := { u.trust with run := img, staging := [] } }).run
        ((Act.reg .fwVersion 0 (imgVersion img)).run ((Act.reg .bootStatus 0 status).run s)))) := Act.run_fwStart _ _ _ _ _ s
  rw [hrun]
  have hu : ((Act.reg .fwVersion 0 (imgVersion img)).run ((Act.reg .bootStatus 0 status).run s)).u = s.u :=
    (Act.reg_keeps_u (g := id) _).trans (Act.reg_keeps_u (g := id) s)
  have hstatus : ((Act.reg .fwVersion 0 (imgVersion img)).run ((Act.reg .bootStatus 0 status).run s)).rd .bootStatus = status % 2 ^ 32 :=
    (State.rd_reg_other _ _ (by decide) (by decide) (by decide)).trans (s.rd_reg status ⟨by decide, by decide, fun h => absurd h (by decide)⟩)
  have hmem : SameMem s ((Act.reg .fwVersion 0 (imgVersion img)).run ((Act.reg .bootStatus 0 status).run s)) :=
    (Act.touches_seq (l := [(.bootStatus, 0), (.fwVersion, 0)]) (Act.touches_reg (by simp)) (Act.touches_reg (by simp)) s).1
  generalize (Act.reg .fwVersion 0 (imgVersion img)).run ((Act.reg .bootStatus 0 status).run s) = y at *
  have hset : ((Act.pow fun p => { p with boot := .running }).run
      ((Act.units fun u => { u with trust := { u.trust with run := img, staging := [] } }).run y)).rd .bootStatus = y.rd .bootStatus :=
    (Act.touches_seq (l := []) (Act.touches_units fun _ => ⟨rfl, rfl⟩) (Act.touches_pow fun _ => ⟨rfl, rfl⟩)).keepsRd (by decide) (by simp) y
  obtain ⟨hpow, htrust, hkept, hsame⟩ := portsStart_starts ((Act.pow fun p => { p with boot := .running }).run
    ((Act.units fun u => { u with trust := { u.trust with run := img, staging := [] } }).run y))
  refine ⟨congrArg PowU.boot hpow, congrArg TrustU.run htrust, (congrArg TrustU.active htrust).trans (congrArg (·.trust.active) hu),
    hkept.trans (hset.trans hstatus), fun m a n => (hsame m a n).trans (hmem m a n)⟩

/-! ### The boot ROM verifies the copies (R501 to R503) -/

theorem copyReason_flash {c : Nat} (h : s.copyReason c = 0) : s.noFlash = false := by
  rw [State.copyReason] at h
  split at h
  · exact absurd h (by decide)
  · next hno => simpa using hno

/-- Module flash that cannot be read is told after the boot. -/
def Act.noFlashTold (s : State) : Act := .when s.noFlash (.errEvent 80 0)

theorem bootVerify_run (hrom : s.romRuns = true) (h1 : s.bootStrap ≠ 1) (h2 : s.bootStrap ≠ 2) :
    Act.bootVerify.run s = (Act.noFlashTold s).run (Act.bootFlash.run s) := by
  rw [Act.bootVerify, Act.run_get]
  dsimp only
  rw [hrom, Act.when_true, if_neg (by simp [h1, h2]), Act.run_seq, Act.noFlashTold]

theorem noFlashTold_none (h : s.noFlash = false) (y : State) : (Act.noFlashTold s).run y = y := by rw [Act.noFlashTold, h]; rfl

theorem bootVerify_active (hrom : s.romRuns = true) (h1 : s.bootStrap ≠ 1) (h2 : s.bootStrap ≠ 2) (hok : s.copyReason s.u.trust.active = 0) :
    let t := Act.bootVerify.run s
    t.u.pow.boot = .running ∧ t.u.trust.run = s.fwCopy s.u.trust.active ∧ t.u.trust.active = s.u.trust.active ∧
      t.rd .bootStatus = bootWord 2 s.u.trust.active (b2n s.safeMode) 0 0 % 2 ^ 32 ∧ SameMem s t := by
  rw [bootVerify_run hrom h1 h2, noFlashTold_none (copyReason_flash hok), Act.bootFlash, Act.run_get]
  dsimp only
  rw [if_pos hok]
  exact fwStart_starts s _ _

theorem bootVerify_other (hrom : s.romRuns = true) (h1 : s.bootStrap ≠ 1) (h2 : s.bootStrap ≠ 2) (hbad : s.copyReason s.u.trust.active ≠ 0)
    (hok : s.copyReason (1 - s.u.trust.active) = 0) : let t := Act.bootVerify.run s
    t.u.pow.boot = .running ∧ t.u.trust.run = s.fwCopy (1 - s.u.trust.active) ∧ t.u.trust.active = 1 - s.u.trust.active ∧ SameMem s t := by
  rw [bootVerify_run hrom h1 h2, noFlashTold_none (copyReason_flash hok), Act.bootFlash, Act.run_get]
  dsimp only
  rw [if_neg hbad, if_pos hok, Act.run_seq]
  obtain ⟨hboot, hrun, hactive, -, hmem⟩ := fwStart_starts
    ((Act.units fun u => { u with trust := { u.trust with active := 1 - s.u.trust.active } }).run s) (s.fwCopy (1 - s.u.trust.active))
    (bootWord 2 (1 - s.u.trust.active) (b2n s.safeMode) (if s.u.trust.active = 0 then (s.copyReason s.u.trust.active, 0) else (0, s.copyReason s.u.trust.active)).1
      (if s.u.trust.active = 0 then (s.copyReason s.u.trust.active, 0) else (0, s.copyReason s.u.trust.active)).2)
  exact ⟨hboot, hrun, hactive, hmem⟩

theorem bootWord_stage (stage copy safe a b : Nat) (h : stage < 16) : bits (bootWord stage copy safe a b % 2 ^ 32) 0 4 = stage := by
  rw [bits, Nat.shiftRight_eq_div_pow, bootWord]
  omega

theorem bootVerify_fails (hrom : s.romRuns = true) (h1 : s.bootStrap ≠ 1) (h2 : s.bootStrap ≠ 2) (hbad : s.copyReason s.u.trust.active ≠ 0)
    (hbad' : s.copyReason (1 - s.u.trust.active) ≠ 0) : let t := Act.bootVerify.run s
    t.u.pow.boot = .failed ∧ t.fld .bootStatus 0 0 0 4 = 3 := by
  obtain ⟨fa, fb, hflash⟩ : ∃ fa fb, Act.bootFlash.run s =
      (Act.bootFailed (bootWord 3 (1 - s.u.trust.active) (b2n s.safeMode) fa fb)).run s := by
    rw [Act.bootFlash, Act.run_get]
    dsimp only
    rw [if_neg hbad, if_neg hbad']
    exact ⟨_, _, rfl⟩
  rw [bootVerify_run hrom h1 h2, hflash, Act.bootFailed, Act.run_seq]
  have hstatus := s.rd_reg (n := .bootStatus) (i := 0) (bootWord 3 (1 - s.u.trust.active) (b2n s.safeMode) fa fb)
    ⟨by decide, by decide, fun h => absurd h (by decide)⟩
  generalize (Act.reg .bootStatus 0 (bootWord 3 (1 - s.u.trust.active) (b2n s.safeMode) fa fb)).run s = y at *
  have hset : ((Act.pow fun p => { p with boot := .failed }).run y).rd .bootStatus = y.rd .bootStatus :=
    (Act.touches_pow (l := []) fun _ => ⟨rfl, rfl⟩).keepsRd (by decide) (by simp) y
  have htold {α : Type} {f : State → α} (h : Aside f) (z : State) : f ((Act.noFlashTold s).run z) = f z := Act.keeps_when (fun _ => h.errEvent _ _) z
  refine ⟨htold (.ofUnits (g := fun u => u.pow.boot) fun _ _ h => congrArg PowU.boot h.pow) _, ?_⟩
  rw [State.fld, htold (.rd (n := .bootStatus) (i := 0) (by decide) (by decide)), hset, hstatus]
  exact bootWord_stage 3 _ _ _ _ (by decide)

end

end Sys2Proof.Machine
end

section
/-! SUPPORT. The saddle restarts, and what the end of a restart finds (R471, R496, R504). -/

namespace Sys2Proof.Machine

section
variable {s : State} {r : Requester}

/-! ### A restart begins (R471) -/

/-- A cairn that is written stops, and the saddle restarts. -/
theorem watchdogStops_restarts (s : State) : let t := Act.watchdogStops.run s
    t.u.pow.restarting = true ∧ t.rd .resetCount = s.rd .resetCount ∧
      (s.u.svc.cairn = none → t.stack = s.stack ∧ SameMem s t ∧ SameEntriesBut [] s t) := by
  have hsome : (Act.cairnSome.run s).rd .resetCount = s.rd .resetCount :=
    have hview := Aside.rd (n := .resetCount) (i := 0) (by decide) (by decide)
    hview.beside.cairnSome (fun _ _ => hview.mem) (fun _ => hview.svc _) s
  have hset (y : State) := (Act.touches_pow (l := []) (f := fun p => { p with restarting := true }) fun _ => ⟨rfl, rfl⟩) y
  rw [Act.watchdogStops, Act.run_seq]
  refine ⟨rfl, ((hset _).2 .resetCount 0 (by decide) (by simp)).trans hsome, fun hnone => ?_⟩
  have hskip : Act.cairnSome.run s = s := by
    rw [Act.cairnSome, Act.run_get, hnone, Option.isSome_none, Bool.false_and, Act.when_false, Act.run_skip]
  rw [hskip]
  exact ⟨rfl, hset s⟩

theorem resetCount_counts {off : Nat} (hoff : off * 8 + 32 ≤ 128) (s : State) :
    ((Act.countFld .resetCount 0 off 0 32).run s).fld .resetCount 0 off 0 32 = (s.fld .resetCount 0 off 0 32 + 1) % 2 ^ 32 := by
  rw [Act.countFld, Act.run_get]
  exact s.fld_fld _ ⟨by decide, by decide, fun h => absurd h (by decide)⟩ hoff

/-- The request for a restart is answered and counts. -/
def Act.restartAnswered (r : Requester) : Act := .seq (.answers .saddleRestart r 0 1 stOk) (.countFld .resetCount 0 8 0 32)

theorem saddleRestart_run (h : Accepts s r .saddleRestart 0 1) (hmolt : s.moltRuns = false) :
    (Act.entryRow .saddleRestart ruleSaddleRestart r 0 1).run s =
      Act.watchdogStops.run ((Act.restartAnswered r).run (s.asked r .saddleRestart 0)) := by
  have hquiet : (s.asked r .saddleRestart 0).moltRuns = false := by
    rw [State.moltRuns, s.asked_rd r (by decide) (by decide)]
    exact hmolt
  rw [h.entryRow_run (by simp [State.ownerFn]), ruleSaddleRestart, Act.run_get, if_neg (by decide), hquiet, if_neg (by decide), Act.watchdogStops,
    Act.restartAnswered]
  simp only [Act.run_all_cons, Act.run_all_nil, Act.run_seq]

theorem restartAnswered_keepsPlain (r : Requester) : (Act.restartAnswered r).Keeps fun s => s.u.svc.plain :=
  Act.keeps_seq (Act.answers_keepsPlain .saddleRestart r 0 1 stOk) (Act.keeps_get fun _ => Act.fld_keeps_u (g := fun u => u.svc.plain))

theorem saddleRestart_restarts (h : Accepts s r .saddleRestart 0 1) (hmolt : s.moltRuns = false) :
    let t := (Act.entryRow .saddleRestart ruleSaddleRestart r 0 1).run s
    t.u.pow.restarting = true ∧ t.fld .resetCount 0 8 0 32 = (s.fld .resetCount 0 8 0 32 + 1) % 2 ^ 32 ∧
      (s.u.svc.cairn = none → EntryOnly [(.resetCount, 0)] s t) := by
  have hrun := saddleRestart_run h hmolt
  have hcairn : (s.asked r .saddleRestart 0).u.svc = s.u.svc := State.asked_units (g := fun u => u.svc) fun _ _ => rfl
  have hplain := restartAnswered_keepsPlain r (s.asked r .saddleRestart 0)
  have hframe : ((Act.seq (.asks r (EName.saddleRestart.key 0)) (.restartAnswered r)).Touches [(.dictCount, 0), (.resetCount, 0)]) :=
    Act.touches_seq ((Act.asks_touches r _).mono (by simp)) <| Act.touches_seq ((Act.answers_touches .saddleRestart r 0 1 stOk).mono (by simp)) (Act.touches_countFld (by simp))
  have hcount : ((Act.restartAnswered r).run (s.asked r .saddleRestart 0)).fld .resetCount 0 8 0 32 = (s.fld .resetCount 0 8 0 32 + 1) % 2 ^ 32 := by
    have hsame := ((Act.answers_touches .saddleRestart r 0 1 stOk (s.asked r .saddleRestart 0)).2 .resetCount 0 (by decide) (by decide)).trans
      (s.asked_rd r (by decide) (by decide))
    rw [Act.restartAnswered, Act.run_seq, resetCount_counts (by decide), State.fld, hsame, ← State.fld]
  obtain ⟨hrestart, hrd, hquiet⟩ := watchdogStops_restarts ((Act.restartAnswered r).run (s.asked r .saddleRestart 0))
  rw [← hrun] at hrestart hrd hquiet
  refine ⟨hrestart, by rw [← hcount, State.fld, State.fld, hrd], fun hnone => ?_⟩
  have hstop := (hquiet ((congrArg SvcU.cairn hplain :).trans ((congrArg SvcU.cairn hcairn :).trans hnone))).2
  exact frame_trans (hframe s) (sameEntries_mono (by simp) hstop)

/-! ### The firmware's watchdog (R471) -/

/-- What the watchdog counts. -/
def Act.watchdogNoted : Act := .seq (.countFld .resetCount 0 12 0 32) (.errEvent 57 0)

theorem Beside.watchdogNoted {α : Type} {f : State → α} (h : Beside f) (hcount : ∀ v, (Act.reg .resetCount 0 v).Keeps f) : Act.watchdogNoted.Keeps f :=
  Act.keeps_seq (Act.keeps_get fun _ => Act.keeps_get fun _ => hcount _) (h.errEvent _ _)

theorem watchdogRestart_run (hfw : s.fwRuns = true) (hmolt : s.moltRuns = false) :
    Act.watchdogRestart.run s = Act.watchdogStops.run (Act.watchdogNoted.run s) := by
  have hquiet : (Act.watchdogNoted.run s).moltRuns = false := by
    have hrd : (Act.watchdogNoted.run s).rd .moltState = s.rd .moltState :=
      (Aside.rd (n := .moltState) (i := 0) (by decide) (by decide)).beside.watchdogNoted (fun _ => Act.reg_keepsOther (by decide) (by decide)) s
    rw [State.moltRuns, hrd]
    exact hmolt
  rw [Act.watchdogRestart, Act.run_get, hfw, Act.when_true, Act.watchdogStops]
  rw [Act.watchdogNoted, Act.run_seq] at hquiet ⊢
  simp only [Act.run_all_cons, Act.run_all_nil, Act.run_seq]
  rw [Act.moltFail, Act.run_get, hquiet, Act.when_false, Act.run_skip]

theorem watchdogRestart_restarts (hfw : s.fwRuns = true) (hmolt : s.moltRuns = false) : let t := Act.watchdogRestart.run s
    t.u.pow.restarting = true ∧ t.fld .resetCount 0 12 0 32 = (s.fld .resetCount 0 12 0 32 + 1) % 2 ^ 32 ∧
      (s.u.svc.cairn = none → t.stack = s.stack) := by
  have hrun := watchdogRestart_run hfw hmolt
  have hplain : (Act.watchdogNoted.run s).u.svc.plain = s.u.svc.plain :=
    Beside.plain.watchdogNoted (fun _ => Act.reg_keeps_u (g := fun u => u.svc.plain)) s
  have hstack : (Act.watchdogNoted.run s).stack = s.stack := Beside.stack.watchdogNoted (fun _ => Act.reg_keeps_store .stack) s
  have hcount : (Act.watchdogNoted.run s).fld .resetCount 0 12 0 32 = (s.fld .resetCount 0 12 0 32 + 1) % 2 ^ 32 := by
    have hevent := (Aside.rd (n := .resetCount) (i := 0) (by decide) (by decide)).errEvent 57 0 ((Act.countFld .resetCount 0 12 0 32).run s)
    rw [← resetCount_counts (by decide) s, Act.watchdogNoted, Act.run_seq, State.fld, hevent, ← State.fld]
  generalize Act.watchdogNoted.run s = y at *
  obtain ⟨hrestart, hrd, hquiet⟩ := watchdogStops_restarts y
  rw [← hrun] at hrestart hrd hquiet
  exact ⟨hrestart, by rw [← hcount, State.fld, State.fld, hrd],
    fun hnone => (hquiet ((congrArg SvcU.cairn hplain :).trans hnone)).1.trans hstack⟩

end

end Sys2Proof.Machine
end

section
/-! SUPPORT. What the end of a saddle restart finds (R471, R482, R496, R504). -/

namespace Sys2Proof.Machine

/-- Whether the saddle restarts, and how far its boot has come. -/
def State.booting (s : State) : Bool × Boot := (s.u.pow.restarting, s.u.pow.boot)

abbrev Act.KeepsBooting (a : Act) : Prop := a.Keeps State.booting

/-! ### What no restart hangs on -/

theorem Act.LeavesPower.booting {a : Act} (h : a.LeavesPower) : a.KeepsBooting := fun s => congrArg (fun p => (p.restarting, p.boot)) (h.keeps s)

theorem Act.pow_keepsBooting {g : PowU → PowU} (h : ∀ p, (g p).restarting = p.restarting ∧ (g p).boot = p.boot) : (Act.pow g).KeepsBooting :=
  fun s => Prod.ext (h s.u.pow).1 (h s.u.pow).2

@[simp] theorem Act.LeavesPower.lifeCount (n : EName) : (Act.lifeCount n).LeavesPower := by simp [Act.lifeCount]
@[simp] theorem Act.LeavesPower.cairnOpen (c : Cairn) : (Act.cairnOpen c).LeavesPower := by simp [Act.cairnOpen]
@[simp] theorem Act.LeavesPower.portSt (p st : Nat) : (Act.portSt p st).LeavesPower := by simp [Act.portSt]
@[simp] theorem Act.LeavesPower.flowDisable (f : Nat) : (Act.flowDisable f).LeavesPower := by simp [Act.flowDisable]
@[simp] theorem Act.LeavesPower.fatalBare : Act.fatalBare.LeavesPower := by simp [Act.fatalBare]
@[simp] theorem Act.LeavesPower.columnLost (col : Nat) : (Act.columnLost col).LeavesPower := ⟨by simp, fun _ => rfl⟩
@[simp] theorem Act.LeavesPower.ring (q v : Nat) : (Act.ring q v).LeavesPower := by simp [Act.ring]
@[simp] theorem Act.LeavesPower.drainStart : Act.drainStart.LeavesPower := by simp [Act.drainStart]

@[simp] theorem Act.LeavesPower.portDown (p cause lane : Nat) : (Act.portDown p cause lane).LeavesPower := by
  simp [Act.portDown]

theorem Act.napWake_keepsBooting : Act.napWake.KeepsBooting := keeps_get fun _ => keeps_seq
  (keeps_when fun _ => keeps_seq (pow_keepsBooting fun _ => ⟨rfl, rfl⟩) (LeavesPower.booting (by simp)))
  (keeps_ite (fun _ => pow_keepsBooting fun _ => ⟨rfl, rfl⟩) fun _ => keeps_when fun _ => (LeavesPower.booting (by simp)))

theorem Act.cairnBegin_keepsBooting (cls cause source detail time epoch : Nat) : (Act.cairnBegin cls cause source detail time epoch).KeepsBooting :=
  have hgo (c : Cairn) : (Act.all [.lifeCount .cairnCount, .napWake, .svc fun v => { v with cairn := some c, cairnRetried := false },
      .cairnOpen c]).KeepsBooting :=
    keeps_seq (LeavesPower.booting (by simp)) <| keeps_seq napWake_keepsBooting <| keeps_seq (LeavesPower.booting (by simp)) <|
      keeps_seq (LeavesPower.booting (by simp)) keeps_skip
  keeps_get fun _ => keeps_ite (fun _ => keeps_get fun _ => keeps_seq (fun _ => rfl) (hgo _)) fun _ => hgo _

theorem Act.fatalTold_keepsBooting (cause source detail time epoch : Nat) : (Act.fatalTold cause source detail time epoch).KeepsBooting :=
  keeps_seq (LeavesPower.booting (by simp)) (keeps_get fun _ => keeps_when fun _ => cairnBegin_keepsBooting _ _ _ _ _ _)

theorem Act.bell_keepsBooting (fn q v : Nat) : (Act.bell fn q v).KeepsBooting := keeps_get fun _ => keeps_ite
  (fun _ => LeavesPower.booting (by simp))
  fun _ => keeps_when fun _ => keeps_seq (LeavesPower.booting (by simp)) (keeps_when fun _ => napWake_keepsBooting)

theorem Act.keptBells_keepsBooting : Act.keptBells.KeepsBooting :=
  keeps_get fun _ => keeps_seq (LeavesPower.booting (by simp)) (keeps_each fun _ _ => bell_keepsBooting _ _ _)

theorem Act.serviceReady_keepsBooting : Act.serviceReady.KeepsBooting :=
  keeps_seq (LeavesPower.booting (by simp)) <| keeps_seq (LeavesPower.booting (by simp)) <| keeps_seq (pow_keepsBooting fun _ => ⟨rfl, rfl⟩) <|
    LeavesPower.booting (by simp)

theorem Act.pressed_keepsBooting : Act.pressed.KeepsBooting := keeps_get fun _ => keeps_when fun _ => keeps_ite
  (fun _ => keeps_seq (LeavesPower.booting (by simp)) <| keeps_seq (LeavesPower.booting (by simp)) <|
    keeps_seq (keeps_ite (fun _ => LeavesPower.booting (by simp)) fun _ => serviceReady_keepsBooting) keeps_skip)
  fun _ => keeps_when fun _ => LeavesPower.booting (by simp)

theorem Act.fatal_keepsBooting (detail : Nat) : (Act.fatal fatalVerify 0 detail).KeepsBooting := keeps_get fun _ => keeps_ite (fun _ => keeps_skip)
  fun _ => keeps_ite (fun _ => LeavesPower.booting (by simp)) fun _ =>
    keeps_seq (LeavesPower.booting (by simp)) <| keeps_seq (pow_keepsBooting fun _ => ⟨rfl, rfl⟩) <| LeavesPower.booting (by simp)

/-! ### The end of a restart -/

section
variable {s : State}

/-- Firmware that verified again goes on. -/
def Act.restartGoesOn (s : State) : Act :=
  .all [.policyAgain 0, .policyAgain 1,
    (match s.u.svc.fatalWaits with
      | some f => .seq (.svc fun v => { v with fatalWaits := none }) (.fatalTold f.1 f.2.1 f.2.2.1 f.2.2.2.1 f.2.2.2.2)
      | none => .skip),
    (match s.u.svc.cairn with
      | some c => .seq (.svc fun v => { v with cairn := some { c with done := [] } }) (.cairnOpen c)
      | none => .skip),
    .keptBells]

/-- Firmware that does not verify again leaves FATAL. -/
def Act.restartFails (s : State) : Act :=
  .seq (.when s.u.svc.fatalWaits.isSome .fatalBare) (.seq (.svc fun v => { v with cairn := none, fatalWaits := none }) (.fatal fatalVerify 0 0))

/-- A press that waited for the restart is acted on. -/
def Act.pressTaken : Act :=
  .get fun s => .when (s.u.svc.pressWaits && !s.u.pow.restarting) (.seq (.svc fun v => { v with pressWaits := false }) (.when s.fwRuns .pressed))

theorem Act.restartGoesOn_keepsBooting (s : State) : (Act.restartGoesOn s).KeepsBooting := by
  have hagain (k : Nat) : (Act.policyAgain k).KeepsBooting := LeavesPower.booting (by simp)
  refine keeps_seq (hagain 0) <| keeps_seq (hagain 1) <| keeps_seq ?_ <| keeps_seq ?_ <| keeps_seq keptBells_keepsBooting keeps_skip
  · split
    · exact keeps_seq (LeavesPower.booting (by simp)) (fatalTold_keepsBooting _ _ _ _ _)
    · exact keeps_skip
  · split <;> exact LeavesPower.booting (by simp)

theorem Act.restartFails_keepsBooting (s : State) : (Act.restartFails s).KeepsBooting :=
  keeps_seq (LeavesPower.booting (by simp)) <| keeps_seq (LeavesPower.booting (by simp)) (fatal_keepsBooting 0)

theorem Act.pressTaken_keepsBooting : Act.pressTaken.KeepsBooting :=
  keeps_get fun _ => keeps_when fun _ => keeps_seq (LeavesPower.booting (by simp)) (keeps_when fun _ => pressed_keepsBooting)

section
variable (hrestart : s.u.pow.restarting = true) (hpower : s.u.pow.power = true) (hperst : s.u.pow.perst = false) (hdeep : s.u.pow.deep = false)
include hrestart hpower hperst hdeep

theorem restartDone_goesOn (hok : s.bootedOk = true) :
    Act.restartDone.run s = (Act.restartGoesOn s).run ((Act.pow fun p => { p with restarting := false }).run s) := by
  rw [Act.restartDone, Act.run_get, hrestart, hpower, hperst, hdeep, hok, if_pos rfl]
  exact Act.run_all_cons _ _ s

theorem restartDone_fails (hbad : s.bootedOk = false) : Act.restartDone.run s = (Act.restartFails s).run
    ((Act.bootFailed s.againFailed).run ((Act.pow fun p => { p with restarting := false, boot := .failed }).run s)) := by
  rw [Act.restartDone, Act.run_get, hrestart, hpower, hperst, hdeep, hbad, if_neg (by decide), Act.restartFails]
  simp only [Bool.not_false, Bool.and_true, Act.when_true, Act.run_all_cons, Act.run_all_nil, Act.run_seq]

theorem restartDone_booting : (Act.restartDone.run s).booting = (false, if s.bootedOk then s.u.pow.boot else .failed) := by
  cases hok : s.bootedOk with
  | true =>
    rw [restartDone_goesOn hrestart hpower hperst hdeep hok]
    exact Act.restartGoesOn_keepsBooting s _
  | false =>
    rw [restartDone_fails hrestart hpower hperst hdeep hok]
    refine (Act.restartFails_keepsBooting s _).trans ?_
    have hstatus : ((Act.reg .bootStatus 0 s.againFailed).run ((Act.pow fun p => { p with restarting := false, boot := .failed }).run s)).u.pow.restarting =
        false := Act.reg_keeps_u (g := fun u => u.pow.restarting) _
    rw [Act.bootFailed, Act.run_seq]
    exact Prod.ext hstatus rfl

/-- Where nothing waited for it, a restart leaves the boot and memory as they were. -/
theorem restartDone_quiet (hok : s.bootedOk = true) (hkept : s.u.host.keptDb = []) (hcairn : s.u.svc.cairn = none)
    (hpress : s.u.svc.pressWaits = false) (hwaits : s.u.svc.fatalWaits = none) :
    SameMem s (Act.restartDone.run s) ∧ (Act.restartDone.run s).u.svc.pressWaits = false := by
  have hagain (k : Nat) {α : Type} {f : State → α} (h : ∀ v, (Act.reg .policyState k v).Keeps f) : (Act.policyAgain k).Keeps f :=
    Act.keeps_get fun _ => Act.keeps_when fun _ => h _
  have hboth {α : Type} {f : State → α} (h : ∀ k v, (Act.reg .policyState k v).Keeps f) (y : State) :
      f ((Act.policyAgain 1).run ((Act.policyAgain 0).run y)) = f y := (hagain 1 (h 1) _).trans (hagain 0 (h 0) y)
  have hu := hboth (f := State.u) (fun _ _ => Act.reg_keeps_u (g := id)) ((Act.pow fun p => { p with restarting := false }).run s)
  have hmem (m : MemSel) (a n : Nat) := hboth (f := fun s => s.rdMem m a n)
    (fun k v y => (Act.touches_reg (l := [(.policyState, k)]) (by simp) y).1 m a n) ((Act.pow fun p => { p with restarting := false }).run s)
  have hrun : Act.restartDone.run s = (Act.policyAgain 1).run ((Act.policyAgain 0).run ((Act.pow fun p => { p with restarting := false }).run s)) := by
    rw [restartDone_goesOn hrestart hpower hperst hdeep hok, Act.restartGoesOn, hwaits, hcairn]
    simp only [Act.run_all_cons, Act.run_all_nil, Act.run_skip]
    exact keptBells_none ((congrArg (·.host.keptDb) hu).trans hkept)
  rw [hrun]
  exact ⟨hmem, (congrArg (·.svc.pressWaits) hu).trans hpress⟩

theorem restartDone_fatal (hbad : s.bootedOk = false) : (Act.restartDone.run s).u.pow.fatal = true ∧
    (s.u.pow.fatal = false → (Act.restartDone.run s).fld .fatalState 0 0 0 16 = 8) := by
  have hkeep : ((Act.bootFailed s.againFailed).run ((Act.pow fun p => { p with restarting := false, boot := .failed }).run s)).u.pow.fatal =
      s.u.pow.fatal ∧ ((Act.bootFailed s.againFailed).run ((Act.pow fun p => { p with restarting := false, boot := .failed }).run s)).u.pow.power =
      s.u.pow.power :=
    ⟨Act.reg_keeps_u (g := fun u => u.pow.fatal) ((Act.pow fun p => { p with restarting := false, boot := .failed }).run s),
      Act.reg_keeps_u (g := fun u => u.pow.power) ((Act.pow fun p => { p with restarting := false, boot := .failed }).run s)⟩
  rw [restartDone_fails hrestart hpower hperst hdeep hbad, Act.restartFails, Act.run_seq, Act.run_seq]
  generalize (Act.bootFailed s.againFailed).run ((Act.pow fun p => { p with restarting := false, boot := .failed }).run s) = y at *
  have hbare : ((Act.svc fun v => { v with cairn := none, fatalWaits := none }).run ((Act.when s.u.svc.fatalWaits.isSome .fatalBare).run y)).u.pow =
      y.u.pow := Act.LeavesPower.keeps (a := .when s.u.svc.fatalWaits.isSome .fatalBare) (by simp) y
  generalize (Act.svc fun v => { v with cairn := none, fatalWaits := none }).run ((Act.when s.u.svc.fatalWaits.isSome .fatalBare).run y) = z at *
  have hpow : z.u.pow.power = true := by rw [hbare, hkeep.2, hpower]
  by_cases hfatal : s.u.pow.fatal = true
  · refine ⟨?_, fun h => absurd (hfatal.symm.trans h) (by decide)⟩
    have hlatched : z.u.pow.fatal = true := by rw [hbare, hkeep.1, hfatal]
    rw [Act.fatal, Act.run_get, hpow, hlatched]
    have hkept := Act.LeavesPower.keeps (a := .seq (.trace 0x0B 0 0 fatalVerify 0) (.satFld .fatalState 0 2 0 16)) (by simp) z
    exact (congrArg PowU.fatal hkept).trans hlatched
  · have hfree : z.u.pow.fatal = false := by rw [hbare, hkeep.1, Bool.eq_false_iff.2 hfatal]
    obtain ⟨hlatch, hcause, -⟩ := fatalCause_enters fatalVerify 0 hpow hfree (by decide)
    exact ⟨hlatch, fun _ => hcause⟩

/-- What the end of a restart leaves, a press that waited included. -/
theorem saddleRestartDone_ends : let t := (Act.seq .restartDone .pressTaken).run s
    t.u.pow.restarting = false ∧ (s.bootedOk = true → s.u.host.keptDb = [] → s.u.svc.cairn = none → s.u.svc.pressWaits = false →
        s.u.svc.fatalWaits = none → t.u.pow.boot = s.u.pow.boot ∧ SameMem s t) ∧
      (s.bootedOk = false → t.u.pow.boot = .failed ∧ t.u.pow.fatal = true ∧ (s.u.pow.fatal = false → t.fld .fatalState 0 0 0 16 = 8)) := by
  have hbooting := (Act.pressTaken_keepsBooting (Act.restartDone.run s)).trans (restartDone_booting hrestart hpower hperst hdeep)
  have hdone := restartDone_booting hrestart hpower hperst hdeep
  rw [Act.run_seq]
  refine ⟨congrArg Prod.fst hbooting, fun hok hkept hcairn hpress hwaits => ⟨?_, ?_⟩, fun hbad => ?_⟩
  · rw [hok] at hbooting
    exact congrArg Prod.snd hbooting
  · obtain ⟨hmem, hno⟩ := restartDone_quiet hrestart hpower hperst hdeep hok hkept hcairn hpress hwaits
    rw [Act.pressTaken, Act.run_get, hno, Bool.false_and, Act.when_false, Act.run_skip]
    exact hmem
  · rw [hbad] at hbooting hdone
    obtain ⟨hfatal, hcause⟩ := restartDone_fatal hrestart hpower hperst hdeep hbad
    generalize Act.restartDone.run s = y at *
    have hstopped : y.fwRuns = false := by
      have hboot : y.u.pow.boot = .failed := congrArg Prod.snd hdone
      rw [State.fwRuns, hboot]
      simp
    have hkept : (Act.pressTaken.run y).u.pow = y.u.pow ∧ (Act.pressTaken.run y).rd .fatalState = y.rd .fatalState := by
      rw [Act.pressTaken, Act.run_get, hstopped, Act.when_false]
      cases y.u.svc.pressWaits && !y.u.pow.restarting with
      | true => exact ⟨rfl, (Act.touches_units (l := []) fun _ => ⟨rfl, rfl⟩).keepsRd (by decide) (by simp) y⟩
      | false => exact ⟨rfl, rfl⟩
    exact ⟨congrArg Prod.snd hbooting, by rw [hkept.1, hfatal], fun h => by rw [State.fld, hkept.2, ← State.fld, hcause h]⟩

end

end

/-- Settles O49: each row by the lemma on the action that it runs. That nothing which follows a restart starts another one, whatever commands
the kept doorbells let run, is `Act.restartGoesOn_keepsBooting`. -/
theorem bootAndRestart : Obligations.BootAndRestart := by
  unfold Obligations.BootAndRestart
  intro s
  refine ⟨fun failed hpower hperst hdeep hnap hmem => ⟨_, rfl, trained_trains _ hpower hperst hdeep hnap hmem⟩, fun hrom h1 h2 => ⟨_, rfl, ?_⟩,
    fun hfw hseen hmem hready hfatal hkept => ⟨_, rfl, deviceReady_readies hfw hseen hmem hready hfatal hkept⟩,
    fun r h hmolt => ⟨_, rfl, saddleRestart_restarts h hmolt⟩, fun hfw hmolt => ⟨_, rfl, watchdogRestart_restarts hfw hmolt⟩,
    fun hrestart hpower hperst hdeep => ⟨_, rfl, saddleRestartDone_ends hrestart hpower hperst hdeep⟩⟩
  exact ⟨fun hok => bootVerify_active hrom h1 h2 hok, fun hbad hok => bootVerify_other hrom h1 h2 hbad hok,
    fun hbad hbad' => bootVerify_fails hrom h1 h2 hbad hbad'⟩

end Sys2Proof.Machine
end
